-- ==== Sys2Proof/Word.lean ====
section
/-! DEFINITION. Word types of the V960 model. -/

namespace Sys2Proof

/-- One byte (R561: everything is little-endian bytes). -/
abbrev Byte := BitVec 8
/-- A 32-bit register or scalar (R218, R561). -/
abbrev W32 := BitVec 32
/-- A binary32 code (R33). -/
abbrev F32 := BitVec 32
/-- A status code of Table 0-3. -/
abbrev Status := BitVec 8
/-- A core number, 0 to 1,279 (R16). -/
abbrev CoreN := Fin 1280
/-- A compute-group number (R17). -/
abbrev GroupN := Fin 16
/-- A partition number (R321). -/
abbrev PartN := Fin 8
/-- A Fennel port (R494). -/
abbrev PortN := Fin 7
/-- A mailbox number (R455). -/
abbrev MboxN := Fin 64
/-- A virtual function (R475). -/
abbrev VfN := Fin 128
/-- A queue pair of a VF (R475). -/
abbrev QpN := Fin 32

end Sys2Proof
end

