-- ==== Sys2Proof/Syntax.lean ====
section
/-! DEFINITION. The commands of the block: one constructor of `Instr` per row of spec/opcode_table.json.
The rows give no bits; the operands are those the rule named in each docstring gives the operation or event.
What only the outside can say (a sensor reading, bytes from host memory, a training outcome) is an operand. -/

namespace Sys2Proof

/-- Origin of a register access (R565, Table 19-2): BAR0 of PF0, the sideband, BAR0 of a VF; BAR2 of PF0 and of a VF
(R575); and an endpoint that reaches Bay by its own path (R456). -/
inductive Origin where
  | pf0 | mgmt | vf (n : VfN) | pf0Bar2 | vfBar2 (n : VfN) | bay (ep : BitVec 5)
  deriving DecidableEq, Repr

/-- Path on which a command arrives: the port of arrival of R443, with what is needed to answer it. -/
inductive Via where
  /-- an operator command in mailbox `n` from PF0, with its TAG (R465) -/
  | mailbox (n : MboxN) (tag : BitVec 16)
  /-- a register write of PF0 -/
  | pf0
  /-- the MGMT command block (R567) -/
  | mgmt
  /-- an entry of a tenant queue pair with its HTAG (R482) -/
  | queue (vf : VfN) (qp : QpN) (htag : W32)
  /-- a DOE instance: `none` is PF0's (R428) -/
  | doe (fn : Option VfN)
  /-- a Fennel port -/
  | fennel (port : PortN)
  /-- the TEST port (R450) -/
  | test
  /-- the partition's own Dill scheduler (R334) -/
  | dill (p : PartN)
  deriving DecidableEq, Repr

/-- Stamp bits of the common header (Table 7-3): S, CYC, TICK. -/
structure Hdr where
  s : Bool
  cyc : BitVec 5
  tick : BitVec 15
  deriving DecidableEq, Repr

/-- A 12-bit descriptor handle; 0 means none (R229). -/
abbrev Handle := BitVec 12
/-- A scalar register field (R234). -/
abbrev SReg := BitVec 5

/-- CBUF fields (Table 7-7). -/
structure CbufF where
  acode : BitVec 2
  slab : BitVec 4
  bslot : BitVec 3
  dir : Bool
  src : Handle
  exp : Handle
  deriving DecidableEq, Repr

/-- CFWD and CTRN fields (Table 7-7). -/
structure ChainF where
  acode : BitVec 2
  chain : BitVec 9
  dst : Handle
  deriving DecidableEq, Repr

/-- CLOAD fields (Table 7-7). -/
structure CloadF where
  macroIx : BitVec 10
  wmode : BitVec 2
  first : BitVec 8
  last : BitVec 8
  src : Handle
  scl : Handle
  deriving DecidableEq, Repr

/-- AMM fields (Table 7-9). -/
structure AmmF where
  cvt : BitVec 2
  prec : BitVec 2
  mode : Bool
  acc : BitVec 2
  init : Bool
  fuse : BitVec 2
  ta : Bool
  tb : Bool
  a : Handle
  b : Handle
  c : Handle
  y : Handle
  ps : Handle
  alpha : SReg
  tid : SReg
  step : SReg
  deriving DecidableEq, Repr

/-- Element-wise fields shared by VARITH, VFUNC, VLOGIC and VCVT (Table 7-10). -/
structure ElemF where
  cvt : BitVec 2
  fn : BitVec 4
  d : Handle
  a : Handle
  b : Handle
  c : Handle
  tid : SReg
  step : SReg
  ss : SReg
  bs : Bool
  deriving DecidableEq, Repr

/-- VRED fields (Table 7-12). -/
structure VredF where
  fn : BitVec 4
  scm : Bool
  blk : BitVec 2
  tgt : Bool
  pfmt : BitVec 4
  d : Handle
  a : Handle
  i : Handle
  ib : SReg
  deriving DecidableEq, Repr

/-- VTOPK fields (Table 7-12). -/
structure VtopkF where
  km1 : BitVec 8
  d : Handle
  a : Handle
  i : Handle
  ib : SReg
  deriving DecidableEq, Repr

/-- VSPLIT fields (Table 7-12). -/
structure VsplitF where
  fn : BitVec 4
  nm1 : BitVec 8
  d : Handle
  a : Handle
  init : Handle
  cnt : SReg
  km1 : BitVec 8
  ai : Handle
  di : Handle
  deriving DecidableEq, Repr

/-- VUPD fields (Table 7-12). -/
structure VupdF where
  kind : Bool
  g : Handle
  w : Handle
  m : Handle
  v : Handle
  hp : Handle
  s : Handle
  n : SReg
  res : SReg
  tid : SReg
  step : SReg
  deriving DecidableEq, Repr

/-- COPY, GATHER and SCATTER fields (Table 7-13). -/
structure ChvF where
  ch : BitVec 2
  ratem1 : BitVec 5
  src : Handle
  dst : Handle
  deriving DecidableEq, Repr

/-- PREFETCH fields (Table 7-13). -/
structure PrefF where
  ch : BitVec 2
  ratem1 : BitVec 5
  dm1 : BitVec 3
  src : Handle
  ring : Handle
  stride : BitVec 32
  deriving DecidableEq, Repr

/-- COMMIT fields (Table 7-13). -/
structure CommitF where
  ch : BitVec 2
  ratem1 : BitVec 5
  src : Handle
  deriving DecidableEq, Repr

/-- XSEND fields (Table 7-14). -/
structure XsendF where
  kind : BitVec 2
  src : Handle
  dcore : BitVec 11
  port : BitVec 3
  dslot : BitVec 9
  doff : BitVec 13
  deriving DecidableEq, Repr

/-- XLATE fields (Table 7-14). -/
structure XlateF where
  slot : BitVec 9
  cntm1 : BitVec 8
  policy : Bool
  deriving DecidableEq, Repr

/-- What an engine queue holds (Table 7-1): an engine instruction, or the fetch of a prefetch ring (R207). -/
inductive EngineOp where
  | cbuf (f : CbufF) | cfwd (f : ChainF) | ctrn (f : ChainF) | cload (f : CloadF)
  | amm (f : AmmF)
  | varith (f : ElemF) | vfunc (f : ElemF) | vlogic (f : ElemF) | vcvt (f : ElemF)
  | vred (f : VredF) | vtopk (f : VtopkF) | vsplit (f : VsplitF) | vupd (f : VupdF)
  | copy (f : ChvF) | gather (f : ChvF) | scatter (f : ChvF)
  | prefetch (f : PrefF) | commit (f : CommitF)
  | xsend (f : XsendF) | xlate (f : XlateF)
  /-- fetch `j` of the ring that `f` set up (R207, R254) -/
  | ringFetch (f : PrefF) (j : Nat)
  deriving DecidableEq, Repr

/-- Error events of a launch that only the memories know (R190, R544). -/
inductive MemEvent where
  /-- a burst of the page failed its CRC and the retry passed -/
  | retried (gpage : Nat)
  /-- a burst of the page is delivered as received, with these bytes: its CRC failed again on the retry -/
  | uncorrected (gpage burst : Nat) (bytes : List Byte)
  /-- a burst of the page is delivered as received, with these bytes: the die reported an error that it could not correct -/
  | dieError (gpage burst : Nat) (bytes : List Byte)
  /-- a single-bit SECDED error, corrected in place -/
  | corrected
  /-- a double-bit error in a core table or the scratchpad; the table code -/
  | doubleCore (table : BitVec 32)
  /-- a double-bit error in cache line (set, way) -/
  | doubleLine (set way : Nat)
  deriving DecidableEq, Repr

/-- A partition for which the block reads its stacks, and the error events of those reads (R190). -/
structure PartReads where
  part : PartN
  mem : List MemEvent
  deriving DecidableEq, Repr

/-- A load window of a partition: the error events of its reads, and a core whose table write failed its complement check
(Table 9-6). -/
structure LoadWin where
  part : PartN
  mem : List MemEvent
  badWrite : Option CoreN
  deriving DecidableEq, Repr

/-- A read of a lock register by an endpoint, with the other endpoints whose reads reach the lock in the same cycle (R460). -/
structure LockRead where
  ep : BitVec 5
  others : List (BitVec 5)
  deriving DecidableEq, Repr

/-- One encrypted submission entry as read from host memory (Table 15-3), with the records it carries. -/
structure SqEntry where
  records : BitVec 8
  htag : W32
  slot : BitVec 16
  hdr : List Byte
  cipher : List Byte
  tag : List Byte
  recs : List (List Byte)
  deriving DecidableEq, Repr

/-- What a port reports at the end of its training (R496, R447, R271): the peer and the measured delay. -/
structure PortInfo where
  port : PortN
  linkOk : Bool
  authOk : Bool
  engChain : Bool
  peerSlot : BitVec 3
  serial : BitVec 64
  peerMaster : Option (BitVec 3)
  delay : BitVec 16
  loadC : BitVec 16
  resid : BitVec 16
  masterTick : BitVec 64
  deriving DecidableEq, Repr

/-- A translation invalidation of the host (R481): the address, and whether the host's tables still map its page afterwards. -/
structure AtsInv where
  iova : BitVec 64
  mapped : Bool
  deriving DecidableEq, Repr

/-- Negotiated CXL link (Table 15-6). -/
structure LinkCfg where
  width : BitVec 5
  rate : BitVec 3
  vfs : BitVec 7
  deriving DecidableEq, Repr

/-- What the parts outside the model's reach answer during start-up (Table 17-3). -/
structure StartEnv where
  selfTestOk : Bool
  fuseOk : Bool
  /-- 0 accepted; else the cause of SYS_RECOVERY.CAUSE: 1 signature, 2 SVN, 3 grade, 4 erased -/
  image : BitVec 3
  imageSvn : BitVec 7
  imageVersion : W32
  loaderVersion : W32
  romDigest : BitVec 384
  fwDigest : BitVec 384
  rosemaryOk : Bool
  pllOk : Bool
  badChannel : Option (Fin 192)
  /-- macros fused off or failing BIST -/
  badMacros : List Nat
  cacheOk : Bool
  ports : List PortInfo
  perstHigh : Bool
  slot : BitVec 3
  cxl : Option LinkCfg
  svnOk : Bool
  deriving DecidableEq, Repr

/-- TRAIN request fields (Table 12-1). -/
structure TrainF where
  context : BitVec 16
  teacher : BitVec 16
  steps : BitVec 32
  globalMb : BitVec 16
  ckptPeriod : BitVec 16
  snapPeriod : BitVec 16
  resume : Bool
  jobTag : W32
  deriving DecidableEq, Repr

/-- A Fennel packet of type DATA, PIPE or CKPT with the fields of Table 16-2 that its delivery uses. -/
structure Packet where
  seq : BitVec 16
  ack : BitVec 16
  nak : Bool
  protectedMode : Bool
  intact : Bool
  cells : BitVec 5
  dpart : PartN
  spart : PartN
  dcore : BitVec 11
  dslot : BitVec 9
  doff : BitVec 13
  step : W32
  counter : BitVec 64
  cipher : List Byte
  tag : List Byte
  last : Bool
  /-- FEC codewords of the packet that could not be corrected, and FEC symbols that were -/
  badWords : Nat
  fixed : Nat
  deriving DecidableEq, Repr

/-- Tokens produced for a request in a step, and the flag that the step ends the request (R485). -/
structure StepOut where
  htag : W32
  queue : Nat
  tokens : List W32
  deriving DecidableEq, Repr

/-- The commands, one constructor per row of spec/opcode_table.json. -/
inductive Instr where
  -- Avman sequencer instructions issued by the sequencer of a core (Table 7-5)
  | nop (c : CoreN)
  | endJob (c : CoreN)
  | loop (c : CoreN) (h : Hdr) (cnt : SReg) (last : BitVec 14) (period : BitVec 16)
  | tile (c : CoreN) (h : Hdr) (save resume : BitVec 14)
  | budget (c : CoreN) (h : Hdr) (q : BitVec 8) (span : BitVec 16)
  | waitq (c : CoreN) (queue : BitVec 3) (depth : BitVec 7)
  | dstep (c : CoreN)
  | sli (c : CoreN) (d : SReg) (imm : W32)
  | sadd (c : CoreN) (d a b : SReg)
  | saddi (c : CoreN) (d a : SReg) (imm : W32)
  | ssub (c : CoreN) (d a b : SReg)
  | smul (c : CoreN) (d a b : SReg)
  | sand (c : CoreN) (d a b : SReg)
  | sor (c : CoreN) (d a b : SReg)
  | sxor (c : CoreN) (d a b : SReg)
  | sshl (c : CoreN) (d a b : SReg)
  | sshr (c : CoreN) (d a b : SReg)
  | smin (c : CoreN) (d a b : SReg)
  | smax (c : CoreN) (d a b : SReg)
  | sld (c : CoreN) (d a : SReg) (imm : W32)
  | sst (c : CoreN) (d a : SReg) (imm : W32)
  | sidx (c : CoreN) (d : SReg) (level : BitVec 2)
  | sfeat (c : CoreN) (d : SReg) (index : BitVec 6)
  | reservedOpcode (c : CoreN)
  -- engine instructions at issue (Table 7-1)
  | cbuf (c : CoreN) (h : Hdr) (f : CbufF)
  | cfwd (c : CoreN) (h : Hdr) (f : ChainF)
  | ctrn (c : CoreN) (h : Hdr) (f : ChainF)
  | cload (c : CoreN) (h : Hdr) (f : CloadF)
  | amm (c : CoreN) (h : Hdr) (f : AmmF)
  | varith (c : CoreN) (h : Hdr) (f : ElemF)
  | vfunc (c : CoreN) (h : Hdr) (f : ElemF)
  | vlogic (c : CoreN) (h : Hdr) (f : ElemF)
  | vcvt (c : CoreN) (h : Hdr) (f : ElemF)
  | vred (c : CoreN) (h : Hdr) (f : VredF)
  | vtopk (c : CoreN) (h : Hdr) (f : VtopkF)
  | vsplit (c : CoreN) (h : Hdr) (f : VsplitF)
  | vupd (c : CoreN) (h : Hdr) (f : VupdF)
  | copy (c : CoreN) (h : Hdr) (f : ChvF)
  | gather (c : CoreN) (h : Hdr) (f : ChvF)
  | scatter (c : CoreN) (h : Hdr) (f : ChvF)
  | prefetch (c : CoreN) (h : Hdr) (f : PrefF)
  | commit (c : CoreN) (h : Hdr) (f : CommitF)
  | xsend (c : CoreN) (h : Hdr) (f : XsendF)
  | xlate (c : CoreN) (h : Hdr) (f : XlateF)
  -- launch, completion, loops, tiles, steps
  | instructionLaunch (c : CoreN) (q : Fin 5) (mem : List MemEvent)
  | instructionComplete (c : CoreN) (q : Fin 5)
  | loopIterationStart (c : CoreN)
  | tileBoundary (p : PartN)
  | dstepResume (c : CoreN)
  | commitComplete (c : CoreN) (ch : Fin 4)
  | cacheFill (w : PartReads) (gpage : Nat)
  -- integrity
  | scrubRead (g : GroupN)
  | reloadWindow (w : PartReads)
  | auditStart (p : PartN)
  | auditPeriodExpiry (p : PartN)
  | mintEvaluation (g : GroupN)
  -- governor and throttle; `rail` is the array-rail monitor in q
  | committedCurrentUpdate (rail : Nat)
  | lendingEnable (v c : W32)
  | loanGrantEnd (p : PartN)
  | throttleStep (celsius : Nat)
  | thermalTrip (celsius : Nat)
  | throttleFloorWrite (v : W32)
  | throttleLevelApply
  | tickRealign (roundTrip turnaround : Nat) (resid : BitVec 16)
  | tickMasterSettleTimeout
  -- loader
  | load (via : Via) (p : PartN) (image : Fin 2) (force : Bool) (first : Nat) (len : Nat) (reply : Nat)
  | loadComplete (p : PartN)
  | loadWindow (w : LoadWin)
  -- partitions and jobs
  | partitionCommitRequest (v c : W32)
  | commitTick
  | release (via : Via) (p : PartN)
  | releaseComplete (p : PartN)
  | jobStart (via : Via) (p : PartN) (image : Fin 2)
  | jobSuspend (via : Via) (p : PartN) (image : Fin 2)
  | jobSwitch (via : Via) (p : PartN) (image : Fin 2)
  | jobStop (via : Via) (p : PartN) (image : Fin 2)
  | jobUnload (via : Via) (p : PartN) (image : Fin 2)
  | jobYield (p : PartN)
  | jobResume (p : PartN)
  | resumeTick (p : PartN)
  -- contexts
  | ctxCreate (via : Via) (p : PartN) (kind : BitVec 2) (rank : BitVec 8) (proj : BitVec 7) (seed : Option (BitVec 64)) (stream : Option W32)
  | ctxBind (via : Via) (ctx : BitVec 16) (vf : BitVec 7) (qmask : W32)
  | ctxAdopt (via : Via) (ctx : BitVec 16) (state : Bool) (handle : W32)
  | ctxReleaseSnap (via : Via) (ctx : BitVec 16) (handle : W32)
  | ctxCompose (via : Via) (a b : BitVec 16)
  | ctxSeed (via : Via) (ctx : BitVec 16) (seed : BitVec 64) (stream : W32)
  | ctxSetkey (via : Via) (ctx : BitVec 16) (key : BitVec 256)
  | ctxImport (via : Via) (ctx : BitVec 16) (image : List Byte)
  | ctxExport (via : Via) (ctx : BitVec 16) (state : Bool) (addr len : BitVec 64)
  | ctxQuery (via : Via) (ctx : BitVec 16)
  | ctxRebase (via : Via) (ctx : BitVec 16)
  | ctxWithdraw (via : Via) (ctx : BitVec 16)
  | ctxDelete (via : Via) (ctx : BitVec 16)
  | ctxDeleteComplete (ctx : BitVec 16)
  -- serving
  | stepPosting (p : PartN)
  | stepEnd (p : PartN) (outs : List StepOut)
  | adapterStaging (p : PartN)
  | stagingComplete (p : PartN)
  | baseStage (via : Via) (p : PartN) (pages : Nat)
  | baseInstall (via : Via) (p : PartN) (first count : Nat)
  | baseReplace (via : Via) (p : PartN)
  | pipePairingWrite (p : PartN) (v c : W32)
  | pipePairingApply (p : PartN)
  | buddyConfig (p : PartN) (v c : W32)
  | dpConfig (p : PartN) (dp dpC ports portsC : W32)
  -- training
  | train (via : Via) (f : TrainF)
  | trainData (via : Via) (ctx : BitVec 16) (jobTag : W32) (j : BitVec 16) (tokens : List W32)
  | dillTrainingSwitch (p : PartN)
  | trainingSegmentPosting (p : PartN)
  | checkpointPageCopy (w : PartReads)
  | checkpointClose (p : PartN)
  | presenceDecision (p : PartN)
  | rankLeaveDeadline (p : PartN)
  -- SPDM and sessions; `fn` is the DOE instance
  | getVersion (fn : Option VfN)
  | getCapabilities (fn : Option VfN)
  | negotiateAlgorithms (fn : Option VfN) (baseHash sig kex aead : Bool)
  | getDigests (fn : Option VfN)
  | getCertificate (fn : Option VfN) (slot : BitVec 8)
  | challenge (fn : Option VfN) (slot : BitVec 8) (nonce : BitVec 256)
  | keyExchange (fn : Option VfN) (encapKey : List Byte)
  | finish (fn : Option VfN) (verifyData : BitVec 384)
  | endSession (fn : Option VfN)
  | keyUpdate (fn : Option VfN)
  | heartbeat (fn : Option VfN)
  | heartbeatMissed (fn : Option VfN)
  | tenantClaim (vf : VfN) (cred : BitVec 256)
  | tenantProve (vf : VfN) (mac : BitVec 384)
  | qrekey (vf : VfN) (qp : QpN)
  | attest (via : Via) (tenantForm : Bool) (nonce : BitVec 256) (firstCtx : BitVec 16) (reply : Nat)
  | tenantSet (via : Via) (tenant quota : BitVec 16) (mask : BitVec 8)
  | tenantRevoke (via : Via) (tenant : BitVec 16)
  | vfAssign (via : Via) (vf : VfN) (tenant : BitVec 16)
  | debugChallenge (via : Via)
  | debugUnlock (via : Via) (scope : BitVec 8) (sig : List Byte)
  | debugNonceExpiry
  | signingToken
  | perBootTreeCertify
  | successorTreeReady
  | drbgReseed
  | sageSensorEvent (sensor : Fin 6)
  -- Bay; `ep` is the endpoint number of the access (R456)
  | bayLockRead (r : LockRead) (n : MboxN)
  | bayRelease (ep : BitVec 5) (n : MboxN)
  | bayDoorbell (ep : BitVec 5) (n : MboxN)
  | bayAck (ep : BitVec 5) (n : MboxN) (status : Status) (value : BitVec 24)
  | bayTimeoutExpiry (n : MboxN)
  | bayWakeComplete (n : MboxN)
  | bayLockBreak (n : MboxN)
  -- operator commands of the module
  | zeroise (via : Via)
  | powerOff (via : Via)
  | fwUpdate (via : Via) (first len : Nat)
  | fwProgramComplete (readBackOk : Bool)
  | telemetry (via : Via) (reply : Nat)
  | exportCmd (via : Via) (ctx : BitVec 16) (state : Bool)
  | exportComplete (area : Fin 16)
  | exportRelease (via : Via) (area : Fin 16)
  -- tenant queues and the CXL link
  | sqDoorbell (vf : VfN) (qp : QpN) (tail : BitVec 12) (entries : List SqEntry)
  | generate (via : Via) (ctx : BitVec 16) (total : Nat) (maxNew stop : W32) (params : List Byte) (prompt : List W32)
  | cancel (via : Via) (htag : W32)
  | cqHeadWrite (vf : VfN) (qp : QpN) (head : BitVec 12)
  | d2hHeadWrite (vf : VfN) (qp : QpN) (head : BitVec 10)
  | interruptDelayExpiry (vf : VfN) (qp : QpN)
  | queuePairEnable (vf : VfN) (qp : QpN) (v : W32)
  | atsInvalidation (vf : VfN) (inv : AtsInv)
  | windowRead (frame : BitVec 20) (off : BitVec 16)
  | windowWrite (frame : BitVec 20) (off : BitVec 16) (data : List Byte)
  | cxlLinkDown
  | pf0Flr
  | vfFlr (vf : VfN)
  -- Fennel
  | dataPacket (port : PortN) (pkt : Packet)
  | pipePacket (port : PortN) (pkt : Packet)
  | ckptPacket (port : PortN) (pkt : Packet)
  | bayPacket (port : PortN) (write : Bool) (off : BitVec 8) (data : W32)
  | packetNak (port : PortN) (seq : BitVec 16)
  | ident (port : PortN) (slot : BitVec 3) (serial : BitVec 64) (settled : Option (BitVec 3)) (engChain : Bool) (chain sig : List Byte)
  | kemKey (port : PortN) (key : List Byte)
  | kemCt (port : PortN) (ct : List Byte)
  | keyAt (port : PortN) (tick : BitVec 64)
  | linkKeySwitch (port : PortN)
  | modePropose (port : PortN) (mode : BitVec 2) (tick : BitVec 64)
  | modeAccept (port : PortN)
  | modeReject (port : PortN)
  | linkModeSwitch (port : PortN)
  | modeProposeRetry (port : PortN)
  | pipeBind (port : PortN) (student : PartN)
  | pipeUnbind (port : PortN) (student : PartN)
  | leave (port : PortN) (rank : BitVec 3) (jobTag : W32)
  | alignReq (port : PortN) (tick : BitVec 64) (cyc : BitVec 8)
  | alignRsp (port : PortN) (sent received : BitVec 64) (turnaround : Nat)
  | levelReq (port : PortN) (level : BitVec 4)
  | levelSet (port : PortN) (level : BitVec 4) (tick : BitVec 64)
  | reject (port : PortN) (seq : BitVec 16)
  | fennelPortDown (port : PortN) (kind : BitVec 3)
  | portRetrainTimer (port : PortN)
  | portTrainingComplete (info : PortInfo)
  | fnlRetrain (mask : BitVec 7)
  | fnlRekey (mask : BitVec 7)
  | linkCounterRekey (port : PortN)
  | fnlModeWrite (v c : W32)
  | fennelShareWrite (port : PortN) (hi : Bool) (v : W32)
  -- power, clock, reset
  | powerGoodRise (env : StartEnv)
  | powerGoodLoss
  | perstAssert (env : StartEnv)
  | perstDeassert (cxl : Option LinkCfg)
  | rstModuleRequest (v c : W32) (env : StartEnv)
  | partitionReset (p : PartN) (status : Status)
  | railFault (domain : Fin 24)
  | rootPllLockLoss
  | referenceLoss
  | powerDomainSwitch (v : W32)
  | zeroisationComplete
  | sysRecoveryCommit
  | sysRecoveryData (w : W32)
  | recoveryProgramComplete (readBackOk : Bool) (env : StartEnv)
  | dillWatchdogExpiry (p : PartN)
  | rosemaryWatchdogExpiry
  | lifeHourUpdate (celsius : Nat)
  | pairLatchTimeout
  -- register accesses
  | loHalfRead (o : Origin) (off : BitVec 28)
  | rcRead (o : Origin) (off : BitVec 28)
  | registerWrite (o : Origin) (off : BitVec 28) (data : List Byte) (env : StartEnv)
  | ctxImportComplete (ctx : BitVec 16)
  | ctxExportComplete (ctx : BitVec 16)
  | wayZeroisationComplete (p : PartN)
  | groupZeroisationComplete (g : GroupN)
  | thermtripDeassert (celsius : Nat)
  | referenceRestored
  | cxlLinkTrained (cfg : LinkCfg)
  | hostSnoop (addr : BitVec 64)
  | ideKm (enable : Bool)
  | configurationRequest (fn : Option VfN)
  | refusedRead (o : Origin) (off : BitVec 28) (width : Nat)
  deriving DecidableEq, Repr

end Sys2Proof
end

