-- ==== Sys2Proof/Machine/Numbers.lean ====
section
/-! DEFINITION. The twelve number formats, their rounding, conversion, scales and random bits (chapter 2). -/

namespace Sys2Proof.Machine

/-- The formats of Table 2-1. -/
inductive Fmt where
  | fp32 | bf16 | fp16 | e5m2 | e4m3 | e2m1 | int8 | int32 | e8m0 | w1 | w2 | w4
  deriving DecidableEq, Repr

/-- Format codes of Table 2-1; 0xC to 0xF are reserved (R30). -/
def Fmt.ofCode : Nat → Option Fmt
  | 0 => some .fp32 | 1 => some .bf16 | 2 => some .fp16 | 3 => some .e5m2
  | 4 => some .e4m3 | 5 => some .e2m1 | 6 => some .int8 | 7 => some .int32
  | 8 => some .e8m0 | 9 => some .w1 | 10 => some .w2 | 11 => some .w4
  | _ => none

/-- Bits of one element (Table 2-1). -/
def Fmt.bits : Fmt → Nat
  | .fp32 | .int32 => 32 | .bf16 | .fp16 => 16
  | .e5m2 | .e4m3 | .int8 | .e8m0 => 8 | .e2m1 | .w4 => 4 | .w2 => 2 | .w1 => 1

/-- The six floating-point formats of Table 2-3. -/
def Fmt.isFloat : Fmt → Bool
  | .fp32 | .bf16 | .fp16 | .e5m2 | .e4m3 | .e2m1 => true
  | _ => false

/-- Exponent bits (Table 2-3); 0 outside the floating-point formats. -/
def Fmt.expBits : Fmt → Nat
  | .fp32 | .bf16 => 8 | .fp16 | .e5m2 => 5 | .e4m3 => 4 | .e2m1 => 2 | _ => 0

/-- Fraction bits m (Table 2-3). -/
def Fmt.frac : Fmt → Nat
  | .fp32 => 23 | .bf16 => 7 | .fp16 => 10 | .e5m2 => 2 | .e4m3 => 3 | .e2m1 => 1 | _ => 0

/-- Bias (Table 2-3). -/
def Fmt.bias : Fmt → Int
  | .fp32 | .bf16 => 127 | .fp16 | .e5m2 => 15 | .e4m3 => 7 | .e2m1 => 1 | _ => 0

/-- emin = 1 - bias (Table 2-3). -/
def Fmt.emin (f : Fmt) : Int := 1 - f.bias

/-- Sign bit of a floating-point code. -/
def Fmt.signBit (f : Fmt) : Nat := 2 ^ (f.bits - 1)

/-- Code of the largest finite value (Table 2-3); for the integer formats the largest magnitude (R36). -/
def Fmt.maxCode : Fmt → Nat
  | .fp32 => 0x7F7FFFFF | .bf16 => 0x7F7F | .fp16 => 0x7BFF | .e5m2 => 0x7B
  | .e4m3 => 0x7E | .e2m1 => 7 | .int8 => 127 | .int32 => 2 ^ 31 - 1
  | _ => 0

/-- Infinity code of positive sign, where the format has one (Table 2-3). -/
def Fmt.infCode : Fmt → Option Nat
  | .fp32 => some 0x7F800000 | .bf16 => some 0x7F80 | .fp16 => some 0x7C00 | .e5m2 => some 0x7C
  | _ => none

/-- Canonical NaN, where the format has one (Table 2-3, R40). -/
def Fmt.nanCode : Fmt → Option Nat
  | .fp32 => some 0x7FC00000 | .bf16 => some 0x7FC0 | .fp16 => some 0x7E00
  | .e5m2 => some 0x7E | .e4m3 => some 0x7F | _ => none

/-- Scale emax of Table 2-3; 6 for INT8 (R51). DESIGN CHOICE (log 102): the table gives none for the other formats, into which
an unverified program may drain a scaled tile (R127 is a check of the loader alone); the model takes 0, and an exponent above
126 gives the code 0xFF without the tile flag. -/
def Fmt.scaleEmax : Fmt → Int
  | .e5m2 => 15 | .e4m3 => 8 | .e2m1 => 2 | .int8 => 6 | _ => 0

/-- An exact value: NaN, an infinity, or (-1)^neg · mag · 2^exp (a zero keeps its sign). -/
inductive RVal where
  | nan
  | inf (neg : Bool)
  | fin (neg : Bool) (mag : Nat) (exp : Int)
  deriving DecidableEq, Repr

/-- +0 -/
def RVal.zero : RVal := .fin false 0 0

/-- An integer as an exact value. -/
def RVal.ofInt (z : Int) : RVal := .fin (decide (z < 0)) z.natAbs 0

/-- Low `n` bits as two's complement. -/
def signed (n code : Nat) : Int :=
  let c := code % 2 ^ n
  if c < 2 ^ (n - 1) then (c : Int) else (c : Int) - (2 ^ n : Nat)

/-- Two's complement code of `z` in `n` bits. -/
def twosComp (n : Nat) (z : Int) : Nat := (z % ((2 ^ n : Nat) : Int)).toNat

/-- Value of a weight or integer code (R36, Table 2-5). -/
def Fmt.intValue (f : Fmt) (code : Nat) : Int :=
  match f with
  | .w1 => if code % 2 = 0 then 1 else -1
  | .w2 => signed 2 code
  | .w4 => signed 4 code
  | .int8 => signed 8 code
  | .int32 => signed 32 code
  | _ => 0

/-- Value of a code (R33, R34, R35, R36). -/
def Fmt.value (f : Fmt) (code0 : Nat) : RVal :=
  let code := code0 % 2 ^ f.bits
  if f.isFloat then
    let neg := decide (f.signBit ≤ code)
    let m := code % f.signBit
    let e := m / 2 ^ f.frac
    let fr := m % 2 ^ f.frac
    if f.infCode = some m then .inf neg
    else if f.infCode.isSome ∧ e = 2 ^ f.expBits - 1 then .nan
    else if f = .e4m3 ∧ m = 0x7F then .nan
    else if e = 0 then .fin neg fr (f.emin - f.frac)
    else .fin neg (fr + 2 ^ f.frac) ((e : Int) - f.bias - f.frac)
  else if f = .e8m0 then
    if code = 0xFF then .nan else .fin false 1 ((code : Int) - 127)
  else RVal.ofInt (f.intValue code)

/-- floor_log2 of mag · 2^exp, for mag above 0. -/
def floorLog2 (mag : Nat) (exp : Int) : Int := (Nat.log2 mag : Int) + exp

/-- Conversion control of R42: overflow mode and rounding mode. -/
structure Cvt where
  strict : Bool
  sr : Bool
  deriving DecidableEq, Repr

/-- Decoding of the 2-bit control field (R42). -/
def Cvt.ofBits (b : BitVec 2) : Cvt := ⟨b.getLsbD 0, b.getLsbD 1⟩

/-- RNE with CLAMP. -/
def Cvt.rne : Cvt := ⟨false, false⟩

/-- `n` of round_to_format (R43): mag · 2^sh rounded to an integer. -/
def roundInt (sr : Bool) (r mag : Nat) (sh : Int) : Nat :=
  if 0 ≤ sh then mag * 2 ^ sh.toNat
  else
    let d := 2 ^ (-sh).toNat
    let n := mag / d
    let rem := mag % d
    if sr then n + (rem * 65536 / d + r % 65536) / 65536
    else if d < 2 * rem ∨ (2 * rem = d ∧ n % 2 = 1) then n + 1 else n

/-- What a finite overflow writes (Table 2-6): code and tile flag. -/
def overflowCode (f : Fmt) (c : Cvt) (neg : Bool) : Nat × Bool :=
  match f with
  | .int8 => (if neg then 0x80 else 0x7F, c.strict)
  | .int32 => (if neg then 0x80000000 else 0x7FFFFFFF, c.strict)
  | .e4m3 => if c.strict then (0x7F, true) else (if neg then 0xFE else 0x7E, false)
  | .e2m1 => (if neg then 0xF else 7, c.strict)
  | _ => ((f.infCode.getD 0) + (if neg then f.signBit else 0), true)

/-- round_to_format of a finite nonzero value, as code and tile flag (R41, R43, R44, R45). -/
def roundCode (f : Fmt) (c : Cvt) (r : Nat) (neg : Bool) (mag : Nat) (exp : Int) : Nat × Bool :=
  if f.isFloat then
    let k := max (floorLog2 mag exp) f.emin - f.frac
    let n := roundInt c.sr r mag (exp - k)
    let code := (k - (f.emin - f.frac)).toNat * 2 ^ f.frac + n
    if f.maxCode < code then overflowCode f c neg
    else (code + (if neg then f.signBit else 0), false)
  else
    let n := roundInt c.sr r mag exp
    if (if neg then f.maxCode + 1 else f.maxCode) < n then overflowCode f c neg
    else (twosComp f.bits (if neg then -(n : Int) else n), false)

/-- Conversion of an exact value into a format, with Table 2-6 for special inputs: code and tile flag. -/
def convert (f : Fmt) (c : Cvt) (r : Nat) (v : RVal) : Nat × Bool :=
  match v with
  | .nan => (match f with | .e2m1 | .int8 | .int32 => 0 | _ => f.nanCode.getD 0, true)
  | .inf neg =>
    match f with
    | .int8 | .int32 | .e2m1 => ((overflowCode f c neg).1, true)
    | .e4m3 => ((overflowCode f c neg).1, true)
    | _ => ((f.infCode.getD 0) + (if neg then f.signBit else 0), true)
  | .fin neg mag exp =>
    if mag = 0 then (if f.isFloat && neg then f.signBit else 0, false)
    else roundCode f c r neg mag exp

/-- Conversion to binary32 with RNE. -/
def toF32 (v : RVal) : Nat × Bool := convert .fp32 Cvt.rne 0 v

/-- Canonical NaN of binary32. -/
def nanF32 : Nat := 0x7FC00000

/-- Value of a binary32 code. -/
def f32 (code : Nat) : RVal := Fmt.value .fp32 code

/-- Exact sum (R38). -/
def RVal.add : RVal → RVal → RVal
  | .nan, _ | _, .nan => .nan
  | .inf a, .inf b => if a = b then .inf a else .nan
  | .inf a, _ => .inf a
  | _, .inf b => .inf b
  | .fin a m e, .fin b n g =>
    let k := min e g
    let x : Int := (m * 2 ^ (e - k).toNat : Nat)
    let y : Int := (n * 2 ^ (g - k).toNat : Nat)
    let z := (if a then -x else x) + (if b then -y else y)
    if z = 0 then .fin (a && b) 0 0 else .fin (decide (z < 0)) z.natAbs k

/-- Negation (sign bit only, R40). -/
def RVal.neg : RVal → RVal
  | .nan => .nan
  | .inf a => .inf (!a)
  | .fin a m e => .fin (!a) m e

/-- Exact product (R38). -/
def RVal.mul : RVal → RVal → RVal
  | .nan, _ | _, .nan => .nan
  | .inf a, .inf b => .inf (a != b)
  | .inf a, .fin b n _ => if n = 0 then .nan else .inf (a != b)
  | .fin a m _, .inf b => if m = 0 then .nan else .inf (a != b)
  | .fin a m e, .fin b n g => .fin (a != b) (m * n) (e + g)

/-- Product by 2^k, exact. -/
def RVal.scale (v : RVal) (k : Int) : RVal :=
  match v with
  | .fin a m e => .fin a m (e + k)
  | v => v

/-- Quotient; the magnitude carries at least 66 bits and a sticky bit, so that one rounding to any format of Table 2-3
is that of the exact quotient. -/
def RVal.div : RVal → RVal → RVal
  | .nan, _ | _, .nan => .nan
  | .inf _, .inf _ => .nan
  | .inf a, .fin b _ _ => .inf (a != b)
  | .fin a _ _, .inf b => .fin (a != b) 0 0
  | .fin a m e, .fin b n g =>
    if n = 0 then (if m = 0 then .nan else .inf (a != b))
    else if m = 0 then .fin (a != b) 0 0
    else
      let num := m * 2 ^ (66 + n.log2)
      let q := num / n
      .fin (a != b) (2 * q + (if num % n = 0 then 0 else 1)) (e - g - (66 + n.log2 : Nat) - 1)

/-- Integer square root by bisection on `fuel` bits. -/
def natSqrtAux : Nat → Nat → Nat → Nat
  | 0, _, acc => acc
  | fuel + 1, n, acc =>
    let t := acc + 2 ^ fuel
    natSqrtAux fuel n (if t * t ≤ n then t else acc)

/-- floor of the square root. -/
def natSqrt (n : Nat) : Nat := natSqrtAux (n.log2 / 2 + 1) n 0

/-- Square root with sticky bit (as `RVal.div`); of a negative value NaN, of -0 the same zero (R38). -/
def RVal.sqrt : RVal → RVal
  | .nan => .nan
  | .inf a => if a then .nan else .inf false
  | .fin a m e =>
    if m = 0 then .fin a 0 0
    else if a then .nan
    else
      let par := (e % 2).toNat
      let m2 := m * 2 ^ (par + 160)
      let q := natSqrt m2
      .fin false (2 * q + (if q * q = m2 then 0 else 1)) ((e - par) / 2 - 80 - 1)

/-- |x| -/
def RVal.abs : RVal → RVal
  | .nan => .nan
  | .inf _ => .inf false
  | .fin _ m e => .fin false m e

/-- Is the value NaN? -/
def RVal.isNan : RVal → Bool
  | .nan => true
  | _ => false

/-- Is the value NaN or an infinity? -/
def RVal.special : RVal → Bool
  | .fin _ _ _ => false
  | _ => true

/-- Is the value a zero? -/
def RVal.isZero : RVal → Bool
  | .fin _ m _ => m == 0
  | _ => false

/-- Sign of the exact difference x - y of two values neither of which is NaN. -/
def RVal.cmp : RVal → RVal → Ordering
  | .nan, _ | _, .nan => .eq
  | .inf a, .inf b => if a = b then .eq else if a then .lt else .gt
  | .inf a, _ => if a then .lt else .gt
  | _, .inf b => if b then .gt else .lt
  | .fin a m e, .fin b n g =>
    let k := min e g
    let x : Int := (m * 2 ^ (e - k).toNat : Nat)
    let y : Int := (n * 2 ^ (g - k).toNat : Nat)
    compare (if a then -x else x) (if b then -y else y)

/-- IEEE less-than; false with a NaN (R38). -/
def RVal.lt (x y : RVal) : Bool := !x.isNan && !y.isNan && x.cmp y == .lt
/-- IEEE equality; false with a NaN (R38). -/
def RVal.eq (x y : RVal) : Bool := !x.isNan && !y.isNan && x.cmp y == .eq

/-- binary32 sum with one RNE rounding. -/
def addF32 (x y : Nat) : Nat := (toF32 ((f32 x).add (f32 y))).1
/-- binary32 product with one RNE rounding. -/
def mulF32 (x y : Nat) : Nat := (toF32 ((f32 x).mul (f32 y))).1
/-- binary32 difference with one RNE rounding. -/
def subF32 (x y : Nat) : Nat := (toF32 ((f32 x).add (f32 y).neg)).1
/-- Is the binary32 code NaN or an infinity? -/
def specialF32 (x : Nat) : Bool := (f32 x).special

/-! ### Scales (R48 to R51) -/

/-- derive_scale (R51) for an exact MAXABS with given scale emax and largest finite value `maxMag · 2^maxExp`;
`none`: the exponent exceeds 126 (only an exact folded MAXABS can do this, R75). -/
def deriveScaleWith (emax : Int) (maxMag : Nat) (maxExp : Int) (m : RVal) : Option Nat :=
  match m with
  | .fin _ mag exp =>
    if mag = 0 then some 0x7F
    else
      let e := floorLog2 mag exp - emax
      let e := if (RVal.fin false mag (exp - e)).cmp (.fin false maxMag maxExp) == .gt then e + 1 else e
      let e := max e (-127)
      if 126 < e then none else some (e + 127).toNat
  | _ => some 0xFF

/-- derive_scale (R51) of a binary32 MAXABS for a destination format: scale code and tile flag. -/
def deriveScale (f : Fmt) (m : RVal) : Nat × Bool :=
  match f.value f.maxCode with
  | .fin _ mm me => ((deriveScaleWith f.scaleEmax mm me m).getD 0xFF, m.special)
  | _ => (0xFF, m.special)

/-- Exact value of an element of a scaled tensor (R48); a NaN scale gives NaN. -/
def scaledValue (f : Fmt) (code s : Nat) : RVal :=
  if s = 0xFF then .nan else (f.value code).scale ((s : Int) - 127)

/-- Dequantisation into binary32 (R49): code and tile flag. -/
def dequantise (f : Fmt) (code s : Nat) : Nat × Bool :=
  if s = 0xFF then (nanF32, true) else toF32 ((f.value code).scale ((s : Int) - 127))

/-- Quantisation of a binary32 code into a block with scale code s (R50): code and tile flag. -/
def quantise (f : Fmt) (c : Cvt) (r : Nat) (x s : Nat) : Nat × Bool :=
  if s = 0xFF then (match f with | .e2m1 | .int8 | .int32 => 0 | _ => f.nanCode.getD 0, true)
  else convert f c r ((f32 x).scale (127 - (s : Int)))

/-- The E4M3 pair (hi, lo) of R47 for an exact value x under split scale s below 0xFF. -/
def splitE4M3 (x : RVal) (s : Nat) : Nat × Nat :=
  let y := x.scale (127 - (s : Int))
  let hi := (convert .e4m3 Cvt.rne 0 y).1
  let d := y.add (Fmt.value .e4m3 hi).neg
  (hi, if d.isZero then 0 else (convert .e4m3 Cvt.rne 0 d).1)

/-! ### Random bits of stochastic rounding (R52) -/

/-- 32-bit rotation to the left. -/
def rotl (v : W32) (n : Nat) : W32 := v.rotateLeft n

/-- One round of sr_bits: the four words after round `i` under key words k0, k1. -/
def srRound (k0 k1 : W32) (i : Nat) (w : W32 × W32 × W32 × W32) : W32 × W32 × W32 × W32 :=
  let (a, b, c, d) := w
  let a := a + b; let d := rotl (d ^^^ a) 13
  let c := c + d; let b := rotl (b ^^^ c) 9
  let a := a + b; let d := rotl (d ^^^ a) 11
  let c := c + d; let b := rotl (b ^^^ c) 5
  (a + (k0 ^^^ (0x7E15C3A9#32 + BitVec.ofNat 32 i)), b, c + (k1 ^^^ (0x1D6B48F2#32 + BitVec.ofNat 32 i)), d)

/-- sr_bits (R52). -/
def srBits (seed : BitVec 64) (stream step tile elem : W32) : BitVec 16 :=
  let k0 : W32 := seed.extractLsb' 0 32
  let k1 : W32 := seed.extractLsb' 32 32
  let w0 := (elem ^^^ 0xB5A30E61#32, tile ^^^ 0x4F2C97D8#32, step ^^^ k0, stream ^^^ k1)
  let (a, b, c, d) := (List.range 6).foldl (fun w i => srRound k0 k1 i w) w0
  let h := (a ^^^ c) + rotl (b ^^^ d) 16
  h.extractLsb' 16 16

/-- The key words that do not change over a tile (R53, R54). -/
structure SrKey where
  seed : BitVec 64
  stream : W32
  step : W32
  tile : W32
  deriving DecidableEq, Repr

/-- Random bits of element `elem` (R53). -/
def SrKey.bits (k : SrKey) (elem : Nat) : Nat := (srBits k.seed k.stream k.step k.tile (BitVec.ofNat 32 elem)).toNat

/-! ### Order of values (the ordering of MAX, MIN, top-k is in chapter 4) and packing (R32) -/

/-- Element `i` of a packed row of bytes (R32); bytes beyond the list read 0. -/
def unpack (bits : Nat) (bytes : List Nat) (i : Nat) : Nat :=
  if 8 ≤ bits then
    (List.range (bits / 8)).foldr (fun k acc => acc * 256 + bytes.getD (i * (bits / 8) + k) 0) 0
  else (bytes.getD (i * bits / 8) 0 / 2 ^ (i * bits % 8)) % 2 ^ bits

/-- Little-endian bytes of `v`, `n` of them (R32). -/
def leBytes (n v : Nat) : List Byte :=
  (List.range n).map fun k => BitVec.ofNat 8 (v / 256 ^ k)

/-- Number spelled by little-endian bytes (R32). -/
def ofLeBytes (bs : List Byte) : Nat := bs.foldr (fun b acc => acc * 256 + b.toNat) 0

end Sys2Proof.Machine
end

