-- ==== Sys2Proof/Machine/Arith.lean ====
section
/-! DEFINITION. Arithmetic of the engines: Basil bursts and chains (chapter 3), adapter-engine products and drains,
vector-engine operations, sums and selections (chapter 4), the update instruction and Mint (chapter 5).
Binary32 values are their codes, as Nat. -/

namespace Sys2Proof.Machine

/-! ### Basil (chapter 3) -/

/-- Weight modes of Table 3-1. -/
inductive WMode where
  | w1 | w2 | w4
  deriving DecidableEq, Repr

/-- Lanes of a mode (Table 3-1). -/
def WMode.lanes : WMode → Nat
  | .w1 => 512 | .w2 => 256 | .w4 => 128

/-- Weight format of a mode (R60). -/
def WMode.fmt : WMode → Fmt
  | .w1 => .w1 | .w2 => .w2 | .w4 => .w4

/-- Scale code read by lane j (Table 3-1). -/
def WMode.scaleOf (m : WMode) (j : Nat) : Nat :=
  match m with
  | .w1 => j / 2 | _ => j

/-- Is lane j a checksum lane of guarded mode (Table 3-1)? -/
def WMode.isCheck (m : WMode) (j : Nat) : Bool :=
  match m with
  | .w1 => decide (510 ≤ j) | .w2 => j == 255 | .w4 => j == 127

/-- Weight of lane j in a row of 64 image bytes (R59, R60). -/
def WMode.weight (m : WMode) (row : List Nat) (j : Nat) : Int :=
  m.fmt.intValue (unpack m.fmt.bits row j)

/-- Parameters of Table 3-2: scale emax and largest finite value. -/
def cimEmax (a : Nat) : Int := (a : Int) - 2
/-- Largest finite value of Table 3-2. -/
def cimMax (a : Nat) : Nat := 2 ^ (a - 1) - 1

/-- Aligned integer of an element (R64) and whether it saturated; special values are handled by the NaN block. -/
def alignElem (a sb : Nat) (x : RVal) : Int × Bool :=
  match x with
  | .fin neg mag exp =>
    let n := roundInt false 0 mag (exp + 127 - sb)
    let z : Int := if neg then -(n : Int) else n
    if (cimMax a : Int) < z then (cimMax a, true)
    else if z < -((cimMax a : Int) + 1) then (-((cimMax a : Int) + 1), true)
    else (z, false)
  | _ => (0, false)

/-- An aligned input block: exponent code, NaN block or not, saturation, and the integers. -/
structure Block where
  sb : Nat
  nan : Bool
  sat : Bool
  xs : List Int
  deriving DecidableEq, Repr

/-- The broadcast buffer's alignment of a block (R64). -/
def alignBlock (a sb : Nat) (xs : List RVal) : Block :=
  let al := xs.map (alignElem a sb)
  ⟨sb, sb == 0xFF || xs.any RVal.special, al.any (·.2), al.map (·.1)⟩

/-- Larger of two magnitudes, NaN first, then infinity (R141 on magnitudes). -/
def maxAbs2 (x y : RVal) : RVal :=
  match x.abs, y.abs with
  | .nan, _ | _, .nan => .nan
  | a, b => if a.cmp b == .lt then b else a

/-- MAXABS of a list of exact values. -/
def maxAbs (xs : List RVal) : RVal := xs.foldl maxAbs2 RVal.zero

/-- Fold, derivation and alignment of a transposed block (R74, R75, R104): `lanes` are the elements and scale codes of
the lanes that take part, with `none` for a checksum lane of a guarded partition. The second part is the tile flag. -/
def foldBlock (a : Nat) (lanes : List (Option (RVal × Nat))) : Block × Bool :=
  let fold := lanes.map fun
    | none => (RVal.zero, false)
    | some (g, s) => (if s = 0xFF then .nan else g.scale ((s : Int) - 127), s == 0xFF)
  let m := maxAbs (fold.map (·.1))
  match deriveScaleWith (cimEmax a) (cimMax a) 0 m with
  | none => (⟨0xFF, true, false, fold.map fun _ => 0⟩, true)
  | some sb =>
    let b := alignBlock a sb (fold.map (·.1))
    ({ b with nan := b.nan || fold.any (·.2) }, m.special)

/-- Bit p of a two's complement integer. -/
def intBit (z : Int) (p : Nat) : Nat := ((z / ((2 ^ p : Nat) : Int)) % 2).toNat

/-- Weight of plane p of A planes (R65). -/
def planeWeight (a p : Nat) : Int := if p + 1 = a then -((2 ^ p : Nat) : Int) else (2 ^ p : Nat)

/-- Contribution of plane p to one lane: weight_p × Σ w_i · bit_p(a_i) (R65). -/
def planeSum (a p : Nat) (ws xs : List Int) : Int :=
  planeWeight a p * ((ws.zip xs).foldl (fun acc wx => acc + wx.1 * (intBit wx.2 p : Int)) 0)

/-- The plane contributions of one lane, plane 0 first (R65). -/
def planes (a : Nat) (ws xs : List Int) : List Int := (List.range a).map fun p => planeSum a p ws xs

/-- Conversion of a lane result (R66, R76): code and flag. `sc` is the column scale, none for a transposed product. -/
def laneF (nan : Bool) (sb : Nat) (sc : Option Nat) (p : Int) : Nat × Bool :=
  if nan || sc == some 0xFF || sb == 0xFF then (nanF32, true)
  else if p = 0 then (0, false)
  else toF32 ((RVal.ofInt p).scale ((sb : Int) - 127 + (match sc with | none => 0 | some s => (s : Int) - 127)))

/-- The slab adder (R68): the first member enters without addition, every later one with one binary32 sum. -/
def chainAdd (acc : Option Nat) (f : Nat) : Nat :=
  match acc with
  | none => f
  | some a => addF32 a f

/-- Weight of a checksum position for residue t (R101). -/
def checkCells (m : WMode) (t : Int) : Nat :=
  match m with
  | .w2 => if t = 0 then 0 else if t = 1 then 1 else 3
  | .w4 => if t = 0 then 0 else if t = 1 then 1 else 15
  | .w1 => if t = 0 then 2 else if t = 1 then 3 else 0

/-- A row as a guarded partition writes it: the checksum cells computed from the other weights (R101). -/
def guardRow (m : WMode) (row : List Nat) : List Nat :=
  let lanes := (List.range m.lanes).filter fun j => !m.isCheck j
  let sum := lanes.foldl (fun acc j => acc + m.weight row j) 0
  let cells := checkCells m ((-sum) % 3)
  let keep := match m with | .w1 => 0x3F | .w2 => 0x3F | .w4 => 0x0F
  let sh := match m with | .w1 => 64 | .w2 => 64 | .w4 => 16
  row.set 63 (row.getD 63 0 % (keep + 1) + cells * sh)

/-- Exclusive-or of the bits of a byte. -/
def byteParity (b : Nat) : Nat := (List.range 8).foldl (fun acc i => (acc + b / 2 ^ i) % 2) 0

/-- The four parity bits of a row (R87). -/
def rowParity (row : List Nat) : Nat :=
  (List.range 4).foldl (fun acc p =>
    acc + 2 ^ p * (((List.range 16).foldl (fun x i => x + byteParity (row.getD (16 * p + i) 0)) 0) % 2)) 0

/-! ### Order of values (R141) -/

/-- `a` precedes `b` under MAX, the lower index first among equals (R141). -/
def precedesMax (a b : RVal) (ia ib : Nat) : Bool :=
  match a.isNan, b.isNan with
  | true, true => decide (ia < ib)
  | true, false => true
  | false, true => false
  | false, false =>
    match a.cmp b with
    | .gt => true
    | .lt => false
    | .eq =>
      match a, b with
      | .fin na 0 _, .fin nb 0 _ => if na = nb then decide (ia < ib) else nb
      | _, _ => decide (ia < ib)

/-- Kinds of selection. -/
inductive Sel where
  | max | min | maxabs
  deriving DecidableEq, Repr

/-- `a` precedes `b` under a selection (R141): MIN is MAX of the negated values (NaN first in both), MAXABS is MAX of
the magnitudes. -/
def precedes (k : Sel) (a b : RVal) (ia ib : Nat) : Bool :=
  match k with
  | .max => precedesMax a b ia ib
  | .min => precedesMax a.neg b.neg ia ib
  | .maxabs => precedesMax a.abs b.abs ia ib

/-- A binary32 value with an index. -/
abbrev Pair := Nat × Nat

/-- The code a winner is written as: the canonical NaN, the magnitude under MAXABS (R139). -/
def winCode (k : Sel) (x : Nat) : Nat :=
  if (f32 x).isNan then nanF32
  else match k with
    | .maxabs => x % 0x80000000
    | _ => x

/-- Winner of a row of indexed values (R139, R141). -/
def selectWin (k : Sel) : List Pair → Option Pair
  | [] => none
  | p :: rest =>
    match selectWin k rest with
    | none => some p
    | some q => if precedes k (f32 q.1) (f32 p.1) q.2 p.2 then some q else some p

/-- Insertion in precedence order under MAX. -/
def insertTop (p : Pair) : List Pair → List Pair
  | [] => [p]
  | q :: rest => if precedesMax (f32 p.1) (f32 q.1) p.2 q.2 then p :: q :: rest else q :: insertTop p rest

/-- VTOPK: the k elements that precede all others, padded with (-infinity, 0xFFFFFFFF) (R143). -/
def topk (k : Nat) (row : List Pair) : List Pair :=
  let sorted := row.foldr insertTop []
  let sel := (sorted.take k).map fun p => (winCode .max p.1, p.2)
  sel ++ List.replicate (k - sel.length) (0xFF800000, 0xFFFFFFFF)

/-! ### Sums (R137) -/

/-- One level of the fixed pairwise tree: lane[j] + lane[j + w] for j < w. -/
def treeStep (w : Nat) (lane : List Nat) : List Nat := List.zipWith addF32 (lane.take w) (lane.drop w)

/-- Sum of lane j: ascending i with i % 256 = j, from -0. -/
def laneSum (xs : List Nat) (j : Nat) : Nat :=
  (List.range ((xs.length + 255 - j) / 256)).foldl (fun acc i => addF32 acc (xs.getD (256 * i + j) 0)) 0x80000000

/-- VRED SUM (R137). -/
def vsum (xs : List Nat) : Nat :=
  (([128, 64, 32, 16, 8, 4, 2, 1].foldl (fun l w => treeStep w l) ((List.range 256).map (laneSum xs))).getD 0 0)

/-- VRED SUMSQ (R137). -/
def vsumsq (xs : List Nat) : Nat := vsum (xs.map fun x => mulF32 x x)

/-! ### Correctly rounded functions (R135, R136). The magnitude of a transcendental is held to 2^-310 with a sticky bit;
its exact value is irrational except where a case names it. -/

/-- ln 2 × 2^320, truncated. -/
def ln2Fix : Nat :=
  0xb17217f7d1cf79abc9e3b39803f2f6af40f343267298b62d8a0d175b8baafa2be7b876206debac98

/-- Σ x^n / n! in 320-bit fixed point: `n` the next term's number, `t` the present term. -/
def expSeries (x : Nat) : Nat → Nat → Nat → Nat
  | 0, _, _ => 0
  | fuel + 1, n, t => t + expSeries x fuel (n + 1) (t * x / (2 ^ 320 * n))

/-- e^x for fixed-point x in [0, 1), 320 fraction bits. -/
def expFix (x : Nat) : Nat := expSeries x 90 1 (2 ^ 320)

/-- Σ t^(2k+1)/(2k+1) in 320-bit fixed point, `p` the present power. -/
def atanhSeries (t2 : Nat) : Nat → Nat → Nat → Nat
  | 0, _, _ => 0
  | fuel + 1, n, p => p / n + atanhSeries t2 fuel (n + 2) (p * t2 / 2 ^ 320)

/-- ln m for m = mag / 2^log2 mag in [1, 2), 320 fraction bits. -/
def lnFix (mag : Nat) : Nat :=
  let one := 2 ^ mag.log2
  let t := (mag - one) * 2 ^ 320 / (mag + one)
  2 * atanhSeries (t * t / 2 ^ 320) 110 1 t

/-- Fixed-point form of mag · 2^exp, 320 fraction bits (exact for exp ≥ -320). -/
def toFix (mag : Nat) (exp : Int) : Nat :=
  if 0 ≤ exp + 320 then mag * 2 ^ (exp + 320).toNat else mag / 2 ^ (-(exp + 320)).toNat

/-- 2^k · e^r with sticky bit. -/
def expResult (r : Nat) (k : Int) : RVal := .fin false (2 * expFix r + 1) (k - 321)

/-- EXP (R135). -/
def expV : RVal → RVal
  | .nan => .nan
  | .inf neg => if neg then RVal.zero else .inf false
  | .fin neg mag exp =>
    if mag = 0 then .fin false 1 0
    else if 8 ≤ floorLog2 mag exp then (if neg then .fin false 1 (-1000) else .fin false 1 1000)
    else
      let z : Int := if neg then -(toFix mag exp : Int) else toFix mag exp
      let k := z / (ln2Fix : Int)
      expResult (z - k * ln2Fix).toNat k

/-- EXP2 (R135): exact for integer arguments. -/
def exp2V : RVal → RVal
  | .nan => .nan
  | .inf neg => if neg then RVal.zero else .inf false
  | .fin neg mag exp =>
    if mag = 0 then .fin false 1 0
    else if 9 ≤ floorLog2 mag exp then (if neg then .fin false 1 (-1000) else .fin false 1 1000)
    else
      let z : Int := if neg then -(toFix mag exp : Int) else toFix mag exp
      let k := z / ((2 ^ 320 : Nat) : Int)
      let f := (z % ((2 ^ 320 : Nat) : Int)).toNat
      if f = 0 then .fin false 1 k else expResult (f * ln2Fix / 2 ^ 320) k

/-- ln x as a fixed-point integer, 320 fraction bits, for a positive mag · 2^exp. -/
def lnInt (mag : Nat) (exp : Int) : Int := floorLog2 mag exp * (ln2Fix : Int) + (lnFix mag : Int)

/-- A fixed-point result with sticky bit. -/
def fixResult (z : Int) : RVal := .fin (decide (z < 0)) (2 * z.natAbs + 1) (-321)

/-- LOG (R135). -/
def logV : RVal → RVal
  | .nan => .nan
  | .inf neg => if neg then .nan else .inf false
  | .fin neg mag exp =>
    if mag = 0 then .inf true
    else if neg then .nan
    else if floorLog2 mag exp = 0 ∧ mag = 2 ^ mag.log2 then RVal.zero
    else fixResult (lnInt mag exp)

/-- LOG2 (R135): exact for powers of two. -/
def log2V : RVal → RVal
  | .nan => .nan
  | .inf neg => if neg then .nan else .inf false
  | .fin neg mag exp =>
    if mag = 0 then .inf true
    else if neg then .nan
    else if mag = 2 ^ mag.log2 then RVal.ofInt (floorLog2 mag exp)
    else fixResult (floorLog2 mag exp * ((2 ^ 320 : Nat) : Int) + ((lnFix mag * 2 ^ 320 / ln2Fix : Nat) : Int))

/-- 1/x (R134). -/
def rcpV (x : RVal) : RVal := (RVal.fin false 1 0).div x

/-- 1/sqrt(x) (R134, R135). -/
def rsqrtV : RVal → RVal
  | .nan => .nan
  | .inf neg => if neg then .nan else RVal.zero
  | .fin neg mag exp =>
    if mag = 0 then .inf neg
    else if neg then .nan
    else
      let par := (exp % 2).toNat
      let m := mag * 2 ^ par
      let big := 2 ^ (2 * (m.log2 + 80))
      let q := natSqrt (big / m)
      .fin false (2 * q + (if q * q * m = big then 0 else 1)) (-((exp - par) / 2) - ((m.log2 + 80 : Nat) : Int) - 1)

/-- binary32 result of an exact value. -/
def rnd (v : RVal) : Nat := (toF32 v).1

/-- EXP on codes. -/
def expC (x : Nat) : Nat := rnd (expV (f32 x))
/-- RCP on codes. -/
def rcpC (x : Nat) : Nat := rnd (rcpV (f32 x))
/-- SQRT on codes. -/
def sqrtC (x : Nat) : Nat := rnd (f32 x).sqrt
/-- DIV on codes. -/
def divC (x y : Nat) : Nat := rnd ((f32 x).div (f32 y))
/-- Change of the sign bit only (R40). -/
def negC (x : Nat) : Nat := if x < 0x80000000 then x + 0x80000000 else x - 0x80000000
/-- Clearing of the sign bit only (R40). -/
def absC (x : Nat) : Nat := x % 0x80000000
/-- Magnitude of `x` with the sign of `y` (R40). -/
def copysignC (x y : Nat) : Nat := x % 0x80000000 + (if y < 0x80000000 then 0 else 0x80000000)
/-- Sign bit of -x given to EXP: NEG changes the sign bit only, also of a NaN. -/
def sigmoidC (x : Nat) : Nat := rcpC (addF32 0x3F800000 (expC (negC x)))
/-- SILU (R136). -/
def siluC (x : Nat) : Nat := mulF32 x (sigmoidC x)
/-- TANH (R136). -/
def tanhC (x : Nat) : Nat := subF32 (mulF32 0x40000000 (sigmoidC (mulF32 0x40000000 x))) 0x3F800000
/-- FMA: one rounding of a·b + c (R134). -/
def fmaC (a b c : Nat) : Nat := rnd (((f32 a).mul (f32 b)).add (f32 c))
/-- MAX2, MIN2 by the order of R141, `a` the first of equals. -/
def sel2C (k : Sel) (a b : Nat) : Nat := winCode k (if precedes k (f32 a) (f32 b) 0 1 then a else b)

/-! ### Adapter engine (R113 to R128) -/

/-- An operand element as it enters the array: high and low part, exact (Table 4-1, R115). -/
structure OpPart where
  hi : RVal
  lo : RVal
  deriving DecidableEq, Repr

/-- Split scale and parts of one run of 64 BF16 or FP16 values (R115). -/
def splitRun (xs : List RVal) : List OpPart :=
  let s := (deriveScale .e4m3 (maxAbs xs)).1
  xs.map fun x =>
    if s = 0xFF then ⟨.nan, .nan⟩
    else
      let hl := splitE4M3 x s
      ⟨(Fmt.value .e4m3 hl.1).scale ((s : Int) - 127), (Fmt.value .e4m3 hl.2).scale ((s : Int) - 127)⟩

/-- Parts of a row or column along K: narrow elements enter directly, 16-bit ones by runs of 64 (`fuel` runs). -/
def entryParts (wide : Bool) : Nat → List RVal → List OpPart
  | 0, _ => []
  | fuel + 1, xs =>
    if xs.isEmpty then []
    else
      let run := xs.take 64
      (if wide then splitRun run else run.map fun x => ⟨x, RVal.zero⟩) ++ entryParts wide fuel (xs.drop 64)

/-- Exact products of pass `p` at one index (Table 4-2). -/
def passTerms (p : Nat) (a b : OpPart) : List RVal :=
  match p with
  | 1 => [a.hi.mul b.hi]
  | 2 => [a.hi.mul b.lo, a.lo.mul b.hi]
  | _ => [a.lo.mul b.lo]

/-- One pass of amm_native (R117). -/
def passNative (p : Nat) (acc : Nat) (ab : List (OpPart × OpPart)) : Nat :=
  ab.foldl (fun acc x => (passTerms p x.1 x.2).foldl (fun acc t => rnd ((f32 acc).add (f32 (rnd t)))) acc) acc

/-- group_sum (R118) of the products of one group. -/
def groupSum (ps : List RVal) : RVal :=
  if ps.any RVal.isNan ∨ (ps.contains (.inf true) ∧ ps.contains (.inf false)) then .nan
  else if ps.contains (.inf true) then .inf true
  else if ps.contains (.inf false) then .inf false
  else
    let fl := ps.filterMap fun
      | .fin _ m e => if m = 0 then none else some (floorLog2 m e)
      | _ => none
    let negz := ps.all fun | .fin n m _ => n && m == 0 | _ => false
    match fl with
    | [] => .fin negz 0 0
    | e :: es =>
      let q := es.foldl max e - 48
      let z := ps.foldl (fun (acc : Int) v =>
        match v with
        | .fin n m g =>
          let t := if q ≤ g then m * 2 ^ (g - q).toNat else m / 2 ^ (q - g).toNat
          if n then acc - t else acc + t
        | _ => acc) 0
      .fin (decide (z < 0)) z.natAbs q

/-- One pass of amm_compat (R117) over groups of 16 indices. -/
def passCompat (p : Nat) : Nat → Nat → List (OpPart × OpPart) → Nat
  | 0, acc, _ => acc
  | fuel + 1, acc, ab =>
    if ab.isEmpty then acc
    else
      let ps := (ab.take 16).flatMap fun x => passTerms p x.1 x.2
      passCompat p fuel (rnd ((f32 acc).add (groupSum ps))) (ab.drop 16)

/-- Accumulators of one output element at the end of every pass, pass 1 first (R117, R123). -/
def ammPasses (compat : Bool) (passes : Nat) (acc : Nat) (ab : List (OpPart × OpPart)) : List Nat :=
  ((List.range passes).foldl (fun (st : Nat × List Nat) i =>
    let a := if compat then passCompat (i + 1) (ab.length / 16 + 1) st.1 ab else passNative (i + 1) st.1 ab
    (a, st.2 ++ [a])) (acc, [])).2

/-- drain_value (R125): `fuse` 0 none, 1 add, 2 multiply. -/
def drainValue (v alpha fuse y : Nat) : Nat :=
  let v := mulF32 v alpha
  match fuse with
  | 1 => addF32 v y
  | 2 => mulF32 v y
  | _ => v

/-! ### The update instruction (R165 to R168) -/

/-- Hyperparameter block of Table 5-5. -/
structure Hyper where
  lr : Nat
  beta1 : Nat
  beta2 : Nat
  eps : Nat
  wd : Nat
  bc1 : Nat
  bc2 : Nat
  maxNorm : Nat
  deriving DecidableEq, Repr

/-- Hyperparameter block of 32 bytes (Table 5-5). -/
def Hyper.ofWords (ws : List Nat) : Hyper :=
  ⟨ws.getD 0 0, ws.getD 1 0, ws.getD 2 0, ws.getD 3 0, ws.getD 4 0, ws.getD 5 0, ws.getD 6 0, ws.getD 7 0⟩

/-- vupd_prologue (R167): gs, or none when the step is skipped. -/
def vupdPrologue (s : Nat) (n : Int) (hp : Hyper) : Option Nat :=
  if n < 1 ∨ specialF32 s then none
  else
    let rn := rcpC (rnd (RVal.ofInt n))
    let norm := mulF32 (sqrtC s) rn
    let c := if (f32 hp.maxNorm).lt (f32 norm) then divC hp.maxNorm norm else 0x3F800000
    some (mulF32 rn c)

/-- vupd_elem before the conversions (R167): binary32 m1 and v1, and the exact new weight. -/
def vupdElem (g gs : Nat) (hp : Hyper) (sgdm : Bool) (w m v : Nat) : Nat × Nat × RVal :=
  let gp := mulF32 g gs
  let w0 := rnd (Fmt.value .bf16 w)
  let m0 := rnd (Fmt.value .bf16 m)
  let v0 := rnd (Fmt.value .bf16 v)
  let one := 0x3F800000
  let m1 := if sgdm then addF32 (mulF32 hp.beta1 m0) gp
    else addF32 (mulF32 hp.beta1 m0) (mulF32 (subF32 one hp.beta1) gp)
  let v1 := if sgdm then v0
    else addF32 (mulF32 hp.beta2 v0) (mulF32 (subF32 one hp.beta2) (mulF32 gp gp))
  let st := if sgdm then m1
    else divC (mulF32 m1 hp.bc1) (addF32 (sqrtC (mulF32 v1 hp.bc2)) hp.eps)
  let st := addF32 st (mulF32 hp.wd w0)
  (m1, v1, (f32 w0).add (f32 (mulF32 hp.lr st)).neg)

/-- Tile identifier with ROLE replaced (R167, Table 5-4). -/
def withRole (tile : W32) (role : Nat) : W32 := (tile &&& 0x3FFFFFFF#32) ||| BitVec.ofNat 32 (role * 2 ^ 30)

/-! ### Mint (R173) -/

/-- mint_disagree (R173): e, r and the verdict. -/
def mintDisagree (xs ds : List Nat) (t : Nat) : Nat × Nat × Bool :=
  let e := vsumsq (List.zipWith subF32 ds xs)
  let r := vsumsq xs
  (e, r, (f32 (rnd ((f32 r).scale (-2 * (t : Int))))).lt (f32 e))

/-! ### The tile status word (Table 4-4) -/

/-- Status word of the first flagged element (row, column, infinity or conversion) and the poison bit. -/
def statusWord (flagged : Option (Nat × Nat × Bool)) (poison : Bool) : BitVec 64 :=
  let p := if poison then 2 else 0
  match flagged with
  | none => BitVec.ofNat 64 p
  | some (row, col, kind) =>
    BitVec.ofNat 64 (1 + p + (if kind then 4 else 0) + 256 * min col 0xFFFFFF + 2 ^ 32 * min row 0xFFFFFFFF)

/-- KIND of a flagged value: 0 (false) a NaN, 1 an infinity or a flagged conversion. -/
def kindOf (x : Nat) : Bool := !(f32 x).isNan

end Sys2Proof.Machine
end

