-- ==== Sys2Proof/Machine/State.lean ====
section
/-! DEFINITION. Everything the spec gives the V960 that a command can read or change, as plain data, and its value after
reset. A family of many like units is a sparse list by unit number, of which only the entries that differ from the
default stand in the list (`SMap`); bytes of memories are sparse lists of cells. -/

/-- Macros with a defective cell, fused off as a whole at manufacture: a property of the part that the spec leaves open (log 101). -/
opaque Sys2Proof.Config.fusedMap : List Nat

namespace Sys2Proof.Machine

/-- Sparse family: strictly rising keys, no entry equal to the default of the family. -/
abbrev SMap (α : Type) := List (Nat × α)

/-- A value held with its complement (R8 RWP, R185, R323, R345). -/
structure Paired (w : Nat) where
  v : BitVec w
  n : BitVec w
  deriving DecidableEq, Repr

/-- The value and its complement. -/
def Paired.of {w : Nat} (v : BitVec w) : Paired w := ⟨v, ~~~v⟩
/-- Do the halves agree? -/
def Paired.ok {w : Nat} (p : Paired w) : Bool := p.n == ~~~p.v

/-! ### Time, tick and governor (chapter 8) -/

/-- A scope that an event of classes 1 to 3 powers off, kills or resets (R268). -/
inductive Scope where
  | module
  | partition (p : Nat)
  | group (g : Nat)
  | port (n : Nat)
  | vf (n : Nat)
  | host
  deriving DecidableEq, Repr

/-- A grant of R292. -/
structure Grant where
  borrower : Nat
  /-- amount per field -/
  amounts : List Nat
  /-- per lender partition: amount per field -/
  drawn : List (Nat × List Nat)
  fromTick : Nat
  endTick : Nat
  deriving DecidableEq, Repr

/-- Governor registers of one partition (Table 8-10). -/
structure GovPart where
  committed : Nat
  held : Nat
  clamped : BitVec 16
  scaled : BitVec 16
  /-- ticks scaled under R287 with their k -/
  scales : List (Nat × Nat)
  /-- cycles that CLAMPED has counted: a cycle counts once, however many cores were clamped in it -/
  clampCycles : List Nat
  /-- row writes of reload windows, charged to the partition's share (R95): first tick, last tick, field, q -/
  reloads : List (Nat × Nat × Nat × Nat)
  deriving DecidableEq, Repr

/-- Tick block and governor (Tables 8-9, 8-10). -/
structure Gov where
  /-- time in active cycles: 32 × tick counter + cycle (R264, R266) -/
  now : Nat
  running : Bool
  locked : Bool
  master : Bool
  aligned : Bool
  level : Nat
  /-- level change decided and its tick (R297) -/
  pendingLevels : List (Nat × Nat)
  slot : BitVec 3
  loadC : BitVec 16
  residC : BitVec 16
  /-- strap of the settled master (R270) -/
  settled : Option (BitVec 3)
  trip : Bool
  trips : Nat
  floor : BitVec 4
  lend : Paired 1
  /-- setting in force (R290) -/
  lending : Bool
  parts : SMap GovPart
  grants : List Grant
  faultCore : BitVec 11
  faultPart : BitVec 3
  faultK : BitVec 4
  faultCause : BitVec 2
  faultValid : Bool
  faultTick : BitVec 64
  celsius : Nat
  /-- consecutive ticks of divergence (R532) -/
  diverge : Nat
  /-- highest level each peer module requested, by strap (R297) -/
  peerLevels : SMap Nat
  discard : List (Nat × Scope)
  deriving DecidableEq, Repr

/-! ### Cores (chapter 7) -/

/-- The word END (Table 7-4): what instruction memory holds outside the ranges of images (R315). -/
def endWord : BitVec 128 := 1

/-- One level of the loop stack (R218), with its period. -/
structure LoopLvl where
  body : BitVec 14
  last : BitVec 14
  count : Nat
  idx : Nat
  start : Nat
  period : Nat
  deriving DecidableEq, Repr

/-- What issue waits for (R219). -/
inductive Wait where
  | none
  | tile (stamp : Nat) (save resume addr : BitVec 14)
  /-- at a DSTEP; SAVE and RESUME of the TILE it directly follows (R335) -/
  | dstep (save resume : BitVec 14)
  | posted (tick : Nat)
  /-- the body of an innermost loop has issued; its next iteration start decides (R227) -/
  | iter
  deriving DecidableEq, Repr, Inhabited

/-- STATE of CORE_SEQ_STATUS (Table 7-16). -/
inductive SeqState where
  | idle | running | quiesced | stopped
  deriving DecidableEq, Repr

/-- Where bytes lie. -/
inductive Space where
  | scratch (core : Nat)
  | stack
  deriving DecidableEq, Repr

/-- Bytes that an instruction lands. -/
structure Write where
  space : Space
  addr : Nat
  bytes : List Byte
  deriving DecidableEq, Repr

/-- How a destination slot's arrival stamp changes. -/
inductive StampKind where
  | set | invalid | keep | held
  deriving DecidableEq, Repr

/-- What an instruction does to a destination slot when it lands. -/
structure SlotDone where
  core : Nat
  slot : Nat
  status : BitVec 64
  kind : StampKind
  /-- landing time of this slot's last byte -/
  at_ : Nat
  /-- macros whose check word has a nonzero residue (R102) -/
  residue : List Nat
  /-- stack address whose FROZEN bytes the transfer put at the slot's first byte (R95, R111) -/
  frozen : Option Int := none
  deriving DecidableEq, Repr

/-- A flagged or poisoned row of an output tile (R131): row, first flagged column and kind, poison. -/
structure RowEvent where
  row : Nat
  flag : Option (Nat × Bool)
  poison : Bool
  deriving DecidableEq, Repr

/-- An output tile for the numeric records: context tag and rows. -/
structure TileEvent where
  tag : BitVec 16
  tile : W32
  /-- rows of the tensor -/
  count : Nat
  rows : List RowEvent
  deriving DecidableEq, Repr

/-- A narrow conversion that Mint may sample (R170): format, values before, written values, owner. -/
structure MintTile where
  fmt : Fmt
  tag : BitVec 16
  tile : W32
  xs : List Nat
  ds : List Nat
  rows : List Nat
  /-- rows of the tensor -/
  count : Nat
  /-- contexts that own sampled rows, entered at the capture (R131, R174) -/
  owners : List (BitVec 16)
  deriving DecidableEq, Repr

/-- An action charged by the governor (Table 8-5) of the queue entry `owner`, active in cycles first to last. -/
inductive ActKind where
  | fire (slab macroIx : Nat) | row (slab macroIx : Nat) | chive (ch : Nat) | ve | ae
  /-- evaluation of a Mint sample, under the Mint allowance (R172) -/
  | mint
  deriving DecidableEq, Repr

/-- A scratchpad access of up to 64 bytes (R179): rank of R180 (0 chain result, 1 adapter engine, 3 + n Chive channel n), bank,
cycle of the schedule, serial of the instruction. -/
structure BankAcc where
  rank : Nat
  bank : Nat
  cyc : Nat
  owner : Nat
  deriving DecidableEq, Repr

/-- Span of one action. -/
structure Act where
  owner : Nat
  kind : ActKind
  cost : Nat
  first : Nat
  last : Nat
  deriving DecidableEq, Repr

/-- A packet that leaves through a port: TYPE of Table 16-2, LINK kind of Table 16-3 (0 otherwise), fields, payload, and its
cells on the line (R497, R498; none before it leaves). -/
structure OutPkt where
  type : Nat
  kind : Nat
  args : List Nat
  bytes : List Byte
  wire : List Byte
  deriving DecidableEq, Repr

/-- A transfer that waits at a port (R502): the sending and the destination partition, the packet fields of what is left of
it, and the time of line at which it came (`Port.lineFree`). -/
structure Waiting where
  part : Nat
  dpart : Nat
  at_ : Nat
  pkt : OutPkt
  deriving DecidableEq, Repr

/-- Work of an instruction that falls due before its completion: partial slots of earlier passes (R123), accumulators that
complete in a staging bank (Table 4-3), row i of a CLOAD (R245). Each with its cycle. -/
inductive Due where
  | land (at_ : Nat) (writes : List Write) (slots : List SlotDone) (tiles : List TileEvent)
  | stage (at_ : Nat) (bank : Bool) (cells : List (Nat × Nat))
  | row (at_ : Nat) (i : Nat)
  deriving DecidableEq, Repr

/-- What a row write replaced: module macro, row, cycle of the write, the 64 bytes and, where scale codes were written too,
the 64 codes that stood there. -/
structure RowOld where
  macroIx : Nat
  row : Nat
  at_ : Nat
  bytes : List Nat
  codes : Option (List Nat)
  deriving DecidableEq, Repr

/-- What a launch decided. -/
structure Launched where
  at_ : Nat
  /-- earliest and latest landing; the landing lies between them at the time of completion -/
  early : Nat
  land : Nat
  /-- captured results that the drain still scales and converts (AMM), or plane sums of a burst -/
  acc : List Nat
  writes : List Write
  slots : List SlotDone
  tiles : List TileEvent
  mint : Option MintTile
  sregs : List (Nat × W32)
  poison : Bool
  /-- refused at launch or stopped by a descriptor fault: nothing moves -/
  dead : Bool
  /-- what falls due before completion, in order of time -/
  todo : List Due
  /-- SR seed and stream in force when the tile began (R56), and the staging bank (R119) -/
  sr : BitVec 64 × W32
  bank : Bool
  /-- bursts of its stack reads that are delivered as received: stack address, bytes (R190) -/
  recv : List (Nat × List Byte)
  deriving DecidableEq, Repr

/-- An entry of an engine queue (R220). -/
structure QEntry where
  serial : Nat
  op : EngineOp
  pc : BitVec 14
  issued : Nat
  /-- resolved stamp in active cycles when S is 1 (R225) -/
  stamp : Option Nat
  regs : List (SReg × W32)
  loops : List LoopLvl
  segBase : Nat
  launched : Option Launched
  deriving DecidableEq, Repr

/-- A slot-table entry (Table 8-4) with the residues of its check words (R102, R103). -/
structure SlotE where
  start : BitVec 9
  lenM1 : BitVec 7
  level : BitVec 3
  earlyCyc : BitVec 5
  earlyTick : BitVec 16
  lateCyc : BitVec 5
  lateTick : BitVec 16
  arrTick : BitVec 64
  arrCyc : BitVec 5
  absent : Bool
  status : BitVec 64
  residue : List Nat
  /-- policy under which the slot was marked absent: true LATE_ADD (R258) -/
  lateAdd : Bool
  /-- stack address of the FROZEN bytes that the last transfer put at the slot's first byte (R95, R111) -/
  frozen : Option Int
  deriving DecidableEq, Repr

/-- A BUDGET declaration (R237, R283): first tick, span, q, first tick it applies to. -/
structure Decl where
  from_ : Nat
  span : Nat
  q : Nat
  eff : Nat
  deriving DecidableEq, Repr

/-- A block stored in a broadcast-buffer slot (R241). -/
structure BufStore where
  at_ : Nat
  dir : Bool
  acode : BitVec 2
  sb : Nat
  elems : List RVal
  /-- the entry conversion set the tile flag -/
  flag : Bool
  poison : Bool
  deriving DecidableEq, Repr

/-- A prefetch ring bound to a loop (R254). -/
structure Ring where
  f : PrefF
  level : Nat
  loops : List LoopLvl
  pc : BitVec 14
  deriving DecidableEq, Repr

/-- Times the engines keep (R119 to R124, R200, R251). -/
structure EngTimes where
  /-- launch time + 1 of the last launch of each queue -/
  lastLaunch : List Nat
  aeNext : Nat
  /-- last write of the last OVERWRITE or ADD drain, with its owner -/
  aeDrain : Nat
  aeOwner : Nat
  veNext : Nat
  chNext : List Nat
  deriving DecidableEq, Repr

/-- CORE_FAULT and its companions (Table 7-16). -/
structure CoreFault where
  pc : BitVec 14
  status : Status
  cause : BitVec 3
  valid : Bool
  expTick : BitVec 64
  expCyc : BitVec 5
  actTick : BitVec 64
  actCyc : BitVec 5
  deriving DecidableEq, Repr

/-- CORE_PARITY_LOG and CORE_INTEGRITY_COUNT (Table 3-4). -/
structure ParityLog where
  macroIx : BitVec 10
  row : BitVec 8
  quarter : BitVec 2
  scale : Bool
  guard : Bool
  valid : Bool
  parity : BitVec 16
  guardN : BitVec 16
  deriving DecidableEq, Repr

/-- Sequencer context saved at a yield (R337). -/
structure SeqCtx where
  pc : BitVec 14
  regs : SMap W32
  loops : List LoopLvl
  segBase : Nat
  mint : Nat
  wait : Wait
  ended : Bool
  /-- prefetch rings bound to the loop levels (R254) -/
  rings : List Ring
  deriving DecidableEq, Repr, Inhabited

/-- One core. -/
structure Core where
  /-- default END (R315) -/
  imem : SMap (BitVec 128)
  desc : SMap (BitVec 512)
  chain : SMap (BitVec 32)
  member : SMap (BitVec 16)
  slots : SMap SlotE
  pc : BitVec 14
  regs : SMap W32
  loops : List LoopLvl
  segBase : Nat
  st : SeqState
  wait : Wait
  /-- address, SAVE and RESUME of the last TILE that issued -/
  lastTile : BitVec 14 × BitVec 14 × BitVec 14
  ended : Bool
  halted : Bool
  lastIssue : Nat
  queues : SMap (List QEntry)
  serial : Nat
  fault : CoreFault
  budget : List Decl
  bufs : SMap (List BufStore)
  eng : EngTimes
  /-- bank that the last product used (R119, R120) -/
  bank : Bool
  /-- the two staging banks: element r·64 + c of bank b at b·4096 + r·64 + c (R112) -/
  staging : SMap Nat
  /-- rows that row writes replaced while a chain is in flight, newest first -/
  rowLog : List RowOld
  /-- scratchpad accesses of the instructions in flight, whose cycles the spec gives (R180) -/
  banks : List BankAcc
  acts : List Act
  clampTo : Nat
  rings : List Ring
  mintCount : Nat
  saved : SMap SeqCtx
  par : ParityLog
  deriving DecidableEq, Repr

/-! ### Basil (chapter 3) -/

/-- Advisory kinds (Table 3-5, R174). -/
inductive AdvKind where
  | parity | audit | source | mint
  deriving DecidableEq, Repr

/-- Source of a macro's contents: page and offset of the macro image, page and offset of the scale image. -/
structure MacroSrc where
  image : Nat
  scale : Nat
  part : Nat
  deriving DecidableEq, Repr

/-- One macro beside its cells. -/
structure MacroSt where
  mode : Option WMode
  /-- rows written since the mode was set (R81) -/
  rows : BitVec 256
  suspect : Option AdvKind
  /-- tick from which tile boundaries see that it is suspect (R267) -/
  suspectAt : Nat
  lastWrite : Nat
  /-- sweep number of the last reload after a parity error (R99) -/
  reloadSweep : Option Nat
  /-- a parity error has been found since the last load or reload (R94, R99) -/
  parityHit : Bool
  /-- absent from the runtime good-macro map (R82) -/
  bad : Bool
  src : Option MacroSrc
  deriving DecidableEq, Repr

/-- One compute group: scrub engine, Mint buffer, rail. -/
structure GroupSt where
  scrubPos : Nat
  sweep : Nat
  /-- start tick of the present and of the previous complete sweep -/
  sweepStart : Nat
  prevSweep : Nat
  rescrub : List Nat
  mint : Option (Nat × MintTile)
  /-- off after a rail fault until start-up (R520) -/
  railOff : Bool
  /-- zeroisation under way after removal from a partition (R328) -/
  zeroing : Bool
  deriving DecidableEq, Repr

/-! ### Memory (chapter 6) -/

/-- A page entry with its complement (R185). -/
abbrev PageE := Paired 32

/-- A snapshot (R209 to R211). -/
structure Snapshot where
  handle : W32
  ctx : BitVec 16
  pages : List Nat
  manifest : List Nat
  digest : BitVec 256
  epoch : W32
  deriving DecidableEq, Repr

/-- A valid cache line. -/
structure Line where
  gpage : Nat
  used : Nat
  deriving DecidableEq, Repr

/-- Stack and cache registers (Tables 6-8, 6-9). -/
structure MemRegs where
  qPage : BitVec 16
  qChan : BitVec 8
  errChan : BitVec 8
  errPage : BitVec 16
  errValid : Bool
  chErr : SMap (BitVec 16 × BitVec 16)
  achFail : SMap (BitVec 16 × BitVec 16)
  chvCore : BitVec 11
  chvCh : BitVec 2
  chvStatus : Status
  chvValid : Bool
  chvCount : W32
  deriving DecidableEq, Repr

/-! ### Partitions and jobs (chapters 9, 10) -/

/-- Live and shadow resource set (Table 10-2). -/
structure ResSet where
  groups : Paired 16
  ways : Paired 32
  chans : Paired 192
  share : Paired 48
  slew : Paired 11
  deriving DecidableEq, Repr

/-- STATE of a PTN_IMAGEn (Table 10-2). -/
inductive ImgState where
  | empty | loading | ready | running | suspended | stopped
  deriving DecidableEq, Repr

/-- What a serving or training image declares to Dill (R292, R359, R364, R367, R378, R383, R396). -/
structure ServeInfo where
  /-- bounds of s25, s26 and s27 (SYMBOLS) -/
  maxSub : Nat
  maxRows : Nat
  maxDec : Nat
  /-- bound of s30 -/
  maxKv : Nat
  /-- P, TPP, and global pages of the KV pool: plane l, page n is entry l·P + n -/
  kvPages : Nat
  tpp : Nat
  kvPool : List Nat
  /-- staging and checkpoint reserves in bursts per tick -/
  reserve : Nat
  ckptReserve : Nat
  /-- first byte of the step-table slot in the scratchpad and its length -/
  stepAddr : Nat
  stepLen : Nat
  /-- s31 when a grant is made -/
  loanCount : Nat
  /-- training: offset X of the exchange point in ticks (R306) -/
  exchange : Nat
  /-- gradient-exchange slots (core, slot) of set k and rank r: entry 8·k + r (R403) -/
  exSlots : List (List (Nat × Nat))
  /-- broadcast slots (core, slot) of a follower, the step record's slot last (R406, R407) -/
  bcast : List (Nat × Nat)
  /-- adapter shape a TRAINING image was built for: kind, rank, projections (R389) -/
  shape : Nat × Nat × Nat
  deriving DecidableEq, Repr, Inhabited

/-- What the loader recorded of an image (R303, R307, R313, R315, Table 10-2). -/
structure ImgInfo where
  training : Bool
  streamed : Bool
  ckptAware : Bool
  guardOk : Bool
  loans : Bool
  n0 : Bool
  maxStep : Nat
  warmup : Nat
  /-- cores of the image -/
  cores : List Nat
  imemFirst : Nat
  imemCount : Nat
  descFirst : Nat
  descCount : Nat
  chainFirst : Nat
  chainCount : Nat
  memberFirst : Nat
  memberCount : Nat
  slotFirst : Nat
  slotCount : Nat
  /-- MUTABLE, STATE, BUDDY and save pages allocated at load, with attribute code -/
  pages : List (Nat × Nat)
  colxel : BitVec 384
  avman : BitVec 384
  saveT : BitVec 16
  restoreT : BitVec 16
  peakQ : BitVec 12
  slewQ : BitVec 11
  loanQ : List Nat
  loanT : Nat
  /-- pipe lanes: lane, core, slot (R377) -/
  lanes : List (Nat × Nat × Nat)
  serve : ServeInfo
  stepTicks : W32
  baseRoot : BitVec 256
  weights : BitVec 256
  /-- load window in bytes of the largest core record (R317) -/
  largest : Nat
  /-- port shares that the image was verified against, in sixteenths, and the ports verified at the plain rate (R503, R510) -/
  portShare : List Nat
  portPlain : BitVec 7
  /-- the module bytes, kept for a reshape (R331) -/
  source : List Byte
  deriving DecidableEq, Repr, Inhabited

/-- One image register set. -/
structure Img where
  st : ImgState
  last : Status
  info : Option ImgInfo
  deriving DecidableEq, Repr

/-- A table entry the loader writes into a core (R307 step 6). -/
inductive TableWrite where
  | imem (core addr : Nat) (v : BitVec 128)
  | desc (core ix : Nat) (v : BitVec 512)
  | chain (core ix : Nat) (v : BitVec 32)
  | member (core ix : Nat) (v : BitVec 16)
  /-- bytes 0 to 15 of the slot entry -/
  | slot (core ix : Nat) (v : BitVec 128)
  deriving DecidableEq, Repr

/-- A block of a base layout: macro index, first byte of its macro image and of its scale image in the stacks, mode. -/
structure Block1 where
  macroIx : Nat
  image : Nat
  scale : Nat
  mode : WMode
  deriving DecidableEq, Repr

/-- A translated image waiting to be written (R307 steps 3 to 5). -/
structure Translation where
  info : ImgInfo
  tables : List TableWrite
  layout : List Block1
  status : Status
  check : Nat
  op : W32
  core : BitVec 16
  cyc : BitVec 8
  tick : W32
  margin : BitVec 16
  deriving DecidableEq, Repr

/-- A load in progress (R307, R316, R317). -/
structure LoadJob where
  via : Via
  image : Nat
  reply : Nat
  force : Bool
  res : Translation
  /-- PTN_GUARD.ENABLE as the LOAD found it (R100) -/
  guard : Bool
  /-- tick from which tile boundaries see that it waits for its window (R267) -/
  from_ : Nat
  /-- the window that writes the tables has ended -/
  written : Bool
  newLayout : Bool
  deriving DecidableEq, Repr

/-- A pre-emption in progress (R335 to R338). -/
structure Preempt where
  /-- image to start or resume at the switch tick, if any -/
  next : Option Nat
  /-- requested by -/
  boundary : Option Nat
  switchTick : Option Nat
  deriving DecidableEq, Repr

/-- A resume record (R338): boundary tick B and switch tick W of an image. -/
structure Resume where
  image : Nat
  b : Nat
  w : Nat
  deriving DecidableEq, Repr

/-- Integrity registers (Table 3-6). -/
structure PtnInt where
  scrub : BitVec 10
  guard : Bool
  /-- setting in force from the last load (R100) -/
  guardOn : Bool
  auditMin : BitVec 14
  auditBusy : Bool
  cimMis : Bool
  srcMis : Bool
  /-- end of the previous complete audit pass and start of the present one -/
  lastPass : Option Nat
  passStart : Nat
  /-- completion of the base load (Table 3-5) -/
  loadDone : Nat
  /-- further jobs refused until base replacement (R108) -/
  refused : Bool
  deriving DecidableEq, Repr

/-- Mint registers of one partition (Table 5-6) and the values in force (R175). -/
structure MintRegs where
  rate : BitVec 17
  enable : Bool
  thresh : BitVec 32
  rateOn : BitVec 17
  threshOn : BitVec 32
  enableOn : Bool
  samples : W32
  disagree : W32
  skipped : W32
  /-- tick from which tile boundaries see the last write of RATE or a threshold (R175, R267) -/
  since : Nat
  deriving DecidableEq, Repr

/-- A request that Dill holds, in order of arrival (chapter 11). A request with command 0x0110 is the teacher's work for a
distillation job (R390): it has rows of CLASS 2 and no completion. -/
structure Req where
  command : BitVec 16
  vf : Nat
  qp : Nat
  htag : W32
  ctx : BitVec 16
  /-- prompt tokens not yet processed -/
  prompt : Nat
  /-- tokens whose keys and values are in the KV pool -/
  done : Nat
  produced : Nat
  maxNew : Nat
  stop : W32
  params : List Byte
  tokens : List W32
  /-- KV page numbers reserved (R364) -/
  kv : List Nat
  /-- admitted to a step before -/
  started : Bool
  /-- chunk length, fixed at the first chunk (R360) -/
  chunk : Nat
  /-- rows in the step in progress -/
  rows : Nat
  /-- OK, or the status with which it ends at the end of its step (R342) -/
  status : Status
  /-- its adaptation is staged and pinned (R369) -/
  staged : Bool
  /-- serving snapshots it began with (R355) -/
  snaps : List W32
  deriving DecidableEq, Repr

/-- The staging request in progress (R368). -/
structure Staging where
  ctx : BitVec 16
  snaps : List W32
  /-- pages still to fill -/
  pages : List Nat
  /-- pages that must be resident -/
  all : List Nat
  deriving DecidableEq, Repr

/-- Dill scheduler of a partition (chapters 11, 12). -/
structure Dill where
  reqs : List Req
  staging : Option Staging
  /-- number of the next step (R362) -/
  step : W32
  inStep : Bool
  /-- row-context list of the step in progress -/
  rowCtx : List (BitVec 16)
  chunk : BitVec 12
  /-- context → 1 + latest tick in which a step with rows of it was in progress (R98) -/
  served : SMap Nat
  deriving DecidableEq, Repr

/-- A micro-batch of a training job (R387). -/
structure MicroBatch where
  vf : Nat
  qp : Nat
  htag : W32
  j : BitVec 16
  tokens : List W32
  deriving DecidableEq, Repr

/-- A training job (R382 to R391, R402 to R408). -/
structure TrainJob where
  vf : Nat
  qp : Nat
  htag : W32
  ctx : BitVec 16
  teacher : BitVec 16
  steps : W32
  globalMb : Nat
  ckptPeriod : Nat
  snapPeriod : Nat
  jobTag : W32
  resume : Bool
  /-- its first segment has been posted -/
  begun : Bool
  /-- steps completed for the request -/
  stepCount : W32
  /-- micro-batch entries held, in order of arrival (R387) -/
  batches : List MicroBatch
  /-- segment in progress, 0 between steps -/
  segment : Nat
  /-- segment base of segment 1 of the step -/
  seg1 : Nat
  /-- S_0 (R402) -/
  s0 : Option Nat
  /-- job step number s -/
  sNo : Nat
  /-- presence decision of the step: ranks present, carried, dropped (R404 to R406) -/
  present : BitVec 8
  carried : BitVec 8
  dropped : BitVec 8
  decided : Bool
  /-- ranks absent at the last decision under LATE_ADD, and the exchange slots of theirs that have landed since (R405) -/
  late : BitVec 8
  lateIn : List (Nat × Nat)
  /-- the teacher's rows of step sNo have been asked for (R390) -/
  asked : Bool
  /-- OK, or the status with which it ends at the end of its step (R342) -/
  status : Status
  /-- handles of the context's snapshots when the step began (R384) -/
  known : List W32
  /-- a checkpoint is due at the next posting of segment 1 (R393) -/
  ckptDue : Bool
  deriving DecidableEq, Repr

/-- Checkpoint registers and the open checkpoint (Table 12-7, R393 to R398). -/
structure Ckpt where
  state : BitVec 2
  gen : Bool
  genOk : Bool
  abandoned : Bool
  cause : Status
  t : W32
  left : BitVec 16
  openPages : List Nat
  doneLeaves : List (Nat × BitVec 256)
  target : Bool
  epoch : W32
  startTick : Nat
  deriving DecidableEq, Repr

/-- Data-parallel and buddy registers (Table 12-7). -/
structure DpRegs where
  buddy : Paired 15
  dp : Paired 7
  ports : Paired 24
  /-- values in force since the last posting of segment 1 (R411) -/
  buddyOn : BitVec 15
  dpOn : BitVec 7
  portsOn : BitVec 24
  live : BitVec 8
  leader : BitVec 3
  left : Bool
  dropped : BitVec 16
  /-- ranks whose leave notice waits for the next decision (R408) -/
  leaving : BitVec 8
  deriving DecidableEq, Repr

/-- One partition (chapters 3, 5, 9 to 12). -/
structure Part where
  st : BitVec 2
  live : ResSet
  shadow : ResSet
  integ : PtnInt
  mint : MintRegs
  img : List Img
  lastPause : W32
  running : Option Nat
  jobStart : Nat
  /-- fault or STOP that ends the job at its next tile boundary, and the sample tick from which boundaries count -/
  stop : Option (Status × Nat)
  yield_ : Option (Preempt × Nat)
  saving : Bool
  resume : Option Resume
  resumes : List Resume
  load : Option LoadJob
  /-- ticks of a window in progress (R95, R317): start boundary, and resume tick -/
  pauseFrom : Option Nat
  reloadDue : Bool
  windowDone : List Nat
  baseEpoch : Paired 32
  baseDigest : BitVec 256
  basePages : List Nat
  /-- Merkle leaves of the base pages, in their order (R105) -/
  baseLeaves : List (BitVec 256)
  layout : List Block1
  /-- bytes of the module whose WEIGHTS section formed the layout (R308, R331) -/
  layoutFrom : List Byte
  weights : BitVec 256
  pipe : Paired 8
  /-- pairing in force, from the last step boundary (R376) -/
  pipeOn : BitVec 8
  idleRows : BitVec 12
  mode : BitVec 2
  numeric : BitVec 128
  /-- cycle of the event whose flagged element the job's record holds (R132) -/
  numAt : Nat
  dill : Dill
  train : Option TrainJob
  /-- TRAIN requests that wait, in order of arrival (R383) -/
  trainQ : List TrainJob
  ckpt : Ckpt
  dp : DpRegs
  waysZeroing : BitVec 32
  releasing : Option Via
  /-- cycle from which a release zeroises: of the RELEASE, or of the end of its job (R333) -/
  releaseFrom : Nat
  /-- a BASE_REPLACE that waits for the job's stop (R373) -/
  replacing : Option Via
  /-- translations of a reshape in progress, by image (R331) -/
  reshape : Option (List (Nat × Translation))
  lastFault : Status
  deriving DecidableEq, Repr

/-- PTN_COMMIT block (Table 10-2) and the pending commit (R327). -/
structure CommitRegs where
  req : Paired 9
  status : Status
  part : BitVec 3
  busy : Bool
  tick : BitVec 64
  pending : Option (BitVec 8 × Bool)
  deriving DecidableEq, Repr

/-! ### Adapter contexts (chapter 11) -/

/-- A context entry (Table 11-1). -/
structure Ctx where
  state : BitVec 3
  kind : BitVec 2
  part : BitVec 3
  rank : BitVec 8
  proj : BitVec 7
  tenant : Paired 16
  keySlot : Paired 16
  epoch : Paired 32
  baseDigest : BitVec 256
  serve : W32
  stateSnap : W32
  memberA : BitVec 16
  memberB : BitVec 16
  vf : BitVec 7
  qmask : W32
  seed : BitVec 64
  stream : W32
  numeric : BitVec 128
  /-- cycle of the event whose flagged element the record holds (R132) -/
  numAt : Nat
  numPending : Bool
  advisory : BitVec 192
  advPending : Bool
  /-- SR values waiting for the next tile boundary, and the tick from which boundaries see them (R56, R267) -/
  newSeed : Option (BitVec 64 × W32 × Nat)
  /-- completion owed for a delete or withdraw -/
  owed : Option Via
  /-- a CTX_BIND has been done (R349, R354) -/
  bound : Bool
  /-- CTX_IMPORT in progress: pages taken and the sealed image -/
  importing : List (Via × List Nat × List Byte)
  /-- CTX_EXPORT in progress: host address and sealed image -/
  exporting : List (Via × BitVec 64 × List Byte)
  deriving DecidableEq, Repr

/-! ### Security (chapter 13) -/

/-- A tenant record (R430, R444). -/
structure Tenant where
  /-- TENANT_SET has made the record -/
  present : Bool
  quota : BitVec 16
  mask : Paired 8
  cred : Option (BitVec 256)
  deriving DecidableEq, Repr

/-- An SPDM session of a DOE instance (R428). -/
structure Session where
  /-- negotiation done so far: version, capabilities, algorithms -/
  version : Bool
  caps : Bool
  algs : Bool
  /-- key exchanges that no FINISH has followed, oldest first: secret, transcript hash, tick + 1 of the signature -/
  kex : List (BitVec 384 × BitVec 384 × Nat)
  /-- session established -/
  up : Bool
  tenant : BitVec 16
  secret : BitVec 384
  th : BitVec 384
  claimed : Bool
  proven : Bool
  updates : Nat
  /-- tick + 1 of its last signature (R422) -/
  sigAt : Nat
  deriving DecidableEq, Repr

/-- Sage registers and secrets (Table 13-14, R413 to R422, R449). -/
structure Sage where
  debug : BitVec 2
  entropyOk : Bool
  signOk : Bool
  lastSensor : BitVec 4
  sensorValid : Bool
  blown : BitVec 7
  imageSvn : BitVec 7
  topNext : BitVec 21
  leaves : BitVec 16
  tokens : BitVec 13
  treeCertified : Bool
  successor : Bool
  deniedPort : BitVec 16
  deniedAuth : BitVec 16
  busy : W32
  tenants : SMap Tenant
  sessions : SMap Session
  /-- key slot → key of the context, where CTX_SETKEY gave one -/
  ctxKeys : SMap (Option (BitVec 256))
  vfTenant : SMap (Paired 16)
  debugNonce : Option (BitVec 256 × Nat)
  drbg : Nat
  serial : BitVec 64
  es : Bool
  romDigest : BitVec 384
  fwDigest : BitVec 384
  imageVersion : W32
  loaderVersion : W32
  testScope : BitVec 2
  zeroising : Option (BitVec 3)
  /-- command that the zeroisation completes, with its code -/
  zeroVia : Option (Via × BitVec 16)
  /-- last response object of each DOE instance; instance 128 is PF0's (R428) -/
  doe : SMap (List Byte)
  /-- fuses: device secret, digests of the firmware-signing and debug-authority keys (R413) -/
  deviceSecret : BitVec 256
  fwKeyDigest : BitVec 256
  debugKeyDigest : BitVec 256
  /-- HMAC of the flash record of the top-tree index; none until Sage first writes it (R419) -/
  topTag : Option (BitVec 256)
  deriving DecidableEq, Repr

/-! ### Bay (chapter 14) -/

/-- One mailbox (Table 14-7). -/
structure Mbox where
  payload : SMap W32
  owner : Paired 5
  status : Status
  value : BitVec 24
  pending : Bool
  done : Bool
  timeout : Bool
  late : Bool
  waking : Bool
  broken : Bool
  us : BitVec 20
  /-- time at which the timer of the pending message expires (R466) -/
  due : Nat
  deriving DecidableEq, Repr

/-! ### CXL and tenant queues (chapter 15) -/

/-- An area of the memory window (R478, Table 15-6). -/
structure Area where
  first : BitVec 20
  part : BitVec 3
  exportA : Bool
  valid : Bool
  pages : List Nat
  len : Nat
  deriving DecidableEq, Repr

/-- A completion record (R484). -/
structure Completion where
  htag : W32
  command : BitVec 16
  ctx : BitVec 16
  status : Status
  total : W32
  value : W32
  data : List Byte
  more : Bool
  /-- written in clear, without payload and tag (R489) -/
  pstatus : Bool
  phase : Bool
  /-- counter that sealed it (R433) -/
  counter : BitVec 64
  /-- SLOT and SQ_HEAD of its header (Table 15-3) -/
  slot : BitVec 10
  sqHead : BitVec 12
  /-- bytes of its CQ slot and of its D2H records, once written (R433, R482) -/
  entry : List Byte
  records : List (List Byte)
  deriving DecidableEq, Repr

/-- A queue pair (Table 15-7, R486 to R491) with its keys (R434, R435). -/
structure Qp where
  sqBase : BitVec 64
  cqBase : BitVec 64
  h2dBase : BitVec 64
  d2hBase : BitVec 64
  sizes : W32
  ctrl : W32
  status : BitVec 8
  disabled : Bool
  sqHead : BitVec 12
  sqTail : BitVec 12
  cqTail : BitVec 12
  cqHead : BitVec 12
  d2hTail : BitVec 10
  d2hHead : BitVec 10
  keyed : Bool
  keyC2s : BitVec 256
  keyS2c : BitVec 256
  gen : W32
  /-- the four counters of R434: entries in and out, records in and out -/
  cntIn : BitVec 64
  cntOut : BitVec 64
  recIn : BitVec 64
  recOut : BitVec 64
  tagFails : Nat
  waiting : List Completion
  written : List Completion
  irqPending : Nat
  irqSince : Nat
  msix : Nat
  /-- completion-ring entries not yet freed, and the present pass parity (R487) -/
  cqUsed : Nat
  cqPhase : Bool
  /-- device-to-host slots not yet freed (R488) -/
  d2hUsed : Nat
  /-- the VF's session ended, so that clear completions carry DISABLED (R489) -/
  ended : Bool
  /-- DB_ERR (R486) -/
  dbErr : Bool
  deriving DecidableEq, Repr

/-- CXL block (Table 15-6). -/
structure Cxl where
  up : Bool
  width : BitVec 5
  rate : BitVec 3
  flit : Bool
  ide : Bool
  vfs : BitVec 7
  errFrame : BitVec 20
  errWrite : Bool
  errValid : Bool
  areas : SMap Area
  qps : SMap Qp
  /-- translations held, oldest first: VF and IOVA page (R473, R481; log 66) -/
  ats : List (Nat × BitVec 64)
  /-- pages of a VF whose translation the host refuses (R481; log 66) -/
  unmapped : List (Nat × BitVec 64)
  msix0 : Nat
  msix1 : Nat
  /-- MSI-X tables of BAR2 (R575): 128 words for PF0 and for each VF after it (`msixRead`) -/
  msixTab : SMap W32
  /-- exports in progress: context, snapshot kind, area, via -/
  exports : List (Nat × BitVec 16 × Via)
  /-- bytes written into host memory: address, bytes (sealed images, R439) -/
  host : List (BitVec 64 × List Byte)
  deriving DecidableEq, Repr

/-! ### Fennel (chapter 16) -/

/-- One port (Table 16-6, R497 to R509). -/
structure Port where
  state : BitVec 2
  live : BitVec 2
  peer : BitVec 3
  toMaster : Bool
  pending : Bool
  blocked : Bool
  cause : Status
  downKind : BitVec 3
  shareErr : Bool
  serial : BitVec 64
  replays : BitVec 16
  uncorr : BitVec 16
  corrected : W32
  delay : BitVec 16
  reject : W32
  shares : SMap (BitVec 12)
  keyTx : BitVec 256
  keyRx : BitVec 256
  newTx : Option (BitVec 256)
  newRx : Option (BitVec 256)
  ctrTx : BitVec 64
  ctrRx : BitVec 64
  switchTick : Option (BitVec 64)
  oldUntil : Option (BitVec 64)
  seqTx : BitVec 16
  seqRx : BitVec 16
  unacked : List (Nat × OutPkt × Nat)
  proposal : Option (BitVec 2 × BitVec 64)
  peerProp : Option (BitVec 2 × BitVec 64)
  modeDue : Option (BitVec 2 × BitVec 64)
  binds : List (Nat × Nat)
  peerMaster : Option (BitVec 3)
  engChain : Bool
  identOk : Bool
  /-- SEQ of the failed packets that the receiver waits for, and the packets that it holds, with their TYPE (R501) -/
  nak : List (BitVec 16)
  held : List (Nat × Packet)
  /-- destination slots of transfers that have begun to arrive and not ended: core, slot (R213, R514) -/
  begun : List (Nat × Nat)
  /-- decapsulation key of a key exchange that this end began, and the receive key replaced at the last switch (R507) -/
  kemDk : Option (BitVec 256)
  oldRx : BitVec 256
  /-- transfers that wait for the port in the order they came (R502) -/
  waiting : List Waiting
  /-- when the line has sent what it has begun, and up to when each partition has used its share: 425 units a cycle, in which a
  cell of 256 bytes takes 512 (R494) -/
  lineFree : Nat
  shareUsed : SMap Nat
  /-- shares before the last write, with the tick edge at which that write takes effect (R503) -/
  oldShares : Option (Nat × SMap (BitVec 12))
  /-- packets that have left, in the order they left -/
  out : List OutPkt
  deriving DecidableEq, Repr

/-! ### Power, reset, system registers, errors (chapters 17 to 19) -/

/-- Power, clock and reset registers (Table 17-8) and pins. -/
structure Pwr where
  on : BitVec 24
  fault : BitVec 24
  pd1 : Bool
  pd20 : Bool
  pd21 : Bool
  pd23 : Bool
  ctrlStatus : Status
  rootLock : Bool
  onRef : Bool
  onOsc : Bool
  refOk : Bool
  losses : BitVec 16
  rst : Paired 1
  rstCause : BitVec 3
  rstCount : BitVec 16
  rstPtn : BitVec 8
  pwrgd : Bool
  perst : Bool
  thermtrip : Bool
  resetAfter : Option StartEnv
  /-- PD1 is being powered for a doorbell (R468) -/
  wake : Bool
  deriving DecidableEq, Repr

/-- SYS registers (Tables 17-7, 19-4, 19-6). -/
structure Sys where
  state : BitVec 3
  step : BitVec 4
  parCause : BitVec 4
  parSource : BitVec 12
  parTick : BitVec 64
  recBusy : Bool
  recStatus : Status
  recCause : BitVec 3
  recLen : BitVec 26
  recWin : SMap W32
  /-- word of the window that the next append takes (R531) -/
  recPos : Nat
  fwUpdate : BitVec 2
  fwStatus : Status
  /-- programming of the image region was cut short or read back wrong (R530) -/
  flashBad : Bool
  /-- FW_UPDATE in progress -/
  fwVia : Option Via
  accOff : BitVec 26
  accOrigin : BitVec 2
  accWrite : Bool
  accKind : BitVec 2
  accValid : Bool
  accCount : W32
  pairOff : BitVec 26
  pairKind : BitVec 2
  pairValid : Bool
  pairMismatch : BitVec 16
  pairOrphan : BitVec 16
  mgmtCmd : W32
  mgmtStatus : Status
  mgmtBusy : Bool
  mgmtLen : BitVec 16
  mgmtBuf : SMap W32
  /-- pair latches: offset of the value register → half written, value, tick (R569) -/
  latches : List (Nat × Bool × W32 × Nat)
  /-- latched _HI halves not yet read: 2 × offset of the _LO register, + 1 for MGMT (R564) -/
  hi : SMap (Option W32)
  /-- completions of operator commands that wait for a free mailbox of 16 to 23: TAG, status, value (R465) -/
  owedMsgs : List (BitVec 16 × Status × Nat)
  deriving DecidableEq, Repr

/-- A fault record (Table 18-2). -/
structure FaultRec where
  seq : W32
  tick : BitVec 64
  kind : BitVec 8
  cls : BitVec 8
  status : Status
  scope : BitVec 8
  source : BitVec 16
  part : BitVec 8
  flags : BitVec 8
  detail : W32
  detail2 : W32
  deriving DecidableEq, Repr

/-- Error block (Table 18-9), rings, life counters. -/
structure Err where
  head : W32
  ring : SMap FaultRec
  lost : W32
  alert : BitVec 8
  mask : BitVec 8
  corrected : W32
  hours : W32
  equiv : W32
  hot : W32
  svcCount : W32
  svcSel : BitVec 8
  svc : SMap FaultRec
  hardFail : List Nat
  /-- tick + 1 in which PF0 vector 1 last fired (R552) -/
  v1At : Nat
  deriving DecidableEq, Repr

/-- The whole block. -/
structure State where
  /-- commands that wait, first in first out -/
  pending : List Instr
  /-- model's own counter of free values (log 10) -/
  freeCtr : Nat
  /-- what the last read returned -/
  readData : BitVec 64
  /-- the last memory-window read carried the poison indication (R479) -/
  readPoison : Bool
  gov : Gov
  cores : SMap Core
  /-- macros fused off at manufacture, by module number (R82) -/
  fused : List Nat
  macros : SMap MacroSt
  groups : SMap GroupSt
  scratch : List Host.Cell
  cim : List Host.Cell
  scales : List Host.Cell
  parity : SMap (BitVec 4)
  scaleParity : SMap (BitVec 1)
  pages : SMap PageE
  stack : List Host.Cell
  snaps : List Snapshot
  lines : SMap (Option Line)
  cacheBytes : List Host.Cell
  useCtr : Nat
  mem : MemRegs
  parts : SMap Part
  commit : CommitRegs
  ctxs : SMap Ctx
  ctxSel : BitVec 16
  sage : Sage
  mboxes : SMap Mbox
  bayViol : W32
  cxl : Cxl
  ports : SMap Port
  fnlMode : Paired 14
  pwr : Pwr
  sys : Sys
  err : Err
  deriving DecidableEq, Repr

/-! ### Reset values of the units -/

def CoreFault.fresh : CoreFault := ⟨0, 0, 0, false, 0, 0, 0, 0⟩
def ParityLog.fresh : ParityLog := ⟨0, 0, 0, false, false, false, 0, 0⟩
def EngTimes.fresh : EngTimes := ⟨[0, 0, 0, 0, 0], 0, 0, 0, 0, [0, 0, 0, 0]⟩
/-- A slot with the invalid stamp (R275). -/
def SlotE.fresh : SlotE := ⟨0, 0, 0, 0, 0, 0, 0, 0xFFFFFFFFFFFFFFFF, 31, false, 0, [], false, none⟩
/-- A core after reset (Table 7-16; instruction memory holds END outside every image range, R315). -/
def Core.fresh : Core :=
  { imem := [], desc := [], chain := [], member := [], slots := [], pc := 0, regs := [], loops := [], segBase := 0,
    st := .idle, wait := .none, lastTile := (0, 0, 0), ended := false, halted := false, lastIssue := 0, queues := [], serial := 1,
    fault := .fresh, budget := [], bufs := [], eng := .fresh, bank := false, staging := [], rowLog := [], banks := [], acts := [], clampTo := 0,
    rings := [], mintCount := 0, saved := [], par := .fresh }
def SeqCtx.fresh : SeqCtx := ⟨0, [], [], 0, 0, .none, false, []⟩
/-- A good macro that holds nothing. -/
def MacroSt.fresh : MacroSt := ⟨none, 0, none, 0, 0, none, false, false, none⟩
def GroupSt.fresh : GroupSt := ⟨0, 0, 0, 0, [], none, false, false⟩
/-- A FREE page: ATTR 0, OWNED 0, CONTEXT 0xFFFF (R186). -/
def PageE.free : PageE := Paired.of 0x03FFFC00
def GovPart.fresh : GovPart := ⟨0, 0, 0, 0, [], [], []⟩
def MemRegs.fresh : MemRegs := ⟨0, 0, 0, 0, false, [], [], 0, 0, 0, false, 0⟩
def ResSet.fresh : ResSet := ⟨.of 0, .of 0, .of 0, .of 0, .of 0⟩
def PtnInt.fresh : PtnInt := ⟨50, false, false, 60, false, false, false, none, 0, 0, false⟩
/-- Default thresholds of Table 5-6: 6, 9, 2, 3, 1, 4. -/
def mintThreshReset : BitVec 32 := BitVec.ofNat 32 (6 + 9 * 2 ^ 5 + 2 * 2 ^ 10 + 3 * 2 ^ 15 + 1 * 2 ^ 20 + 4 * 2 ^ 25)
def MintRegs.fresh : MintRegs := ⟨4096, true, mintThreshReset, 4096, mintThreshReset, true, 0, 0, 0, 0⟩
def Img.fresh : Img := ⟨.empty, 0, none⟩
def Dill.fresh : Dill := ⟨[], none, 0, false, [], 256, []⟩
def Ckpt.fresh : Ckpt := ⟨0, false, false, false, 0, 0, 0, [], [], false, 0, 0⟩
def DpRegs.fresh : DpRegs := ⟨.of 0, .of 0, .of 0, 0, 0, 0, 0, 0, false, 0, 0⟩
/-- A FREE partition (Tables 3-6, 5-6, 10-2, 11-11, 12-7). -/
def Part.fresh : Part :=
  { st := 0, live := .fresh, shadow := .fresh, integ := .fresh, mint := .fresh, img := [.fresh, .fresh], lastPause := 0,
    running := none, jobStart := 0, stop := none, yield_ := none, saving := false, resume := none, resumes := [],
    load := none, pauseFrom := none, reloadDue := false, windowDone := [], baseEpoch := .of 0, baseDigest := 0,
    basePages := [], baseLeaves := [], layout := [], layoutFrom := [], weights := 0, pipe := .of 0, pipeOn := 0, idleRows := 0, mode := 0, numeric := 0, numAt := 0,
    dill := .fresh, train := none, trainQ := [], ckpt := .fresh, dp := .fresh, waysZeroing := 0, releasing := none, releaseFrom := 0, replacing := none, reshape := none,
    lastFault := 0 }
def CommitRegs.fresh : CommitRegs := ⟨.of 0, 0, 0, false, 0, none⟩
/-- A FREE context entry (Table 11-1). -/
def Ctx.fresh : Ctx :=
  { state := 0, kind := 0, part := 0, rank := 0, proj := 0, tenant := .of 0, keySlot := .of 0, epoch := .of 0,
    baseDigest := 0, serve := 0, stateSnap := 0, memberA := 0, memberB := 0, vf := 0, qmask := 0, seed := 0, stream := 0,
    numeric := 0, numAt := 0, numPending := false, advisory := 0, advPending := false, newSeed := none, owed := none,
    bound := false, importing := [], exporting := [] }
def Tenant.fresh : Tenant := ⟨false, 0, .of 0, none⟩
def Session.fresh : Session := ⟨false, false, false, [], false, 0, 0, 0, false, false, 0, 0⟩
def Sage.fresh : Sage :=
  { debug := 0, entropyOk := false, signOk := false, lastSensor := 0, sensorValid := false, blown := 0, imageSvn := 0,
    topNext := 0, leaves := 32768, tokens := 0, treeCertified := false, successor := false, deniedPort := 0,
    deniedAuth := 0, busy := 0, tenants := [], sessions := [], ctxKeys := [], vfTenant := [], debugNonce := none,
    drbg := 0, serial := 0, es := false, romDigest := 0, fwDigest := 0, imageVersion := 0, loaderVersion := 0,
    testScope := 0, zeroising := none, zeroVia := none, doe := [], deviceSecret := 0, fwKeyDigest := 0,
    debugKeyDigest := 0, topTag := none }
def Mbox.fresh : Mbox := ⟨[], .of 0, 0, 0, false, false, false, false, false, false, 100, 0⟩
/-- Ring sizes 2^4 and one record slot each way, one completion per interrupt (Table 15-7). -/
def Qp.fresh : Qp :=
  { sqBase := 0, cqBase := 0, h2dBase := 0, d2hBase := 0, sizes := 0x44, ctrl := 2, status := 0, disabled := false,
    sqHead := 0, sqTail := 0, cqTail := 0, cqHead := 0, d2hTail := 0, d2hHead := 0, keyed := false, keyC2s := 0,
    keyS2c := 0, gen := 0, cntIn := 0, cntOut := 0, recIn := 0, recOut := 0, tagFails := 0, waiting := [], written := [],
    irqPending := 0, irqSince := 0, msix := 0, cqUsed := 0, cqPhase := true, d2hUsed := 0, ended := false, dbErr := false }
def Area.fresh : Area := ⟨0, 0, false, false, [], 0⟩
def Cxl.fresh : Cxl := ⟨false, 0, 0, false, false, 0, 0, false, false, [], [], [], [], 0, 0, [], [], []⟩
def Port.fresh : Port :=
  { state := 0, live := 0, peer := 0, toMaster := false, pending := false, blocked := false, cause := 0, downKind := 0,
    shareErr := false, serial := 0, replays := 0, uncorr := 0, corrected := 0, delay := 0, reject := 0, shares := [],
    keyTx := 0, keyRx := 0, newTx := none, newRx := none, ctrTx := 0, ctrRx := 0, switchTick := none, oldUntil := none,
    seqTx := 0, seqRx := 0, unacked := [], proposal := none, peerProp := none, modeDue := none, binds := [],
    peerMaster := none, engChain := false, identOk := false, nak := [], held := [], begun := [], kemDk := none, oldRx := 0, waiting := [], lineFree := 0, shareUsed := [], oldShares := none,
    out := [] }
def Gov.fresh : Gov :=
  { now := 0, running := false, locked := false, master := false, aligned := false, level := 0, pendingLevels := [],
    slot := 0, loadC := 0, residC := 0, settled := none, trip := false, trips := 0, floor := 0, lend := .of 0,
    lending := false, parts := [], grants := [], faultCore := 0, faultPart := 0, faultK := 0, faultCause := 0,
    faultValid := false, faultTick := 0, celsius := 0, diverge := 0, peerLevels := [], discard := [] }
/-- PD0 alone is powered; the PWR_CTRL bits reset to 1 (Table 17-8). -/
def Pwr.fresh : Pwr :=
  { on := 1, fault := 0, pd1 := true, pd20 := true, pd21 := true, pd23 := true, ctrlStatus := 0, rootLock := false,
    onRef := true, onOsc := false, refOk := false, losses := 0, rst := .of 0, rstCause := 0, rstCount := 0, rstPtn := 0,
    pwrgd := false, perst := false, thermtrip := false, resetAfter := none, wake := false }
def Sys.fresh : Sys :=
  { state := 0, step := 0, parCause := 0, parSource := 0, parTick := 0, recBusy := false, recStatus := 0, recCause := 0,
    recLen := 0, recWin := [], recPos := 0, fwUpdate := 0, fwStatus := 0, flashBad := false, fwVia := none, accOff := 0, accOrigin := 0, accWrite := false, accKind := 0,
    accValid := false, accCount := 0, pairOff := 0, pairKind := 0, pairValid := false, pairMismatch := 0, pairOrphan := 0,
    mgmtCmd := 0, mgmtStatus := 0, mgmtBusy := false, mgmtLen := 0, mgmtBuf := [], latches := [], hi := [], owedMsgs := [] }
/-- ERR_ALERT_MASK resets to 0xB6 (Table 18-9). -/
def Err.fresh : Err :=
  { head := 0, ring := [], lost := 0, alert := 0, mask := 0xB6, corrected := 0, hours := 0, equiv := 0, hot := 0,
    svcCount := 0, svcSel := 0, svc := [], hardFail := [], v1At := 0 }

/-- The block right after reset: every register at its reset value (chapter tables), SYS_STATE BOOT, PD0 powered, no unit
holding anything. Values the spec does not give are named in logs 6 and 7. -/
def State.reset : State :=
  { pending := [], freeCtr := 0, readData := 0, readPoison := false, gov := .fresh, cores := [], fused := Config.fusedMap, macros := [], groups := [], scratch := [],
    cim := [], scales := [], parity := [], scaleParity := [], pages := [], stack := [], snaps := [], lines := [],
    cacheBytes := [], useCtr := 0, mem := .fresh, parts := [], commit := .fresh, ctxs := [], ctxSel := 0, sage := .fresh,
    mboxes := [], bayViol := 0, cxl := .fresh, ports := [], fnlMode := ⟨0x1555, 0x2AAA⟩, pwr := .fresh, sys := .fresh,
    err := .fresh }

/-- Faults of the model: none. Every stop the spec describes is a next state (a fault record, a job stop, Parsley). -/
inductive Fault where
  deriving DecidableEq, Repr

/-- Refusals of the model. -/
inductive Refusal where
  /-- raised by the dispatcher for a command without a meaning; safe, since nothing is claimed of the next state -/
  | notModelled (mnemonic : String)
  deriving DecidableEq, Repr

end Sys2Proof.Machine
end

