-- ==== Sys2Proof/Config.lean ====
section
/-! DEFINITION. What the spec leaves open or names only by an outside standard: uninterpreted constants.
A statement that holds of the model holds whatever they are. -/

namespace Sys2Proof.Config

/-- SHA-256 (R193, R209, R210). -/
opaque sha256 : List Byte → BitVec 256
/-- SHA-384 (R313, R425). -/
opaque sha384 : List Byte → BitVec 384
/-- HMAC-SHA-384: key bytes, message. -/
opaque hmac384 : List Byte → List Byte → BitVec 384
/-- HMAC-SHA-256: key, message (R414). -/
opaque hmac256 : BitVec 256 → List Byte → BitVec 256
/-- HKDF-SHA-384: secret, information, number of bits wanted up to 512 as a prefix. -/
opaque hkdf : List Byte → List Byte → BitVec 512
/-- AES-256-GCM sealing: key, IV, additional data, plaintext; ciphertext followed by the tag (R433). -/
opaque gcmSeal : BitVec 256 → BitVec 96 → List Byte → List Byte → List Byte
/-- Content of a LINK message: kind of Table 16-3, fields, bytes (R506; the spec gives no encoding of the fields). -/
opaque linkMessage : Nat → List Nat → List Byte → List Byte
/-- AES-256-GCM opening: key, IV, additional data, ciphertext, tag; none when the tag fails (R433). -/
opaque gcmOpen : BitVec 256 → BitVec 96 → List Byte → List Byte → List Byte → Option (List Byte)
/-- ML-KEM-1024 encapsulation: encapsulation key, random bits; ciphertext and shared secret (R429). -/
opaque kemEncap : List Byte → BitVec 256 → List Byte × BitVec 256
/-- ML-KEM-1024 key generation from random bits: encapsulation key, decapsulation key. -/
opaque kemKeygen : BitVec 256 → List Byte × BitVec 256
/-- ML-KEM-1024 decapsulation. -/
opaque kemDecap : BitVec 256 → List Byte → BitVec 256
/-- HSS signature of a message by the identity of a seed and identifier, with the leaf number given (R414, R419 to R422). -/
opaque hssSign : BitVec 256 → BitVec 128 → Nat → List Byte → List Byte
/-- HSS public key that a firmware image, or a debug authority's signature, comes with (R424, R449). -/
opaque hssKey : List Byte → List Byte
/-- HSS verification of a message under a named root. -/
opaque hssVerify : Nat → List Byte → List Byte → Bool
/-- Certificate chain of slot 0 for a device serial (R418). -/
opaque certChain : BitVec 64 → List Byte
/-- Random bits, free: the n-th draw (R415; log 10). -/
opaque freeBits : Nat → BitVec 256
/-- The module's board-reference values a telemetry page holds beyond the registers (log 10). -/
opaque freeTelemetry : Nat → List Byte
/-- Does a firmware image carry a good signature by the key that it comes with (R424)? -/
opaque fwSigned : List Byte → Bool
/-- Security version that a firmware image states (R424). -/
opaque fwSvn : List Byte → Nat
/-- Is a firmware image marked engineering-only (R424)? -/
opaque fwEsOnly : List Byte → Bool
/-- k-th argument of a context command, as a number, read from its payload, whose layout the spec does not give (log 64). -/
opaque ctxArg : Nat → List Byte → Nat
/-- Bytes that host memory holds at an address: the n-th such read (log 10). -/
opaque hostRead : Nat → BitVec 64 → Nat → List Byte
/-- Sequencer context on core c of a reshaped image, from the context of the old image at the same DSTEP (R331 step 4; log 32). -/
opaque reshapeContext : BitVec 384 → Machine.SeqCtx → Nat → Machine.SeqCtx

end Sys2Proof.Config
end

