-- ==== Sys2Proof/Machine/Ops.lean ====
section
/-! DEFINITION. Shared operations: sparse families and memories, time, faults and alerts, completions and answers, job
marks, Parsley and zeroisation. -/

namespace Sys2Proof.Machine

/-! ### Sparse families -/

/-- Entry `n` of a sparse family with default `d`. -/
def sget {α : Type} (d : α) : SMap α → Nat → α
  | [], _ => d
  | (k, v) :: rest, n => if k = n then v else sget d rest n

/-- Entry `n` placed in the order of the keys, instead of the one that stands there. -/
def sins {α : Type} : SMap α → Nat → α → SMap α
  | [], n, v => [(n, v)]
  | (k, w) :: rest, n, v =>
    if n < k then (n, v) :: (k, w) :: rest
    else if k = n then (n, v) :: rest
    else (k, w) :: sins rest n v

/-- Family with entry `n` set to `v`; an entry that equals the default leaves the list. -/
def sput {α : Type} [DecidableEq α] (d : α) (m : SMap α) (n : Nat) (v : α) : SMap α :=
  if v = d then m.filter fun e => e.1 != n else sins m n v

/-- Keys strictly above `lo` and rising, no entry equal to the default. -/
def swfFrom {α : Type} [DecidableEq α] (d : α) : Option Nat → SMap α → Bool
  | _, [] => true
  | lo, (k, v) :: rest => (match lo with | none => true | some l => decide (l < k)) && !decide (v = d) && swfFrom d (some k) rest

/-- Canonical form of a family. -/
def swf {α : Type} [DecidableEq α] (d : α) (m : SMap α) : Bool := swfFrom d none m

/-- Entry `n` changed by `f`. -/
def smod {α : Type} [DecidableEq α] (d : α) (m : SMap α) (n : Nat) (f : α → α) : SMap α := sput d m n (f (sget d m n))

/-- Every entry of a family kept only where the key satisfies `p`. -/
def sfilter {α : Type} (p : Nat → Bool) (m : SMap α) : SMap α := m.filter fun e => p e.1

/-! ### Byte memories (an unlisted byte reads 0, log 6) -/

/-- Byte at an address. -/
def bget (m : List Host.Cell) (a : Nat) : Byte := sget 0#8 m a
/-- Memory with one byte written. -/
def bput (m : List Host.Cell) (a : Nat) (b : Byte) : List Host.Cell := sput 0#8 m a b
/-- `n` bytes from an address. -/
def bread (m : List Host.Cell) (a n : Nat) : List Byte := (List.range n).map fun i => bget m (a + i)
/-- Bytes written from an address upward. -/
def bwrite (m : List Host.Cell) : Nat → List Byte → List Host.Cell
  | _, [] => m
  | a, b :: bs => bwrite (bput m a b) (a + 1) bs
/-- Bytes lo to hi - 1 read 0 afterwards. -/
def bzero (m : List Host.Cell) (lo hi : Nat) : List Host.Cell := m.filter fun e => !(decide (lo ≤ e.1) && decide (e.1 < hi))
/-- Canonical form of a memory. -/
def Memory.wf (m : List Host.Cell) : Bool := swf 0#8 m

/-- Saturating addition in `w` bits. -/
def satAdd {w : Nat} (x : BitVec w) (n : Nat) : BitVec w :=
  if 2 ^ w ≤ x.toNat + n then BitVec.ofNat w (2 ^ w - 1) else BitVec.ofNat w (x.toNat + n)

/-! ### Units of the state -/

namespace State

def core (s : State) (c : Nat) : Core := sget Core.fresh s.cores c
def setCore (s : State) (c : Nat) (v : Core) : State := { s with cores := sput Core.fresh s.cores c v }
def modCore (s : State) (c : Nat) (f : Core → Core) : State := s.setCore c (f (s.core c))
def macro1 (s : State) (m : Nat) : MacroSt := sget MacroSt.fresh s.macros m
def modMacro (s : State) (m : Nat) (f : MacroSt → MacroSt) : State :=
  { s with macros := smod MacroSt.fresh s.macros m f }
def group (s : State) (g : Nat) : GroupSt := sget GroupSt.fresh s.groups g
def modGroup (s : State) (g : Nat) (f : GroupSt → GroupSt) : State := { s with groups := smod GroupSt.fresh s.groups g f }
def page (s : State) (g : Nat) : PageE := sget PageE.free s.pages g
def setPage (s : State) (g : Nat) (v : PageE) : State := { s with pages := sput PageE.free s.pages g v }
def part (s : State) (p : Nat) : Part := sget Part.fresh s.parts p
def setPart (s : State) (p : Nat) (v : Part) : State := { s with parts := sput Part.fresh s.parts p v }
def modPart (s : State) (p : Nat) (f : Part → Part) : State := s.setPart p (f (s.part p))
def govPart (s : State) (p : Nat) : GovPart := sget GovPart.fresh s.gov.parts p
def modGov (s : State) (f : Gov → Gov) : State := { s with gov := f s.gov }
def modGovPart (s : State) (p : Nat) (f : GovPart → GovPart) : State :=
  { s with gov := { s.gov with parts := smod GovPart.fresh s.gov.parts p f } }
def ctx (s : State) (c : Nat) : Ctx := sget Ctx.fresh s.ctxs c
def setCtx (s : State) (c : Nat) (v : Ctx) : State := { s with ctxs := sput Ctx.fresh s.ctxs c v }
def modCtx (s : State) (c : Nat) (f : Ctx → Ctx) : State := s.setCtx c (f (s.ctx c))
def mbox (s : State) (n : Nat) : Mbox := sget Mbox.fresh s.mboxes n
def setMbox (s : State) (n : Nat) (v : Mbox) : State := { s with mboxes := sput Mbox.fresh s.mboxes n v }
def modMbox (s : State) (n : Nat) (f : Mbox → Mbox) : State := s.setMbox n (f (s.mbox n))
def port (s : State) (n : Nat) : Port := sget Port.fresh s.ports n
def setPort (s : State) (n : Nat) (v : Port) : State := { s with ports := sput Port.fresh s.ports n v }
def modPort (s : State) (n : Nat) (f : Port → Port) : State := s.setPort n (f (s.port n))
/-- Queue pair `q` of VF `vf`; queue number 32 × VF + q (R475). -/
def qp (s : State) (vf q : Nat) : Qp := sget Qp.fresh s.cxl.qps (vf * 32 + q)
def modQp (s : State) (vf q : Nat) (f : Qp → Qp) : State :=
  { s with cxl := { s.cxl with qps := smod Qp.fresh s.cxl.qps (vf * 32 + q) f } }
def modSage (s : State) (f : Sage → Sage) : State := { s with sage := f s.sage }
def modErr (s : State) (f : Err → Err) : State := { s with err := f s.err }
def modSys (s : State) (f : Sys → Sys) : State := { s with sys := f s.sys }
def modPwr (s : State) (f : Pwr → Pwr) : State := { s with pwr := f s.pwr }
def modMem (s : State) (f : MemRegs → MemRegs) : State := { s with mem := f s.mem }
def modCxl (s : State) (f : Cxl → Cxl) : State := { s with cxl := f s.cxl }

/-- Present tick (R264). -/
def tick (s : State) : Nat := s.gov.now / 32
/-- The tick counter as 64 bits. -/
def tick64 (s : State) : BitVec 64 := BitVec.ofNat 64 s.tick
/-- Time moves forward to `t` active cycles; it never moves back (R264). -/
def advance (s : State) (t : Nat) : State := { s with gov := { s.gov with now := max s.gov.now t } }
/-- Is the module READY (Table 17-7)? -/
def ready (s : State) : Bool := s.sys.state == 1
/-- Is the module in Parsley? -/
def parsley (s : State) : Bool := s.sys.state == 2

end State

/-- Group of a core (R17). -/
def groupOf (c : Nat) : Nat := c / 80
/-- Field of a core (R16). -/
def fieldOf (c : Nat) : Nat := c / 320
/-- Field of a group. -/
def fieldOfGroup (g : Nat) : Nat := g / 4
/-- Cluster of a core, numbered through the module. -/
def clusterOf (c : Nat) : Nat := c / 16
/-- Channel of a global page number (R183). -/
def chanOf (g : Nat) : Nat := g / 65536
/-- Does a global page number name an addressable page (R183, R184)? -/
def pageExists (g : Nat) : Bool := decide (g / 65536 < 192) && decide (g % 65536 < 61027)
/-- Natural channel set of group g: dies 4j to 4j+3 of its field's three stacks (R21, Table 1-2). -/
def naturalSet (g : Nat) : List Nat :=
  let st3 := match g / 4 with | 0 => [0, 1, 2] | 1 => [6, 7, 8] | 2 => [3, 4, 5] | _ => [9, 10, 11]
  st3.flatMap fun st => (List.range 4).map fun d => st * 16 + 4 * (g % 4) + d

/-- Stable insertion by a key. -/
def insertBy {α : Type} (key : α → Nat) (a : α) : List α → List α
  | [] => [a]
  | b :: l => if key a < key b then a :: b :: l else b :: insertBy key a l
/-- Stable sort by a key. -/
def sortBy {α : Type} (key : α → Nat) (l : List α) : List α := l.foldl (fun acc a => insertBy key a acc) []

/-- Groups of a mask. -/
def maskList (n : Nat) {w : Nat} (m : BitVec w) : List Nat := (List.range n).filter fun i => m.getLsbD i

/-- Partition that holds group g by the live masks, if any (R321). -/
def partOfGroup (s : State) (g : Nat) : Option Nat :=
  (List.range 8).find? fun p => (s.part p).st != 0 && (s.part p).live.groups.v.getLsbD g
/-- Partition of a core. -/
def partOfCore (s : State) (c : Nat) : Option Nat := partOfGroup s (groupOf c)
/-- Cores of a partition, ascending. -/
def coresOf (s : State) (p : Nat) : List Nat :=
  (maskList 16 (s.part p).live.groups.v).flatMap fun g => (List.range 80).map fun i => 80 * g + i

/-- A macro becomes suspect for cause `k`, seen by tile boundaries from tick `t` on; an earlier cause stays. -/
def MacroSt.suspectAs (m : MacroSt) (k : AdvKind) (t : Nat) : MacroSt :=
  match m.suspect with
  | some _ => m
  | none => { m with suspect := some k, suspectAt := t }

/-! ### Page entries (Table 6-2) -/

/-- Page attributes. -/
inductive Attr where
  | free | staging | frozen | snapshot | mutable | state | buddy | reserved
  deriving DecidableEq, Repr

/-- ATTR of an entry word. -/
def attrOf (w : W32) : Attr :=
  match (w.extractLsb' 0 3).toNat with
  | 0 => .free | 1 => .staging | 2 => .frozen | 3 => .snapshot
  | 4 => .mutable | 5 => .state | 6 => .buddy | _ => .reserved
/-- Attribute code. -/
def Attr.code : Attr → Nat
  | .free => 0 | .staging => 1 | .frozen => 2 | .snapshot => 3
  | .mutable => 4 | .state => 5 | .buddy => 6 | .reserved => 7
/-- Entry word of an attribute, owner and context (Table 6-2), WP, COPIED and INVALID clear. -/
def pageWord (a : Attr) (owner : Option Nat) (ctx : BitVec 16) : W32 :=
  BitVec.ofNat 32 (a.code + (match owner with | some p => (p % 8) * 8 + 64 | none => 0) + ctx.toNat * 1024)
/-- Owner of an entry word. -/
def ownerOf (w : W32) : Option Nat := if w.getLsbD 6 then some (w.extractLsb' 3 3).toNat else none
/-- CONTEXT of an entry word. -/
def ctxOf (w : W32) : BitVec 16 := w.extractLsb' 10 16
/-- Bit of an entry word set or cleared. -/
def setBit32 (w : W32) (i : Nat) (b : Bool) : W32 := if b then w ||| (1#32 <<< i) else w &&& ~~~(1#32 <<< i)

/-- Page `g` takes attribute and owner; a transition to FREE writes zeros over the whole page (R188). -/
def setAttr (s : State) (a : Attr) (owner : Option Nat) (ctx : BitVec 16) (g : Nat) : State :=
  let s := s.setPage g (Paired.of (pageWord a owner ctx))
  match a with
  | .free => { s with stack := bzero s.stack (g * 65536) ((g + 1) * 65536) }
  | _ => s
/-- Pages become FREE. -/
def freePages (s : State) (ps : List Nat) : State := ps.foldl (fun s g => setAttr s .free none 0xFFFF g) s
/-- Pages take an attribute. -/
def takePages (s : State) (a : Attr) (owner : Option Nat) (ctx : BitVec 16) (ps : List Nat) : State :=
  ps.foldl (fun s g => setAttr s a owner ctx g) s
/-- Global numbers of the pages whose entries differ from FREE. -/
def usedPages (s : State) : List Nat := s.pages.map (·.1)
/-- Pages a partition owns. -/
def ownedPages (s : State) (p : Nat) : List Nat := (usedPages s).filter fun g => ownerOf (s.page g).v == some p

/-- The next `n` FREE pages of the channels in `mask`, lowest global number first (DESIGN CHOICE, log 14): `fuel` bounds
the search. -/
def findFree (s : State) (mask : BitVec 192) : Nat → Nat → Nat → List Nat
  | 0, _, _ => []
  | _, 0, _ => []
  | fuel + 1, n + 1, g =>
    if pageExists g && mask.getLsbD (chanOf g) && s.page g == PageE.free then g :: findFree s mask fuel n (g + 1)
    else findFree s mask fuel (n + 1) (g + 1)
/-- FREE pages of one channel (STK_CH_FREEn). -/
def freeInChan (s : State) (ch : Nat) : Nat :=
  61027 - ((usedPages s).filter fun g => chanOf g == ch && attrOf (s.page g).v != .free).length
/-- Does the mask hold at least `n` FREE pages? -/
def freeInMask (s : State) (mask : BitVec 192) : Nat := ((maskList 192 mask).map (freeInChan s)).foldl (· + ·) 0
/-- `n` FREE pages of the channels of a mask, or none (log 14). -/
def allocPages (s : State) (mask : BitVec 192) (n : Nat) : Option (List Nat) :=
  if freeInMask s mask < n then none else some (findFree s mask (192 * 65536) n 0)

/-! ### Status codes of Table 0-3 -/

namespace St
abbrev ok : Status := 0x00
abbrev accepted : Status := 0x01
abbrev busy : Status := 0x02
abbrev timeout : Status := 0x03
abbrev deniedPort : Status := 0x04
abbrev badHandle : Status := 0x05
abbrev badFormat : Status := 0x06
abbrev noResource : Status := 0x07
abbrev staleBase : Status := 0x08
abbrev slotConflict : Status := 0x09
abbrev withdrawn : Status := 0x0A
abbrev preempted : Status := 0x0B
abbrev scheduleFault : Status := 0x0C
abbrev budgetFault : Status := 0x0D
abbrev integrityFault : Status := 0x0E
abbrev authFail : Status := 0x0F
abbrev degraded : Status := 0x10
abbrev numericFlag : Status := 0x11
abbrev lateDropped : Status := 0x12
abbrev disabled : Status := 0x13
abbrev fetchActive : Status := 0x14
abbrev lockBroken : Status := 0x15
abbrev internal : Status := 0xFF
end St

/-- A fresh number for a free value; the counter moves on (log 10). -/
def draw (s : State) : Nat × State := (s.freeCtr, { s with freeCtr := s.freeCtr + 1 })

/-! ### Alerts and fault records (chapter 18) -/

/-- PF0 vector 1 fires, at most once in a tick (R552). -/
def fireV1 (s : State) : State :=
  if s.err.v1At = s.tick + 1 then s
  else { s with err := { s.err with v1At := s.tick + 1 }, cxl := { s.cxl with msix1 := s.cxl.msix1 + 1 } }

/-- An ERR_ALERT bit is set; where it rises, vector 1 fires (R552). -/
def raiseAlert (s : State) (bit : Nat) : State :=
  if s.err.alert.getLsbD bit then s
  else fireV1 { s with err := { s.err with alert := s.err.alert ||| (1#8 <<< bit) } }

/-- ALERT# is asserted (R552). -/
def alertPin (s : State) : Bool := (s.err.alert &&& s.err.mask) != 0

/-- Scope of a record (Table 18-2). -/
inductive RecScope where
  | module | partition (p : Nat) | port | host | queue | mailbox
  deriving DecidableEq, Repr

/-- SCOPE byte. -/
def RecScope.code : RecScope → Nat
  | .module => 0 | .partition _ => 1 | .port => 2 | .host => 3 | .queue => 4 | .mailbox => 5
/-- PARTITION byte. -/
def RecScope.part : RecScope → Nat
  | .partition p => p | _ => 0xFF

/-- A fault as Table 18-1 gives it. -/
structure FaultEv where
  kind : Nat
  cls : Nat
  status : Status
  scope : RecScope
  source : Nat
  detail : Nat
  detail2 : Nat
  /-- FLAGS bits 0 and 1 -/
  parsley : Bool
  reset : Bool
  deriving DecidableEq, Repr

/-- Does the record go to the service log (R549)? -/
def FaultEv.service (e : FaultEv) : Bool := e.scope == .module || e.kind == 0x02 || e.kind == 0x0D

/-- The record of a fault sampled in tick `t` (Table 18-2). -/
def FaultEv.record (e : FaultEv) (seq : W32) (t : Nat) : FaultRec :=
  { seq := seq, tick := BitVec.ofNat 64 t, kind := BitVec.ofNat 8 e.kind, cls := BitVec.ofNat 8 e.cls, status := e.status,
    scope := BitVec.ofNat 8 e.scope.code, source := BitVec.ofNat 16 e.source, part := BitVec.ofNat 8 e.scope.part,
    flags := BitVec.ofNat 8 ((if e.parsley then 1 else 0) + (if e.reset then 2 else 0) + (if e.service then 4 else 0)),
    detail := BitVec.ofNat 32 e.detail, detail2 := BitVec.ofNat 32 e.detail2 }

/-- A record for `ring` slots. -/
def FaultRec.none : FaultRec := ⟨0, 0, 0, 0, 0, 0, 0, 0, 0, 0, 0⟩

/-- Can Parsley be entered? Not again, nor in RECOVERY or OFF (Table 17-6, R554). -/
def parsleyOpen (s : State) : Bool := s.sys.state != 2 && s.sys.state != 3 && s.sys.state != 5

/-- One fault record, sampled in tick `t` (R546 to R549): ring, head, LOST, alerts, service log. -/
def recordAt (s : State) (t : Nat) (e : FaultEv) : State :=
  let r := { e with parsley := e.parsley && parsleyOpen s : FaultEv }.record s.err.head t
  let ix := s.err.head.toNat % 1024
  let full := decide (sget FaultRec.none s.err.ring ix ≠ FaultRec.none)
  let s := { s with err := { s.err with ring := sput FaultRec.none s.err.ring ix r, head := s.err.head + 1,
                                        lost := if full then satAdd s.err.lost 1 else s.err.lost } }
  let s := if e.service then
      { s with err := { s.err with svc := sput FaultRec.none s.err.svc (s.err.svcCount.toNat % 256) r,
                                   svcCount := s.err.svcCount + 1 } }
    else s
  let s := if full then raiseAlert s 6 else s
  let s := if e.scope = .module then raiseAlert s 1 else s
  fireV1 (raiseAlert s 0)

/-- A fault that arises now and is sampled at the next tick edge (R267). -/
def recordNext (s : State) (e : FaultEv) : State := recordAt s (s.tick + 1) e
/-- A fault event handled in the present tick. -/
def recordNow (s : State) (e : FaultEv) : State := recordAt s s.tick e

/-- A class 1 to 3 event discards the later events of its tick within its scope (R268); the next tick edge ends that. -/
def discardIn (s : State) (c : Scope) : State := s.modGov fun g => { g with discard := g.discard ++ [(s.tick, c)] }
/-- Is an event of a scope discarded in this tick? -/
def discarded (s : State) (c : Scope) : Bool := s.gov.discard.contains (s.tick, .module) || s.gov.discard.contains (s.tick, c)
/-- An event from a source of scope c: an event of classes 1 to 3 earlier in the tick may have discarded it (R268). -/
def unlessDiscarded (s : State) (c : Scope) (f : State → State) : State := if discarded s c then s else f s

/-! ### Completions of tenant queues (R484, R487, R489) -/

/-- CQ entries of a queue pair (Table 15-7). -/
def Qp.cqSize (q : Qp) : Nat := 2 ^ (q.sizes.extractLsb' 4 4).toNat
/-- SQ entries of a queue pair. -/
def Qp.sqSize (q : Qp) : Nat := 2 ^ (q.sizes.extractLsb' 0 4).toNat
/-- D2H slots of a queue pair. -/
def Qp.d2hSlots (q : Qp) : Nat := (q.sizes.extractLsb' 18 10).toNat + 1
/-- IRQ_COUNT. -/
def Qp.irqCount (q : Qp) : Nat := (q.ctrl.extractLsb' 1 8).toNat

/-- PSTATUS that a queue pair without key writes (R489). -/
def pstatusOf (s : State) (q : Qp) (own : Status) : Status :=
  if s.parsley then St.degraded else if q.ended || own == St.disabled then St.disabled else St.authFail

/-- D2H records that a completion carries (R483, R484). -/
def Completion.recs (c : Completion) : Nat := (c.total.toNat + 4095) / 4096

/-- IV of Table 13-6. -/
def queueIv (queue dir kind gen : Nat) (counter : BitVec 64) : BitVec 96 :=
  BitVec.ofNat 96 (queue + (dir + 2 * kind) * 2 ^ 16 + gen * 2 ^ 24 + counter.toNat * 2 ^ 32)
/-- Additional data of a record: length and context (R433). -/
def recordAad (len ctx : Nat) : List Byte := leBytes 4 len ++ leBytes 2 ctx ++ [0, 0]

/-- Header of a completion entry (Table 15-3). -/
def Completion.header (c : Completion) : List Byte :=
  leBytes 1 1 ++ leBytes 1 ((if c.phase then 1 else 0) + (if c.more then 2 else 0))
    ++ leBytes 1 (if c.pstatus then c.status.toNat else 0) ++ leBytes 1 c.recs
    ++ leBytes 4 c.htag.toNat ++ leBytes 2 c.slot.toNat ++ leBytes 2 c.sqHead.toNat ++ leBytes 4 0
/-- Plaintext payload of a completion, 96 bytes (R484); DATA is zero where records carry it (log 127). -/
def Completion.payload (c : Completion) : List Byte :=
  let data := if c.total = 0 then c.data.take 80 else []
  leBytes 2 c.command.toNat ++ leBytes 2 c.ctx.toNat ++ leBytes 4 c.status.toNat ++ leBytes 4 c.total.toNat ++ leBytes 4 c.value.toNat
    ++ data ++ List.replicate (80 - data.length) 0
/-- A completion with the bytes that queue pair number `n` writes for it (R433, R482): the entry, sealed or in clear with zero
payload and tag (R489), and its records, each followed by its tag. -/
def Completion.sealed (c : Completion) (q : Qp) (n : Nat) : Completion :=
  { c with
    entry := c.header ++ (if c.pstatus then List.replicate 112 0
      else Config.gcmSeal q.keyS2c (queueIv n 1 0 q.gen.toNat q.cntOut) c.header c.payload)
    records := (List.range c.recs).map fun i =>
      let bs := (c.data.drop (4096 * i)).take 4096
      Config.gcmSeal q.keyS2c (queueIv n 1 1 q.gen.toNat (q.recOut + BitVec.ofNat 64 i)) (recordAad bs.length c.ctx.toNat) bs }

/-- One completion written into the free CQ slot of queue pair number `qn` with its records (R482, R487, R488): phase, SQ head,
counters of the key, interrupt. -/
def Qp.write (q : Qp) (qn now : Nat) (c : Completion) : Qp :=
  let c := { c with phase := q.cqPhase, counter := q.cntOut, slot := q.d2hTail, sqHead := q.sqHead }.sealed q qn
  let tail := (q.cqTail.toNat + 1) % q.cqSize
  let n := q.irqPending + 1
  let fire := q.irqCount != 0 && decide (q.irqCount ≤ n)
  { q with written := q.written ++ [c], cqTail := BitVec.ofNat 12 tail, cqUsed := q.cqUsed + 1,
           cqPhase := if tail = 0 then !q.cqPhase else q.cqPhase,
           cntOut := if c.pstatus then q.cntOut else q.cntOut + 1, recOut := q.recOut + BitVec.ofNat 64 c.recs,
           d2hTail := BitVec.ofNat 10 ((q.d2hTail.toNat + c.recs) % q.d2hSlots), d2hUsed := q.d2hUsed + c.recs,
           irqPending := if fire then 0 else n, irqSince := if q.irqPending = 0 then now else q.irqSince,
           msix := if fire then q.msix + 1 else q.msix }

/-- Are a CQ slot and the D2H slots of a completion free (R487, R488)? -/
def Qp.room (q : Qp) (c : Completion) : Bool := decide (q.cqUsed < q.cqSize) && decide (q.d2hUsed + c.recs ≤ q.d2hSlots)

/-- A completion leaves: written where its slots are free, else it waits (R487, R488). -/
def Qp.push (q : Qp) (qn now : Nat) (c : Completion) : Qp :=
  if q.room c && q.waiting.isEmpty then q.write qn now c else { q with waiting := q.waiting ++ [c] }

/-- A translation of a VF's page is held, at most 512 of them (Table 15-1; log 66). -/
def touchAts (s : State) (vf : Nat) (addr : BitVec 64) : State :=
  let e := (vf, addr >>> 12)
  let l := (s.cxl.ats.filter fun x => x != e) ++ [e]
  s.modCxl fun x => { x with ats := l.drop (l.length - 512) }

/-- Does the translation of a VF's address fail (R481)? -/
def State.atsFails (s : State) (vf : Nat) (addr : BitVec 64) : Bool := s.cxl.unmapped.contains (vf, addr >>> 12)

/-- First and last byte of record slot i of a record area (R482). -/
def slotEnds (base : BitVec 64) (i : Nat) : List (BitVec 64) :=
  [base + BitVec.ofNat 64 (4160 * i), base + BitVec.ofNat 64 (4160 * i + 4159)]

/-- Addresses that the next completion is written at: its CQ slot and its D2H slots. -/
def Qp.slotsOf (q : Qp) (c : Completion) : List (BitVec 64) :=
  (q.cqBase + 128 * q.cqTail.setWidth 64) ::
    (List.range c.recs).flatMap fun i => slotEnds q.d2hBase ((q.d2hTail.toNat + i) % q.d2hSlots)

/-- A failed translation disables the pair with DISABLED (R481); completions that cannot be written are dropped (log 66). -/
def Qp.untranslated (q : Qp) : Qp :=
  { q with disabled := true, status := if q.disabled then q.status else St.disabled, waiting := [] }

/-- The fault of a queue pair that disables itself (kind 0x0E of Table 18-1). -/
def disabledFault (vf q : Nat) (st : Status) : FaultEv :=
  { kind := 0x0E, cls := 8, status := st, scope := .queue, source := 64 + vf * 32 + q, detail := vf * 32 + q,
    detail2 := st.toNat, parsley := false, reset := false }

/-- `f` on a queue pair; the fault is recorded where a failed translation disabled the pair in it (R481, R546). -/
def modPair (s : State) (vf q : Nat) (f : Qp → Qp) : State :=
  let t := s.modQp vf q f
  if (s.qp vf q).disabled || !(t.qp vf q).disabled then t else recordNow t (disabledFault vf q St.disabled)

/-- Completion of a request, in clear with PSTATUS where the queue pair holds no key (R489). Where it would be written through
a translation that fails, the pair is disabled and its requests end at their next posting (R342, R481). -/
def complete (s : State) (vf q : Nat) (c : Completion) : State :=
  let pair := s.qp vf q
  let c := if pair.keyed then { c with total := if 80 < c.data.length then BitVec.ofNat 32 c.data.length else 0 }
    else { c with pstatus := true, status := pstatusOf s pair c.status, total := 0, value := 0, data := [] }
  if pair.room c && pair.waiting.isEmpty && (pair.slotsOf c).any (s.atsFails vf) then modPair s vf q Qp.untranslated
  else (touchAts s vf (pair.cqBase + 128 * pair.cqTail.setWidth 64)).modQp vf q fun p => p.push (vf * 32 + q) s.gov.now c

/-- A completion with status only. -/
def Completion.of (htag : W32) (cmd ctx : BitVec 16) (st : Status) : Completion :=
  { htag := htag, command := cmd, ctx := ctx, status := st, total := 0, value := 0, data := [], more := false,
    pstatus := false, phase := false, counter := 0, slot := 0, sqHead := 0, entry := [], records := [] }

/-- A request that Dill holds ends with a status. -/
def completeReq (s : State) (r : Req) (st : Status) : State :=
  if r.command = 0x0110 then s else complete s r.vf r.qp (Completion.of r.htag r.command r.ctx st)

/-! ### Mailboxes and answers (R464, R465, R467) -/

/-- The receiver's answer to a message (R464); an answer after TIMEOUT only sets LATE (R467). -/
def Mbox.ack (m : Mbox) (st : Status) (value : BitVec 24) : Mbox :=
  if m.timeout then { m with late := true }
  else if m.pending then { m with pending := false, done := true, status := st, value := value }
  else m

/-- Answer to a command on its path: mailbox, MGMT status, tenant completion, DOE response (readData). -/
def answer (s : State) (via : Via) (cmd ctx : BitVec 16) (st : Status) (value : Nat) (data : List Byte) : State :=
  match via with
  | .mailbox n _ => s.modMbox n fun m => m.ack st (BitVec.ofNat 24 value)
  | .mgmt => s.modSys fun y => { y with mgmtStatus := st, mgmtBusy := false }
  | .queue vf q htag =>
    complete s vf q { Completion.of htag cmd ctx st with value := BitVec.ofNat 32 value, data := data }
  | .doe _ => { s with readData := BitVec.ofNat 64 st.toNat }
  | _ => s

/-- ACCEPTED: longer work has begun (R465); the value is the TAG. A tenant completion follows at the end of the work. -/
def accept (s : State) (via : Via) : State :=
  match via with
  | .mailbox n tag => s.modMbox n fun m => m.ack St.accepted (BitVec.ofNat 24 tag.toNat)
  | _ => s

/-- Time at which the timer of a message sampled now expires: the first tick edge US microseconds on (R466; log 61). -/
def Mbox.dueAt (m : Mbox) (now : Nat) : Nat := 32 * ((now + 1000 * m.us.toNat + 31) / 32)

/-- A mailbox is disabled: a pending message is answered with DISABLED (R470). -/
def disableBox (s : State) (n : Nat) : State :=
  s.modMbox n fun m => if m.pending then { m with pending := false, done := true, status := St.disabled, value := 0 } else m

/-- The completion message of an accepted operator command: the first free mailbox of 16 to 23 takes COMMAND 0x00FF, the
TAG, the status in byte 4 and the value in bytes 8 to 11, with Rosemary as owner (R465); without a free one the message
waits for a release (log 76). -/
def completionMessage (s : State) (tag : BitVec 16) (st : Status) (value : Nat) : State :=
  match (List.range 8).find? (fun i => (s.mbox (16 + i)).owner.v == 0) with
  | none => s.modSys fun y => { y with owedMsgs := y.owedMsgs ++ [(tag, st, value)] }
  | some i =>
    let s := s.modMbox (16 + i) fun m =>
      { m with owner := Paired.of 2, pending := true, done := false, timeout := false, late := false, broken := false,
               payload := sput 0 (sput 0 (sput 0 m.payload 0 (BitVec.ofNat 32 (0x00FF + tag.toNat * 65536))) 1
                 (BitVec.ofNat 32 st.toNat)) 2 (BitVec.ofNat 32 value), due := m.dueAt s.gov.now }
    if s.pwr.perst then disableBox s (16 + i) else { s with cxl := { s.cxl with msix0 := s.cxl.msix0 + 1 } }

/-- A completion that waits takes the mailbox just freed. -/
def nextMessage (s : State) : State :=
  match s.sys.owedMsgs with
  | [] => s
  | (tag, st, v) :: rest => completionMessage (s.modSys fun y => { y with owedMsgs := rest }) tag st v

/-- Completion of accepted work on its path. -/
def finish (s : State) (via : Via) (cmd ctx : BitVec 16) (st : Status) (value : Nat) (data : List Byte) : State :=
  match via with
  | .mailbox _ tag => completionMessage s tag st value
  | v => answer s v cmd ctx st value data

/-! ### Jobs -/

/-- The running job of a partition is marked to stop with `st` at its first tile boundary in the tick in which the cause
is sampled, or later (R267, R278). The first mark stays; BUDGET_FAULT goes before a schedule fault of the same tick
(R289). -/
def markStop (s : State) (p : Nat) (st : Status) : State :=
  s.modPart p fun q =>
    match q.running, q.stop with
    | none, _ => q
    | some _, none => { q with stop := some (st, s.tick + 1) }
    | some _, some (st', t) =>
      if t = s.tick + 1 ∧ st' = St.scheduleFault ∧ st = St.budgetFault then { q with stop := some (st, t) } else q

/-- Image i of a partition. -/
def Part.image (q : Part) (i : Nat) : Img := q.img.getD i Img.fresh
/-- Cores of an image. -/
def imageCores (q : Part) (i : Nat) : List Nat := match (q.image i).info with | none => [] | some x => x.cores

/-! ### Landing of bytes, and transfers cut short (R213) -/

/-- Place of byte `a` of a core's scratchpad in the scratchpad family (R179). -/
def scrAddr (c a : Nat) : Nat := c * 2 ^ 21 + a

/-- One landing of bytes. -/
def applyWrite (s : State) (w : Write) : State :=
  match w.space with
  | .scratch c => { s with scratch := bwrite s.scratch (scrAddr c w.addr) w.bytes }
  | .stack => { s with stack := bwrite s.stack w.addr w.bytes }

/-- One write of a landing. A stack page that became FREE while the transfer was in flight keeps its zeros: the transition takes
effect after the last burst and zeroises the page then (Table 6-7). -/
def landWrite (s : State) (w : Write) : State :=
  match w.space with
  | .stack => if attrOf (s.page (w.addr / 65536)).v == .free then s else applyWrite s w
  | _ => applyWrite s w

/-- Addresses that a list of writes covers. -/
def coveredBy (ws : List Write) : List Nat := ws.flatMap fun w => (List.range w.bytes.length).map (w.addr + ·)

/-- A Chive fault enters CHV_ERR_LOG and CHV_ERR_COUNT (Table 6-9). -/
def chvFault (s : State) (c : Nat) (op : EngineOp) (st : Status) : State :=
  let ch : Option Nat := match op with
    | .copy f | .gather f | .scatter f => some f.ch.toNat
    | .prefetch f | .ringFetch f _ => some f.ch.toNat
    | .commit f => some f.ch.toNat
    | _ => none
  match ch with
  | none => s
  | some h => s.modMem fun r =>
      let r := { r with chvCount := satAdd r.chvCount 1 }
      if r.chvValid then r
      else { r with chvCore := BitVec.ofNat 11 c, chvCh := BitVec.ofNat 2 h, chvStatus := st, chvValid := true }

/-- A slot takes the invalid stamp (R213, R275). -/
def invalidateSlot (s : State) (c slot : Nat) : State :=
  s.modCore c fun k => { k with slots := smod SlotE.fresh k.slots slot fun e => { e with arrTick := 0xFFFFFFFFFFFFFFFF, arrCyc := 31 } }

/-- A Chive transfer that ends before its last burst (R213): how many of its 64-byte bursts have landed is a free value (log 36);
its slots take the invalid stamp, stack pages that received a part of it are INVALID, and it reports DISABLED. -/
def cutTransfer (s : State) (c : Nat) (op : EngineOp) (l : Launched) : State :=
  let (m, s) := draw s
  let cells := (coveredBy l.writes).eraseDups
  let total := (cells.length + 63) / 64
  let landed := cells.take (64 * ((Config.freeBits m).toNat % (total + 1)))
  let ws := l.writes.filter fun w => landed.contains w.addr
  let s := ws.foldl landWrite s
  let gs := ((ws.filter fun w => w.space == .stack).map fun w => w.addr / 65536).eraseDups
  let s := gs.foldl (fun s g =>
    if attrOf (s.page g).v == .free then s else s.setPage g (Paired.of (setBit32 (s.page g).v 9 true))) s
  let s := l.slots.foldl (fun s (d : SlotDone) => invalidateSlot s d.core d.slot) s
  chvFault s c op St.disabled

/-- Chive transfers in flight of the cores of a partition, whose work ends (R213). -/
def cutPart (s : State) (p : Nat) : State :=
  (coresOf s p).foldl (fun s c =>
    (sget [] (s.core c).queues 3 ++ sget [] (s.core c).queues 5).foldl (fun s e =>
      match e.launched with
      | some l => if l.dead then s else cutTransfer s c e.op l
      | none => s) s) s

/-- A core after its job ended: idle, queues empty, declarations ended; tables, slots and the fault registers stay. -/
def Core.endJob (c : Core) (st : SeqState) : Core :=
  { c with st := st, wait := .none, loops := [], ended := false, halted := false, queues := [], budget := [], acts := [],
           rings := [], bufs := [] }

/-- Every core of a partition changed. -/
def modCores (s : State) (p : Nat) (f : Core → Core) : State := (coresOf s p).foldl (fun s c => s.modCore c f) s

/-- Image `i` of a partition changed. -/
def Part.modImg (q : Part) (i : Nat) (f : Img → Img) : Part := { q with img := q.img.modify i f }

/-- The partition's serving image, running or not. -/
def servingImage (q : Part) : Option ImgInfo :=
  q.img.findSome? fun g => g.info.bind fun x => if x.training then none else some x

/-- KV page numbers of a partition's serving image zeroised in every plane and returned to the pool (R364, R366). -/
def freeKv (s : State) (p : Nat) (ns : List Nat) : State :=
  match servingImage (s.part p) with
  | none => s
  | some x =>
    let planes := x.serve.kvPool.length / max x.serve.kvPages 1
    let gs := ns.flatMap fun n => (List.range planes).filterMap fun l => x.serve.kvPool[l * x.serve.kvPages + n]?
    { s with stack := gs.foldl (fun m g => bzero m (g * 65536) ((g + 1) * 65536)) s.stack }

/-- Snapshots that the staged requests of a partition hold pins on (R369). -/
def pinnedSnaps (s : State) (p : Nat) : List W32 :=
  (s.part p).dill.reqs.flatMap fun (r : Req) => if r.staged then r.snaps else []
/-- Snapshot of a handle. -/
def snapOf (s : State) (h : W32) : Option Snapshot := s.snaps.find? fun x => x.handle == h
/-- Data and manifest pages of snapshots. -/
def snapPages (s : State) (hs : List W32) : List Nat :=
  hs.flatMap fun h => match snapOf s h with | none => [] | some x => x.pages ++ x.manifest
/-- Pages whose lines in the partition's ways are pinned (R369). -/
def pinnedPages (s : State) (p : Nat) : List Nat := snapPages s (pinnedSnaps s p)

/-- Lines that hold one of the pages become invalid: what the cache can reach stays what the page holds (R177). -/
def dropPageLines (s : State) (gs : List Nat) : State :=
  let hit (k : Nat) : Bool := match sget none s.lines k with | none => false | some l => gs.contains l.gpage
  { s with lines := s.lines.filter fun e => !hit e.1, cacheBytes := s.cacheBytes.filter fun e => !hit (e.1 / 65536) }

/-- Snapshots without owner and without pin return to FREE (R355); no line of theirs stays (R177). -/
def sweepSnaps (s : State) : State :=
  let held := (List.range 8).flatMap (pinnedSnaps s)
  let gone := s.snaps.filter fun x => x.ctx == 0xFFFF && !held.contains x.handle
  let s := freePages (dropPageLines s (gone.flatMap fun x => x.pages ++ x.manifest)) (gone.flatMap fun x => x.pages ++ x.manifest)
  { s with snaps := s.snaps.filter fun x => !(gone.map (·.handle)).contains x.handle }
/-- A snapshot given up by its owner (R355). -/
def dropSnap (s : State) (h : W32) : State :=
  { s with snaps := s.snaps.map fun x => if x.handle == h then { x with ctx := 0xFFFF } else x }

/-- Contexts of a step are in progress in the present tick (R98). -/
def noteServed (s : State) (p : Nat) (cs : List (BitVec 16)) : State :=
  let t := s.tick + 1
  s.modPart p fun q => { q with dill := { q.dill with served := cs.foldl (fun m c => sput 0 m c.toNat t) q.dill.served } }

/-- Requests of a partition that Dill holds end with a status (R278, R343). -/
def endReqs (s : State) (p : Nat) (st : Status) : State :=
  let rs := (s.part p).dill.reqs
  let s := if (s.part p).dill.inStep then noteServed s p (s.part p).dill.rowCtx.eraseDups else s
  let s := rs.foldl (fun s r => completeReq s r st) s
  let s := freeKv s p (rs.flatMap (·.kv))
  sweepSnaps (s.modPart p fun q => { q with dill := { q.dill with reqs := [], staging := none, inStep := false, rowCtx := [] } })

/-- Final completion of a training request and of the micro-batch entries that it still holds. -/
def finishTrain (s : State) (t : TrainJob) (st : Status) : State :=
  let s := t.batches.foldl (fun s b => complete s b.vf b.qp (Completion.of b.htag 0x0111 t.ctx st)) s
  complete s t.vf t.qp (Completion.of t.htag 0x0110 t.ctx st)

/-- The training requests of a partition, the one in progress first, that `f` names end with a status. -/
def endTrains (s : State) (p : Nat) (f : TrainJob → Bool) (st : Status) : State :=
  let q := s.part p
  let out := (q.train.toList ++ q.trainQ).filter f
  let s := noteServed s p ((out.filter fun t => t.segment != 0).map (·.ctx))
  let s := out.foldl (fun s t => finishTrain s t st) s
  s.modPart p fun q =>
    let rest := (q.train.toList ++ q.trainQ).filter fun t => !f t
    { q with train := rest.head?, trainQ := rest.drop 1 }

/-- Every training request of a partition ends with a status. -/
def endTrain (s : State) (p : Nat) (st : Status) : State := endTrains s p (fun _ => true) st

/-- The running job of a partition ends now: cores `stSeq`, image state and LAST_STATUS. -/
def endJobNow (s : State) (p : Nat) (img : ImgState) (st : Status) (seq : SeqState) : State :=
  match (s.part p).running with
  | none => s
  | some i =>
    let s := cutPart s p
    -- R170: the count of eligible tiles goes on from the job's program load
    let s := (imageCores (s.part p) i).foldl (fun s c => s.modCore c fun k =>
      { k with saved := smod SeqCtx.fresh k.saved i fun x => { x with mint := k.mintCount } }) s
    let s := modCores s p fun c => c.endJob seq
    s.modPart p fun q =>
      { (q.modImg i fun g => { g with st := img, last := st }) with
        running := none, stop := none, yield_ := none, saving := false, resume := none, releaseFrom := s.gov.now }

/-! ### Zeroisation and Parsley (R445, R446, R532, R533) -/

/-- Everything a module-wide zeroisation clears (Table 13-13, R446): memories, pages, contexts, partitions, keys,
sessions, tenants, credentials, queue keys. Weights, scales and parities of the macros read 0; fuses, flash and the
runtime map stay. -/
def zeroiseAll (s : State) : State :=
  { s with
    cores := s.cores.map fun e => (e.1, { Core.fresh with fault := e.2.fault, par := e.2.par })
    macros := (s.macros.filter fun e => e.2.bad).map fun e => (e.1, { MacroSt.fresh with bad := true })
    groups := s.groups.map fun e => (e.1, { GroupSt.fresh with railOff := e.2.railOff })
    scratch := [], cim := [], scales := [], parity := [], scaleParity := [], pages := [], stack := [], snaps := [],
    lines := [], cacheBytes := [], parts := [], ctxs := [],
    sage := { s.sage with tenants := [], sessions := [], ctxKeys := [], vfTenant := [], debugNonce := none }
    cxl := { s.cxl with areas := [], exports := [],
                        qps := s.cxl.qps.map fun e =>
                          (e.1, { e.2 with keyed := false, keyC2s := 0, keyS2c := 0, cntIn := 0, cntOut := 0, recIn := 0, recOut := 0, ended := true }) }
    ports := s.ports.map fun e => (e.1, { e.2 with keyTx := 0, keyRx := 0, newTx := none, newRx := none })
    gov := { s.gov with parts := [], grants := [] }
    commit := { s.commit with pending := none, busy := false } }

/-- Every family of `zeroiseAll` back in canonical form. -/
def renorm {α : Type} [DecidableEq α] (d : α) (m : SMap α) : SMap α := m.filter fun e => !decide (e.2 = d)

/-- Zeroisation begun by event kind `k` (1 Parsley, 2 ZEROISE, 3 debug, 4 module reset, 5 POWER_OFF); it ends with
ZEROISATION_COMPLETE (R446). -/
def zeroise (s : State) (k : BitVec 3) : State :=
  let s := zeroiseAll s
  { s with cores := renorm Core.fresh s.cores, groups := renorm GroupSt.fresh s.groups,
           cxl := { s.cxl with qps := renorm Qp.fresh s.cxl.qps }, ports := renorm Port.fresh s.ports, sage := { s.sage with zeroising := some k } }

/-- Every request of every partition ends with a status. -/
def endAllReqs (s : State) (st : Status) : State :=
  (List.range 8).foldl (fun s p => endTrain (endReqs s p st) p st) s

/-- Answers owed for accepted work in progress: loads, releases, base replacements, exports, imports, deletions. -/
def owedAnswers (s : State) : List (Via × BitVec 16 × BitVec 16) :=
  let mk (cmd c : BitVec 16) (v : Via) : Via × BitVec 16 × BitVec 16 := (v, cmd, c)
  let ofPart (p : Nat) : List (Via × BitVec 16 × BitVec 16) :=
    (((s.part p).load.toList.map (·.via)).map (mk 1 0)) ++ ((s.part p).releasing.toList.map (mk 2 0)) ++
    ((s.part p).replacing.toList.map (mk 5 0))
  let ofCtx (e : Nat × Ctx) : List (Via × BitVec 16 × BitVec 16) :=
    let c := BitVec.ofNat 16 e.1
    ((e.2.importing.map (·.1)).map (mk 0x0127 c)) ++ ((e.2.exporting.map (·.1)).map (mk 0x0128 c)) ++
    (e.2.owed.toList.map fun v => mk (match v with | .queue _ _ _ => 0x012B | _ => 0x0021) c v)
  (List.range 8).flatMap ofPart ++ (s.cxl.exports.map fun e => mk 0x000B e.2.1 e.2.2) ++ s.ctxs.flatMap ofCtx

/-- Every answer owed for accepted work is given with a status (Table 9-6). -/
def endLoads (s : State) (st : Status) : State :=
  let out := owedAnswers s
  let s := (List.range 8).foldl (fun s p => s.modPart p fun q => { q with load := none, releasing := none, replacing := none }) s
  let s := { s with ctxs := s.ctxs.map fun (e : Nat × Ctx) => (e.1, { e.2 with importing := [], exporting := [], owed := none }) }
  out.foldl (fun s e => finish s e.1 e.2.1 e.2.2 st 0 []) (s.modCxl fun x => { x with exports := [] })

/-- Mailboxes first to first + n - 1 disabled. -/
def disableBoxes (s : State) (first n : Nat) : State := (List.range n).foldl (fun s i => disableBox s (first + i)) s

/-- Entry into Parsley with a cause and source of Table 17-5 (R532, R533): state, registers, every job stopped at once,
every request answered DEGRADED, zeroisation begun. A module already in Parsley, in RECOVERY or OFF stays as it is. -/
def enterParsley (s : State) (cause source : Nat) : State :=
  if !parsleyOpen s then s
  else
    -- a start-up that stands at a step ends there (Table 17-6)
    let s := if s.sys.state = 0 then s.modPwr fun w => { w with resetAfter := none } else s
    let s := s.modSys fun y => { y with state := 2, step := 0, parCause := BitVec.ofNat 4 cause,
                                        parSource := BitVec.ofNat 12 source, parTick := s.tick64 }
    let s := raiseAlert s 2
    let s := (List.range 8).foldl (fun s p => endJobNow s p .empty St.degraded .idle) s
    -- requests pending at entry report DEGRADED in clear: the keys are gone in the same tick
    let s := { s with cxl := { s.cxl with qps := s.cxl.qps.map fun e => (e.1, { e.2 with keyed := false }) } }
    let s := endLoads (endAllReqs s St.degraded) St.degraded
    -- completions that cannot be written are dropped (Table 15-5)
    let s := { s with cxl := { s.cxl with qps := s.cxl.qps.map fun e => (e.1, { e.2 with waiting := [] }) } }
    let s := disableBoxes s 24 24
    zeroise s 1

/-- A complement mismatch of the value in row `code` of Table 13-12 (R444, R542): kind 0x13, Parsley cause 8. -/
def mismatch (s : State) (code unit : Nat) : State :=
  let s := recordNext s { kind := 0x13, cls := 4, status := St.integrityFault, scope := .module, source := 1492,
                          detail := code, detail2 := unit, parsley := true, reset := false }
  enterParsley s 8 unit

/-- An access to pages: their pairs are checked first, and a mismatch stops it (R185). -/
def onPages (s : State) (gs : List Nat) (f : State → State) : State :=
  match gs.find? fun g => !(s.page g).ok with
  | some g => mismatch s 4 g
  | none => f s

/-! ### Memory events (R190) -/

/-- Bursts delivered as received: stack address and the 64 bytes. -/
def MemEvent.received : MemEvent → List (Nat × List Byte)
  | .uncorrected g b bs | .dieError g b bs => [(g * 65536 + 64 * b, bs)]
  | _ => []
/-- What an access reads where bursts are delivered as received: the stacks keep what they hold. -/
def overlay (s : State) (recv : List (Nat × List Byte)) : State :=
  { s with stack := recv.foldl (fun m x => bwrite m x.1 x.2) s.stack }
/-- Does the event leave bytes that poison the reading tile? -/
def MemEvent.poisons : MemEvent → Bool
  | .uncorrected _ _ _ | .dieError _ _ _ | .doubleLine _ _ => true | _ => false

/-- Counters, log and record of a burst error of a channel; other events change nothing here. -/
def burstEvent (s : State) (p : Nat) (m : MemEvent) : State :=
  let chan (g : Nat) (f : BitVec 16 × BitVec 16 → BitVec 16 × BitVec 16) (s : State) : State :=
    s.modMem fun r => { r with chErr := smod (0, 0) r.chErr (chanOf g) f }
  let lost (g : Nat) (s : State) : State :=
    if s.mem.errValid then s
    else recordNext (s.modMem fun r => { r with errChan := BitVec.ofNat 8 (chanOf g), errPage := BitVec.ofNat 16 (g % 65536),
                                                errValid := true })
      { kind := 0x06, cls := 4, status := St.numericFlag, scope := .partition p, source := 1280 + chanOf g, detail := g,
        detail2 := chanOf g, parsley := false, reset := false }
  match m with
  | .retried g => chan g (fun x => (satAdd x.1 1, x.2)) s
  | .uncorrected g _ _ => lost g (chan g (fun x => (satAdd x.1 1, satAdd x.2 1)) s)
  | .dieError g _ _ => lost g (chan g (fun x => (x.1, satAdd x.2 1)) s)
  | _ => s
/-- The same for the events of one access. -/
def burstEvents (s : State) (p : Nat) (mem : List MemEvent) : State := mem.foldl (fun s m => burstEvent s p m) s

/-! ### Advisories and numeric records (R132, R348) -/

/-- Advisory record of Table 11-3. -/
def advisoryWord (kind fmt : Nat) (tile : W32) (st en : BitVec 64) : BitVec 192 :=
  BitVec.ofNat 192 (kind + 256 + fmt * 2 ^ 16 + tile.toNat * 2 ^ 32 + st.toNat * 2 ^ 64 + en.toNat * 2 ^ 128)

/-- An advisory for a context: the first unread one is kept, later ones count (R348). -/
def giveAdvisory (s : State) (c : Nat) (w : BitVec 192) : State :=
  s.modCtx c fun x =>
    if x.advPending then
      let n := (x.advisory.extractLsb' 8 8).toNat
      let n' := if n = 255 then 255 else n + 1
      { x with advisory := (x.advisory &&& ~~~(0xFF00#192)) ||| BitVec.ofNat 192 (n' * 256) }
    else { x with advisory := w, advPending := true }

/-- Place of a flagged element among the events of all tiles: cycle, tile identifier, row, column, as one number (R132; the row
and column of Table 4-4 have 32 and 24 bits). -/
def numericRank (at_ : Nat) (w : BitVec 64) (tile : W32) : Nat :=
  ((at_ * 2 ^ 32 + tile.toNat) * 2 ^ 32 + (w.extractLsb' 32 32).toNat) * 2 ^ 24 + (w.extractLsb' 8 24).toNat

/-- A numeric record takes the status word of an event of cycle `at_` and the tile of its first flagged element, unless it holds
the word of an earlier one (R132); `rAt` is the cycle of the element that it holds. -/
def mergeNumeric (r : BitVec 128) (rAt : Nat) (w : BitVec 64) (tile : W32) (at_ : Nat) : BitVec 128 × Nat :=
  let old : BitVec 64 := r.extractLsb' 0 64
  if !w.getLsbD 0 ∨ (old.getLsbD 0 ∧ numericRank rAt old (r.extractLsb' 64 32) ≤ numericRank at_ w tile) then
    (r ||| (w &&& 3#64).zeroExtend 128, rAt)
  else (BitVec.ofNat 128 (((w ||| (old &&& 2#64)).toNat) + tile.toNat * 2 ^ 64), at_)

/-- Numeric record of a context, for an event of cycle `at_`. -/
def numericCtx (s : State) (c : Nat) (w : BitVec 64) (tile : W32) (at_ : Nat) : State :=
  s.modCtx c fun x =>
    let m := mergeNumeric x.numeric x.numAt w tile at_
    { x with numeric := m.1, numAt := m.2, numPending := true }

/-- Numeric record of a partition's job (R131). The spec names no register or command that reads it: it has no read path (log 110). -/
def numericJob (s : State) (p : Nat) (w : BitVec 64) (tile : W32) (at_ : Nat) : State :=
  s.modPart p fun q =>
    let m := mergeNumeric q.numeric q.numAt w tile at_
    { q with numeric := m.1, numAt := m.2 }

end Sys2Proof.Machine
end

