-- ==== Sys2Proof/Machine/Features.lean ====
section
/-! DEFINITION. The feature registers (Table 7-17, R260) and the runtime good-macro map (R82, R85, R86). -/

namespace Sys2Proof.Machine

/-- Macros absent from the runtime map. -/
def badMacros (s : State) : List Nat := (s.macros.filter fun e => e.2.bad).map (·.1)
/-- Good macros of a core (CORE_GOOD_COUNT). -/
def goodInCore (s : State) (c : Nat) : Nat := 1024 - ((badMacros s).filter fun m => m / 1024 == c).length
/-- Fewest good macros in any core. -/
def goodMin (s : State) : Nat := (List.range 1280).foldl (fun a c => min a (goodInCore s c)) 1024
/-- Is macro `m` of the runtime map? -/
def goodMacro (s : State) (m : Nat) : Bool := decide (m < 1310720) && !(s.macro1 m).bad
/-- Bytes of the map bitmap (R85). -/
def mapBytes (s : State) : List Byte :=
  (List.range 163840).map fun i =>
    BitVec.ofNat 8 ((List.range 8).foldl (fun a j => a + if goodMacro s (8 * i + j) then 2 ^ j else 0) 0)
/-- Digest of R85. -/
def mapDigest (s : State) : BitVec 256 := Config.sha256 (mapBytes s)
/-- Bits [31:0] of CORE_MACRO_MAPn. -/
def macroMapWord (s : State) (c n : Nat) : W32 :=
  BitVec.ofNat 32 ((List.range 32).foldl (fun a k => a + if goodMacro s (c * 1024 + 32 * n + k) then 2 ^ k else 0) 0)

/-- Tick length at a throttle level (Table 8-7): ceil(512 / (16 - L)). -/
def tickLen (l : Nat) : Nat := (512 + (16 - l) - 1) / (16 - l)

/-- Feature register `i` (Table 7-17); indices 27 to 63 read 0. -/
def featReg (s : State) (i : Nat) : W32 :=
  match i with
  | 0 => if s.sage.es then 1 else 0
  | 1 => BitVec.ofNat 32 (1 + 1 * 2 ^ 4)
  | 2 => 0xFFF
  | 3 => BitVec.ofNat 32 (1280 + 80 * 2 ^ 11 + 4 * 2 ^ 18 + 16 * 2 ^ 21)
  | 4 => BitVec.ofNat 32 (16 + 64 * 2 ^ 5)
  | 5 => 1310720
  | 6 => BitVec.ofNat 32 (1310720 - (badMacros s).length)
  | 7 => BitVec.ofNat 32 (goodMin s)
  | 16 => BitVec.ofNat 32 (32 + tickLen s.gov.level * 2 ^ 8)
  | 17 => BitVec.ofNat 32 (12288 + 3584 * 2 ^ 14 + 4 * 2 ^ 26)
  | 18 => 1024
  | 19 => BitVec.ofNat 32 (16384 + 4096 * 2 ^ 15 + 4 * 2 ^ 28)
  | 20 => BitVec.ofNat 32 (2048 + 512 * 2 ^ 12 + 32 * 2 ^ 22 + 4 * 2 ^ 28)
  | 21 => BitVec.ofNat 32 (32 + 32 * 2 ^ 8 + 64 * 2 ^ 16 + 64 * 2 ^ 24)
  | 22 => BitVec.ofNat 32 (16 + 8 * 2 ^ 8)
  | 23 => BitVec.ofNat 32 (512 + 2048 * 2 ^ 10)
  | 24 => BitVec.ofNat 32 (12 + 192 * 2 ^ 4 + 61027 * 2 ^ 12)
  | 25 => BitVec.ofNat 32 (49152 + 8 * 2 ^ 16)
  | 26 => 7
  | _ => if 8 ≤ i ∧ i ≤ 15 then (mapDigest s).extractLsb' (32 * (i - 8)) 32 else 0

end Sys2Proof.Machine
end

