-- ==== Sys2Proof/Machine/PartReset.lean ====
section
/-! DEFINITION. Zeroisation of groups and pages, the lock break, and the partition reset (R469, R470, R524). Places in the
families of macro bytes: macro m has its image at 16384·m, its scales at 256·m, row parity 256·m + r and scale parity
256·m + j. -/

namespace Sys2Proof.Machine

/-- Macros of a group: 81,920 each, ascending (R17). -/
def groupMacros (g : Nat) : Nat × Nat := (81920 * g, 81920 * (g + 1))

/-- A macro whose rows and scales were written with zeros: not loaded; what the map says of it stays (R84). -/
def MacroSt.zeroed (m : MacroSt) : MacroSt := { MacroSt.fresh with bad := m.bad }

/-- Macros lo to hi - 1 hold zeros (R333, R524). -/
def zeroMacros (s : State) (lo hi : Nat) : State :=
  { s with
    cim := bzero s.cim (16384 * lo) (16384 * hi)
    scales := bzero s.scales (256 * lo) (256 * hi)
    parity := sfilter (fun k => !(decide (256 * lo ≤ k) && decide (k < 256 * hi))) s.parity
    scaleParity := sfilter (fun k => !(decide (256 * lo ≤ k) && decide (k < 256 * hi))) s.scaleParity
    macros := renorm MacroSt.fresh (s.macros.map fun e =>
      if lo ≤ e.1 ∧ e.1 < hi then (e.1, e.2.zeroed) else e) }

/-- Scratchpads and macros of a group hold zeros. -/
def zeroGroup (s : State) (g : Nat) : State :=
  let s := zeroMacros s (groupMacros g).1 (groupMacros g).2
  { s with scratch := bzero s.scratch (80 * g * 2 ^ 21) (80 * (g + 1) * 2 ^ 21) }

/-- A core whose image ranges are cleared: its fault and parity logs stay. -/
def Core.cleared (k : Core) : Core := { Core.fresh with fault := k.fault, par := k.par }

/-- Pages of a partition with one of the attributes become FREE. -/
def freeAttrs (s : State) (p : Nat) (as : List Attr) : State :=
  freePages s ((ownedPages s p).filter fun g => as.contains (attrOf (s.page g).v))

/-- A mailbox as a release leaves it (R462). -/
def Mbox.released (m : Mbox) : Mbox :=
  { m with owner := Paired.of 0, payload := [], status := 0, value := 0, pending := false, done := false, timeout := false,
           late := false, waking := false }

/-- Sage breaks a lock: release, BROKEN, a record with LOCK_BROKEN, a notice in mailbox 63 (R469). -/
def breakLock (s : State) (n : Nat) : State :=
  let owner := (s.mbox n).owner.v
  let s := s.modMbox n fun m => { m.released with broken := true }
  let s := recordNow s { kind := 0x0F, cls := 8, status := St.lockBroken, scope := .mailbox, source := n, detail := n,
                         detail2 := owner.toNat, parsley := false, reset := false }
  s.modMbox 63 fun m => { m with owner := Paired.of 3, pending := true, done := false, timeout := false, late := false,
                                 payload := sput 0 (sput 0 m.payload 0 (BitVec.ofNat 32 n)) 1 (owner.zeroExtend 32),
                                 due := m.dueAt s.gov.now }

/-- Every lock that an endpoint owns is broken. -/
def breakLocksOf (s : State) (ep : Nat) : State :=
  (List.range 64).foldl (fun s n => if (s.mbox n).owner.v.toNat = ep ∧ ep ≠ 0 then breakLock s n else s) s

/-- Cores changed by a function. -/
def modList (s : State) (cs : List Nat) (f : Core → Core) : State := cs.foldl (fun s c => s.modCore c f) s

/-- Tables of an image's ranges cleared: instruction memory holds END, the others 0, slots the invalid stamp (R239, R275,
R315). -/
def clearRanges (s : State) (info : ImgInfo) : State :=
  let out (a n : Nat) (x : Nat) : Bool := !(decide (a ≤ x) && decide (x < a + n))
  modList s info.cores fun k =>
    { k with imem := sfilter (out info.imemFirst info.imemCount) k.imem, desc := sfilter (out info.descFirst info.descCount) k.desc,
             chain := sfilter (out info.chainFirst info.chainCount) k.chain,
             member := sfilter (out info.memberFirst info.memberCount) k.member,
             slots := sfilter (out info.slotFirst info.slotCount) k.slots }

/-- Bytes written into the 4 KiB reply area at the start of a page (R311). -/
def writeReply (s : State) (g : Nat) (bs : List Byte) : State :=
  { s with stack := bwrite (bzero s.stack (g * 65536) (g * 65536 + 4096)) (g * 65536) bs }
/-- Is page g a page of the operator's STAGING pages, fit for a reply area (R311)? -/
def isStaging (s : State) (g : Nat) : Bool := pageExists g && attrOf (s.page g).v == .staging
/-- Reply bytes written where the command names a STAGING page. -/
def putReply (s : State) (g : Nat) (bs : List Byte) : State := if isStaging s g then onPages s [g] fun s => writeReply s g bs else s
/-- Bytes of the load report (Table 9-5). -/
def loadReport (s : State) (t : Translation) (image : Nat) (st : Status) (avman : BitVec 384) : List Byte :=
  let ok : Bool := st == St.ok
  leBytes 1 st.toNat ++ leBytes 1 t.check ++ leBytes 2 0 ++ leBytes 4 t.op.toNat ++ leBytes 2 t.core.toNat ++
  leBytes 1 t.cyc.toNat ++ leBytes 1 (if ok then image else 0xFF) ++ leBytes 4 t.tick.toNat ++
  leBytes 4 s.sage.loaderVersion.toNat ++ leBytes 4 t.info.stepTicks.toNat ++ leBytes 2 t.info.peakQ.toNat ++
  leBytes 2 t.margin.toNat ++ leBytes 48 t.info.colxel.toNat ++ leBytes 48 (if ok then avman.toNat else 0)

/-- The load in progress of a partition ends with a status and its report; once its window has written, its ranges are cleared, its
pages become FREE and a layout that it formed is discarded (R311, R318). -/
def endLoad (s : State) (p : Nat) (st : Status) : State :=
  match (s.part p).load with
  | none => s
  | some l =>
    let s := if l.written then
        freePages (clearRanges s l.res.info) ((l.res.info.pages.map (·.1)).filter fun g => ownerOf (s.page g).v == some p)
      else s
    let s := s.modPart p fun q => { (q.modImg l.image fun _ => Img.fresh) with
                                    load := none, layout := if l.newLayout then [] else q.layout,
                                    layoutFrom := if l.newLayout then [] else q.layoutFrom }
    finish (putReply s l.reply (loadReport s l.res l.image st 0)) l.via 1 0 st 0 []

/-- An open checkpoint is abandoned with a cause; the valid generation stays (R398). -/
def abandonCkpt (s : State) (p : Nat) (cause : Status) : State :=
  let k := (s.part p).ckpt
  if k.state = 0 then s
  else
    let s := k.openPages.foldl (fun s g =>
      s.setPage g (Paired.of (setBit32 (setBit32 (s.page g).v 7 false) 8 false))) s
    s.modPart p fun q => { q with ckpt := { k with state := 0, openPages := [], doneLeaves := [], abandoned := true,
                                                   cause := cause, left := 0 } }

/-- A reset of the partition clears the latches of its pairs without a log (R569). -/
def dropLatches (s : State) (p : Nat) : State :=
  s.modSys fun y => { y with latches := y.latches.filter fun l => !decide (l.1 / 0x1000 = 0x200 + p) }

/-- Partition reset with the status of its cause (R524). Groups, channels, ways, shares, FROZEN, SNAPSHOT and BUDDY pages,
contexts and the base epoch stay (Table 17-2). -/
def partitionReset (s : State) (p : Nat) (st : Status) : State :=
  if (s.part p).st = 0 then s
  else
    let s := endTrain (endReqs s p st) p st
    let s := endJobNow s p .stopped st .idle
    let s := abandonCkpt (endLoad s p st) p st
    let s := modCores s p Core.cleared
    let s := (maskList 16 (s.part p).live.groups.v).foldl zeroGroup s
    let s := freeAttrs s p [.mutable, .state]
    let s := s.modPart p fun q =>
      { q with img := q.img.map fun g => { Img.fresh with last := if g.st == .empty then g.last else st },
               layout := [], layoutFrom := [], dill := .fresh, resumes := [], resume := none, saving := false, yield_ := none, stop := none,
               running := none, pauseFrom := none, reloadDue := false, windowDone := [], lastFault := st }
    let s := (dropLatches s p).modPwr fun w => { w with rstPtn := w.rstPtn ||| (1#8 <<< p) }
    disableBox (disableBox (breakLocksOf s (8 + p)) (24 + p)) (32 + p)

end Sys2Proof.Machine
end

