-- ==== Sys2Proof/Machine/Authority.lean ====
section
/-! DEFINITION. Command authority by port of arrival (R443, Table 13-11), and small helpers of the operator commands. -/

namespace Sys2Proof.Machine

/-- Does the command arrive on PF0: a mailbox that PF0 may send in, or a register write? -/
def Via.isPf0 : Via → Bool
  | .mailbox n _ => decide (n.val < 16) || (decide (24 ≤ n.val) && decide (n.val < 32))
  | .pf0 => true
  | _ => false
/-- Does it arrive on MGMT? -/
def Via.isMgmt : Via → Bool
  | .mgmt => true | _ => false
/-- Does it arrive on a tenant queue? -/
def Via.isQueue : Via → Bool
  | .queue _ _ _ => true | _ => false

/-- A command on a port that Table 13-11 does not permit: DENIED_PORT, counted in SAGE_DENIED (R443). -/
def denied (s : State) (via : Via) (cmd ctx : BitVec 16) : State :=
  answer (s.modSage fun g => { g with deniedPort := satAdd g.deniedPort 1 }) via cmd ctx St.deniedPort 0 []

/-- Status with which a module that does not run commands answers (R470, R534; log 60): BUSY while it starts, DEGRADED in
Parsley and recovery, DISABLED when off, BUSY while a zeroisation or power-off is in progress. -/
def idleStatus (s : State) : Option Status :=
  match s.sys.state.toNat with
  | 1 => if s.sage.zeroising.isSome then some St.busy else none
  | 4 => if s.sage.zeroising.isSome then some St.busy else none
  | 0 => some St.busy | 2 => some St.degraded | 3 => some St.degraded | 5 => some St.disabled | _ => none
/-- In Parsley every operator command but ATTEST, TELEMETRY, ZEROISE, POWER_OFF and FW_UPDATE is answered with DEGRADED
(R470, R534). -/
def whenReady (s : State) (via : Via) (cmd ctx : BitVec 16) (f : State → State) : State :=
  match idleStatus s with
  | some st => answer s via cmd ctx st 0 []
  | none => f s

/-- Does the mailbox's receiver accept the command code (Table 14-3)? -/
def boxAccepts (via : Via) (cmd : BitVec 16) : Bool :=
  match via with
  | .mailbox n _ => if n.val < 16 then decide (cmd.toNat < 0x20) else if 24 ≤ n.val ∧ n.val < 32 then decide (0x20 ≤ cmd.toNat) else true
  | _ => true

/-- A command permitted only where `ok`; a code that the mailbox does not take is BAD_FORMAT (R465). -/
def permitted (s : State) (via : Via) (cmd ctx : BitVec 16) (ok : Bool) (f : State → State) : State :=
  if !ok then denied s via cmd ctx
  else if !boxAccepts via cmd then answer s via cmd ctx St.badFormat 0 []
  else whenReady s via cmd ctx f

/-- An immediate answer with status. -/
def reply (s : State) (via : Via) (cmd ctx : BitVec 16) (st : Status) (v : Nat) : State := answer s via cmd ctx st v []

/-- A write pair whose halves do not agree: counted, and logged with the word of the value register at byte offset `off`; nothing changes (R569). -/
def pairBad (s : State) (off : Nat) : State :=
  s.modSys fun y =>
    let y := { y with pairMismatch := satAdd y.pairMismatch 1 }
    if y.pairValid then y else { y with pairOff := BitVec.ofNat 26 (off / 4), pairKind := 1, pairValid := true }

/-- Bytes written over a page, zeros after them. -/
def writePage (s : State) (g : Nat) (bs : List Byte) : State :=
  { s with stack := bwrite (bzero s.stack (g * 65536) ((g + 1) * 65536)) (g * 65536) bs }

/-- Bytes of a module digest number, little-endian. -/
def numBytes (n v : Nat) : List Byte := leBytes n v

end Sys2Proof.Machine
end

