-- ==== Sys2Proof/Machine/Link.lean ====
section
/-! DEFINITION. Packets that leave through a Fennel port (R495 to R498, R501, R506). -/

namespace Sys2Proof.Machine

/-- Is the port up (Table 16-6)? -/
def Port.up (p : Port) : Bool := p.state == 2

/-- Direction of this module's traffic on a port: 0 from the lower board slot (R498). -/
def txDir (s : State) (n : Nat) : Nat := if s.gov.slot.toNat < (s.port n).peer.toNat then 0 else 1

/-- IV of a packet (R498). -/
def linkIv (dir : Nat) (counter : BitVec 64) : BitVec 96 :=
  BitVec.ofNat 96 (dir + counter.toNat * 2 ^ 32)

/-- CRC-32 of IEEE 802.3 (R497): reflected polynomial, register of ones at the start, complemented at the end (log 121). -/
def crc32 (bs : List Byte) : BitVec 32 :=
  let bit (c : BitVec 32) (_ : Nat) : BitVec 32 := if c.getLsbD 0 then (c >>> 1) ^^^ 0xEDB88320 else c >>> 1
  ~~~(bs.foldl (fun c b => (List.range 8).foldl bit (c ^^^ b.setWidth 32)) 0xFFFFFFFF)

/-- Payload of a packet, padded with zeros to whole cells (R495); a LINK message's fields are encoded by `Config.linkMessage`. -/
def OutPkt.payload (k : OutPkt) : List Byte :=
  let bs := if k.type = 5 then Config.linkMessage k.kind k.args k.bytes else k.bytes
  bs ++ List.replicate (256 * max 1 ((bs.length + 255) / 256) - bs.length) 0
/-- Payload cells of a packet; padding counts as payload (R495). -/
def OutPkt.cells (k : OutPkt) : Nat := k.payload.length / 256

/-- Header bytes 0 to 27 (Table 16-2) of a packet, protected or not, with the fields partition, core, slot, offset, step; an
IDLE packet carries a NAK (R501). -/
def linkHeader (p : Port) (prot : Bool) (dpart : Nat) (k : OutPkt) : List Byte :=
  let nak := k.type = 0 ∧ k.args.getD 0 0 = 1
  let a (i : Nat) := if k.type = 0 ∨ k.type = 5 then 0 else k.args.getD i 0
  leBytes 1 k.type ++ leBytes 1 ((if prot then 1 else 0) + 2 * (k.cells - 1))
    ++ leBytes 2 p.seqTx.toNat ++ leBytes 2 (if nak then k.args.getD 1 0 else p.seqRx.toNat)
    ++ leBytes 2 ((if nak then 1 else 0) + 2 * dpart + 16 * a 0)
    ++ leBytes 2 (a 1) ++ leBytes 2 (a 2) ++ leBytes 4 (a 3) ++ leBytes 4 (a 4) ++ leBytes 8 (if prot then p.ctrTx.toNat else 0)

/-- Cells of a packet with these header bytes and cells of payload: the header cell with the CRC in bytes 28 to 31, then the
payload and any tag cell (R495, R497). -/
def wireCells (header body : List Byte) : List Byte :=
  header ++ leBytes 4 (crc32 (header ++ body)).toNat ++ List.replicate 224 0 ++ body

/-! ### The line (R494, R495, Table 16-1) -/

/-- Units of line time in a cycle: a port carries 6,800 bytes of cells a tick, so a cell of 256 bytes takes 512 units of
1/425 cycle. -/
def lineUnits : Nat := 425
/-- Line time of a packet: its header cell, its payload cells and, when protected, a tag cell. -/
def lineTime (prot : Bool) (cells : Nat) : Nat := 512 * (1 + cells + (if prot then 1 else 0))
/-- Largest payload of a packet (Table 16-1). -/
def maxPayload (p : Port) : Nat := if p.live = 2 then 7936 else 8192
/-- Share of a partition on a port in sixteenths, as last written. -/
def Port.share (p : Port) (k : Nat) : Nat := (sget 0 p.shares k).toNat
/-- The share in force at a line time: a write takes effect at the next tick edge (R503). -/
def Port.shareAt (p : Port) (k t : Nat) : Nat :=
  match p.oldShares with
  | some (edge, old) => if t < edge then (sget 0 old k).toNat else p.share k
  | none => p.share k
/-- Schedulable payload of a sixteenth of a port per tick (Table 16-1). -/
def Port.sixteenth (p : Port) : Nat := if p.live = 2 then 375 else 400
/-- Line time that a share of `w` sixteenths allows for payload cells: a tick is 32 · 425 units (Table 16-1). -/
def shareTime (p : Port) (w cells : Nat) : Nat := cells * 256 * (32 * lineUnits) / (p.sixteenth * w)

/-- One packet leaves: in protected mode the payload is sealed and the counter moves on; LINK kinds 1 to 6 are always
protected once the port holds keys (R498, R506). The last 256 packets are kept for replay (R501). -/
def send1 (s : State) (n : Nat) (dpart : Nat) (k : OutPkt) : State :=
  let p := s.port n
  let prot : Bool := p.live == 2 || (p.state == 2 && k.type == 5 && decide (1 ≤ k.kind) && decide (k.kind ≤ 6))
  let h := linkHeader p prot dpart k
  let sealed := Config.gcmSeal p.keyTx (linkIv (txDir s n) p.ctrTx) h k.payload
  let k' : OutPkt := if prot then { k with bytes := sealed, wire := wireCells h (sealed ++ List.replicate 240 0) }
    else { k with wire := wireCells h k.payload }
  s.setPort n { p with
    out := p.out ++ [k'], seqTx := p.seqTx + 1, ctrTx := if prot then p.ctrTx + 1 else p.ctrTx,
    lineFree := max p.lineFree (lineUnits * s.gov.now) + lineTime prot k.cells,
    unacked := (p.unacked ++ [(p.seqTx.toNat, k', 1)]).drop (p.unacked.length + 1 - 256) }

/-! ### Service of the waiting transfers (R502) -/

/-- The transfer of partition k that a port serves next: DATA and PIPE before CKPT. -/
def headWaiting (p : Port) (k : Nat) : Option Waiting :=
  (p.waiting.find? fun w => w.part == k && w.pkt.type != 3).orElse fun _ => p.waiting.find? fun w => w.part == k

/-- When the line begins its next packet. -/
def nextStart (p : Port) : Nat := max p.lineFree ((p.waiting.map (·.at_)).foldl min ((p.waiting.map (·.at_)).headD 0))

/-- The transfer served at a line time: of the partitions within their share the one whose share has been free longest, at
one time the lowest (log 118); with none, the lowest partition that has packets queued. -/
def pickWaiting (p : Port) (t : Nat) : Option Waiting :=
  let heads := (List.range 8).filterMap (headWaiting p)
  let own := heads.filter fun w => decide (0 < p.shareAt w.part t) && decide (sget 0 p.shareUsed w.part ≤ t)
  match own with
  | [] => heads.head?
  | w :: ws => some (ws.foldl (fun b x => if sget 0 p.shareUsed x.part < sget 0 p.shareUsed b.part then x else b) w)

/-- Packet fields after `u` units of 64 bytes have left: DOFF, and for CKPT the offset that runs over DCORE, DSLOT and DOFF
(log 67). -/
def advanceArgs (k : OutPkt) (u : Nat) : List Nat :=
  let a (i : Nat) := k.args.getD i 0
  if k.type = 3 then
    let off := a 3 + u + 8192 * (a 2 + 512 * a 1)
    [a 0, off / 2 ^ 22, off / 2 ^ 13 % 512, off % 8192, a 4]
  else [a 0, a 1, a 2, a 3 + u, a 4]

/-- What is left of a transfer after its next packet of at most `size` bytes. -/
def Waiting.rest (w : Waiting) (size : Nat) : List Waiting :=
  let bs := w.pkt.bytes.drop size
  if bs.isEmpty then [] else [{ w with pkt := { w.pkt with args := advanceArgs w.pkt (size / 64), bytes := bs } }]

/-- The queue after the next packet of its transfer w. -/
def afterPacket (w : Waiting) (size : Nat) (l : List Waiting) : List Waiting :=
  l.takeWhile (· != w) ++ w.rest size ++ (l.dropWhile (· != w)).drop 1

/-- One packet of transfer w leaves at line time t. -/
def serveOne (s : State) (n t : Nat) (w : Waiting) : State :=
  let p := s.port n
  let size := maxPayload p
  let k : OutPkt := { w.pkt with bytes := w.pkt.bytes.take size }
  let share := p.shareAt w.part t
  let s := send1 s n w.dpart k
  s.modPort n fun q =>
    { q with lineFree := t + lineTime (p.live == 2) k.cells,
             waiting := afterPacket w size p.waiting,
             shareUsed := if share = 0 then p.shareUsed
               else sput 0 p.shareUsed w.part (max (sget 0 p.shareUsed w.part) t + shareTime p share k.cells) }

/-- The packets that begin before line time `lim` leave, `fuel` at most. -/
def serveWaiting (n lim : Nat) : Nat → State → State
  | 0, s => s
  | fuel + 1, s =>
    let p := s.port n
    let t := nextStart p
    if p.waiting.isEmpty || decide (lim ≤ t) then s
    else match pickWaiting p t with
      | none => s
      | some w => serveWaiting n lim fuel (serveOne s n t w)

/-- Service of a port up to line time `lim`; nothing leaves through a port that is down. -/
def serveTo (s : State) (n lim : Nat) : State :=
  if (s.port n).up then
    serveWaiting n lim (((s.port n).waiting.map fun w => w.pkt.bytes.length / 7936 + 1).foldl (· + ·) 0) s
  else s
/-- Service of a port up to now. -/
def servePort (s : State) (n : Nat) : State := serveTo s n (lineUnits * s.gov.now + 1)

/-- Payload of partition `part` for the peer joins the queue of a port that is up. -/
def sendData (s : State) (n part dpart : Nat) (k : OutPkt) : State :=
  if (s.port n).up ∧ k.bytes ≠ [] then
    servePort ((servePort s n).modPort n fun p => { p with waiting := p.waiting ++ [⟨part, dpart, lineUnits * s.gov.now, k⟩] }) n
  else s

/-- A BAY packet or a NAK, ahead of what waits (R502). -/
def sendFirst (s : State) (n : Nat) (k : OutPkt) : State := send1 (servePort s n) n 0 k

/-- A LINK message (Table 16-3), ahead of what waits (R502). -/
def sendLink (s : State) (n kind : Nat) (args : List Nat) (bytes : List Byte) : State :=
  sendFirst s n ⟨5, kind, args, bytes, []⟩

end Sys2Proof.Machine
end

