-- ==== Sys2Proof/Machine/Sequencer.lean ====
section
/-! DEFINITION. The sequencer of a core: issue, scalar instructions, loops, TILE, BUDGET, WAITQ, DSTEP, and the issue of
engine instructions into their queues (chapter 7, R217 to R238; R283). A command to issue an instruction in a cycle in
which R219 issues nothing leaves the state as it is. -/

namespace Sys2Proof.Machine

/-! ### Registers, depths, stamps -/

/-- sN of a core; s0 reads 0 (R218). -/
def Core.reg (c : Core) (r : SReg) : W32 := if r = 0 then 0 else sget 0 c.regs r.toNat
/-- sN written; a write to s0 is ignored (R218). -/
def Core.setReg (c : Core) (r : SReg) (v : W32) : Core := if r = 0 then c else { c with regs := sput 0 c.regs r.toNat v }

/-- Entries of queue `q` (Table 7-1); queue 5 holds the fetches of prefetch rings, which are no instructions. -/
def Core.queue (c : Core) (q : Nat) : List QEntry := sget [] c.queues q
/-- Queue `q` replaced. -/
def Core.setQueue (c : Core) (q : Nat) (l : List QEntry) : Core := { c with queues := sput [] c.queues q l }
/-- Depth of a queue (R221). -/
def Core.depth (c : Core) (q : Nat) : Nat := (c.queue q).length
/-- Capacity of a queue (Table 7-1). -/
def queueCap : Nat → Nat
  | 0 | 1 => 32 | 2 | 3 => 64 | _ => 16
/-- Has the core nothing issued that is not complete (ring fetches counted too)? -/
def Core.drained (c : Core) : Bool := (List.range 6).all fun q => (c.queue q).isEmpty
/-- Every queue of the core at depth 0 (R236). -/
def Core.depth0 (c : Core) : Bool := (List.range 5).all fun q => (c.queue q).isEmpty

/-- Start tick of the current iteration of a level (R227). -/
def LoopLvl.iterStart (l : LoopLvl) : Nat := l.start + l.idx * l.period
/-- Region base (R225). -/
def regionBase (loops : List LoopLvl) (seg : Nat) : Nat :=
  match loops.getLast? with
  | none => seg
  | some l => l.iterStart
/-- Time a stamp resolves to, in active cycles (R225). -/
def Core.stamp (c : Core) (h : Hdr) : Nat := 32 * (regionBase c.loops c.segBase + h.tick.toNat) + h.cyc.toNat

/-- The instruction at the body end of the innermost level has issued, and the level decides (R227). -/
def Core.atBodyEnd (c : Core) : Bool :=
  match c.loops.getLast? with
  | none => false
  | some l => c.pc == l.last + 1

/-- May the core issue (R219, R228, R235)? -/
def Core.canIssue (c : Core) : Bool :=
  c.st == .running && !c.ended && !c.halted && c.wait == .none && !c.atBodyEnd

/-- Cycle of the next issue: one instruction per cycle (R219). -/
def issueTime (s : State) (c : Nat) : Nat := max s.gov.now (s.core c).lastIssue

/-- One issue: time, program counter, and the effect `f` on the core. -/
def issue (s : State) (c : Nat) (f : Core → Core) : State :=
  if (s.core c).canIssue then
    let t := issueTime s c
    (s.advance t).setCore c (f { s.core c with pc := (s.core c).pc + 1, lastIssue := t + 1 })
  else s

/-! ### Faults a core records (R223, R259) -/

/-- CORE_FAULT keeps the first fault until VALID is cleared (R259). Times in active cycles. -/
def Core.fault1 (c : Core) (pc : BitVec 14) (st : Status) (cause : BitVec 3) (ex ac : Nat) : Core :=
  if c.fault.valid then c
  else { c with fault := ⟨pc, st, cause, true, BitVec.ofNat 64 (ex / 32), BitVec.ofNat 5 (ex % 32),
                          BitVec.ofNat 64 (ac / 32), BitVec.ofNat 5 (ac % 32)⟩ }

/-- Kind of the fault record of a core fault: schedule faults 0x08 (class 6), descriptor, page and format faults 0x0A
(class 4), budget faults 0x09 (class 5) (Table 18-1; a BAD_FORMAT at run time has no row of its own, log 20). -/
def coreKind (st : Status) : Nat × Nat :=
  if st = St.scheduleFault then (0x08, 6) else if st = St.budgetFault then (0x09, 5) else (0x0A, 4)

/-- A fault of a core: CORE_FAULT, one record unless VALID already held one (R547), and the job of its partition marked
to stop (R223, R228, R232, R278, R592). -/
def coreFault (s : State) (c : Nat) (pc : BitVec 14) (st : Status) (cause : BitVec 3) (ex ac : Nat) : State :=
  let held := (s.core c).fault.valid
  let s := s.modCore c fun k => k.fault1 pc st cause ex ac
  match partOfCore s c with
  | none => s
  | some p =>
    let k := coreKind st
    let s := if held then s
      else recordNext s { kind := k.1, cls := k.2, status := st, scope := .partition p, source := c, detail := c,
                          detail2 := pc.toNat, parsley := false, reset := false }
    markStop s p st

/-- A time that the spec does not state for a fault's expected or actual fields: a free value (log 21). -/
def freeTime (s : State) : Nat × State :=
  let (n, s) := draw s
  (((Config.freeBits n).extractLsb' 0 69).toNat, s)

/-- A fault of a cause for which no rule states the expected and actual times (log 21). -/
def coreFaultFree (s : State) (c : Nat) (pc : BitVec 14) (st : Status) (cause : BitVec 3) : State :=
  let (ex, s) := freeTime s
  let (ac, s) := freeTime s
  coreFault s c pc st cause ex ac

/-! ### Scalar instructions (Table 7-5) -/

/-- sD takes the value of `f` on the core. -/
def scalar (s : State) (c : Nat) (d : SReg) (f : Core → W32) : State := issue s c fun k => k.setReg d (f k)

def execNop (c : CoreN) (s : State) : Host.Outcome State Fault Refusal := .next (issue s c id)
def execSli (c : CoreN) (d : SReg) (imm : W32) (s : State) : Host.Outcome State Fault Refusal :=
  .next (scalar s c d fun _ => imm)
def execSadd (c : CoreN) (d a b : SReg) (s : State) : Host.Outcome State Fault Refusal :=
  .next (scalar s c d fun k => k.reg a + k.reg b)
def execSaddi (c : CoreN) (d a : SReg) (imm : W32) (s : State) : Host.Outcome State Fault Refusal :=
  .next (scalar s c d fun k => k.reg a + imm)
def execSsub (c : CoreN) (d a b : SReg) (s : State) : Host.Outcome State Fault Refusal :=
  .next (scalar s c d fun k => k.reg a - k.reg b)
def execSmul (c : CoreN) (d a b : SReg) (s : State) : Host.Outcome State Fault Refusal :=
  .next (scalar s c d fun k => k.reg a * k.reg b)
def execSand (c : CoreN) (d a b : SReg) (s : State) : Host.Outcome State Fault Refusal :=
  .next (scalar s c d fun k => k.reg a &&& k.reg b)
def execSor (c : CoreN) (d a b : SReg) (s : State) : Host.Outcome State Fault Refusal :=
  .next (scalar s c d fun k => k.reg a ||| k.reg b)
def execSxor (c : CoreN) (d a b : SReg) (s : State) : Host.Outcome State Fault Refusal :=
  .next (scalar s c d fun k => k.reg a ^^^ k.reg b)
/-- Shift by bits [4:0] of the second operand (R235). -/
def execSshl (c : CoreN) (d a b : SReg) (s : State) : Host.Outcome State Fault Refusal :=
  .next (scalar s c d fun k => k.reg a <<< ((k.reg b).toNat % 32))
/-- Shift with zero fill (R235). -/
def execSshr (c : CoreN) (d a b : SReg) (s : State) : Host.Outcome State Fault Refusal :=
  .next (scalar s c d fun k => k.reg a >>> ((k.reg b).toNat % 32))
/-- Unsigned minimum (R235). -/
def execSmin (c : CoreN) (d a b : SReg) (s : State) : Host.Outcome State Fault Refusal :=
  .next (scalar s c d fun k => if (k.reg b).ult (k.reg a) then k.reg b else k.reg a)
/-- Unsigned maximum (R235). -/
def execSmax (c : CoreN) (d a b : SReg) (s : State) : Host.Outcome State Fault Refusal :=
  .next (scalar s c d fun k => if (k.reg a).ult (k.reg b) then k.reg b else k.reg a)

/-- Address of the aligned word that SLD and SST access, inside the core's scratchpad (R235). -/
def wordAddr (k : Core) (a : SReg) (imm : W32) : Nat := (k.reg a + imm).toNat % 2 ^ 21 / 4 * 4
/-- The 32-bit word at a scratchpad byte address. -/
def scrWord (s : State) (c a : Nat) : W32 := BitVec.ofNat 32 (ofLeBytes (bread s.scratch (scrAddr c a) 4))

def execSld (c : CoreN) (d a : SReg) (imm : W32) (s : State) : Host.Outcome State Fault Refusal :=
  .next (scalar s c d fun k => scrWord s c (wordAddr k a imm))
def execSst (c : CoreN) (d a : SReg) (imm : W32) (s : State) : Host.Outcome State Fault Refusal :=
  let k := s.core c
  .next (if k.canIssue then
      let t := issue s c id
      { t with scratch := bwrite t.scratch (scrAddr c (wordAddr k a imm)) (leBytes 4 (k.reg d).toNat) }
    else s)
def execSidx (c : CoreN) (d : SReg) (level : BitVec 2) (s : State) : Host.Outcome State Fault Refusal :=
  .next (scalar s c d fun k => match k.loops[level.toNat]? with | none => 0 | some l => BitVec.ofNat 32 l.idx)
def execSfeat (c : CoreN) (d : SReg) (index : BitVec 6) (s : State) : Host.Outcome State Fault Refusal :=
  .next (scalar s c d fun _ => featReg s index.toNat)

/-! ### Control -/

/-- A core that issues nothing further: reserved opcode or fifth LOOP (R228). -/
def haltCore (s : State) (c : Nat) : State :=
  if (s.core c).canIssue then
    let t := issueTime s c
    let pc := (s.core c).pc
    let s := (s.advance t).modCore c fun k =>
      { k with halted := true, lastIssue := t + 1, st := if k.drained then .stopped else k.st }
    coreFaultFree s c pc St.badFormat 3
  else s

def execReservedOpcode (c : CoreN) (s : State) : Host.Outcome State Fault Refusal := .next (haltCore s c)

/-- Rings whose PREFETCH directly precedes the LOOP at `pc` bind to it (R254). -/
def bindRings (k : Core) (pc : BitVec 14) (lvl : Nat) : Core :=
  { k with rings := k.rings.map fun r => if r.pc + 1 = pc ∧ r.level = 4 then { r with level := lvl } else r }

/-- Registers an engine operation names (R220). -/
def opRegs : EngineOp → List SReg
  | .amm f => [f.alpha, f.tid, f.step]
  | .varith f | .vfunc f | .vlogic f | .vcvt f => [f.tid, f.step, f.ss]
  | .vred f => [f.ib]
  | .vtopk f => [f.ib]
  | .vsplit f => [f.cnt]
  | .vupd f => [f.n, f.res, f.tid, f.step]
  -- the packet carries s24 at issue (Table 16-2)
  | .xsend _ => [24]
  | _ => []

/-- Queue of an engine operation (Table 7-1). -/
def opQueue : EngineOp → Nat
  | .cbuf _ | .cfwd _ | .ctrn _ | .cload _ => 0
  | .amm _ => 1
  | .varith _ | .vfunc _ | .vlogic _ | .vcvt _ | .vred _ | .vtopk _ | .vsplit _ | .vupd _ => 2
  | .copy _ | .gather _ | .scatter _ | .prefetch _ | .commit _ => 3
  | .ringFetch _ _ => 5
  | .xsend _ | .xlate _ => 4

/-- Queue entry of an operation issued in cycle t by core k at address pc (R220, R225). -/
def mkEntry (k : Core) (op : EngineOp) (pc : BitVec 14) (t : Nat) (stamp : Option Nat) : QEntry :=
  { serial := k.serial, op := op, pc := pc, issued := t, stamp := stamp, regs := (opRegs op).map fun r => (r, k.reg r),
    loops := k.loops, segBase := k.segBase, launched := none }

/-- The entry enters its queue. -/
def Core.enqueue (k : Core) (e : QEntry) : Core :=
  { k.setQueue (opQueue e.op) (k.queue (opQueue e.op) ++ [e]) with serial := k.serial + 1 }

/-- Fetch i + D of every ring bound to level `lvl`, at the start tick of iteration i of level `l` (R207, R254). -/
def ringFetches (k : Core) (lvl : Nat) (l : LoopLvl) (t : Nat) : Core :=
  k.rings.foldl (fun k r =>
    let j := l.idx + r.f.dm1.toNat + 1
    if r.level = lvl ∧ j < l.count then
      k.enqueue { mkEntry k (.ringFetch r.f j) r.pc t (some (32 * l.iterStart)) with loops := r.loops }
    else k) k

/-- LOOP (R227, R228): opens a level, or skips the body for a count of 0; a fifth level halts the core. -/
def loopAt (s : State) (c : Nat) (h : Hdr) (cnt : SReg) (last : BitVec 14) (period : BitVec 16) : State :=
  let k := s.core c
  if 4 ≤ k.loops.length then haltCore s c
  else issue s c fun k' =>
    let n := (k.reg cnt).toNat
    if n = 0 then { bindRings k' k.pc 5 with pc := last + 1 }
    else
      let l : LoopLvl := ⟨k.pc + 1, last, n, 0, k.stamp h / 32, period.toNat⟩
      let k1 := bindRings { k' with loops := k.loops ++ [l] } k.pc k.loops.length
      ringFetches k1 k.loops.length l (issueTime s c)

def execLoop (c : CoreN) (h : Hdr) (cnt : SReg) (last : BitVec 14) (period : BitVec 16) (s : State) :
    Host.Outcome State Fault Refusal := .next (loopAt s c h cnt last period)

/-- LOOP_ITERATION_START: at the body end the level returns to its body start, or closes (R227). -/
def iterate (s : State) (c : Nat) : State :=
  let k := s.core c
  if k.atBodyEnd && k.st == .running && !k.ended && !k.halted && k.wait == .none then
    match k.loops.getLast? with
    | none => s
    | some l =>
      if l.idx + 1 < l.count then
        let l' := { l with idx := l.idx + 1 }
        s.setCore c (ringFetches { k with loops := k.loops.dropLast ++ [l'], pc := l.body } (k.loops.length - 1) l'
          (issueTime s c))
      else s.setCore c { k with loops := k.loops.dropLast,
                                rings := k.rings.filter fun r => r.level + 1 != k.loops.length }
  else s

def execLoopIterationStart (c : CoreN) (s : State) : Host.Outcome State Fault Refusal := .next (iterate s c)

/-- TILE (R236): nothing issues until its stamp. -/
def execTile (c : CoreN) (h : Hdr) (save resume : BitVec 14) (s : State) : Host.Outcome State Fault Refusal :=
  .next (issue s c fun k => { k with wait := .tile ((s.core c).stamp h) save resume (s.core c).pc,
                                     lastTile := ((s.core c).pc, save, resume) })

/-- BUDGET (R237, R283): the declaration applies to tick T only when it issued before the start of tick T - 1; a later one
applies from the first tick that meets this, and the core records a late launch. -/
def budgetAt (s : State) (c : Nat) (h : Hdr) (q : BitVec 8) (span : BitVec 16) : State :=
  if (s.core c).canIssue then
    let k := s.core c
    let t := issueTime s c
    let from_ := k.stamp h / 32
    let eff := max from_ (t / 32 + 2)
    let s' := issue s c fun k' => { k' with budget := ⟨from_, span.toNat, q.toNat, eff⟩ :: k'.budget }
    if from_ < eff then coreFault s' c k.pc St.scheduleFault 0 (32 * from_) (32 * eff) else s'
  else s

def execBudget (c : CoreN) (h : Hdr) (q : BitVec 8) (span : BitVec 16) (s : State) : Host.Outcome State Fault Refusal :=
  .next (budgetAt s c h q span)

/-- WAITQ: issue holds until the queue's depth is at most DEPTH (R235). There is no queue 5 to 7: such a WAITQ waits for
nothing (log 35). -/
def execWaitq (c : CoreN) (queue : BitVec 3) (depth : BitVec 7) (s : State) : Host.Outcome State Fault Refusal :=
  .next (if 5 ≤ queue.toNat ∨ (s.core c).depth queue.toNat ≤ depth.toNat then issue s c id else s)

/-- DSTEP holds the sequencer until Dill's posting (R238). -/
def execDstep (c : CoreN) (s : State) : Host.Outcome State Fault Refusal :=
  .next (issue s c fun k => { k with wait :=
    if k.lastTile.1 + 2 = k.pc then .dstep k.lastTile.2.1 k.lastTile.2.2 else .dstep 0 0 })

/-- DSTEP_RESUME: at cycle 0 of the posted tick issue resumes, and the tick is the segment base (R238). -/
def execDstepResume (c : CoreN) (s : State) : Host.Outcome State Fault Refusal :=
  .next (match (s.core c).wait with
    | .posted t => (s.advance (32 * t)).modCore c fun k => { k with wait := .none, segBase := t, lastIssue := max k.lastIssue (32 * t) }
    | _ => s)

/-- The job of a partition has ended: every core of the running image has reached END with every queue at depth 0. -/
def jobEnded (s : State) (p : Nat) : Bool :=
  match (s.part p).running with
  | none => false
  | some i =>
    match ((s.part p).img.getD i Img.fresh).info with
    | none => false
    | some info => info.cores.all fun c => (s.core c).ended && (s.core c).drained

/-- The step in progress is over without results; its requests stay queued. -/
def leaveStep (s : State) (p : Nat) : State :=
  s.modPart p fun q =>
    { q with dill := { q.dill with inStep := false, rowCtx := [], reqs := q.dill.reqs.map fun r => { r with rows := 0 } } }

/-- A job that ends by END leaves its image READY with OK (R334, Table 10-2); a save sequence that ends with END is the
yield's (R335) and is left to JOB_YIELD. -/
def checkEnd (s : State) (c : Nat) : State :=
  match partOfCore s c with
  | none => s
  | some p => if jobEnded s p && !(s.part p).saving then endJobNow (leaveStep s p) p .ready St.ok .idle else s

/-- END (R235). -/
def execEndJob (c : CoreN) (s : State) : Host.Outcome State Fault Refusal :=
  .next (checkEnd (issue s c fun k => { k with ended := true }) c)

/-! ### Issue of engine instructions (R219, R220) -/

/-- An engine instruction enters its queue at issue, unless the queue is full (R219). -/
def issueEngine (s : State) (c : Nat) (h : Hdr) (op : EngineOp) : State :=
  let k := s.core c
  if k.depth (opQueue op) < queueCap (opQueue op) then
    issue s c fun k' =>
      k'.enqueue (mkEntry k op k.pc (issueTime s c) (if h.s then some (k.stamp h) else none))
  else s

def execCbuf (c : CoreN) (h : Hdr) (f : CbufF) (s : State) : Host.Outcome State Fault Refusal := .next (issueEngine s c h (.cbuf f))
def execCfwd (c : CoreN) (h : Hdr) (f : ChainF) (s : State) : Host.Outcome State Fault Refusal := .next (issueEngine s c h (.cfwd f))
def execCtrn (c : CoreN) (h : Hdr) (f : ChainF) (s : State) : Host.Outcome State Fault Refusal := .next (issueEngine s c h (.ctrn f))
def execCload (c : CoreN) (h : Hdr) (f : CloadF) (s : State) : Host.Outcome State Fault Refusal := .next (issueEngine s c h (.cload f))
def execAmm (c : CoreN) (h : Hdr) (f : AmmF) (s : State) : Host.Outcome State Fault Refusal := .next (issueEngine s c h (.amm f))
def execVarith (c : CoreN) (h : Hdr) (f : ElemF) (s : State) : Host.Outcome State Fault Refusal := .next (issueEngine s c h (.varith f))
def execVfunc (c : CoreN) (h : Hdr) (f : ElemF) (s : State) : Host.Outcome State Fault Refusal := .next (issueEngine s c h (.vfunc f))
def execVlogic (c : CoreN) (h : Hdr) (f : ElemF) (s : State) : Host.Outcome State Fault Refusal := .next (issueEngine s c h (.vlogic f))
def execVcvt (c : CoreN) (h : Hdr) (f : ElemF) (s : State) : Host.Outcome State Fault Refusal := .next (issueEngine s c h (.vcvt f))
def execVred (c : CoreN) (h : Hdr) (f : VredF) (s : State) : Host.Outcome State Fault Refusal := .next (issueEngine s c h (.vred f))
def execVtopk (c : CoreN) (h : Hdr) (f : VtopkF) (s : State) : Host.Outcome State Fault Refusal := .next (issueEngine s c h (.vtopk f))
def execVsplit (c : CoreN) (h : Hdr) (f : VsplitF) (s : State) : Host.Outcome State Fault Refusal := .next (issueEngine s c h (.vsplit f))
def execVupd (c : CoreN) (h : Hdr) (f : VupdF) (s : State) : Host.Outcome State Fault Refusal := .next (issueEngine s c h (.vupd f))
def execCopy (c : CoreN) (h : Hdr) (f : ChvF) (s : State) : Host.Outcome State Fault Refusal := .next (issueEngine s c h (.copy f))
def execGather (c : CoreN) (h : Hdr) (f : ChvF) (s : State) : Host.Outcome State Fault Refusal := .next (issueEngine s c h (.gather f))
def execScatter (c : CoreN) (h : Hdr) (f : ChvF) (s : State) : Host.Outcome State Fault Refusal := .next (issueEngine s c h (.scatter f))
/-- PREFETCH also names a ring that the LOOP directly following it binds (R254); level 4 stands for not yet bound. -/
def execPrefetch (c : CoreN) (h : Hdr) (f : PrefF) (s : State) : Host.Outcome State Fault Refusal :=
  let k := s.core c
  .next (if k.canIssue && decide (k.depth 3 < queueCap 3) then
      (issueEngine s c h (.prefetch f)).modCore c fun k' => { k' with rings := k'.rings ++ [⟨f, 4, k.loops, k.pc⟩] }
    else s)
def execCommit (c : CoreN) (h : Hdr) (f : CommitF) (s : State) : Host.Outcome State Fault Refusal := .next (issueEngine s c h (.commit f))
def execXsend (c : CoreN) (h : Hdr) (f : XsendF) (s : State) : Host.Outcome State Fault Refusal := .next (issueEngine s c h (.xsend f))
def execXlate (c : CoreN) (h : Hdr) (f : XlateF) (s : State) : Host.Outcome State Fault Refusal := .next (issueEngine s c h (.xlate f))

end Sys2Proof.Machine
end

