-- ==== Sys2Proof/Machine/Operands.lean ====
section
/-! DEFINITION. Operand forms: tensor descriptors and their addresses (R229 to R231), tiers and page rights (R187, R232),
reading and writing elements, the checks of a first read (R276, R278), cache lookup (R192, R194). -/

namespace Sys2Proof.Machine

/-- A descriptor (Table 7-2). -/
structure Desc where
  tier : Nat
  fmtCode : Nat
  read : Bool
  write : Bool
  indexRight : Bool
  commitRight : Bool
  ring : Nat
  ringLevel : Nat
  port : Nat
  blocked : Bool
  blockLen : Nat
  addr : Nat
  dims : List Nat
  strides : List Nat
  scale : Nat
  index : Nat
  ctx : BitVec 16
  slot : Nat
  iter0 : W32
  iter1 : W32
  deriving DecidableEq, Repr

/-- Block lengths of codes 0 to 3. -/
def blockLenOf (c : Nat) : Nat := match c with | 0 => 16 | 1 => 32 | 2 => 64 | _ => 256

/-- Bit field of a descriptor word. -/
def fld (w : BitVec 512) (lo n : Nat) : Nat := (w.extractLsb' lo n).toNat

/-- Decoding of Table 7-2. -/
def Desc.of (w : BitVec 512) : Desc :=
  { tier := fld w 0 4, fmtCode := fld w 4 4, read := w.getLsbD 8, write := w.getLsbD 9, indexRight := w.getLsbD 10,
    commitRight := w.getLsbD 11, ring := fld w 12 4, ringLevel := fld w 16 2, port := fld w 18 3, blocked := w.getLsbD 21,
    blockLen := blockLenOf (fld w 22 2), addr := if fld w 0 4 = 1 then fld w 24 21 else fld w 24 40,
    dims := (List.range 5).map fun k => fld w (64 + 32 * k) 32,
    strides := (List.range 5).map fun k => fld w (224 + 32 * k) 32,
    scale := fld w 384 12, index := fld w 400 12, ctx := w.extractLsb' 416 16, slot := fld w 432 9,
    iter0 := w.extractLsb' 448 32, iter1 := w.extractLsb' 480 32 }

/-- Descriptor `h` of a core. -/
def Core.descOf (k : Core) (h : Handle) : Desc := Desc.of (sget 0 k.desc h.toNat)

/-- DIM k. -/
def Desc.dim (d : Desc) (k : Nat) : Nat := d.dims.getD k 1
/-- STRIDE k. -/
def Desc.stride (d : Desc) (k : Nat) : Nat := d.strides.getD k 0
/-- Elements. -/
def Desc.count (d : Desc) : Nat := d.dims.foldl (· * ·) 1
/-- Rows: combinations of the outer indices. -/
def Desc.rows (d : Desc) : Nat := d.dim 1 * d.dim 2 * d.dim 3 * d.dim 4
/-- Format, if the code is not reserved. -/
def Desc.fmt? (d : Desc) : Option Fmt := Fmt.ofCode d.fmtCode
/-- Format; FP32 stands for a reserved code, which is refused before use (R592). -/
def Desc.fmt (d : Desc) : Fmt := d.fmt?.getD .fp32

/-- Captured index of a loop level, 0 when not open (R231). -/
def idxOf (loops : List LoopLvl) (lvl : Nat) : Nat :=
  match loops[lvl]? with
  | none => 0
  | some l => l.idx

/-- One iteration term in bytes (Table 7-2, R231). -/
def iterTerm (loops : List LoopLvl) (w : W32) : Int :=
  if w = 0 then 0 else 64 * signed 30 (w.extractLsb' 0 30).toNat * idxOf loops (w.extractLsb' 30 2).toNat

/-- A descriptor resolved for an instruction: address after iteration and ring, and the slot used (R231). -/
structure View where
  d : Desc
  base : Int
  slot : Nat
  /-- rows selected, and elements of a row, where an index stream selects them (R204) -/
  rows : Option (Nat × List Nat) := none
  deriving DecidableEq, Repr

/-- First byte of a slot (R274). -/
def SlotE.base (e : SlotE) : Nat := e.start.toNat * 4096
/-- Length of a slot in bytes. -/
def SlotE.len (e : SlotE) : Nat := (e.lenM1.toNat + 1) * 4096
/-- Slot entry of a core. -/
def Core.slot (k : Core) (n : Nat) : SlotE := sget SlotE.fresh k.slots n

/-- Resolution of a descriptor (R231). -/
def Core.view (k : Core) (loops : List LoopLvl) (h : Handle) : View :=
  let d := k.descOf h
  let a : Int := (d.addr : Int) + iterTerm loops d.iter0 + iterTerm loops d.iter1
  if 2 ≤ d.ring ∧ d.ring ≤ 9 then
    let n := d.slot + idxOf loops d.ringLevel % d.ring
    { d := d, base := a + ((k.slot n).base : Int) - ((k.slot d.slot).base : Int), slot := n }
  else { d := d, base := a, slot := d.slot }

/-- Index tuple of element n in logical row-major order, DIM0 first. -/
def Desc.tuple (d : Desc) (n : Nat) : List Nat :=
  let d0 := max (d.dim 0) 1
  let d1 := max (d.dim 1) 1
  let d2 := max (d.dim 2) 1
  let d3 := max (d.dim 3) 1
  [n % d0, n / d0 % d1, n / (d0 * d1) % d2, n / (d0 * d1 * d2) % d3, n / (d0 * d1 * d2 * d3)]

/-- Byte and bit offset of an index tuple (R231, R182, R32). -/
def Desc.offset (d : Desc) (t : List Nat) : Nat × Nat :=
  let i (k : Nat) := t.getD k 0
  let outer := i 2 * d.stride 2 + i 3 * d.stride 3 + i 4 * d.stride 4
  if d.blocked then
    let e := (i 1 % 64 * 64 + i 0 % 64) * d.fmt.bits
    (i 0 / 64 * d.stride 0 + i 1 / 64 * d.stride 1 + outer + e / 8, e % 8)
  else
    let e := i 0 * d.fmt.bits
    (i 1 * d.stride 1 + outer + e / 8, e % 8)

/-- Byte address and bit of element n. -/
def View.elemAddr (v : View) (n : Nat) : Int × Nat :=
  let o := v.d.offset (v.d.tuple n)
  (v.base + o.1, o.2)

/-- Length in bytes of the region a view spans: whole blocks in blocked layout (R182). -/
def View.span (v : View) : Nat :=
  let d := v.d
  let outer := (d.dim 2 - 1) * d.stride 2 + (d.dim 3 - 1) * d.stride 3 + (d.dim 4 - 1) * d.stride 4
  if d.blocked then
    ((d.dim 0 + 63) / 64 - 1) * d.stride 0 + ((d.dim 1 + 63) / 64 - 1) * d.stride 1 + outer + 512 * d.fmt.bits
  else (d.dim 1 - 1) * d.stride 1 + outer + (d.dim 0 * d.fmt.bits + 7) / 8

/-- Bytes of a tensor's elements, for transfer lengths. -/
def View.bytes (v : View) : Nat := (v.d.count * v.d.fmt.bits + 7) / 8

/-- Global pages that element n of a view touches. -/
def View.pageOf (v : View) (n : Nat) : List Nat :=
  let a := (v.elemAddr n).1.toNat
  [a / 65536, (a + (v.d.fmt.bits + 7) / 8 - 1) / 65536]

/-- Global pages a stack or cache view touches: those that hold a byte of an element. A view under `rows` touches only the
elements of those rows, `inner` elements each: what a GATHER reads and a SCATTER writes (R204). -/
def View.pagesOf (v : View) (rows : Option (Nat × List Nat)) : List Nat :=
  match rows with
  | none => ((List.range v.d.count).flatMap v.pageOf).eraseDups
  | some (inner, rs) => (rs.flatMap fun r => (List.range inner).flatMap fun j => v.pageOf (r * inner + j)).eraseDups

/-- All of its pages. -/
def View.pages (v : View) : List Nat := v.pagesOf none

/-! ### Adapter cache (R192, R194) -/

/-- Set of a page (R192). -/
def setOf (g : Nat) : Nat := (g ^^^ (g / 2 ^ 9) ^^^ (g / 2 ^ 18)) % 512
/-- Line of set and way. -/
def lineIx (set way : Nat) : Nat := set * 32 + way
/-- Line that holds page g within the ways of a mask. -/
def lookup (s : State) (ways : BitVec 32) (g : Nat) : Option Nat :=
  (List.range 32).find? fun w =>
    ways.getLsbD w && (match sget none s.lines (lineIx (setOf g) w) with | none => false | some l => l.gpage == g)

/-! ### Reads -/

/-- Byte of a tier at an address. What a peer's stack holds is outside the module: a free value (log 10). -/
def tierByte (s : State) (core tier : Nat) (ways : BitVec 32) (a : Nat) : Byte :=
  match tier with
  | 1 => bget s.scratch (scrAddr core (a % 2 ^ 21))
  | 3 => match lookup s ways (a / 65536) with
    | none => 0
    | some w => bget s.cacheBytes (lineIx (setOf (a / 65536)) w * 65536 + a % 65536)
  | 4 => (Config.freeBits (s.freeCtr + a)).extractLsb' 0 8
  | _ => bget s.stack a

/-- Code of element n of a view. -/
def View.elem (s : State) (core : Nat) (ways : BitVec 32) (v : View) (n : Nat) : Nat :=
  let (a, bit) := v.elemAddr n
  let bits := v.d.fmt.bits
  let byte (i : Nat) := (tierByte s core v.d.tier ways (a.toNat + i)).toNat
  if 8 ≤ bits then (List.range (bits / 8)).foldr (fun i acc => acc * 256 + byte i) 0
  else byte 0 / 2 ^ bit % 2 ^ bits

/-- Byte i of the elements in logical order, packed by R32. -/
def View.packedByte (s : State) (core : Nat) (ways : BitVec 32) (v : View) (i : Nat) : Nat :=
  let bits := v.d.fmt.bits
  if 8 ≤ bits then v.elem s core ways (i / (bits / 8)) / 256 ^ (i % (bits / 8)) % 256
  else (List.range (8 / bits)).foldr (fun j acc =>
    acc * 2 ^ bits + (if i * (8 / bits) + j < v.d.count then v.elem s core ways (i * (8 / bits) + j) else 0)) 0

/-- The bytes a transfer moves: every element in logical order, packed by R32. -/
def View.packed (s : State) (core : Nat) (ways : BitVec 32) (v : View) : List Byte :=
  (List.range v.bytes).map fun i => BitVec.ofNat 8 (v.packedByte s core ways i)

/-- Codes of all elements in logical row-major order. -/
def View.elems (s : State) (core : Nat) (ways : BitVec 32) (v : View) : List Nat :=
  (List.range v.d.count).map (v.elem s core ways)

/-- Scale code of element n: the E8M0 element of the block along DIM0 that holds it (R48); 1.0 when unscaled. DESIGN CHOICE
(log 105): where an unverified program's innermost dimension is no whole multiple of the block length, which R592 does not
refuse, the last partial block of each row has a scale of its own. -/
def scaleCode (s : State) (k : Core) (core : Nat) (ways : BitVec 32) (loops : List LoopLvl) (v : View) (n : Nat) : Nat :=
  if v.d.scale = 0 then 0x7F
  else
    let sv := k.view loops (BitVec.ofNat 12 v.d.scale)
    let per := (v.d.dim 0 + sv.d.blockLen - 1) / sv.d.blockLen
    let d0 := max (v.d.dim 0) 1
    sv.elem s core ways (n / d0 * per + n % d0 / sv.d.blockLen)

/-- Exact values of all elements, with their scales (R48). -/
def View.values (s : State) (k : Core) (core : Nat) (ways : BitVec 32) (loops : List LoopLvl) (v : View) : List RVal :=
  (List.range v.d.count).map fun n => scaledValue v.d.fmt (v.elem s core ways n) (scaleCode s k core ways loops v n)

/-- Binary32 codes of all elements, each with the KIND of the widening's flag where it sets one (R44, R49, Table 4-4); an
unscaled FP32 element enters as it is. -/
def View.widen (s : State) (k : Core) (core : Nat) (ways : BitVec 32) (loops : List LoopLvl) (v : View) :
    List (Nat × Option Bool) :=
  (List.range v.d.count).map fun n =>
    let c := v.elem s core ways n
    if v.d.scale = 0 ∧ v.d.fmt = .fp32 then (c, none)
    else
      let r := if v.d.scale = 0 then toF32 (v.d.fmt.value c) else dequantise v.d.fmt c (scaleCode s k core ways loops v n)
      (r.1, if r.2 then some (kindOf r.1) else none)

/-! ### Writes -/

/-- Bytes that put `codes` into the elements of a view from element `first` on, as single-byte or element writes; a
sub-byte element merges into its byte as the bytes before it left it. -/
def elemWrite (v : View) (sp : Space) (n code : Nat) (old : Nat → Byte) : Write :=
  let (a, bit) := v.elemAddr n
  let bits := v.d.fmt.bits
  if 8 ≤ bits then ⟨sp, a.toNat, leBytes (bits / 8) code⟩
  else
    let o := (old a.toNat).toNat
    ⟨sp, a.toNat, [BitVec.ofNat 8 (o - o / 2 ^ bit % 2 ^ bits * 2 ^ bit + code % 2 ^ bits * 2 ^ bit)]⟩

/-- Space of a view's destination bytes. -/
def View.space (core : Nat) (v : View) : Space := if v.d.tier = 1 then .scratch core else .stack

/-- Element codes landed one after another (sub-byte elements merge with what stands there). -/
def landElems (s : State) (core : Nat) (v : View) (codes : List Nat) : State :=
  (codes.zipIdx).foldl (fun s x =>
    let old (a : Nat) : Byte := if v.d.tier = 1 then bget s.scratch (scrAddr core a) else bget s.stack a
    applyWrite s (elemWrite v (v.space core) x.2 x.1 old)) s

/-- The writes of `landElems` on the memories as they stand, collected for a later landing. -/
def elemWrites (s : State) (core : Nat) (v : View) (codes : List Nat) : List Write :=
  ((codes.zipIdx).foldl (fun (st : State × List Write) x =>
    let old (a : Nat) : Byte := if v.d.tier = 1 then bget st.1.scratch (scrAddr core a) else bget st.1.stack a
    let w := elemWrite v (v.space core) x.2 x.1 old
    (applyWrite st.1 w, st.2 ++ [w])) (s, [])).2

/-! ### Descriptor checks (R232) and page rights (Table 6-3) -/

/-- How an instruction uses a descriptor. -/
inductive Use where
  | read | write | index | commitSrc
  deriving DecidableEq, Repr

/-- The conditions of R232 and R184 that stop an unverified instruction. -/
def badHandle (k : Core) (h : Handle) (v : View) (u : Use) : Bool :=
  h == 0 || v.d.tier == 0 || decide (5 ≤ v.d.tier)
    || (match u with
        | .read => !v.d.read
        | .write => !v.d.write
        | .index => !(v.d.read && v.d.indexRight && v.d.tier == 1 && v.d.fmtCode == 7)
        | .commitSrc => !v.d.commitRight)
    || (v.d.tier == 1 && !(decide (((k.slot v.slot).base : Int) ≤ v.base) &&
          decide (v.base + v.span ≤ ((k.slot v.slot).base + (k.slot v.slot).len : Nat)) &&
          decide (v.slot < 512)))
    || (decide (2 ≤ v.d.tier) && (decide (v.base < 0) || (v.pagesOf v.rows).any fun g => !pageExists g))

/-- Who accesses a page (Table 6-3). -/
inductive Accessor where
  | copy | gather | scatter | prefetch | rowWrite | commit | cbuf | engine
  deriving DecidableEq, Repr

/-- May the accessor, in a job of partition p, read the page (Table 6-3)? -/
def mayRead (w : W32) (p : Nat) (a : Accessor) : Bool :=
  ownerOf w == some p &&
    (match attrOf w with
     | .frozen => a == .copy || a == .gather || a == .prefetch || a == .rowWrite
     | .snapshot => a == .copy
     | .mutable | .state => a == .copy || a == .gather || a == .scatter || a == .prefetch || a == .commit
     | _ => false)

/-- May the accessor write the page (Table 6-3)? WP is checked apart (R396). -/
def mayWrite (w : W32) (p : Nat) (a : Accessor) : Bool :=
  ownerOf w == some p &&
    (match attrOf w with
     | .mutable => a == .copy || a == .scatter || a == .prefetch
     | .state => a == .copy || a == .scatter
     | _ => false)

/-- A STATE page that an open checkpoint protects and has not copied yet (R396). -/
def wpHeld (w : W32) : Bool := attrOf w == .state && w.getLsbD 7 && !w.getLsbD 8

/-- What the accesses of an instruction found. -/
structure Found where
  /-- a descriptor condition of R232, or a page right of R187 -/
  bad : Bool
  /-- a page entry whose complement differs (R185) -/
  mism : Option Nat
  /-- POISON from an input slot, an INVALID page, an uncorrectable burst, or a cache miss -/
  poison : Bool
  /-- a cache miss (R196) -/
  miss : Bool
  /-- a write against WP (R396) -/
  wp : Bool
  /-- first slot whose stamp does not match: the missed edge, none where no window resolves, and the arrival (R278) -/
  stamp : Option (Option Nat × Nat)
  /-- macros whose check words are nonzero (R103) -/
  residue : List Nat
  deriving DecidableEq, Repr

def Found.none : Found := ⟨false, .none, false, false, false, .none, []⟩

/-- Two findings together, the first one's stamp and mismatch kept. -/
def Found.join (a b : Found) : Found :=
  ⟨a.bad || b.bad, a.mism.orElse fun _ => b.mism, a.poison || b.poison, a.miss || b.miss, a.wp || b.wp,
    a.stamp.orElse fun _ => b.stamp, a.residue ++ b.residue⟩

/-- Arrival stamp of a slot as a time. -/
def SlotE.arrival (e : SlotE) : Nat := e.arrTick.toNat * 32 + e.arrCyc.toNat
/-- The invalid stamp (R275). -/
def invalidStamp : Nat := 0xFFFFFFFFFFFFFFFF * 32 + 31

/-- Window of a slot at a reader, when it resolves (R276): earliest and latest time. -/
def SlotE.window (e : SlotE) (loops : List LoopLvl) (seg : Nat) : Option (Int × Int) :=
  let base : Option Nat :=
    if e.level.toNat = 4 then some seg
    else if e.level.toNat ≤ 3 then (loops[e.level.toNat]?).map LoopLvl.iterStart
    else none
  base.map fun b =>
    (32 * ((b : Int) + e.earlyTick.toInt) + e.earlyCyc.toNat, 32 * ((b : Int) + e.lateTick.toInt) + e.lateCyc.toNat)

/-- Stamp check of a first read (R276 to R278): none when it matches or is not checked. Where no window resolves there is no
edge that the arrival missed (log 21). -/
def SlotE.check (e : SlotE) (loops : List LoopLvl) (seg : Nat) : Option (Option Nat × Nat) :=
  if e.level = 7 ∨ e.absent then none
  else
    match e.window loops seg with
    | none => some (none, e.arrival)
    | some (lo, hi) =>
      if (e.arrival : Int) < lo then some (some lo.toNat, e.arrival)
      else if hi < (e.arrival : Int) then some (some hi.toNat, e.arrival)
      else none

/-- What reading a view finds, in a job of partition p with cache ways `ways`. -/
def readFound (s : State) (k : Core) (p : Nat) (ways : BitVec 32) (a : Accessor) (loops : List LoopLvl) (seg : Nat)
    (v : View) : Found :=
  match v.d.tier with
  | 1 =>
    let e := k.slot v.slot
    { Found.none with poison := e.status.getLsbD 1, stamp := e.check loops seg, residue := e.residue }
  | 2 =>
    let ps := v.pagesOf v.rows
    { Found.none with
        mism := ps.find? fun g => !(s.page g).ok
        bad := ps.any fun g => !mayRead (s.page g).v p a
        poison := ps.any fun g => (s.page g).v.getLsbD 9 }
  | 3 =>
    -- Table 6-1: the cache is read by the adapter engine, the vector engine and Chive alone
    if a == .cbuf || a == .rowWrite || a == .commit then { Found.none with bad := true } else
    let m := (v.pagesOf v.rows).any fun g => (lookup s ways g).isNone
    { Found.none with miss := m, poison := m }
  | _ => { Found.none with bad := a == .cbuf || a == .rowWrite || a == .engine || a == .commit }

/-- What writing a view finds. -/
def writeFound (s : State) (p : Nat) (a : Accessor) (v : View) : Found :=
  if v.d.tier = 2 then
    let ps := v.pagesOf v.rows
    { Found.none with
        mism := ps.find? fun g => !(s.page g).ok
        bad := ps.any fun g => !mayWrite (s.page g).v p a
        wp := ps.any fun g => wpHeld (s.page g).v }
  else if v.d.tier = 1 then Found.none
  else { Found.none with bad := v.d.tier == 3 }

/-- Descriptor checks of a list of uses: handle and use; operands named 0 are absent where `opt` is set. -/
def descBad (k : Core) (loops : List LoopLvl) (us : List (Handle × Use × Bool)) : Bool :=
  us.any fun u => if u.1 = 0 ∧ u.2.2 then false else badHandle k u.1 (k.view loops u.1) u.2.1

end Sys2Proof.Machine
end

