-- ==== Sys2Proof/Machine/Refuse.lean ====
section
/-! DEFINITION. The conditions under which an engine instruction is refused at launch (R592), with the status of each. -/

namespace Sys2Proof.Machine

/-- Activation width of ACODE (R240). -/
def aOf (a : BitVec 2) : Nat := match a.toNat with | 0 => 4 | 1 => 6 | _ => 8

/-- Weight mode of a WMODE field (Table 7-6). -/
def wmodeOf (n : Nat) : Option WMode := match n with | 1 => some .w1 | 2 => some .w2 | 3 => some .w4 | _ => none

/-- A chain entry (Table 7-6): first member, length, mode. -/
def Core.chainOf (k : Core) (c : Nat) : Nat × Nat × Option WMode :=
  let w := sget 0 k.chain c
  ((w.extractLsb' 0 11).toNat, (w.extractLsb' 11 10).toNat, wmodeOf (w.extractLsb' 21 2).toNat)

/-- Member entry: macro in core and broadcast-buffer slot (Table 7-6). -/
def Core.memberOf (k : Core) (i : Nat) : Nat × Nat :=
  let w := sget 0 k.member (i % 2048)
  ((w.extractLsb' 0 10).toNat, (w.extractLsb' 10 3).toNat)

/-- Members of a chain in chain order. -/
def Core.membersOf (k : Core) (c : Nat) : List (Nat × Nat) :=
  let (f, n, _) := k.chainOf c
  (List.range n).map fun i => k.memberOf (f + i)

/-- Block a broadcast-buffer slot holds at time t (R241): stores are newest first. -/
def Core.blockAt (k : Core) (slab bslot t : Nat) : Option BufStore :=
  (sget [] k.bufs (slab * 8 + bslot)).find? fun b => decide (b.at_ ≤ t)

/-- Is a macro loaded: all 256 rows written since its mode was set (R81)? -/
def MacroSt.loaded (m : MacroSt) : Bool := m.mode.isSome && m.rows == BitVec.allOnes 256

/-- Formats of Table 4-1. -/
def ammFormat (f : Fmt) : Bool :=
  match f with | .e4m3 | .e5m2 | .e2m1 | .bf16 | .fp16 => true | _ => false
/-- The 16-bit formats, which are split (R115). -/
def isWide (f : Fmt) : Bool := f == .bf16 || f == .fp16

/-- Conversion pairs that an instruction may ask for (Table 2-7). -/
def convPair (a b : Fmt) : Bool :=
  let narrow (f : Fmt) : Bool := match f with | .bf16 | .fp16 | .e5m2 | .e4m3 | .e2m1 => true | _ => false
  match a, b with
  | .fp32, b => narrow b || b == .int8 || b == .int32
  | .int8, b => b == .fp32
  | .int32, b => b == .fp32
  | .e8m0, b => b == .fp32
  | .w1, b | .w2, b | .w4, b => b == .int32
  | a, b => narrow a && a != b && (narrow b || b == .int8 || b == .fp32)

/-- Pairs that widen into FP32, of an operand (R126, R134): FP32 itself included. -/
def widens (f : Fmt) : Bool := f == .fp32 || convPair f .fp32

/-- A handle that is named and whose descriptor, or a scale or index descriptor it names, has a reserved format code
(R30). -/
def badFmtCode (k : Core) (h : Handle) : Bool :=
  let bad (n : Nat) : Bool := n != 0 && (k.descOf (BitVec.ofNat 12 n)).fmt?.isNone
  bad h.toNat || (h != 0 && (bad (k.descOf h).scale || bad (k.descOf h).index))

/-- Passes of PREC (Table 4-2). -/
def passesOf (p : BitVec 2) : Nat := p.toNat + 1

/-- Shapes of an AMM (R247): rows, columns, K; none when inconsistent. -/
def ammShape (k : Core) (f : AmmF) : Option (Nat × Nat × Nat) :=
  let a := k.descOf f.a
  let b := k.descOf f.b
  let c := k.descOf f.c
  let rows := c.dim 1
  let cols := c.dim 0
  let (ar, ak) := if f.ta then (a.dim 0, a.dim 1) else (a.dim 1, a.dim 0)
  let (bc, bk) := if f.tb then (b.dim 1, b.dim 0) else (b.dim 0, b.dim 1)
  let flat (d : Desc) : Bool := d.dim 2 == 1 && d.dim 3 == 1 && d.dim 4 == 1
  if flat a && flat b && flat c && ar == rows && bc == cols && ak == bk && decide (1 ≤ rows) && decide (rows ≤ 64) &&
      decide (1 ≤ cols) && decide (cols ≤ 64) && ak % 64 == 0 && decide (64 ≤ ak) && decide (ak ≤ 2048) then
    some (rows, cols, ak)
  else none

/-- P × K above 2,048 (R113). -/
def ammDeep (k : Core) (f : AmmF) : Bool :=
  match ammShape k f with | none => false | some (_, _, kk) => decide (2048 < passesOf f.prec * kk)

/-- Formats from which a forward or transposed block may be taken (R62). -/
def blockFmt (f : Fmt) : Bool :=
  match f with | .fp32 | .bf16 | .fp16 | .e5m2 | .e4m3 | .e2m1 | .int8 => true | _ => false

/-- Formats whose scale parameters VRED may name (Table 2-3, R51). -/
def scaleFmt (c : Nat) : Bool :=
  match Fmt.ofCode c with | some .e5m2 | some .e4m3 | some .e2m1 | some .int8 => true | _ => false

/-- Shape of a fused operand or partial slot of an AMM: the tile's, DIM2 to DIM4 being 1 (R247). -/
def tileShaped (k : Core) (f : AmmF) (h : Handle) : Bool :=
  let d := k.descOf h
  let c := k.descOf f.c
  d.dim 0 == c.dim 0 && d.dim 1 == c.dim 1 && d.dim 2 == 1 && d.dim 3 == 1 && d.dim 4 == 1

/-- Does the AMM use its partial slot (Table 7-9)? -/
def ammPartial (f : AmmF) : Bool := f.prec != 0 || f.init

/-- R592 for AMM; an ADD drain takes FUSE as NONE (R128), so Y is no operand of it. A partial slot holds binary32 (R122, R123). -/
def refuseAmm (k : Core) (f : AmmF) : Option Status :=
  let fa := (k.descOf f.a).fmt
  let fb := (k.descOf f.b).fmt
  let dc := k.descOf f.c
  let hs := [f.a, f.b, f.c, f.y, f.ps]
  if f.prec = 3 ∨ f.acc = 3 ∨ f.fuse = 3 ∨ hs.any (badFmtCode k) ∨ !ammFormat fa ∨ !ammFormat fb
      ∨ (isWide fa ∧ (k.descOf f.a).scale ≠ 0) ∨ (isWide fb ∧ (k.descOf f.b).scale ≠ 0)
      ∨ (ammShape k f).isNone
      ∨ (f.fuse ≠ 0 ∧ f.acc ≠ 2 ∧ !tileShaped k f f.y)
      ∨ (ammPartial f ∧ (!tileShaped k f f.ps ∨ (k.descOf f.ps).fmt ≠ .fp32))
      ∨ (f.prec ≠ 0 ∧ !isWide fa ∧ !isWide fb)
      ∨ ammDeep k f = true
      ∨ (f.acc = 2 ∧ dc.fmt ≠ .fp32)
      ∨ (f.acc ≠ 2 ∧ dc.fmt ≠ .fp32 ∧ !convPair .fp32 dc.fmt)
      ∨ (f.fuse ≠ 0 ∧ f.acc ≠ 2 ∧ !widens (k.descOf f.y).fmt)
      ∨ (f.acc ≠ 2 ∧ dc.fmt = .int32 ∧ f.cvt.getLsbD 1)
  then some St.badFormat else none

/-- Reserved FN values of Table 7-11. -/
def fnReserved (op : EngineOp) : Bool :=
  match op with
  | .varith f => decide (9 < f.fn.toNat)
  | .vfunc f => decide (6 < f.fn.toNat)
  | .vlogic f => decide (6 < f.fn.toNat)
  | .vcvt f => decide (1 < f.fn.toNat)
  | .vred f => decide (4 < f.fn.toNat) || (f.scm && f.fn != 4) || (f.scm && f.tgt && f.pfmt.extractLsb' 0 2 == 3)
  | .vsplit f => f.fn == 1 || decide (5 < f.fn.toNat)
  | _ => false

/-- R592 for the element-wise instructions. -/
def refuseElem (k : Core) (op : EngineOp) (f : ElemF) : Option Status :=
  let d := k.descOf f.d
  let a := k.descOf f.a
  let cvt : Bool := match op with | .vcvt _ => true | _ => false
  if fnReserved op ∨ [f.d, f.a, f.b, f.c].any (badFmtCode k)
      ∨ (!cvt ∧ d.fmt ≠ .fp32)
      ∨ (!cvt ∧ [f.a, f.b, f.c].any (fun h => h != 0 && !widens (k.descOf h).fmt))
      ∨ (cvt ∧ !convPair a.fmt d.fmt)
      ∨ (cvt ∧ f.fn = 1 ∧ d.scale = 0)
      ∨ (cvt ∧ d.fmt = .int32 ∧ f.cvt.getLsbD 1)
  then some St.badFormat else none

/-- An index destination or source that is named and not INT32 (R139, R143). -/
def badIndex (k : Core) (h : Handle) : Bool := h != 0 && (k.descOf h).fmt != .int32

/-- R592 for the other vector instructions. They have no conversion control: inputs are widened by Table 2-7, values leave as
FP32 and indices as INT32 (R134); VUPD takes the formats of Table 7-12 (R167). -/
def refuseVec (k : Core) (op : EngineOp) : Option Status :=
  match op with
  | .vred f =>
    if fnReserved op ∨ [f.d, f.a, f.i].any (badFmtCode k) ∨ !widens (k.descOf f.a).fmt
        ∨ (f.scm ∧ !f.tgt ∧ !scaleFmt f.pfmt.toNat)
        ∨ (!f.scm ∧ (k.descOf f.d).fmt ≠ .fp32) ∨ (f.scm ∧ (k.descOf f.d).fmt ≠ .e8m0)
        ∨ (!f.scm ∧ 2 ≤ f.fn.toNat ∧ badIndex k f.i)
    then some St.badFormat else none
  | .vtopk f => if [f.d, f.a, f.i].any (badFmtCode k) ∨ !widens (k.descOf f.a).fmt ∨ (k.descOf f.d).fmt ≠ .fp32
      ∨ badIndex k f.i then some St.badFormat else none
  | .vsplit f => if fnReserved op ∨ [f.d, f.a, f.init, f.ai, f.di].any (badFmtCode k) ∨ !widens (k.descOf f.a).fmt
      ∨ (k.descOf f.d).fmt ≠ .fp32 ∨ (f.fn = 0 ∧ f.init ≠ 0 ∧ !widens (k.descOf f.init).fmt)
      ∨ (f.fn ≠ 0 ∧ (badIndex k f.ai ∨ badIndex k f.di)) then some St.badFormat else none
  | .vupd f => if [f.g, f.w, f.m, f.v, f.hp, f.s].any (badFmtCode k) ∨ !widens (k.descOf f.g).fmt ∨ !widens (k.descOf f.s).fmt
      ∨ (k.descOf f.w).fmt ≠ .bf16 ∨ (k.descOf f.m).fmt ≠ .bf16 ∨ (!f.kind ∧ (k.descOf f.v).fmt ≠ .bf16)
      then some St.badFormat else none
  | _ => none

/-- R592 and R243 for the members of a chain, in chain order: status of the first condition. -/
def refuseMembers (s : State) (k : Core) (core t0 : Nat) (a : BitVec 2) (dir : Bool) (md : Option WMode) :
    List ((Nat × Nat) × Nat) → Option Status
  | [] => none
  | ((m, b), i) :: rest =>
    let g := core * 1024 + m
    let t := t0 + (if dir then 0 else i * aOf a)
    let st := s.macro1 g
    if st.bad ∨ !st.loaded then some St.badHandle
    else if st.mode ≠ md then some St.badFormat
    else
      match k.blockAt (m / 64) b (if dir then t0 + i * aOf a else t) with
      | none => some St.scheduleFault
      | some bl =>
        if bl.acode ≠ a ∨ bl.dir ≠ dir then some St.badFormat
        else refuseMembers s k core t0 a dir md rest

/-- R592 for CFWD (`dir` false) and CTRN launched in cycle t0. -/
def refuseChain (s : State) (k : Core) (core t0 : Nat) (f : ChainF) (dir : Bool) : Option Status :=
  if f.acode = 3 ∨ badFmtCode k f.dst ∨ 960 < (k.chainOf f.chain.toNat).2.1 ∨ (k.chainOf f.chain.toNat).2.2.isNone ∧ (k.chainOf f.chain.toNat).2.1 ≠ 0
      ∨ (f.dst ≠ 0 ∧ (k.descOf f.dst).fmt ≠ .fp32) then some St.badFormat
  else if (k.chainOf f.chain.toNat).2.1 = 0 then some St.badHandle
  else refuseMembers s k core t0 f.acode dir (k.chainOf f.chain.toNat).2.2 (k.membersOf f.chain.toNat).zipIdx

/-- RATE must be 0 where neither end lies in the stacks (R252): any other value there is a reserved value of Table 7-13. -/
def rateBad (k : Core) (a b : Handle) (ratem1 : Nat) : Bool :=
  ratem1 != 0 && (k.descOf a).tier != 2 && (k.descOf b).tier != 2

/-- Source of a COMMIT that is no whole number of pages, from 1 to 16,384 (R209, Table 7-13). -/
def commitBad (d : Desc) : Bool :=
  let bytes := (d.count * d.fmt.bits + 7) / 8
  bytes % 65536 != 0 || bytes == 0 || decide (16384 * 65536 < bytes)

/-- The status with which an instruction launched in cycle t is refused (R592), if any. -/
def refuse (s : State) (k : Core) (core t : Nat) (op : EngineOp) : Option Status :=
  match op with
  | .cbuf f => if f.acode = 3 ∨ [f.src, f.exp].any (badFmtCode k)
      ∨ !blockFmt (k.descOf f.src).fmt
      then some St.badFormat else none
  | .cfwd f => refuseChain s k core t f false
  | .ctrn f => refuseChain s k core t f true
  | .cload f =>
    let m := s.macro1 (core * 1024 + f.macroIx.toNat)
    if f.wmode = 0 ∨ f.last < f.first ∨ (f.first ≠ 0 ∧ m.mode ≠ wmodeOf f.wmode.toNat) ∨ (f.first.toNat < 4 ∧ f.scl = 0)
        ∨ [f.src, f.scl].any (badFmtCode k) then some St.badFormat
    else none
  | .amm f => refuseAmm k f
  | .varith f | .vfunc f | .vlogic f | .vcvt f => refuseElem k op f
  | .vred _ | .vtopk _ | .vsplit _ | .vupd _ => refuseVec k op
  | .copy f => if [f.src, f.dst].any (badFmtCode k) ∨ rateBad k f.src f.dst f.ratem1.toNat
      ∨ (k.descOf f.src).fmt ≠ (k.descOf f.dst).fmt ∨ (k.descOf f.src).count ≠ (k.descOf f.dst).count then some St.badFormat else none
  | .gather f | .scatter f => if [f.src, f.dst].any (badFmtCode k) ∨ rateBad k f.src f.dst f.ratem1.toNat ∨ (k.descOf f.src).fmt ≠ (k.descOf f.dst).fmt
      then some St.badFormat else none
  | .prefetch f | .ringFetch f _ => if [f.src, f.ring].any (badFmtCode k) ∨ rateBad k f.src f.ring f.ratem1.toNat ∨ (k.descOf f.ring).ring ≠ f.dm1.toNat + 2
      then some St.badFormat else none
  | .commit f => if badFmtCode k f.src ∨ commitBad (k.descOf f.src) ∨ rateBad k f.src f.src f.ratem1.toNat then some St.badFormat else none
  | .xsend f => if f.kind = 3 ∨ badFmtCode k f.src then some St.badFormat else none
  | .xlate _ => none

/-- The destination handles an instruction names. -/
def dests (op : EngineOp) : List Handle :=
  match op with
  | .cfwd f | .ctrn f => [f.dst]
  | .amm f => [f.c, f.ps]
  | .varith f | .vfunc f | .vlogic f | .vcvt f => [f.d]
  | .vred f => [f.d, f.i]
  | .vtopk f => [f.d, f.i]
  | .vsplit f => [f.d, f.di]
  | .vupd f => [f.w, f.m, f.v]
  | .copy f | .gather f | .scatter f => [f.dst]
  | .prefetch f | .ringFetch f _ => [f.ring]
  | _ => []

/-- Handles an instruction uses, how, and whether 0 stands for none (Tables 7-7 to 7-14). -/
def uses (op : EngineOp) : List (Handle × Use × Bool) :=
  match op with
  | .cbuf f => [(f.src, .read, false), (f.exp, .read, f.dir)]
  | .cfwd f | .ctrn f => [(f.dst, .write, false)]
  | .cload f => [(f.src, .read, false), (f.scl, .read, decide (4 ≤ f.first.toNat))]
  | .amm f =>
    [(f.a, .read, false), (f.b, .read, false), (f.c, .write, false), (f.y, .read, f.fuse == 0 || f.acc == 2),
     (f.ps, .write, f.prec == 0)] ++ (if f.init then [(f.ps, .read, false)] else [])
      ++ (if f.acc = 2 then [(f.c, .read, false)] else [])
  | .varith f =>
    let two := f.fn.toNat ≤ 6
    [(f.d, .write, false), (f.a, .read, false), (f.b, .read, !two || f.bs), (f.c, .read, f.fn != 3)]
  | .vfunc f => [(f.d, .write, false), (f.a, .read, false)]
  | .vlogic f =>
    [(f.d, .write, false), (f.a, .read, false), (f.b, .read, f.fn == 4 || f.fn == 5 || f.bs), (f.c, .read, f.fn != 3)]
  | .vcvt f => [(f.d, .write, false), (f.a, .read, false)]
  | .vred f => [(f.d, .write, false), (f.a, .read, false), (f.i, .write, true)]
  | .vtopk f => [(f.d, .write, false), (f.a, .read, false), (f.i, .write, false)]
  | .vsplit f =>
    [(f.d, .write, false), (f.a, .read, false), (f.init, .read, true), (f.ai, .read, f.fn == 0), (f.di, .write, f.fn == 0)]
  | .vupd f =>
    [(f.g, .read, false), (f.w, .read, false), (f.w, .write, false), (f.m, .read, false), (f.m, .write, false),
     (f.v, .read, f.kind), (f.v, .write, f.kind), (f.hp, .read, false), (f.s, .read, false)]
  | .copy f => [(f.src, .read, false), (f.dst, .write, false)]
  | .gather f => [(f.src, .read, false), (f.dst, .write, false)]
  | .scatter f => [(f.src, .read, false), (f.dst, .write, false)]
  | .prefetch f | .ringFetch f _ => [(f.src, .read, false), (f.ring, .write, false)]
  | .commit f => [(f.src, .commitSrc, false)]
  | .xsend f => [(f.src, .read, false)]
  | .xlate _ => []

end Sys2Proof.Machine
end

