-- ==== Sys2Proof/Machine/Engines.lean ====
section
/-! DEFINITION. What each engine instruction computes, and when (chapters 3 to 7): a plan made at launch from the operands
as they stand then (log 12), landed by Complete.lean. -/

namespace Sys2Proof.Machine

/-- The place of an instruction: state, core number, core, partition, cache ways, queue entry, launch time. -/
structure Env where
  s : State
  c : Nat
  k : Core
  p : Nat
  ways : BitVec 32
  e : QEntry
  t : Nat

/-- View of a handle under the captured indices. -/
def Env.view (n : Env) (h : Handle) : View := n.k.view n.e.loops h
/-- Captured value of a scalar register; field 0 reads 0 (R220, R246). -/
def Env.reg (n : Env) (r : SReg) : W32 :=
  if r = 0 then 0 else match n.e.regs.find? fun x => x.1 == r with | none => 0 | some x => x.2
/-- Element code of a handle. -/
def Env.elem (n : Env) (h : Handle) (i : Nat) : Nat := (n.view h).elem n.s n.c n.ways i
/-- Exact values of a handle's elements. -/
def Env.values (n : Env) (h : Handle) : List RVal := (n.view h).values n.s n.k n.c n.ways n.e.loops
/-- Widened elements of a handle with entry flags (R49). -/
def Env.widen (n : Env) (h : Handle) : List (Nat × Option Bool) := (n.view h).widen n.s n.k n.c n.ways n.e.loops

/-- SR key of a destination (R53, R54). -/
def srKey (s : State) (d : Desc) (step tile : W32) : SrKey :=
  if d.ctx = 0xFFFF then ⟨0, 0xFFFFFFFF, step, tile⟩ else ⟨(s.ctx d.ctx.toNat).seed, (s.ctx d.ctx.toNat).stream, step, tile⟩

/-- What an instruction will do. -/
structure Plan where
  early : Nat
  land : Nat
  todo : List Due := []
  acc : List Nat := []
  writes : List Write := []
  slots : List SlotDone := []
  tiles : List TileEvent := []
  mint : Option MintTile := none
  sregs : List (Nat × W32) := []
  packets : List (Nat × OutPkt) := []
  acts : List (ActKind × Nat × Nat × Nat) := []
  eng : EngTimes
  poison : Bool := false

/-! ### Tiles (R129 to R132) -/

/-- An element of an output tile: written code, flag, and kind (true: infinity or flagged conversion). -/
structure OutElem where
  code : Nat
  flag : Bool
  kind : Bool
  deriving DecidableEq, Repr

/-- Output element of a binary32 result; `entry` is the KIND of a conversion on entry that set the flag (R129, R135). -/
def outF32 (x : Nat) (entry : Option Bool) : OutElem := ⟨x, specialF32 x || entry.isSome, entry.getD (kindOf x)⟩

/-- The first flag among inputs that feed one element. -/
def entryOf (xs : List (Nat × Option Bool)) : Option Bool := xs.findSome? (·.2)

/-- First flagged element in raster order: row, column, kind. -/
def firstFlag (d0 : Nat) (xs : List OutElem) : Option (Nat × Nat × Bool) :=
  (xs.zipIdx.find? fun x => x.1.flag).map fun x => (x.2 / max d0 1, x.2 % max d0 1, x.1.kind)

/-- Status word of a tile (Table 4-4). -/
def tileStatus (d0 : Nat) (xs : List OutElem) (poison : Bool) : BitVec 64 := statusWord (firstFlag d0 xs) poison

/-- Rows with flagged or poisoned elements (R131). -/
def tileRows (d0 : Nat) (xs : List OutElem) (poison : Bool) : List RowEvent :=
  let d := max d0 1
  ((List.range ((xs.length + d - 1) / d)).map fun r =>
    (⟨r, (firstFlag d ((xs.drop (r * d)).take d)).map fun f => (f.2.1, f.2.2), poison⟩ : RowEvent)).filter
      fun r => r.flag.isSome || r.poison

/-- Event of an output tile. -/
def tileEvent (d : Desc) (tile : W32) (xs : List OutElem) (poison : Bool) : TileEvent :=
  ⟨d.ctx, tile, d.rows, tileRows (d.dim 0) xs poison⟩

/-- Landing of a tile in a scratchpad slot: status word and stamp at `land`. Other tiers have no stamp (R203). -/
def slotDone (n : Env) (v : View) (land : Nat) (status : BitVec 64) : List SlotDone :=
  if v.d.tier = 1 then [⟨n.c, v.slot, status, .set, land, [], none⟩] else []

/-- Writes of chosen elements of a view: pairs of element and code, in order (sub-byte elements merge). -/
def elemWritesAt (s : State) (core : Nat) (v : View) (xs : List (Nat × Nat)) : List Write :=
  (xs.foldl (fun (st : State × List Write) x =>
    let old (a : Nat) : Byte := if v.d.tier = 1 then bget st.1.scratch (scrAddr core a) else bget st.1.stack a
    let w := elemWrite v (v.space core) x.1 x.2 old
    (applyWrite st.1 w, st.2 ++ [w])) (s, [])).2

/-- Writes of all elements; a view of tier PEER writes nothing here. -/
def tileWrites (n : Env) (v : View) (codes : List Nat) : List Write :=
  if v.d.tier = 4 then [] else elemWritesAt n.s n.c v ((codes.take v.d.count).zipIdx.map fun x => (x.2, x.1))

/-- A destination tile: its writes, slot and event. -/
def putTile (n : Env) (pl : Plan) (h : Handle) (tile : W32) (land : Nat) (xs : List OutElem) (poison : Bool) : Plan :=
  let v := n.view h
  { pl with writes := pl.writes ++ tileWrites n v (xs.map (·.code)),
            slots := pl.slots ++ slotDone n v land (tileStatus (v.d.dim 0) xs poison),
            tiles := if xs.any (·.flag) || poison then pl.tiles ++ [tileEvent v.d tile xs poison] else pl.tiles }

/-- Mint sample of a narrow conversion (R170, R171). -/
def mintTile (d : Desc) (tile : W32) (xs : List Nat) (ds : List Nat) : Option MintTile :=
  match d.fmt with
  | .bf16 | .fp16 | .e5m2 | .e4m3 | .e2m1 | .int8 =>
    some ⟨d.fmt, d.ctx, tile, xs.take 4096, ds.take 4096,
      ((List.range (min xs.length 4096)).map fun i => i / max (d.dim 0) 1).eraseDups, d.rows, []⟩
  | _ => none

/-! ### Numeric records (R131, R132) -/

/-- POISON added to a tile event: every row of the tensor. -/
def TileEvent.poisoned (e : TileEvent) : TileEvent :=
  { e with rows := (List.range e.count).map fun r =>
      ((e.rows.find? fun x => x.row == r).map fun x => { x with poison := true }).getD ⟨r, none, true⟩ }

/-- Context that owns row r of a tile (R131): the tag, else the step's row list where the tensor's rows are the rows of the
batch, else none: the partition's job. DESIGN CHOICE (log 103): the spec gives no test for "the rows of the step's batch"; the
model takes a tensor with as many rows as the row-context list has entries. -/
def rowOwner (s : State) (p : Nat) (e : TileEvent) (r : Nat) : BitVec 16 :=
  if e.tag != 0xFFFF then e.tag
  else
    let l := (s.part p).dill.rowCtx
    if l.length = e.count then l.getD r 0xFFFF else 0xFFFF

/-- Status word of the rows of one owner (R132). -/
def ownerWord (rs : List RowEvent) : BitVec 64 :=
  statusWord ((rs.find? fun r => r.flag.isSome).bind fun r => r.flag.map fun f => (r.row, f.1, f.2)) (rs.any (·.poison))

/-- NUMERIC_RECORD_UPDATE for one tile that lands in cycle `at_`. -/
def tileNumeric (s : State) (p : Nat) (e : TileEvent) (at_ : Nat) : State :=
  let owners := (e.rows.map fun r => rowOwner s p e r.row).eraseDups
  owners.foldl (fun s' o =>
    let w := ownerWord (e.rows.filter fun r => rowOwner s p e r.row == o)
    if o = 0xFFFF then numericJob s' p w e.tile at_ else numericCtx s' o.toNat w e.tile at_) s

/-! ### CIM (R240 to R245) -/

/-- CBUF: the block is stored in cycle t + 3, and a burst may take it from cycle t + 4 on (R241). -/
def planCbuf (n : Env) (f : CbufF) (poison : Bool) : Plan × BufStore :=
  let xs := (n.values f.src).take (if f.dir then 512 else 256)
  let sb := if f.dir then 0x7F else n.elem f.exp 0
  ({ early := n.t + 3, land := n.t + 3, eng := n.k.eng }, ⟨n.t + 4, f.dir, f.acode, sb, xs, false, poison⟩)

/-- CFWD and CTRN: first planes A cycles apart, write cycle of Table 7-8 (R242). -/
def planChain (n : Env) (f : ChainF) (tr : Bool) (poison : Bool) : Plan :=
  let a := aOf f.acode
  let ms := n.k.membersOf f.chain.toNat
  let w1 := (n.k.chainOf f.chain.toNat).2.2 == some .w1
  let m := ms.length
  let land := n.t + (if m ≤ 1 then a + 3 else m * a + 5) + (if tr then 3 else 0) + (if w1 then 1 else 0)
  { early := land, land := land, eng := n.k.eng, poison := poison,
    acts := ms.zipIdx.map fun x =>
      let t0 := n.t + (if tr then 3 else 0) + x.2 * a
      (.fire (x.1.1 / 64) x.1.1, if w1 then 6 else 4, t0, t0 + a - 1) }

/-- CLOAD: row FIRST + i is read and written in cycle t + i (R81, R245). A macro that is absent from the runtime map is never
written (R84). -/
def planCload (n : Env) (f : CloadF) (poison : Bool) : Plan :=
  let cnt := f.last.toNat - f.first.toNat + 1
  { early := n.t + cnt - 1, land := n.t + cnt - 1, eng := n.k.eng, poison := poison,
    todo := (List.range cnt).map fun i => .row (n.t + i) i,
    acts := if (n.s.macro1 (n.c * 1024 + f.macroIx.toNat)).bad then [] else (List.range cnt).map fun i =>
      (.row (f.macroIx.toNat / 64) f.macroIx.toNat, 2, n.t + i, n.t + i) }

/-! ### Adapter engine (R113 to R128, Table 4-3) -/

/-- Values of one row of an operand along K: `row` of A, or column of B. -/
def ammLine (n : Env) (h : Handle) (alongK0 : Bool) (len kk line : Nat) : List RVal :=
  let v := n.view h
  (List.range kk).map fun i =>
    let e := if alongK0 then line * kk + i else i * len + line
    scaledValue v.d.fmt (v.elem n.s n.c n.ways e) (scaleCode n.s n.k n.c n.ways n.e.loops v e)

/-- Accumulators of every element at the end of every pass (R117, R122, R123). -/
def ammAcc (n : Env) (f : AmmF) (rows cols kk : Nat) : List (List Nat) :=
  let fa := (n.view f.a).d.fmt
  let fb := (n.view f.b).d.fmt
  let as := (List.range rows).map fun i => entryParts (isWide fa) 33 (ammLine n f.a (!f.ta) rows kk i)
  let bs := (List.range cols).map fun j => entryParts (isWide fb) 33 (ammLine n f.b f.tb cols kk j)
  (List.range (rows * cols)).map fun e =>
    let init := if f.init then n.elem f.ps e else 0x80000000
    ammPasses f.mode (passesOf f.prec) init ((as.getD (e / cols) []).zip (bs.getD (e % cols) []))

/-- Staging bank of a product: the other bank under SHADOW (R119), bank 0 under OVERWRITE and ADD (R120). -/
def ammBank (k : Core) (f : AmmF) : Bool := if f.acc = 0 then !k.bank else false

/-- AMM: accumulators of the last pass in `acc`, the partial slot of every earlier pass p by pK + 76 (R123), the staging bank at
PK + 72, timing (R124). -/
def planAmm (n : Env) (f : AmmF) (poison : Bool) : Plan :=
  let (rows, cols, kk) := (ammShape n.k f).getD (0, 0, 0)
  let p := passesOf f.prec
  let accs := ammAcc n f rows cols kk
  let last := n.t + p * kk + (if f.acc = 2 then 96 else 92)
  let ps := n.view f.ps
  let part (i : Nat) : Due :=
    let xs := accs.map fun l => outF32 (l.getD i 0) none
    let done := n.t + (i + 1) * kk + 76
    .land done (tileWrites n ps (xs.map (·.code))) (slotDone n ps done (tileStatus (ps.d.dim 0) xs poison))
      (if xs.any (·.flag) || poison then [tileEvent ps.d (n.reg f.tid) xs poison] else [])
  let base := if ammBank n.k f then 4096 else 0
  { early := last, land := last, poison := poison, acc := accs.map fun l => l.getLastD 0,
    todo := ((List.range (p - 1)).map part) ++
      [.stage (n.t + p * kk + 72) (ammBank n.k f) (accs.zipIdx.map fun x =>
        (base + x.2 / max cols 1 * 64 + x.2 % max cols 1, x.1.getLastD 0))],
    acts := [(.ae, 3, n.t, last)] ++ (if f.acc = 2 then [(.ve, 1, last - 15, last)] else []),
    eng := { n.k.eng with aeNext := n.t + p * kk,
                          aeDrain := if f.acc = 0 then n.k.eng.aeDrain else last,
                          aeOwner := if f.acc = 0 then n.k.eng.aeOwner else n.e.serial } }

/-! ### Vector engine (Table 4-6, R248 to R251) -/

/-- Groups of 256 elements, rounded up. -/
def groups256 (n : Nat) : Nat := (n + 255) / 256

/-- Times of a vector instruction: occupancy and latency (R251). -/
def vePlan (n : Env) (occ lat : Nat) : Plan :=
  let land := n.t + max occ 1 - 1 + lat
  { early := land, land := land, acts := [(.ve, 1, n.t, land)], eng := { n.k.eng with veNext := n.t + max occ 1 } }

/-- VARITH by FN (Table 7-11). -/
def varithC (fn : Nat) (a b c : Nat) : Nat :=
  match fn with
  | 0 => addF32 a b | 1 => subF32 a b | 2 => mulF32 a b | 3 => fmaC a b c
  | 4 => sel2C .max a b | 5 => sel2C .min a b | 6 => divC a b | 7 => sqrtC a | 8 => rcpC a
  | _ => rnd (rsqrtV (f32 a))

/-- VFUNC by FN. -/
def vfuncC (fn : Nat) (a : Nat) : Nat :=
  match fn with
  | 0 => rnd (exp2V (f32 a)) | 1 => expC a | 2 => rnd (log2V (f32 a)) | 3 => rnd (logV (f32 a))
  | 4 => sigmoidC a | 5 => siluC a | _ => tanhC a

/-- A NaN becomes the canonical NaN (R40). -/
def canonNan (x : Nat) : Nat := if (f32 x).isNan then nanF32 else x

/-- VLOGIC by FN. -/
def vlogicC (fn : Nat) (a b c : Nat) : Nat :=
  let holds (x : Bool) : Nat := if x then 0x3F800000 else 0
  match fn with
  | 0 => holds ((f32 a).eq (f32 b)) | 1 => holds ((f32 a).lt (f32 b))
  | 2 => holds ((f32 a).lt (f32 b) || (f32 a).eq (f32 b))
  | 3 => canonNan (if (f32 a).isNan || (f32 a).isZero then c else b)
  | 4 => absC a | 5 => negC a | _ => copysignC a b

/-- Cycles per 256 elements and latency (Table 4-6). -/
def veCost (op : EngineOp) : Nat × Nat :=
  match op with
  | .varith f => if 6 ≤ f.fn.toNat then (4, 12) else (1, 4)
  | .vfunc f => match f.fn.toNat with | 4 => (7, 26) | 5 => (8, 30) | 6 => (10, 38) | _ => (2, 10)
  | _ => (1, 4)

/-- Operand codes of an element-wise instruction. R248 gives every operand the element count of D; where an unverified program
names a shorter one, the missing elements are free values (log 107). -/
def elemOperand (n : Env) (h : Handle) (count : Nat) : List (Nat × Option Bool) :=
  if h = 0 then List.replicate count (0, none)
  else
    let xs := n.widen h
    xs ++ (List.range (count - xs.length)).map fun i => (((Config.freeBits (n.s.freeCtr + i)).extractLsb' 0 32).toNat, none)

/-- Results of VARITH, VFUNC and VLOGIC. -/
def elemResults (n : Env) (op : EngineOp) (f : ElemF) : List OutElem :=
  let cnt := (n.view f.d).d.count
  let as := elemOperand n f.a cnt
  let bs := if f.bs then List.replicate cnt ((n.reg f.ss).toNat, none) else elemOperand n f.b cnt
  let cs := elemOperand n f.c cnt
  (List.range cnt).map fun i =>
    let a := as.getD i (0, none)
    let b := bs.getD i (0, none)
    let c := cs.getD i (0, none)
    let third := if f.fn = 3 then [c] else []
    match op with
    | .varith _ => outF32 (varithC f.fn.toNat a.1 b.1 c.1) (entryOf ([a] ++ (if f.fn.toNat ≤ 6 then [b] else []) ++ third))
    | .vfunc _ => outF32 (vfuncC f.fn.toNat a.1) a.2
    | _ => outF32 (vlogicC f.fn.toNat a.1 b.1 c.1) (entryOf ([a] ++ (if f.fn = 4 ∨ f.fn = 5 then [] else [b]) ++ third))

/-- Scale code that stands in a view's scale descriptor for element i (R48). -/
def Env.scaleAt (n : Env) (v : View) (i : Nat) : Nat := scaleCode n.s n.k n.c n.ways n.e.loops v i

/-- Destination element of a conversion with its result and flag from source code x: KIND 0 only where x is a NaN (log 33). -/
def convElem (r : Nat × Bool) (x : Nat) (entry : Option Bool) : OutElem :=
  ⟨r.1, r.2 || specialF32 x || entry.isSome, entry.getD (kindOf x)⟩

/-- Conversion of one binary32 code into a destination element (R41 to R45, R50). -/
def convOut (n : Env) (d : View) (cv : Cvt) (key : SrKey) (i x : Nat) (scaled : Bool) (entry : Option Bool) : OutElem :=
  if scaled then convElem (quantise d.d.fmt cv (key.bits i) x (n.scaleAt d i)) x entry
  else if d.d.fmt = .fp32 then outF32 x entry
  else convElem (convert d.d.fmt cv (key.bits i) (f32 x)) x entry

/-- VCVT (R160, Table 7-11). An integer source converts from its exact value. -/
def cvtResults (n : Env) (f : ElemF) : List OutElem :=
  let d := n.view f.d
  let key := srKey n.s d.d (n.reg f.step) (n.reg f.tid)
  let cv := Cvt.ofBits f.cvt
  let src := n.view f.a
  let exact : Bool := match src.d.fmt with | .w1 | .w2 | .w4 => true | _ => false
  if exact then
    (n.values f.a).zipIdx.map fun x => let r := convert d.d.fmt cv 0 x.1; ⟨r.1, r.2, true⟩
  else (n.widen f.a).zipIdx.map fun x => convOut n d cv key x.2 x.1.1 (d.d.scale != 0) x.1.2

/-- The element-wise instructions. -/
def planElem (n : Env) (op : EngineOp) (f : ElemF) (poison : Bool) : Plan :=
  let d := n.view f.d
  let cost := veCost op
  let pl := vePlan n (cost.1 * groups256 d.d.count) cost.2
  match op with
  | .vcvt _ =>
    let xs := cvtResults n f
    let pl := putTile n pl f.d (n.reg f.tid) pl.land xs poison
    let clean := (n.view f.a).d.fmt == .fp32 && !poison && !(xs.any (·.flag))
    let ds := xs.zipIdx.map fun x => (dequantise d.d.fmt x.1.code (n.scaleAt d x.2)).1
    { pl with mint := if clean then mintTile d.d (n.reg f.tid) ((n.widen f.a).map (·.1)) ds else none }
  | _ => putTile n pl f.d 0 pl.land (elemResults n op f) poison

/-- Rows of a widened operand along DIM0. -/
def rowsOf (d0 : Nat) (xs : List (Nat × Option Bool)) : List (List (Nat × Option Bool)) :=
  (List.range ((xs.length + max d0 1 - 1) / max d0 1)).map fun r => (xs.drop (r * max d0 1)).take (max d0 1)

/-- Indexed pairs of a row (R139). -/
def indexed (base : W32) (row : List (Nat × Option Bool)) : List Pair :=
  row.zipIdx.map fun x => (x.1.1, (base + BitVec.ofNat 32 x.2).toNat)

/-- Block scale codes of a row (R140): code, flag and kind of each block. -/
def blockScales (f : VredF) (row : List (Nat × Option Bool)) : List OutElem :=
  let len := blockLenOf f.blk.toNat
  (List.range ((row.length + len - 1) / len)).map fun b =>
    let blk := (row.drop (b * len)).take len
    let m := maxAbs (blk.map fun x => f32 x.1)
    let a := aOf (f.pfmt.extractLsb' 0 2)
    let r : Nat × Bool := if f.tgt then ((deriveScaleWith (cimEmax a) (cimMax a) 0 m).getD 0xFF, m.special)
      else deriveScale ((Fmt.ofCode f.pfmt.toNat).getD .e4m3) m
    ⟨r.1, r.2 || (entryOf blk).isSome, if r.2 then !m.isNan else (entryOf blk).getD true⟩

/-- VRED (R137 to R142). -/
def planVred (n : Env) (f : VredF) (poison : Bool) : Plan :=
  let a := n.view f.a
  let rows := rowsOf (a.d.dim 0) (n.widen f.a)
  let pl := vePlan n (groups256 a.d.count) 36
  let sel : Option Sel := match f.fn.toNat with | 2 => some .max | 3 => some .min | 4 => some .maxabs | _ => none
  if f.scm then putTile n pl f.d 0 pl.land (rows.flatMap (blockScales f)) poison
  else match sel with
  | none =>
    let sum (r : List (Nat × Option Bool)) : Nat := if f.fn = 0 then vsum (r.map (·.1)) else vsumsq (r.map (·.1))
    putTile n pl f.d 0 pl.land (rows.map fun r => outF32 (sum r) (entryOf r)) poison
  | some k =>
    let wins := rows.map fun r => ((selectWin k (indexed (n.reg f.ib) r)).getD (0, 0), entryOf r)
    let pl := putTile n pl f.d 0 pl.land (wins.map fun w => outF32 (winCode k w.1.1) w.2) poison
    if f.i = 0 then pl else putTile n pl f.i 0 pl.land (wins.map fun w => ⟨w.1.2, false, false⟩) poison

/-- The k pairs of a row with their flags: padding sets none (R135, R143). -/
def topkOut (k : Nat) (row : List Pair) (entry : Option Bool) : List (OutElem × Nat) :=
  (topk k row).zipIdx.map fun x =>
    (if x.2 < row.length then outF32 x.1.1 (if x.2 = 0 then entry else none) else ⟨x.1.1, false, false⟩, x.1.2)

/-- VTOPK (R143). -/
def planVtopk (n : Env) (f : VtopkF) (poison : Bool) : Plan :=
  let a := n.view f.a
  let k := f.km1.toNat + 1
  let rows := rowsOf (a.d.dim 0) (n.widen f.a)
  let pl := vePlan n (groups256 a.d.count + 2 * k * rows.length) 16
  let out := rows.flatMap fun r => topkOut k (indexed (n.reg f.ib) r) (entryOf r)
  let pl := putTile n pl f.d 0 pl.land (out.map (·.1)) poison
  putTile n pl f.i 0 pl.land (out.map fun x => ⟨x.2, false, false⟩) poison

/-- Elements of one step along the outermost dimension whose extent exceeds 1 (R249). DESIGN CHOICE (log 104): R204 says only
"the outermost dimension"; the model takes the same dimension there, so that trailing extents of 1 do not count. -/
def Desc.inner (d : Desc) : Nat :=
  let o := ((List.range 5).reverse.find? fun k => decide (1 < d.dim k)).getD 0
  d.count / max (d.dim o) 1
/-- Extent of that dimension. -/
def Desc.outer (d : Desc) : Nat :=
  d.dim (((List.range 5).reverse.find? fun k => decide (1 < d.dim k)).getD 0)

/-- Slot that holds a partial: the entry whose region contains its first byte, else SLOT. -/
def partialSlot (k : Core) (v : View) (first : Nat) : Nat :=
  let a := (v.elemAddr first).1.toNat
  ((k.slots.find? fun e => decide (e.2.base ≤ a) && decide (a < e.2.base + e.2.len)).map (·.1)).getD v.slot

/-- Sources of a VSPLIT that are present, ascending (R146). -/
def splitPresent (n : Env) (f : VsplitF) (inner : Nat) : List Nat :=
  (List.range (f.nm1.toNat + 1)).filter fun i => !(n.k.slot (partialSlot n.k (n.view f.a) (i * inner))).absent

/-- VSPLIT (R144 to R146). The partials enter as their binary32 codes. -/
def planVsplit (n : Env) (f : VsplitF) (poison : Bool) : Plan :=
  let a := n.view f.a
  let inner := if f.nm1 = 0 then a.d.count else a.d.inner
  let pres := splitPresent n f inner
  let pl := vePlan n ((f.nm1.toNat + 1) * max 1 (groups256 inner)) 4
  let pl := { pl with sregs := [(f.cnt.toNat, BitVec.ofNat 32 pres.length)] }
  let va := n.widen f.a
  let val (i e : Nat) : Nat := (va.getD (i * inner + e) (0, none)).1
  let vi := if f.init = 0 then [] else n.widen f.init
  let flagged (e : Nat) : Option Bool := entryOf ((pres.map fun i => va.getD (i * inner + e) (0, none)) ++ [vi.getD e (0, none)])
  let ix (i e : Nat) : Nat := n.elem f.ai (i * inner + e)
  let emptyOut (x : Nat) : OutElem := ⟨x, false, false⟩
  -- R135: a padding pair that came in with a partial is still no result of an operation
  let padded (pad : Nat) (x : OutElem × Nat) : OutElem := if x.1.code = pad ∧ x.2 = 0xFFFFFFFF then emptyOut pad else x.1
  match f.fn.toNat with
  | 0 =>
    let out := (List.range inner).map fun e =>
      let start : Option Nat := if f.init = 0 then none else some (vi.getD e (0, none)).1
      if pres.isEmpty then emptyOut (start.getD 0)
      else outF32 ((pres.foldl (fun acc i => some (chainAdd acc (val i e))) start).getD 0) (flagged e)
    putTile n pl f.d 0 pl.land out poison
  | 5 =>
    let kin := max (a.d.dim 0) 1
    let k := f.km1.toNat + 1
    let out := (List.range (inner / kin)).flatMap fun r =>
      topkOut k (pres.flatMap fun i => (List.range kin).map fun j => (val i (r * kin + j), ix i (r * kin + j)))
        (entryOf (pres.flatMap fun i => (List.range kin).map fun j => va.getD (i * inner + r * kin + j) (0, none)))
    let pl := putTile n pl f.d 0 pl.land (out.map (padded 0xFF800000)) poison
    putTile n pl f.di 0 pl.land (out.map fun x => emptyOut x.2) poison
  | fn =>
    let k : Sel := if fn = 2 then .max else if fn = 3 then .min else .maxabs
    let none0 : Pair := (if fn = 2 then 0xFF800000 else if fn = 3 then 0x7F800000 else 0, 0xFFFFFFFF)
    let wins := (List.range inner).map fun e =>
      match selectWin k (pres.map fun i => (val i e, ix i e)) with
      | none => (emptyOut none0.1, none0.2)
      | some w => (outF32 (winCode k w.1) (flagged e), w.2)
    let pl := putTile n pl f.d 0 pl.land (wins.map (padded none0.1)) poison
    putTile n pl f.di 0 pl.land (wins.map fun x => emptyOut x.2) poison

/-- VUPD (R165 to R169). DESIGN CHOICE (log 106): the tile flag of each state tile comes from the values that VUPD writes, m1, v1
and the new weight; an infinity or NaN that arises only in an intermediate (mh, vh, the denominator) sets none. A skipped update writes no state, so its weight slot keeps its stamp (log 34). -/
def planVupd (n : Env) (f : VupdF) (poison : Bool) : Plan :=
  let g := n.widen f.g
  let w := n.view f.w
  let cnt := w.d.count
  let hp := Hyper.ofWords ((List.range 8).map (n.elem f.hp))
  let sNorm := ((n.widen f.s).headD (0, none)).1
  let pl := vePlan n (40 + 24 * groups256 cnt) 64
  match vupdPrologue sNorm (signed 32 (n.reg f.n).toNat) hp with
  | none =>
    { pl with sregs := [(f.res.toNat, 0)], slots := (slotDone n w pl.land (statusWord (some (0, 0, true)) poison)).map fun x => { x with kind := .keep },
              tiles := [⟨w.d.ctx, n.reg f.tid, w.d.rows, [⟨0, some (0, true), poison⟩]⟩] }
  | some gs =>
    let cv : Cvt := ⟨false, true⟩
    let key (h : Handle) (role : Nat) : SrKey := srKey n.s (n.view h).d (n.reg f.step) (withRole (n.reg f.tid) role)
    let vals := (List.range cnt).map fun i =>
      vupdElem (g.getD i (0, none)).1 gs hp f.kind (n.elem f.w i) (n.elem f.m i) (if f.kind then 0 else n.elem f.v i)
    let rnd16 (k : SrKey) (i : Nat) (x : RVal) : OutElem :=
      let r := convert .bf16 cv (k.bits i) x
      let e := (g.getD i (0, none)).2
      ⟨r.1, r.2 || x.special || e.isSome, e.getD (!x.isNan)⟩
    let ms := vals.zipIdx.map fun x => rnd16 (key f.m 1) x.2 (f32 x.1.1)
    let vs := vals.zipIdx.map fun x => rnd16 (key f.v 2) x.2 (f32 x.1.2.1)
    let ws := vals.zipIdx.map fun x => rnd16 (key f.w 3) x.2 x.1.2.2
    let pl := { pl with sregs := [(f.res.toNat, 1)] }
    let pl := putTile n pl f.m (n.reg f.tid) pl.land ms poison
    let pl := if f.kind then pl else putTile n pl f.v (n.reg f.tid) pl.land vs poison
    putTile n pl f.w (n.reg f.tid) pl.land ws poison

/-! ### Chive (R200 to R208, R252 to R255) -/

/-- Bursts of 64 bytes. -/
def bursts (bytes : Nat) : Nat := (bytes + 63) / 64

/-- Latency of a cache read from a core to the slice of a page (R197): own field 64, diagonal 128, adjacent 96. -/
def cacheLat (c g : Nat) : Nat :=
  let f := fieldOf c
  let sl := setOf g % 4
  if f = sl then 64 else if f + sl = 3 then 128 else 96

/-- Times of a Chive transfer of `b` bursts between two tiers (R197, R201, R202): earliest and latest landing and the
time the channel is free again. `lat` bounds a cache read of up to 4,096 bytes, which is 64 bursts; a longer one moves its
further bursts at one a cycle (log 108). -/
def chiveTimes (n : Env) (srcT dstT lat rate b : Nat) : Nat × Nat × Nat :=
  let tk := n.t / 32
  let span := (b + rate - 1) / rate
  if srcT = 4 ∨ dstT = 4 then (max (n.t + 1) (32 * (tk + span - 1)), 32 * (tk + span + 24) + 31, 32 * (tk + span))
  else if srcT = 2 ∨ dstT = 2 then (max (n.t + 1) (32 * (tk + span - 1)), 32 * (tk + span + 8) + 31, 32 * (tk + span))
  else if srcT = 3 then (n.t + max b 1, n.t + lat + (b - 64), n.t + max b 1)
  else (n.t + 4 + b - 1, n.t + 4 + b - 1, n.t + max b 1)

/-- Plan of a transfer: times, channel, activity. -/
def chivePlan (n : Env) (ch rate : Nat) (src dst : View) (b : Nat) : Plan :=
  let lat := if src.d.tier = 3 then ((src.pagesOf src.rows).map (cacheLat n.c)).foldl max 64 else 0
  let (e, l, free) := chiveTimes n src.d.tier dst.d.tier lat rate b
  { early := e, land := l, acts := [(.chive ch, 1, n.t, l)],
    eng := { n.k.eng with chNext := n.k.eng.chNext.set ch free } }

/-- Codes packed by R32 in the order given. -/
def packCodes (bits : Nat) (xs : List Nat) : List Byte :=
  if 8 ≤ bits then xs.flatMap (leBytes (bits / 8))
  else
    let per := 8 / bits
    (List.range ((xs.length + per - 1) / per)).map fun i =>
      BitVec.ofNat 8 (((xs.drop (i * per)).take per).foldr (fun c acc => acc * 2 ^ bits + c) 0)

/-- Stack address of the FROZEN bytes that a transfer puts at the first byte of its destination slot, if it comes from FROZEN
pages (R95, R111). -/
def frozenFrom (n : Env) (src dst : View) : Option Int :=
  if src.d.tier = 2 ∧ attrOf (n.s.page (src.base.toNat / 65536)).v = .frozen then
    some (src.base - (dst.base - ((n.k.slot dst.slot).base : Int)))
  else none

/-- The slots of a plan, with the FROZEN source that they are filled from. -/
def Plan.fromFrozen (pl : Plan) (f : Option Int) : Plan := { pl with slots := pl.slots.map fun x => { x with frozen := f } }

/-- Elements landed in a destination: scratchpad or stack bytes, or a packet to the peer (log 23). -/
def putMoved (n : Env) (pl : Plan) (dst : View) (xs : List (Nat × Nat)) (poison : Bool) : Plan :=
  let status := statusWord none poison
  if dst.d.tier = 4 then
    { pl with packets := [(dst.d.port, ⟨3, 0, (let u := dst.base.toNat / 64; [n.p, u / 2 ^ 22, u / 2 ^ 13 % 512, u % 8192, 0]), packCodes dst.d.fmt.bits (xs.map (·.2)), []⟩)] }
  else
    { pl with writes := elemWritesAt n.s n.c dst xs, slots := slotDone n dst pl.land status,
              tiles := if poison then [⟨dst.d.ctx, 0, dst.d.rows,
                (List.range dst.d.rows).map fun r => ⟨r, none, true⟩⟩] else [] }

/-- Codes of a view with their element numbers. -/
def Env.codes (n : Env) (v : View) : List (Nat × Nat) := (List.range v.d.count).map fun i => (i, v.elem n.s n.c n.ways i)

/-- COPY (R203). -/
def planCopy (n : Env) (f : ChvF) (poison : Bool) : Plan :=
  let src := n.view f.src
  let dst := n.view f.dst
  (putMoved n (chivePlan n f.ch.toNat (f.ratem1.toNat + 1) src dst (bursts src.bytes)) dst (n.codes src) poison).fromFrozen
    (frozenFrom n src dst)

/-- Index stream of a descriptor (R204, R253). -/
def indexStream (n : Env) (d : Desc) : List Nat :=
  let v := n.view (BitVec.ofNat 12 d.index)
  (List.range v.d.count).map (v.elem n.s n.c n.ways)

/-- GATHER (R204, R205): skip and out-of-range positions receive zeros; the latter poison the destination. -/
def planGather (n : Env) (f : ChvF) (poison : Bool) : Plan :=
  let ix := indexStream n (n.view f.src).d
  let src : View := { n.view f.src with rows := some ((n.view f.src).d.inner, ix.filter fun r => decide (r < (n.view f.src).d.outer)) }
  let dst := n.view f.dst
  let inner := src.d.inner
  let bad := ix.any fun r => r != 0xFFFFFFFF && decide (src.d.outer ≤ r)
  let xs := ix.zipIdx.flatMap fun x => (List.range inner).map fun j =>
    (x.2 * inner + j, if x.1 < src.d.outer then src.elem n.s n.c n.ways (x.1 * inner + j) else 0)
  let xs := xs.filter fun x => decide (x.1 < dst.d.count)
  let bytes := (xs.length * src.d.fmt.bits + 7) / 8
  putMoved n (chivePlan n f.ch.toNat (f.ratem1.toNat + 1) src dst (bursts bytes)) dst xs (poison || bad)

/-- SCATTER (R204 to R206): an out-of-range position poisons the index-stream slot. -/
def planScatter (n : Env) (f : ChvF) (poison : Bool) : Plan :=
  let src := n.view f.src
  let dst := n.view f.dst
  let iv := n.view (BitVec.ofNat 12 dst.d.index)
  let ix := indexStream n dst.d
  let inner := dst.d.inner
  let bad := ix.any fun r => r != 0xFFFFFFFF && decide (dst.d.outer ≤ r)
  let xs := ix.zipIdx.flatMap fun x => if x.1 < dst.d.outer then
      (List.range inner).map fun j => (x.1 * inner + j, src.elem n.s n.c n.ways (x.2 * inner + j)) else []
  let bytes := (src.d.count * src.d.fmt.bits + 7) / 8
  let pl := putMoved n (chivePlan n f.ch.toNat (f.ratem1.toNat + 1) src dst (bursts bytes)) dst xs poison
  { pl with slots := pl.slots ++ (if bad then [⟨n.c, iv.slot, (n.k.slot iv.slot).status ||| 2#64, .keep, pl.land, [], none⟩] else []) }

/-- Source and destination of fetch j of a ring (R207, R254). -/
def ringViews (n : Env) (f : PrefF) (j : Nat) : View × View :=
  let src := n.view f.src
  let d := n.k.descOf f.ring
  let slot := d.slot + j % max d.ring 1
  let base : Int := (d.addr : Int) + iterTerm n.e.loops d.iter0 + iterTerm n.e.loops d.iter1
  ({ src with base := src.base + 64 * signed 32 f.stride.toNat * j },
   { d := d, base := base + ((n.k.slot slot).base : Int) - ((n.k.slot d.slot).base : Int), slot := slot })

/-- Fetch j of a ring: a transfer of the source's elements into the ring slot. -/
def planFetch (n : Env) (f : PrefF) (j : Nat) (poison : Bool) : Plan :=
  let (src, dst) := ringViews n f j
  (putMoved n (chivePlan n f.ch.toNat (f.ratem1.toNat + 1) src dst (bursts src.bytes)) dst (n.codes src) poison).fromFrozen
    (frozenFrom n src dst)

/-- PREFETCH: the prologue fetches 0 to D - 1, in order, one after another on the channel (R207, R254). -/
def planPrefetch (n : Env) (f : PrefF) (poison : Bool) : Plan :=
  (List.range (f.dm1.toNat + 1)).foldl (fun pl j =>
    let n' : Env := { n with t := if j = 0 then n.t else (pl.eng.chNext).getD f.ch.toNat 0, k := { n.k with eng := pl.eng } }
    let q := planFetch n' f j poison
    { q with early := max pl.early q.early, land := max pl.land q.land, writes := pl.writes ++ q.writes,
             slots := pl.slots ++ q.slots, tiles := pl.tiles ++ q.tiles, acts := pl.acts ++ q.acts,
             packets := pl.packets ++ q.packets })
    { early := 0, land := 0, eng := n.k.eng }

/-- Source pages of a COMMIT: its elements in pages of 65,536 bytes (R209). -/
def commitBytes (n : Env) (f : CommitF) : List Byte :=
  (n.view f.src).packed n.s n.c n.ways

/-- COMMIT: the bursts of its pages; the snapshot forms at COMMIT_COMPLETE, within 2 t after the last burst lands. -/
def planCommit (n : Env) (f : CommitF) (poison : Bool) : Plan :=
  let src := n.view f.src
  let b := bursts src.bytes
  let (e, l, free) := chiveTimes n 2 2 0 (f.ratem1.toNat + 1) b
  { early := e, land := l, acts := [(.chive f.ch.toNat, 1, n.t, l)], poison := poison,
    eng := { n.k.eng with chNext := n.k.eng.chNext.set f.ch.toNat free } }

/-! ### Link queue (R256 to R258) -/

/-- First-byte latency of the path between two cores (Table 6-5). -/
def pathLat (a b : Nat) : Nat :=
  if a = b then 4 else if clusterOf a = clusterOf b then 12 else if fieldOf a = fieldOf b then 24
  else if fieldOf a + fieldOf b = 3 then 56 else 40

/-- Where an XSEND goes: core and slot of this module, or a port. -/
inductive SendTo where
  | core (c slot off : Nat) | port (n : Nat) | nowhere
  deriving DecidableEq, Repr

/-- Share rate of a partition on a port in bytes per tick, in the port's mode (Table 16-1, R504). A partition without a share
has no bound of its own; the rate of one sixteenth is taken for it (log 119). -/
def shareRate (s : State) (n p : Nat) : Nat := (s.port n).sixteenth * max 1 ((s.port n).share p)

/-- Times of an XSEND of `b` bursts: on-module paths land exactly, peers by the Fennel bound (R257, R504). -/
def sendTimes (n : Env) (dst : SendTo) (b : Nat) : Nat × Nat :=
  match dst with
  | .core c _ _ => (n.t + pathLat n.c c + b - 1, n.t + pathLat n.c c + b - 1)
  | .port pt => (n.t + b, 32 * (n.t / 32 + (64 * b + shareRate n.s pt n.p - 1) / shareRate n.s pt n.p + 24) + 31)
  | .nowhere => (n.t, n.t)

/-- XSEND: bits unchanged from the source to the place; `sstep` is s24 at issue (Table 16-2). -/
def planXsend (n : Env) (f : XsendF) (dst : SendTo) (sstep : W32) (poison : Bool) : Plan :=
  let src := n.view f.src
  let bytes := src.packed n.s n.c n.ways
  let (e, l) := sendTimes n dst (bursts bytes.length)
  let pl : Plan := { early := e, land := l, eng := n.k.eng }
  match dst with
  | .core c slot off =>
    let base := ((n.s.core c).slot slot).base + 64 * off
    { pl with writes := [⟨.scratch c, base, bytes⟩], slots := [⟨c, slot, statusWord none poison, .set, l, [], none⟩] }
  | .port p => { pl with packets := [(p, ⟨if f.kind = 2 then 2 else 1, 0,
      [n.p, f.dcore.toNat, f.dslot.toNat, f.doff.toNat, sstep.toNat], bytes, []⟩)] }
  | .nowhere => pl

/-- XLATE: at its stamp every slot of the range whose stamp has not been set since the segment base is marked absent
(R258). -/
def xlateCore (n : Env) (f : XlateF) : Core :=
  (List.range (f.cntm1.toNat + 1)).foldl (fun k i =>
    let ix := (f.slot.toNat + i) % 512
    let e := k.slot ix
    if e.arrival = invalidStamp ∨ e.arrTick.toNat < n.e.segBase then
      { k with slots := sput SlotE.fresh k.slots ix { e with absent := true, lateAdd := f.policy } }
    else k) n.k

end Sys2Proof.Machine
end

