-- ==== Sys2Proof/Machine/Governor1.lean ====
section
/-! DEFINITION. The clamp of the governor over the cycles of a core (R244, R280, R281, R283, R286, R288, R289). It is
evaluated when an instruction completes, over the actions and declarations known then (log 11). -/

namespace Sys2Proof.Machine

/-- Declared current of a core in a tick: the newest declaration that applies to it (R237, R283). -/
def Core.declared (k : Core) (t : Nat) : Nat :=
  match k.budget.find? fun d => decide (d.eff ≤ t) with
  | none => 0
  | some d => if t < d.from_ + d.span then d.q else 0

/-- Does the core evaluate a Mint sample in the cycle (R172)? -/
def mintIn (acts : List Act) (cyc : Nat) : Bool :=
  acts.any fun a => a.kind == .mint && decide (a.first ≤ cyc) && decide (cyc ≤ a.last)

/-- Limit of a core in a tick: its declared current, scaled under R287. -/
def coreLimit (s : State) (c p t : Nat) : Nat :=
  let q := (s.core c).declared t
  match (s.govPart p).scales.find? fun x => x.1 == t with
  | none => q
  | some x => q * x.2 / 16

/-- Actions of one cycle that are not performed, and whether the request exceeded the declared current. -/
structure Gated where
  /-- second fire or row write of a slab (R244) -/
  conflict : List Act
  /-- fires beyond four (R15, R244) -/
  fifth : List Act
  /-- gated to keep within the limit (R286) -/
  clamp : List Act
  /-- the request exceeds the declaration: a clamp event (R289) -/
  excess : Bool
  deriving DecidableEq, Repr

/-- Slab of a fire. -/
def Act.fireSlab : Act → Option Nat
  | ⟨_, .fire s _, _, _, _⟩ => some s
  | _ => none
/-- Slab of a row write. -/
def Act.rowSlab : Act → Option Nat
  | ⟨_, .row s _, _, _, _⟩ => some s
  | _ => none

/-- Actions of a kind, the highest slab first. -/
def bySlab (sl : Act → Option Nat) (as : List Act) : List Act :=
  (List.range 16).reverse.flatMap fun i => as.filter fun a => sl a == some i

/-- All but the earliest-launched action of each slab (R244). -/
def slabLosers (sl : Act → Option Nat) (as : List Act) : List Act :=
  as.filter fun a => (sl a).isSome && as.any fun b => sl b == sl a && decide (b.owner < a.owner)

/-- Gating in order until the cost is within the limit: each group is gated as one with its cost. -/
def gateUntil (limit : Nat) : Nat → List (List Act × Nat) → List Act
  | _, [] => []
  | total, g :: rest => if total ≤ limit then [] else g.1 ++ gateUntil limit (total - g.2) rest

/-- What the governor does in a cycle (R286). A cycle in which the core evaluates a Mint sample costs 1 q more and allows 1 q more
(R172), so that the evaluation changes no gating. In order: fires from the highest slab down, row writes, Chive channels 3 to 0, vector
engine, adapter engine. An engine that two instructions keep active counts once (R124, R251). -/
def gateCycle (acts : List Act) (declared limit cyc : Nat) : Gated :=
  let live := acts.filter fun a => decide (a.first ≤ cyc) && decide (cyc ≤ a.last)
  let lose := slabLosers Act.fireSlab live ++ slabLosers Act.rowSlab live
  let live := live.filter fun a => !(lose.contains a)
  let fires := bySlab Act.fireSlab live
  let rows := bySlab Act.rowSlab live
  let chive (i : Nat) : List Act := live.filter fun a => a.kind == .chive i
  let ve := live.filter fun a => a.kind == .ve
  let ae := live.filter fun a => a.kind == .ae
  let single (as : List Act) : List (List Act × Nat) := as.map fun a => ([a], a.cost)
  let once (as : List Act) : List (List Act × Nat) := if as.isEmpty then [] else [(as, (as.headD ⟨0, .ve, 0, 0, 0⟩).cost)]
  let fifth := fires.take (fires.length - 4)
  let gs := single (fires.drop (fires.length - 4)) ++ single rows ++ [3, 2, 1, 0].flatMap (fun i => once (chive i))
    ++ once ve ++ once ae
  let cost := (gs.map (·.2)).foldl (· + ·) 0
  let asked := cost + (fifth.map Act.cost).foldl (· + ·) 0
  let extra := if mintIn acts cyc then 1 else 0
  ⟨lose, fifth, gateUntil (limit + extra) (cost + extra) gs, decide (declared + extra < asked + extra)⟩

/-- A governor event: log, one record unless the log holds one (R547), and the job marked (R289). -/
def govFault (s : State) (c p k cause tick : Nat) : State :=
  let held := s.gov.faultValid
  let s := if held then s
    else s.modGov fun g => { g with faultCore := BitVec.ofNat 11 c, faultPart := BitVec.ofNat 3 p, faultK := BitVec.ofNat 4 k,
                                    faultCause := BitVec.ofNat 2 cause, faultValid := true, faultTick := BitVec.ofNat 64 tick }
  let s := if held then s
    else recordNext s { kind := 0x09, cls := 5, status := St.budgetFault, scope := .partition p, source := c, detail := c,
                        detail2 := cause, parsley := false, reset := false }
  markStop s p St.budgetFault

/-- Address of the instruction with a serial number. -/
def Core.pcOf (k : Core) (serial : Nat) : BitVec 14 :=
  (((k.queues.flatMap (·.2)).find? fun e => e.serial == serial).map (·.pc)).getD 0

/-- Counting of a cycle not yet counted: clamp beyond the declaration, fifth fires and slab conflicts (R244, R289). -/
def countCycle (c p : Nat) (s : State) (cyc : Nat) : State :=
  let k := s.core c
  let g := gateCycle k.acts (k.declared (cyc / 32)) (coreLimit s c p (cyc / 32)) cyc
  let s := if g.excess then
      govFault (s.modGovPart p fun x => if x.clampCycles.contains cyc then x
        else { x with clamped := satAdd x.clamped 1, clampCycles := cyc :: x.clampCycles }) c p 0 0 (cyc / 32) else s
  match g.fifth ++ g.conflict with
  | [] => s
  | a :: _ => coreFaultFree s c (k.pcOf a.owner) St.scheduleFault 2

/-- Cycles of a core up to `hi` counted once each. -/
def countTo (s : State) (c p hi : Nat) : State :=
  let lo := (s.core c).clampTo
  let cycs := (List.range (hi + 1 - lo)).map (lo + ·)
  let busy := cycs.filter fun t => (s.core c).acts.any fun a => decide (a.first ≤ t) && decide (t ≤ a.last)
  (busy.foldl (countCycle c p) s).modCore c fun k => { k with clampTo := max k.clampTo (hi + 1) }

/-- What gating does to the instruction with serial `o` over its cycles: dropped fires (macro, cycle), dropped rows
(cycle), cycles held. -/
structure Dropped where
  fires : List (Nat × Nat)
  rows : List Nat
  clampRows : List Nat
  held : Nat
  deriving DecidableEq, Repr

/-- Gated actions of an owner from cycle lo to hi. -/
def droppedOf (s : State) (c p o lo hi : Nat) : Dropped :=
  let k := s.core c
  let mine := k.acts.filter fun a => a.owner == o
  let cycs := ((List.range (hi + 1 - lo)).map (lo + ·)).filter fun t => mine.any fun a => decide (a.first ≤ t) && decide (t ≤ a.last)
  cycs.foldl (fun d cyc =>
    let g := gateCycle k.acts (k.declared (cyc / 32)) (coreLimit s c p (cyc / 32)) cyc
    let all := (g.conflict ++ g.fifth ++ g.clamp).filter fun a => a.owner == o
    let cl := g.clamp.filter fun a => a.owner == o
    { fires := d.fires ++ all.filterMap fun a => match a.kind with | .fire _ m => some (m, cyc) | _ => none
      rows := d.rows ++ all.filterMap fun a => match a.kind with | .row _ _ => some cyc | _ => none
      clampRows := d.clampRows ++ cl.filterMap fun a => match a.kind with | .row _ _ => some cyc | _ => none
      held := d.held + (if all.any fun a => a.kind == .ve || a.kind == .ae ||
        (match a.kind with | .chive _ => true | _ => false) then 1 else 0) }) ⟨[], [], [], 0⟩

end Sys2Proof.Machine
end

