-- ==== Sys2Proof/Machine/Landing.lean ====
section
/-! DEFINITION. Landing: bytes, arrival stamps and status words, row writes (R80, R81), numeric records (R131), Mint capture
(R170, R171), and the work of an instruction that falls due before its completion (R123, R245, Table 4-3). -/

namespace Sys2Proof.Machine

/-- Row r of macro m (module number) as bytes. -/
def macroRow (s : State) (m r : Nat) : List Nat := (bread s.cim (16384 * m + 64 * r) 64).map (·.toNat)
/-- The 256 rows of a macro. -/
def macroRows (s : State) (m : Nat) : List (List Nat) := (List.range 256).map (macroRow s m)
/-- Scale code j of a macro. -/
def macroScale (s : State) (m j : Nat) : Nat := (bget s.scales (256 * m + j)).toNat

/-! ### Row writes -/

/-- One row written with its parity, and for rows 0 to 3 a quarter of the scale codes (R81, R88, R89, R101). -/
def writeRow (s : State) (m r : Nat) (mode : WMode) (guard : Bool) (row : List Nat) (scl : Option (List Nat)) (tick : Nat) : State :=
  let row := if guard then guardRow mode row else row
  let s := { s with cim := bwrite s.cim (16384 * m + 64 * r) (row.map (BitVec.ofNat 8)),
                    parity := sput 0 s.parity (256 * m + r) (BitVec.ofNat 4 (rowParity row)) }
  let s := match scl with
    | some codes =>
      if r < 4 then
        { s with scales := bwrite s.scales (256 * m + 64 * r) (((codes.drop (64 * r)).take 64).map (BitVec.ofNat 8)),
                 scaleParity := (List.range 64).foldl (fun sp i =>
                   sput 0 sp (256 * m + 64 * r + i) (BitVec.ofNat 1 (byteParity (codes.getD (64 * r + i) 0)))) s.scaleParity }
      else s
    | none => s
  s.modMacro m fun x => { x with rows := x.rows ||| (1#256 <<< r), lastWrite := tick }

/-! ### Landing -/

/-- Landing of one destination slot. -/
def landSlot (s : State) (d : SlotDone) (delay : Nat) (poison : Bool) : State :=
  s.modCore d.core fun k =>
    let e := k.slot d.slot
    let st := if poison then d.status ||| 2#64 else d.status
    let at' := d.at_ + delay
    let e := match d.kind with
      | .set => { e with status := st, arrTick := BitVec.ofNat 64 (at' / 32), arrCyc := BitVec.ofNat 5 (at' % 32),
                         absent := false, residue := d.residue, frozen := d.frozen }
      | .invalid => { e with status := st, arrTick := 0xFFFFFFFFFFFFFFFF, arrCyc := 31 }
      | .keep => { e with status := st }
      -- save and restore sequences (R336)
      | .held => if poison then { e with status := e.status ||| 2#64 } else e
    { k with slots := sput SlotE.fresh k.slots d.slot e }

/-- MINT_SAMPLE_CAPTURE (R170, R171): the core counts an eligible tile and samples it when the count modulo N is N - 1,
counting from 0 (log 25). -/
def mintCapture (s : State) (c p : Nat) (m : Option MintTile) (clean : Bool) : State :=
  match m with
  | none => s
  | some t =>
    if !clean then s
    else
      let n := (s.core c).mintCount
      let s := s.modCore c fun k => { k with mintCount := k.mintCount + 1 }
      let r := (s.part p).mint
      if r.enableOn && n % max r.rateOn.toNat 1 == r.rateOn.toNat - 1 then
        (match (s.group (groupOf c)).mint with
         | some _ => s.modPart p fun q => { q with mint := { q.mint with skipped := satAdd q.mint.skipped 1 } }
         | none =>
           let ev : TileEvent := ⟨t.tag, t.tile, t.count, []⟩
           let owners := ((t.rows.map fun x => rowOwner s p ev x).eraseDups).filter fun o => o != 0xFFFF
           s.modGroup (groupOf c) fun g => { g with mint := some (c, { t with owners := owners }) })
      else s

/-- Pages that the writes of one transfer cover whole, every byte of them: INVALID clears on them (R213). -/
def wholePages (ws : List Write) : List Nat :=
  let st := ws.filter fun w => w.space == .stack
  ((st.map fun w => w.addr / 65536).eraseDups).filter fun g =>
    let mine := st.filter fun w => w.addr / 65536 == g
    decide (65536 ≤ (mine.map fun w => w.bytes.length).sum) && (coveredBy mine).eraseDups.length == 65536

/-- What an entry lands with: its launch record after its work at completion. -/
structure Landing where
  writes : List Write
  slots : List SlotDone
  tiles : List TileEvent
  mint : Option MintTile

/-- All effects of a landing whose last write is due in cycle `at_` and comes `delay` cycles later. -/
def landAll (s : State) (c p : Nat) (l : Landing) (sregs : List (Nat × W32)) (at_ delay : Nat)
    (poison : Bool) : State :=
  let s := l.writes.foldl landWrite s
  let s := (wholePages l.writes).foldl (fun s g => s.setPage g (Paired.of (setBit32 (s.page g).v 9 false))) s
  let s := l.slots.foldl (fun s d => landSlot s d delay poison) s
  let s := s.modCore c fun k => sregs.foldl (fun k r => k.setReg (BitVec.ofNat 5 r.1) r.2) k
  let tiles := if poison then l.tiles.map TileEvent.poisoned else l.tiles
  let s := tiles.foldl (fun s e => tileNumeric s p e (at_ + delay)) s
  mintCapture s c p l.mint (!poison && tiles.all fun e => e.rows.isEmpty)

/-! ### Scratchpad banks (R179, R180) -/

/-- Bank of scratchpad byte a (R179). -/
def bankOf (a : Nat) : Nat := a / 64 % 64
/-- Bank row of scratchpad byte a (R179). -/
def bankRow (a : Nat) : Nat := a / 4096

/-- Accesses in the order in which one bank serves them: in each cycle the waiting access of the lowest rank, at one rank the
instruction issued first (R180). `fuel` is the number of accesses. -/
def serveBank : Nat → Nat → List BankAcc → List (BankAcc × Nat)
  | 0, _, _ => []
  | fuel + 1, t, as =>
    match as with
    | [] => []
    | a :: rest =>
      let t := max t ((rest.map (·.cyc)).foldl min a.cyc)
      let ready := as.filter fun x => decide (x.cyc ≤ t)
      let best := ready.foldl (fun b x => if x.rank < b.rank ∨ (x.rank = b.rank ∧ x.owner < b.owner) then x else b) (ready.headD a)
      (best, t) :: serveBank fuel (t + 1) (as.erase best)

/-- Cycles by which the last deferred access of an instruction is late (R180). -/
def bankDelay (banks : List BankAcc) (owner : Nat) : Nat :=
  let mine := banks.filter fun a => a.owner == owner
  (((mine.map (·.bank)).eraseDups).map fun b =>
    let as := banks.filter fun a => a.bank == b
    ((serveBank as.length 0 as).map fun x => if x.1.owner = owner then x.2 - x.1.cyc else 0).foldl max 0).foldl max 0

/-! ### Work due before completion -/

/-- The entry with serial `n` of queue `q` changed. -/
def Core.modEntry (k : Core) (q serial : Nat) (f : QEntry → QEntry) : Core :=
  k.setQueue q ((k.queue q).map fun e => if e.serial = serial then f e else e)

/-- Cycle of a piece of work. -/
def Due.time : Due → Nat
  | .land t _ _ _ => t
  | .stage t _ _ => t
  | .row t _ => t

/-- What the rows and scale codes held before a row write, kept while a chain is in flight in the core, so that its planes
read the rows as they stood in their cycles (R65, R80). -/
def logRow (s : State) (c m r at_ : Nat) (scl : Bool) : State :=
  let busy := ((s.core c).queue 0).any fun x => x.launched.isSome && (match x.op with | .cfwd _ | .ctrn _ => true | _ => false)
  if busy then
    let old : RowOld := ⟨m, r, at_, macroRow s m r,
      if scl && decide (r < 4) then some ((List.range 64).map fun i => macroScale s m (64 * r + i)) else none⟩
    s.modCore c fun k => { k with rowLog := old :: k.rowLog }
  else s

/-- Row FIRST + i of a CLOAD in its cycle (R81, R245): the bytes are read then; a gated row is not written, and one that the
clamp gated leaves the macro suspect (R288). -/
def cloadRow (s : State) (c p : Nat) (e : QEntry) (f : CloadF) (recv : List (Nat × List Byte)) (at_ i : Nat) : State :=
  let k := s.core c
  let m := c * 1024 + f.macroIx.toNat
  if (s.macro1 m).bad then s
  else
    let g := gateCycle k.acts (k.declared (at_ / 32)) (coreLimit s c p (at_ / 32)) at_
    let mine (as : List Act) : Bool := as.any fun a => a.owner == e.serial
    let s := if mine g.clamp then s.modMacro m fun x => x.suspectAs .parity (s.tick + 1) else s
    if mine g.conflict || mine g.fifth || mine g.clamp then s
    else
      let n : Env := ⟨s, c, k, p, (s.part p).live.ways.v, e, at_⟩
      let r := f.first.toNat + i
      let src := n.view f.src
      let scl := n.view f.scl
      let row := (List.range 64).map fun j => src.packedByte (overlay s recv) c n.ways (i * 64 + j)
      let codes := if f.scl = 0 ∨ 4 ≤ r then none else some ((List.range 256).map (scl.packedByte (overlay s recv) c n.ways))
      let mode := (wmodeOf f.wmode.toNat).getD .w2
      writeRow (logRow s c m r at_ codes.isSome) m r mode (s.part p).integ.guardOn row codes (at_ / 32)

/-- One piece of due work of an entry. An engine that the governor held lands later by the cycles held (R288). -/
def settleDue (s : State) (c p : Nat) (e : QEntry) (l : Launched) (d : Due) : State :=
  match d with
  | .land at_ ws ss ts =>
    let held := (droppedOf s c p e.serial l.at_ at_).held
    landAll s c p ⟨ws, ss, ts, none⟩ [] at_ held (l.poison || held != 0)
  | .stage _ _ cells => s.modCore c fun k => { k with staging := cells.foldl (fun m x => sput 0 m x.1 x.2) k.staging }
  | .row at_ i => (match e.op with | .cload f => cloadRow s c p e f l.recv at_ i | _ => s)

/-- Work of one entry that falls before cycle `hi`, in order; it leaves the launch record. -/
def settleEntry (s : State) (c p : Nat) (e : QEntry) (hi : Nat) : State :=
  match e.launched with
  | none => s
  | some l =>
    let due := l.todo.filter fun d => decide (d.time < hi)
    if due.isEmpty then s
    else
      let s := due.foldl (fun s d => settleDue s c p e l d) s
      s.modCore c fun k => k.modEntry (opQueue e.op) e.serial fun x =>
        { x with launched := x.launched.map fun y => { y with todo := y.todo.filter fun d => !decide (d.time < hi) } }

/-- The same for an entry as the state holds it. -/
def settleOwn (s : State) (c p : Nat) (e : QEntry) (hi : Nat) : State :=
  match ((s.core c).queue (opQueue e.op)).find? fun x => x.serial == e.serial with
  | none => s
  | some x => settleEntry s c p x hi

/-- Due work of every entry of a core before cycle `hi`. -/
def settleCore (s : State) (c p hi : Nat) : State :=
  ((s.core c).queues.flatMap (·.2)).foldl (fun s e => settleEntry s c p e hi) s

end Sys2Proof.Machine
end

