-- ==== Sys2Proof/Machine/Launch.lean ====
section
/-! DEFINITION. INSTRUCTION_LAUNCH (R222, R223): which entry launches and when, what its accesses find, and what it will
do (R103, R121, R185, R187, R190, R232, R276, R278, R395, R396, R544, R592). -/

namespace Sys2Proof.Machine

/-! ### When (R222, R223, R255) -/

/-- Landing of a launched entry; none before its launch. -/
def QEntry.land? (e : QEntry) : Option Nat := e.launched.map (·.land)

/-- First cycle from `t` at which fewer than eight CIM instructions are in progress (Table 7-1). -/
def cimFree (lands : List Nat) : Nat → Nat → Nat
  | 0, t => t
  | fuel + 1, t =>
    let live := lands.filter fun l => decide (t ≤ l)
    if live.length < 8 then t else cimFree lands fuel (live.foldl min (live.headD t) + 1)

/-- Earliest cycle the engine's own timing allows: for an unstamped AMM after the drain too (R120), for a stamped one the
array alone (R121). -/
def engineFree (k : Core) (e : QEntry) : Nat :=
  let ch (c : BitVec 2) : Nat := k.eng.chNext.getD c.toNat 0
  match e.op with
  | .amm _ => if e.stamp.isSome then k.eng.aeNext else max k.eng.aeNext (k.eng.aeDrain + 1)
  | .copy f | .gather f | .scatter f => ch f.ch
  | .prefetch f | .ringFetch f _ => ch f.ch
  | .commit f => ch f.ch
  | .xsend _ | .xlate _ => (((k.queue 4).filterMap QEntry.land?).map (· + 1)).foldl max 0
  | .cbuf _ | .cfwd _ | .ctrn _ | .cload _ => 0
  | _ => k.eng.veNext

/-- Launch time of an entry at the head of its queue: an unstamped one in a cycle after the launch before it, a stamped one no
earlier than that launch (R222, R223). -/
def launchTime (k : Core) (e : QEntry) : Nat :=
  let q := opQueue e.op
  let after := if q = 5 then 0 else k.eng.lastLaunch.getD q 0
  let base := max e.issued (match e.stamp with | none => after | some st => max st (after - 1))
  if q = 0 then cimFree ((k.queue 0).filterMap QEntry.land?) 9 base else max base (engineFree k e)

/-- The activity of the engine or channel that runs an operation; none on the queues whose actions the clamp drops (R286, R288). -/
def engineKind (op : EngineOp) : Option ActKind :=
  match op with
  | .amm _ => some .ae
  | .copy f | .gather f | .scatter f => some (.chive f.ch.toNat)
  | .prefetch f | .ringFetch f _ => some (.chive f.ch.toNat)
  | .commit f => some (.chive f.ch.toNat)
  | .cbuf _ | .cfwd _ | .ctrn _ | .cload _ | .xsend _ | .xlate _ => none
  | _ => some .ve

/-- Cycles for which the governor held the engine since the launch before on it; each delays what follows by one (R288). -/
def engineHeld (s : State) (c p : Nat) (e : QEntry) : Nat :=
  let k := s.core c
  match engineKind e.op with
  | none => 0
  | some kd =>
    let lo := ((k.acts.filter fun a => a.kind == kd).map (·.first)).foldl max 0
    ((List.range (engineFree k e - lo)).filter fun i =>
      let cyc := lo + i
      (gateCycle k.acts (k.declared (cyc / 32)) (coreLimit s c p (cyc / 32)) cyc).clamp.any fun a => a.kind == kd).length

/-- Launch time of an entry with the cycles for which its engine was held (R222, R288). -/
def dueTime (s : State) (c p : Nat) (e : QEntry) : Nat :=
  match engineHeld s c p e with
  | 0 => launchTime (s.core c) e
  | h => max (launchTime (s.core c) e) (engineFree (s.core c) e + h)

/-- First entry of a queue that has not launched. -/
def headOf (k : Core) (q : Nat) : Option QEntry := (k.queue q).find? fun e => e.launched.isNone

/-- The entry that launches next on a queue; on the Chive queue the ring fetches compete, the earlier time first (R255). -/
def nextLaunch (k : Core) (q : Nat) : Option QEntry :=
  if q = 3 then
    match headOf k 3, headOf k 5 with
    | some a, some b => if launchTime k b ≤ launchTime k a then some b else some a
    | some a, none => some a
    | none, r => r
  else headOf k q

/-! ### What the accesses find -/

/-- Who accesses pages for an operation (Table 6-3). -/
def accessorOf (op : EngineOp) : Accessor :=
  match op with
  | .copy _ => .copy
  | .commit _ => .commit
  | .cbuf _ => .cbuf
  | .gather _ => .gather
  | .scatter _ => .scatter
  | .prefetch _ | .ringFetch _ _ => .prefetch
  | .cload _ => .rowWrite
  | _ => .engine

/-- Views of the partials of a VSPLIT, each in its slot, with its byte range, absent ones left out (R146). -/
def partialViews (n : Env) (f : VsplitF) (h : Handle) : List (View × Int × Int) :=
  let v := n.view h
  let inner := if f.nm1 = 0 then v.d.count else v.d.inner
  (splitPresent n f inner).map fun i =>
    let lo := (v.elemAddr (i * inner)).1
    ({ v with slot := partialSlot n.k v (i * inner) }, lo, (v.elemAddr (i * inner + (inner - 1))).1 + (v.d.fmt.bits + 7) / 8)

/-- Rows that an index stream selects, within the row range (R204, R205). -/
def selected (n : Env) (d : Desc) : Nat × List Nat := (d.inner, (indexStream n d).filter fun r => decide (r < d.outer))
/-- Source of a GATHER: only the rows that its index stream names are read (R204, R363). -/
def gatherView (n : Env) (f : ChvF) : View := { n.view f.src with rows := some (selected n (n.view f.src).d) }
/-- Destination of a SCATTER: only the rows that its index stream names are written. -/
def scatterView (n : Env) (f : ChvF) : View := { n.view f.dst with rows := some (selected n (n.view f.dst).d) }

/-- Views an operation reads, with their scale descriptors, and views it writes. Index streams are operands (R253); a scale
descriptor of a converted destination is read (R50), of an AMM destination it is written (R127). -/
def opViews (n : Env) : List View × List View :=
  let us := (uses n.e.op).filter fun u => !(u.1 == 0)
  let sc (v : View) : List View := if v.d.scale = 0 then [] else [n.view (BitVec.ofNat 12 v.d.scale)]
  let reads := (us.filter fun u => u.2.1 == .read || u.2.1 == .commitSrc).map fun u => n.view u.1
  let writes := (us.filter fun u => u.2.1 == .write).map fun u => n.view u.1
  match n.e.op with
  | .gather f => ([gatherView n f] ++ reads.flatMap sc ++ [n.view (BitVec.ofNat 12 (n.view f.src).d.index)], writes)
  | .scatter f => (reads ++ reads.flatMap sc ++ [n.view (BitVec.ofNat 12 (n.view f.dst).d.index)], [scatterView n f])
  | .prefetch f =>
    let js := List.range (f.dm1.toNat + 1)
    (js.map fun j => (ringViews n f j).1, js.map fun j => (ringViews n f j).2)
  | .ringFetch f j => ([(ringViews n f j).1], [(ringViews n f j).2])
  | .amm _ => (reads ++ reads.flatMap sc, writes ++ writes.flatMap sc)
  | .vsplit f =>
    ((partialViews n f f.a).map (·.1) ++ (if f.fn = 0 then [] else (partialViews n f f.ai).map (·.1))
      ++ (if f.init = 0 then [] else [n.view f.init]), writes)
  | .vcvt _ => (reads ++ reads.flatMap sc ++ writes.flatMap sc, writes)
  | _ => (reads ++ reads.flatMap sc, writes)

/-- Uses whose region must lie in one slot: the partials of a VSPLIT lie in several (R144), the rows of a GATHER and SCATTER are
those of the index stream, and a ring fetch has a slot of its own. -/
def singleUses (op : EngineOp) : List (Handle × Use × Bool) :=
  match op with
  | .vsplit f => (uses op).filter fun u => !(u.2.1 == .read && (u.1 == f.a || u.1 == f.ai))
  | .gather f => (uses op).filter fun u => !(u.1 == f.src)
  | .scatter f => (uses op).filter fun u => !(u.1 == f.dst)
  | .prefetch _ | .ringFetch _ _ => []
  | op => uses op

/-- R232 for the partials of a VSPLIT. -/
def partialsBad (n : Env) (f : VsplitF) (h : Handle) : Bool :=
  let v := n.view h
  h == 0 || v.d.tier != 1 || !v.d.read ||
    (partialViews n f h).any fun x =>
      let e := n.k.slot x.1.slot
      !(decide ((e.base : Int) ≤ x.2.1) && decide (x.2.2 ≤ ((e.base + e.len : Nat) : Int)))

/-- R232 for fetch j of a ring: the source of the fetch and the ring slot that it fills. -/
def ringBad (n : Env) (f : PrefF) (j : Nat) : Bool :=
  badHandle n.k f.src (ringViews n f j).1 .read || badHandle n.k f.ring (ringViews n f j).2 .write

/-- R232 for the scale descriptors that the operation reads or writes through: those of its operands, of a converted
destination, which it reads (R50), and of the destination of an AMM drain, which it writes (R127). -/
def scaleBad (n : Env) : Bool :=
  let of (h : Handle) (u : Use) : Bool :=
    let sc : Handle := BitVec.ofNat 12 (n.k.descOf h).scale
    h != 0 && sc != 0 && badHandle n.k sc (n.view sc) u
  let eng : Bool := opQueue n.e.op == 0 || opQueue n.e.op == 1 || opQueue n.e.op == 2
  let reads := ((uses n.e.op).filter fun u => u.2.1 == .read).any fun u => of u.1 .read
  match n.e.op with
  | .vcvt f => reads || of f.d .read
  | .amm f => reads || (f.acc != 2 && of f.c .write)
  | _ => eng && reads

/-- The conditions of R232 for the operation, index streams of GATHER and SCATTER included (R253); an XSEND of kind 0 to a
core of another partition is such an access too (R343). -/
def opBad (n : Env) : Bool :=
  let ixBad (h : Nat) : Bool := badHandle n.k (BitVec.ofNat 12 h) (n.view (BitVec.ofNat 12 h)) .index
  descBad n.k n.e.loops (singleUses n.e.op) || scaleBad n ||
    (match n.e.op with
     | .vsplit f => partialsBad n f f.a || (f.fn != 0 && partialsBad n f f.ai)
     | .gather f => ixBad (n.view f.src).d.index || badHandle n.k f.src (gatherView n f) .read
     | .scatter f => ixBad (n.view f.dst).d.index || badHandle n.k f.dst (scatterView n f) .write
     | .prefetch f => (List.range (f.dm1.toNat + 1)).any fun j => ringBad n f j
     | .ringFetch f j => ringBad n f j
     | .xsend f => (n.view f.src).d.tier != 1 ||
         (f.kind == 0 && partOfCore n.s f.dcore.toNat != some n.p)
     | .commit f => decide (2 < (n.view f.src).d.tier)
     | _ => false)

/-- Everything the accesses of an operation find. -/
def opFound (n : Env) : Found :=
  let a := accessorOf n.e.op
  let (rs, ws) := opViews n
  let r := rs.foldl (fun f v => f.join (readFound n.s n.k n.p n.ways a n.e.loops n.e.segBase v)) Found.none
  let w := ws.foldl (fun f v => f.join (writeFound n.s n.p a v)) Found.none
  let eng : Bool := a == .engine && ws.any fun v => v.d.tier == 4
  { r.join w with bad := r.bad || w.bad || eng, poison := r.poison || w.poison }

/-! ### Memory events of a launch (R190, R544) -/

/-- A memory event of a launch: a burst of a macro row write that is delivered as received leaves the macro suspect (R190). -/
def memEvent (s : State) (c p : Nat) (op : EngineOp) (m : MemEvent) : State :=
  match m with
  | .retried _ => burstEvent s p m
  | .uncorrected _ _ _ | .dieError _ _ _ =>
    let s := burstEvent s p m
    (match op with
     | .cload f => s.modMacro (c * 1024 + f.macroIx.toNat) fun x => x.suspectAs .parity (s.tick + 1)
     | _ => s)
  | .corrected => s.modErr fun e => { e with corrected := satAdd e.corrected 1 }
  | .doubleCore table =>
    partitionReset (recordNext s { kind := 0x0B, cls := 4, status := St.internal, scope := .partition p, source := c,
                                   detail := c, detail2 := table.toNat, parsley := false, reset := true }) p St.internal
  | .doubleLine set way =>
    let g := match sget none s.lines (lineIx set way) with | none => 0 | some l => l.gpage
    let s := { s with lines := sput none s.lines (lineIx set way) none,
                      cacheBytes := bzero s.cacheBytes (lineIx set way * 65536) ((lineIx set way + 1) * 65536) }
    recordNext s { kind := 0x07, cls := 4, status := St.numericFlag, scope := .partition p, source := 1480 + set % 4,
                   detail := g, detail2 := way, parsley := false, reset := false }

/-- Does the event end the partition's work? -/
def MemEvent.fatal : MemEvent → Bool
  | .doubleCore _ => true | _ => false

/-! ### Effects -/

/-- Slots a list of handles names: every destination in tier SCRATCH. -/
def destSlots (n : Env) : List Nat :=
  match n.e.op with
  | .ringFetch f j => [(ringViews n f j).2.slot]
  | op => ((dests op).filter (· != 0)).filterMap fun h =>
      let v := n.view h
      if v.d.tier = 1 then some v.slot else none

/-- POISON on slots of a core; `kill` also sets the invalid stamp. -/
def poisonSlots (k : Core) (ss : List Nat) (kill : Bool) : Core :=
  ss.foldl (fun k i =>
    let e := k.slot i
    let e := { e with status := e.status ||| 2#64 }
    let e := if kill then { e with arrTick := 0xFFFFFFFFFFFFFFFF, arrCyc := 31 } else e
    { k with slots := sput SlotE.fresh k.slots i e }) k

/-- An entry that moves nothing and leaves its queue one cycle after its launch (R592, R232). -/
def deadLaunch (t : Nat) : Launched := ⟨t, t + 1, t + 1, [], [], [], [], none, [], false, true, [], (0, 0), false, []⟩

/-- Bookkeeping of a launch at t: last launch of the queue. -/
def Core.launchedAt (k : Core) (e : QEntry) (t : Nat) (l : Launched) (eng : EngTimes) : Core :=
  let q := opQueue e.op
  let eng := if q = 5 then eng else { eng with lastLaunch := eng.lastLaunch.set q (t + 1) }
  let k := k.modEntry q e.serial fun x => { x with launched := some l }
  { k with eng := eng }

/-- Where an XSEND goes (R257, R377): a core and slot of this module, a port, or nowhere (DISABLED). -/
def sendTo (n : Env) (f : XsendF) : SendTo :=
  match f.kind.toNat with
  | 0 => .core (f.dcore.toNat % 1280) f.dslot.toNat f.doff.toNat
  | 1 => if (n.s.port f.port.toNat).up then .port f.port.toNat else .nowhere
  | _ =>
    let w := (n.s.part n.p).pipeOn
    let student := (w.extractLsb' 0 3).toNat
    if !w.getLsbD 7 then .nowhere
    else if w.getLsbD 6 then
      (let pt := (w.extractLsb' 3 3).toNat
       if (n.s.port pt).up then .port pt else .nowhere)
    else
      let q := n.s.part student
      let img := (q.img.find? fun g => g.st == .running).orElse fun _ => q.img.find? fun g => g.info.isSome
      match img.bind (·.info) with
      | none => .nowhere
      | some info =>
        match info.lanes.find? fun l => l.1 == f.dcore.toNat with
        | none => .nowhere
        | some l => .core l.2.1 l.2.2 f.doff.toNat

/-- The entry ends without effect: CORE_FAULT with cause and status, POISON on the destinations. -/
def stopLaunch (n : Env) (st : Status) (cause : BitVec 3) (kill : Bool) (slots : List Nat) : State :=
  let s := n.s.modCore n.c fun k =>
    poisonSlots (k.launchedAt n.e n.t (deadLaunch n.t) k.eng) slots kill
  let s := match n.e.op with
    | .xsend f =>
      (match sendTo n f with
       | .core c slot _ => if f.kind = 2 ∨ partOfCore s c = some n.p then s.modCore c fun k => poisonSlots k [slot] kill else s
       | _ => s)
    | _ => s
  chvFault (coreFaultFree s n.c n.e.pc st cause) n.c n.e.op st

/-- A residue error enters CORE_PARITY_LOG (Table 3-4). -/
def ParityLog.logGuard (p : ParityLog) (m : Nat) : ParityLog :=
  { p with macroIx := BitVec.ofNat 10 m, row := 0, quarter := 0, scale := false, guard := true, valid := true }

/-- Guarded residue test at the first read (R103): the slot's check words are consumed, the macros head the scrub order,
the tile is poisoned, in its status word and in the records of its rows' owners (R131). -/
def residueTest (s : State) (c p : Nat) (v : View) : State :=
  let slot := v.slot
  match ((s.core c).slot slot).residue with
  | [] => s
  | m :: ms =>
    let k := s.core c
    let s := s.modCore c fun k =>
      let e := k.slot slot
      { k with slots := sput SlotE.fresh k.slots slot { e with residue := [], status := e.status ||| 2#64 }
               par := { k.par with guardN := satAdd k.par.guardN (ms.length + 1) } }
    let s := if k.par.valid then s
      else recordNext (s.modCore c fun k => { k with par := k.par.logGuard m })
        { kind := 0x03, cls := 10, status := St.numericFlag, scope := .partition p, source := c, detail := c * 1024 + m,
          detail2 := 0, parsley := false, reset := false }
    let s := tileNumeric s p (TileEvent.poisoned ⟨v.d.ctx, 0, v.d.rows, []⟩) s.gov.now
    s.modGroup (groupOf c) fun g =>
      { g with rescrub := ((m :: ms).flatMap fun x => (List.range 257).map fun r => (c * 1024 + x) * 257 + r) ++ g.rescrub }

/-- STATE pages of a partition, ascending; BUDDY pages in the order the load allocated them (log 28). -/
def statePages (s : State) (p : Nat) : List Nat := (ownedPages s p).filter fun g => attrOf (s.page g).v == .state
/-- BUDDY pages of a partition. -/
def buddyPages (s : State) (p : Nat) : List Nat := (ownedPages s p).filter fun g => attrOf (s.page g).v == .buddy
/-- Pages of one generation: STATE pages, manifest, record (R392). -/
def genSize (n : Nat) : Nat := n + (n + 1819) / 1820 + 1
/-- Generation that a checkpoint writes: the one that is not valid (R393). -/
def targetGen (k : Ckpt) : Nat := if k.genOk && !k.gen then 1 else 0
/-- Buddy values of a partition (Table 12-7): LOCAL when REMOTE is clear, and the port. -/
def buddyRemote (s : State) (p : Nat) : Bool := (s.part p).dp.buddyOn.getLsbD 1
def buddyPort (s : State) (p : Nat) : Nat := ((s.part p).dp.buddyOn.extractLsb' 2 3).toNat
def buddyPart (s : State) (p : Nat) : Nat := ((s.part p).dp.buddyOn.extractLsb' 5 3).toNat

/-- A page written to place `i` of generation `gen`: a BUDDY page of the partition, or a CKPT transfer to the holder. -/
def buddyWrite (s : State) (p gen i : Nat) (bytes : List Byte) : State :=
  let off := gen * genSize (statePages s p).length + i
  if buddyRemote s p then
    sendData s (buddyPort s p) p (buddyPart s p) ⟨3, 0, [p, off * 1024 / 2 ^ 22, off * 1024 / 2 ^ 13 % 512, off * 1024 % 8192, 0], bytes, []⟩
  else
    match (buddyPages s p)[off]? with
    | none => s
    | some g => onPages s [g] fun s => { s with stack := bwrite s.stack (g * 65536) bytes }

/-- Pages that the copier reads and writes for STATE page g. -/
def copyTargets (s : State) (p g : Nat) : List Nat :=
  let off := targetGen (s.part p).ckpt * genSize (statePages s p).length + (statePages s p).findIdx (· == g)
  g :: (if buddyRemote s p then [] else ((buddyPages s p)[off]?).toList)

/-- The checkpoint copier takes one page: copy, leaf, COPIED (R394); bursts delivered as received are copied as they came. -/
def copyPage (s : State) (p g : Nat) (recv : List (Nat × List Byte)) : State :=
  let w := (s.page g).v
  if wpHeld w then
    let bytes := bread (overlay s recv).stack (g * 65536) 65536
    let i := (statePages s p).findIdx (· == g)
    let s := buddyWrite s p (targetGen (s.part p).ckpt) i bytes
    let s := s.setPage g (Paired.of (setBit32 w 8 true))
    s.modPart p fun q => { q with ckpt := { q.ckpt with doneLeaves := q.ckpt.doneLeaves ++ [(g, Config.sha256 bytes)],
                                                        left := q.ckpt.left - 1 } }
  else s

/-- The STATE page of a copy slot: a COPY of a CKPT_AWARE image from one STATE page to a BUDDY page or to a peer (R395). -/
def copySlot (n : Env) : Option Nat :=
  let aware := match (n.s.part n.p).running with
    | none => false
    | some i => match ((n.s.part n.p).img.getD i Img.fresh).info with | none => false | some x => x.ckptAware
  match n.e.op with
  | .copy f =>
    let src := n.view f.src
    let dst := n.view f.dst
    let g := src.base.toNat / 65536
    let toBuddy : Bool := dst.d.tier == 4 ||
      (dst.d.tier == 2 && attrOf (n.s.page (dst.base.toNat / 65536)).v == .buddy)
    if aware && src.d.tier == 2 && toBuddy && attrOf (n.s.page g).v == .state && ownerOf (n.s.page g).v == some n.p then some g
    else none
  | _ => none

/-- What an operation plans at its launch. -/
def planOf (n : Env) (poison : Bool) : Plan :=
  match n.e.op with
  | .cbuf f => (planCbuf n f poison).1
  | .cfwd f => planChain n f false poison
  | .ctrn f => planChain n f true poison
  | .cload f => planCload n f poison
  | .amm f => planAmm n f poison
  | .varith f | .vfunc f | .vlogic f | .vcvt f => planElem n n.e.op f poison
  | .vred f => planVred n f poison
  | .vtopk f => planVtopk n f poison
  | .vsplit f => planVsplit n f poison
  | .vupd f => planVupd n f poison
  | .copy f => planCopy n f poison
  | .gather f => planGather n f poison
  | .scatter f => planScatter n f poison
  | .prefetch f => planPrefetch n f poison
  | .commit f => planCommit n f poison
  | .xsend f => planXsend n f (sendTo n f) (n.reg 24) poison
  | .xlate _ => { early := n.t, land := n.t, eng := n.k.eng }
  | .ringFetch f j => planFetch n f j poison

/-- Scratchpad accesses of a launch whose cycles the spec gives: the chain write (Table 7-8), the drain at four rows a cycle
(Table 4-3), the bursts of an on-module Chive path (R202). The cycles of the vector engine's accesses within its occupancy,
of reads and of partial-slot writes are not given (log 109). -/
def bankAccs (n : Env) (pl : Plan) : List BankAcc :=
  let cells (h : Handle) (rank : Nat) (cyc : Nat → Nat) : List BankAcc :=
    let v := n.view h
    if h = 0 ∨ v.d.tier ≠ 1 then []
    else ((List.range v.d.count).map fun i => (⟨rank, bankOf (v.elemAddr i).1.toNat, cyc i, n.e.serial⟩ : BankAcc)).eraseDups
  let chive (ch : Nat) : List BankAcc :=
    if pl.early ≠ pl.land then []
    else
      let bs := (pl.writes.filter fun w => w.space == .scratch n.c).flatMap fun w => (List.range w.bytes.length).map (w.addr + ·)
      (bs.zipIdx.map fun x =>
        (⟨3 + ch, bankOf x.1, pl.land + 1 + x.2 / 64 - bursts bs.length, n.e.serial⟩ : BankAcc)).eraseDups
  match n.e.op with
  | .cfwd f | .ctrn f =>
    let w1 := (n.k.chainOf f.chain.toNat).2.2 == some .w1
    cells f.dst 0 fun i => if w1 && decide (i < 256) then pl.land - 1 else pl.land
  | .amm f =>
    let cols := max ((n.view f.c).d.dim 0) 1
    cells f.c 1 fun i => pl.land - 15 + i / cols / 4
  | .copy f | .gather f | .scatter f => chive f.ch.toNat
  | .prefetch f | .ringFetch f _ => chive f.ch.toNat
  | _ => []

/-- SR seed and stream in force at the launch for the destination of an AMM (R56). -/
def srOf (n : Env) : BitVec 64 × W32 :=
  match n.e.op with
  | .amm f => (let k := srKey n.s (n.view f.c).d 0 0; (k.seed, k.stream))
  | _ => (0, 0)

/-- The launch itself: bookkeeping, broadcast buffers, mode of a CLOAD with FIRST = 0 (R61), absent marks, packets. -/
def commitPlan (n : Env) (pl : Plan) (poison : Bool) (recv : List (Nat × List Byte)) : State :=
  -- R336
  let held : Bool := opQueue n.e.op == 3 && ((n.s.part n.p).saving || (n.s.part n.p).resume.isSome)
  let slots := if held then pl.slots.map fun d => { d with kind := .held } else pl.slots
  let l : Launched := ⟨n.t, pl.early, pl.land, pl.acc, pl.writes, slots, pl.tiles, pl.mint, pl.sregs, pl.poison || poison,
    false, pl.todo, srOf n, match n.e.op with | .amm f => ammBank n.k f | _ => false, recv⟩
  let s := n.s.modCore n.c fun k =>
    let k := k.launchedAt n.e n.t l pl.eng
    let k := match n.e.op with | .amm f => { k with bank := ammBank n.k f } | _ => k
    let k := { k with banks := k.banks ++ bankAccs n pl
                      acts := k.acts ++ pl.acts.map fun a => ⟨n.e.serial, a.1, a.2.1, a.2.2.1, a.2.2.2⟩ }
    match n.e.op with
    | .cbuf f =>
      let b := (planCbuf n f poison).2
      { k with bufs := smod [] k.bufs (f.slab.toNat * 8 + f.bslot.toNat) (b :: ·) }
    | .xlate f => { k with slots := (xlateCore { n with k := k } f).slots }
    | _ => k
  let s := match n.e.op with
    | .cload f => if f.first = 0 ∧ !(s.macro1 (n.c * 1024 + f.macroIx.toNat)).bad then
        s.modMacro (n.c * 1024 + f.macroIx.toNat) fun m => { m with mode := wmodeOf f.wmode.toNat, rows := 0, suspect := none,
                                                                           parityHit := false } else s
    | _ => s
  let dpart : Nat := match n.e.op with
    | .xsend f => if f.kind = 2 then ((n.s.part n.p).pipeOn.extractLsb' 0 3).toNat else n.p
    | _ => n.p
  let s := pl.packets.foldl (fun s x => sendData s x.1 n.p dpart x.2) s
  -- a peer's bytes and the elements that short operands lack are drawn once
  let short : Bool := match n.e.op with | .varith _ | .vfunc _ | .vlogic _ => true | _ => false
  if short || (opViews n).1.any (fun v => v.d.tier == 4) then { s with freeCtr := s.freeCtr + 2 ^ 41 } else s

/-- Products that begin during an OVERWRITE or ADD drain: both tiles poisoned, CAUSE 6 (R121). -/
def drainClash (n : Env) : Bool :=
  match n.e.op with
  | .amm _ => decide (n.t ≤ n.k.eng.aeDrain) && decide (0 < n.k.eng.aeDrain)
  | _ => false

/-- Cache lines that a read meets become the most recently used (R195). -/
def touchLines (s : State) (ways : BitVec 32) (gs : List Nat) : State :=
  gs.foldl (fun s g =>
    match lookup s ways g with
    | none => s
    | some w => { s with useCtr := s.useCtr + 1,
                         lines := smod none s.lines (lineIx (setOf g) w) fun l => l.map fun x => { x with used := s.useCtr + 1 } }) s

/-- The accesses of an instruction that goes through: stamp check, miss, drain clash, residues; then the plan. -/
def runLaunch (n : Env) (f : Found) (mem : List MemEvent) : State :=
  let s := touchLines n.s n.ways (((opViews n).1.filter fun v => v.d.tier == 3).flatMap fun v => v.pagesOf v.rows)
  -- R278
  let s := match f.stamp with
    | none => s
    | some (some ex, ac) => coreFault s n.c n.e.pc St.scheduleFault 5 ex ac
    | some (none, ac) => (let (ex, s) := freeTime s; coreFault s n.c n.e.pc St.scheduleFault 5 ex ac)
  -- R196
  let s := if f.miss then chvFault (coreFaultFree s n.c n.e.pc St.scheduleFault 5) n.c n.e.op St.scheduleFault else s
  let clash := drainClash n
  let s := if clash then
      (coreFaultFree s n.c n.e.pc St.scheduleFault 6).modCore n.c fun k =>
        k.modEntry 1 k.eng.aeOwner fun x => { x with launched := x.launched.map fun l => { l with poison := true } }
    else s
  let ve : Bool := opQueue n.e.op == 2
  let resid : Bool := ve && !f.residue.isEmpty
  let s := if resid then
      (opViews n).1.foldl (fun s v => if v.d.tier = 1 then residueTest s n.c n.p v else s) s
    else s
  let poison := f.poison || f.stamp.isSome || clash || resid || mem.any MemEvent.poisons
  let recv := mem.flatMap MemEvent.received
  commitPlan { n with s := s, k := s.core n.c } (planOf { n with s := overlay n.s recv } poison) poison recv

/-- A copy slot in place of the COPY it is written as: the channel is held for the slot's scheduled length (R395). -/
def runCopySlot (n : Env) (g : Nat) (recv : List (Nat × List Byte)) : State :=
  match n.e.op with
  | .copy f =>
    let src := n.view f.src
    let pl := chivePlan n f.ch.toNat (f.ratem1.toNat + 1) src (n.view f.dst) (bursts src.bytes)
    onPages n.s (copyTargets n.s n.p g) fun s => commitPlan { n with s := copyPage s n.p g recv } pl false []
  | _ => n.s

/-- Launch of an entry at its time. -/
def launchAt (s : State) (c p : Nat) (e : QEntry) (t : Nat) (mem : List MemEvent) : State :=
  let s := settleCore (s.advance t) c p t
  -- R223; a late fetch of a ring is found at its consumer (R255)
  let s := match e.stamp with
    | none => s
    | some st => if st < t && !(match e.op with | .ringFetch _ _ => true | _ => false) then
        coreFault s c e.pc St.scheduleFault 0 st t else s
  let s := mem.foldl (fun s m => memEvent s c p e.op m) s
  if mem.any MemEvent.fatal then s
  else
    let k := s.core c
    let n : Env := ⟨s, c, k, p, (s.part p).live.ways.v, e, t⟩
    match refuse s k c t e.op with
    | some st => stopLaunch n st 7 true (destSlots n)
    | none =>
      if opBad n then stopLaunch n St.badHandle 4 false (destSlots n)
      else
        match copySlot n with
        | some g => runCopySlot n g (mem.flatMap MemEvent.received)
        | none =>
          let f := opFound n
          match f.mism with
          | some g => mismatch s 4 g
          | none =>
            if f.bad then stopLaunch n St.badHandle 4 false (destSlots n)
            else if f.wp then
              -- R396: POISON on the source slot
              stopLaunch n St.scheduleFault 4 false
                ((opViews n).1.filterMap fun v => if v.d.tier = 1 then some v.slot else none)
            else runLaunch n f mem

/-- INSTRUCTION_LAUNCH on queue q of core c. -/
def launchQ (s : State) (c q : Nat) (mem : List MemEvent) : State :=
  match nextLaunch (s.core c) q, partOfCore s c with
  | some e, some p => launchAt s c p e (dueTime s c p e) mem
  | _, _ => s

def execInstructionLaunch (c : CoreN) (q : Fin 5) (mem : List MemEvent) (s : State) : Host.Outcome State Fault Refusal :=
  .next (launchQ s c q mem)

end Sys2Proof.Machine
end

