-- ==== Sys2Proof/Machine/Complete.lean ====
section
/-! DEFINITION. INSTRUCTION_COMPLETE (R221): landing of the results, arrival stamps and status words, chain results
(R62 to R77, R101 to R104), row writes (R80, R81), drains (R125 to R128), numeric records (R131), Mint capture (R170, R171). -/

namespace Sys2Proof.Machine

/-! ### Chain results -/

/-- Row r of macro m as plane cycle t reads it: as it stands, or as it stood where a later row write replaced it (R65, R80). A row
written in cycle t is read as written. -/
def rowAt (s : State) (log : List RowOld) (m r t : Nat) : List Nat :=
  match (log.filter fun x => x.macroIx == m && x.row == r && decide (t < x.at_)).getLast? with
  | some x => x.bytes
  | none => macroRow s m r
/-- Scale code j of macro m in cycle t. -/
def scaleAt (s : State) (log : List RowOld) (m j t : Nat) : Nat :=
  match (log.filter fun x => x.macroIx == m && x.row == j / 64 && x.codes.isSome && decide (t < x.at_)).getLast? with
  | some x => (x.codes.getD []).getD (j % 64) 0
  | none => macroScale s m j

/-- Sum of the planes that are not gated; plane p reads the weights `ws p` (R65, R288). -/
def planeTotal (a : Nat) (ws : Nat → List Int) (xs : List Int) (gone : Nat → Bool) : Int :=
  ((List.range a).filter fun p => !gone p).foldl (fun acc p => acc + ((planes a (ws p) xs).getD p 0)) 0

/-- Lane integers and conversions of one forward member whose first plane is in cycle tp (R62 to R66): codes with flags,
saturation, residue of S. Each plane reads the rows of its own cycle, the conversion the scale codes of its cycle (R77). -/
def forwardMember (s : State) (log : List RowOld) (a : Nat) (mode : WMode) (m tp : Nat) (b : BufStore) (gone : Nat → Bool) :
    List (Nat × Bool) × Bool × Bool :=
  let bl := alignBlock a b.sb ((b.elems ++ List.replicate 256 RVal.zero).take 256)
  let rows (p : Nat) : List (List Nat) := (List.range 256).map fun r => rowAt s log m r (tp + p)
  let ps := (List.range mode.lanes).map fun j => planeTotal a (fun p => (rows p).map fun r => mode.weight r j) bl.xs gone
  ((ps.zipIdx).map fun x => laneF bl.nan bl.sb (some (scaleAt s log m (mode.scaleOf x.2) (tp + a + 2))) x.1, bl.sat,
    ps.foldl (· + ·) 0 % 3 != 0)

/-- Row integers and conversions of one transposed member whose first plane is in cycle tp and whose fold begins three cycles
before (R73 to R76, R104, R242): codes with flags, fold flag or saturation. -/
def transMember (s : State) (log : List RowOld) (a : Nat) (mode : WMode) (guard : Bool) (m tp : Nat) (b : BufStore)
    (gone : Nat → Bool) : List (Nat × Bool) × Bool :=
  let xs := (b.elems ++ List.replicate mode.lanes RVal.zero).take mode.lanes
  let lanes : List (Option (RVal × Nat)) := xs.zipIdx.map fun x =>
    if guard && mode.isCheck x.2 then none else some (x.1, scaleAt s log m (mode.scaleOf x.2) (tp - 3))
  let (bl, flag) := foldBlock a lanes
  let ws (r p : Nat) : List Int := (List.range mode.lanes).map (mode.weight (rowAt s log m r (tp + p)))
  ((List.range 256).map fun r => laneF bl.nan bl.sb none (planeTotal a (ws r) bl.xs gone), flag || bl.sat)

/-- The chain result of a CFWD or CTRN launched at t0: elements, buffer poison, macros with a nonzero residue. -/
def chainResult (s : State) (k : Core) (c : Nat) (guard : Bool) (f : ChainF) (tr : Bool) (t0 : Nat)
    (gone : Nat → Nat → Bool) : List OutElem × Bool × List Nat :=
  let a := aOf f.acode
  let mode := ((k.chainOf f.chain.toNat).2.2).getD .w2
  let out := (k.membersOf f.chain.toNat).zipIdx.foldl
    (fun (st : Option (List (Nat × Bool)) × Bool × Bool × List Nat) x =>
      let m := c * 1024 + x.1.1
      let tp := t0 + (if tr then 3 else 0) + x.2 * a
      match k.blockAt (x.1.1 / 64) x.1.2 (t0 + x.2 * a) with
      | none => st
      | some b =>
        let g (p : Nat) : Bool := gone x.1.1 (tp + p)
        let (r, sat, res) : List (Nat × Bool) × Bool × Bool :=
          if tr then (let y := transMember s k.rowLog a mode guard m tp b g; (y.1, y.2, false))
          else forwardMember s k.rowLog a mode m tp b g
        let acc : List (Nat × Bool) := match st.1 with
          | none => r
          | some l => List.zipWith (fun u v => (chainAdd (some u.1) v.1, u.2 || v.2)) l r
        (some acc, st.2.1 || sat, st.2.2.1 || b.poison, if guard && res then st.2.2.2 ++ [x.1.1] else st.2.2.2))
    (none, false, false, [])
  let xs := (out.1.getD []).map fun x => (⟨x.1, x.2 || specialF32 x.1, !(f32 x.1).isNan⟩ : OutElem)
  -- R64: a saturated element flags the first element with KIND 1
  let xs := match xs with
    | [] => []
    | y :: ys => if out.2.1 then { y with flag := true, kind := true } :: ys else y :: ys
  (xs, out.2.2.1, out.2.2.2)

/-- Accumulators of a tile as they stand in a staging bank (R112), in raster order. -/
def stagedAcc (k : Core) (bank : Bool) (cols n : Nat) : List Nat :=
  (List.range n).map fun i => sget 0 k.staging ((if bank then 4096 else 0) + i / cols * 64 + i % cols)

/-- The drain of an AMM (R125 to R128): binary32 values, converted under SHADOW and OVERWRITE, added under ADD. -/
def ammLanding (n : Env) (f : AmmF) (l : Launched) (poison : Bool) : Landing :=
  let c := n.view f.c
  let tile := n.reg f.tid
  let alpha := if f.alpha = 0 then 0x3F800000 else (n.reg f.alpha).toNat
  -- R128: an ADD drain takes FUSE as NONE
  let fuse := if f.acc = 2 then 0 else f.fuse.toNat
  let ys := if fuse = 0 then [] else n.widen f.y
  let vs := (stagedAcc n.k l.bank (max (c.d.dim 0) 1) l.acc.length).zipIdx.map fun x =>
    (drainValue x.1 alpha fuse (ys.getD x.2 (0, none)).1, (ys.getD x.2 (0, none)).2)
  let pl0 : Plan := { early := l.early, land := l.land, eng := n.k.eng }
  -- R56: the seed and stream in force when the tile began
  let key : SrKey := ⟨l.sr.1, l.sr.2, n.reg f.step, tile⟩
  let cv := Cvt.ofBits f.cvt
  let pl : Plan :=
    if f.acc = 2 then
      putTile n pl0 f.c tile l.land (vs.zipIdx.map fun x => outF32 (addF32 (n.elem f.c x.2) x.1.1) x.1.2) poison
    else if c.d.scale != 0 then
      -- R127: scales derived from the drained values of each block
      let sh : Handle := BitVec.ofNat 12 c.d.scale
      let len := (n.view sh).d.blockLen
      let cols := max (c.d.dim 0) 1
      let per := (cols + len - 1) / len
      let sc : List (Nat × Bool) := (List.range (c.d.dim 1 * per)).map fun b =>
        deriveScale c.d.fmt (maxAbs (((vs.drop (b / per * cols)).take cols |>.drop (b % per * len) |>.take len).map fun v => f32 v.1))
      let xs := vs.zipIdx.map fun x =>
        let s := sc.getD (x.2 / cols * per + x.2 % cols / len) (0x7F, false)
        convElem (quantise c.d.fmt cv (key.bits x.2) x.1.1 s.1) x.1.1 x.1.2
      let pl := putTile n pl0 f.c tile l.land xs poison
      { pl with writes := pl.writes ++ tileWrites n (n.view sh) (sc.map (·.1)),
                slots := pl.slots ++ slotDone n (n.view sh) l.land (statusWord none poison),
                mint := if c.d.fmt = .fp32 then none else mintTile c.d tile (vs.map (·.1)) (xs.zipIdx.map fun x =>
                  (dequantise c.d.fmt x.1.code (sc.getD (x.2 / cols * per + x.2 % cols / len) (0x7F, false)).1).1) }
    else
      let xs := vs.zipIdx.map fun x => convOut n c cv key x.2 x.1.1 false x.1.2
      let pl := putTile n pl0 f.c tile l.land xs poison
      { pl with mint := mintTile c.d tile (vs.map (·.1)) (xs.map fun x => (toF32 (c.d.fmt.value x.code)).1) }
  ⟨l.writes ++ pl.writes, l.slots ++ pl.slots, pl.tiles, pl.mint⟩

/-- Was a row of a member's macro written during its plane or lane-tree cycles (R80)? -/
def burstHit (k : Core) (c : Nat) (f : ChainF) (t0 : Nat) (tr : Bool) : Bool :=
  let a := aOf f.acode
  (k.membersOf f.chain.toNat).zipIdx.any fun x =>
    let tp := t0 + (if tr then 3 else 0) + x.2 * a
    k.rowLog.any fun y => y.macroIx == c * 1024 + x.1.1 && decide (tp ≤ y.at_) && decide (y.at_ ≤ tp + a + 1)

/-- Landing of a chain. -/
def chainLanding (n : Env) (f : ChainF) (tr : Bool) (l : Launched) (guard poison : Bool) (d : Dropped) : Landing × Bool :=
  let (xs, bp, res) := chainResult n.s n.k n.c guard f tr l.at_ fun m t => d.fires.contains (m, t)
  let poison := poison || bp || !d.fires.isEmpty
  let pl := putTile n { early := l.early, land := l.land, eng := n.k.eng } f.dst 0 l.land xs poison
  (⟨pl.writes, pl.slots.map fun y => { y with residue := res }, pl.tiles, none⟩, poison)

/-- What a finished CLOAD leaves beside its rows (R95, R111, R245): with FIRST = 0 the macro's recorded source, the FROZEN bytes
that it was written from, straight from the stacks or through a scratchpad slot. -/
def cloadLand (n : Env) (f : CloadF) : State :=
  let m := n.c * 1024 + f.macroIx.toNat
  let src := n.view f.src
  let from_ (v : View) : Option Int :=
    if v.d.tier = 2 then some v.base
    else if v.d.tier = 1 then (n.k.slot v.slot).frozen.map fun b => b + v.base - (n.k.slot v.slot).base
    else none
  if (n.s.macro1 m).bad ∨ f.first ≠ 0 then n.s
  else
    n.s.modMacro m fun x => { x with src :=
      (match from_ src, from_ (n.view f.scl) with
       | some a, some b => some ⟨a.toNat, b.toNat, n.p⟩
       | _, _ => none) }

/-! ### Chive transfers that meet (R214) -/

/-- Channel and rate of a Chive transfer. -/
def chiveOf (op : EngineOp) : Option (Nat × Nat) :=
  match op with
  | .copy f | .gather f | .scatter f => some (f.ch.toNat, f.ratem1.toNat + 1)
  | .prefetch f | .ringFetch f _ => some (f.ch.toNat, f.ratem1.toNat + 1)
  | _ => none

/-- Bytes of a transfer with their order in time: the landing cycle where it is exact, else the issue tick of the burst. -/
def landTimes (rate : Nat) (l : Launched) : List (Space × Nat × Byte × Nat) :=
  let bs := l.writes.flatMap fun w => w.bytes.zipIdx.map fun x => (w.space, w.addr + x.2, x.1)
  bs.zipIdx.map fun x => (x.1.1, x.1.2.1, x.1.2.2,
    if l.early = l.land then l.land + 1 + x.2 / 64 - bursts bs.length else 32 * (l.at_ / 32 + x.2 / 64 / rate))

/-- Could two lists of writes touch the same byte? -/
def writesMeet (a b : List Write) : Bool :=
  let lo (ws : List Write) : Nat := (ws.map (·.addr)).foldl min ((ws.map (·.addr)).headD 0)
  let hi (ws : List Write) : Nat := (ws.map fun w => w.addr + w.bytes.length).foldl max 0
  a.any (fun x => b.any fun y => x.space == y.space) && decide (lo a < hi b) && decide (lo b < hi a)

/-- Entry e of core c lands: where a byte of it meets a byte of a transfer in flight, in the scratchpad of its core or in the
stacks, the later of the two remains, at one time the higher channel's, then the higher core's (log 91); two scratchpad
bytes of one cycle poison both slots and stop the job with SCHEDULE_FAULT, a Chive fault. The second part says that e is
poisoned. -/
def settleClash (s : State) (c p : Nat) (e : QEntry) (l : Launched) : State × Bool :=
  match chiveOf e.op with
  | none => (s, false)
  | some (ce, re) =>
    let inFlight := s.cores.flatMap fun k => (k.2.queue 3 ++ k.2.queue 5).map fun o => (k.1, o)
    inFlight.foldl (fun (st : State × Bool) o =>
      match o.2.launched, chiveOf o.2.op with
      | some lo, some (co, ro) =>
        if (o.1 = c ∧ o.2.serial = e.serial) ∨ lo.dead ∨ !writesMeet l.writes lo.writes then st
        else
          let eb := landTimes re l
          let ob := landTimes ro lo
          let same (x y : Space × Nat × Byte × Nat) : Bool := x.1 == y.1 && x.2.1 == y.2.1
          let over_ : Bool := decide (co < ce) || (co == ce && decide (o.1 < c))
          let lost (y : Space × Nat × Byte × Nat) : Bool :=
            eb.any fun x => same x y && (decide (y.2.2.2 < x.2.2.2) || (y.2.2.2 == x.2.2.2 && over_))
          let tie := decide (l.early = l.land) && decide (lo.early = lo.land) &&
            eb.any fun x => x.1 != .stack && ob.any fun y => same x y && x.2.2.2 == y.2.2.2
          let ws := if ob.any lost then (ob.filter fun y => !lost y).map fun y => (⟨y.1, y.2.1, [y.2.2.1]⟩ : Write) else lo.writes
          let s := st.1.modCore o.1 fun k => k.modEntry (opQueue o.2.op) o.2.serial fun x =>
            { x with launched := some { lo with writes := ws, poison := lo.poison || tie } }
          if tie then
            (chvFault (markStop (recordNext s { kind := 0x08, cls := 6, status := St.scheduleFault, scope := .partition p,
                                                source := c, detail := c, detail2 := e.pc.toNat, parsley := false, reset := false })
              p St.scheduleFault) c e.op St.scheduleFault, true)
          else (s, st.2)
      | _, _ => st) (s, false)

/-! ### Completion -/

/-- Entries of queue q that could complete: launched, no COMMIT; on the Chive queue the ring fetches too. -/
def landable (k : Core) (q : Nat) : List (QEntry × Launched) :=
  ((k.queue q) ++ (if q = 3 then k.queue 5 else [])).filterMap fun e =>
    match e.op, e.launched with
    | .commit _, some l => if l.dead then some (e, l) else none
    | _, some l => some (e, l)
    | _, none => none

/-- The first of them to land. -/
def nextLanding (k : Core) (q : Nat) : Option (QEntry × Launched) :=
  (landable k q).foldl (fun b x =>
    match b with
    | none => some x
    | some y => if x.2.land < y.2.land then some x else b) none

/-- The entry leaves its queue; actions that no entry in flight can meet any more leave the list; broadcast-buffer history
goes once no CIM instruction is in flight. -/
def Core.leave (k : Core) (e : QEntry) : Core :=
  let q := opQueue e.op
  let k := k.setQueue q ((k.queue q).filter fun x => x.serial != e.serial)
  let live := (k.queues.flatMap (·.2)).filterMap fun x => x.launched.map (·.at_)
  let lo := live.foldl min (live.headD (k.clampTo))
  let busy := (k.queue 0).any fun x => x.launched.isSome
  let lastLand := (k.queue 0).length
  let chains := (k.queue 0).any fun x => x.launched.isSome && (match x.op with | .cfwd _ | .ctrn _ => true | _ => false)
  { k with rowLog := if chains then k.rowLog else [],
           banks := if live.isEmpty then [] else k.banks.filter fun a => decide (lo ≤ a.cyc),
           acts := if live.isEmpty then k.acts.filter fun a => decide (k.clampTo ≤ a.last) else k.acts.filter fun a => decide (lo ≤ a.last),
           bufs := if busy || lastLand != 0 then k.bufs else k.bufs.map fun b => (b.1, b.2.take 1),
           st := if k.halted && k.drained then .stopped else k.st }

/-- Completion of entry e of core c with its launch record. -/
def completeEntry (s : State) (c p : Nat) (e : QEntry) (l : Launched) : State :=
  let t := max l.early (min l.land s.gov.now)
  let s := s.advance t
  if l.dead then checkEnd (s.modCore c fun k => k.leave e) c
  else
    let s := settleOwn (settleCore s c p t) c p e (max (t + 1) (l.land + 1))
    let (s, clash) := settleClash (countTo s c p t) c p e l
    let d := droppedOf s c p e.serial l.at_ t
    let k := s.core c
    let guard := (s.part p).integ.guardOn
    let n : Env := ⟨s, c, k, p, (s.part p).live.ways.v, e, l.at_⟩
    -- R180: a deferred access lands later, and so does the stamp
    let late := bankDelay k.banks e.serial
    let hold := if opQueue e.op = 0 then 0 else d.held
    -- a landing between early and land carries its own stamp
    let slots := l.slots.map fun x => if l.early < l.land ∧ x.at_ = l.land then { x with at_ := t } else x
    let held : Bool := hold != 0
    let hold := hold + late
    let poison := l.poison || held || clash
    let s := match e.op with
      | .cfwd f | .ctrn f =>
        let tr : Bool := match e.op with | .ctrn _ => true | _ => false
        let hit := burstHit k c f l.at_ tr
        let s := if hit then coreFaultFree s c e.pc St.scheduleFault 2 else s
        let r := chainLanding { n with s := s } f tr l guard (poison || hit) d
        landAll s c p r.1 [] l.land late r.2
      | .cload f => cloadLand n f
      | .amm f => landAll s c p (ammLanding n f l poison) l.sregs l.land hold poison
      | _ => landAll s c p ⟨l.writes, slots, l.tiles, l.mint⟩ l.sregs t hold poison
    checkEnd (s.modCore c fun k => k.leave e) c

/-- INSTRUCTION_COMPLETE on queue q of core c. -/
def completeQ (s : State) (c q : Nat) : State :=
  match nextLanding (s.core c) q, partOfCore s c with
  | some (e, l), some p => completeEntry s c p e l
  | _, _ => s

def execInstructionComplete (c : CoreN) (q : Fin 5) (s : State) : Host.Outcome State Fault Refusal :=
  .next (completeQ s c q)

end Sys2Proof.Machine
end

