-- ==== Sys2Proof/Machine/Jobs.lean ====
section
/-! DEFINITION. Jobs: tile boundaries (R236, R267, R278), the actions of Table 10-5, yield and resume (R334 to R341).
A suspended core keeps the context of R337 under its image's number. -/

namespace Sys2Proof.Machine

/-- Cores of the running job. -/
def jobCores (q : Part) : List Nat := match q.running with | none => [] | some i => imageCores q i

/-- Is the core waiting for Dill's posting? -/
def Core.atDstep (k : Core) : Bool := match k.wait with | .dstep _ _ => true | _ => false
/-- Is every core of the running job waiting at a DSTEP (R335)? -/
def allAtDstep (s : State) (p : Nat) : Bool :=
  let cs := jobCores (s.part p)
  !cs.isEmpty && cs.all fun c => (s.core c).atDstep

/-- Stamp of the TILE a core waits at. -/
def Core.tileStamp (k : Core) : Option Nat := match k.wait with | .tile t _ _ _ => some t | _ => none
/-- SAVE and RESUME addresses of that TILE, or of the TILE that the DSTEP directly follows (R335). -/
def Core.tileSave (k : Core) : BitVec 14 := match k.wait with | .tile _ v _ _ | .dstep v _ => v | _ => 0
def Wait.resume (w : Wait) : BitVec 14 := match w with | .tile _ _ r _ | .dstep _ r => r | _ => 0
/-- A wait at a DSTEP outlasts a pause; a wait at a TILE does not. -/
def Wait.dstepOnly (w : Wait) : Wait := match w with | .dstep a b => .dstep a b | _ => .none

/-! ### Start and end -/

/-- The job of an image starts at tick t (R218, R241, R334). -/
def startImage (s : State) (p i t : Nat) : State :=
  let q := s.part p
  let first : BitVec 14 := match (q.image i).info with | none => 0 | some x => BitVec.ofNat 14 x.imemFirst
  let s := modList s (imageCores q i) fun k =>
    { k with pc := first, regs := [], loops := [], segBase := t, st := .running, wait := .none, ended := false,
             halted := false, lastIssue := 32 * t, budget := [], bufs := [], rings := [],
             mintCount := (sget SeqCtx.fresh k.saved i).mint }
  s.modPart p fun q => { (q.modImg i fun g => { g with st := .running, last := St.ok }) with
                         running := some i, jobStart := t, stop := none, saving := false, resume := none,
                         -- a serving job counts its steps from 0 (R362)
                         dill := if ((q.image i).info.map (·.training)).getD true then q.dill else { q.dill with step := 0 } }

/-- Requests that the job of image i serves end with a status: training requests for a TRAINING image, the others else. -/
def endWork (s : State) (p i : Nat) (st : Status) : State :=
  match ((s.part p).image i).info with
  | some x => if x.training then endTrain s p st else endReqs s p st
  | none => endReqs s p st

/-- The running job ends at a tile boundary or at once with a status: its requests complete with it, an open checkpoint is
abandoned (R398), the image becomes READY after a STOP, a forced LOAD or a release (DISABLED), STOPPED after a fault. -/
def stopJob (s : State) (p : Nat) (st : Status) : State :=
  let s := match (s.part p).running with
    | none => s
    | some i => endWork s p i st
  let s := abandonCkpt s p st
  endJobNow s p (if st = St.disabled then .ready else .stopped) st (if st = St.disabled then .idle else .stopped)

/-- SR values written before the tick of a boundary take effect in the contexts of the partition (R56, R267). -/
def applySeeds (s : State) (p b : Nat) : State :=
  { s with ctxs := s.ctxs.map fun e =>
      match e.2.newSeed with
      | some (sd, st, t) =>
        if e.2.part.toNat = p ∧ t ≤ b then (e.1, { e.2 with seed := sd, stream := st, newSeed := none }) else e
      | none => e }

/-- Mint rate and thresholds written before the tick of a boundary take effect (R175, R267). -/
def applyMint (s : State) (p b : Nat) : State :=
  s.modPart p fun q =>
    if q.mint.since ≤ b then { q with mint := { q.mint with rateOn := q.mint.rate, threshOn := q.mint.thresh } } else q

/-- Suspect macros of a partition that a reload can mend, ascending (R95). -/
def suspects (s : State) (p : Nat) : List Nat :=
  ((s.macros.filter fun e => e.2.suspect.isSome && e.2.src.isSome && !e.2.bad).map (·.1)).filter fun m =>
    (s.part p).live.groups.v.getLsbD (m / 81920)

/-- Does the partition have work that its job pauses for: reload windows, or a load past step 5 (R95, R317)? -/
def windowsDue (s : State) (p : Nat) : Bool :=
  !(suspects s p).isEmpty || (match (s.part p).load with | none => false | some l => !l.written)

/-- The part of it that a boundary in tick b sees: what arose before (R267). -/
def windowsSeen (s : State) (p b : Nat) : Bool :=
  (suspects s p).any (fun m => decide ((s.macro1 m).suspectAt ≤ b)) ||
    (match (s.part p).load with | none => false | some l => !l.written && decide (l.from_ ≤ b))

/-- An image becomes EMPTY: ranges cleared, the pages of its load FREE. -/
def dropImage (s : State) (p i : Nat) (last : Status) : State :=
  let s := match ((s.part p).image i).info with
    | none => s
    | some info => freePages (clearRanges s info) ((info.pages.map Prod.fst).filter fun g => ownerOf (s.page g).v == some p)
  s.modPart p fun q => { (q.modImg i fun _ => { Img.fresh with last := last }) with
                         resumes := q.resumes.filter fun r => r.image != i }

/-- BASE_REPLACE from its step 2 on (R373): requests, load, job, images, layout, macros and pages of the base. -/
def replaceBase (s : State) (p : Nat) : State :=
  let s := endTrain (endReqs s p St.staleBase) p St.staleBase
  let s := stopJob (endLoad s p St.disabled) p St.disabled
  let s := (List.range 2).foldl (fun s i => dropImage s p i ((s.part p).image i).last) s
  let s := ((s.part p).layout.map fun (b : Block1) => b.macroIx).foldl (fun s m => zeroMacros s m (m + 1)) s
  let s := freePages s (s.part p).basePages
  let via := (s.part p).replacing
  let s := s.modPart p fun q =>
    { q with basePages := [], baseLeaves := [], baseDigest := 0, baseEpoch := Paired.of (q.baseEpoch.v + 1), layout := [], layoutFrom := [],
             weights := 0, replacing := none, yield_ := none, resumes := [] }
  match via with
  | none => s
  | some v => finish s v 5 0 St.ok 0 []

/-! ### TILE_BOUNDARY -/

/-- Queues not empty at the stamp: SCHEDULE_FAULT with the TILE's address (R236). -/
def tileQueueCheck (s : State) (c : Nat) : State :=
  match (s.core c).wait with
  | .tile t _ _ a =>
    let s := if t + 1 < (s.core c).lastIssue then coreFault s c a St.scheduleFault 0 t ((s.core c).lastIssue - 1) else s
    if (s.core c).depth0 then s else coreFaultFree s c a St.scheduleFault 1
  | _ => s

/-- Cores of the running job at its next tile boundary: those at the earliest TILE stamp. -/
def boundaryCores (s : State) (p : Nat) : List Nat × Nat :=
  let cs := (jobCores (s.part p)).filterMap fun c => ((s.core c).tileStamp).map fun t => (c, t)
  let t := (cs.map (·.2)).foldl min ((cs.map (·.2)).headD 0)
  ((cs.filter fun x => x.2 == t).map (·.1), t)

/-- Opcode of DSTEP (Table 7-4) in an instruction word. -/
def isDstep (w : BitVec 128) : Bool := w.extractLsb' 0 8 == 0x06#8

/-- Is the boundary a step boundary: the next instruction is a DSTEP (R329)? -/
def stepBoundary (s : State) (cs : List Nat) : Bool := cs.all fun c => isDstep (sget endWord (s.core c).imem (s.core c).pc.toNat)

/-- Issue goes on at the boundary's time. -/
def passBoundary (s : State) (cs : List Nat) (t : Nat) : State :=
  modList s cs fun k => { k with wait := .none, st := .running, lastIssue := max k.lastIssue t }

/-- What happens at the boundary of tick b: fault or STOP, drain of a reshape, yield, pause for windows, or nothing. -/
def boundaryAct (s : State) (p : Nat) (cs : List Nat) (t : Nat) : State :=
  let q := s.part p
  let b := t / 32
  let quiesce (s : State) : State := modList s cs fun k => { k with st := .quiesced }
  match q.stop with
  | some (st, from_) =>
    if from_ ≤ b then
      -- the incoming job of a pre-emption starts in the tick after that boundary (Table 10-6)
      let s := if q.replacing.isSome then replaceBase s p else stopJob s p st
      match (s.part p).yield_ with
      | some (pre, r) =>
        if q.integ.refused then s.modPart p fun x => { x with yield_ := none }
        else if pre.next.isSome && q.replacing.isNone then
          s.modPart p fun x => { x with yield_ := some ({ pre with boundary := some b, switchTick := some (b + 1) }, r) }
        else s
      | none => s
    else passBoundary s cs t
  | none =>
    if q.reshape.isSome && decide (s.commit.tick.toNat ≤ b + 15) && stepBoundary s cs then (quiesce s).modPart p fun x => { x with pauseFrom := some b }
    else
      match q.yield_ with
      | some (pre, r) =>
        if r ≤ b then (quiesce s).modPart p fun x => { x with yield_ := some ({ pre with boundary := some b }, r) }
        else if windowsSeen s p b then (quiesce s).modPart p fun x => { x with pauseFrom := some b }
        else passBoundary s cs t
      | none =>
        if windowsSeen s p b then (quiesce s).modPart p fun x => { x with pauseFrom := some b }
        else passBoundary s cs t

/-- TILE_BOUNDARY of the partition's job. A job in a restore sequence passes RESUME_TICK instead (R338). -/
def tileBoundary (s : State) (p : Nat) : State :=
  let (cs, t) := boundaryCores s p
  let q := s.part p
  -- a BASE_REPLACE whose job has ended in another way goes on here
  if q.running.isNone && q.replacing.isSome then replaceBase s p
  else if cs.isEmpty || q.resume.isSome || q.saving || q.pauseFrom.isSome ||
      (match q.yield_ with | some (pre, _) => pre.boundary.isSome | none => false) then s
  else
    let s := s.advance t
    let s := cs.foldl tileQueueCheck s
    let s := applyMint (applySeeds s p (t / 32)) p (t / 32)
    boundaryAct s p cs t

def execTileBoundary (p : PartN) (s : State) : Host.Outcome State Fault Refusal := .next (tileBoundary s p)

/-! ### Pause and resume with an offset (R96, R317, R338) -/

/-- Every stamp and window of a core resolves d ticks later: segment base, loop start ticks, arrival stamps of the image's
slot range that are not invalid. Broadcast-buffer slots clear at a resume (R241); declarations end (R335). -/
def Core.shift (k : Core) (info : ImgInfo) (d : Nat) : Core :=
  { k with segBase := k.segBase + d, loops := k.loops.map fun l => { l with start := l.start + d }, bufs := [], budget := [],
           slots := k.slots.map fun e =>
             if info.slotFirst ≤ e.1 ∧ e.1 < info.slotFirst + info.slotCount ∧ e.2.arrival ≠ invalidStamp then
               (e.1, { e.2 with arrTick := e.2.arrTick + BitVec.ofNat 64 d }) else e }

/-- Issue of the paused job resumes at tick r, B the boundary at which it stopped. -/
def resumeAt (s : State) (p i b r : Nat) : State :=
  match ((s.part p).image i).info with
  | none => s
  | some info => modList s info.cores fun k =>
      { k.shift info (r - b) with wait := k.wait.dstepOnly, st := .running,
                                  lastIssue := max k.lastIssue (32 * r) }

/-- The pause ends when no window is left: the job goes on with its stamps moved (R96), or the pre-emption at the same
boundary goes on (R97). -/
def endPause (s : State) (p : Nat) : State :=
  match (s.part p).pauseFrom, (s.part p).running with
  | some b, some i =>
    if windowsDue s p || (s.part p).reshape.isSome then s
    else
      let s := resumeAt s p i b s.tick
      s.modPart p fun q => { q with pauseFrom := none, lastPause := BitVec.ofNat 32 (s.tick - b) }
  | some _, none => if windowsDue s p then s else s.modPart p fun q => { q with pauseFrom := none }
  | none, _ => s

/-! ### Job actions (Table 10-5) -/

/-- Action refused: BAD_HANDLE in LAST_STATUS of the named image (R334). -/
def refuseAction (s : State) (p i : Nat) : State := s.modPart p fun q => q.modImg i fun g => { g with last := St.badHandle }
/-- Action accepted. -/
def okAction (s : State) (p i : Nat) : State := s.modPart p fun q => q.modImg i fun g => { g with last := St.ok }

/-- Ports that may act on jobs: PF0 and the partition's own Dill scheduler (R334). -/
def jobVia (via : Via) (p : Nat) : Bool := match via with | .pf0 => true | .dill d => d.val == p | _ => false

/-- A job action on its port. -/
def jobAction (s : State) (via : Via) (p : Nat) (ok : Bool) (i : Nat) (f : State → State) : State :=
  permitted s via 0 0 (jobVia via p) fun s => if ok && (s.part p).st != 0 then f s else refuseAction s p i

/-- Last tick of the grants that draw on a partition's share (R293). -/
def drawnUntil (s : State) (p : Nat) : Nat :=
  (s.gov.grants.filter fun g => g.drawn.any fun d => d.1 == p && d.2.any fun x => x != 0).foldl (fun a (g : Grant) => max a g.endTick) 0

/-- START: at the tick in which it takes effect, or once the grants drawn on the share have ended (R293). While a start waits,
a START of another image replaces it (Table 10-6). -/
def jobStart (s : State) (via : Via) (p i : Nat) : State :=
  let q := s.part p
  jobAction s via p ((q.image i).st == .ready && q.running.isNone && !q.integ.refused) i fun s =>
    match q.yield_ with
    | some (pre, r) => (okAction s p i).modPart p fun q => { q with yield_ := some ({ pre with next := some i }, r) }
    | none =>
    let t := max (s.tick + 1) (drawnUntil s p)
    if s.tick + 1 < t then
      (okAction s p i).modPart p fun q => { q with yield_ := some (⟨some i, none, some t⟩, s.tick + 1) }
    else startImage s p i t

/-- A pre-emption request: a second one before the switch replaces the first when it names another image (Table 10-6). -/
def requestYield (s : State) (p : Nat) (next : Option Nat) : State :=
  s.modPart p fun q =>
    match q.yield_ with
    | some (pre, r) => { q with yield_ := some ({ pre with next := next }, r) }
    | none => { q with yield_ := some (⟨next, none, none⟩, s.tick + 1) }

/-- SUSPEND. -/
def jobSuspend (s : State) (via : Via) (p i : Nat) : State :=
  jobAction s via p (((s.part p).image i).st == .running) i fun s => requestYield (okAction s p i) p none

/-- SWITCH. -/
def jobSwitch (s : State) (via : Via) (p i : Nat) : State :=
  let q := s.part p
  jobAction s via p (((q.image i).st == .ready || (q.image i).st == .suspended) && (q.image (1 - i)).st == .running &&
      !q.integ.refused) i
    fun s => requestYield (okAction s p i) p (some i)

/-- STOP: at the next tile boundary; at once when SUSPENDED or when every core waits at a DSTEP (R335). -/
def jobStop (s : State) (via : Via) (p i : Nat) : State :=
  let q := s.part p
  jobAction s via p ((q.image i).st == .running || (q.image i).st == .suspended) i fun s =>
    if (q.image i).st = .suspended then
      let s := endWork s p i St.disabled
      s.modPart p fun q => { (q.modImg i fun g => { g with st := .ready, last := St.disabled }) with
                             resumes := q.resumes.filter fun r => r.image != i }
    else
      let s := markStop (okAction s p i) p St.disabled
      if allAtDstep s p then stopJob s p St.disabled else s

/-- UNLOAD. -/
def jobUnload (s : State) (via : Via) (p i : Nat) : State :=
  let st := ((s.part p).image i).st
  jobAction s via p (st != .running && st != .loading) i fun s => dropImage s p i St.ok

def execJobStart (via : Via) (p : PartN) (image : Fin 2) (s : State) : Host.Outcome State Fault Refusal :=
  .next (jobStart s via p image)
def execJobSuspend (via : Via) (p : PartN) (image : Fin 2) (s : State) : Host.Outcome State Fault Refusal :=
  .next (unlessDiscarded s (.partition p) fun s => jobSuspend s via p image)
def execJobSwitch (via : Via) (p : PartN) (image : Fin 2) (s : State) : Host.Outcome State Fault Refusal :=
  .next (unlessDiscarded s (.partition p) fun s => jobSwitch s via p image)
def execJobStop (via : Via) (p : PartN) (image : Fin 2) (s : State) : Host.Outcome State Fault Refusal :=
  .next (jobStop s via p image)
def execJobUnload (via : Via) (p : PartN) (image : Fin 2) (s : State) : Host.Outcome State Fault Refusal :=
  .next (jobUnload s via p image)

/-- The registers s24 on are written into every core of the job, which resume at tick t (R238). -/
def postRegs (s : State) (p : Nat) (t : Nat) (vs : List Nat) : State :=
  modList s (jobCores (s.part p)) fun k =>
    let k := vs.zipIdx.foldl (fun k (v : Nat × Nat) => k.setReg (BitVec.ofNat 5 (24 + v.2)) (BitVec.ofNat 32 v.1)) k
    { k with wait := .posted t }

/-! ### Yield (R335 to R337) -/

/-- The context of R337 kept for an image; `pc` continues after the TILE. A core at a DSTEP waits there again. -/
def Core.ctxOf (k : Core) : SeqCtx :=
  ⟨k.pc, k.regs, k.loops, k.segBase, k.mintCount, k.wait, k.ended, k.rings⟩

/-- The yield is complete: contexts kept, image SUSPENDED, switch tick w. -/
def yielded (s : State) (p i b w : Nat) (pre : Preempt) (r : Nat) : State :=
  let s := modList s (imageCores (s.part p) i) fun k =>
    { k with st := .idle, wait := .none, ended := false, budget := [], acts := [], rings := [],
             -- a ring's fetch in flight still lands
             queues := k.queues.filter fun q => q.1 == 5 }
  s.modPart p fun q =>
    { (q.modImg i fun g => { g with st := .suspended }) with
      running := none, saving := false, resumes := q.resumes.filter (fun x => x.image != i) ++ [⟨i, b, w⟩],
      yield_ := match pre.next with
        | none => none
        | some _ => some ({ pre with boundary := some b, switchTick := some w }, r) }

/-- Contexts of the yielding image are kept at its boundary. -/
def saveContexts (s : State) (p i : Nat) : State :=
  modList s (imageCores (s.part p) i) fun k => { k with saved := sput SeqCtx.fresh k.saved i k.ctxOf }

/-- Every core of the save sequence has reached END with every queue at depth 0. -/
def saveDone (s : State) (p i : Nat) : Bool :=
  (imageCores (s.part p) i).all fun c => (s.core c).ended && (s.core c).depth0

/-- JOB_YIELD: the save sequence begins at the boundary, or, without one, the switch tick is B + 1; when the sequence has
ended the switch tick is the next tick. A fault during the sequence leaves the image STOPPED (Table 10-6). -/
def jobYield (s : State) (p : Nat) : State :=
  let q := s.part p
  match q.running, q.yield_ with
  | some i, some (pre, r) =>
    if q.saving then
      match q.stop with
      | some (st, _) =>
        let w := s.tick + 1
        let s := endJobNow s p .stopped st .stopped
        s.modPart p fun x => { x with yield_ := pre.next.map fun _ => ({ pre with switchTick := some w }, r) }
      | none =>
        if saveDone s p i then yielded s p i (pre.boundary.getD s.tick) (s.tick + 1) pre r else s
    else
      let at' : Option Nat := match pre.boundary with
        | some b => some b
        | none => if allAtDstep s p then some (max r s.tick) else none
      match at' with
      | none => s
      | some b =>
        let cs := imageCores q i
        let s := saveContexts (s.advance (32 * b)) p i
        if cs.all fun c => (s.core c).tileSave == 0 then yielded s p i b (b + 1) pre r
        else
          let s := modList s cs fun k =>
            { k with pc := k.tileSave, segBase := b, loops := [], rings := [], wait := .none, st := .running, ended := false,
                     budget := k.budget.map fun d => { d with span := min d.span (b + 1 - d.from_) },
                     lastIssue := max k.lastIssue (32 * b) }
          s.modPart p fun x => { x with saving := true, yield_ := some ({ pre with boundary := some b }, r) }
  | _, _ => s

def execJobYield (p : PartN) (s : State) : Host.Outcome State Fault Refusal := .next (jobYield s p)

/-! ### Resume (R338) -/

/-- The yielded context of image i goes on at tick r. -/
def restoreContext (s : State) (p i b r : Nat) : State :=
  match ((s.part p).image i).info with
  | none => s
  | some info => modList s info.cores fun k =>
      let x := sget SeqCtx.fresh k.saved i
      let k := { k with pc := x.pc, regs := x.regs, loops := x.loops, segBase := x.segBase, mintCount := x.mint, ended := x.ended,
                        rings := x.rings, halted := false }
      { k.shift info (r - b) with wait := x.wait.dstepOnly, st := .running, lastIssue := 32 * r }

/-- JOB_RESUME: at the switch tick the incoming image starts or resumes. A suspended image whose TILE has RESUME 0 is back
at W; else its restore sequence runs from RESUME with segment base W. -/
def jobResume (s : State) (p : Nat) : State :=
  let q := s.part p
  match q.running, q.yield_ with
  | none, some (⟨some i, _, some w⟩, _) =>
    if windowsDue s p then s
    -- R108: the partition refuses further jobs
    else if q.integ.refused then refuseAction (s.modPart p fun x => { x with yield_ := none, pauseFrom := none }) p i
    else
      let w := max w s.tick
      let s := (s.advance (32 * w)).modPart p fun x => { x with yield_ := none, pauseFrom := none }
      match (q.image i).st, q.resumes.find? fun x => x.image == i with
      | .ready, _ => startImage s p i w
      | .suspended, some rec =>
        let cs := imageCores q i
        let res (c : Nat) : BitVec 14 := (sget SeqCtx.fresh (s.core c).saved i).wait.resume
        let run (s : State) : State := s.modPart p fun x =>
          { (x.modImg i fun g => { g with st := .running, last := St.ok }) with running := some i, stop := none }
        if cs.all fun c => res c == 0 then
          (restoreContext (run s) p i rec.b w).modPart p fun x => { x with resumes := x.resumes.filter fun y => y.image != i }
        else
          -- a core whose TILE names no restore sequence waits for R (R236)
          let s := cs.foldl (fun s c => s.modCore c fun k => if res c = 0 then { k with st := .quiesced, lastIssue := 32 * w } else
            { k with pc := res c, segBase := w, regs := [], loops := [], rings := [], wait := .none, st := .running, ended := false,
                     halted := false, bufs := [], budget := [], lastIssue := 32 * w }) (run s)
          s.modPart p fun x => { x with resume := some rec }
      | _, _ => s
  | _, _ => s

def execJobResume (p : PartN) (s : State) : Host.Outcome State Fault Refusal := .next (jobResume s p)

/-- RESUME_TICK: the TILE that ends the restore sequence; the yielded context goes on. A fault during the sequence leaves
the image STOPPED, and no other job starts (Table 10-6). -/
def resumeTick (s : State) (p : Nat) : State :=
  let q := s.part p
  match q.resume, q.running with
  | some rec, some i =>
    let (cs, t) := boundaryCores s p
    let busy := (imageCores q i).filter fun c => (sget SeqCtx.fresh (s.core c).saved i).wait.resume != 0
    if cs.length < busy.length then s
    else
      let s := s.advance t
      match q.stop with
      | some (st, _) => stopJob s p st
      | none =>
        -- the TILE that ends the sequence is a tile boundary (R236)
        (restoreContext (applyMint (applySeeds s p (t / 32)) p (t / 32)) p i rec.b (t / 32)).modPart p fun x =>
          { x with resume := none, resumes := x.resumes.filter fun y => y.image != i }
  | _, _ => s

def execResumeTick (p : PartN) (s : State) : Host.Outcome State Fault Refusal := .next (resumeTick s p)

end Sys2Proof.Machine
end

