-- ==== Sys2Proof/Machine/Governor.lean ====
section
/-! DEFINITION. The governor at a tick edge (R283, R285, R287, R289, R532), lending (R290, R293), throttling and the
thermal trip (R295 to R297). -/

namespace Sys2Proof.Machine

/-! ### Committed current -/

/-- Share of a partition in field f, grants in force included (R282, R293). -/
def shareOf (s : State) (p f t : Nat) : Nat :=
  ((s.part p).live.share.v.extractLsb' (12 * f) 12).toNat +
    ((s.gov.grants.filter fun g => g.borrower == p && decide (g.fromTick ≤ t) && decide (t < g.endTick)).map fun g =>
      g.amounts.getD f 0).foldl (· + ·) 0
/-- Slew share. -/
def slewOf (s : State) (p : Nat) : Nat := (s.part p).live.slew.v.toNat

/-- Declared currents of a partition's cores in tick t: core and Q. -/
def declaredCores (s : State) (p t : Nat) : List (Nat × Nat) :=
  (coresOf s p).filterMap fun c => let q := (s.core c).declared t; if q = 0 then none else some (c, q)
/-- Mint allowance in a field: 1 q for each compute group (R172). -/
def mintAllowance (s : State) (p f : Nat) : Nat :=
  if (s.part p).mint.enableOn then ((maskList 16 (s.part p).live.groups.v).filter fun g => fieldOfGroup g == f).length else 0

/-- Row writes of reload windows that the present tick charges to the partition in field f (R95). -/
def reloadCharge (s : State) (p f : Nat) : Nat :=
  (((s.govPart p).reloads.filter fun x => decide (x.1 ≤ s.tick) && decide (s.tick ≤ x.2.1) && x.2.2.1 == f).map (·.2.2.2)).sum

/-- D(p, f, T) with each core's limit scaled by k sixteenths; k = 16 is unscaled (R95, R283, R287). -/
def fieldCurrent (s : State) (p f k : Nat) (ds : List (Nat × Nat)) : Nat :=
  ((ds.filter fun d => fieldOf d.1 == f).map fun d => d.2 * k / 16).foldl (· + ·) (mintAllowance s p f + reloadCharge s p f)
/-- D(p, T), scaled likewise. -/
def partCurrent (s : State) (p k : Nat) (ds : List (Nat × Nat)) : Nat :=
  ((List.range 4).map fun f => fieldCurrent s p f k ds).foldl (· + ·) 0

/-- Does every field keep within its share under k? -/
def sharesHold (s : State) (p t k : Nat) (ds : List (Nat × Nat)) : Bool :=
  (List.range 4).all fun f => decide (fieldCurrent s p f k ds ≤ shareOf s p f t)

/-- The largest k from 0 to 15 that meets both conditions of R287; 0 when none does. -/
def scaleK (s : State) (p t bound : Nat) (ds : List (Nat × Nat)) : Nat :=
  (((List.range 16).reverse).find? fun k => sharesHold s p t k ds && decide (partCurrent s p k ds ≤ bound)).getD 0

/-- Committed current of the next tick for a declared current d under a slew share (R285). -/
def GovPart.settle (g : GovPart) (d slew : Nat) : GovPart :=
  let c := if d ≤ g.committed + slew then max d (g.committed - slew) else g.committed + slew
  { g with committed := c, held := c - d }

/-- Committed current of one partition for tick t, and the scaling of R287 with its fault (R289). -/
def commitPart (s : State) (p t : Nat) : State :=
  if (s.part p).st = 0 then s
  else
    let ds := declaredCores s p t
    let d := partCurrent s p 16 ds
    let c0 := (s.govPart p).committed
    let bound := c0 + slewOf s p
    let slewOk := decide (d ≤ bound)
    let above := !sharesHold s p t 16 ds
    let s := s.modGovPart p fun g => g.settle d (slewOf s p)
    if above || !slewOk then
      let k := scaleK s p t bound ds
      let s := s.modGovPart p fun g => { g with scales := (t, k) :: g.scales, scaled := satAdd g.scaled 1 }
      govFault s ((ds.headD (0, 0)).1) p k (if above then 1 else 2) t
    else s

/-- The module's committed current. -/
def moduleCurrent (s : State) : Nat := ((List.range 8).map fun p => (s.govPart p).committed).foldl (· + ·) 0

/-- Divergence of the committed current from the array-rail monitor: more than 256 q for 2 ticks enters Parsley (R532). -/
def railCheck (s : State) (rail : Nat) : State :=
  let m := moduleCurrent s
  let diff := (m - rail) + (rail - m)
  if diff ≤ 256 then s.modGov fun g => { g with diverge := 0 }
  else if s.gov.diverge = 0 then s.modGov fun g => { g with diverge := 1 }
  else
    let s := s.modGov fun g => { g with diverge := 0 }
    let s := recordNow s { kind := 0x15, cls := 5, status := St.degraded, scope := .module, source := 1493, detail := 0,
                           detail2 := diff, parsley := true, reset := false }
    enterParsley s 2 1493

/-- COMMITTED_CURRENT_UPDATE: the edge of the next tick. The scopes discarded in the old tick end with it (R268); a changed
lending setting takes effect (R290). -/
def committedUpdate (s : State) (rail : Nat) : State :=
  if !s.gov.running then s
  else
    let t := s.tick + 1
    let s := (s.advance (32 * t)).modGov fun g => { g with discard := [], lending := g.lend.v == 1 }
    railCheck ((List.range 8).foldl (fun s p => commitPart s p t) s) rail

def execCommittedCurrentUpdate (rail : Nat) (s : State) : Host.Outcome State Fault Refusal := .next (committedUpdate s rail)

/-! ### Lending -/

/-- LENDING_ENABLE: an agreeing pair (R290). -/
def lendingEnable (s : State) (v c : W32) : State :=
  if v.getLsbD 0 ≠ c.getLsbD 0 then s.modGov fun g => { g with lend := Paired.of (v.extractLsb' 0 1) }
  else pairBad s 0x00101008


/-- LOAN_GRANT_END: the borrower's grant ends at the end of its step length, at once when no job runs (R293). -/
def loanGrantEnd (s : State) (p : Nat) : State :=
  match s.gov.grants.find? fun g => g.borrower == p with
  | none => s
  | some g =>
    let s := if (s.part p).running.isSome then s.advance (32 * g.endTick) else s
    s.modGov fun x => { x with grants := x.grants.filter fun y => y.borrower != p }

def execLoanGrantEnd (p : PartN) (s : State) : Host.Outcome State Fault Refusal := .next (loanGrantEnd s p)

/-! ### Throttle levels -/

/-- Strap of this module. -/
def ownSlot (s : State) : Nat := s.gov.slot.toNat
/-- Does the module follow another master? -/
def isFollower (s : State) : Bool := match s.gov.settled with | none => false | some m => m.toNat != ownSlot s
/-- Level this module last requested (R297). -/
def ownLevel (s : State) : Nat := sget 0 s.gov.peerLevels (ownSlot s)
/-- Port to the master. -/
def masterPort (s : State) : Option Nat := (List.range 7).find? fun n => (s.port n).toMaster && (s.port n).up

/-- The master's decision (R297): the highest requested level is in force at tick N + 8 on every module. -/
def decideLevel (s : State) : State :=
  let l := (s.gov.peerLevels.map (·.2)).foldl max 0
  let target := match s.gov.pendingLevels.getLast? with | none => s.gov.level | some x => x.1
  if l = target then s
  else
    let at' := s.tick + 8
    let s := s.modGov fun g => { g with pendingLevels := g.pendingLevels ++ [(l, at')] }
    (List.range 7).foldl (fun s n => if (s.port n).up then sendLink s n 8 [1, l, at'] [] else s) s

/-- This module requests a level: a follower asks its master, a master decides. -/
def requestLevel (s : State) (l : Nat) : State :=
  let s := s.modGov fun g => { g with peerLevels := sput 0 g.peerLevels g.slot.toNat l }
  if isFollower s then
    (match masterPort s with | none => s | some n => sendLink s n 8 [0, l] [])
  else decideLevel s

/-- THROTTLE_STEP: Rosemary's step for a reading of the hottest junction (R296). The first reading above 97 °C is a thermal
alarm (Table 18-1; log 122). -/
def throttleStep (s : State) (celsius : Nat) : State :=
  let s := if 97 < celsius ∧ s.gov.celsius ≤ 97 then
      recordNow s { kind := 0x12, cls := 5, status := St.ok, scope := .module, source := 1494, detail := celsius,
                    detail2 := s.gov.level, parsley := false, reset := false }
    else s
  let s := s.modGov fun g => { g with celsius := celsius }
  let l := ownLevel s
  if 97 < celsius then (if l < 12 then requestLevel s (l + 1) else s)
  else if celsius ≤ 92 then (if s.gov.floor.toNat < l then requestLevel s (l - 1) else s)
  else s

def execThrottleStep (celsius : Nat) (s : State) : Host.Outcome State Fault Refusal := .next (throttleStep s celsius)

/-- THERMAL_TRIP at 110 °C: THERMTRIP# and TRIP assert, the level is 12 at once; the second trip of a power-on period enters
Parsley (R296, R586). -/
def thermalTrip (s : State) (celsius : Nat) : State :=
  if celsius < 110 ∨ s.gov.trip ∨ discarded s .module then s
  else
    let second := decide (1 ≤ s.gov.trips)
    let s := raiseAlert (if s.gov.level = 0 then raiseAlert s 3 else s) 4
    -- the board follows at tick N + 8; here the level is 12 at once
    let s := requestLevel (s.modPwr fun w => { w with thermtrip := true }) 12
    let s := s.modGov fun g => { g with celsius := celsius, trip := true, trips := g.trips + 1, level := 12,
                                        pendingLevels := g.pendingLevels.filter fun x => x.1 == 12 }
    if second then
      let s := recordNow s { kind := 0x19, cls := 5, status := St.degraded, scope := .module, source := 1494, detail := celsius,
                             detail2 := 0, parsley := true, reset := false }
      enterParsley s 5 1494
    else
      recordNow s { kind := 0x12, cls := 5, status := St.ok, scope := .module, source := 1494, detail := celsius,
                    detail2 := 12, parsley := false, reset := false }

def execThermalTrip (celsius : Nat) (s : State) : Host.Outcome State Fault Refusal := .next (thermalTrip s celsius)

/-- THERMTRIP_DEASSERT at 100 °C or below (R586). -/
def thermtripDeassert (s : State) (celsius : Nat) : State :=
  if s.gov.trip ∧ celsius ≤ 100 then
    (s.modGov fun g => { g with celsius := celsius, trip := false }).modPwr fun w => { w with thermtrip := false }
  else s

def execThermtripDeassert (celsius : Nat) (s : State) : Host.Outcome State Fault Refusal := .next (thermtripDeassert s celsius)

/-- THROTTLE_FLOOR_WRITE: values above 12 are written as 12; a floor above the level raises it in one change (R296). -/
def throttleFloor (s : State) (v : W32) : State :=
  let f := min (v.extractLsb' 0 4).toNat 12
  let s := s.modGov fun g => { g with floor := BitVec.ofNat 4 f }
  if s.gov.level < f then requestLevel s (max f (ownLevel s)) else s


/-- THROTTLE_LEVEL_APPLY at tick N + 8 (R297). -/
def throttleApply (s : State) : State :=
  match s.gov.pendingLevels with
  | [] => s
  | (l, t) :: rest =>
    let s := if s.gov.level = 0 ∧ 0 < l then raiseAlert s 3 else s
    (s.advance (32 * t)).modGov fun g => { g with level := l, pendingLevels := rest }

def execThrottleLevelApply (s : State) : Host.Outcome State Fault Refusal := .next (throttleApply s)

end Sys2Proof.Machine
end

