-- ==== Sys2Proof/Machine/Colxel.lean ====
section
/-! DEFINITION. A Colxel module as the loader sees it once every symbolic size is bound (R302 to R305, Table 9-2), the obligations
of Table 9-3 that can be told from the module alone, and the base layout of R308. The spec names what each section holds and gives
no encoding of it: the parse is an uninterpreted constant (log 9). -/

namespace Sys2Proof.Machine

/-- A 32-bit value of the module: constant, multiples of step registers s24 to s31, of loop indices by level, and of the rank of the
module in its data-parallel job (Table 12-2); modulo 2^32. -/
structure SymVal where
  const : Nat
  regs : List (Nat × Nat)
  loops : List (Nat × Nat)
  rank : Nat
  deriving DecidableEq, Repr

/-- Its value for step registers (entry i is s(24 + i)), loop indices and a rank. -/
def SymVal.eval (v : SymVal) (regs idxs : List Nat) (rank : Nat) : Nat :=
  (v.const + (v.regs.map fun x => x.2 * regs.getD (x.1 - 24) 0).sum + (v.loops.map fun x => x.2 * idxs.getD x.1 0).sum +
    v.rank * rank) % 2 ^ 32

/-- Tier class of a tensor (Table 9-2). -/
inductive TierClass where
  | scratch | stack | ach | peer
  deriving DecidableEq, Repr

/-- TIER code of a class (Table 7-2). -/
def TierClass.code : TierClass → Nat
  | .scratch => 1 | .stack => 2 | .ach => 3 | .peer => 4

/-- What the module declares a tensor to be, where a rule asks (R148, R152, R158). -/
inductive TensorRole where
  | plain | gradient | trainingState | stateHeader
  deriving DecidableEq, Repr

/-- A tensor (section 2): extents, innermost first, which of them come from symbolic sizes, format code, scale block length (0:
unscaled), tier class, page attribute code of a STACK tensor, context tag. -/
structure CxTensor where
  name : W32
  dims : List Nat
  symbolic : List Bool
  fmt : Nat
  block : Nat
  tier : TierClass
  attr : Nat
  ctx : BitVec 16
  role : TensorRole
  deriving DecidableEq, Repr

/-- A base matrix (section 3): mode, counts, pages of its macro images and of its scale images by place among the base pages, core
set of every block in row-block order within column blocks. -/
structure CxMatrix where
  mode : WMode
  rowBlocks : Nat
  colBlocks : Nat
  images : List Nat
  scales : List Nat
  coreSets : List Nat
  deriving DecidableEq, Repr

/-- A chain (section 4). -/
structure CxChain where
  matrix : Nat
  transposed : Bool
  blocks : List Nat
  deriving DecidableEq, Repr

/-- A part of a tensor that operations name: origin and extents by dimension, steps of the origin per iteration of a loop level,
operands that hold its scale codes and its index stream. -/
structure CxArg where
  tensor : Nat
  at_ : List Nat
  dims : List Nat
  iters : List (Nat × List Int)
  scale : Option Nat
  index : Option Nat
  deriving DecidableEq, Repr

/-- An operation (section 5): the Avman operation with its arithmetic fields, whose handle, register, chain, channel, RATE and core
fields mean nothing here; its operands in the order of its handle fields; the values of its register operands where the module gives
them; its chain and the CBUF operations that feed the members, in chain order; source numbers of a VSPLIT; block of a CLOAD; exchange
point of an XSEND to a peer. -/
structure CxOp where
  op : EngineOp
  args : List (Option Nat)
  vals : List (Option SymVal)
  chain : Nat
  feeds : List Nat
  sources : List Nat
  block : Nat × Nat
  exchange : Option Nat
  deriving DecidableEq, Repr

/-- A token of CONTROL (section 6), in phase order: an operation, a loop with its count at the bound, the step register that
carries the count, and whether it is a loan loop; a tile boundary. -/
inductive CtlTok where
  | op (k : Nat)
  | loop (count : Nat) (reg : Option SReg) (loan : Bool)
  | endLoop
  | tile
  deriving DecidableEq, Repr

/-- The module with every symbolic size bound. -/
structure Colxel where
  /-- bounds of s24 to s31 (section 1) -/
  bounds : List Nat
  tensors : List CxTensor
  matrices : List CxMatrix
  chains : List CxChain
  args : List CxArg
  ops : List CxOp
  control : List CtlTok
  /-- exchange points: ticks from the segment base (R306) -/
  exchanges : List Nat
  /-- loan per field and its step length (R291) -/
  loanQ : List Nat
  loanT : Nat
  deriving DecidableEq, Repr

end Sys2Proof.Machine

/-- Sections of a module for a number of compute groups; none where they cannot be read or a size cannot be bound (log 9). -/
opaque Sys2Proof.Config.parseColxel : List Sys2Proof.Byte → Nat → Option Sys2Proof.Machine.Colxel

namespace Sys2Proof.Machine

/-! ### The order that CONTROL fixes (R152, R155, R302) -/

/-- An operation of a step as CONTROL orders it: operation, loop indices from the outermost, tile counted from the start. -/
structure CxStep where
  op : Nat
  idxs : List Nat
  tile : Nat
  deriving DecidableEq, Repr

/-- Tokens after the matching end of a loop. -/
def skipLoop : Nat → List CtlTok → List CtlTok
  | _, [] => []
  | d, .loop _ _ _ :: r => skipLoop (d + 1) r
  | 0, .endLoop :: r => r
  | d + 1, .endLoop :: r => skipLoop d r
  | d, _ :: r => skipLoop d r

/-- Expansion of CONTROL with every count at its bound, loan loops with a count of 0 unless `loan` (R291, R307). A level of the
stack holds the tokens of its body with what follows, its index and its count. -/
def expandCtl (loan : Bool) : Nat → List CtlTok → List (List CtlTok × Nat × Nat) → Nat → List CxStep
  | 0, _, _, _ => []
  | _, [], _, _ => []
  | n + 1, t :: r, st, tile =>
    match t with
    | .op k => ⟨k, (st.map fun l => l.2.1).reverse, tile⟩ :: expandCtl loan n r st tile
    | .loop c _ l => if c = 0 ∨ (l = true ∧ loan = false) then expandCtl loan n (skipLoop 0 r) st tile
                     else expandCtl loan n r ((r, 0, c) :: st) tile
    | .endLoop =>
      match st with
      | [] => []
      | (body, i, c) :: st' =>
        if i + 1 < c then expandCtl loan n body ((body, i + 1, c) :: st') tile else expandCtl loan n r st' tile
    | .tile => expandCtl loan n r st (tile + 1)

/-- The steps of a module. -/
def Colxel.steps (x : Colxel) (loan : Bool) : List CxStep := expandCtl loan (2 ^ 64) x.control [] 0

/-- Operand `i` of an operation. -/
def Colxel.argOf (x : Colxel) (o : CxOp) (i : Nat) : Option CxArg := (o.args.getD i none).bind fun a => x.args[a]?
/-- Tensor of an operand. -/
def Colxel.tensorOf (x : Colxel) (a : CxArg) : Option CxTensor := x.tensors[a.tensor]?
/-- Origin of an operand in an iteration. -/
def CxArg.origin (a : CxArg) (idxs : List Nat) : List Int :=
  (List.range 5).map fun k => Int.ofNat (a.at_.getD k 0) + (a.iters.map fun t => t.2.getD k 0 * Int.ofNat (idxs.getD t.1 0)).sum
/-- Do two operands cover the same region of the same tensor in their iterations? -/
def CxArg.sameRegion (a : CxArg) (ia : List Nat) (b : CxArg) (ib : List Nat) : Bool :=
  a.tensor == b.tensor && a.dims == b.dims && a.origin ia == b.origin ib

/-! ### Operands that an operation writes -/

/-- Positions of the destinations among the handle fields of an operation. -/
def destPos (op : EngineOp) : List Nat :=
  match op with
  | .cfwd _ | .ctrn _ => [0]
  | .amm f => if f.prec = 0 then [2] else [2, 4]
  | .varith _ | .vfunc _ | .vlogic _ | .vcvt _ => [0]
  | .vred _ => [0, 2]
  | .vtopk _ => [0, 2]
  | .vsplit _ => [0, 4]
  | .vupd f => if f.kind then [1, 2] else [1, 2, 3]
  | .copy _ | .gather _ | .scatter _ | .prefetch _ => [1]
  | _ => []

/-- Operands that an operation writes. -/
def Colxel.written (x : Colxel) (o : CxOp) : List CxArg := (destPos o.op).filterMap fun i => x.argOf o i

/-- Destination, control and register positions of a conversion: the drain of an AMM into a format other than FP32, and VCVT (R46,
R127). The positions are those of TID and STEP among the register fields. -/
def convOf (x : Colxel) (o : CxOp) : Option (CxArg × BitVec 2 × Nat × Nat) :=
  match o.op with
  | .amm f => if f.acc = 2 then none else (x.argOf o 2).map fun a => (a, f.cvt, 1, 2)
  | .vcvt f => (x.argOf o 0).map fun a => (a, f.cvt, 0, 1)
  | _ => none

/-! ### Table 9-3, from the module alone -/

/-- Symbolic extents give whole blocks of 64 to the engines and whole scale blocks (R48). -/
def CxTensor.whole (t : CxTensor) : Bool :=
  ((List.range 2).all fun k => !(t.symbolic.getD k false) || t.dims.getD k 1 % 64 == 0) &&
    (t.block == 0 || t.dims.getD 0 1 % t.block == 0)

/-- Format code given by Table 2-1 (R30), and neither FP32 nor INT32 in STATE (5) or SNAPSHOT (3) pages, but for the state header in
STATE pages (R148). -/
def CxTensor.formatOk (t : CxTensor) : Bool :=
  (Fmt.ofCode t.fmt).isSome &&
    !(t.tier == .stack && (t.attr == 3 || t.attr == 5) && (t.fmt == 0 || t.fmt == 7) && !(t.role == .stateHeader && t.attr == 5))

/-- A conversion into an activation gradient or training state rounds stochastically (R158): SR is bit 1 of the control (R42). -/
def roundingOk (x : Colxel) (o : CxOp) : Bool :=
  match convOf x o with
  | none => true
  | some (a, cvt, _, _) =>
    match x.tensorOf a with
    | none => true
    | some t => t.fmt == 0 || !(t.role == .gradient || t.role == .trainingState) || cvt.getLsbD 1

/-- A chain: 1 to 960 blocks of its matrix in ascending order, all of one core set (R67). The blocks of a matrix have one mode. -/
def chainOk (x : Colxel) (c : CxChain) : Bool :=
  match x.matrices[c.matrix]? with
  | none => false
  | some m =>
    decide (1 ≤ c.blocks.length) && decide (c.blocks.length ≤ 960) && decide (c.blocks.Pairwise (· < ·)) &&
      c.blocks.all (fun b => decide (b < m.rowBlocks * m.colBlocks)) &&
      decide ((c.blocks.map fun b => m.coreSets.getD b 0).eraseDups.length ≤ 1)

/-- Blocks of the module with their core sets, in block order: matrix, block, core set. -/
def Colxel.blocks (x : Colxel) : List (Nat × Nat × Nat) :=
  x.matrices.zipIdx.flatMap fun m => (List.range (m.1.rowBlocks * m.1.colBlocks)).map fun b => (m.2, b, m.1.coreSets.getD b 0)
/-- Core sets with their macro counts, ascending in number. -/
def Colxel.coreSets (x : Colxel) : List (Nat × Nat) :=
  let ns := x.blocks.map fun b => b.2.2
  ((List.range (ns.foldl max 0 + 1)).filter fun n => ns.contains n).map fun n => (n, ns.count n)

/-- Source numbers 0 to N - 1 exactly once, N at most 256 (R144). -/
def sourcesOk (o : CxOp) : Bool :=
  match o.op with
  | .vsplit f => o.sources.length == f.nm1.toNat + 1 && (List.range (f.nm1.toNat + 1)).all fun i => o.sources.count i == 1
  | _ => true

/-- Tile identifiers of the SR conversions of a step, over every rank; those of VUPD apart (R162). The ROLE bits and, for a VUPD,
the RANK bits are 0 (Table 5-4). -/
def tileIdsOk (x : Colxel) : Bool :=
  let steps := x.steps true
  let of (rank : Nat) (s : CxStep) : Option (Bool × Nat) :=
    (x.ops[s.op]?).bind fun o =>
      match o.op with
      | .vupd _ => ((o.vals.getD 2 none).map fun v => (true, v.eval x.bounds s.idxs rank))
      | _ => (convOf x o).bind fun c =>
          if c.2.1.getLsbD 1 then (o.vals.getD c.2.2.1 none).map fun v => (false, v.eval x.bounds s.idxs rank) else none
  let conv := (List.range 8).flatMap fun r => (steps.filterMap (of r)).filter fun t => !t.1
  let upd := (steps.filterMap (of 0)).filter fun t => t.1
  decide ((conv.map (·.2)).Nodup) && decide ((upd.map (·.2)).Nodup) && (conv ++ upd).all (fun t => decide (t.2 < 2 ^ 30)) &&
    upd.all fun t => t.2 / 2 ^ 27 == 0

/-- Every QUANTISE, and every CONVERT into a scaled destination, has a VRED MAXABS in scale mode over the same source region that
wrote its scale operand, in its tile or in the tile before (R160, R248). -/
def scalesOk (x : Colxel) : Bool :=
  let steps := (x.steps true).zipIdx
  steps.all fun s =>
    match x.ops[s.1.op]? with
    | none => false
    | some o =>
      match o.op, (x.argOf o 0).bind (·.scale), x.argOf o 1 with
      | .vcvt _, some sc, some src =>
        steps.any fun w =>
          decide (w.2 < s.2) && decide (s.1.tile ≤ w.1.tile + 1) &&
            (match x.ops[w.1.op]? with
             | none => false
             | some v =>
               match v.op, x.argOf v 0, x.argOf v 1, x.args[sc]? with
               | .vred f, some d, some a, some scale =>
                 f.scm && f.fn == 4 && a.sameRegion w.1.idxs src s.1.idxs && d.sameRegion w.1.idxs scale s.1.idxs
               | _, _, _, _ => false)
      | _, _, _ => true

/-- Operations that break a row of Table 9-3 by themselves: rounding, sources, STATE writes of a TRAINING module without CKPT_AWARE,
XSENDs to a peer without an exchange point (R306). -/
def opOk (x : Colxel) (training ckptAware : Bool) (o : CxOp) : Bool :=
  roundingOk x o && sourcesOk o &&
    !(training && !ckptAware && (x.written o).any fun a =>
        match x.tensorOf a with | none => false | some t => t.tier == .stack && t.attr == 5) &&
    (match o.op with
     | .xsend f => (f.kind != 1 || (match o.exchange with | none => false | some e => decide (e < x.exchanges.length))) &&
         -- R257: FP32, on the logit pipe BF16 or INT32 too
         (match (x.argOf o 0).bind x.tensorOf with
          | none => false
          | some t => t.fmt == 0 || (f.kind == 2 && (t.fmt == 1 || t.fmt == 7)))
     | _ => true)

/-- Loan loops count by a step register, s24 to s31, and the loan lasts 4,096 ticks at most (R291). -/
def loansOk (x : Colxel) : Bool :=
  decide (x.loanT ≤ 4096) && x.control.all fun t => match t with
    | .loop _ n loan => !loan || (match n with | some r => decide (24 ≤ r.toNat) | none => false)
    | _ => true

/-- Check 3 as far as the module alone decides it: none where it passes, else the operation at fault, if one is (R305). -/
def obligations (x : Colxel) (training ckptAware : Bool) : Option (Option Nat) :=
  let bad := (List.range x.ops.length).find? fun i => match x.ops[i]? with | none => false | some o => !opOk x training ckptAware o
  if x.tensors.any (fun t => !t.whole || !t.formatOk) ∨ x.chains.any (fun c => !chainOk x c) ∨
      x.coreSets.any (fun c => decide (1024 < c.2)) ∨ !loansOk x then some none
  else if bad.isSome then some bad
  else if (training ∧ !tileIdsOk x) ∨ !scalesOk x then some none
  else none

/-! ### The base layout (R308, R72, R84) -/

/-- A core's good macros not yet taken, ascending. -/
abbrev Room := List (Nat × List Nat)

/-- The core with the most unassigned good macros, a tie to the lower core number. -/
def roomiest (r : Room) : Option (Nat × List Nat) :=
  r.foldl (fun b x => match b with
    | none => some x
    | some y => if y.2.length < x.2.length then some x else b) none

/-- Core sets in descending order of macro count, ties to the lower number. -/
def setOrder (cs : List (Nat × Nat)) : List (Nat × Nat) :=
  cs.foldl (fun acc c => (acc.takeWhile fun x => decide (c.2 ≤ x.2)) ++ [c] ++ (acc.dropWhile fun x => decide (c.2 ≤ x.2))) []

/-- Core sets placed one after another: set, block list, macros. None where a set finds no core with room. -/
def placeSets (bs : List (Nat × Nat × Nat)) : List (Nat × Nat) → Room → Option (List ((Nat × Nat) × Nat) × Room)
  | [], r => some ([], r)
  | c :: cs, r =>
    match roomiest r with
    | none => none
    | some (core, free) =>
      let mine := (bs.filter fun b => b.2.2 == c.1).map fun b => (b.1, b.2.1)
      if free.length < mine.length then none
      else
        let r' := r.map fun x => if x.1 = core then (x.1, x.2.drop mine.length) else x
        (placeSets bs cs r').map fun y => (mine.zip free ++ y.1, y.2)

/-- Good macros of the cores of a group mask, ascending. -/
def freeRoom (s : State) (groups : BitVec 16) : Room :=
  ((maskList 16 groups).flatMap fun g => (List.range 80).map fun i => 80 * g + i).map fun c =>
    (c, ((List.range 1024).map fun m => 1024 * c + m).filter fun m => goodMacro s m)

/-- Macro image and scale image of a block in the stacks: 16,384 and 256 bytes each, in the base pages of the partition (R60, R81). -/
def blockSource (base : List Nat) (m : CxMatrix) (b : Nat) : Nat × Nat :=
  (base.getD (m.images.getD (b / 4) 0) 0 * 65536 + b % 4 * 16384, base.getD (m.scales.getD (b / 256) 0) 0 * 65536 + b % 256 * 256)

/-- The layout of a base: its blocks in their macros. -/
def formLayout (s : State) (x : Colxel) (groups : BitVec 16) (base : List Nat) : Option (List Block1) :=
  (placeSets x.blocks (setOrder x.coreSets) (freeRoom s groups)).map fun y =>
    y.1.filterMap fun z => (x.matrices[z.1.1]?).map fun m =>
      let src := blockSource base m z.1.2
      ⟨z.2, src.1, src.2, m.mode⟩

/-- MARGIN: fewest good macros of a core of the groups that a layout leaves unassigned (Table 9-5). -/
def marginOf (s : State) (groups : BitVec 16) (layout : List Block1) : Nat :=
  let left := (freeRoom s groups).map fun c => (c.2.filter fun m => !(layout.any fun b => b.macroIx == m)).length
  left.foldl min (left.headD 0)

/-- Macro that holds a block under a layout: blocks are told apart by their macro images. -/
def macroOf (layout : List Block1) (base : List Nat) (m : CxMatrix) (b : Nat) : Option Nat :=
  (layout.find? fun y => y.image == (blockSource base m b).1).map (·.macroIx)

end Sys2Proof.Machine
end

