-- ==== Sys2Proof/Machine/Words.lean ====
section
/-! DEFINITION. The 128-bit words of Avman instructions (R217, R225, R233, R234, Tables 7-3 to 7-5, 7-7, 7-9, 7-10, 7-12 to
7-14): decoder, encoder, and the loader's check of opcode, reserved bits, field codes and stamp bit (R233, R235). -/

namespace Sys2Proof.Machine

/-! ### Decoder -/

/-- Bits `lo` to `lo + n - 1` of an instruction word. -/
def field (w : BitVec 128) (lo n : Nat) : BitVec n := w.extractLsb' lo n
/-- One bit of it. -/
def flagAt (w : BitVec 128) (lo : Nat) : Bool := w.getLsbD lo
/-- The common header (Table 7-3, R225). -/
def hdrOf (w : BitVec 128) : Hdr := ⟨flagAt w 11, field w 12 5, field w 17 15⟩

/-- CBUF (Table 7-7). -/
def cbufOf (w : BitVec 128) : CbufF := ⟨field w 34 2, field w 36 4, field w 40 3, flagAt w 43, field w 44 12, field w 56 12⟩
/-- CFWD and CTRN (Table 7-7). -/
def chainFOf (w : BitVec 128) : ChainF := ⟨field w 34 2, field w 36 9, field w 45 12⟩
/-- CLOAD (Table 7-7). -/
def cloadOf (w : BitVec 128) : CloadF :=
  ⟨field w 32 10, field w 42 2, field w 44 8, field w 52 8, field w 60 12, field w 72 12⟩
/-- AMM (Table 7-9). -/
def ammOf (w : BitVec 128) : AmmF :=
  ⟨field w 32 2, field w 34 2, flagAt w 36, field w 37 2, flagAt w 39, field w 40 2, flagAt w 42, flagAt w 43, field w 44 12,
    field w 56 12, field w 68 12, field w 80 12, field w 92 12, field w 104 5, field w 109 5, field w 114 5⟩
/-- The element-wise layout (Table 7-10). -/
def elemOf (w : BitVec 128) : ElemF :=
  ⟨field w 32 2, field w 34 4, field w 38 12, field w 50 12, field w 62 12, field w 74 12, field w 86 5, field w 91 5,
    field w 96 5, flagAt w 101⟩
/-- VRED (Table 7-12). -/
def vredOf (w : BitVec 128) : VredF :=
  ⟨field w 34 4, flagAt w 38, field w 39 2, flagAt w 41, field w 42 4, field w 46 12, field w 58 12, field w 70 12, field w 82 5⟩
/-- VTOPK (Table 7-12). -/
def vtopkOf (w : BitVec 128) : VtopkF := ⟨field w 34 8, field w 42 12, field w 54 12, field w 66 12, field w 78 5⟩
/-- VSPLIT (Table 7-12). -/
def vsplitOf (w : BitVec 128) : VsplitF :=
  ⟨field w 34 4, field w 38 8, field w 46 12, field w 58 12, field w 70 12, field w 82 5, field w 87 8, field w 95 12,
    field w 107 12⟩
/-- VUPD (Table 7-12, R250). -/
def vupdOf (w : BitVec 128) : VupdF :=
  ⟨flagAt w 32, field w 33 12, field w 45 12, field w 57 12, field w 69 12, field w 81 12, field w 93 12, field w 105 5,
    field w 110 5, field w 115 5, field w 120 5⟩
/-- COPY, GATHER and SCATTER (Table 7-13). -/
def chvOf (w : BitVec 128) : ChvF := ⟨field w 32 2, field w 34 5, field w 39 12, field w 51 12⟩
/-- PREFETCH (Table 7-13). -/
def prefOf (w : BitVec 128) : PrefF := ⟨field w 32 2, field w 34 5, field w 39 3, field w 42 12, field w 54 12, field w 66 32⟩
/-- COMMIT (Table 7-13). -/
def commitOf (w : BitVec 128) : CommitF := ⟨field w 32 2, field w 34 5, field w 39 12⟩
/-- XSEND (Table 7-14). -/
def xsendOf (w : BitVec 128) : XsendF := ⟨field w 32 2, field w 34 12, field w 46 11, field w 57 3, field w 60 9, field w 69 13⟩
/-- XLATE (Table 7-14). -/
def xlateOf (w : BitVec 128) : XlateF := ⟨field w 32 9, field w 41 8, flagAt w 49⟩

/-- The instruction of core `c` that a word of instruction memory spells (Table 7-4); reserved bits are ignored (R233). -/
def decodeWord (c : CoreN) (w : BitVec 128) : Instr :=
  let h := hdrOf w
  let d : SReg := field w 32 5
  let a : SReg := field w 37 5
  let b : SReg := field w 42 5
  let imm : W32 := field w 64 32
  match (field w 0 8).toNat with
  | 0x00 => .nop c
  | 0x01 => .endJob c
  | 0x02 => .loop c h d (field w 37 14) (field w 51 16)
  | 0x03 => .tile c h (field w 32 14) (field w 46 14)
  | 0x04 => .budget c h (field w 32 8) (field w 40 16)
  | 0x05 => .waitq c (field w 32 3) (field w 35 7)
  | 0x06 => .dstep c
  | 0x08 => .sli c d imm
  | 0x09 => .sadd c d a b
  | 0x0A => .saddi c d a imm
  | 0x0B => .ssub c d a b
  | 0x0C => .smul c d a b
  | 0x0D => .sand c d a b
  | 0x0E => .sor c d a b
  | 0x0F => .sxor c d a b
  | 0x10 => .sshl c d a b
  | 0x11 => .sshr c d a b
  | 0x12 => .smin c d a b
  | 0x13 => .smax c d a b
  | 0x14 => .sld c d a imm
  | 0x15 => .sst c d a imm
  | 0x16 => .sidx c d (field w 37 2)
  | 0x17 => .sfeat c d (field w 37 6)
  | 0x20 => .cbuf c h (cbufOf w)
  | 0x21 => .cfwd c h (chainFOf w)
  | 0x22 => .ctrn c h (chainFOf w)
  | 0x23 => .cload c h (cloadOf w)
  | 0x40 => .amm c h (ammOf w)
  | 0x60 => .varith c h (elemOf w)
  | 0x61 => .vfunc c h (elemOf w)
  | 0x62 => .vlogic c h (elemOf w)
  | 0x63 => .vcvt c h (elemOf w)
  | 0x64 => .vred c h (vredOf w)
  | 0x65 => .vtopk c h (vtopkOf w)
  | 0x66 => .vsplit c h (vsplitOf w)
  | 0x67 => .vupd c h (vupdOf w)
  | 0x80 => .copy c h (chvOf w)
  | 0x81 => .gather c h (chvOf w)
  | 0x82 => .scatter c h (chvOf w)
  | 0x83 => .prefetch c h (prefOf w)
  | 0x84 => .commit c h (commitOf w)
  | 0xA0 => .xsend c h (xsendOf w)
  | 0xA1 => .xlate c h (xlateOf w)
  | _ => .reservedOpcode c

/-! ### Encoder -/

/-- A value at bit `lo` of a word. -/
def put {n : Nat} (lo : Nat) (v : BitVec n) : BitVec 128 := (v.setWidth 128) <<< lo
/-- A flag at bit `lo`. -/
def putB (lo : Nat) (b : Bool) : BitVec 128 := put lo (BitVec.ofBool b)
/-- Opcode and header (Tables 7-3, 7-4). -/
def headWord (opc : Nat) (h : Hdr) : BitVec 128 := BitVec.ofNat 128 opc ||| putB 11 h.s ||| put 12 h.cyc ||| put 17 h.tick
/-- No stamp: the header of an instruction whose S is 0. -/
def noStamp : Hdr := ⟨false, 0, 0⟩
/-- Three-register scalar instruction (Table 7-5). -/
def alu (opc : Nat) (d a b : SReg) : BitVec 128 := headWord opc noStamp ||| put 32 d ||| put 37 a ||| put 42 b
/-- Scalar instruction with an immediate (Table 7-5). -/
def alui (opc : Nat) (d a : SReg) (imm : W32) : BitVec 128 := headWord opc noStamp ||| put 32 d ||| put 37 a ||| put 64 imm

/-- Word of an engine operation with its header; the fetch of a ring is no instruction. -/
def encodeOp (h : Hdr) : EngineOp → BitVec 128
  | .cbuf f => headWord 0x20 h ||| put 34 f.acode ||| put 36 f.slab ||| put 40 f.bslot ||| putB 43 f.dir ||| put 44 f.src ||| put 56 f.exp
  | .cfwd f => headWord 0x21 h ||| put 34 f.acode ||| put 36 f.chain ||| put 45 f.dst
  | .ctrn f => headWord 0x22 h ||| put 34 f.acode ||| put 36 f.chain ||| put 45 f.dst
  | .cload f => headWord 0x23 h ||| put 32 f.macroIx ||| put 42 f.wmode ||| put 44 f.first ||| put 52 f.last ||| put 60 f.src ||| put 72 f.scl
  | .amm f =>
    headWord 0x40 h ||| put 32 f.cvt ||| put 34 f.prec ||| putB 36 f.mode ||| put 37 f.acc ||| putB 39 f.init ||| put 40 f.fuse |||
      putB 42 f.ta ||| putB 43 f.tb ||| put 44 f.a ||| put 56 f.b ||| put 68 f.c ||| put 80 f.y ||| put 92 f.ps |||
      put 104 f.alpha ||| put 109 f.tid ||| put 114 f.step
  | .varith f => headWord 0x60 h ||| elemWord f
  | .vfunc f => headWord 0x61 h ||| elemWord f
  | .vlogic f => headWord 0x62 h ||| elemWord f
  | .vcvt f => headWord 0x63 h ||| elemWord f
  | .vred f =>
    headWord 0x64 h ||| put 34 f.fn ||| putB 38 f.scm ||| put 39 f.blk ||| putB 41 f.tgt ||| put 42 f.pfmt ||| put 46 f.d |||
      put 58 f.a ||| put 70 f.i ||| put 82 f.ib
  | .vtopk f => headWord 0x65 h ||| put 34 f.km1 ||| put 42 f.d ||| put 54 f.a ||| put 66 f.i ||| put 78 f.ib
  | .vsplit f =>
    headWord 0x66 h ||| put 34 f.fn ||| put 38 f.nm1 ||| put 46 f.d ||| put 58 f.a ||| put 70 f.init ||| put 82 f.cnt |||
      put 87 f.km1 ||| put 95 f.ai ||| put 107 f.di
  | .vupd f =>
    headWord 0x67 h ||| putB 32 f.kind ||| put 33 f.g ||| put 45 f.w ||| put 57 f.m ||| put 69 f.v ||| put 81 f.hp |||
      put 93 f.s ||| put 105 f.n ||| put 110 f.res ||| put 115 f.tid ||| put 120 f.step
  | .copy f => headWord 0x80 h ||| chvWord f
  | .gather f => headWord 0x81 h ||| chvWord f
  | .scatter f => headWord 0x82 h ||| chvWord f
  | .prefetch f =>
    headWord 0x83 h ||| put 32 f.ch ||| put 34 f.ratem1 ||| put 39 f.dm1 ||| put 42 f.src ||| put 54 f.ring ||| put 66 f.stride
  | .commit f => headWord 0x84 h ||| put 32 f.ch ||| put 34 f.ratem1 ||| put 39 f.src
  | .xsend f => headWord 0xA0 h ||| put 32 f.kind ||| put 34 f.src ||| put 46 f.dcore ||| put 57 f.port ||| put 60 f.dslot ||| put 69 f.doff
  | .xlate f => headWord 0xA1 h ||| put 32 f.slot ||| put 41 f.cntm1 ||| putB 49 f.policy
  | .ringFetch _ _ => 0
where
  /-- fields of Table 7-10 -/
  elemWord (f : ElemF) : BitVec 128 :=
    put 32 f.cvt ||| put 34 f.fn ||| put 38 f.d ||| put 50 f.a ||| put 62 f.b ||| put 74 f.c ||| put 86 f.tid ||| put 91 f.step |||
      put 96 f.ss ||| putB 101 f.bs
  /-- fields of COPY, GATHER and SCATTER -/
  chvWord (f : ChvF) : BitVec 128 := put 32 f.ch ||| put 34 f.ratem1 ||| put 39 f.src ||| put 51 f.dst

/-- Engine instruction of a command: header and operation. -/
def engineOf : Instr → Option (Hdr × EngineOp)
  | .cbuf _ h f => some (h, .cbuf f)
  | .cfwd _ h f => some (h, .cfwd f)
  | .ctrn _ h f => some (h, .ctrn f)
  | .cload _ h f => some (h, .cload f)
  | .amm _ h f => some (h, .amm f)
  | .varith _ h f => some (h, .varith f)
  | .vfunc _ h f => some (h, .vfunc f)
  | .vlogic _ h f => some (h, .vlogic f)
  | .vcvt _ h f => some (h, .vcvt f)
  | .vred _ h f => some (h, .vred f)
  | .vtopk _ h f => some (h, .vtopk f)
  | .vsplit _ h f => some (h, .vsplit f)
  | .vupd _ h f => some (h, .vupd f)
  | .copy _ h f => some (h, .copy f)
  | .gather _ h f => some (h, .gather f)
  | .scatter _ h f => some (h, .scatter f)
  | .prefetch _ h f => some (h, .prefetch f)
  | .commit _ h f => some (h, .commit f)
  | .xsend _ h f => some (h, .xsend f)
  | .xlate _ h f => some (h, .xlate f)
  | _ => none

/-- Word of an instruction of instruction memory; none for a command that is no such instruction. -/
def encodeWord (i : Instr) : Option (BitVec 128) :=
  match i with
  | .nop _ => some (headWord 0x00 noStamp)
  | .endJob _ => some (headWord 0x01 noStamp)
  | .loop _ h cnt last period => some (headWord 0x02 h ||| put 32 cnt ||| put 37 last ||| put 51 period)
  | .tile _ h save resume => some (headWord 0x03 h ||| put 32 save ||| put 46 resume)
  | .budget _ h q span => some (headWord 0x04 h ||| put 32 q ||| put 40 span)
  | .waitq _ queue depth => some (headWord 0x05 noStamp ||| put 32 queue ||| put 35 depth)
  | .dstep _ => some (headWord 0x06 noStamp)
  | .sli _ d imm => some (headWord 0x08 noStamp ||| put 32 d ||| put 64 imm)
  | .sadd _ d a b => some (alu 0x09 d a b)
  | .saddi _ d a imm => some (alui 0x0A d a imm)
  | .ssub _ d a b => some (alu 0x0B d a b)
  | .smul _ d a b => some (alu 0x0C d a b)
  | .sand _ d a b => some (alu 0x0D d a b)
  | .sor _ d a b => some (alu 0x0E d a b)
  | .sxor _ d a b => some (alu 0x0F d a b)
  | .sshl _ d a b => some (alu 0x10 d a b)
  | .sshr _ d a b => some (alu 0x11 d a b)
  | .smin _ d a b => some (alu 0x12 d a b)
  | .smax _ d a b => some (alu 0x13 d a b)
  | .sld _ d a imm => some (alui 0x14 d a imm)
  | .sst _ d a imm => some (alui 0x15 d a imm)
  | .sidx _ d level => some (headWord 0x16 noStamp ||| put 32 d ||| put 37 level)
  | .sfeat _ d index => some (headWord 0x17 noStamp ||| put 32 d ||| put 37 index)
  | i => (engineOf i).map fun x => encodeOp x.1 x.2

/-! ### The loader's check of a word (R233, R234, R235) -/

/-- Stamp bits of an instruction whose S column or rule fixes them: a sequencer instruction without stamp has S, CYC and TICK 0;
LOOP and BUDGET carry S = 1 and CYC = 0, TILE and XLATE S = 1 (Table 7-5, R258). -/
def stampOk (h : Hdr) (i : Instr) : Bool :=
  match i with
  | .loop .. | .budget .. => h.s && h.cyc == 0
  | .tile .. | .xlate .. => h.s
  | i => (engineOf i).isSome || !h.s

/-- Field values that Tables 7-5 and 7-14 give: periods and spans from 1 on, queues 0 to 4 with depths to 64. -/
def rangesOk (i : Instr) : Bool :=
  match i with
  | .loop _ _ _ _ period => period != 0
  | .budget _ _ _ span => span != 0
  | .waitq _ queue depth => decide (queue.toNat ≤ 4) && decide (depth.toNat ≤ 64)
  | .vcvt _ _ _ => true
  -- CVT, TID and STEP are reserved outside VCVT (Table 7-10)
  | .varith _ _ f | .vfunc _ _ f | .vlogic _ _ f => f.cvt == 0 && f.tid == 0 && f.step == 0
  | .xsend _ _ f => decide (f.dcore.toNat < 1280) && decide (f.port.toNat ≤ 6)
  | _ => true

/-- Reserved bits hold 0: beside the stamp, the word is the encoding of what it decodes to. -/
def reservedClear (w : BitVec 128) (i : Instr) : Bool :=
  match encodeWord i with
  | none => false
  | some v => w == v ||| headWord 0 (hdrOf w)

/-- R233: opcode, reserved bits and field codes of a word that the loader writes; R592's reserved field codes are tested where the
operation is (`refuse`). -/
def wordOk (w : BitVec 128) : Bool :=
  let i := decodeWord 0 w
  reservedClear w i && stampOk (hdrOf w) i && rangesOk i

end Sys2Proof.Machine
end

