-- ==== Sys2Proof/Machine/Assemble.lean ====
section
/-! DEFINITION. From a module and the loader's choices to the tables of every core (R229, R230, R239, R302, R307, R320). What R302
leaves to the loader is the uninterpreted answer `Config.placeColxel`: cores, macros of a streamed base, addresses and pages, handles,
channels and RATE, prefetch distances, stamps, tile boundaries, save sequences and declarations. Everything else in an instruction or
table word comes from the module (log 9). -/

namespace Sys2Proof.Machine

/-- A place of a tensor: its own tier or a copy of it in a scratchpad slot; slot, first byte, layout, strides, peer port. -/
structure PlTensor where
  tensor : Nat
  tier : Nat
  slot : BitVec 9
  base : BitVec 40
  blocked : Bool
  strides : List Nat
  port : BitVec 3
  deriving DecidableEq, Repr

/-- A descriptor for an operand: its handle, the place that it names, ring, and the module's loop indices in terms of those of the hardware loops (constant and
multiples of hardware levels). -/
structure PlArg where
  arg : Nat
  place : Nat
  handle : Handle
  ring : BitVec 4
  ringLevel : BitVec 2
  idxs : List SymVal
  deriving DecidableEq, Repr

/-- The loader's fields of an engine instruction. -/
structure PlFill where
  regs : List SReg
  ch : BitVec 2
  ratem1 : BitVec 5
  dm1 : BitVec 3
  slab : BitVec 4
  bslot : BitVec 3
  dcore : BitVec 11
  port : BitVec 3
  dslot : BitVec 9
  doff : BitVec 13
  stride : BitVec 32
  xslot : BitVec 9
  deriving DecidableEq, Repr

/-- An instruction of an image: one of the loader's own for the sequencer; operation `k` of OPS with handles for its operands, and the
module's loop indices in terms of the hardware loops; or a transfer of the loader's own (a state-save sequence, a copy slot, the
filling of a slot), a COPY or PREFETCH, which moves bits unchanged. -/
inductive PlItem where
  | seq (i : Instr)
  | op (k : Nat) (h : Hdr) (handles : List Handle) (f : PlFill) (idxs : List SymVal)
  | move (h : Hdr) (op : EngineOp)
  deriving DecidableEq, Repr

/-- Tables of a core: instructions in order, descriptors, chains (entry, module chain, first member entry, broadcast-buffer slots),
slots (entry, bytes 0 to 15). Numbers count from the start of the image's ranges for instructions only. -/
structure PlCore where
  core : CoreN
  items : List PlItem
  descs : List PlArg
  chains : List (Nat × Nat × Nat × List (BitVec 3))
  slots : List (Nat × BitVec 128)
  deriving DecidableEq, Repr

/-- A slot that a peer fills: exchange point, earliest and latest arrival in ticks from the segment base (R272, R306). -/
structure PeerSlot where
  core : Nat
  slot : Nat
  point : Nat
  early : Int
  late : Int
  deriving DecidableEq, Repr

/-- The loader's choices for a module. -/
structure Placement where
  cores : List PlCore
  tensors : List PlTensor
  /-- macros of the blocks of a streamed base: matrix, block, macro -/
  macros : List ((Nat × Nat) × Nat)
  peers : List PeerSlot
  /-- ranges, pages and what the image declares to Dill -/
  info : ImgInfo
  deriving DecidableEq, Repr, Inhabited

end Sys2Proof.Machine

/-- The loader's choices for a module over the inputs of R309, given as numbers (log 9). -/
opaque Sys2Proof.Config.placeColxel : Sys2Proof.Machine.Colxel → List Nat → Sys2Proof.Machine.Placement

namespace Sys2Proof.Machine

/-! ### Instructions -/

/-- Chain entry of a core for a chain of the module. -/
def PlCore.chainNo (c : PlCore) (m : Nat) : Nat := ((c.chains.find? fun x => x.2.1 == m).map (·.1)).getD 0

/-- The loader's fields put into an operation of the module; NUMERICS 0 gives every AMM MODE 1 (R320). -/
def fillOp (op : EngineOp) (hs : List Handle) (f : PlFill) (chain : BitVec 9) (macroIx : BitVec 10) (n0 : Bool) : EngineOp :=
  let h (i : Nat) : Handle := hs.getD i 0
  let r (i : Nat) : SReg := f.regs.getD i 0
  match op with
  | .cbuf g => .cbuf { g with slab := f.slab, bslot := f.bslot, src := h 0, exp := h 1 }
  | .cfwd g => .cfwd { g with chain := chain, dst := h 0 }
  | .ctrn g => .ctrn { g with chain := chain, dst := h 0 }
  | .cload g => .cload { g with macroIx := macroIx, src := h 0, scl := h 1 }
  | .amm g => .amm { g with mode := g.mode || n0, a := h 0, b := h 1, c := h 2, y := h 3, ps := h 4, alpha := r 0, tid := r 1, step := r 2 }
  | .varith g => .varith (elem g h r)
  | .vfunc g => .vfunc (elem g h r)
  | .vlogic g => .vlogic (elem g h r)
  | .vcvt g => .vcvt (elem g h r)
  | .vred g => .vred { g with d := h 0, a := h 1, i := h 2, ib := r 0 }
  | .vtopk g => .vtopk { g with d := h 0, a := h 1, i := h 2, ib := r 0 }
  | .vsplit g => .vsplit { g with d := h 0, a := h 1, init := h 2, ai := h 3, di := h 4, cnt := r 0 }
  | .vupd g => .vupd { g with g := h 0, w := h 1, m := h 2, v := h 3, hp := h 4, s := h 5, n := r 0, res := r 1, tid := r 2, step := r 3 }
  | .copy _ => .copy ⟨f.ch, f.ratem1, h 0, h 1⟩
  | .gather _ => .gather ⟨f.ch, f.ratem1, h 0, h 1⟩
  | .scatter _ => .scatter ⟨f.ch, f.ratem1, h 0, h 1⟩
  | .prefetch _ => .prefetch ⟨f.ch, f.ratem1, f.dm1, h 0, h 1, f.stride⟩
  | .commit _ => .commit ⟨f.ch, f.ratem1, h 0⟩
  | .xsend g => .xsend { g with src := h 0, dcore := f.dcore, port := f.port, dslot := f.dslot, doff := f.doff }
  | .xlate g => .xlate { g with slot := f.xslot }
  | .ringFetch g j => .ringFetch g j
where
  /-- element-wise operands -/
  elem (g : ElemF) (h : Nat → Handle) (r : Nat → SReg) : ElemF :=
    { g with d := h 0, a := h 1, b := h 2, c := h 3, tid := r 0, step := r 1, ss := r 2 }

/-- Macro of a block: by the base layout, or by the loader's choice for a streamed base. -/
def blockMacro (x : Colxel) (pl : Placement) (layout : List Block1) (base : List Nat) (m b : Nat) : Option Nat :=
  match pl.macros.find? fun z => z.1 == (m, b) with
  | some z => some z.2
  | none => (x.matrices[m]?).bind fun mx => macroOf layout base mx b

/-- The engine operation of an item of a core. -/
def itemOp (x : Colxel) (pl : Placement) (layout : List Block1) (base : List Nat) (n0 : Bool) (c : PlCore) (k : Nat) (hs : List Handle)
    (f : PlFill) : Option EngineOp :=
  (x.ops[k]?).map fun o =>
    fillOp o.op hs f (BitVec.ofNat 9 (c.chainNo o.chain))
      (BitVec.ofNat 10 ((blockMacro x pl layout base o.block.1 o.block.2).getD 0 % 1024)) n0

/-- Word of an item; a command that is no Avman instruction has none. -/
def itemWord (x : Colxel) (pl : Placement) (layout : List Block1) (base : List Nat) (n0 : Bool) (c : PlCore) : PlItem → Option (BitVec 128)
  | .seq i => if (engineOf i).isSome then none else encodeWord i
  | .op k h hs f _ => (itemOp x pl layout base n0 c k hs f).map (encodeOp h)
  | .move h (.copy f) => some (encodeOp h (.copy f))
  | .move h (.prefetch f) => some (encodeOp h (.prefetch f))
  | .move _ _ => none

/-! ### Descriptors -/

/-- A number at bit `lo` of a descriptor, `n` bits wide. -/
def dput (lo n v : Nat) : BitVec 512 := BitVec.ofNat 512 (v % 2 ^ n * 2 ^ lo)

/-- Bytes from one element, row, … to the next along dimension k, in steps of 64 elements where the layout is blocked (R231). -/
def stepBytes1 (t : PlTensor) (bits : Nat) (k : Nat) (n : Int) : Int :=
  if t.blocked then (if k < 2 then n / 64 else n) * (t.strides.getD k 0 : Nat)
  else if k = 0 then n * (bits : Nat) / 8 else n * (t.strides.getD k 0 : Nat)

/-- Coefficient of a hardware level in an index. -/
def SymVal.coef (v : SymVal) (lvl : Nat) : Nat := ((v.loops.filter fun x => x.1 == lvl).map (·.2)).sum

/-- Byte address of the operand with every index of the hardware loops 0, and its byte step per iteration of each level. -/
def argAddr (a : CxArg) (t : PlTensor) (p : PlArg) (bits : Nat) : Int × (Nat → Int) :=
  let dim (f : SymVal → Nat) (k : Nat) : Int := (a.iters.map fun i => i.2.getD k 0 * Int.ofNat (f (p.idxs.getD i.1 ⟨0, [], [], 0⟩))).sum
  let at0 (k : Nat) : Int := Int.ofNat (a.at_.getD k 0) + dim (·.const) k
  (Int.ofNat t.base.toNat + ((List.range 5).map fun k => stepBytes1 t bits k (at0 k)).sum,
   fun l => ((List.range 5).map fun k => stepBytes1 t bits k (dim (·.coef l) k)).sum)

/-- Iteration terms: level and step in 64-byte units of every level with a step (Table 7-2). -/
def iterWords (step : Nat → Int) : List Nat :=
  ((List.range 4).filter fun l => step l != 0).map fun l => l * 2 ^ 30 + ((step l / 64) % 2 ^ 30).toNat

/-- Can the steps be written: at most two levels, each a multiple of 64 bytes? -/
def itersFit (step : Nat → Int) : Bool :=
  decide ((iterWords step).length ≤ 2) && (List.range 4).all fun l => step l % 64 == 0

/-- Code of a block length (Table 7-2). -/
def blockCode (n : Nat) : Nat := match n with | 16 => 0 | 32 => 1 | 64 => 2 | _ => 3

/-- Handle of an operand on a core with the same loop indices as `p`. -/
def PlCore.handleOf (c : PlCore) (p : PlArg) (a : Option Nat) : Nat :=
  match a with
  | none => 0
  | some a => ((c.descs.find? fun q => q.arg == a && q.idxs == p.idxs).map (·.handle.toNat)).getD 0

/-- Rights that the operations of a core need of a handle: read, write, index stream, COMMIT source (Table 7-2). -/
def rightsOf (ops : List EngineOp) (c : PlCore) (x : Colxel) (h : Handle) : Nat :=
  let us := ops.flatMap uses
  let has (u : Use) : Bool := us.any fun z => z.1 == h && z.2.1 == u
  -- operands reached through another descriptor: scale codes and index streams
  let via (f : CxArg → Option Nat) : List PlArg :=
    c.descs.filter fun q => match x.args[q.arg]? with | none => false | some a => c.handleOf q (f a) == h.toNat
  let ammDst : List Handle := ops.filterMap fun o => match o with | .amm f => if f.acc = 2 then none else some f.c | _ => none
  let scales := via (·.scale)
  (if has .read || !scales.isEmpty || !(via (·.index)).isEmpty then 1 else 0) +
    (if has .write || scales.any (fun q => ammDst.contains q.handle) then 2 else 0) + (if (via (·.index)).isEmpty then 0 else 4) +
    (if has .commitSrc then 8 else 0)

/-- The descriptor of an operand (Table 7-2): format, extents, block length and context tag are the module's. -/
def descWord (x : Colxel) (pl : Placement) (c : PlCore) (ops : List EngineOp) (p : PlArg) : Option (BitVec 512) :=
  match x.args[p.arg]? with
  | none => none
  | some a =>
    match x.tensorOf a, pl.tensors[p.place]? with
    | some z, some t =>
      let bits := ((Fmt.ofCode z.fmt).getD .fp32).bits
      let ad := argAddr a t p bits
      let len := ((x.args.find? fun b => b.scale == some p.arg).bind x.tensorOf).map (·.block)
      if ad.1 < 0 ∨ itersFit ad.2 = false ∨ t.tensor ≠ a.tensor ∨ (t.tier ≠ z.tier.code ∧ t.tier ≠ 1) then none
      else some (dput 0 4 t.tier ||| dput 4 4 z.fmt ||| dput 8 4 (rightsOf ops c x p.handle) ||| dput 12 4 p.ring.toNat |||
        dput 16 2 p.ringLevel.toNat ||| dput 18 3 t.port.toNat ||| dput 21 1 (if t.blocked then 1 else 0) |||
        dput 22 2 (match len with | none => 0 | some n => blockCode n) ||| dput 24 40 ad.1.toNat |||
        (List.range 5).foldl (fun w k => w ||| dput (64 + 32 * k) 32 (a.dims.getD k 1) ||| dput (224 + 32 * k) 32 (t.strides.getD k 0)) 0 |||
        dput 384 12 (c.handleOf p a.scale) ||| dput 400 12 (c.handleOf p a.index) ||| dput 416 16 z.ctx.toNat |||
        dput 432 9 t.slot.toNat ||| dput 448 32 ((iterWords ad.2).getD 0 0) ||| dput 480 32 ((iterWords ad.2).getD 1 0))
    | _, _ => none

/-! ### Chains and the whole image -/

/-- Entry and members of a chain on a core (Table 7-6), its members in the module's order (R67); none where a block of it has no macro of
this core (R72). -/
def chainWords (x : Colxel) (pl : Placement) (layout : List Block1) (base : List Nat) (c : PlCore) (e : Nat × Nat × Nat × List (BitVec 3)) :
    Option (List TableWrite) :=
  match x.chains[e.2.1]? with
  | none => none
  | some ch =>
    match x.matrices[ch.matrix]?, ch.blocks.mapM fun b => blockMacro x pl layout base ch.matrix b with
    | some m, some ms =>
      if ms.all fun z => z / 1024 == c.core.val then
        some (.chain c.core.val e.1 (BitVec.ofNat 32 (e.2.2.1 % 2 ^ 11 + ms.length % 2 ^ 10 * 2 ^ 11 +
            (match m.mode with | .w1 => 1 | .w2 => 2 | .w4 => 3) * 2 ^ 21)) ::
          ms.zipIdx.map fun z => .member c.core.val (e.2.2.1 + z.2) (BitVec.ofNat 16 (z.1 % 1024 + (e.2.2.2.getD z.2 0).toNat * 2 ^ 10)))
      else none
    | _, _ => none

/-- Slot word of a core: a pipe-lane slot has the window (0, 0) at LEVEL 4 (R390), any other the loader's. -/
def slotWord (pl : Placement) (c : Nat) (t : Nat × BitVec 128) : BitVec 128 :=
  if pl.info.lanes.any fun l => l.2 == (c, t.1) then t.2 &&& 0xFFFF#128 ||| 0x40000#128 else t.2

/-- Tables of one core; none where an item, descriptor or chain of the loader's choice has no word. -/
def coreTables (x : Colxel) (pl : Placement) (layout : List Block1) (base : List Nat) (n0 : Bool) (c : PlCore) : Option (List TableWrite) :=
  let ops := c.items.filterMap fun i => match i with
    | .op k _ hs f _ => itemOp x pl layout base n0 c k hs f
    | .move _ o => some o
    | .seq _ => none
  match c.items.mapM (itemWord x pl layout base n0 c), c.descs.mapM (descWord x pl c ops),
      c.chains.mapM (chainWords x pl layout base c) with
  | some ws, some ds, some cs =>
    some (ws.zipIdx.map (fun w => .imem c.core.val (pl.info.imemFirst + w.2) w.1) ++
      (c.descs.zip ds).map (fun d => .desc c.core.val d.1.handle.toNat d.2) ++ cs.flatten ++
      c.slots.map fun t => .slot c.core.val t.1 (slotWord pl c.core.val t))
  | _, _, _ => none

/-- Tables of the image. -/
def imageTables (x : Colxel) (pl : Placement) (layout : List Block1) (base : List Nat) (n0 : Bool) : Option (List TableWrite) :=
  (pl.cores.mapM (coreTables x pl layout base n0)).map List.flatten

end Sys2Proof.Machine
end

