-- ==== Sys2Proof/Machine/Tables.lean ====
section
/-! DEFINITION. What the loader writes: table entries, macros from their source copies, the tables of an image and its pages
(R81, R188, R189, R217, R239, R275, R307 step 6, R315, R317). -/

namespace Sys2Proof.Machine

/-- Bytes 0 to 15 of a slot entry as the loader wrote them (Table 8-4). -/
def SlotE.loaded (e : SlotE) : Nat :=
  (e.start.toNat + e.lenM1.toNat * 2 ^ 9 + e.level.toNat * 2 ^ 16) +
  (e.earlyCyc.toNat + e.earlyTick.toNat * 2 ^ 5) * 2 ^ 32 + (e.lateCyc.toNat + e.lateTick.toNat * 2 ^ 5) * 2 ^ 64
/-- Slot entry from bytes 0 to 15, with the invalid stamp (R275). -/
def SlotE.ofLoaded (v : BitVec 128) : SlotE :=
  { SlotE.fresh with start := v.extractLsb' 0 9, lenM1 := v.extractLsb' 9 7, level := v.extractLsb' 16 3,
                     earlyCyc := v.extractLsb' 32 5, earlyTick := v.extractLsb' 37 16, lateCyc := v.extractLsb' 64 5,
                     lateTick := v.extractLsb' 69 16 }

/-- A table entry written; a number outside its table names no entry (R217, R229, R239, R274). -/
def writeTable (s : State) (w : TableWrite) : State :=
  match w with
  | .imem c a v => if a < 16384 then s.modCore c fun k => { k with imem := sput endWord k.imem a v } else s
  | .desc c i v => if i < 4096 then s.modCore c fun k => { k with desc := sput 0 k.desc i v } else s
  | .chain c i v => if i < 512 then s.modCore c fun k => { k with chain := sput 0 k.chain i v } else s
  | .member c i v => if i < 2048 then s.modCore c fun k => { k with member := sput 0 k.member i v } else s
  | .slot c i v => if i < 512 then s.modCore c fun k => { k with slots := sput SlotE.fresh k.slots i (SlotE.ofLoaded v) } else s

/-! ### Macros -/

/-- Is a byte of an image of `n` bytes at `a` in a burst that was delivered as received? -/
def burstIn (recv : List (Nat × List Byte)) (a n : Nat) : Bool := recv.any fun x => decide (a ≤ x.1 + 63) && decide (x.1 < a + n)

/-- Every row and scale code of a macro written from its source copy (R81); a row that came from a burst delivered as received leaves
the macro suspect (R190). -/
def fillMacro (s : State) (m : Nat) (mode : WMode) (guard : Bool) (src : MacroSrc) (recv : List (Nat × List Byte)) : State :=
  let image := (bread (overlay s recv).stack src.image 16384).map (·.toNat)
  let codes := (bread (overlay s recv).stack src.scale 256).map (·.toNat)
  let s := (List.range 256).foldl (fun s r =>
    writeRow s m r mode guard ((image.drop (64 * r)).take 64) (some codes) s.tick) s
  if burstIn recv src.image 16384 || burstIn recv src.scale 256 then s.modMacro m fun x => x.suspectAs .parity (s.tick + 1) else s

/-- Pages that hold the source copy of a macro. -/
def MacroSrc.pages (x : MacroSrc) : List Nat :=
  [x.image / 65536, (x.image + 16383) / 65536, x.scale / 65536, (x.scale + 255) / 65536].eraseDups

/-- Source copy of a block for partition p. -/
def Block1.src (b : Block1) (p : Nat) : MacroSrc := ⟨b.image, b.scale, p⟩

/-- A block of a layout loaded into its macro from the FROZEN source copy (R177, R307). -/
def loadBlock (s : State) (p : Nat) (guard : Bool) (b : Block1) (recv : List (Nat × List Byte)) : State :=
  let s := s.modMacro b.macroIx fun x =>
    { x with mode := some b.mode, rows := 0, suspect := none, reloadSweep := none, parityHit := false }
  (fillMacro s b.macroIx b.mode guard (b.src p) recv).modMacro b.macroIx fun x => { x with src := some (b.src p) }

/-- May the loader read a block: a macro of the map (R84), and a source copy in FROZEN pages of the partition? -/
def blockReady (s : State) (p : Nat) (b : Block1) : Bool :=
  !(s.macro1 b.macroIx).bad && (b.src p).pages.all fun g => attrOf (s.page g).v == .frozen && ownerOf (s.page g).v == some p

/-- The whole layout loaded. -/
def loadLayout (s : State) (p : Nat) (guard : Bool) (bs : List Block1) (recv : List (Nat × List Byte)) : State :=
  bs.foldl (fun s b => if blockReady s p b then loadBlock s p guard b recv else s) s

/-! ### Images -/

/-- Ticks of a load window: ceil(B / 64) cycles in whole ticks, plus 2 (R317). -/
def windowTicks (largest : Nat) : Nat := ((largest + 63) / 64 + 31) / 32 + 2

/-- Attribute of a region that a load allocates. -/
def regionAttr (c : Nat) : Attr := match c with | 5 => .state | 6 => .buddy | _ => .mutable

/-- Regions of an image allocated: its pages become MUTABLE, STATE or BUDDY (R188). -/
def takeRegions (s : State) (p : Nat) (ps : List (Nat × Nat)) : State :=
  ps.foldl (fun s x => setAttr s (regionAttr x.2) (some p) 0xFFFF x.1) s

/-- Tables of an image and, for a new layout, its macros are written; Mint counters start anew (R170), a guarded setting and
MINT_CTRL.ENABLE take effect (R100, R175). The image keeps its registers' record until its load completes. -/
def writeImageTables (s : State) (p i : Nat) (t : Translation) (newLayout guard : Bool) (recv : List (Nat × List Byte)) : State :=
  let s := t.tables.foldl writeTable s
  let s := if newLayout then loadLayout s p guard t.layout recv else s
  let s := modList s t.info.cores fun k =>
    { k with saved := smod SeqCtx.fresh k.saved i fun x => { x with mint := 0 } }
  s.modPart p fun q =>
    { q with
      layout := if newLayout then t.layout else q.layout
      layoutFrom := if newLayout then t.info.source else q.layoutFrom
      weights := if newLayout then t.info.weights else q.weights
      integ := { q.integ with guardOn := guard, loadDone := if newLayout then s.tick else q.integ.loadDone }
      mint := { q.mint with enableOn := q.mint.enable } }

/-- Step 6 for image i: its old range and pages go, its regions are allocated, its tables written. -/
def writeImage (s : State) (p i : Nat) (t : Translation) (newLayout guard : Bool) (recv : List (Nat × List Byte)) : State :=
  let s := takeRegions (dropImage s p i ((s.part p).image i).last) p t.info.pages
  (writeImageTables s p i t newLayout guard recv).modPart p fun q => q.modImg i fun g => { g with st := .loading }

end Sys2Proof.Machine
end

