-- ==== Sys2Proof/Machine/Trial.lean ====
section
/-! DEFINITION. The trial of a schedule: a run of the translated image on a copy of the state, by the operations that run it, with every
runtime count at its bound and every landing at its latest (R307 step 4, R310). The loader verifies its own schedule from what the
trial meets; nothing of the copy remains. -/

namespace Sys2Proof.Machine

/-- A breach found: check of Table 9-4, operation of OPS if one is at fault, core, time in active cycles. -/
structure Breach where
  check : Nat
  op : Option Nat
  core : Option Nat
  at_ : Nat
  deriving DecidableEq, Repr

/-- A launch of the trial: core, operation with the module's loop indices (none for a transfer of the loader's own), ring fetch number,
launch and latest landing, segment base, whether the landing is exact, port and bytes of an XSEND to a peer, STATE pages that it
writes, and the STATE page of a copy slot with the tick in which its last burst issues (R395). -/
structure Flight where
  core : Nat
  op : Option (Nat × List Nat)
  fetch : Option Nat
  at_ : Nat
  land : Nat
  seg : Nat
  exact : Bool
  peer : Option (Nat × Nat)
  states : List Nat
  slot : Option (Nat × Nat)
  deriving DecidableEq, Repr

/-- A trial in progress. -/
structure Trial where
  st : State
  flights : List Flight
  acts : List (Nat × Act)
  breaches : List Breach
  /-- tile boundaries: time, cores -/
  tiles : List (Nat × List Nat)
  /-- segment bases, newest first, and the DSTEP addresses at which the cores waited -/
  posts : List (Nat × List (BitVec 14))
  /-- scheduled bursts: channel, tick -/
  bursts : List (Nat × Nat)
  /-- last stamp of each queue: core, queue, time -/
  stamps : List (Nat × Nat × Nat)
  /-- result registers written since the last WAITQ to depth 0 on the vector queue: core, register (R224) -/
  dirty : List (Nat × SReg)
  /-- ticks that save and restore sequences took -/
  saveT : Nat
  restoreT : Nat
  deriving DecidableEq, Repr

/-- What a trial is about: partition, image, module, choices, bounds of s24 to s31, the boundary at which the job yields, if any. -/
structure TrialOf where
  p : Nat
  i : Nat
  x : Colxel
  pl : Placement
  regs : List Nat
  yieldAt : Option Nat
  deriving DecidableEq, Repr

/-! ### The image's items -/

/-- Choices for a core. -/
def TrialOf.coreOf (z : TrialOf) (c : Nat) : Option PlCore := z.pl.cores.find? fun k => k.core.val == c
/-- Item at an instruction address. -/
def TrialOf.itemAt (z : TrialOf) (c : Nat) (pc : BitVec 14) : Option PlItem :=
  (z.coreOf c).bind fun k => if pc.toNat < z.pl.info.imemFirst then none else k.items[pc.toNat - z.pl.info.imemFirst]?
/-- Operation of OPS at an address. -/
def TrialOf.opAt (z : TrialOf) (c : Nat) (pc : BitVec 14) : Option Nat :=
  match z.itemAt c pc with
  | some (.op k _ _ _ _) => some k
  | _ => none
/-- The module's loop indices at an item, from the hardware loops' indices. -/
def itemIdxs (idxs : List SymVal) (loops : List LoopLvl) : List Nat := idxs.map fun v => v.eval [] (loops.map (·.idx)) 0

/-! ### What the trial notes -/

/-- A breach noted. -/
def Trial.note (r : Trial) (check : Nat) (op core : Option Nat) (at_ : Nat) : Trial :=
  { r with breaches := r.breaches ++ [⟨check, op, core, at_⟩] }
/-- Noted where a condition fails. -/
def Trial.demand (r : Trial) (ok : Bool) (check : Nat) (op core : Option Nat) (at_ : Nat) : Trial :=
  if ok then r else r.note check op core at_

/-- Check that a fault of a core stands for (Table 9-4): late launches and queues not empty at a TILE 7; slab conflicts, row writes
during a burst, drains 8; reserved opcodes and nesting 6; descriptors 5; windows 9; refusals at launch by their status. -/
def checkOfFault (f : CoreFault) : Nat :=
  match f.cause.toNat with
  | 0 | 1 => 7
  | 2 | 6 => 8
  | 3 => 6
  | 4 => 5
  | 5 => 9
  | _ => if f.status = St.badFormat then 3 else if f.status = St.badHandle then 5 else 8

/-- Faults of the cores moved into the trial's list; the copied job goes on. -/
def Trial.collect (z : TrialOf) (r : Trial) : Trial :=
  let hit := r.st.cores.filter fun e => e.2.fault.valid
  let r := hit.foldl (fun (r : Trial) e =>
    r.note (checkOfFault e.2.fault) (z.opAt e.1 e.2.fault.pc) (some e.1) (e.2.fault.actTick.toNat * 32 + e.2.fault.actCyc.toNat)) r
  let s := (hit.map (·.1)).foldl (fun s c => s.modCore c fun k => { k with fault := { k.fault with valid := false } }) r.st
  { r with st := (s.modGov fun g => { g with faultValid := false }).modPart z.p fun q => { q with stop := none } }

/-! ### Launches -/

/-- Scratchpad views that a launch reads. -/
def slotReads (n : Env) : List View := (opViews n).1.filter fun v => v.d.tier == 1

/-- Slots that come from outside the module's own engines: those that peers fill, lanes, exchange and broadcast slots, and the slots that
Dill fills before a step (R198, R272, R362, R377, R403). -/
def outsideSlots (z : TrialOf) (k : Core) (c : Nat) : List Nat :=
  let x := z.pl.info
  let of (l : List (Nat × Nat)) : List Nat := (l.filter fun y => y.1 == c).map (·.2)
  of (z.pl.peers.map fun y => (y.core, y.slot)) ++ of (x.lanes.map fun y => (y.2.1, y.2.2)) ++ of x.serve.exSlots.flatten ++ of x.serve.bcast ++
    ((k.slots.filter fun e => decide (e.2.base ≤ x.serve.stepAddr) && decide (x.serve.stepAddr < e.2.base + e.2.len)).map (·.1))

/-- Data from outside arrives at the latest edge of the window of the slot that the launch reads. -/
def fillOutside (z : TrialOf) (s : State) (n : Env) : State :=
  let out := outsideSlots z n.k n.c
  (slotReads n).foldl (fun s v =>
    if out.contains v.slot then s.modCore n.c fun k =>
      let e := k.slot v.slot
      match e.window n.e.loops n.e.segBase with
      | none => k
      | some (_, hi) => { k with slots := sput SlotE.fresh k.slots v.slot { e with arrTick := BitVec.ofNat 64 (hi.toNat / 32),
                                                                                   arrCyc := BitVec.ofNat 5 (hi.toNat % 32), absent := false } }
    else s) s

/-- Pages that a launch reads through the cache are resident. -/
def warmCache (s : State) (n : Env) : State :=
  let ws := maskList 32 n.ways
  (((opViews n).1.filter fun v => v.d.tier == 3).flatMap fun v => v.pagesOf v.rows).foldl (fun s g =>
    match lookup s n.ways g with
    | some _ => s
    | none =>
      let w := (ws.find? fun w => (sget none s.lines (lineIx (setOf g) w)).isNone).getD (ws.headD 0)
      { s with lines := sput none s.lines (lineIx (setOf g) w) (some ⟨g, 0⟩) }) s

/-- The slot as one that a peer fills. -/
def TrialOf.peer (z : TrialOf) (c slot : Nat) : Option PeerSlot := z.pl.peers.find? fun y => y.core == c && y.slot == slot

/-- Windows of the slots a launch reads (R272, R276, R277): the latest arrival is earlier than the read; a slot that a peer fills is
widened by one tick at each end and lies at least 4 ticks before the reader; LEVEL 7 is for partial slots alone. -/
def windowsOk (z : TrialOf) (n : Env) : Bool :=
  (slotReads n).all fun v =>
    let e := n.k.slot v.slot
    if e.level = 7 then
      (match n.e.op with | .amm f => v == n.view f.ps | _ => false)
    else
      match e.window n.e.loops n.e.segBase with
      | none => false
      | some (lo, hi) =>
        decide (hi < (n.t : Int)) &&
        (match z.peer n.c v.slot with
         | none => true
         | some y => decide (lo ≤ 32 * ((n.e.segBase : Int) + y.early - 1)) && decide (32 * ((n.e.segBase : Int) + y.late + 1) ≤ hi) &&
             decide (hi + 4 * 32 ≤ (n.t : Int)))

/-- Reads of data from a peer lie at or after its exchange point (R306). -/
def exchangeReads (z : TrialOf) (n : Env) : Bool :=
  (slotReads n).all fun v =>
    match z.peer n.c v.slot with
    | none => true
    | some y => decide (32 * (n.e.segBase + z.x.exchanges.getD y.point 0) ≤ n.t)

/-- Slots that an exact landing stamps have windows of one cycle (R276). -/
def exactOk (n : Env) (l : Launched) : Bool :=
  l.early != l.land || (destSlots n).all fun i =>
    let e := n.k.slot i
    e.level == 7 || (e.earlyCyc == e.lateCyc && e.earlyTick == e.lateTick)

/-- Register operands hold the values that the module gives (R302). -/
def valuesOk (z : TrialOf) (k : Nat) (e : QEntry) (idxs : List Nat) : Bool :=
  match z.x.ops[k]? with
  | none => false
  | some o => (o.vals.zip e.regs).all fun y =>
      match y.1 with
      | none => true
      | some v => v.eval z.regs idxs 0 == y.2.2.toNat

/-- Every member of a chain is fed by the CBUF of the module that feeds it (R241, R302). -/
def feedsOk (z : TrialOf) (r : Trial) (n : Env) (k : Nat) (idxs : List Nat) : Bool :=
  match n.e.op, z.x.ops[k]? with
  | .cfwd f, some o | .ctrn f, some o =>
    ((n.k.membersOf f.chain.toNat).zip o.feeds).all fun y =>
      match n.k.blockAt (y.1.1 / 64) y.1.2 n.t with
      | none => false
      | some b => r.flights.any fun g => g.core == n.c && g.at_ + 3 == b.at_ &&
          (match g.op with | none => false | some (j, is) => j == y.2 && is.isPrefixOf idxs)
  | _, _ => true

/-- Bursts that a transfer places on the stack channels: burst j in tick T + j / RATE (R201), at the channel of its elements. -/
def placedBursts (n : Env) : List (Nat × Nat) :=
  match chiveOf n.e.op with
  | none => []
  | some (_, rate) =>
    let (rs, ws) := opViews n
    (rs ++ ws).flatMap fun v =>
      if v.d.tier = 2 then (List.range (bursts v.bytes)).map fun j =>
        (chanOf ((v.elemAddr (j * 512 / v.d.fmt.bits)).1.toNat / 65536), n.t / 32 + j / rate)
      else []

/-- A launch on queue q of core c, noted with what the checks ask of it. -/
def Trial.launch (z : TrialOf) (r : Trial) (c q : Nat) : Trial :=
  match nextLaunch (r.st.core c) q with
  | none => r
  | some e =>
    let t := dueTime r.st c z.p e
    let s := settleCore (r.st.advance t) c z.p t
    let n : Env := ⟨s, c, s.core c, z.p, (s.part z.p).live.ways.v, e, t⟩
    let s := warmCache (fillOutside z s n) n
    let n : Env := { n with s := s, k := s.core c }
    let s' := launchQ s c q []
    let op : Option (Nat × List Nat) := match z.itemAt c e.pc with
      | some (.op k _ _ _ idxs) => some (k, itemIdxs idxs e.loops)
      | _ => none
    let fetch : Option Nat := match e.op with | .ringFetch _ j => some j | _ => none
    match (((s'.core c).queues.flatMap (·.2)).find? fun y => y.serial == e.serial).bind (·.launched) with
    | none => { r with st := s' }
    | some l =>
      let k? := op.map (·.1)
      let peer : Option (Nat × Nat) := match e.op with
        | .xsend f => (match sendTo n f with | .port pt => some (pt, (n.view f.src).bytes) | _ => none)
        | _ => none
      let states : List Nat := (((opViews n).2.filter fun v => v.d.tier == 2).flatMap fun v => v.pages).filter fun g =>
        attrOf (n.s.page g).v == .state
      let slot : Option (Nat × Nat) := (copySlot n).map fun g => (g, t / 32 + 1023 / ((chiveOf e.op).map (·.2)).getD 1)
      let mine : List (Nat × Act) := ((s'.core c).acts.filter fun a => a.owner == e.serial).map fun a => (c, a)
      let r : Trial := { r with
        st := s', bursts := r.bursts ++ placedBursts n, acts := r.acts ++ mine,
        flights := r.flights ++ [⟨c, op, fetch, t, l.land, e.segBase, l.early == l.land, peer, states, slot⟩] }
      let r : Trial := ((r.demand (windowsOk z n) 9 k? (some c) t).demand (exactOk n l) 9 k? (some c) t).demand
        (exchangeReads z n) 13 k? (some c) t
      -- R208: a fetch issues at its iteration's start and lands by the start of the iteration that reads it
      let r := match e.op, e.loops.getLast? with
        | .ringFetch _ j, some lv =>
          r.demand (e.stamp == some t && decide (l.land < 32 * (lv.start + j * lv.period))) 10 k? (some c) t
        | _, _ => r
      match op with
      | none => r
      | some (k, idxs) => (r.demand (valuesOk z k e idxs) 3 k? (some c) t).demand (feedsOk z r n k idxs) 8 k? (some c) t

/-! ### Issue -/

/-- Scalar registers that an instruction reads. -/
def readsOf (i : Instr) : List SReg :=
  match i with
  | .loop _ _ cnt _ _ => [cnt]
  | .sadd _ _ a b | .ssub _ _ a b | .smul _ _ a b | .sand _ _ a b | .sor _ _ a b | .sxor _ _ a b | .sshl _ _ a b | .sshr _ _ a b
  | .smin _ _ a b | .smax _ _ a b => [a, b]
  | .saddi _ _ a _ | .sld _ _ a _ => [a]
  | .sst _ d a _ => [d, a]
  | i => match engineOf i with
    | some (_, .vsplit _) => []
    | some (_, .vupd f) => [f.n, f.tid, f.step]
    | some (_, op) => opRegs op
    | none => []

/-- Result register that an instruction writes when it completes (R146, R168). -/
def resultReg (i : Instr) : Option SReg :=
  match i with
  | .vsplit _ _ f => if f.cnt = 0 then none else some f.cnt
  | .vupd _ _ f => if f.res = 0 then none else some f.res
  | _ => none

/-- The state after a meaning that answers a next state. -/
def nextOf (s : State) (o : Host.Outcome State Fault Refusal) : State := match o with | .next t => t | _ => s

/-- Issue of an instruction of a core, by its meaning. -/
def issueInstr (s : State) (i : Instr) : State :=
  match i with
  | .nop c => nextOf s (execNop c s)
  | .endJob c => nextOf s (execEndJob c s)
  | .loop c h cnt last period => loopAt s c h cnt last period
  | .tile c h save resume => nextOf s (execTile c h save resume s)
  | .budget c h q span => budgetAt s c h q span
  | .waitq c queue depth => nextOf s (execWaitq c queue depth s)
  | .dstep c => nextOf s (execDstep c s)
  | .sli c d imm => nextOf s (execSli c d imm s)
  | .sadd c d a b => nextOf s (execSadd c d a b s)
  | .saddi c d a imm => nextOf s (execSaddi c d a imm s)
  | .ssub c d a b => nextOf s (execSsub c d a b s)
  | .smul c d a b => nextOf s (execSmul c d a b s)
  | .sand c d a b => nextOf s (execSand c d a b s)
  | .sor c d a b => nextOf s (execSor c d a b s)
  | .sxor c d a b => nextOf s (execSxor c d a b s)
  | .sshl c d a b => nextOf s (execSshl c d a b s)
  | .sshr c d a b => nextOf s (execSshr c d a b s)
  | .smin c d a b => nextOf s (execSmin c d a b s)
  | .smax c d a b => nextOf s (execSmax c d a b s)
  | .sld c d a imm => nextOf s (execSld c d a imm s)
  | .sst c d a imm => nextOf s (execSst c d a imm s)
  | .sidx c d level => nextOf s (execSidx c d level s)
  | .sfeat c d index => nextOf s (execSfeat c d index s)
  | .reservedOpcode c => haltCore s c
  | .prefetch c h f => nextOf s (execPrefetch c h f s)
  | .cbuf c _ _ | .cfwd c _ _ | .ctrn c _ _ | .cload c _ _ | .amm c _ _ | .varith c _ _ | .vfunc c _ _ | .vlogic c _ _ | .vcvt c _ _
  | .vred c _ _ | .vtopk c _ _ | .vsplit c _ _ | .vupd c _ _ | .copy c _ _ | .gather c _ _ | .scatter c _ _ | .commit c _ _
  | .xsend c _ _ | .xlate c _ _ =>
    match engineOf i with
    | some (h, op) => issueEngine s c h op
    | none => s
  | _ => s

/-- The instruction that a core issues next. -/
def nextInstr (s : State) (c : CoreN) : Instr := decodeWord c (sget endWord (s.core c.val).imem (s.core c.val).pc.toNat)

/-- Does issue stall: a full queue, or an unmet WAITQ (R219)? -/
def stalls (k : Core) (i : Instr) : Bool :=
  match i with
  | .waitq _ q d => decide (q.toNat < 5) && decide (d.toNat < k.depth q.toNat)
  | i => match engineOf i with
    | some (_, op) => decide (queueCap (opQueue op) ≤ k.depth (opQueue op))
    | none => false

/-- Last stamp issued to a queue; 0 before the first. -/
def Trial.lastStamp (r : Trial) (c q : Nat) : Nat :=
  match r.stamps.find? fun y => y.1 == c && y.2.1 == q with
  | none => 0
  | some y => y.2.2

/-- Issue of the next instruction of a core; stamps of one queue do not decrease (R223), result registers are read after a WAITQ
(R224), words are well formed (R233, R235). -/
def Trial.issue (z : TrialOf) (r : Trial) (c : CoreN) : Trial :=
  let k := r.st.core c.val
  let w := sget endWord k.imem k.pc.toNat
  let i := nextInstr r.st c
  let t := issueTime r.st c.val
  let op := z.opAt c.val k.pc
  let r : Trial := r.demand (wordOk w) 3 op (some c.val) t
  let r := r.demand ((readsOf i).all fun x => !r.dirty.contains (c.val, x)) 7 op (some c.val) t
  let r := match engineOf i with
    | some (h, o) =>
      if h.s then
        let q := opQueue o
        let last : Nat := r.lastStamp c.val q
        let r := r.demand (decide (last ≤ k.stamp h)) 7 op (some c.val) t
        { r with stamps := (c.val, q, k.stamp h) :: r.stamps }
      else r
    | none => r
  let r := match i with
    | .waitq _ q d => if q = 2 ∧ d = 0 then { r with dirty := r.dirty.filter fun y => y.1 != c.val } else r
    | i => match resultReg i with
      | some x => { r with dirty := (c.val, x) :: r.dirty }
      | none => r
  { r with st := issueInstr r.st i }

/-! ### Order of events -/

/-- What the trial does next. -/
inductive TrialAct where
  | complete (c q : Nat) | commitDone (c : Nat) | launch (c q : Nat) | iterate (c : Nat) | issue (c : CoreN) | resume (c : Nat)
  | boundary | yield | restart | restored
  deriving DecidableEq, Repr

/-- Events that core c is ready for: time, place in the order of one cycle, event. -/
def coreActs (s : State) (c : CoreN) : List (Nat × Nat × TrialAct) :=
  let k := s.core c.val
  ((List.range 5).filterMap fun q => (nextLanding k q).map fun e => (e.2.land, 0, TrialAct.complete c.val q)) ++
  (((k.queue 3).filterMap fun e => match e.op, e.launched with
    | .commit _, some l => if l.dead then none else some (l.land, 0, TrialAct.commitDone c.val)
    | _, _ => none)) ++
  ((List.range 5).filterMap fun q => (nextLaunch k q).map fun e => (launchTime k e, 1, TrialAct.launch c.val q)) ++
  (if k.atBodyEnd && k.st == .running && !k.ended && !k.halted && k.wait == .none then [(k.lastIssue, 2, .iterate c.val)] else []) ++
  (if k.canIssue && !stalls k (nextInstr s c) then [(issueTime s c.val, 3, .issue c)] else []) ++
  (match k.wait with | .posted t => [(32 * t, 3, .resume c.val)] | _ => [])

/-- Events of the job as a whole: tile boundary, yield, restart of the yielded job, end of the restore sequence. -/
def jobActs (s : State) (p : Nat) : List (Nat × Nat × TrialAct) :=
  let q := s.part p
  let b := boundaryCores s p
  let atYield : Bool := match q.yield_ with | some (pre, _) => pre.boundary.isSome && q.running.isSome | none => false
  let done : Bool := match q.running with | some i => !q.saving || saveDone s p i | none => false
  if q.resume.isSome then (if b.1.isEmpty then [] else [(b.2, 4, .restored)])
  else if atYield then (if done then [(s.gov.now, 5, .yield)] else [])
  else if q.running.isNone && q.yield_.isSome then [(s.gov.now, 5, .restart)]
  else if b.1.isEmpty then [] else [(b.2, 4, .boundary)]

/-- The first of them. -/
def firstAct (l : List (Nat × Nat × TrialAct)) : Option TrialAct :=
  (l.foldl (fun (b : Option (Nat × Nat × TrialAct)) x => match b with
    | none => some x
    | some y => if x.1 < y.1 ∨ (x.1 = y.1 ∧ x.2.1 < y.2.1) then some x else b) none).map (·.2.2)

/-- Cores of the trial. -/
def TrialOf.cores (z : TrialOf) : List CoreN := z.pl.cores.map (·.core)

/-- One event carried out. A deferred scratchpad access is a bank conflict (R180). -/
def Trial.act (z : TrialOf) (r : Trial) (a : TrialAct) : Trial :=
  let s := r.st
  match a with
  | .complete c q =>
    match nextLanding (s.core c) q with
    | none => r
    | some (e, l) =>
      let r := r.demand (bankDelay (s.core c).banks e.serial == 0) 8 (z.opAt c e.pc) (some c) l.land
      { r with st := completeQ (s.advance l.land) c q }
  | .commitDone c =>
    match (s.core c).queue 3 |>.find? fun e => match e.op with | .commit _ => e.launched.isSome | _ => false with
    | none => r
    | some e => { r with st := (s.advance ((e.launched.map (·.land)).getD 0)).modCore c fun k => k.leave e }
  | .launch c q => Trial.launch z r c q
  | .iterate c => { r with st := Sys2Proof.Machine.iterate s c }
  | .issue c => Trial.issue z r c
  | .resume c => { r with st := match (s.core c).wait with
      | .posted t => (s.advance (32 * t)).modCore c fun k =>
          { k with wait := .none, segBase := t, lastIssue := max k.lastIssue (32 * t) }
      | _ => s }
  | .boundary =>
    let b := boundaryCores s z.p
    let s := if z.yieldAt = some r.tiles.length then
        s.modPart z.p fun q => { q with yield_ := some (⟨some z.i, none, none⟩, 0) } else s
    { r with st := tileBoundary s z.p, tiles := r.tiles ++ [(b.2, b.1)] }
  | .yield =>
    let t := jobYield s z.p
    let b := match (s.part z.p).yield_ with | some (pre, _) => pre.boundary.getD s.tick | none => s.tick
    { r with st := t, saveT := if (t.part z.p).running.isNone then max r.saveT (t.tick - b) else r.saveT }
  | .restart => { r with st := jobResume s z.p }
  | .restored =>
    let w := match (s.part z.p).resume with | some rec => rec.w | none => s.tick
    let t := resumeTick s z.p
    { r with st := t, restoreT := max r.restoreT (t.tick - w) }

/-- The run: events in order; when nothing is left and every core waits at a DSTEP, the next step is posted, with the step registers at
their bounds, until the cores wait where they waited before. -/
def Trial.run (z : TrialOf) : Nat → Trial → Trial
  | 0, r => r
  | n + 1, r =>
    match firstAct ((z.cores.flatMap (coreActs r.st)) ++ jobActs r.st z.p) with
    | some a => Trial.run z n (Trial.collect z (Trial.act z r a))
    | none =>
      let at' := z.cores.map fun c => (r.st.core c.val).pc
      if allAtDstep r.st z.p && !(r.posts.any fun y => y.2 == at') then
        let t := r.st.tick + 1
        Trial.run z n { r with st := postRegs r.st z.p t z.regs, posts := (t, at') :: r.posts }
      else { r with posts := (r.st.tick + 1, []) :: r.posts }

/-- The copy on which a trial runs: the partition over the resources of `r`, quiet, with the image's tables and macros written and its
regions allocated; the job started in the next tick. -/
def trialStart (s : State) (z : TrialOf) (r : ResSet) (t : Translation) (newLayout guard : Bool) : State :=
  let s := s.modPart z.p fun q =>
    { q with live := r, mint := { q.mint with enableOn := q.mint.enable }, load := none, reshape := none, running := none, stop := none, saving := false, yield_ := none, resume := none,
             pauseFrom := none, replacing := none, resumes := [], st := 1, integ := { q.integ with refused := false } }
  let s := { s with macros := s.macros.map fun (e : Nat × MacroSt) => (e.1, { e.2 with suspect := none }) }
  let s := takeRegions (s.modGovPart z.p fun g => { g with reloads := [], scales := [] }) z.p t.info.pages
  let s := (writeImageTables s z.p z.i t newLayout guard []).modPart z.p fun q => q.modImg z.i fun _ => ⟨.ready, St.ok, some t.info⟩
  startImage s z.p z.i (s.tick + 1)

/-- A trial from its start to its end. -/
def runTrial (s : State) (z : TrialOf) : Trial :=
  Trial.run z (2 ^ 64) ⟨s, [], [], [], [], [], [], [], [], 0, 0⟩

end Sys2Proof.Machine
end

