-- ==== Sys2Proof/Machine/Verify.lean ====
section
/-! DEFINITION. The loader's verification (R310, Table 9-4): what the trial of a schedule met, and what the whole of it shows, as
breaches of the checks; the first failing check decides (R305, R306, R312). -/

namespace Sys2Proof.Machine

/-- Status of a failing check (Table 9-4). -/
def statusOfCheck (n : Nat) : Status :=
  match n with
  | 1 | 3 | 6 | 9 => St.badFormat
  | 2 | 5 => St.badHandle
  | 7 | 8 => St.scheduleFault
  | 12 => St.budgetFault
  | _ => St.noResource

/-! ### Checks 4 to 6 and 14: the tables -/

/-- Words and addresses of a core's instructions. -/
def imemOf (ts : List TableWrite) (c : Nat) : List (Nat × BitVec 128) :=
  ts.filterMap fun w => match w with | .imem k a v => if k = c then some (a, v) else none | _ => none

/-- Loops of a core: address and body end. -/
def loopsOf (is : List (Nat × Instr)) : List (Nat × Nat) :=
  is.filterMap fun x => match x.2 with | .loop _ _ _ last _ => some (x.1, last.toNat) | _ => none

/-- At most four nested loops, each body within the body that encloses it (R228). -/
def nestOk (ls : List (Nat × Nat)) : Bool :=
  ls.all fun l =>
    let outer := ls.filter fun o => decide (o.1 < l.1) && decide (l.1 ≤ o.2)
    decide (outer.length ≤ 3) && outer.all fun o => decide (l.2 ≤ o.2)

/-- Every PREFETCH directly precedes a LOOP, every DSTEP directly follows a TILE (R238, R254). -/
def placesOk (is : List (Nat × Instr)) : Bool :=
  let at' (a : Nat) : Option Instr := (is.find? fun y => y.1 == a).map (·.2)
  is.all fun x =>
    match x.2 with
    | .prefetch .. => (match at' (x.1 + 1) with | some (.loop ..) => true | _ => false)
    | .dstep _ => x.1 != 0 && (match at' (x.1 - 1) with | some (.tile ..) => true | _ => false)
    | _ => true

/-- Check 6 for a core. -/
def structureOk (ts : List TableWrite) (c : Nat) : Bool :=
  let is := (imemOf ts c).map fun x => (x.1, decodeWord 0 x.2)
  nestOk (loopsOf is) && placesOk is

/-- Check 5 for a descriptor: a tier of Table 7-2 other than HOST, and no page above 61,026 (R184, R198). -/
def descOk (w : BitVec 512) : Bool :=
  let d := Desc.of w
  let v : View := { d := d, base := d.addr, slot := d.slot }
  decide (1 ≤ d.tier) && decide (d.tier ≤ 4) && (d.tier == 1 || v.pages.all pageExists)

/-- Slots of a core that the image declares: they do not overlap (R181). -/
def slotsApart (ts : List TableWrite) (c : Nat) : Bool :=
  let es := ts.filterMap fun w => match w with | .slot k i v => if k = c then some (i, SlotE.ofLoaded v) else none | _ => none
  es.all fun a => es.all fun b => a.1 == b.1 || decide (a.2.base + a.2.len ≤ b.2.base) || decide (b.2.base + b.2.len ≤ a.2.base)

/-- Regions of a load: FREE pages of the partition's channels (R188); a reshape keeps those that the image has. -/
def regionsOk (s : State) (r : ResSet) (kept : List Nat) (ps : List (Nat × Nat)) : Bool :=
  ps.all fun x => kept.contains x.1 || (pageExists x.1 && s.page x.1 == PageE.free && r.chans.v.getLsbD (chanOf x.1))

/-- A LOCAL region: each BUDDY page lies in another stack than the stack of its STATE page, in both generations (R392). -/
def buddyApart (q : Part) (ps : List (Nat × Nat)) : Bool :=
  let of (c : Nat) : List Nat := sortBy id ((ps.filter fun x => x.2 == c).map (·.1))
  let st := of 5
  !(q.dp.buddy.v.getLsbD 0) || q.dp.buddy.v.getLsbD 1 || [0, 1].all fun gen =>
    (st.zip ((of 6).drop (gen * genSize st.length))).all fun x => chanOf x.1 / 16 != chanOf x.2 / 16

/-- A range of an image's table: within the table and apart from the other image's range (R315). -/
def rangeOk (size lo first count : Nat) (other : Option (Nat × Nat)) : Bool :=
  decide (first + count ≤ size) && (count == 0 || decide (lo ≤ first)) &&
    (match other with
     | none => true
     | some (f, n) => count == 0 || n == 0 || decide (first + count ≤ f) || decide (f + n ≤ first))

/-- Check 14: the ranges fit, and every word lies in its range (R217, R229, R239, R274, R315); entry 0 of a descriptor table is never
used. -/
def fits (x : ImgInfo) (other : Option ImgInfo) (ts : List TableWrite) : Bool :=
  let o (f n : ImgInfo → Nat) : Option (Nat × Nat) := other.map fun y => (f y, n y)
  let within (f n i : Nat) : Bool := decide (f ≤ i) && decide (i < f + n)
  rangeOk 16384 0 x.imemFirst x.imemCount (o (·.imemFirst) (·.imemCount)) &&
  rangeOk 4096 1 x.descFirst x.descCount (o (·.descFirst) (·.descCount)) &&
  rangeOk 512 0 x.chainFirst x.chainCount (o (·.chainFirst) (·.chainCount)) &&
  rangeOk 2048 0 x.memberFirst x.memberCount (o (·.memberFirst) (·.memberCount)) &&
  rangeOk 512 0 x.slotFirst x.slotCount (o (·.slotFirst) (·.slotCount)) &&
  ts.all fun w => match w with
    | .imem _ i _ => within x.imemFirst x.imemCount i
    | .desc _ i _ => within x.descFirst x.descCount i
    | .chain _ i _ => within x.chainFirst x.chainCount i
    | .member _ i _ => within x.memberFirst x.memberCount i
    | .slot _ i _ => within x.slotFirst x.slotCount i

/-! ### Check 3: the order of the module (R152, R155, R302) -/

/-- Do two operands share elements of a tensor in their iterations? -/
def CxArg.meets (a : CxArg) (ia : List Nat) (b : CxArg) (ib : List Nat) : Bool :=
  a.tensor == b.tensor && (List.range 5).all fun k =>
    decide ((a.origin ia).getD k 0 < (b.origin ib).getD k 0 + b.dims.getD k 1) &&
      decide ((b.origin ib).getD k 0 < (a.origin ia).getD k 0 + a.dims.getD k 1)

/-- Operands that an operation writes, the scale codes of an AMM drain among them. -/
def Colxel.writes (x : Colxel) (o : CxOp) : List CxArg :=
  x.written o ++ (match o.op with
    | .amm _ => ((x.argOf o 2).bind fun a => a.scale.bind fun k => x.args[k]?).toList
    | _ => [])
/-- Operands that an operation reads: those that it does not only write, their scale codes and index streams. -/
def Colxel.reads (x : Colxel) (o : CxOp) : List CxArg :=
  let only : List Nat := match o.op with
    | .amm f => if f.acc = 2 then [] else [2]
    | .vupd _ => []
    | op => destPos op
  let rs := ((List.range o.args.length).filter fun i => !only.contains i).filterMap fun i => x.argOf o i
  let dst := (destPos o.op).filterMap fun i => x.argOf o i
  let conv : List CxArg := match o.op with | .vcvt _ => dst | _ => []
  rs ++ (rs ++ conv).flatMap (fun a => (a.scale.bind fun k => x.args[k]?).toList) ++
    (rs ++ dst).flatMap fun a => (a.index.bind fun k => x.args[k]?).toList

/-- Flight of a step of the module. -/
def flightOf (fs : List Flight) (st : CxStep) : Option Flight := fs.find? fun f => f.op == some (st.op, st.idxs)

/-- Of two steps that share elements, the first in the module's order is first: a value lands before it is read, and is read before it is
written over. -/
def keepsOrder (x : Colxel) (fs : List Flight) (a b : CxStep) : Bool :=
  match x.ops[a.op]?, x.ops[b.op]?, flightOf fs a, flightOf fs b with
  | some oa, some ob, some fa, some fb =>
    let meet (la lb : List CxArg) : Bool := la.any fun u => lb.any fun v => u.meets a.idxs v b.idxs
    (!meet (x.writes oa) (x.reads ob) || decide (fa.land < fb.at_)) && (!meet (x.reads oa) (x.writes ob) || decide (fa.at_ < fb.land)) &&
      (!meet (x.writes oa) (x.writes ob) || decide (fa.land < fb.land))
  | _, _, _, _ => false

/-- The schedule launches every step of the module once, in an order that keeps every contribution's place. -/
def orderOk (x : Colxel) (loan : Bool) (fs : List Flight) : Bool :=
  let steps := x.steps loan
  ((steps.map fun t => (t.op, t.idxs)).isPerm (fs.filterMap (·.op))) && decide (steps.Pairwise fun a b => keepsOrder x fs a b = true)

/-! ### Checks 7, 10, 11, 12 and 13: the whole of a trial -/

/-- Ticks of a trial. -/
def Trial.ticks (r : Trial) (start : Nat) : List Nat := (List.range (r.st.tick + 1 - start)).map (start + ·)

/-- Every core has its TILEs at the same times, at most 2,048 cycles apart from the job's start on (R236). -/
def tilesOk (z : TrialOf) (r : Trial) (start : Nat) : Option Nat :=
  let all := z.cores.map (·.val)
  let ts := 32 * start :: r.tiles.map (·.1)
  match r.tiles.find? fun t => !all.all fun c => t.2.contains c with
  | some t => some t.1
  | none => (ts.zip (ts.drop 1)).findSome? fun y => if y.1 + 2048 < y.2 then some y.2 else none

/-- First channel and tick with more bursts than R191, R367 and R394 admit: 42 less the staging and the checkpoint reserve. -/
def burstsOver (r : Trial) (reserve : Nat) : Option Nat :=
  (r.bursts.find? fun b => decide (42 - reserve < r.bursts.count b)).map (·.2)

/-- First cycle of a window of 65,536 in which a macro is left fewer than 32 idle cycles: core and cycle (R93). -/
def idleShort (r : Trial) : Option (Nat × Nat) :=
  let busy : List (Nat × Nat × Nat × Nat) := r.acts.filterMap fun a => match a.2.kind with
    | .fire _ m | .row _ m => some (a.1, m, a.2.first, a.2.last)
    | _ => none
  busy.findSome? fun b =>
    let mine := busy.filter fun y => y.1 == b.1 && y.2.1 == b.2.1
    let used := ((List.range 65536).filter fun k => mine.any fun y => decide (y.2.2.1 ≤ b.2.2.1 + k) && decide (b.2.2.1 + k ≤ y.2.2.2)).length
    if 65536 < used + 32 then some (b.1, b.2.2.1) else none

/-- Amount of an act list in a core's cycle above its declaration (R284). -/
def coreOver (r : Trial) (c cyc : Nat) : Bool :=
  let d := (r.st.core c).declared (cyc / 32)
  (gateCycle ((r.acts.filter fun a => a.1 == c).map (·.2)) d d cyc).excess

/-- Least cycle at which a core exceeds its declaration: cycle, core. -/
def currentOver (z : TrialOf) (r : Trial) (start : Nat) : Option (Nat × Nat) :=
  (r.ticks start).findSome? fun t => (List.range 32).findSome? fun k =>
    ((z.cores.map (·.val)).find? fun c => coreOver r c (32 * t + k)).map fun c => (32 * t + k, c)

/-- D(p, f, T) of the trial (R283). -/
def trialField (z : TrialOf) (r : Trial) (f t : Nat) : Nat := fieldCurrent r.st z.p f 16 (declaredCores r.st z.p t)
/-- D(p, T) of the trial; 0 before the job's first tick (R284). -/
def trialTotal (z : TrialOf) (r : Trial) (start t : Nat) : Nat :=
  if t < start then 0 else ((List.range 4).map fun f => trialField z r f t).sum

/-- First tick whose field sum exceeds the share, with loans where `loan`, whose rise exceeds the slew share, or that carries a declaration
before the job's third tick (R284, R291). -/
def tickOver (z : TrialOf) (r : Trial) (start : Nat) (loan : Bool) : Option Nat :=
  let live := (r.st.part z.p).live
  let share (f : Nat) : Nat := (live.share.v.extractLsb' (12 * f) 12).toNat + (if loan then z.x.loanQ.getD f 0 else 0)
  (r.ticks start).find? fun t =>
    (List.range 4).any (fun f => decide (share f < trialField z r f t)) ||
      decide (trialTotal z r start (t - 1) + live.slew.v.toNat < trialTotal z r start t) ||
      (decide (t < start + 2) && !(declaredCores r.st z.p t).isEmpty)

/-- Worst-case step: the longest of the posted steps, both segments together for a TRAINING module, the whole run without a DSTEP. -/
def stepTicksOf (r : Trial) (start : Nat) (training : Bool) : Nat :=
  let ts := (r.posts.map (·.1)).reverse
  match ts with
  | [] => 0
  | [t] => t - start
  | t :: _ => if training then ts.getLastD t - t else ((ts.zip (ts.drop 1)).map fun y => y.2 - y.1).foldl max 0

/-- Transfers to peers with the tick by which each has landed: a port takes those of the partition one after another at its share rate,
padding of the last cell counted as payload (R495), and the Fennel latency bound follows (R504). -/
def peerLandings (s : State) (p : Nat) (fs : List Flight) : List (Flight × Nat) :=
  (fs.foldl (fun (st : SMap Nat × List (Flight × Nat)) f =>
    match f.peer with
    | none => st
    | some (pt, b) =>
      let done := max (f.at_ / 32) (sget 0 st.1 pt) + ((b + 255) / 256 * 256 + shareRate s pt p - 1) / shareRate s pt p
      (sput 0 st.1 pt done, st.2 ++ [(f, done + 24)])) ([], [])).2

/-- XSENDs to peers have a share on their port and land before the exchange point that they are tied to, under the guard of R272 (R306,
R504). -/
def exchangeLate (z : TrialOf) (r : Trial) : Option Flight :=
  ((peerLandings r.st z.p r.flights).find? fun y =>
    let point : Option Nat := (y.1.op.bind fun o => z.x.ops[o.1]?).bind (·.exchange)
    (match y.1.peer with | some (pt, _) => (r.st.port pt).share z.p == 0 | none => false) ||
    (match point with | none => false | some e => decide (y.1.seg + z.x.exchanges.getD e 0 < y.2 + 4))).map (·.1)

/-- First write to a STATE page in a segment that no copy slot of the page precedes, its last burst issued in an earlier tick (R395). -/
def slotMissing (r : Trial) : Option Flight :=
  r.flights.find? fun f => f.slot.isNone && f.states.any fun g =>
    !r.flights.any fun y => y.seg == f.seg && (match y.slot with | some (h, t) => h == g && decide (t < f.at_ / 32) | none => false)

/-- What a trial breaks as a whole. -/
def wholeBreaches (z : TrialOf) (r : Trial) (start : Nat) (loan : Bool) (info : ImgInfo) : List Breach :=
  (match tilesOk z r start with | none => [] | some t => [⟨7, none, none, t⟩]) ++
  (match burstsOver r (info.serve.reserve + info.serve.ckptReserve) with | none => [] | some t => [⟨10, none, none, 32 * t⟩]) ++
  (if info.ckptAware then (match slotMissing r with | none => [] | some f => [⟨10, f.op.map (·.1), some f.core, f.at_⟩]) else []) ++
  (match idleShort r with | none => [] | some x => [⟨11, none, some x.1, x.2⟩]) ++
  (match currentOver z r start with | none => [] | some x => [⟨12, none, some x.2, x.1⟩]) ++
  -- R312: a field-share or slew failure names no core
  (match tickOver z r start loan with | none => [] | some t => [⟨12, none, none, 32 * t⟩]) ++
  (match exchangeLate z r with | none => [] | some f => [⟨13, f.op.map (·.1), some f.core, f.at_⟩]) ++
  (if z.yieldAt.isNone ∧ info.maxStep ≠ 0 ∧ info.maxStep < stepTicksOf r start info.training then [⟨13, none, none, 32 * start⟩] else [])

/-! ### Verification -/

/-- The breach that decides: the lowest check, then the earliest time, then the lowest core (R310, R312). -/
def firstBreach (bs : List Breach) : Option Breach :=
  bs.foldl (fun b x => match b with
    | none => some x
    | some y =>
      if x.check < y.check ∨ (x.check = y.check ∧ (x.at_ < y.at_ ∨ (x.at_ = y.at_ ∧ x.core.getD 0xFFFF < y.core.getD 0xFFFF))) then some x
      else b) none

/-- What verification answers: the first breach, and what the trials measured. -/
structure Verdict where
  breach : Option Breach
  stepTicks : Nat
  peakQ : Nat
  slewQ : Nat
  saveT : Nat
  restoreT : Nat
  deriving DecidableEq, Repr

/-- Step registers at their bounds; those that carry the count of a loan loop hold 0 without the loan (R291, R307). -/
def boundRegs (x : Colxel) (loan : Bool) : List Nat :=
  let loans : List SReg := x.control.filterMap fun t => match t with | .loop _ (some r) true => some r | _ => none
  (List.range 8).map fun i => if !loan && loans.contains (BitVec.ofNat 5 (24 + i)) then 0 else x.bounds.getD i 0

/-- The trials of an image: without and with the loan where LOANS is set (R291), and with a yield at every tile boundary where a TILE
names a save sequence (R335). Each with its loan flag. -/
def trials (s : State) (p i : Nat) (r : ResSet) (x : Colxel) (pl : Placement) (t : Translation) (newLayout guard : Bool) :
    List (Bool × TrialOf × Trial) :=
  let z (loan : Bool) (j : Option Nat) : TrialOf := ⟨p, i, x, pl, boundRegs x loan, j⟩
  let run (loan : Bool) (j : Option Nat) : Bool × TrialOf × Trial :=
    (loan, z loan j, runTrial (trialStart s (z loan j) r t newLayout guard) (z loan j))
  let loans := if t.info.loans then [false, true] else [false]
  let saves := pl.cores.any fun c => c.items.any fun y => match y with | .seq (.tile _ _ v _) => v != 0 | _ => false
  loans.flatMap fun l =>
    let main := run l none
    main :: (if saves then (List.range main.2.2.tiles.length).map fun j => run l (some j) else [])

/-- Checks 3 to 14 over the tables and the trials of an image. -/
def verify (s : State) (p i : Nat) (r : ResSet) (x : Colxel) (pl : Placement) (t : Translation) (newLayout guard : Bool)
    (kept : List Nat) : Verdict :=
  let q := s.part p
  let cs := pl.cores.map fun c => c.core.val
  let start := s.tick + 1
  let rs := trials s p i r x pl t newLayout guard
  let bad (ok : Bool) (check : Nat) (core : Option Nat) : List Breach := if ok then [] else [⟨check, none, core, 0⟩]
  let fixed : List Breach :=
    bad (regionsOk s r kept t.info.pages && buddyApart q t.info.pages && pl.macros.all fun m => goodMacro s m.2) 4 none ++
    cs.flatMap (fun c => bad (slotsApart t.tables c) 4 (some c)) ++
    t.tables.flatMap (fun w => match w with | .desc c _ v => bad (descOk v) 5 (some c) | _ => []) ++
    cs.flatMap (fun c => bad (structureOk t.tables c) 6 (some c)) ++
    bad (fits t.info (q.image (1 - i)).info t.tables) 14 none
  let run : List Breach := rs.flatMap fun y =>
    y.2.2.breaches ++ wholeBreaches y.2.1 y.2.2 start y.1 t.info ++
      (if y.2.1.yieldAt.isNone then bad (orderOk x y.1 y.2.2.flights) 3 none else [])
  let most (f : Trial → TrialOf → Nat) : Nat := (rs.map fun y => f y.2.2 y.2.1).foldl max 0
  { breach := firstBreach (fixed ++ run)
    stepTicks := most fun t' z => if z.yieldAt.isSome then 0 else stepTicksOf t' start t.info.training
    peakQ := most fun t' z => ((t'.ticks start).flatMap fun k => (List.range 4).map fun f => trialField z t' f k).foldl max 0
    slewQ := most fun t' z => ((t'.ticks start).map fun k => trialTotal z t' start k - trialTotal z t' start (k - 1)).foldl max 0
    saveT := most fun t' _ => t'.saveT
    restoreT := most fun t' _ => t'.restoreT }

end Sys2Proof.Machine
end

