-- ==== Sys2Proof/Machine/Loader.lean ====
section
/-! DEFINITION. The Colxel loader (R303 to R320): header and section checks on the module bytes, translation over the loader's choices
(log 9) with its verification, load windows, report, digests. -/

namespace Sys2Proof.Machine

/-! ### Areas of STAGING pages -/

/-- Pages of the partition's staging area from page `first` on, `n` of them, in the area's order (R478). -/
def stagedRun (s : State) (p first n : Nat) : Option (List Nat) :=
  match s.cxl.areas.find? fun e => e.2.valid && !e.2.exportA && e.2.part.toNat == p with
  | none => none
  | some (_, a) =>
    let l := (a.pages.drop (a.pages.findIdx (· == first))).take n
    if l.length = n ∧ l.all (fun g => attrOf (s.page g).v == .staging) then some l else none


/-! ### The module file -/

/-- Number at byte `o`, `n` bytes long. -/
def fieldAt (bs : List Byte) (o n : Nat) : Nat := ofLeBytes ((bs.drop o).take n)

/-- Entry i of the section table: kind, offset, length (R303). -/
def sectionAt (bs : List Byte) (i : Nat) : Nat × Nat × Nat :=
  (fieldAt bs (64 + 16 * i) 4, fieldAt bs (64 + 16 * i + 4) 8, fieldAt bs (64 + 16 * i + 12) 4)
/-- All of them. -/
def sectionsOf (bs : List Byte) : List (Nat × Nat × Nat) := (List.range (min (fieldAt bs 16 4) 64)).map (sectionAt bs)

/-- Do sections ascend without overlap from `from_` on, within the module? -/
def ascending (len : Nat) : Nat → List (Nat × Nat × Nat) → Bool
  | _, [] => true
  | from_, (_, o, n) :: rest => decide (from_ ≤ o) && decide (o + n ≤ len) && ascending len (o + n) rest

/-- FLAGS bit i of the header (Table 9-1). -/
def modFlag (bs : List Byte) (i : Nat) : Bool := fieldAt bs 10 1 / 2 ^ i % 2 == 1

/-- Check 1 of Table 9-4 as far as the header and section table go (R261, R303, R304, R307, R320). -/
def headerOk (bs : List Byte) (groups : Nat) (guard : Bool) : Bool :=
  let secs := sectionsOf bs
  let kinds := secs.map (·.1)
  let n := fieldAt bs 16 4
  let w := fieldAt bs 11 1
  decide (64 ≤ bs.length) && fieldAt bs 0 4 == 0x584C4F43 && fieldAt bs 4 2 == 1 && decide (fieldAt bs 6 1 ≤ 1) &&
  decide (fieldAt bs 7 1 ≤ 1) && decide (1 ≤ fieldAt bs 8 1) && decide (fieldAt bs 8 1 ≤ groups) &&
  decide (groups ≤ fieldAt bs 9 1) && decide (fieldAt bs 9 1 ≤ 16) && decide (fieldAt bs 10 1 < 32) &&
  (if modFlag bs 2 then decide (1 ≤ w) && decide (w ≤ 4) else w == 0) &&
  decide (1 ≤ n) && decide (n ≤ 64) && decide (64 + 16 * n ≤ bs.length) && ascending bs.length (64 + 16 * n) secs &&
  kinds.all (fun k => decide (1 ≤ k) && decide (k ≤ 7)) && decide (kinds.eraseDups.length = kinds.length) &&
  [1, 2, 5, 6].all (fun k => kinds.contains k) && (fieldAt bs 20 32 == 0 || kinds.contains 3) &&
  (!kinds.contains 3 || kinds.contains 4) && (!modFlag bs 4 || kinds.contains 7) && (!guard || modFlag bs 1)

/-- Digest of the WEIGHTS section; 0 without one (R308). -/
def weightsDigest (bs : List Byte) : BitVec 256 :=
  match (sectionsOf bs).find? fun x => x.1 == 3 with
  | none => 0
  | some (_, o, n) => Config.sha256 ((bs.drop o).take n)

/-- Check 2: base root and WEIGHTS section against the partition. -/
def baseOk (bs : List Byte) (q : Part) : Bool :=
  BitVec.ofNat 256 (fieldAt bs 20 32) == q.baseDigest &&
  (q.layout == [] || weightsDigest bs == 0 || weightsDigest bs == q.weights)

/-! ### Translation (R307 steps 1 to 5, R309) -/

/-- MINT_CTRLp as a word (Table 5-6). -/
def mintCtrlWord (m : MintRegs) : Nat := m.rate.toNat + (if m.enable then 2 ^ 31 else 0)

/-- The inputs beside the module: loader version, map digest, resources of `r`, guard and Mint settings, the base layout, the image
number with the ranges of the other image, the regions that the image keeps, and the pages in use. -/
def translateInputs (s : State) (p i : Nat) (r : ResSet) (layout : List Block1) (guard : Bool) (kept : List Nat) : List Nat :=
  let q := s.part p
  let other := match (q.image (1 - i)).info with
    | none => []
    | some x => [x.imemFirst, x.imemCount, x.descFirst, x.descCount, x.chainFirst, x.chainCount, x.memberFirst, x.memberCount,
                 x.slotFirst, x.slotCount]
  [s.sage.loaderVersion.toNat, (mapDigest s).toNat, r.groups.v.toNat, r.ways.v.toNat, r.chans.v.toNat, r.share.v.toNat,
   r.slew.v.toNat, if guard then 1 else 0, mintCtrlWord q.mint, i] ++ other ++
  layout.flatMap (fun b => [b.macroIx, b.image, b.scale, b.mode.lanes]) ++ kept ++ usedPages s

/-- An image record with nothing in it, for refused loads. -/
def ImgInfo.blank : ImgInfo :=
  { training := false, streamed := false, ckptAware := false, guardOk := false, loans := false, n0 := false, maxStep := 0,
    warmup := 0, cores := [], imemFirst := 0, imemCount := 0, descFirst := 0, descCount := 0, chainFirst := 0,
    chainCount := 0, memberFirst := 0, memberCount := 0, slotFirst := 0, slotCount := 0, pages := [], colxel := 0,
    avman := 0, saveT := 0, restoreT := 0, peakQ := 0, slewQ := 0, loanQ := [], loanT := 0, lanes := [],
    serve := ⟨0, 0, 0, 0, 0, 0, [], 0, 0, 0, 0, 0, 0, [], [], (0, 0, 0)⟩, stepTicks := 0, baseRoot := 0, weights := 0, largest := 0, portShare := [], portPlain := 0, source := [] }

/-- A refused load: status, failing check, operation, core, cycle and tick at fault (Table 9-5). -/
def Translation.failed (st : Status) (b : Breach) (start : Nat) : Translation :=
  { info := ImgInfo.blank, tables := [], layout := [], status := st, check := b.check, op := BitVec.ofNat 32 (b.op.getD 0xFFFFFFFF),
    core := BitVec.ofNat 16 (b.core.getD 0xFFFF), cyc := BitVec.ofNat 8 (b.at_ % 32), tick := BitVec.ofNat 32 (b.at_ / 32 - start),
    margin := 0 }
/-- Refused at a check that no core or operation is at fault for. -/
def Translation.refused (check : Nat) (op : Option Nat) : Translation := .failed (statusOfCheck check) ⟨check, op, none, 0⟩ 0

/-- Bytes written to the tables of a core (R317). -/
def tableBytes (ts : List TableWrite) (c : Nat) : Nat :=
  (ts.map fun w => match w with
    | .imem k _ _ => if k = c then 16 else 0
    | .desc k _ _ => if k = c then 64 else 0
    | .chain k _ _ => if k = c then 4 else 0
    | .member k _ _ => if k = c then 2 else 0
    | .slot k _ _ => if k = c then 48 else 0).sum

/-- Ports on which an image sends to peers: those of its XSENDs of kind 1, and the pairing's for kind 2 (R377). -/
def sendPorts (q : Part) (x : Colxel) (pl : Placement) : List Nat :=
  (pl.cores.flatMap fun c => c.items.filterMap fun y => match y with
    | .op k _ _ f _ => (match (x.ops[k]?).map CxOp.op with
      | some (EngineOp.xsend g) => if g.kind = 1 then some f.port.toNat
          else if g.kind = 2 ∧ q.pipeOn.getLsbD 6 then some (q.pipeOn.extractLsb' 3 3).toNat else none
      | _ => none)
    | _ => none).eraseDups

/-- What the record of an image takes from the module and the partition, whatever the loader chose. -/
def imageInfo (s : State) (p : Nat) (q : Part) (r : ResSet) (x : Colxel) (pl : Placement) (ts : List TableWrite) (bs : List Byte) : ImgInfo :=
  let cores := ((maskList 16 r.groups.v).flatMap fun g => (List.range 80).map fun i => 80 * g + i)
  { pl.info with
    training := modFlag bs 2, streamed := modFlag bs 0, ckptAware := modFlag bs 3, guardOk := modFlag bs 1, loans := modFlag bs 4,
    n0 := fieldAt bs 6 1 == 0, maxStep := fieldAt bs 12 4, warmup := fieldAt bs 11 1, cores := cores,
    colxel := Config.sha384 bs, baseRoot := q.baseDigest, weights := weightsDigest bs, loanQ := x.loanQ, loanT := x.loanT,
    largest := (cores.map (tableBytes ts)).foldl max 0, source := bs,
    -- the rates that the image is verified against (R503, R504, R510)
    portShare := (List.range 7).map fun n => if (sendPorts q x pl).contains n then (s.port n).share p else 0,
    portPlain := BitVec.ofNat 7 (((sendPorts q x pl).map fun n => if (s.port n).live = 2 then 0 else 2 ^ n).sum) }

/-- The steps after check 3: placement over `layout`, or over a new one where it is empty and the base is resident (R110, R308); tables;
verification. -/
def placeModule (s : State) (p i : Nat) (r : ResSet) (layout : List Block1) (bs : List Byte) (x : Colxel) (guard : Bool)
    (kept : Option ImgInfo) : Translation :=
  let q := s.part p
  let new : Bool := layout == [] && !modFlag bs 0
  match if new then formLayout s x r.groups.v q.basePages else some layout with
  | none => .refused 4 none
  | some lay =>
    let pages := match kept with | none => [] | some k => k.pages.map (·.1)
    let pl := Config.placeColxel x (translateInputs s p i r lay guard pages)
    match imageTables x pl lay q.basePages (fieldAt bs 6 1 == 0) with
    | none => .refused 4 none
    | some ts =>
      let info := imageInfo s p q r x pl ts bs
      let info := match kept with | none => info | some k => { info with pages := k.pages }
      let t : Translation := { info := info, tables := ts, layout := if modFlag bs 0 then [] else lay, status := St.ok, check := 0,
                               op := 0xFFFFFFFF, core := 0xFFFF, cyc := 0, tick := 0,
                               margin := BitVec.ofNat 16 (marginOf s r.groups.v lay) }
      let v := verify s p i r x pl t (new && lay != []) guard pages
      match v.breach with
      | some b => .failed (statusOfCheck b.check) b (s.tick + 1)
      | none => { t with info := { info with stepTicks := BitVec.ofNat 32 v.stepTicks, peakQ := BitVec.ofNat 12 v.peakQ,
                                             slewQ := BitVec.ofNat 11 v.slewQ, saveT := BitVec.ofNat 16 v.saveT,
                                             restoreT := BitVec.ofNat 16 v.restoreT } }

/-- Checks 1 to 14 and the translation over the resources `r`, under a guarded setting; `kept` is the image's record where a reshape
translates it again (R331). A status other than OK names the failing check (R310). -/
def translateOver (s : State) (p i : Nat) (r : ResSet) (layout : List Block1) (bs : List Byte) (guard : Bool) (kept : Option ImgInfo) :
    Translation :=
  let q := s.part p
  -- R401: a data-parallel TRAINING module states its longest step
  if !headerOk bs (maskList 16 r.groups.v).length guard || (modFlag bs 2 && fieldAt bs 12 4 == 0 && q.dp.dp.v.getLsbD 6) then .refused 1 none
  else
    match Config.parseColxel bs (maskList 16 r.groups.v).length with
    | none => .refused 1 none
    | some x =>
      if !baseOk bs q then .refused 2 none
      else
        match obligations x (modFlag bs 2) (modFlag bs 3) with
        | some op => .refused 3 op
        | none => placeModule s p i r layout bs x guard kept

/-- Translation at a LOAD. -/
def translateModule (s : State) (p i : Nat) (r : ResSet) (layout : List Block1) (bs : List Byte) : Translation :=
  translateOver s p i r layout bs (s.part p).integ.guard none

/-! ### Digests (R313) -/

/-- Core record of an image. -/
def coreRecord (k : Core) (c : Nat) (x : ImgInfo) : List Byte :=
  leBytes 2 c ++
  (List.range x.imemCount).flatMap (fun i => leBytes 16 (sget endWord k.imem (x.imemFirst + i)).toNat) ++
  (List.range x.descCount).flatMap (fun i => leBytes 64 (sget 0 k.desc (x.descFirst + i)).toNat) ++
  (List.range x.chainCount).flatMap (fun i => leBytes 4 (sget 0 k.chain (x.chainFirst + i)).toNat) ++
  (List.range x.memberCount).flatMap (fun i => leBytes 2 (sget 0 k.member (x.memberFirst + i)).toNat) ++
  (List.range x.slotCount).flatMap (fun i => leBytes 16 (k.slot (x.slotFirst + i)).loaded ++ leBytes 32 0)

/-- Avman digest of an image as its tables stand. -/
def avmanDigest (s : State) (p : Nat) (x : ImgInfo) : BitVec 384 :=
  let q := s.part p
  let share (f : Nat) : Nat := (q.live.share.v.extractLsb' (12 * f) 12).toNat
  Config.sha384 (leBytes 48 x.colxel.toNat ++ leBytes 4 s.sage.loaderVersion.toNat ++ leBytes 32 (mapDigest s).toNat ++
    leBytes 2 q.live.groups.v.toNat ++ leBytes 4 q.live.ways.v.toNat ++ (List.range 4).flatMap (fun f => leBytes 2 (share f)) ++
    leBytes 2 q.live.slew.v.toNat ++ leBytes 1 (if q.integ.guardOn then 1 else 0) ++ leBytes 4 (mintCtrlWord q.mint) ++
    (coresOf s p).flatMap fun c => coreRecord (s.core c) c x)

/-! ### LOAD -/

/-- Page-sized bytes of a module in a run of pages. -/
def moduleBytes (s : State) (ps : List Nat) (len : Nat) : List Byte := (ps.flatMap fun g => bread s.stack (g * 65536) 65536).take len

/-- A load that completes at once with its report. -/
def refuseLoad (s : State) (via : Via) (t : Translation) (reply : Nat) : State :=
  finish (putReply (accept s via) reply (loadReport s t 0 t.status 0)) via 1 0 t.status 0 []

/-- LOAD (R307 to R310, R316, R318): steps 1 to 5. Afterwards the load waits for its window. -/
def loadCmd (s : State) (via : Via) (p i : Nat) (force : Bool) (first len reply : Nat) : State :=
  permitted s via 1 0 (Via.isPf0 via) fun s =>
    let q := s.part p
    let running : Bool := q.running == some i
    if q.st == 2 || q.load.isSome then answer s via 1 0 St.busy 0 []
    else if q.st != 1 then answer s via 1 0 St.badHandle 0 []
    else if running && !force then answer s via 1 0 St.fetchActive 0 []
    else
      match stagedRun s p first ((len + 65535) / 65536) with
      | none => answer s via 1 0 St.badHandle 0 []
      | some ps => onPages s ps fun s =>
        let t := translateModule s p i q.live q.layout (moduleBytes s ps len)
        if t.status ≠ St.ok then refuseLoad s via t reply
        else
          let s := if running then markStop s p St.disabled else s
          let s := if running && allAtDstep s p then stopJob s p St.disabled else s
          (accept s via).modPart p fun x =>
            { (if running then x else x.modImg i fun g => { g with st := .loading }) with
              load := some ⟨via, i, reply, force, t, q.integ.guard, s.tick + 1, false, q.layout == [] && t.layout != []⟩ }

def execLoad (via : Via) (p : PartN) (image : Fin 2) (force : Bool) (first : Nat) (len : Nat) (reply : Nat) (s : State) :
    Host.Outcome State Fault Refusal := .next (loadCmd s via p image force first len reply)

/-! ### LOAD_WINDOW (R307 step 6, R317) -/

/-- A base layout without an image is written: a reshape of a partition that holds only its base. -/
def writeLayout (s : State) (p : Nat) (t : Translation) : State :=
  (loadLayout s p (s.part p).integ.guardOn t.layout []).modPart p fun q =>
    { q with layout := t.layout, integ := { q.integ with loadDone := s.tick } }

/-- Pages that a load window reads and allocates. -/
def windowPages (l : LoadJob) (p : Nat) : List Nat :=
  l.res.info.pages.map (·.1) ++ (if l.newLayout then l.res.layout.flatMap fun b => (b.src p).pages else [])

/-- LOAD_WINDOW: with no job in the way and no reload window due (R317). A region whose page is no longer FREE ends the load with
NO_RESOURCE (log 9). A table write of core `bad` whose complement check fails ends it with INTEGRITY_FAULT, the image's range
cleared (Table 9-6). -/
def loadWindow (s : State) (p : Nat) (mem : List MemEvent) (bad : Option CoreN) : State :=
  let q := s.part p
  match q.load with
  | none => s
  | some l =>
    if l.written || (q.running.isSome && q.pauseFrom.isNone) || q.running == some l.image || !(suspects s p).isEmpty then s
    else onPages s (windowPages l p) fun s =>
      let s := (burstEvents s p mem).advance (32 * (s.tick + windowTicks l.res.info.largest))
      if l.res.info.pages.any fun x => s.page x.1 != PageE.free then endPause (endLoad s p St.noResource) p
      else
        let s := writeImage s p l.image l.res l.newLayout l.guard (mem.flatMap MemEvent.received)
        let done (r : Translation) : State := s.modPart p fun x => { x with load := some { l with res := r, written := true } }
        match bad with
        | none => endPause (done l.res) p
        | some c => endPause (endLoad (done { l.res with core := BitVec.ofNat 16 c.val }) p St.integrityFault) p

def execLoadWindow (w : LoadWin) (s : State) : Host.Outcome State Fault Refusal := .next (loadWindow s w.part w.mem w.badWrite)

/-! ### LOAD_COMPLETE (R311, R313, R314) -/

/-- The image becomes READY with its digests in the tick in which the load completes. -/
def loadComplete (s : State) (p : Nat) : State :=
  match (s.part p).load with
  | none => s
  | some l =>
    if !l.written then s
    else
      let d := avmanDigest s p l.res.info
      let s := s.modPart p fun q =>
        { (q.modImg l.image fun _ => ⟨.ready, St.ok, some { l.res.info with avman := d }⟩) with load := none }
      let s := putReply s l.reply (loadReport s l.res l.image St.ok d)
      finish s l.via 1 0 St.ok 0 []

def execLoadComplete (p : PartN) (s : State) : Host.Outcome State Fault Refusal := .next (loadComplete s p)

end Sys2Proof.Machine
end

