-- ==== Sys2Proof/Machine/Partitions.lean ====
section
/-! DEFINITION. Partitions: commit requests and ticks (R326 to R328), reshape (R329 to R332), release (R333), and the
zeroisation of removed ways and groups. -/

namespace Sys2Proof.Machine

/-! ### Resource sets -/

/-- Do all pairs of a set hold (R323)? -/
def ResSet.ok (r : ResSet) : Bool := r.groups.ok && r.ways.ok && r.chans.ok && r.share.ok && r.slew.ok
/-- Share in field f. -/
def ResSet.shareIn (r : ResSet) (f : Nat) : Nat := (r.share.v.extractLsb' (12 * f) 12).toNat
/-- Natural channels of the groups of a mask. -/
def naturalMask (groups : BitVec 16) : BitVec 192 :=
  ((maskList 16 groups).flatMap naturalSet).foldl (fun m c => m ||| (1#192 <<< c)) 0

/-- The module as it would stand: shadow sets of the named partitions, live sets of the others (R326). -/
def proposed (s : State) (mask : BitVec 8) (p : Nat) : ResSet :=
  if mask.getLsbD p then (s.part p).shadow else (s.part p).live

/-- Groups that may join nothing: rail fault or zeroisation in progress (R328, R520). -/
def deadGroups (s : State) : BitVec 16 :=
  ((List.range 16).filter fun g => (s.group g).railOff || (s.group g).zeroing).foldl (fun m g => m ||| (1#16 <<< g)) 0
/-- Ways still being zeroised (R328). -/
def dirtyWays (s : State) : BitVec 32 := (List.range 8).foldl (fun m p => m ||| (s.part p).waysZeroing) 0

/-- Fields that hold a group of a mask. -/
def fieldsOf (groups : BitVec 16) : List Nat := ((maskList 16 groups).map fieldOfGroup).eraseDups

/-- Images of a partition that are loaded. -/
def loadedImages (q : Part) : List Nat := (List.range 2).filter fun i => (q.image i).info.isSome
/-- Groups that hold a block of the base layout or a core of a loaded image. -/
def usedGroups (q : Part) : List Nat :=
  let blocks : List Nat := q.layout.map fun (b : Block1) => b.macroIx / 81920
  (blocks ++ (loadedImages q).flatMap fun i => (imageCores q i).map groupOf).eraseDups

/-! ### Commit checks (Table 10-3) -/

/-- First partition of a list that a check refuses. -/
def firstBad (ps : List Nat) (bad : Nat → Bool) (st : Status) : Option (Status × Nat) := (ps.find? bad).map fun p => (st, p)

/-- Does the proposal of p overlap another, miss a natural channel, or take a dead group or dirty way? -/
def overlaps (s : State) (mask : BitVec 8) (p : Nat) : Bool :=
  let r := proposed s mask p
  let nat := naturalMask r.groups.v
  let new := r.groups.v &&& ~~~(s.part p).live.groups.v
  (r.groups.v &&& deadGroups s &&& new) != 0 || (r.ways.v &&& ~~~(s.part p).live.ways.v &&& dirtyWays s) != 0 ||
  (nat &&& ~~~r.chans.v) != 0 ||
  (List.range 8).any fun q =>
    let o := proposed s mask q
    q != p && ((r.groups.v &&& o.groups.v) != 0 || (r.ways.v &&& o.ways.v) != 0 || (r.chans.v &&& o.chans.v) != 0)

/-- Current sums of R282 exceeded? -/
def sumsExceed (s : State) (mask : BitVec 8) : Bool :=
  let rs := (List.range 8).map (proposed s mask)
  let field (f : Nat) : Nat := (rs.map fun r => r.shareIn f).foldl (· + ·) 0
  (List.range 4).any (fun f => decide (3584 < field f)) ||
  decide (12288 < (((List.range 4).map field).foldl (fun a b => a + b) 0 : Nat)) ||
  decide (1024 < ((rs.map fun r => r.slew.v.toNat).foldl (fun a b => a + b) 0 : Nat))

/-- Does a share fall below the certificate of a loaded image? -/
def belowCert (s : State) (mask : BitVec 8) (p : Nat) : Bool :=
  let q := s.part p
  let r := proposed s mask p
  (loadedImages q).any fun i =>
    match (q.image i).info with
    | none => false
    | some x => ((imageCores q i).map fieldOf).eraseDups.any (fun f => decide (r.shareIn f < x.peakQ.toNat)) ||
        decide (r.slew.v.toNat < x.slewQ.toNat)

/-- Does a removed channel hold a page of the partition, or a removed way a pinned line? -/
def removesHeld (s : State) (mask : BitVec 8) (p : Nat) : Bool :=
  let q := s.part p
  let r := proposed s mask p
  let chans := q.live.chans.v &&& ~~~r.chans.v
  let ways := q.live.ways.v &&& ~~~r.ways.v
  (ownedPages s p).any (fun g => chans.getLsbD (chanOf g)) ||
  let pinned := pinnedPages s p
  s.lines.any fun e => ways.getLsbD (e.1 % 32) && (match e.2 with | none => false | some l => pinned.contains l.gpage)

/-- Does a removed group hold a block or an image's core? -/
def removesUsed (s : State) (mask : BitVec 8) (p : Nat) : Bool :=
  let gone := (s.part p).live.groups.v &&& ~~~(proposed s mask p).groups.v
  (usedGroups (s.part p)).any fun g => gone.getLsbD g

/-- The checks in their order up to row 8; none when all pass. -/
def commitChecks (s : State) (mask : BitVec 8) (reshape : Bool) : Option (Status × Nat) :=
  let named := maskList 8 mask
  let first := named.headD 0
  (firstBad named (fun p => (s.part p).st == 2 || (s.part p).st == 3) St.busy).orElse fun _ =>
  (firstBad named (overlaps s mask) St.noResource).orElse fun _ =>
  (firstBad named (fun p => (s.part p).st == 1 && (proposed s mask p).groups.v == 0) St.badFormat).orElse fun _ =>
  (firstBad named (fun p => (List.range 4).any fun f =>
    (proposed s mask p).shareIn f != 0 && !(fieldsOf (proposed s mask p).groups.v).contains f) St.badFormat).orElse fun _ =>
  (if sumsExceed s mask then some (St.noResource, first) else none).orElse fun _ =>
  (firstBad named (belowCert s mask) St.noResource).orElse fun _ =>
  (firstBad named (removesHeld s mask) St.busy).orElse fun _ =>
  (if reshape then none else firstBad named (removesUsed s mask) St.busy).orElse fun _ =>
  -- R330
  if reshape then firstBad named (fun p => (loadedImages (s.part p)).any fun i =>
    match ((s.part p).image i).info with | none => false | some x => x.maxStep == 0) St.busy
  else none

/-- Translations of a partition's loaded images over its shadow groups (R331 step 1), each from its own module bytes, with its regions
kept; a failure's status. A layout that no loaded image uses is formed alone, under number 2. -/
def reshapeOf (s : State) (p : Nat) : Except Status (List (Nat × Translation)) :=
  let q := s.part p
  if loadedImages q = [] then
    (if q.layout = [] then .ok []
     else match (Config.parseColxel q.layoutFrom (maskList 16 q.shadow.groups.v).length).bind fun x =>
         formLayout s x q.shadow.groups.v q.basePages with
       | none => .error St.noResource
       | some lay => .ok [(2, { Translation.refused 0 none with status := St.ok, layout := lay })])
  else
  ((loadedImages q).foldl (fun (acc : Except Status (List (Nat × Translation) × List Block1)) i =>
    match acc with
    | .error st => .error st
    | .ok (ts, layout) =>
      let x := (q.image i).info.getD ImgInfo.blank
      let t := translateOver s p i q.shadow layout x.source q.integ.guardOn (some x)
      if t.status = St.ok then .ok (ts ++ [(i, t)], if layout = [] then t.layout else layout) else .error t.status)
    (.ok ([], []))).map (·.1)

/-- Commit refused. -/
def refuseCommit (s : State) (st : Status) (p : Nat) : State :=
  { s with commit := { s.commit with status := st, part := BitVec.ofNat 3 p } }

/-- Reshape begun in the named partitions that hold a base layout or an image: RESHAPING, translations kept; a job whose
cores all wait at a DSTEP is drained at once (R335). -/
def beginReshape (s : State) (ps : List Nat) : Except (Status × Nat) State :=
  ps.foldl (fun acc p =>
    match acc with
    | .error e => .error e
    | .ok s' =>
      match reshapeOf s p with
      | .error st => .error (st, p)
      | .ok ts => .ok (s'.modPart p fun q =>
          { q with st := 2, reshape := some ts,
                   pauseFrom := if allAtDstep s p then some (s.tick + 1) else q.pauseFrom })) (.ok s)

/-- PARTITION_COMMIT_REQUEST: the pair of PTN_COMMIT (R326, R327). -/
def commitRequest (s : State) (v c : W32) : State :=
  if v.extractLsb' 0 9 ≠ ~~~(c.extractLsb' 0 9) then pairBad s 0x00208000
  else
    let s := { s with commit := { s.commit with req := Paired.of (v.extractLsb' 0 9) } }
    let mask : BitVec 8 := v.extractLsb' 0 8
    let reshape := v.getLsbD 8
    if s.commit.busy then refuseCommit s St.busy ((maskList 8 mask).headD 0)
    else
      match (List.range 8).find? fun p => !(s.part p).live.ok || !(proposed s mask p).ok with
      | some p => mismatch s 1 p
      | none =>
        match commitChecks s mask reshape with
        | some (st, p) => refuseCommit s st p
        | none =>
          let moved := if reshape then (maskList 8 mask).filter (fun p => (s.part p).st == 1 && !(usedGroups (s.part p)).isEmpty) else []
          match beginReshape s moved with
          | .error (st, p) => refuseCommit s st p
          | .ok s =>
            { s with commit := { s.commit with status := St.accepted, part := 0, busy := true,
                                               tick := BitVec.ofNat 64 (s.tick + 16), pending := some (mask, reshape) } }


/-! ### COMMIT_TICK (R327, R328, R331) -/

/-- Lines in ways become invalid and their bytes zero. -/
def dropLines (s : State) (ways : BitVec 32) : State :=
  let hit (k : Nat) : Bool := ways.getLsbD (k % 32)
  { s with lines := s.lines.filter fun e => !hit e.1, cacheBytes := s.cacheBytes.filter fun e => !hit (e.1 / 65536) }

/-- The live set of one named partition becomes its shadow set. -/
def applyShares (s : State) (p : Nat) : State :=
  let q := s.part p
  let added := q.shadow.groups.v &&& ~~~q.live.groups.v
  let gone := q.live.groups.v &&& ~~~q.shadow.groups.v
  let ways := q.live.ways.v &&& ~~~q.shadow.ways.v
  let s := dropLines s ways
  let s := s.modPwr fun w => { w with on := w.on ||| (added.zeroExtend 24 <<< 2) }
  let s := (maskList 16 gone).foldl (fun s g => s.modGroup g fun x => { x with zeroing := true }) s
  let s := if q.st = 0 then s.modGovPart p fun _ => GovPart.fresh else s
  s.modPart p fun x =>
    { x with live := x.shadow, waysZeroing := x.waysZeroing ||| ways,
             st := if x.st = 0 then (if x.shadow.groups.v = 0 then 0 else 1) else x.st }

/-- Longest pause of a reshape (R332). -/
def reshapePause (s : State) (p : Nat) (ts : List (Nat × Translation)) : Nat :=
  let m := ((ts.map fun t => t.2.layout).headD []).length
  let n := max (maskList 192 (s.part p).live.chans.v).length 1
  let l := windowTicks ((ts.map fun t => t.2.info.largest).foldl max 0)
  (m * 16640 + n * 2688 - 1) / (n * 2688) + l + 8

/-- The moved partition: new tables and layout written; the drained job waits at its DSTEP on the new image. -/
def reshapePart (s : State) (p : Nat) (ts : List (Nat × Translation)) : State :=
  let q := s.part p
  let old : Option (Nat × SeqCtx × BitVec 384 × Bool) :=
    match q.running with
    | none => none
    | some i =>
      let c := (imageCores q i).headD 0
      let k := s.core c
      some (i, k.ctxOf, (match (q.image i).info with | none => 0 | some x => x.colxel), k.ended)
  let states := (List.range 2).map fun i => (q.image i).st
  let s := s.advance (32 * (s.tick + reshapePause s p ts))
  let s := modList s ((jobCores q)) fun k => k.endJob .idle
  -- the ranges are written anew; the images' pages keep their contents
  let s := (List.range 2).foldl (fun s i => match (q.image i).info with | none => s | some x => clearRanges s x) s
  let s := (ts.zipIdx).foldl (fun s x =>
    if x.1.1 = 2 then writeLayout s p x.1.2 else writeImageTables s p x.1.1 x.1.2 (x.2 == 0) q.integ.guardOn []) s
  let s := ts.foldl (fun s t =>
    let d := avmanDigest s p t.2.info
    s.modPart p fun x => x.modImg t.1 fun g =>
      { g with st := states.getD t.1 .ready, info := some { t.2.info with avman := d } }) s
  let s := match old with
    | none => s
    | some (i, ctx, colxel, ended) =>
      if ended then s
      else (imageCores (s.part p) i).foldl (fun s c => s.modCore c fun k =>
        let y := Config.reshapeContext colxel ctx c
        { k with pc := y.pc, regs := y.regs, loops := y.loops, segBase := s.tick, st := .running,
                 wait := (match y.wait with | .dstep a b => .dstep a b | _ => .dstep 0 0),
                 ended := false, halted := false, bufs := [], budget := [], lastIssue := 32 * s.tick }) s
  s.modPart p fun x =>
    { x with st := 1, reshape := none, pauseFrom := none,
             lastPause := match q.pauseFrom with
               | some b => BitVec.ofNat 32 (s.tick - b)
               | none => x.lastPause }

/-- COMMIT_TICK: at or after the commit tick, once every job that a reshape drains is at its step boundary or gone. -/
def commitTick (s : State) : State :=
  match s.commit.pending with
  | none => s
  | some (mask, _) =>
    let named := maskList 8 mask
    if named.any fun p => (s.part p).reshape.isSome && (s.part p).running.isSome && (s.part p).pauseFrom.isNone then s
    else
      match (List.range 8).find? fun p => !(s.part p).live.ok || !(proposed s mask p).ok with
      | some p => mismatch s 1 p
      | none =>
        let t := max s.commit.tick.toNat s.tick
        let s := s.advance (32 * t)
        let s := named.foldl applyShares s
        let s := { s with commit := { s.commit with status := St.ok, busy := false, pending := none, tick := BitVec.ofNat 64 t } }
        named.foldl (fun s p => match (s.part p).reshape with | none => s | some ts => reshapePart s p ts) s

def execCommitTick (s : State) : Host.Outcome State Fault Refusal := .next (commitTick s)

/-- WAY_ZEROISATION_COMPLETE: the removed ways may join another partition (R328). -/
def execWayZeroisationComplete (p : PartN) (s : State) : Host.Outcome State Fault Refusal :=
  .next (s.modPart p fun q => { q with waysZeroing := 0 })

/-- GROUP_ZEROISATION_COMPLETE: a removed group holds zeros, is free and powers off (R328, R333). -/
def groupZeroised (s : State) (g : Nat) : State :=
  if !(s.group g).zeroing then s
  else
    let s := zeroGroup s g
    let s := ((List.range 80).map (80 * g + ·)).foldl (fun s c => s.modCore c Core.cleared) s
    let s := s.modGroup g fun x => { GroupSt.fresh with railOff := x.railOff }
    s.modPwr fun w => { w with on := w.on &&& ~~~(1#24 <<< (2 + g)) }

def execGroupZeroisationComplete (g : GroupN) (s : State) : Host.Outcome State Fault Refusal := .next (groupZeroised s g)

/-! ### RELEASE (R333) -/

/-- Exports and sealed-image work of a partition's contexts end with a status (R212, R480). -/
def endCtxWork (s : State) (p : Nat) (st : Status) : State :=
  let mine (c : Nat) : Bool := (s.ctx c).part.toNat == p && (s.ctx c).state != 0
  let s1 := (s.cxl.exports.filter fun e => mine e.2.1.toNat).foldl (fun s e =>
    let pages := (sget Area.fresh s.cxl.areas e.1).pages
    let s := freePages s pages
    let s := s.modCxl fun x => { x with areas := sput Area.fresh x.areas e.1 Area.fresh,
                                        exports := x.exports.filter fun y => y.1 != e.1 }
    finish s e.2.2 0x000B 0 st 0 []) s
  (contextsOf1 s1 p).foldl (fun s c =>
    let s := (s.ctx c).importing.foldl (fun s e => finish (freePages s e.2.1) e.1 0x0127 (BitVec.ofNat 16 c) st 0 []) s
    let s := (s.ctx c).exporting.foldl (fun s e => finish s e.1 0x0128 (BitVec.ofNat 16 c) st 0 []) s
    s.modCtx c fun x => { x with importing := [], exporting := [] }) s1
where
  contextsOf1 (s : State) (p : Nat) : List Nat := (s.ctxs.filter fun e => e.2.state != 0 && e.2.part.toNat == p).map (·.1)

/-- RELEASE: RELEASING, the job marked to stop, requests and a load ended with DISABLED. -/
def releaseCmd (s : State) (via : Via) (p : Nat) : State :=
  permitted s via 2 0 (Via.isPf0 via) fun s =>
    let q := s.part p
    if q.st = 2 ∨ q.st = 3 then answer s via 2 0 St.busy 0 []
    else if q.st = 0 then answer s via 2 0 St.badHandle 0 []
    else
      let s := endCtxWork (endLoad s p St.disabled) p St.disabled
      let s := if q.saving || allAtDstep s p then stopJob s p St.disabled else markStop s p St.disabled
      let s := if (s.part p).running.isNone then endTrain (endReqs s p St.disabled) p St.disabled else s
      (accept s via).modPart p fun x => { x with st := 3, releasing := some via, releaseFrom := s.gov.now, yield_ := none }

def execRelease (via : Via) (p : PartN) (s : State) : Host.Outcome State Fault Refusal := .next (releaseCmd s via p)

/-- Current of a field that no partition's share holds (R333). -/
def unsharedCurrent (s : State) (f : Nat) : Nat :=
  let field (f : Nat) : Nat := ((List.range 8).map fun q => (s.part q).live.shareIn f).sum
  min (3584 - field f) (12288 - ((List.range 4).map field).sum)
/-- Current on which a partition's release draws in a field: its share there, or else what no share holds. -/
def releaseCurrent (s : State) (p f : Nat) : Nat :=
  let q := (s.part p).live.shareIn f
  if q = 0 then unsharedCurrent s f else q
/-- Does a release write zeros now, its job gone? -/
def zeroising (s : State) (p : Nat) : Bool := (s.part p).st == 3 && (s.part p).running.isNone
/-- Does a release that zeroises draw in a field on the current that no share holds? -/
def drawsUnshared (s : State) (p f : Nat) : Bool :=
  zeroising s p && (fieldsOf (s.part p).live.groups.v).contains f && (s.part p).live.shareIn f == 0
/-- Must step 3 wait in a field: less than 2 q are left, or a lower partition draws on them (R333)? -/
def releaseWaits (s : State) (p : Nat) : Bool :=
  (fieldsOf (s.part p).live.groups.v).any fun f => (s.part p).live.shareIn f == 0 &&
    (decide (unsharedCurrent s f < 2) || (List.range p).any fun q => drawsUnshared s q f)
/-- Cycles of step 3: 16,384 rows of each slab, slowed where the field's current is short; the slowest field decides (R333). -/
def macroZeroCycles (s : State) (p : Nat) : Nat :=
  let gs := maskList 16 (s.part p).live.groups.v
  (fieldsOf (s.part p).live.groups.v).foldl (fun a f =>
    let k := (gs.filter fun g => fieldOfGroup g == f).length
    max a (max 16384 ((16384 * k * 2560 + releaseCurrent s p f - 1) / releaseCurrent s p f))) 0
/-- Ticks of step 2: the ways, and the channel that holds most of the pages at 42 bursts a tick (R333). -/
def pageZeroTicks (s : State) (p : Nat) : Nat :=
  let own := ownedPages s p
  (maskList 192 (s.part p).live.chans.v).foldl (fun a c =>
    max a ((1024 * (own.filter fun g => chanOf g == c).length + 41) / 42)) (if (s.part p).live.ways.v = 0 then 0 else 512)
/-- Cycle in which a release has written its last zero: steps 2 and 3 run side by side. -/
def releaseEnd (s : State) (p : Nat) : Nat :=
  (s.part p).releaseFrom + max (32 * pageZeroTicks s p) (max 512 (macroZeroCycles s p))

/-- The releases that waited in a field for this one's current begin their step 3 now (R333). -/
def nextReleases (s : State) (p : Nat) : State :=
  (List.range 8).foldl (fun s' q =>
    if (fieldsOf (s.part p).live.groups.v).any (fun f => drawsUnshared s p f && drawsUnshared s q f) && q != p then
      s'.modPart q fun x => { x with releaseFrom := max x.releaseFrom s'.gov.now }
    else s') s

/-- RELEASE_COMPLETE: the zeroisation of steps 2 and 3 has ended, at the time that R333 gives at the earliest; the sets reset and the resources are free. -/
def releaseComplete (s : State) (p : Nat) : State :=
  let q := s.part p
  match q.releasing with
  | none => s
  | some via =>
    if q.running.isSome || releaseWaits s p then s
    else
      let s := nextReleases (s.advance (releaseEnd s p)) p
      let groups := maskList 16 q.live.groups.v
      let s := endTrain (endReqs s p St.disabled) p St.disabled
      let s := dropLines s q.live.ways.v
      let own := ownedPages s p
      let gone (h : W32) : Bool := s.snaps.any fun x => x.handle == h && (x.pages ++ x.manifest).any fun g => own.contains g
      let s := { s with
        snaps := s.snaps.filter fun x => !gone x.handle
        ctxs := s.ctxs.map fun e => (e.1, { e.2 with serve := if gone e.2.serve then 0 else e.2.serve,
                                                     stateSnap := if gone e.2.stateSnap then 0 else e.2.stateSnap }) }
      let s := freePages s own
      let s := s.modCxl fun x => { x with areas := x.areas.filter fun e => !(e.2.valid && e.2.part.toNat == p) }
      let s := groups.foldl zeroGroup s
      let s := modCores s p Core.cleared
      let s := groups.foldl (fun s g => s.modGroup g fun x => { GroupSt.fresh with railOff := x.railOff }) s
      let s := s.modPwr fun w => { w with on := groups.foldl (fun m g => m &&& ~~~(1#24 <<< (2 + g))) w.on }
      let s := (s.setPart p Part.fresh).modGovPart p fun _ => GovPart.fresh
      let s := s.modMem fun m => { m with achFail := sput (0, 0) m.achFail p (0, 0) }
      let s := dropLatches s p
      finish s via 2 0 St.ok 0 []

def execReleaseComplete (p : PartN) (s : State) : Host.Outcome State Fault Refusal := .next (releaseComplete s p)

end Sys2Proof.Machine
end

