-- ==== Sys2Proof/Machine/Snapshots.lean ====
section
/-! DEFINITION. Snapshots: digest tree and manifest (R209, R210), completion of a COMMIT (R211, R212), sealed images
(R439, R440). -/

namespace Sys2Proof.Machine

/-! ### Digest and manifest -/

/-- SHA-256 of two digests, left then right (R210). -/
def digestNode (a b : BitVec 256) : BitVec 256 := Config.sha256 (leBytes 32 a.toNat ++ leBytes 32 b.toNat)
/-- One level of the tree; a node without a partner is carried up. -/
def digestLevel : List (BitVec 256) → List (BitVec 256)
  | a :: b :: rest => digestNode a b :: digestLevel rest
  | l => l
/-- Root of the tree over the leaves in page order; 0 for no leaf (R210). -/
def digestRootN : Nat → List (BitVec 256) → BitVec 256
  | 0, l => l.headD 0
  | fuel + 1, l => if l.length ≤ 1 then l.headD 0 else digestRootN fuel (digestLevel l)
/-- The same with enough levels. -/
def digestRoot (l : List (BitVec 256)) : BitVec 256 := digestRootN l.length l

/-- Leaf of a page (R209). -/
def pageLeaf (s : State) (g : Nat) : BitVec 256 := Config.sha256 (bread s.stack (g * 65536) 65536)

/-- Manifest bytes: page count, version 1, zeros, then page number and leaf of each page (R209). -/
def manifestBytes (es : List (Nat × BitVec 256)) : List Byte :=
  leBytes 4 es.length ++ leBytes 4 1 ++ leBytes 8 0 ++ es.flatMap fun (e : Nat × BitVec 256) => leBytes 4 e.1 ++ leBytes 32 e.2.toNat
/-- Manifest pages for n pages. -/
def manifestPages (n : Nat) : Nat := (n + 1819) / 1820

/-- Leaf of page i that the manifest of a snapshot holds. -/
def manifestLeaf (s : State) (x : Snapshot) (i : Nat) : BitVec 256 :=
  -- entries run on across the manifest pages
  let at_ (o : Nat) : Byte := bget s.stack ((x.manifest.getD (o / 65536) 0) * 65536 + o % 65536)
  BitVec.ofNat 256 (ofLeBytes ((List.range 32).map fun b => at_ (16 + 36 * i + 4 + b)))

/-- Lowest handle from 1 upward that no snapshot has (log 14). -/
def freshHandle (s : State) : W32 :=
  BitVec.ofNat 32 (((List.range (s.snaps.length + 1)).find? fun i => !s.snaps.any fun x => x.handle == BitVec.ofNat 32 (i + 1)).getD 0 + 1)

/-- Snapshots that a context owns (SNAPS of Table 11-1). -/
def ownedSnaps (s : State) (c : Nat) : List Snapshot := s.snaps.filter fun x => x.ctx.toNat == c && x.ctx != 0xFFFF

/-- Pages written one after the other from a list of bytes, 65,536 to a page. -/
def fillPages (s : State) : List Nat → List Byte → State
  | [], _ => s
  | g :: gs, bs => fillPages (writePage s g (bs.take 65536)) gs (bs.drop 65536)

/-- A snapshot formed in one tick from pages that hold its bytes: SNAPSHOT with the context's number, a handle (R211). -/
def formSnapshot (s : State) (p c : Nat) (pages manifest : List Nat) (leaves : List (BitVec 256)) (epoch : W32) : State :=
  let s := takePages s .snapshot (some p) (BitVec.ofNat 16 c) (pages ++ manifest)
  { s with snaps := s.snaps ++ [⟨freshHandle s, BitVec.ofNat 16 c, pages, manifest, digestRoot leaves, epoch⟩] }

/-! ### COMMIT_COMPLETE -/

/-- Entries of the Chive queue that hold a launched COMMIT on a channel. -/
def commitsOn (k : Core) (ch : Nat) : List (QEntry × Launched × CommitF) :=
  (k.queue 3).filterMap fun e =>
    match e.op, e.launched with
    | .commit f, some l => if f.ch.toNat == ch && !l.dead then some (e, l, f) else none
    | _, _ => none

/-- Why the snapshot cannot form, if it cannot (R212, R347). -/
def commitCause (s : State) (p c n : Nat) (poison : Bool) (src : List Nat) : Option Status :=
  let x := s.ctx c
  if 49152 ≤ c || x.state == 0 || x.state == 6 || (s.part p).st == 3 then some St.disabled
  else if poison || src.any (fun g => (s.page g).v.getLsbD 9) then some St.integrityFault
  else if 8 ≤ (ownedSnaps s c).length || freeInMask s (s.part p).live.chans.v < n + manifestPages n then some St.noResource
  else none

/-- The bytes of a COMMIT become a snapshot of the context. -/
def commitPages (s : State) (p c : Nat) (bytes : List Byte) : State :=
  let n := (bytes.length + 65535) / 65536
  match allocPages s (s.part p).live.chans.v (n + manifestPages n) with
  | none => s
  | some gs =>
    onPages s gs fun s =>
      let pages := gs.take n
      let manifest := gs.drop n
      let s := fillPages s pages bytes
      let leaves := pages.map (pageLeaf s)
      let s := fillPages s manifest (manifestBytes (pages.zip leaves))
      formSnapshot s p c pages manifest leaves (s.part p).baseEpoch.v

/-- COMMIT_COMPLETE for the COMMIT of core c on channel ch, within 64 cycles after its last burst (R211). -/
def commitDone (s : State) (c ch : Nat) : State :=
  match commitsOn (s.core c) ch, partOfCore s c with
  | (e, l, f) :: _, some p =>
    let s := s.advance (max l.land (min s.gov.now (l.land + 64)))
    let s := countTo s c p s.gov.now
    let n : Env := ⟨overlay s l.recv, c, s.core c, p, (s.part p).live.ways.v, e, l.at_⟩
    let v := n.view f.src
    let bytes := commitBytes n f
    let x := v.d.ctx.toNat
    let src := if v.d.tier = 2 then v.pages else []
    onPages s src fun s =>
      let s := match commitCause s p x ((bytes.length + 65535) / 65536) l.poison src with
        | some st => chvFault s c e.op st
        | none => commitPages s p x bytes
      checkEnd (s.modCore c fun k => k.leave e) c
  | _, _ => s

def execCommitComplete (c : CoreN) (ch : Fin 4) (s : State) : Host.Outcome State Fault Refusal := .next (commitDone s c ch)

/-! ### Sealed images (R439, Table 13-7) -/

/-- SHAPE bytes of a context. -/
def shapeBytes (x : Ctx) : List Byte :=
  leBytes 1 x.kind.toNat ++ leBytes 1 x.rank.toNat ++ leBytes 1 x.proj.toNat ++ leBytes 1 0
/-- Header of a sealed image. -/
def sealHeader (x : Ctx) (state : Bool) (pages : Nat) (base digest : BitVec 256) (nonce : Nat) : List Byte :=
  leBytes 4 0x5345414C ++ leBytes 2 1 ++ leBytes 1 (if state then 1 else 0) ++ leBytes 1 0 ++ leBytes 4 pages ++
  shapeBytes x ++ leBytes 32 base.toNat ++ leBytes 32 digest.toNat ++ leBytes 8 nonce ++ leBytes 40 0
/-- IV: a 32-bit number, then the nonce. -/
def sealIv (i nonce : Nat) : BitVec 96 := BitVec.ofNat 96 (i + nonce * 2 ^ 32)

/-- Sealing key of a context, if CTX_SETKEY has written one (R438). -/
def sealKey (s : State) (c : Nat) : Option (BitVec 256) := sget none s.sage.ctxKeys (s.ctx c).keySlot.v.toNat
/-- Snapshot of a role. -/
def roleSnap (s : State) (c : Nat) (state : Bool) : Option Snapshot :=
  let h := if state then (s.ctx c).stateSnap else (s.ctx c).serve
  if h = 0 then none else snapOf s h

/-- The sealed image of a snapshot under a key, with a nonce from the DRBG. -/
def sealSnapshot (s : State) (c : Nat) (key : BitVec 256) (x : Snapshot) (state : Bool) (nonce : Nat) : List Byte :=
  let ps := x.pages ++ x.manifest
  let hdr := sealHeader (s.ctx c) state ps.length (s.part (s.ctx c).part.toNat).baseDigest x.digest nonce
  hdr ++ Config.gcmSeal key (sealIv 0xFFFFFFFF nonce) hdr [] ++
  ps.zipIdx.flatMap fun (y : Nat × Nat) =>
    Config.gcmSeal key (sealIv y.2 nonce) (leBytes 32 x.digest.toNat) (bread s.stack (y.1 * 65536) 65536)

/-- Random bits of the DRBG (R415): a free value (log 10), one request counted. -/
def drawBits (s : State) : BitVec 256 × State :=
  let (n, s) := draw s
  (Config.freeBits n, s.modSage fun g => { g with drbg := g.drbg + 1 })
/-- A fresh 64-bit nonce. -/
def drawNonce (s : State) : Nat × State :=
  let (b, s) := drawBits s
  (b.toNat % 2 ^ 64, s)

/-- Data pages of an image of N pages, manifest included. -/
def dataPages (n : Nat) : Nat := n - (n + 1820) / 1821

/-- Page i of a sealed image opened, if its tag holds. -/
def openPage (key : BitVec 256) (image : List Byte) (nonce : Nat) (digest : List Byte) (i : Nat) : Option (List Byte) :=
  let o := 144 + 65552 * i
  Config.gcmOpen key (sealIv i nonce) digest ((image.drop o).take 65536) ((image.drop (o + 65536)).take 16)

/-- Status with which an import is refused at its start, else the pages it needs (R440). -/
def importCheck (s : State) (c : Nat) (image : List Byte) : Except Status Nat :=
  match sealKey s c with
  | none => .error St.badHandle
  | some key =>
    let hdr := image.take 128
    match Config.gcmOpen key (sealIv 0xFFFFFFFF (fieldAt image 80 8)) hdr [] ((image.drop 128).take 16) with
    | none => .error St.authFail
    | some _ =>
      let n := fieldAt image 8 4
      if fieldAt image 0 4 ≠ 0x5345414C ∨ fieldAt image 4 2 ≠ 1 ∨ n < 2 ∨ image.length < 144 + 65552 * n ∨
          (image.drop 12).take 4 ≠ shapeBytes (s.ctx c) then .error St.badFormat
      else if 8 ≤ (ownedSnaps s c).length then .error St.noResource
      else .ok n

/-- The import's pages decrypted and checked: data and manifest bytes in order, or none (R440). -/
def importOpen (key : BitVec 256) (image : List Byte) (n : Nat) : Option (List (List Byte)) :=
  let ps := (List.range n).filterMap (openPage key image (fieldAt image 80 8) ((image.drop 48).take 32))
  let leaves := (ps.take (dataPages n)).map Config.sha256
  if ps.length = n ∧ digestRoot leaves = BitVec.ofNat 256 (fieldAt image 48 32) then some ps else none

end Sys2Proof.Machine
end

