-- ==== Sys2Proof/Machine/Contexts.lean ====
section
/-! DEFINITION. Adapter contexts: the context commands of Table 11-6 and their completions (R344 to R358, R371, R372,
R430, R438 to R440). -/

namespace Sys2Proof.Machine

/-! ### Who may name what (R354, R431, R435, R443, R489) -/

/-- Is a queue pair processing entries? -/
def Qp.on (q : Qp) : Bool := q.ctrl.getLsbD 0 && !q.disabled
/-- Tenant of a VF, with its complement. -/
def tenantOf (s : State) (vf : Nat) : Paired 16 := sget (Paired.of 0) s.sage.vfTenant vf
/-- Tenant record. -/
def tenantRec (s : State) (t : Nat) : Tenant := sget Tenant.fresh s.sage.tenants t

/-- A command of a tenant queue: nothing is processed on a pair that is off, and no command runs on one without a key. -/
def tenantCmd (s : State) (via : Via) (cmd ctx : BitVec 16) (f : Nat → Nat → BitVec 16 → State) : State :=
  match via with
  | .queue vf q _ =>
    let pair := s.qp vf q
    if !pair.on then s
    else if !pair.keyed then answer s via cmd ctx St.authFail 0 []
    else if !(tenantOf s vf).ok then mismatch s 6 vf
    else f vf.val q.val (tenantOf s vf).v
  | _ => denied s via cmd ctx

/-- May queue pair q of VF vf, of tenant t, name the context (R354, Table 11-1)? An unbound context may be named from every
queue of its tenant (log 40). -/
def mayName (x : Ctx) (vf q : Nat) (t : BitVec 16) : Bool :=
  x.state != 0 && x.tenant.v == t && (!x.bound || (x.vf.toNat == vf && x.qmask.getLsbD q))
/-- Do the pairs of the entry hold (R345)? -/
def Ctx.ok (x : Ctx) : Bool := x.tenant.ok && x.keySlot.ok && x.epoch.ok

/-- A tenant command that names a context: access, complement check, DELETING and WITHDRAWN (R345, R354, R371, R372). -/
def ctxCmd (s : State) (via : Via) (cmd c : BitVec 16) (f : State) : State :=
  tenantCmd s via cmd c fun vf q t =>
    let x := s.ctx c.toNat
    if 49152 ≤ c.toNat || !mayName x vf q t then answer s via cmd c St.badHandle 0 []
    else if !x.ok then mismatch s 3 c.toNat
    else if x.state = 6 then answer s via cmd c (if cmd.toNat < 0x120 then St.disabled else St.badHandle) 0 []
    else if x.state = 5 ∧ cmd ≠ 0x0129 ∧ cmd ≠ 0x012B then answer s via cmd c St.withdrawn 0 []
    else f

/-! ### CTX_CREATE, CTX_COMPOSE -/

/-- Shape limits of Table 11-2 for a created context. -/
def shapeOk (kind : BitVec 2) (rank : BitVec 8) (proj : BitVec 7) : Bool :=
  match kind.toNat with
  | 0 => proj != 0 && (rank == 1 || (decide (4 ≤ rank.toNat) && decide (rank.toNat ≤ 128) && rank.toNat % 4 == 0))
  | 1 => rank == 0 && proj != 0
  | 2 => rank == 0 && proj == 0
  | _ => false

/-- First number from n upward with no entry in an ascending list. -/
def firstGap {α : Type} : SMap α → Nat → Nat
  | [], n => n
  | (k, _) :: rest, n => if k = n then firstGap rest (n + 1) else n
/-- Lowest FREE entry; 49,152 when there is none. -/
def freeCtx (s : State) : Nat := min (firstGap s.ctxs 0) 49152
/-- Key slots that contexts hold. -/
def usedSlots (s : State) : List Nat := (s.ctxs.filter fun e => e.2.state != 0).map fun e => e.2.keySlot.v.toNat
/-- Lowest free key slot (log 14). -/
def freeSlot (s : State) : Nat :=
  let u := usedSlots s
  ((List.range (u.length + 1)).find? fun i => !u.contains i).getD 0
/-- Contexts of a tenant that are not FREE. -/
def tenantCount (s : State) (t : BitVec 16) : Nat := (s.ctxs.filter fun e => e.2.state != 0 && e.2.tenant.v == t).length

/-- Room for one more context of the tenant (R430)? -/
def ctxRoom (s : State) (t : BitVec 16) : Bool :=
  decide (tenantCount s t < (tenantRec s t.toNat).quota.toNat) && decide (freeCtx s < 49152)

/-- A new entry in the lowest FREE place, with the partition's epoch and digest (R55, R354). -/
def makeCtx (s : State) (t : BitVec 16) (p : BitVec 3) (kind : BitVec 2) (rank : BitVec 8) (proj : BitVec 7) (state : BitVec 3)
    (seed : BitVec 64) (stream : Option W32) (a b : BitVec 16) : State :=
  let n := freeCtx s
  let q := s.part p.toNat
  s.setCtx n { Ctx.fresh with
    state := state, kind := kind, part := p, rank := rank, proj := proj, tenant := Paired.of t,
    keySlot := Paired.of (BitVec.ofNat 16 (freeSlot s)), epoch := Paired.of q.baseEpoch.v, baseDigest := q.baseDigest,
    memberA := a, memberB := b, seed := seed, stream := stream.getD (BitVec.ofNat 32 n) }

/-- Does the partition hold a base (R373)? -/
def holdsBase (q : Part) : Bool := !q.basePages.isEmpty

/-- CTX_CREATE; VALUE is the new context's number (log 41). -/
def ctxCreate (s : State) (via : Via) (p : PartN) (kind : BitVec 2) (rank : BitVec 8) (proj : BitVec 7)
    (seed : Option (BitVec 64)) (stream : Option W32) : State :=
  tenantCmd s via 0x0120 0xFFFF fun _ _ t =>
    let r := tenantRec s t.toNat
    let q := s.part p
    if !r.mask.ok then mismatch s 6 t.toNat
    else if !q.baseEpoch.ok then mismatch s 2 p
    else if !r.mask.v.getLsbD p || q.st != 1 || !holdsBase q then answer s via 0x0120 0xFFFF St.badHandle 0 []
    else if !shapeOk kind rank proj then answer s via 0x0120 0xFFFF St.badFormat 0 []
    else if !ctxRoom s t then answer s via 0x0120 0xFFFF St.noResource 0 []
    else answer (makeCtx s t (BitVec.ofNat 3 p) kind rank proj 1 (seed.getD 0) stream 0xFFFF 0xFFFF) via 0x0120 0xFFFF St.ok
           (freeCtx s) []

def execCtxCreate (via : Via) (p : PartN) (kind : BitVec 2) (rank : BitVec 8) (proj : BitVec 7) (seed : Option (BitVec 64))
    (stream : Option W32) (s : State) : Host.Outcome State Fault Refusal := .next (ctxCreate s via p kind rank proj seed stream)

/-- Adapter header of a serving snapshot: bytes of its page 0 (R351). -/
def headerOf (s : State) (h : W32) : List Byte :=
  match snapOf s h with
  | none => []
  | some x => bread s.stack (x.pages.headD 0 * 65536) 65536
/-- The page that holds a snapshot's header. -/
def headerPage (s : State) (h : W32) : List Nat := match snapOf s h with | none => [] | some x => x.pages.take 1
/-- Claims of a header: layer, slot, width. -/
def claimsOf (bs : List Byte) : List (Nat × Nat × Nat) :=
  (List.range (min (fieldAt bs 6 2) 4096)).map fun i => (fieldAt bs (16 + 4 * i) 1, fieldAt bs (17 + 4 * i) 1, fieldAt bs (18 + 4 * i) 2)
/-- Do claims ascend by layer and slot, none twice? -/
def claimsRise : List (Nat × Nat × Nat) → Bool
  | a :: b :: rest => (decide (a.1 < b.1) || (a.1 == b.1 && decide (a.2.1 < b.2.1))) && claimsRise (b :: rest)
  | _ => true
/-- Is a header valid (R351, R352)? -/
def headerValid (bs : List Byte) : Bool :=
  let cs := claimsOf bs
  let n := fieldAt bs 6 2
  let layers := fieldAt bs 4 2
  bs.length == 65536 && decide (1 ≤ layers) && decide (layers ≤ 256) && decide (n ≤ 4096) && claimsRise cs &&
  cs.all (fun c => decide (c.1 < layers) && decide (c.2.1 < 16) && decide (64 ≤ c.2.2) && decide (c.2.2 ≤ 2048) && c.2.2 % 64 == 0) &&
  (if fieldAt bs 0 1 = 2 then decide (1 ≤ n) else n == 0) && fieldAt bs 3 1 == 0 && fieldAt bs 8 8 == 0
/-- (LAYER, SLOT) pairs of a header. -/
def claimPairs (bs : List Byte) : List (Nat × Nat) := (claimsOf bs).map fun c => (c.1, c.2.1)
/-- Do two headers claim one slot (R356, R357)? -/
def claimClash (a b : List Byte) : Bool := (claimPairs a).any fun x => (claimPairs b).contains x

/-- CTX_COMPOSE (R356); VALUE is the new context's number. -/
def ctxCompose (s : State) (via : Via) (a b : BitVec 16) : State :=
  tenantCmd s via 0x0124 0xFFFF fun vf q t =>
    let x := s.ctx a.toNat
    let y := s.ctx b.toNat
    let member (n : BitVec 16) (z : Ctx) : Bool := decide (n.toNat < 49152) && mayName z vf q t && z.state == 2 && z.kind != 3
    if !member a x || !member b y || x.part != y.part then answer s via 0x0124 0xFFFF St.badHandle 0 []
    else if !x.ok then mismatch s 3 a.toNat
    else if !y.ok then mismatch s 3 b.toNat
    else onPages s (headerPage s x.serve ++ headerPage s y.serve) fun s =>
      if claimClash (headerOf s x.serve) (headerOf s y.serve) then answer s via 0x0124 0xFFFF St.slotConflict 0 []
      else if !ctxRoom s t then answer s via 0x0124 0xFFFF St.noResource 0 []
      else answer (makeCtx s t x.part 3 0 0 2 0 none a b) via 0x0124 0xFFFF St.ok (freeCtx s) []

def execCtxCompose (via : Via) (a b : BitVec 16) (s : State) : Host.Outcome State Fault Refusal := .next (ctxCompose s via a b)

/-! ### CTX_BIND, CTX_SEED, CTX_SETKEY, CTX_REBASE -/

/-- CTX_BIND; a VF of another tenant is BAD_HANDLE (log 42). -/
def ctxBind (s : State) (via : Via) (c : BitVec 16) (vf : BitVec 7) (qmask : W32) : State :=
  ctxCmd s via 0x0121 c
    (if (tenantOf s vf.toNat).v ≠ (s.ctx c.toNat).tenant.v then answer s via 0x0121 c St.badHandle 0 []
     else answer (s.modCtx c.toNat fun x => { x with vf := vf, qmask := qmask, bound := true }) via 0x0121 c St.ok 0 [])
def execCtxBind (via : Via) (ctx : BitVec 16) (vf : BitVec 7) (qmask : W32) (s : State) : Host.Outcome State Fault Refusal :=
  .next (ctxBind s via ctx vf qmask)

/-- CTX_SEED: in force from the next tile boundary of the partition (R56), at once where no job runs (log 43). -/
def ctxSeed (s : State) (via : Via) (c : BitVec 16) (seed : BitVec 64) (stream : W32) : State :=
  ctxCmd s via 0x0125 c
    (let s := s.modCtx c.toNat fun x => { x with newSeed := some (seed, stream, s.tick + 1) }
     let p := (s.ctx c.toNat).part.toNat
     answer (if (s.part p).running.isSome then s else applySeeds s p (s.tick + 1)) via 0x0125 c St.ok 0 [])
def execCtxSeed (via : Via) (ctx : BitVec 16) (seed : BitVec 64) (stream : W32) (s : State) : Host.Outcome State Fault Refusal :=
  .next (ctxSeed s via ctx seed stream)

/-- CTX_SETKEY (R438). -/
def ctxSetkey (s : State) (via : Via) (c : BitVec 16) (key : BitVec 256) : State :=
  ctxCmd s via 0x0126 c
    (let x := s.ctx c.toNat
     if !x.importing.isEmpty || !x.exporting.isEmpty || s.cxl.exports.any (fun e => e.2.1 == c) then answer s via 0x0126 c St.busy 0 []
     else answer (s.modSage fun g => { g with ctxKeys := sput none g.ctxKeys (s.ctx c.toNat).keySlot.v.toNat (some key) }) via 0x0126 c St.ok 0 [])
def execCtxSetkey (via : Via) (ctx : BitVec 16) (key : BitVec 256) (s : State) : Host.Outcome State Fault Refusal :=
  .next (ctxSetkey s via ctx key)

/-- CTX_REBASE: STALE to REBASING (R353). -/
def ctxRebase (s : State) (via : Via) (c : BitVec 16) : State :=
  ctxCmd s via 0x012A c
    (if (s.ctx c.toNat).state ≠ 3 then answer s via 0x012A c St.badHandle 0 []
     else answer (s.modCtx c.toNat fun x => { x with state := 4 }) via 0x012A c St.ok 0 [])
def execCtxRebase (via : Via) (ctx : BitVec 16) (s : State) : Host.Outcome State Fault Refusal := .next (ctxRebase s via ctx)

/-! ### CTX_ADOPT, CTX_RELEASE_SNAP -/

/-- Handles of the other members of the compositions that name context c. -/
def partners (s : State) (c : BitVec 16) : List W32 :=
  (s.ctxs.filter fun e => e.2.kind == 3 && e.2.state != 0 && (e.2.memberA == c || e.2.memberB == c)).map fun e =>
    (s.ctx (if e.2.memberA = c then e.2.memberB else e.2.memberA).toNat).serve

/-- A role's old snapshot is given up unless the context still names it (R355). -/
def unhold (s : State) (c : Nat) (old : W32) : State :=
  if old = 0 ∨ (s.ctx c).serve = old ∨ (s.ctx c).stateSnap = old then s else sweepSnaps (dropSnap s old)

/-- CTX_ADOPT (R355, R357, R375). -/
def ctxAdopt (s : State) (via : Via) (c : BitVec 16) (state : Bool) (h : W32) : State :=
  ctxCmd s via 0x0122 c
    (let x := s.ctx c.toNat
     let q := s.part x.part.toNat
     if !q.baseEpoch.ok then mismatch s 2 x.part.toNat
     else if x.kind = 3 then answer s via 0x0122 c St.badFormat 0 []
     else
       match (ownedSnaps s c.toNat).find? fun y => y.handle == h with
       | none => answer s via 0x0122 c St.badHandle 0 []
       | some y =>
         let early : Bool := state && (x.state == 1 || x.state == 4) && decide (y.epoch.toNat < q.baseEpoch.v.toNat)
         if y.epoch ≠ q.baseEpoch.v ∧ !early then answer s via 0x0122 c St.staleBase 0 []
         else if state then
           answer (unhold (s.modCtx c.toNat fun z => { z with stateSnap := h }) c.toNat x.stateSnap) via 0x0122 c St.ok 0 []
         else onPages s (headerPage s h) fun s =>
           let bs := headerOf s h
           if !headerValid bs || bs.take 3 != (shapeBytes x).take 3 then answer s via 0x0122 c St.badFormat 0 []
           else if (partners s c).any (fun o => claimClash bs (headerOf s o)) then answer s via 0x0122 c St.slotConflict 0 []
           else
             answer (unhold (s.modCtx c.toNat fun z =>
               { z with serve := h, state := 2, epoch := Paired.of q.baseEpoch.v, baseDigest := q.baseDigest }) c.toNat x.serve)
               via 0x0122 c St.ok 0 [])
def execCtxAdopt (via : Via) (ctx : BitVec 16) (state : Bool) (handle : W32) (s : State) : Host.Outcome State Fault Refusal :=
  .next (ctxAdopt s via ctx state handle)

/-- CTX_RELEASE_SNAP: BUSY for the snapshots in a role, BAD_HANDLE for one it does not own. -/
def ctxReleaseSnap (s : State) (via : Via) (c : BitVec 16) (h : W32) : State :=
  ctxCmd s via 0x0123 c
    (let x := s.ctx c.toNat
     if !(ownedSnaps s c.toNat).any (fun y => y.handle == h) then answer s via 0x0123 c St.badHandle 0 []
     else if h = x.serve ∨ h = x.stateSnap then answer s via 0x0123 c St.busy 0 []
     else answer (sweepSnaps (dropSnap s h)) via 0x0123 c St.ok 0 [])
def execCtxReleaseSnap (via : Via) (ctx : BitVec 16) (handle : W32) (s : State) : Host.Outcome State Fault Refusal :=
  .next (ctxReleaseSnap s via ctx handle)

/-! ### CTX_QUERY -/

/-- Requests that hold a pin through the context (PINS, R369): its own, and those of compositions that name it. -/
def pinsOf (s : State) (c : BitVec 16) : Nat :=
  ((s.part (s.ctx c.toNat).part.toNat).dill.reqs.filter fun (r : Req) =>
    r.staged && (r.ctx == c || ((s.ctx r.ctx.toNat).kind == 3 &&
      ((s.ctx r.ctx.toNat).memberA == c || (s.ctx r.ctx.toNat).memberB == c)))).length

/-- DATA of CTX_QUERY (R349; order of the fields: log 44). -/
def queryBytes (s : State) (c : BitVec 16) : List Byte :=
  let x := s.ctx c.toNat
  leBytes 1 x.state.toNat ++ leBytes 1 x.kind.toNat ++ leBytes 2 (pinsOf s c) ++ leBytes 4 x.serve.toNat ++
  leBytes 4 x.stateSnap.toNat ++ leBytes 4 x.epoch.v.toNat ++ leBytes 16 x.numeric.toNat ++ leBytes 24 x.advisory.toNat ++
  (ownedSnaps s c.toNat).flatMap fun (y : Snapshot) => leBytes 4 y.handle.toNat

/-- CTX_QUERY: permitted only from the bound queues; it clears both records (R349). -/
def ctxQuery (s : State) (via : Via) (c : BitVec 16) : State :=
  ctxCmd s via 0x0129 c
    (if !(s.ctx c.toNat).bound then answer s via 0x0129 c St.badHandle 0 []
     else
       answer (s.modCtx c.toNat fun x => { x with numeric := 0, advisory := 0, numPending := false, advPending := false })
         via 0x0129 c St.ok 0 (queryBytes s c))
def execCtxQuery (via : Via) (ctx : BitVec 16) (s : State) : Host.Outcome State Fault Refusal := .next (ctxQuery s via ctx)

/-! ### CTX_IMPORT, CTX_EXPORT (R438 to R440) -/

/-- CTX_IMPORT: pages taken from FREE to STAGING while they are checked. -/
def ctxImport (s : State) (via : Via) (c : BitVec 16) (image : List Byte) : State :=
  ctxCmd s via 0x0127 c
    (match importCheck s c.toNat image with
     | .error st => answer s via 0x0127 c st 0 []
     | .ok n =>
       let p := (s.ctx c.toNat).part.toNat
       match allocPages s (s.part p).live.chans.v n with
       | none => answer s via 0x0127 c St.noResource 0 []
       | some gs => (takePages s .staging (some p) c gs).modCtx c.toNat fun x => { x with importing := x.importing ++ [(via, gs, image)] })
def execCtxImport (via : Via) (ctx : BitVec 16) (image : List Byte) (s : State) : Host.Outcome State Fault Refusal :=
  .next (ctxImport s via ctx image)

/-- The first import of a context ends. -/
def ctxImportComplete (s : State) (c : BitVec 16) : State :=
  let x := s.ctx c.toNat
  match x.importing with
  | [] => s
  | (via, gs, image) :: rest =>
    let p := x.part.toNat
    let s := s.modCtx c.toNat fun y => { y with importing := rest }
    match (sealKey s c.toNat).bind fun key => importOpen key image gs.length with
    | none => finish (freePages s gs) via 0x0127 c St.authFail 0 []
    | some bytes => onPages s gs fun s =>
      if 8 ≤ (ownedSnaps s c.toNat).length then finish (freePages s gs) via 0x0127 c St.noResource 0 []
      else
        let s := (gs.zip bytes).foldl (fun s y => writePage s y.1 y.2) s
        let n := dataPages gs.length
        let h := freshHandle s
        let q := s.part p
        let epoch := if BitVec.ofNat 256 (fieldAt image 16 32) = q.baseDigest then q.baseEpoch.v else 0
        let s := formSnapshot s p c.toNat (gs.take n) (gs.drop n) ((bytes.take n).map Config.sha256) epoch
        finish s via 0x0127 c St.ok h.toNat []
def execCtxImportComplete (ctx : BitVec 16) (s : State) : Host.Outcome State Fault Refusal := .next (ctxImportComplete s ctx)

/-- CTX_EXPORT: the image is sealed from the snapshot, which never changes; NO_RESOURCE where the host's length is too short
(log 45). -/
def ctxExport (s : State) (via : Via) (c : BitVec 16) (state : Bool) (addr len : BitVec 64) : State :=
  ctxCmd s via 0x0128 c
    (match sealKey s c.toNat, roleSnap s c.toNat state with
     | some key, some y => onPages s (y.pages ++ y.manifest) fun s =>
       let (nonce, s) := drawNonce s
       let image := sealSnapshot s c.toNat key y state nonce
       if len.toNat < 144 + 65552 * (y.pages ++ y.manifest).length then answer s via 0x0128 c St.noResource 0 []
       else s.modCtx c.toNat fun x => { x with exporting := x.exporting ++ [(via, addr, image)] }
     | _, _ => answer s via 0x0128 c St.badHandle 0 [])
def execCtxExport (via : Via) (ctx : BitVec 16) (state : Bool) (addr len : BitVec 64) (s : State) : Host.Outcome State Fault Refusal :=
  .next (ctxExport s via ctx state addr len)

/-- The first export of a context is in host memory. -/
def ctxExportComplete (s : State) (c : BitVec 16) : State :=
  match (s.ctx c.toNat).exporting with
  | [] => s
  | (via, addr, image) :: rest =>
    let s := s.modCtx c.toNat fun y => { y with exporting := rest }
    finish (s.modCxl fun x => { x with host := x.host ++ [(addr, image)] }) via 0x0128 c St.ok 0 []
def execCtxExportComplete (ctx : BitVec 16) (s : State) : Host.Outcome State Fault Refusal := .next (ctxExportComplete s ctx)

/-! ### CTX_WITHDRAW, CTX_DELETE (R371, R372) -/

/-- Partition of a Dill mailbox: mailboxes 24 to 31 belong to partitions 0 to 7 (Table 14-1). -/
def boxPart : Via → Option Nat
  | .mailbox n _ => if 24 ≤ n.val ∧ n.val < 32 then some (n.val - 24) else none
  | _ => none

/-- Does the context lie in the partition of the mailbox (log 46)? -/
def ofBox (s : State) (via : Via) (c : BitVec 16) : Bool :=
  decide (c.toNat < 49152) && (s.ctx c.toNat).state != 0 && (s.ctx c.toNat).state != 6 &&
  (match boxPart via with | none => true | some p => (s.ctx c.toNat).part.toNat == p)

/-- CTX_WITHDRAW: WITHDRAWN in the tick in which it is sampled (R371). -/
def ctxWithdraw (s : State) (via : Via) (c : BitVec 16) : State :=
  permitted s via 0x0020 c (Via.isPf0 via) fun s =>
    if !ofBox s via c then answer s via 0x0020 c St.badHandle 0 []
    else if !(s.ctx c.toNat).ok then mismatch s 3 c.toNat
    else answer (s.modCtx c.toNat fun x => { x with state := 5 }) via 0x0020 c St.ok 0 []
def execCtxWithdraw (via : Via) (ctx : BitVec 16) (s : State) : Host.Outcome State Fault Refusal := .next (ctxWithdraw s via ctx)

/-- Is the context a member of a composition (R358)? -/
def isMember (s : State) (c : BitVec 16) : Bool :=
  s.ctxs.any fun e => e.2.state != 0 && e.2.kind == 3 && (e.2.memberA == c || e.2.memberB == c)

/-- A context enters DELETING; sealed images and exports of it that are being written end with DISABLED (R372, R480). -/
def beginDelete (s : State) (via : Option Via) (c : BitVec 16) : State :=
  let x := s.ctx c.toNat
  let s := x.importing.foldl (fun s e => finish (freePages s e.2.1) e.1 0x0127 c St.disabled 0 []) s
  let s := x.exporting.foldl (fun s e => finish s e.1 0x0128 c St.disabled 0 []) s
  let s := (s.cxl.exports.filter fun e => e.2.1 == c).foldl (fun s e =>
    let s := freePages s (sget Area.fresh s.cxl.areas e.1).pages
    finish (s.modCxl fun x => { x with areas := sput Area.fresh x.areas e.1 Area.fresh,
                                       exports := x.exports.filter fun y => y.1 != e.1 }) e.2.2 0x000B c St.disabled 0 []) s
  s.modCtx c.toNat fun x => { x with state := 6, owed := via, importing := [], exporting := [] }

/-- CTX_DELETE from a tenant queue, or from PF0 for WITHDRAWN contexts (Table 13-11). -/
def ctxDelete (s : State) (via : Via) (c : BitVec 16) : State :=
  match via with
  | .queue _ _ _ =>
    ctxCmd s via 0x012B c (if isMember s c then answer s via 0x012B c St.busy 0 [] else beginDelete s (some via) c)
  | _ =>
    permitted s via 0x0021 c (Via.isPf0 via) fun s =>
      if !ofBox s via c || (s.ctx c.toNat).state != 5 then answer s via 0x0021 c St.badHandle 0 []
      else if !(s.ctx c.toNat).ok then mismatch s 3 c.toNat
      else if isMember s c then answer s via 0x0021 c St.busy 0 []
      else beginDelete (accept s via) (some via) c
def execCtxDelete (via : Via) (ctx : BitVec 16) (s : State) : Host.Outcome State Fault Refusal := .next (ctxDelete s via ctx)

/-- Some requests of a partition end with a status: completion, KV pages, pins (R366, R369). -/
def endSome (s : State) (p : Nat) (f : Req → Bool) (st : Status) : State :=
  let out := (s.part p).dill.reqs.filter f
  let s := out.foldl (fun s r => completeReq s r st) s
  let s := freeKv s p (out.flatMap (·.kv))
  sweepSnaps (s.modPart p fun q => { q with dill := { q.dill with reqs := q.dill.reqs.filter fun r => !f r } })

/-- Does the step in progress hold rows of the context? -/
def inStepOf (s : State) (p : Nat) (c : BitVec 16) : Bool :=
  let q := s.part p
  (q.dill.inStep && q.dill.rowCtx.contains c) || (match q.train with | some t => t.segment != 0 && t.ctx == c | none => false)

/-- CTX_DELETE_COMPLETE: the last request has ended; snapshots, key slot and entry are given up (R372). -/
def ctxDeleteComplete (s : State) (c : BitVec 16) : State :=
  let x := s.ctx c.toNat
  let p := x.part.toNat
  if x.state ≠ 6 || inStepOf s p c then s
  else
    let s := endSome s p (fun r => r.ctx == c) St.disabled
    let s := if (s.part p).train.any (fun t => t.ctx == c) then abandonCkpt s p St.disabled else s
    let s := endTrains s p (fun t => t.ctx == c) St.disabled
    let s := sweepSnaps ((ownedSnaps s c.toNat).foldl (fun s y => dropSnap s y.handle) s)
    let s := s.modSage fun g => { g with ctxKeys := sput none g.ctxKeys x.keySlot.v.toNat none }
    let s := s.setCtx c.toNat Ctx.fresh
    match x.owed with
    | none => s
    | some via => finish s via (if Via.isQueue via then 0x012B else 0x0021) c St.ok 0 []
def execCtxDeleteComplete (ctx : BitVec 16) (s : State) : Host.Outcome State Fault Refusal := .next (ctxDeleteComplete s ctx)

end Sys2Proof.Machine
end

