-- ==== Sys2Proof/Machine/Serving.lean ====
section
/-! DEFINITION. Serving: GENERATE and CANCEL (R364, R371, R485, R491), staging and fills (R192 to R195, R367 to R370), step
formation (R359 to R366, R374) and the end of a step (R485). -/

namespace Sys2Proof.Machine

/-! ### Contexts of an adaptation -/

/-- The contexts whose adapters an adaptation uses: itself, or the members of a composition (R356). -/
def partsOf (s : State) (c : BitVec 16) : List (BitVec 16) :=
  let x := s.ctx c.toNat
  if x.kind = 3 then [x.memberA, x.memberB] else [c]
/-- Serving snapshots of an adaptation. -/
def servingSnaps (s : State) (c : BitVec 16) : List W32 := (partsOf s c).map fun m => (s.ctx m.toNat).serve

/-- Does the context's epoch equal its partition's (R374)? -/
def epochOk (s : State) (c : BitVec 16) : Bool :=
  (s.ctx c.toNat).epoch.v == (s.part (s.ctx c.toNat).part.toNat).baseEpoch.v

/-- Dill's use of context entries: their pairs are checked first (R345). -/
def onCtxs (s : State) (cs : List (BitVec 16)) (f : State → State) : State :=
  match (cs.flatMap fun c => c :: partsOf s c).find? fun c => decide (c.toNat < 49152) && !(s.ctx c.toNat).ok with
  | some c => mismatch s 3 c.toNat
  | none => f s
/-- Contexts that the requests of a partition name. -/
def reqCtxs (s : State) (p : Nat) : List (BitVec 16) := ((s.part p).dill.reqs.map fun (r : Req) => r.ctx).eraseDups

/-- Status with which a serving request of the context ends at an admission, if it ends (R358, R371, R372, R374). -/
def serveStatus (s : State) (c : BitVec 16) : Option Status :=
  let cs := (c :: partsOf s c).eraseDups
  let st (n : BitVec 16) : BitVec 3 := (s.ctx n.toNat).state
  if cs.any fun n => st n == 6 || st n == 0 then some St.disabled
  else if cs.any fun n => st n == 5 then some St.withdrawn
  else if cs.any fun n => st n == 3 || !epochOk s n then some St.staleBase
  else if cs.any fun n => st n != 2 then some St.badHandle
  else none

/-- Contexts of the adaptation whose epoch differs become STALE (R374). -/
def markStale (s : State) (c : BitVec 16) : State :=
  ((c :: partsOf s c).eraseDups).foldl (fun s n =>
    let x := s.ctx n.toNat
    if (x.state == 1 || x.state == 2) && !epochOk s n then s.setCtx n.toNat { x with state := 3 } else s) s

/-! ### GENERATE, CANCEL -/

/-- Serving declarations of the running image of a partition. -/
def serveInfo (s : State) (p : Nat) : Option ImgInfo := (s.part p).running.bind fun i => ((s.part p).image i).info
/-- KV page numbers that n tokens take (R364). -/
def kvNeed (x : ImgInfo) (n : Nat) : Nat := (n + x.serve.tpp - 1) / max x.serve.tpp 1

/-- A request as it arrives. -/
def Req.new (cmd : BitVec 16) (vf q : Nat) (htag : W32) (c : BitVec 16) (tokens : List W32) (n maxNew : Nat) (stop : W32)
    (params : List Byte) : Req :=
  { command := cmd, vf := vf, qp := q, htag := htag, ctx := c, prompt := n, done := 0, produced := 0, maxNew := maxNew,
    stop := stop, params := params, tokens := tokens, kv := [], started := false, chunk := 0, rows := 0, status := St.ok,
    staged := false, snaps := [] }

/-- GENERATE (R364, R483, R485): refused, or queued in order of arrival. -/
def generate (s : State) (via : Via) (c : BitVec 16) (total : Nat) (maxNew stop : W32) (params : List Byte) (prompt : List W32) :
    State :=
  ctxCmd s via 0x0101 c
    (onCtxs s [c] fun s =>
     let p := (s.ctx c.toNat).part.toNat
     if total = 0 ∨ total % 4 ≠ 0 then answer s via 0x0101 c St.badFormat 0 []
     else
       match serveStatus s c with
       | some st => answer (markStale s c) via 0x0101 c st 0 []
       | none =>
         let tooBig : Bool := match servingImage (s.part p) with
           | none => false
           | some x => decide (x.serve.kvPages < kvNeed x (total / 4 + maxNew.toNat))
         if tooBig then answer s via 0x0101 c St.noResource 0 []
         else
           match via with
           | .queue vf q htag =>
             s.modPart p fun x =>
               { x with dill := { x.dill with reqs := x.dill.reqs ++ [Req.new 0x0101 vf q htag c prompt (total / 4) maxNew.toNat stop params] } }
           | _ => s)
def execGenerate (via : Via) (ctx : BitVec 16) (total : Nat) (maxNew stop : W32) (params : List Byte) (prompt : List W32) (s : State) :
    Host.Outcome State Fault Refusal := .next (generate s via ctx total maxNew stop params prompt)

/-- A request named by its queue pair and HTAG. -/
def Req.isOf (r : Req) (vf q : Nat) (htag : W32) : Bool := r.vf == vf && r.qp == q && r.htag == htag && r.command != 0x0110
/-- The same for a training request. -/
def TrainJob.isOf (t : TrainJob) (vf q : Nat) (htag : W32) : Bool := t.vf == vf && t.qp == q && t.htag == htag

/-- Requests of a partition end with a status: those with rows in the step in progress at its end, the others at once
(R342); training requests in a step at the end of that step. -/
def disableReqs (s : State) (p : Nat) (f : Req → Bool) (st : Status) : State :=
  let s := s.modPart p fun q =>
    { q with dill := { q.dill with reqs := q.dill.reqs.map fun r => if f r && r.rows != 0 then { r with status := st } else r } }
  endSome s p (fun r => f r && r.rows == 0) st

/-- Training requests end with a status: one whose step is in progress at the end of that step, the others at once (R342). -/
def disableTrains (s : State) (p : Nat) (f : TrainJob → Bool) (st : Status) : State :=
  let s := s.modPart p fun q =>
    { q with train := q.train.map fun t => if f t && t.segment != 0 then { t with status := st } else t }
  endTrains s p (fun t => f t && t.segment == 0) st

/-- CANCEL: the request of this queue pair with the named HTAG ends with DISABLED (R342, R491). -/
def cancel (s : State) (via : Via) (htag : W32) : State :=
  tenantCmd s via 0x0102 0xFFFF fun vf q _ =>
    match (List.range 8).find? fun p => (s.part p).dill.reqs.any fun r => r.isOf vf q htag with
    | some p => answer (disableReqs s p (fun r => r.isOf vf q htag) St.disabled) via 0x0102 0xFFFF St.ok 0 []
    | none =>
      match (List.range 8).find? fun p => ((s.part p).train.toList ++ (s.part p).trainQ).any fun t => t.isOf vf q htag with
      | some p => answer (disableTrains s p (fun t => t.isOf vf q htag) St.disabled) via 0x0102 0xFFFF St.ok 0 []
      | none => answer s via 0x0102 0xFFFF St.badHandle 0 []
def execCancel (via : Via) (htag : W32) (s : State) : Host.Outcome State Fault Refusal := .next (cancel s via htag)

/-! ### Staging (R367 to R370) -/

/-- Is the page resident in the partition's ways? -/
def resident (s : State) (p g : Nat) : Bool :=
  let ways := (s.part p).live.ways.v
  (List.range 32).any fun w => ways.getLsbD w &&
    (match sget none s.lines (lineIx (setOf g) w) with | none => false | some l => l.gpage == g)

/-- More pages of one set than ways, or more than 512 times that number (R370)? -/
def neverFits (s : State) (p : Nat) (pages : List Nat) : Bool :=
  let ways := (maskList 32 (s.part p).live.ways.v).length
  decide (512 * ways < pages.length) || pages.any fun g => decide (ways < (pages.filter fun h => setOf h == setOf g).length)

/-- Requests waiting on an adaptation take its pins (R369). -/
def pinReqs (s : State) (p : Nat) (c : BitVec 16) (snaps : List W32) : State :=
  s.modPart p fun q =>
    { q with dill := { q.dill with reqs := q.dill.reqs.map fun r =>
        if r.ctx == c && !r.staged then { r with staged := true, snaps := snaps } else r } }

/-- ADAPTER_STAGING: the oldest request without its adaptation starts staging it, one staging at a time (R368). -/
def adapterStaging (s : State) (p : Nat) : State :=
  let d := (s.part p).dill
  if d.staging.isSome then s
  else onCtxs s (reqCtxs s p) fun s =>
    match d.reqs.find? fun r => !r.staged && (serveStatus s r.ctx).isNone with
    | none => s
    | some r =>
      let snaps := servingSnaps s r.ctx
      let all := snapPages s snaps
      let missing := all.filter fun g => !resident s p g
      let none_ : Bool := match servingImage (s.part p) with | none => false | some x => x.serve.reserve == 0
      let waiting (x : Req) : Bool := x.ctx == r.ctx && !x.staged
      if missing.isEmpty then pinReqs s p r.ctx snaps
      else if none_ || neverFits s p all then endSome s p waiting St.noResource
      else s.modPart p fun q => { q with dill := { q.dill with staging := some ⟨r.ctx, snaps, missing, all⟩ } }
def execAdapterStaging (p : PartN) (s : State) : Host.Outcome State Fault Refusal := .next (adapterStaging s p)

/-- The way that a fill of page g takes: an invalid one, else the least recently used of the unpinned ones (R195). -/
def fillWay (s : State) (p g : Nat) : Option Nat :=
  let ways := maskList 32 (s.part p).live.ways.v
  let line (w : Nat) : Option Line := sget none s.lines (lineIx (setOf g) w)
  match ways.find? fun w => (line w).isNone with
  | some w => some w
  | none =>
    let held := pinnedPages s p
    (ways.filterMap fun w => (line w).bind fun l => if held.contains l.gpage then none else some (w, l.used)).foldl
      (fun (b : Option (Nat × Nat)) x => match b with | none => some x | some y => if x.2 < y.2 then some x else some y) none
      |>.map Prod.fst

/-- Leaf that a fill compares with: the manifest's for a data page, none for a manifest page (log 47). -/
def leafOf (s : State) (snaps : List W32) (g : Nat) : Option (BitVec 256) :=
  (snaps.filterMap (snapOf s)).findSome? fun x =>
    if x.pages.contains g then some (manifestLeaf s x (x.pages.findIdx (· == g))) else none

/-- Advisory of kind SOURCE to the contexts whose snapshot the page belongs to, from the base load to now (Table 3-5). -/
def sourceAdvisory (s : State) (p g : Nat) : State :=
  let w := advisoryWord 3 0 0 (BitVec.ofNat 64 (s.part p).integ.loadDone) s.tick64
  ((s.snaps.filter fun x => (x.pages ++ x.manifest).contains g && x.ctx != 0xFFFF).map fun (x : Snapshot) => x.ctx.toNat).foldl
    (fun s c => giveAdvisory s c w) s

/-- CACHE_FILL of one page of the staging in progress (R193, R195); bursts delivered as received are hashed as they came (R190). -/
def cacheFill (s : State) (p g : Nat) (mem : List MemEvent) : State :=
  match (s.part p).dill.staging with
  | none => s
  | some st =>
    if !st.pages.contains g then s
    else onPages s [g] fun s =>
      let s := burstEvents s p mem
      let dropStaging (s : State) : State := s.modPart p fun q => { q with dill := { q.dill with staging := none } }
      match fillWay s p g with
      | none =>
        dropStaging (s.modMem fun m => { m with achFail := smod (0, 0) m.achFail p fun x => (x.1, satAdd x.2 1) })
      | some w =>
        let ix := lineIx (setOf g) w
        let bytes := bread (overlay s (mem.flatMap MemEvent.received)).stack (g * 65536) 65536
        let s := { s with lines := sput none s.lines ix none, cacheBytes := bzero s.cacheBytes (ix * 65536) ((ix + 1) * 65536) }
        let bad : Bool := match leafOf s st.snaps g with | none => false | some l => Config.sha256 bytes != l
        if bad then
          let s := s.modMem fun m => { m with achFail := smod (0, 0) m.achFail p fun x => (satAdd x.1 1, x.2) }
          let s := recordNow s { kind := 0x07, cls := 4, status := St.integrityFault, scope := .partition p,
                                 source := 1480 + setOf g % 4, detail := g, detail2 := w, parsley := false, reset := false }
          endSome (dropStaging (sourceAdvisory s p g)) p (fun r => r.ctx == st.ctx && !r.staged) St.integrityFault
        else
          let s := { s with useCtr := s.useCtr + 1, lines := sput none s.lines ix (some ⟨g, s.useCtr + 1⟩),
                            cacheBytes := bwrite s.cacheBytes (ix * 65536) bytes }
          s.modPart p fun q => { q with dill := { q.dill with staging := some { st with pages := st.pages.filter (· != g) } } }
def execCacheFill (w : PartReads) (gpage : Nat) (s : State) : Host.Outcome State Fault Refusal :=
  .next (cacheFill s w.part gpage w.mem)

/-- STAGING_COMPLETE: every page is resident; the waiting requests take their pins. Lines of an adaptation withdrawn in the
meantime stay unpinned (Table 11-9). -/
def stagingComplete (s : State) (p : Nat) : State :=
  match (s.part p).dill.staging with
  | none => s
  | some st =>
    if !st.pages.isEmpty then s
    else
      -- a line of the adaptation that a later fill of its set evicted is filled again
      let lost := st.all.filter fun g => !resident s p g
      if !lost.isEmpty then s.modPart p fun q => { q with dill := { q.dill with staging := some { st with pages := lost } } }
      else
      let s := s.modPart p fun q => { q with dill := { q.dill with staging := none } }
      if (serveStatus s st.ctx).isSome || servingSnaps s st.ctx != st.snaps then s else pinReqs s p st.ctx st.snaps
def execStagingComplete (p : PartN) (s : State) : Host.Outcome State Fault Refusal := .next (stagingComplete s p)

/-! ### Step formation (R359 to R365) -/

/-- Requests that end at this posting, with their status (R371, R372, R374); those of a disabled queue pair with DISABLED (R342,
R481). -/
def sweepReqs (s : State) (p : Nat) : State :=
  let s := endSome s p (fun r => r.command != 0x0110 && (s.qp r.vf r.qp).disabled) St.disabled
  let cs := ((s.part p).dill.reqs.map fun (r : Req) => r.ctx).eraseDups
  let s := cs.foldl markStale s
  cs.foldl (fun s c => match serveStatus s c with | none => s | some st => endSome s p (fun r => r.ctx == c) st) s

/-- One admitted request: its place in the list, context and the snapshots it began with (R355), class, rows, first position. -/
structure Admit where
  ix : Nat
  ctx : BitVec 16
  snaps : List W32
  cls : Nat
  rows : Nat
  pos0 : Nat
  kv : List Nat
  kvLen : Nat

/-- Sub-batches that admitted rows form: one per decoding adaptation, one per chunk (R361). -/
def subCount (as : List Admit) : Nat :=
  (((as.filter fun a => a.cls == 0).map fun a => (a.ctx, a.snaps)).eraseDups).length + (as.filter fun a => a.cls != 0).length
/-- Do the admitted rows stay within the bounds of the step registers (R359)? -/
def withinBounds (x : ServeInfo) (as : List Admit) : Bool :=
  let rows := (as.map fun a => a.rows).foldl (· + ·) 0
  let dec := ((as.filter fun a => a.cls == 0).map fun a => a.rows).foldl (· + ·) 0
  let kv := (as.map fun a => a.kvLen).foldl max 0
  decide (subCount as ≤ x.maxSub) && decide (rows ≤ x.maxRows) && decide (dec ≤ x.maxDec) && decide ((kv + 63) / 64 * 64 ≤ x.maxKv)

/-- Is a completion slot free for the request (R485)? -/
def cqRoom (s : State) (r : Req) : Bool :=
  r.command == 0x0110 || (decide ((s.qp r.vf r.qp).cqUsed < (s.qp r.vf r.qp).cqSize) && (s.qp r.vf r.qp).waiting.isEmpty)

/-- KV page numbers free in the pool, ascending. -/
def freeKvPages (x : ServeInfo) (rs : List Req) (taken : List Nat) : List Nat :=
  let used := (rs.flatMap fun r => r.kv) ++ taken
  (List.range x.kvPages).filter fun n => !used.contains n

/-- The admission of request i, if it may enter the step now: decode row, next chunk, or a new request with its KV pages. -/
def admitOne (x : ImgInfo) (chunk : Nat) (rs : List Req) (taken : List Nat) (i : Nat) (r : Req) : Option Admit :=
  let kv : Option (List Nat) :=
    if r.started then some r.kv
    else
      let n := kvNeed x (r.prompt + r.maxNew)
      let f := freeKvPages x.serve rs taken
      if f.length < n then none else some (f.take n)
  kv.map fun kv =>
    if r.prompt = 0 then ⟨i, r.ctx, r.snaps, 0, 1, 0, kv, r.done + 1⟩
    else
      let c := min r.prompt (if r.started then r.chunk else chunk)
      ⟨i, r.ctx, r.snaps, if r.command = 0x0110 then 2 else 1, c, r.done, kv, r.done + c⟩

/-- Rows admitted from a list of candidates in order, up to the first that a bound does not let in (R361). -/
def admitList (x : ImgInfo) (chunk : Nat) (rs : List Req) : List (Nat × Req) → List Admit → List Admit × Bool
  | [], acc => (acc, true)
  | (i, r) :: rest, acc =>
    match admitOne x chunk rs (acc.flatMap fun a => a.kv) i r with
    | none => admitList x chunk rs rest acc
    | some a => if withinBounds x.serve (acc ++ [a]) then admitList x chunk rs rest (acc ++ [a]) else (acc, false)

/-- The step's rows in the order of R361: decode, prefill in progress, new requests. -/
def admitReqs (s : State) (p : Nat) (x : ImgInfo) : List Admit :=
  let d := (s.part p).dill
  let rs := d.reqs
  let ok := (rs.zipIdx.map fun y => (y.2, y.1)).filter fun y => y.2.staged && y.2.status == St.ok && cqRoom s y.2
  let dec := ok.filter fun y => y.2.started && y.2.prompt == 0
  let pre := ok.filter fun y => y.2.started && y.2.prompt != 0
  let new := ok.filter fun y => !y.2.started
  (admitList x d.chunk.toNat rs (dec ++ pre ++ new) []).1

/-- Sub-batches in the order CLASS, context, arrival (R361). -/
def subBatches (as : List Admit) : List (List Admit) :=
  let l := sortBy (fun a => a.cls * 2 ^ 40 + a.ctx.toNat * 2 ^ 20 + a.ix) as
  let dec := l.filter fun a => a.cls == 0
  ((dec.map fun a => (a.ctx, a.snaps)).eraseDups.map fun c => dec.filter fun a => a.ctx == c.1 && a.snaps == c.2) ++ (l.filter fun a => a.cls != 0).map fun a => [a]

/-- KV row of token t of a request (R364). -/
def kvRow (x : ServeInfo) (kv : List Nat) (t : Nat) : Nat := kv.getD (t / max x.tpp 1) 0 * x.tpp + t % max x.tpp 1
/-- Entries of a row list for n tokens, padded with skip entries to a multiple of 64 (R365). -/
def kvEntries (x : ServeInfo) (kv : List Nat) (n : Nat) : List Nat :=
  (List.range n).map (kvRow x kv) ++ List.replicate ((64 - n % 64) % 64) 0xFFFFFFFF

/-- KV lists and row table of a sub-batch: a decode row has a list of its own, the rows of a chunk share the list of their last
token (log 48). -/
def subTables (x : ServeInfo) (b : List Admit) : List Byte × List Byte :=
  let r := b.foldl (fun (st : Nat × List Byte × List Byte) a =>
    let es := kvEntries x a.kv a.kvLen
    let rows := (List.range a.rows).flatMap fun i =>
      leBytes 4 (if a.cls = 0 then a.kvLen else a.pos0 + i + 1) ++ leBytes 4 st.1
    (st.1 + es.length, st.2.1 ++ es.flatMap (leBytes 4), st.2.2 ++ rows)) (0, [], [])
  (r.2.1, r.2.2)

/-- Tables of the step at consecutive addresses from `base`: sub-batch table, row-context list, then for each sub-batch its
adapter index stream, row table and KV index stream, each at a multiple of 64 (log 48). Answers the bytes, and the address of the
row-context list. -/
def stepTables (s : State) (x : ServeInfo) (base : Nat) (subs : List (List Admit)) : List Byte × Nat :=
  let pad (l : List Byte) : List Byte := l ++ List.replicate ((64 - l.length % 64) % 64) 0#8
  let rowctx := pad (subs.flatMap fun b => b.flatMap fun a => (List.range a.rows).flatMap fun _ => leBytes 2 a.ctx.toNat)
  let tabLen := (32 * subs.length + 63) / 64 * 64
  let r := subs.foldl (fun (st : Nat × Nat × List Byte × List Byte) b =>
    -- next address, first row, table entries, data so far
    match b with
    | [] => st
    | a :: _ =>
      let adapt := pad ((snapPages s a.snaps).flatMap (leBytes 4))
      let (kv, rowtab) := subTables x b
      let rows := (b.map fun y => y.rows).foldl (· + ·) 0
      let rowtab := pad rowtab
      let entry := leBytes 2 a.ctx.toNat ++ leBytes 1 a.cls ++ leBytes 1 (partsOf s a.ctx).length ++ leBytes 2 st.2.1 ++
        leBytes 2 rows ++ leBytes 4 (if a.cls = 0 then 0 else a.pos0) ++ leBytes 4 st.1 ++ leBytes 4 (st.1 + adapt.length) ++
        leBytes 4 (st.1 + adapt.length + rowtab.length) ++ leBytes 8 0
      (st.1 + adapt.length + rowtab.length + kv.length, st.2.1 + rows, st.2.2.1 ++ entry, st.2.2.2 ++ adapt ++ rowtab ++ kv))
    (base + tabLen + rowctx.length, 0, [], [])
  (pad r.2.2.1 ++ rowctx ++ r.2.2.2, base + tabLen)

/-- Tables written into the step-table slot of every core of the partition (R359). -/
def writeTables (s : State) (p : Nat) (base : Nat) (bs : List Byte) : State :=
  (coresOf s p).foldl (fun s c => { s with scratch := bwrite s.scratch (scrAddr c base) bs }) s

/-- The named tick (R238, R359): the first after the tables of B bytes have landed, and at least 2 after the last DSTEP issued. -/
def postTick (s : State) (p : Nat) (b : Nat) : Nat :=
  let last := ((jobCores (s.part p)).map fun c => (s.core c).lastIssue - 1).foldl max 0
  let start := max last s.gov.now
  max ((start + (b + 63) / 64) / 32 + 1) (last / 32 + 2)

/-! ### Grants (R292, R293) -/

/-- Share of a partition per field. -/
def sharesOf (s : State) (p : Nat) : List Nat := (List.range 4).map fun f => (s.part p).live.shareIn f
/-- What the grants in force draw on a partition, per field. -/
def drawnOn (s : State) (p : Nat) : List Nat :=
  (s.gov.grants.flatMap fun (g : Grant) => (g.drawn.filter fun d => d.1 == p).map fun d => d.2).foldl
    (fun a b => List.zipWith (· + ·) a b) [0, 0, 0, 0]

/-- The grant of a loan per field: lenders without a job in ascending order, or none where they do not cover it. -/
def grantOf (s : State) (p : Nat) (loan : List Nat) (from_ len : Nat) : Option Grant :=
  let lenders := (List.range 8).filter fun l => l != p && (s.part l).st == 1 && (s.part l).running.isNone
  let r := lenders.foldl (fun (st : List Nat × List (Nat × List Nat)) l =>
    let free := List.zipWith (· - ·) (sharesOf s l) (drawnOn s l)
    let take := List.zipWith min st.1 free
    (List.zipWith (· - ·) st.1 take, if take.any (· != 0) then st.2 ++ [(l, take)] else st.2))
    ((loan ++ [0, 0, 0, 0]).take 4, [])
  if r.1.all (· == 0) then some ⟨p, (loan ++ [0, 0, 0, 0]).take 4, r.2, from_, from_ + len⟩ else none

/-- Grant asked at a posting for tick t; answers s31. -/
def askGrant (s : State) (p : Nat) (x : ImgInfo) (t : Nat) : Nat × State :=
  if !s.gov.lending || !x.loans then (0, s)
  else
    match grantOf s p x.loanQ t x.loanT with
    | none => (0, s)
    | some g => (x.serve.loanCount, s.modGov fun y => { y with grants := (y.grants.filter fun z => z.borrower != p) ++ [g] })

/-- May Dill post to the running job: every core waits at a DSTEP, nothing pauses, yields, stops or reshapes it? -/
def mayPost (s : State) (p : Nat) : Bool :=
  let q := s.part p
  allAtDstep s p && q.pauseFrom.isNone && q.yield_.isNone && q.stop.isNone && q.reshape.isNone && q.st != 3

/-- STEP_POSTING (R359 to R365, R374). Nothing is posted without rows. -/
def stepPosting (s : State) (p : Nat) : State :=
  match serveInfo s p with
  | none => s
  | some x =>
    if x.training || (s.part p).dill.inStep || !mayPost s p then s
    else if !(s.part p).baseEpoch.ok then mismatch s 2 p
    else onCtxs s (reqCtxs s p) fun s =>
      let s := sweepReqs s p
      let as := admitReqs s p x
      if as.isEmpty then s
      else
        let subs := subBatches as
        let (tabs, rowctx) := stepTables s x.serve x.serve.stepAddr subs
        let tabs := tabs.take x.serve.stepLen
        let t := postTick s p tabs.length
        let s := writeTables s p x.serve.stepAddr tabs
        let (loan, s) := askGrant s p x t
        let rows := (as.map fun a => a.rows).foldl (· + ·) 0
        let dec := ((as.filter fun a => a.cls == 0).map fun a => a.rows).foldl (· + ·) 0
        let kvmax := ((as.map fun a => a.kvLen).foldl max 0 + 63) / 64 * 64
        let d := (s.part p).dill
        let s := postRegs s p t [d.step.toNat, subs.length, rows, dec, x.serve.stepAddr, rowctx, kvmax, loan]
        let list := subs.flatMap fun b => b.flatMap fun a => List.replicate a.rows a.ctx
        let s := noteServed s p list.eraseDups
        s.modPart p fun q =>
          { q with dill := { q.dill with
              step := q.dill.step + 1, inStep := true, rowCtx := list
              reqs := q.dill.reqs.zipIdx.map fun y =>
                match as.find? fun a => a.ix == y.2 with
                | none => y.1
                | some a => { y.1 with kv := a.kv, rows := a.rows, started := true,
                                       chunk := if y.1.started then y.1.chunk else q.dill.chunk.toNat } } }
def execStepPosting (p : PartN) (s : State) : Host.Outcome State Fault Refusal := .next (stepPosting s p)

/-! ### End of a serving step (R360, R485) -/

/-- Completions that carry tokens: all but the last report ACCEPTED with MORE; 20 tokens to a completion. -/
def tokenCompletions (r : Req) (final : Option Status) : Nat → List W32 → List Completion
  | 0, _ => []
  | fuel + 1, ts =>
    let now := ts.take 20
    let rest := ts.drop 20
    let last : Bool := rest.isEmpty && final.isSome
    { (Completion.of r.htag r.command r.ctx (if last then final.getD St.ok else St.accepted)) with
      value := BitVec.ofNat 32 now.length, data := now.flatMap fun (t : W32) => leBytes 4 t.toNat, more := !last } ::
    (if rest.isEmpty then [] else tokenCompletions r final fuel rest)

/-- Has the request's last token been produced: its limit, or the STOP token? -/
def Req.finished (r : Req) (ts : List W32) : Bool :=
  decide (r.maxNew ≤ r.produced + ts.length) || (r.stop != 0xFFFFFFFF && ts.contains r.stop)

/-- Final status of a finished request (R133). -/
def finalStatus (s : State) (c : BitVec 16) : Status :=
  if ((s.ctx c.toNat).numeric &&& 3#128) != 0 then St.numericFlag else St.ok

/-- A request after its rows of the step. -/
def Req.after (r : Req) (ts : List W32) : Req :=
  { r with prompt := r.prompt - (if r.prompt = 0 then 0 else r.rows), done := r.done + r.rows, produced := r.produced + ts.length,
           rows := 0 }

/-- The end of the step for one request: completions, and whether it has ended. -/
def stepReq (s : State) (p : Nat) (outs : List StepOut) (r : Req) : State × Option Req :=
  if r.rows = 0 then (s, some r)
  else
    let ts : List W32 := ((outs.find? fun o => o.htag == r.htag && o.queue == r.vf * 32 + r.qp).map fun o => o.tokens).getD []
    let r' := r.after ts
    if r.command = 0x0110 then
      if r'.prompt = 0 then (freeKv s p r.kv, none) else (s, some r')
    else
      let ended : Bool := r'.prompt == 0 && r.finished ts && r.status == St.ok
      let final : Option Status := if ended then some (finalStatus s r.ctx) else none
      let cs := if ts.isEmpty && !ended then [] else tokenCompletions r final (ts.length + 1) ts
      let s := cs.foldl (fun s c => complete s r.vf r.qp c) s
      if ended then (freeKv s p r.kv, none)
      else if r.status != St.ok then (freeKv (completeReq s r r.status) p r.kv, none)
      else (s, some r')

/-- End of a serving step: the cores are at their next DSTEP. -/
def serveEnd (s : State) (p : Nat) (outs : List StepOut) : State :=
  let d := (s.part p).dill
  if !d.inStep || !allAtDstep s p then s
  else
    let s := noteServed s p d.rowCtx.eraseDups
    let (s, rs) := d.reqs.foldl (fun (st : State × List Req) r =>
      let (s, o) := stepReq st.1 p outs r
      (s, st.2 ++ o.toList)) (s, [])
    sweepSnaps (s.modPart p fun q => { q with dill := { q.dill with reqs := rs, inStep := false, rowCtx := [] } })

end Sys2Proof.Machine
end

