-- ==== Sys2Proof/Machine/Bases.lean ====
section
/-! DEFINITION. Bases: staging areas, installation and replacement (R373, R478), export areas (R480), the logit pipe's pairing
(R376, R378) and the buddy and data-parallel settings (R411). -/

namespace Sys2Proof.Machine

/-! ### Areas (R478) -/

/-- Valid areas with their numbers. -/
def validAreas (s : State) : List (Nat × Area) := s.cxl.areas.filter fun e => e.2.valid
/-- Lowest area number that is free. -/
def freeArea (s : State) : Option Nat := (List.range 16).find? fun n => !(sget Area.fresh s.cxl.areas n).valid
/-- Do frames f to f + n - 1 meet an area? -/
def frameClash (s : State) (f n : Nat) : Bool :=
  (validAreas s).any fun e => decide (e.2.first.toNat < f + n) && decide (f < e.2.first.toNat + e.2.len)
/-- First frame of the lowest run of n free frames. -/
def freeFrames (s : State) (n : Nat) : Option Nat :=
  let cands := sortBy id (0 :: (validAreas s).map fun e => e.2.first.toNat + e.2.len)
  cands.find? fun f => decide (f + n ≤ 1048576) && !frameClash s f n

/-- A new area over n FREE pages of a partition's channels, which turn to STAGING; none where an area number, frames or pages
lack. -/
def makeArea (s : State) (p n : Nat) (exportA : Bool) : Option (Nat × List Nat × State) :=
  match freeArea s, freeFrames s n, allocPages s (s.part p).live.chans.v n with
  | some a, some f, some gs =>
    let s := takePages s .staging (some p) 0xFFFF gs
    some (a, gs, s.modCxl fun x => { x with
      areas := sput Area.fresh x.areas a ⟨BitVec.ofNat 20 f, BitVec.ofNat 3 p, exportA, true, gs, n⟩ })
  | _, _, _ => none
/-- An area released: its pages return to FREE. -/
def dropArea (s : State) (a : Nat) : State :=
  (freePages s (sget Area.fresh s.cxl.areas a).pages).modCxl fun x => { x with areas := sput Area.fresh x.areas a Area.fresh }
/-- The staging area of a partition. -/
def stagingArea (s : State) (p : Nat) : Option (Nat × Area) :=
  (validAreas s).find? fun e => !e.2.exportA && e.2.part.toNat == p

/-- BASE_STAGE; the value is the area's first page. -/
def baseStage (s : State) (via : Via) (p n : Nat) : State :=
  permitted s via 3 0 (Via.isPf0 via) fun s =>
    if (s.part p).st = 2 then answer s via 3 0 St.busy 0 []
    else if (s.part p).st ≠ 1 then answer s via 3 0 St.badHandle 0 []
    else
      match stagingArea s p with
      | some (a, _) => if n = 0 then answer (dropArea s a) via 3 0 St.ok 0 [] else answer s via 3 0 St.busy 0 []
      | none =>
        if n = 0 then answer s via 3 0 St.ok 0 []
        else
          match makeArea s p n false with
          | none => answer s via 3 0 St.noResource 0 []
          | some (_, gs, s) => answer s via 3 0 St.ok (gs.headD 0) []
def execBaseStage (via : Via) (p : PartN) (pages : Nat) (s : State) : Host.Outcome State Fault Refusal :=
  .next (baseStage s via p pages)

/-- BASE_INSTALL: the named pages become FROZEN, the frames are unbound; pages of the area that are not named return to FREE
(log 49). -/
def baseInstall (s : State) (via : Via) (p first count : Nat) : State :=
  permitted s via 4 0 (Via.isPf0 via) fun s =>
    let q := s.part p
    if q.st = 2 then answer s via 4 0 St.busy 0 []
    else if q.st ≠ 1 then answer s via 4 0 St.badHandle 0 []
    else if !q.baseEpoch.ok then mismatch s 2 p
    else if holdsBase q then answer s via 4 0 St.busy 0 []
    else
      match stagingArea s p, stagedRun s p first count with
      | some (a, area), some ps =>
        if count = 0 then answer s via 4 0 St.badHandle 0 []
        else
          let leaves := ps.map (pageLeaf s)
          let s := takePages s .frozen (some p) 0xFFFF ps
          let s := freePages s (area.pages.filter fun g => !ps.contains g)
          let s := s.modCxl fun x => { x with areas := sput Area.fresh x.areas a Area.fresh }
          let s := s.modPart p fun q =>
            { q with basePages := ps, baseLeaves := leaves, baseDigest := digestRoot leaves,
                     baseEpoch := if q.baseEpoch.v = 0 then Paired.of 1 else q.baseEpoch
                     integ := { q.integ with refused := false } }
          answer s via 4 0 St.ok 0 []
      | _, _ => answer s via 4 0 St.badHandle 0 []
def execBaseInstall (via : Via) (p : PartN) (first count : Nat) (s : State) : Host.Outcome State Fault Refusal :=
  .next (baseInstall s via p first count)

/-- BASE_REPLACE: at once, or at the stop of the running job at its next tile boundary. -/
def baseReplace (s : State) (via : Via) (p : Nat) : State :=
  permitted s via 5 0 (Via.isPf0 via) fun s =>
    let q := s.part p
    if q.st = 2 ∨ q.replacing.isSome then answer s via 5 0 St.busy 0 []
    else if q.st ≠ 1 ∨ !holdsBase q then answer s via 5 0 St.badHandle 0 []
    else if !q.baseEpoch.ok then mismatch s 2 p
    else if q.running.isSome && !allAtDstep s p && !q.saving then
      (markStop (accept s via) p St.disabled).modPart p fun x => { x with replacing := some via }
    else answer (replaceBase s p) via 5 0 St.ok 0 []
def execBaseReplace (via : Via) (p : PartN) (s : State) : Host.Outcome State Fault Refusal := .next (baseReplace s via p)

/-! ### EXPORT (R480) -/

/-- EXPORT: an export area in the partition's channels takes the sealed image. -/
def exportStart (s : State) (via : Via) (c : BitVec 16) (state : Bool) : State :=
  permitted s via 11 c (Via.isPf0 via) fun s =>
    if 49152 ≤ c.toNat || (s.ctx c.toNat).state == 0 then answer s via 11 c St.badHandle 0 []
    else if !(s.ctx c.toNat).ok then mismatch s 3 c.toNat
    else
      match sealKey s c.toNat, roleSnap s c.toNat state with
      | some key, some y => onPages s (y.pages ++ y.manifest) fun s =>
        let p := (s.ctx c.toNat).part.toNat
        let (nonce, s) := drawNonce s
        let image := sealSnapshot s c.toNat key y state nonce
        let n := (144 + 65552 * (y.pages ++ y.manifest).length + 65535) / 65536
        match makeArea s p n true with
        | none => answer s via 11 c St.noResource 0 []
        | some (a, gs, s) =>
          (accept (fillPages s gs image) via).modCxl fun x => { x with exports := x.exports ++ [(a, c, via)] }
      | _, _ => answer s via 11 c St.badHandle 0 []
def execExportCmd (via : Via) (ctx : BitVec 16) (state : Bool) (s : State) : Host.Outcome State Fault Refusal :=
  .next (exportStart s via ctx state)

/-- EXPORT_COMPLETE: OK with the area number (R480). -/
def exportComplete (s : State) (a : Nat) : State :=
  match s.cxl.exports.find? fun e => e.1 == a with
  | none => s
  | some (_, c, via) =>
    finish (s.modCxl fun x => { x with exports := x.exports.filter fun e => e.1 != a }) via 11 c St.ok a []
def execExportComplete (area : Fin 16) (s : State) : Host.Outcome State Fault Refusal := .next (exportComplete s area)

/-- EXPORT_RELEASE: BAD_HANDLE where the number names no export area, BUSY while it is written (log 50). -/
def exportRelease (s : State) (via : Via) (a : Nat) : State :=
  permitted s via 12 0 (Via.isPf0 via) fun s =>
    let x := sget Area.fresh s.cxl.areas a
    if !x.valid || !x.exportA then answer s via 12 0 St.badHandle 0 []
    else if s.cxl.exports.any (fun e => e.1 == a) then answer s via 12 0 St.busy 0 []
    else answer (dropArea s a) via 12 0 St.ok 0 []
def execExportRelease (via : Via) (area : Fin 16) (s : State) : Host.Outcome State Fault Refusal := .next (exportRelease s via area)

/-! ### Pairs of a partition's settings (R376, R411, R569) -/

/-- PIPE_PAIRING_WRITE: the pair of PTN_PIPE. -/
def pipeWrite (s : State) (p : Nat) (v c : W32) : State :=
  if v.extractLsb' 0 8 ≠ ~~~(c.extractLsb' 0 8) then pairBad s (0x00200410 + 0x1000 * p)
  else s.modPart p fun q => { q with pipe := Paired.of (v.extractLsb' 0 8) }

/-- Is a partition at a step boundary: no job, or every core of it at a DSTEP (R329)? -/
def atStep (s : State) (p : Nat) : Bool := (s.part p).running.isNone || allAtDstep s p

/-- PIPE_PAIRING_APPLY: at the next step boundary of both partitions the setting takes effect; a student on a peer module is
told by PIPE_BIND or PIPE_UNBIND (R376, R499). -/
def pipeApply (s : State) (p : Nat) : State :=
  let q := s.part p
  if !q.pipe.ok then mismatch s 5 p
  else
    let new := q.pipe.v
    let old := q.pipeOn
    let student (v : BitVec 8) : Nat := (v.extractLsb' 0 3).toNat
    let port (v : BitVec 8) : Nat := (v.extractLsb' 3 3).toNat
    let local_ (v : BitVec 8) : Bool := v.getLsbD 7 && !v.getLsbD 6
    let remote (v : BitVec 8) : Bool := v.getLsbD 7 && v.getLsbD 6
    if new = old || !atStep s p || (local_ new && !atStep s (student new)) || (local_ old && !atStep s (student old)) then s
    else
      let s := if remote old then sendLink s (port old) 5 [1, student old] [] else s
      let s := if remote new then sendLink s (port new) 5 [0, student new] [] else s
      s.modPart p fun x => { x with pipeOn := new }
def execPipePairingApply (p : PartN) (s : State) : Host.Outcome State Fault Refusal := .next (pipeApply s p)

/-- BUDDY_CONFIG: the pair of PTN_BUDDY. -/
def buddyWrite15 (s : State) (p : Nat) (v c : W32) : State :=
  if v.extractLsb' 0 15 ≠ ~~~(c.extractLsb' 0 15) then pairBad s (0x00200424 + 0x1000 * p)
  else s.modPart p fun q => { q with dp := { q.dp with buddy := Paired.of (v.extractLsb' 0 15) } }

/-- The pair of PTN_DP. -/
def dpPair (s : State) (p : Nat) (v c : W32) : State :=
  if v.extractLsb' 0 7 ≠ ~~~(c.extractLsb' 0 7) then pairBad s (0x0020042C + 0x1000 * p)
  else s.modPart p fun q => { q with dp := { q.dp with dp := Paired.of (v.extractLsb' 0 7) } }
/-- The pair of PTN_DP_PORTS. -/
def dpPorts (s : State) (p : Nat) (v c : W32) : State :=
  if v.extractLsb' 0 24 ≠ ~~~(c.extractLsb' 0 24) then pairBad s (0x00200434 + 0x1000 * p)
  else s.modPart p fun q => { q with dp := { q.dp with ports := Paired.of (v.extractLsb' 0 24) } }
/-- DP_CONFIG: both pairs; a pair whose halves disagree changes nothing of its own. -/
def dpWrite (s : State) (p : Nat) (dp dpC ports portsC : W32) : State := dpPorts (dpPair s p dp dpC) p ports portsC

end Sys2Proof.Machine
end

