-- ==== Sys2Proof/Machine/Training.lean ====
section
/-! DEFINITION. Training: requests (R382, R383), the switch between images (R385), segments (R386, R387, R402 to R408), the
teacher's rows (R378, R390, R391), checkpoints (R392 to R400) and the end of a step. -/

namespace Sys2Proof.Machine

/-! ### TRAIN and TRAIN_DATA -/

/-- The partition's TRAINING image, by number. -/
def trainImage (q : Part) : Option Nat :=
  (List.range 2).find? fun i => match (q.image i).info with | none => false | some x => x.training
/-- The partition's serving image, by number. -/
def serveImage (q : Part) : Option Nat :=
  (List.range 2).find? fun i => match (q.image i).info with | none => false | some x => !x.training

/-- A training request as it arrives. -/
def TrainJob.new (vf q : Nat) (htag : W32) (f : TrainF) : TrainJob :=
  { vf := vf, qp := q, htag := htag, ctx := f.context, teacher := f.teacher, steps := f.steps, globalMb := f.globalMb.toNat,
    ckptPeriod := f.ckptPeriod.toNat, snapPeriod := f.snapPeriod.toNat, jobTag := f.jobTag, resume := f.resume, begun := false,
    stepCount := 0, batches := [], segment := 0, seg1 := 0, s0 := none, sNo := 0, present := 0, carried := 0, dropped := 0,
    decided := false, late := 0, lateIn := [], asked := false, status := St.ok, known := [], ckptDue := false }

/-- TRAIN: refusals of R382, then a place in the queue (R383). A TRAINING image that RUNS another request is no ground for
NO_RESOURCE (log 51). -/
def train (s : State) (via : Via) (f : TrainF) : State :=
  ctxCmd s via 0x0110 f.context
    (let x := s.ctx f.context.toNat
     let q := s.part x.part.toNat
     let image : Bool := match trainImage q with
       | none => false
       | some i => (q.image i).st == .ready || (q.image i).st == .suspended || (q.image i).st == .running
     let ans (st : Status) : State := answer s via 0x0110 f.context st 0 []
     if x.state ≠ 1 ∧ x.state ≠ 2 ∧ x.state ≠ 4 then ans St.badHandle
     else if x.stateSnap = 0 ∧ !f.resume then ans St.badHandle
     else if !image then ans St.noResource
     else if f.globalMb.toNat < 1 ∨ 256 < f.globalMb.toNat ∨ f.steps = 0 then ans St.badFormat
     else
       match via with
       | .queue vf q htag =>
         let t := TrainJob.new vf q htag f
         s.modPart x.part.toNat fun y =>
           if y.train.isNone then { y with train := some t } else { y with trainQ := y.trainQ ++ [t] }
       | _ => s)
def execTrain (via : Via) (f : TrainF) (s : State) : Host.Outcome State Fault Refusal := .next (train s via f)

/-- TRAIN_DATA: a micro-batch entry for the request of the context with the JOB_TAG (R387); BAD_HANDLE without one, BAD_FORMAT
for a number outside the step (log 52). -/
def trainData (s : State) (via : Via) (c : BitVec 16) (tag : W32) (j : BitVec 16) (tokens : List W32) : State :=
  ctxCmd s via 0x0111 c
    (let p := (s.ctx c.toNat).part.toNat
     let q := s.part p
     let mine (t : TrainJob) : Bool := t.ctx == c && t.jobTag == tag
     match (q.train.toList ++ q.trainQ).find? mine with
     | none => answer s via 0x0111 c St.badHandle 0 []
     | some t =>
       if t.globalMb ≤ j.toNat then answer s via 0x0111 c St.badFormat 0 []
       else
         match via with
         | .queue vf k htag =>
           let add (u : TrainJob) : TrainJob :=
             if u.vf == t.vf && u.qp == t.qp && u.htag == t.htag && mine u then { u with batches := u.batches ++ [⟨vf, k, htag, j, tokens⟩] } else u
           s.modPart p fun y => { y with train := y.train.map add, trainQ := y.trainQ.map add }
         | _ => s)
def execTrainData (via : Via) (ctx : BitVec 16) (jobTag : W32) (j : BitVec 16) (tokens : List W32) (s : State) :
    Host.Outcome State Fault Refusal := .next (trainData s via ctx jobTag j tokens)

/-! ### DILL_TRAINING_SWITCH (R385) -/

/-- Serving load: generating and queued requests. -/
def servingLoad (q : Part) : Nat := (q.dill.reqs.filter fun (r : Req) => r.command != 0x0110).length

/-- Dill's switch between the images. Without a running job it starts the training image where the mode lets it run. -/
def trainingSwitch (s : State) (p : Nat) : State :=
  let q := s.part p
  let load := servingLoad q
  let small : Bool := decide (load ≤ q.idleRows.toNat)
  match trainImage q with
  | none => s
  | some i =>
    if q.train.isSome then
      if q.running = some i then
        -- back to serving
        let back : Bool := !small && (q.mode == 0 || (q.mode == 1 && allAtDstep s p))
        match serveImage q with
        | some k => if back && q.yield_.isNone then jobSwitch s (.dill ⟨p % 8, Nat.mod_lt _ (by decide)⟩) p k else s
        | none => s
      else if !(small || q.mode == 2) || q.yield_.isSome then s
      else if q.running.isNone then
        if (q.image i).st = .ready then jobStart s (.dill ⟨p % 8, Nat.mod_lt _ (by decide)⟩) p i
        else if (q.image i).st = .suspended ∧ !q.integ.refused then requestYield s p (some i) |> fun s =>
          s.modPart p fun x => { x with yield_ := x.yield_.map fun y => ({ y.1 with boundary := some s.tick, switchTick := some (s.tick + 1) }, y.2) }
        else s
      else if allAtDstep s p && !q.dill.inStep then jobSwitch s (.dill ⟨p % 8, Nat.mod_lt _ (by decide)⟩) p i
      else s
    else if q.running = some i && q.yield_.isNone then
      match serveImage q with
      | some k => jobSwitch s (.dill ⟨p % 8, Nat.mod_lt _ (by decide)⟩) p k
      | none => s
    else s
def execDillTrainingSwitch (p : PartN) (s : State) : Host.Outcome State Fault Refusal := .next (trainingSwitch s p)

/-! ### Ranks (R387, R401 to R409) -/

/-- Is the partition's job data-parallel? -/
def isDp (q : Part) : Bool := q.dp.dpOn.getLsbD 6
/-- This module's rank. -/
def dpRank (q : Part) : Nat := (q.dp.dpOn.extractLsb' 0 3).toNat
/-- Number of ranks. -/
def dpRanks (q : Part) : Nat := (q.dp.dpOn.extractLsb' 3 3).toNat + 1
/-- Port of a rank. -/
def dpPort (q : Part) (r : Nat) : Nat := (q.dp.portsOn.extractLsb' (3 * r) 3).toNat
/-- Ranks in the live mask. -/
def liveRanks (q : Part) : List Nat := if isDp q then maskList 8 q.dp.live else [0]
/-- Place of this rank among the live ones. -/
def liveOrder (q : Part) : Nat := if isDp q then (liveRanks q).findIdx (· == dpRank q) else 0
/-- Is this rank the leader, or alone (Table 12-2)? -/
def isLead (q : Part) : Bool := !isDp q || q.dp.leader.toNat == dpRank q

/-- The live mask without some ranks, and its leader, the lowest rank left. -/
def DpRegs.without (d : DpRegs) (gone : BitVec 8) : DpRegs :=
  let live := d.live &&& ~~~gone
  { d with live := live, leader := BitVec.ofNat 3 ((maskList 8 live).headD 0) }

/-- Global micro-batches of this rank (R387). -/
def ownShare (q : Part) (t : TrainJob) : List Nat :=
  let l := max (liveRanks q).length 1
  (List.range t.globalMb).filter fun j => j % l == liveOrder q
/-- The entries of a step: the first held of each global number. -/
def stepEntries (t : TrainJob) (js : List Nat) : List (Option MicroBatch) := js.map fun j => t.batches.find? fun b => b.j.toNat == j

/-! ### The teacher's rows (R378, R390, R391) -/

/-- Does the pairing in force name the partition as local student? -/
def teaches (s : State) (tp p : Nat) : Bool :=
  (s.part tp).pipeOn.getLsbD 7 && !(s.part tp).pipeOn.getLsbD 6 && ((s.part tp).pipeOn.extractLsb' 0 3).toNat == p
/-- A port that has announced a pairing with the partition (R499). -/
def boundPort (s : State) (p : Nat) : Bool := (List.range 7).any fun n => (s.port n).binds.any fun b => b.1 == p

/-- Status with which a distillation request ends at its next step (R378, R391). -/
def teacherStatus (s : State) (p : Nat) (t : TrainJob) : Option Status :=
  if t.teacher = 0xFFFF then none
  else
    let x := s.ctx t.teacher.toNat
    let tp := x.part.toNat
    if !(teaches s tp p || boundPort s p) then some St.disabled
    else if x.state = 5 then some St.withdrawn
    else if x.state = 3 ∨ (x.state = 2 ∧ !epochOk s t.teacher) then some St.staleBase
    else if x.state ≠ 2 ∨ x.tenant.v ≠ (s.ctx t.ctx.toNat).tenant.v then some St.badHandle
    else none

/-- The teacher's Dill is asked for the rows of the step's micro-batches (R390). -/
def askTeacher (s : State) (p : Nat) (t : TrainJob) : State :=
  let tp := (s.ctx t.teacher.toNat).part.toNat
  if t.teacher = 0xFFFF ∨ t.asked ∨ !teaches s tp p then s
  else
    let bs := (stepEntries t (ownShare (s.part p) t)).filterMap id
    let rs := bs.map fun b => Req.new 0x0110 b.vf b.qp b.htag t.teacher b.tokens b.tokens.length 0 0xFFFFFFFF []
    s.modPart tp fun q => { q with dill := { q.dill with reqs := q.dill.reqs ++ rs } }

/-- Lane slots of the student's image whose data has landed since tick b. -/
def landedLanes (s : State) (x : ImgInfo) (b : Nat) : List (Nat × Nat) :=
  (x.lanes.map fun l => (l.2.1, l.2.2)).filter fun (l : Nat × Nat) =>
    let e := (s.core l.1).slot l.2
    e.arrival != invalidStamp && decide (b ≤ e.arrTick.toNat)

/-- Has the pipe data of the step landed: the teacher's rows have run, and lanes have data (R390)? -/
def pipeReady (s : State) (x : ImgInfo) (t : TrainJob) : Bool :=
  t.teacher == 0xFFFF ||
    (let tp := (s.ctx t.teacher.toNat).part.toNat
     !(s.part tp).dill.reqs.any (fun r => r.command == 0x0110 && r.ctx == t.teacher && r.vf == t.vf && r.qp == t.qp) &&
     (x.lanes.isEmpty || !(landedLanes s x t.seg1).isEmpty) && t.asked)

/-- Slots take cycle 0 of tick t as their arrival stamp. -/
def stampSlots (s : State) (ls : List (Nat × Nat)) (t : Nat) : State :=
  ls.foldl (fun s (l : Nat × Nat) => s.modCore l.1 fun k =>
    { k with slots := smod SlotE.fresh k.slots l.2 fun e =>
        { e with arrTick := BitVec.ofNat 64 t, arrCyc := 0, absent := false } }) s

/-! ### The job's STATE pages (R383, R400) -/

/-- Pages of a checkpoint record and generation in the BUDDY region of the partition (R392, R397). -/
def recordPage (s : State) (p gen : Nat) : Option Nat :=
  (buddyPages s p)[gen * genSize (statePages s p).length + genSize (statePages s p).length - 1]?
/-- Data pages of a generation. -/
def genPages (s : State) (p gen : Nat) : List Nat :=
  ((buddyPages s p).drop (gen * genSize (statePages s p).length)).take (statePages s p).length
/-- Manifest pages of a generation. -/
def genManifest (s : State) (p gen : Nat) : List Nat :=
  let n := (statePages s p).length
  ((buddyPages s p).drop (gen * genSize n + n)).take (manifestPages n)

/-- Leaf i in the manifest of a generation. -/
def genLeaf (s : State) (p gen i : Nat) : BitVec 256 :=
  manifestLeaf s ⟨0, 0, [], genManifest s p gen, 0, 0⟩ i

/-- Every leaf and the ROOT of the valid generation hold (R400). -/
def genGood (s : State) (p gen : Nat) : Bool :=
  let ps := genPages s p gen
  match recordPage s p gen with
  | none => false
  | some r =>
    let leaves := ps.map (pageLeaf s)
    leaves == (List.range ps.length).map (genLeaf s p gen) &&
      digestRoot leaves == BitVec.ofNat 256 (ofLeBytes (bread s.stack (r * 65536 + 16) 32))

/-- Bytes of pages copied into the STATE pages in order. -/
def loadState (s : State) (p : Nat) (src : List Nat) : State :=
  ((statePages s p).zip src).foldl (fun s (x : Nat × Nat) => writePage s x.1 (bread s.stack (x.2 * 65536) 65536)) s

/-- t of the state header (R383). -/
def stateT (s : State) (p : Nat) : W32 :=
  match statePages s p with
  | [] => 0
  | g :: _ => BitVec.ofNat 32 (ofLeBytes (bread s.stack (g * 65536) 4))

/-- Pages that the start of a request reads and writes. -/
def beginPages (s : State) (p : Nat) (t : TrainJob) : List Nat :=
  statePages s p ++
    (if t.resume then (let gen := if (s.part p).ckpt.gen then 1 else 0
                       genPages s p gen ++ genManifest s p gen ++ (recordPage s p gen).toList)
     else match snapOf s (s.ctx t.ctx.toNat).stateSnap with | none => [] | some x => x.pages)

/-- The start of a request: STATE_SNAP copied into the STATE pages, or the valid generation restored; the header's second
and third words are set. Answers a status where the request ends (R383, R389, R400). -/
def beginState (s : State) (p : Nat) (t : TrainJob) : Except Status State :=
  let k := (s.part p).ckpt
  let header (s : State) : State :=
    match statePages s p with
    | [] => s
    | g :: _ => { s with stack := bwrite s.stack (g * 65536 + 4) (leBytes 4 0 ++ leBytes 4 t.jobTag.toNat) }
  if t.resume then
    let gen := if k.gen then 1 else 0
    if !k.genOk then .error St.badHandle
    else if !genGood s p gen then .error St.integrityFault
    else
      let s := loadState s p (genPages s p gen)
      let s := match statePages s p, recordPage s p gen with
        | g :: _, some r => { s with stack := bwrite s.stack (g * 65536) (bread s.stack (r * 65536 + 4) 4) }
        | _, _ => s
      .ok (header s)
  else
    let c := s.ctx t.ctx.toNat
    match snapOf s c.stateSnap with
    | none => .error St.badHandle
    | some x =>
      -- R389: a rebase asks for an image of the context's own shape
      let shape : Nat × Nat × Nat := (c.kind.toNat, c.rank.toNat, c.proj.toNat)
      let wrong : Bool := (c.state == 4 || (c.state == 1 && x.epoch != (s.part p).baseEpoch.v)) &&
        (match serveInfo s p with | none => false | some y => y.serve.shape != shape)
      if wrong then .error St.badFormat else .ok (header (loadState s p x.pages))

/-! ### Checkpoints (R392 to R398) -/

/-- A checkpoint opens: WP on every STATE page, the target generation is the one that is not valid (R393); a region too small
abandons it with NO_RESOURCE (R392). -/
def openCkpt (s : State) (p : Nat) : State :=
  let ps := statePages s p
  let k := (s.part p).ckpt
  let small : Bool := !buddyRemote s p && decide ((buddyPages s p).length < 2 * genSize ps.length)
  if small then s.modPart p fun q => { q with ckpt := { k with abandoned := true, cause := St.noResource } }
  else
    let s := ps.foldl (fun s g => s.setPage g (Paired.of (setBit32 (setBit32 (s.page g).v 7 true) 8 false))) s
    s.modPart p fun q =>
      { q with ckpt := { k with state := 1, openPages := ps, doneLeaves := [], left := BitVec.ofNat 16 ps.length,
                                target := targetGen k == 1, epoch := stateT s p, startTick := s.tick } }

/-- CHECKPOINT_PAGE_COPY: the copier takes the lowest page with WP set and COPIED clear, while the training job runs (R394). -/
def ckptCopy (s : State) (p : Nat) (mem : List MemEvent) : State :=
  let q := s.part p
  let runs : Bool := (match q.running with | none => false | some i => trainImage q == some i) && q.pauseFrom.isNone && !q.saving
  if q.ckpt.state ≠ 1 ∨ !runs then s
  else
    match q.ckpt.openPages.find? fun g => (s.page g).v.getLsbD 7 && !(s.page g).v.getLsbD 8 with
    | none => s
    | some g => onPages s (copyTargets s p g) fun s => copyPage (burstEvents s p mem) p g (mem.flatMap MemEvent.received)
def execCheckpointPageCopy (w : PartReads) (s : State) : Host.Outcome State Fault Refusal :=
  .next (ckptCopy s w.part w.mem)

/-- Record of Table 12-3. -/
def ckptRecord (t : TrainJob) (k : Ckpt) (root : BitVec 256) : List Byte :=
  let g := if k.target then 1 else 0
  leBytes 4 t.jobTag.toNat ++ leBytes 4 k.epoch.toNat ++ leBytes 4 k.openPages.length ++ leBytes 1 g ++ leBytes 1 (255 - g) ++
  leBytes 2 0 ++ leBytes 32 root.toNat ++ leBytes 16 0

/-- CHECKPOINT_CLOSE: manifest and record; the target generation becomes valid and WP clears (R397). -/
def ckptClose (s : State) (p : Nat) : State :=
  let k := (s.part p).ckpt
  match (s.part p).train with
  | none => s
  | some t =>
    if k.state ≠ 1 || !k.openPages.all (fun g => (s.page g).v.getLsbD 8) then s
    else
      let gen := if k.target then 1 else 0
      let n := k.openPages.length
      let es := k.openPages.map fun g => (g, ((k.doneLeaves.find? fun x => x.1 == g).map Prod.snd).getD 0)
      let man := manifestBytes es
      let s := (List.range (manifestPages n)).foldl (fun s i =>
        buddyWrite s p gen (n + i) ((man.drop (65536 * i)).take 65536)) s
      let rec_ := ckptRecord t k (digestRoot (es.map fun e => e.2))
      let s := buddyWrite s p gen (genSize n - 1) (rec_ ++ List.replicate (65536 - 64) 0#8)
      let s := k.openPages.foldl (fun s g =>
        s.setPage g (Paired.of (setBit32 (setBit32 (s.page g).v 7 false) 8 false))) s
      s.modPart p fun q => { q with ckpt := { k with state := 0, gen := k.target, genOk := true, t := k.epoch, left := 0,
                                                     openPages := [], doneLeaves := [] } }
def execCheckpointClose (p : PartN) (s : State) : Host.Outcome State Fault Refusal := .next (ckptClose s p)

/-! ### TRAINING_SEGMENT_POSTING -/

/-- Pending settings come into force (R411); a new data-parallel group starts with every rank live (R401); a follower takes
ranks that have sent leave notices out of its live mask here (R408; log 75). -/
def applyDp (s : State) (p : Nat) : State :=
  s.modPart p fun q =>
    let d := q.dp
    let fresh : Bool := d.dp.v != d.dpOn || d.ports.v != d.portsOn
    let mask : BitVec 8 := BitVec.ofNat 8 (2 ^ ((d.dp.v.extractLsb' 3 3).toNat + 1) - 1)
    let d := if isLead q then d else { (d.without d.leaving) with leaving := 0 }
    { q with dp := { d with
        buddyOn := d.buddy.v, dpOn := d.dp.v, portsOn := d.ports.v,
        live := if d.dp.v.getLsbD 6 then (if fresh then mask else d.live) else 0,
        leader := if fresh then 0 else d.leader, left := if fresh then false else d.left } }

/-- Status with which the request in progress ends at this posting (R342, R371, R372, R374, R391, R481). -/
def trainStatus (s : State) (p : Nat) (t : TrainJob) : Option Status :=
  let x := s.ctx t.ctx.toNat
  if t.status ≠ St.ok then some t.status
  else if (s.qp t.vf t.qp).disabled then some St.disabled
  else if x.state = 6 ∨ x.state = 0 then some St.disabled
  else if x.state = 5 then some St.withdrawn
  else if x.state = 3 ∨ (x.state ≠ 4 ∧ !epochOk s t.ctx) then some St.staleBase
  else teacherStatus s p t

/-- TRAINTAB bytes (Table 12-2). -/
def trainTab (q : Part) (t : TrainJob) : List Byte :=
  leBytes 1 (if isDp q then dpRank q else 0) ++ leBytes 1 (if isDp q then q.dp.live.toNat else 1) ++
  leBytes 1 (liveRanks q).length ++ leBytes 1 (liveOrder q) ++ leBytes 2 t.globalMb ++
  leBytes 1 (if isDp q then q.dp.leader.toNat else 0) ++ leBytes 9 0

/-- Tables and registers of a segment (Table 12-2), posted for tick t at the earliest. -/
def postSegment (s : State) (p : Nat) (x : ImgInfo) (j : TrainJob) (seg : Nat) (at_ : Nat) : State × Nat :=
  let q := s.part p
  let bs := (stepEntries j (ownShare q j)).filterMap id
  let rows := ((bs.map fun b => b.tokens.length).foldl (fun a b => a + b) 0 : Nat)
  let tabs := (trainTab q j ++ List.replicate 48 0#8 ++ (List.range rows).flatMap fun _ => leBytes 2 j.ctx.toNat).take x.serve.stepLen
  let t := max (postTick s p tabs.length) at_
  let s := writeTables s p x.serve.stepAddr tabs
  let (loan, s) := askGrant s p x t
  let lead := if isLead q then 1 else 0
  let s := noteServed s p [j.ctx]
  (postRegs s p t [j.sNo, seg, bs.length, if seg = 2 ∧ lead = 0 then 1 else 0, x.serve.stepAddr, x.serve.stepAddr + 64, lead, loan], t)

/-- Segment 1 (R386, R390, R393, R402). -/
def postSeg1 (s : State) (p : Nat) (x : ImgInfo) (t : TrainJob) : State :=
  let q := s.part p
  let have_ := (stepEntries t (ownShare q t)).all fun b => b.isSome
  if !have_ then s
  else
    let s := askTeacher s p t
    let t := { t with asked := true }
    let s := s.modPart p fun y => { y with train := some t }
    if !pipeReady s x t then s
    else onPages s (if t.begun then [] else beginPages s p t) fun s =>
      match (if t.begun then Except.ok s else beginState s p t) with
      | .error st => endTrains s p (fun u => u.isOf t.vf t.qp t.htag) st
      | .ok s =>
        -- a follower takes the leader's S_0, which the model does not carry: a free value (log 68)
        let (n, s) := draw s
        let s0 := t.s0.getD (if isLead q then s.tick + 4096 else s.tick + 4096 + (Config.freeBits n).toNat)
        let at_ := if isDp q then s0 + t.sNo * x.maxStep else 0
        -- R402: too late for this step, the rank contributes nothing to it
        if isDp q && decide (at_ + x.maxStep ≤ postTick s p 0) then
          let t' := { t with begun := true, segment := 1, seg1 := at_, s0 := some s0, decided := false, asked := false,
                             present := 0, carried := 0, dropped := 0 }
          s.modPart p fun y => { y with train := some t' }
        else
        let lanes := landedLanes s x t.seg1
        let (s, tk) := postSegment s p x t 1 at_
        let s := stampSlots s lanes tk
        let s := if t.ckptDue && q.dp.buddyOn.getLsbD 0 && (s.part p).ckpt.state == 0 then openCkpt s p else s
        let opened : Bool := (s.part p).ckpt.state == 1 && t.ckptDue
        let t' := { t with begun := true, segment := 1, seg1 := tk, s0 := if isDp q then some s0 else none, decided := false,
                           asked := false, present := 0, carried := 0, dropped := 0,
                           known := (ownedSnaps s t.ctx.toNat).map fun (y : Snapshot) => y.handle, ckptDue := t.ckptDue && !opened }
        let s := s.modPart p fun y => { y with train := some t' }
        -- R390: rows of the step after this one
        let next := { t' with sNo := t.sNo + 1, batches := t.batches.drop t.globalMb }
        if t.teacher = 0xFFFF then s
        else
          let all := (stepEntries next (ownShare q next)).all fun b => b.isSome
          if all then
            let s := askTeacher s p next
            s.modPart p fun y => { y with train := y.train.map fun u => { u with asked := true } }
          else s

/-- Has the broadcast landed, the step record with it (R407)? -/
def broadcastIn (s : State) (x : ImgInfo) (b : Nat) : Bool :=
  !x.serve.bcast.isEmpty && x.serve.bcast.all fun (l : Nat × Nat) =>
    let e := (s.core l.1).slot l.2
    e.arrival != invalidStamp && decide (b ≤ e.arrTick.toNat)
/-- Bytes of the step record that a follower received (Table 12-4). -/
def stepRecord (s : State) (x : ImgInfo) : List Byte :=
  match x.serve.bcast.getLast? with
  | none => []
  | some l => bread s.scratch (scrAddr l.1 ((s.core l.1).slot l.2).base) 64

/-- Slots of rank r in the set of step n (R403). -/
def exSlotsOf (x : ImgInfo) (n r : Nat) : List (Nat × Nat) := x.serve.exSlots.getD (8 * (n % 2) + r) []
/-- Have all of them landed since tick b? -/
def exLanded (s : State) (x : ImgInfo) (n r b : Nat) : Bool :=
  let ls := exSlotsOf x n r
  !ls.isEmpty && ls.all fun (l : Nat × Nat) =>
    let e := (s.core l.1).slot l.2
    e.arrival != invalidStamp && decide (b ≤ e.arrTick.toNat)

/-- A rank leaves the job: DISABLED, leave notices to every peer (R408). -/
def leaveJob (s : State) (p : Nat) (t : TrainJob) : State :=
  let q := s.part p
  let s := ((liveRanks q).filter (· != dpRank q)).foldl (fun s r =>
    sendLink s (dpPort q r) 6 [dpRank q, t.jobTag.toNat] []) s
  let s := s.modPart p fun y => { y with dp := { y.dp with left := true } }
  endTrains s p (fun u => u.isOf t.vf t.qp t.htag) St.disabled

/-- The rank's own contribution was dropped: LATE_DROPPED, and the request goes on (R407). -/
def lateDropped (s : State) (p : Nat) (t : TrainJob) : State :=
  (complete s t.vf t.qp { (Completion.of t.htag 0x0110 t.ctx St.lateDropped) with more := true }).modPart p fun y =>
    { y with dp := { y.dp with dropped := satAdd y.dp.dropped 1 } }

/-- Segment 2 (R404, R407): alone at once, the leader at S_s + X + 2 after its decision, a follower after the broadcast. -/
def postSeg2 (s : State) (p : Nat) (x : ImgInfo) (t : TrainJob) : State :=
  let q := s.part p
  if !isDp q then
    let (s, _) := postSegment s p x t 2 0
    s.modPart p fun y => { y with train := some { t with segment := 2 } }
  else if isLead q then
    if !t.decided then s
    else
      let (s, tk) := postSegment s p x t 2 (t.s0.getD 0 + t.sNo * x.maxStep + x.serve.exchange + 2)
      let slots (m : BitVec 8) (n : Nat) : List (Nat × Nat) := (maskList 8 m).flatMap (exSlotsOf x n)
      let s := stampSlots (stampSlots s (slots t.present t.sNo) tk) (slots t.carried (t.sNo + 1)) tk
      let s := s.modPart p fun y => { y with train := some { t with segment := 2 } }
      if t.dropped.getLsbD (dpRank q) then lateDropped s p t else s
  else if !broadcastIn s x t.seg1 then s
  else
    let r := stepRecord s x
    if fieldAt r 4 4 ≠ (stateT s p).toNat then leaveJob s p t
    else
      let (s, tk) := postSegment s p x t 2 0
      let s := stampSlots s x.serve.bcast tk
      let dropped : Bool := fieldAt r 18 1 / 2 ^ dpRank q % 2 == 1
      let s := if dropped then lateDropped s p t else s
      s.modPart p fun y => { y with train := some { t with segment := 2 } }

/-- TRAINING_SEGMENT_POSTING. -/
def segmentPosting (s : State) (p : Nat) : State :=
  match serveInfo s p, (s.part p).train with
  | some x, some t =>
    if !x.training || !mayPost s p then s
    else if !(s.part p).dp.buddy.ok || !(s.part p).dp.dp.ok || !(s.part p).dp.ports.ok then mismatch s 5 p
    else if !(s.part p).baseEpoch.ok then mismatch s 2 p
    else if t.segment = 0 then onCtxs s (t.ctx :: (if t.teacher = 0xFFFF then [] else [t.teacher])) fun s =>
      match trainStatus s p t with
      | some st => endTrains (abandonCkpt s p st) p (fun u => u.isOf t.vf t.qp t.htag) st
      | none => postSeg1 (applyDp s p) p x t
    else if t.segment = 1 then postSeg2 s p x t
    else s
  | _, _ => s
def execTrainingSegmentPosting (p : PartN) (s : State) : Host.Outcome State Fault Refusal := .next (segmentPosting s p)

/-- Micro-batch entries of the finished step are released, with NUMERIC_FLAG where the context's record says so (R133, R387). -/
def releaseBatches (s : State) (t : TrainJob) : State × List MicroBatch :=
  let used := (stepEntries t (List.range t.globalMb)).filterMap id
  let s := used.foldl (fun s b => complete s b.vf b.qp (Completion.of b.htag 0x0111 t.ctx (finalStatus s t.ctx))) s
  (s, t.batches.filter fun b => !used.contains b)

/-- The leader is lost: a follower without the whole broadcast of the step in progress voids it, t unchanged (R409). -/
def voidStep (s : State) (p : Nat) : State :=
  match serveInfo s p, (s.part p).train with
  | some x, some t =>
    if !x.training || t.segment != 1 || broadcastIn s x t.seg1 then s
    else
      let (s, rest) := releaseBatches s t
      s.modPart p fun y => { y with train := some { t with segment := 0, sNo := t.sNo + 1, batches := rest, decided := false } }
  | _, _ => s

/-- PRESENCE_DECISION: at the end of tick S_s + X the leader decides which ranks enter the step (R404, R405). -/
def presence (s : State) (p : Nat) : State :=
  match serveInfo s p, (s.part p).train with
  | some x, some t =>
    let q := s.part p
    if !x.training || !isDp q || !isLead q || t.segment != 1 || t.decided then s
    else
      let s := s.advance (32 * (t.s0.getD 0 + t.sNo * x.maxStep + x.serve.exchange) + 31)
      let live := liveRanks q
      let bits (rs : List Nat) : BitVec 8 := rs.foldl (fun m r => m ||| (1#8 <<< r)) 0
      let pres := live.filter fun r => exLanded s x t.sNo r t.seg1
      -- late bytes of the step before, under LATE_ADD
      let missed := maskList 8 t.late
      let carried := missed.filter fun r => live.contains r && (exSlotsOf x (t.sNo + 1) r).all t.lateIn.contains
      let absent := live.filter fun r => !pres.contains r
      let late (r : Nat) : Bool := (exSlotsOf x t.sNo r).any fun (l : Nat × Nat) => ((s.core l.1).slot l.2).lateAdd
      let drop := (absent.filter fun r => !late r) ++ missed.filter fun r => !carried.contains r
      let t' := { t with present := bits pres, carried := bits carried, dropped := bits drop, decided := true,
                         late := bits (absent.filter late), lateIn := [] }
      s.modPart p fun y =>
        { y with train := some t',
                 dp := { (y.dp.without y.dp.leaving) with leaving := 0 } }
  | _, _ => s
def execPresenceDecision (p : PartN) (s : State) : Host.Outcome State Fault Refusal := .next (presence s p)

/-- RANK_LEAVE_DEADLINE: segment 2 of step s not posted by S_(s+2) (R408). -/
def leaveDeadline (s : State) (p : Nat) : State :=
  match serveInfo s p, (s.part p).train with
  | some x, some t =>
    if !isDp (s.part p) || t.segment != 1 then s
    else leaveJob (s.advance (32 * (t.s0.getD 0 + (t.sNo + 2) * x.maxStep))) p t
  | _, _ => s
def execRankLeaveDeadline (p : PartN) (s : State) : Host.Outcome State Fault Refusal := .next (leaveDeadline s p)

/-! ### STEP_END -/

/-- Snapshots of the context that the step has committed, in order. -/
def newSnaps (s : State) (t : TrainJob) : List W32 :=
  ((ownedSnaps s t.ctx.toNat).map fun (y : Snapshot) => y.handle).filter fun h => !t.known.contains h

/-- End of segment 2: the step counts, snapshots are reported, the request ends after its last step (R383, R384, R393). -/
def trainEnd (s : State) (p : Nat) (t : TrainJob) : State :=
  if t.segment ≠ 2 || !allAtDstep s p then s
  else
    let (s, rest) := releaseBatches (noteServed s p [t.ctx]) t
    let n := t.stepCount.toNat + 1
    let last : Bool := decide (t.steps.toNat ≤ n)
    let snap : Bool := t.snapPeriod != 0 && n % t.snapPeriod == 0
    let hs := newSnaps s t
    let data := hs.flatMap fun (h : W32) => leBytes 4 h.toNat
    let t := { t with stepCount := BitVec.ofNat 32 n, batches := rest, segment := 0, sNo := t.sNo + 1,
                      ckptDue := t.ckptDue || (t.ckptPeriod != 0 && n % t.ckptPeriod == 0) }
    let s := s.modPart p fun y => { y with train := some t }
    match trainStatus s p t with
    | some st =>
      if (s.ctx t.ctx.toNat).state = 5 ∨ t.status ≠ St.ok then endTrains (abandonCkpt s p st) p (fun u => u.isOf t.vf t.qp t.htag) st else s
    | none =>
      if last then
        let st := finalStatus s t.ctx
        let s := t.batches.foldl (fun s b => complete s b.vf b.qp (Completion.of b.htag 0x0111 t.ctx st)) s
        let s := complete s t.vf t.qp { (Completion.of t.htag 0x0110 t.ctx st) with value := BitVec.ofNat 32 hs.length, data := data }
        s.modPart p fun y => { y with train := y.trainQ.head?, trainQ := y.trainQ.drop 1 }
      else if snap then
        complete s t.vf t.qp { (Completion.of t.htag 0x0110 t.ctx St.accepted) with
          value := BitVec.ofNat 32 hs.length, data := data, more := true }
      else s

/-- STEP_END of the partition's running job: a serving step or segment 2 of a training step. -/
def stepEnd (s : State) (p : Nat) (outs : List StepOut) : State :=
  match serveInfo s p, (s.part p).train with
  | some x, some t => if x.training then trainEnd s p t else serveEnd s p outs
  | _, _ => serveEnd s p outs
def execStepEnd (p : PartN) (outs : List StepOut) (s : State) : Host.Outcome State Fault Refusal := .next (stepEnd s p outs)

end Sys2Proof.Machine
end

