-- ==== Sys2Proof/Machine/Signing.lean ====
section
/-! DEFINITION. Sage's random bits, identity trees, signatures and sensors (R415, R416, R418 to R423), and replies of
commands. -/

namespace Sys2Proof.Machine

/-! ### Sensors (R415, R416, R419) -/

/-- A sensor of Table 13-2 fires: record, Parsley with cause 3; a tamper event ends firmware programming (Table 13-15). -/
def sensorEvent (s : State) (n : Nat) : State :=
  let s := s.modSage fun g => { g with lastSensor := BitVec.ofNat 4 n, sensorValid := true,
                                       entropyOk := if n = 2 then false else g.entropyOk }
  let s := recordNow s { kind := 0x16, cls := 2, status := St.degraded, scope := .module, source := n, detail := n, detail2 := 0,
                         parsley := true, reset := false }
  let s := discardIn s .module
  let s := if s.sys.fwUpdate = 1 then s.modSys fun y => { y with fwUpdate := 0, fwStatus := St.degraded, flashBad := true } else s
  enterParsley s 3 n

def execSageSensorEvent (sensor : Fin 6) (s : State) : Host.Outcome State Fault Refusal := .next (sensorEvent s sensor)

/-! ### Identity trees and signatures -/

/-- Ticks of 100 ms, 60 s (log 61). -/
def ticks100ms : Nat := 3125000
def ticks60s : Nat := 1875000000

/-- ASCII bytes. -/
def ascii (cs : List Nat) : List Byte := cs.map (BitVec.ofNat 8)
/-- Labels "nlk-id-seed", "nlk-id-i", "nlk-flash" (R414). -/
def labelIdSeed : List Byte := ascii [0x6E, 0x6C, 0x6B, 0x2D, 0x69, 0x64, 0x2D, 0x73, 0x65, 0x65, 0x64]
def labelIdI : List Byte := ascii [0x6E, 0x6C, 0x6B, 0x2D, 0x69, 0x64, 0x2D, 0x69]
def labelFlash : List Byte := ascii [0x6E, 0x6C, 0x6B, 0x2D, 0x66, 0x6C, 0x61, 0x73, 0x68]
/-- Device key of a label: counter-mode KDF of SP 800-108 with HMAC-SHA-384, its one block truncated to w bits (R414; encodings:
log 120). -/
def deviceKey (w : Nat) (secret : BitVec 256) (label : List Byte) : BitVec w :=
  let be (n : Nat) : List Byte := (leBytes 4 n).reverse
  (Config.hmac384 (leBytes 32 secret.toNat) (be 1 ++ label ++ [0] ++ be w)).setWidth w
/-- Seed and identifier of the top identity tree, and the key of the flash records (R414). -/
def Sage.idSeed (g : Sage) : BitVec 256 := deviceKey 256 g.deviceSecret labelIdSeed
def Sage.idI (g : Sage) : BitVec 128 := deviceKey 128 g.deviceSecret labelIdI
def Sage.flashKey (g : Sage) : BitVec 256 := deviceKey 256 g.deviceSecret labelFlash
/-- HMAC of the flash record that holds a top-tree index (R419). -/
def Sage.flashTag (g : Sage) (q : BitVec 21) : BitVec 256 := Config.hmac256 g.flashKey (leBytes 4 q.toNat)
/-- Does the record that Sage reads back carry its HMAC (R419)? -/
def Sage.flashGood (g : Sage) : Bool :=
  match g.topTag with
  | none => true
  | some t => t == g.flashTag g.topNext

/-- Sage certifies a new per-boot tree with the next top leaf; the record of the index is written first, under its HMAC (R419 to
R421). -/
def Sage.certify (g : Sage) : Sage :=
  { g with topNext := g.topNext + 1, topTag := some (g.flashTag (g.topNext + 1)), leaves := 32768, treeCertified := true, signOk := true,
           successor := false }

/-- Has the top tree an unused leaf? -/
def Sage.topLeft (g : Sage) : Bool := decide (g.topNext.toNat < 2 ^ 20)

/-- A signature with the next leaf of the per-boot tree; a spent tree gives way to its successor (R421, log 62); none when no
leaf is left (R423). -/
def signNext (s : State) (msg : List Byte) : Option (List Byte × State) :=
  let g := if s.sage.leaves = 0 ∧ s.sage.topLeft ∧ s.sage.flashGood then s.sage.certify else s.sage
  if g.leaves = 0 ∨ !g.treeCertified then none
  else
    let leaf := (g.topNext.toNat - 1) * 32768 + (32768 - g.leaves.toNat)
    let g' := { g with leaves := g.leaves - 1, signOk := g.leaves != 1 || g.topLeft }
    some (Config.hssSign g.idSeed g.idI leaf msg, { s with sage := g' })

/-- Session of a DOE instance. -/
def sessionOf (s : State) (ix : Nat) : Session := sget Session.fresh s.sage.sessions ix
/-- Session changed. -/
def modSession (s : State) (ix : Nat) (f : Session → Session) : State :=
  s.modSage fun g => { g with sessions := smod Session.fresh g.sessions ix f }

/-- A signature drawn from the bucket (R422), for a session where `ix` names one: BUSY without a token or within 100 ms of the
session's last one, NO_RESOURCE without a leaf (R423). -/
def signFor (s : State) (ix : Option Nat) (msg : List Byte) : Except Status (List Byte) × State :=
  let early : Bool := match ix with
    | none => false
    | some i => (sessionOf s i).sigAt != 0 && decide (s.tick + 1 < (sessionOf s i).sigAt + ticks100ms)
  match signNext s msg with
  | none =>
    let s := s.modSage fun g => { g with signOk := false }
    -- a record that fails its HMAC makes no signature (R419)
    (.error St.noResource, if s.sage.leaves = 0 ∧ s.sage.topLeft ∧ !s.sage.flashGood then sensorEvent s 3 else s)
  | some (sig, s') =>
    if s.sage.tokens = 0 then (.error St.busy, s.modSage fun g => { g with busy := satAdd g.busy 1 })
    else if early then (.error St.busy, s)
    else
      let s := s'.modSage fun g => { g with tokens := g.tokens - 1 }
      (.ok sig, match ix with | none => s | some i => modSession s i fun x => { x with sigAt := s.tick + 1 })

/-- SIGNING_TOKEN: one token every 16 ms, at most 4,096 (R422). -/
def signingToken (s : State) : State :=
  s.modSage fun g => { g with tokens := if g.tokens.toNat < 4096 then g.tokens + 1 else g.tokens }
def execSigningToken (s : State) : Host.Outcome State Fault Refusal := .next (signingToken s)

/-- PER_BOOT_TREE_CERTIFY (R420, R423): nothing where the tree of this boot is certified or no top leaf is left; sensor 3
where the flash record fails (R419). -/
def perBootTreeCertify (s : State) : State :=
  if s.sage.treeCertified || !s.sage.topLeft then s
  else if s.sage.flashGood then { s with sage := s.sage.certify }
  else sensorEvent s 3
def execPerBootTreeCertify (s : State) : Host.Outcome State Fault Refusal := .next (perBootTreeCertify s)

/-- SUCCESSOR_TREE_READY: made once 1,024 leaves or fewer remain (R421); none without a top leaf (R423). -/
def successorTreeReady (s : State) : State :=
  if s.sage.treeCertified && decide (s.sage.leaves.toNat ≤ 1024) && s.sage.topLeft then s.modSage fun g => { g with successor := true } else s
def execSuccessorTreeReady (s : State) : Host.Outcome State Fault Refusal := .next (successorTreeReady s)

/-- DRBG_RESEED: every 2^20 requests (R415). -/
def drbgReseed (s : State) : State :=
  if 2 ^ 20 ≤ s.sage.drbg then s.modSage fun g => { g with drbg := 0 } else s
def execDrbgReseed (s : State) : Host.Outcome State Fault Refusal := .next (drbgReseed s)

/-! ### Replies with data -/

/-- Words of bytes, four a word, little-endian. -/
def bytesToWords : List Byte → List W32
  | [] => []
  | a :: rest =>
    match rest with
    | b :: c :: d :: more => BitVec.ofNat 32 (ofLeBytes [a, b, c, d]) :: bytesToWords more
    | _ => [BitVec.ofNat 32 (ofLeBytes (a :: rest))]

/-- Reply bytes in the MGMT buffer from byte 0 (R567). -/
def mgmtReply (s : State) (bs : List Byte) : State :=
  let ws := bytesToWords bs
  s.modSys fun y =>
    { y with mgmtLen := BitVec.ofNat 16 bs.length
             mgmtBuf := ((List.range ws.length).zip ws).foldl (fun m e => sput 0 m e.1 e.2) y.mgmtBuf }

/-- Bytes written from the start of a page on (R441, R465). -/
def writeArea (s : State) (g : Nat) (bs : List Byte) : State := { s with stack := bwrite s.stack (g * 65536) bs }

/-- DOE instance number: VF number, 128 for PF0 (R428). -/
def doeIx : Option VfN → Nat
  | none => 128 | some v => v.val

/-- The response object of a DOE instance. -/
def respond (s : State) (ix : Nat) (bs : List Byte) : State :=
  s.modSage fun g => { g with doe := sput [] g.doe ix bs }

/-- SPDM message header: version 1.3, code, two parameters (log 63). -/
def spdmHdr (code p1 p2 : Nat) : List Byte := leBytes 1 0x13 ++ leBytes 1 code ++ leBytes 1 p1 ++ leBytes 1 p2
/-- SPDM error response. -/
def spdmError (s : State) (ix code data : Nat) : State := respond s ix (spdmHdr 0x7F code data)
/-- Secured vendor-defined response with a status of Table 0-3 and data. -/
def vendorRsp (s : State) (ix : Nat) (st : Status) (data : List Byte) : State :=
  respond { s with readData := BitVec.ofNat 64 st.toNat } ix (spdmHdr 0x7E 0 0 ++ leBytes 1 st.toNat ++ data)

/-- Final answer with reply bytes: into the MGMT buffer, the reply area of a mailbox command, or the DOE response. -/
def answerData (s : State) (via : Via) (cmd : BitVec 16) (page : Nat) (st : Status) (bs : List Byte) : State :=
  match via with
  | .mgmt => answer (mgmtReply s bs) via cmd 0 st 0 []
  | .doe fn => vendorRsp s (doeIx fn) st bs
  | v => answer (if st = St.ok then onPages s [page] fun s => writeArea s page bs else s) v cmd 0 st 0 []

/-- Does the path need a reply area in a STAGING page (R311, R441)? -/
def needsArea : Via → Bool
  | .mailbox _ _ => true | .pf0 => true | _ => false

end Sys2Proof.Machine
end

