-- ==== Sys2Proof/Machine/Sessions.lean ====
section
/-! DEFINITION. SPDM requests, sessions, tenants and their queue keys (R428 to R437, R447), VF assignment. -/

namespace Sys2Proof.Machine

/-! ### Ends of sessions (R437, R342) -/

/-- Imports and exports of contexts that a VF's queues began end with DISABLED (R342, Table 13-15). -/
def endVfCtxWork (s : State) (vf : Nat) : State :=
  let mine (v : Via) : Bool := match v with | .queue n _ _ => n.val == vf | _ => false
  s.ctxs.foldl (fun s (e : Nat × Ctx) =>
    let c := BitVec.ofNat 16 e.1
    let s := (e.2.importing.filter fun i => mine i.1).foldl (fun s i => finish (freePages s i.2.1) i.1 0x0127 c St.disabled 0 []) s
    let s := (e.2.exporting.filter fun i => mine i.1).foldl (fun s i => finish s i.1 0x0128 c St.disabled 0 []) s
    s.modCtx e.1 fun x => { x with importing := x.importing.filter fun i => !mine i.1,
                                   exporting := x.exporting.filter fun i => !mine i.1 }) s

/-- Requests, training requests and context work of the queues of a VF that `f` names end with DISABLED (R342, R437). -/
def endVfWork (s : State) (vf : Nat) (f : Nat → Bool) : State :=
  (List.range 8).foldl (fun s p =>
    disableTrains (disableReqs s p (fun r => r.vf == vf && f r.qp && r.command != 0x0110) St.disabled) p
      (fun t => t.vf == vf && f t.qp) St.disabled) s

/-- A queue pair without keys. -/
def Qp.unkey (q : Qp) (ended : Bool) : Qp :=
  { q with keyed := false, keyC2s := 0, keyS2c := 0, gen := 0, cntIn := 0, cntOut := 0, recIn := 0, recOut := 0, ended := ended,
           waiting := q.waiting.map fun c => { c with pstatus := true, status := St.disabled, total := 0, value := 0, data := [] } }

/-- Every pair of a VF changed. -/
def modPairs (s : State) (vf : Nat) (f : Qp → Qp) : State := (List.range 32).foldl (fun s q => s.modQp vf q f) s

/-- The session of a DOE instance ends: secrets and queue keys zeroised in this tick, then the work of the queues. -/
def closeSession (s : State) (ix : Nat) (ended : Bool) : State :=
  let s := modSession s ix fun _ => Session.fresh
  if ix = 128 then s
  else endVfCtxWork (endVfWork (modPairs s ix fun q => q.unkey ended) ix fun _ => true) ix

/-- Register pages of a VF after its reset; what stands in host memory stays there (R493). -/
def resetVf (s : State) (vf : Nat) : State :=
  (modPairs (closeSession s vf false) vf fun q => { Qp.fresh with written := q.written, msix := q.msix }).modCxl fun x =>
    { x with ats := x.ats.filter fun e => e.1 != vf, msixTab := x.msixTab.filter fun e => e.1 / 128 != vf + 1 }

/-! ### Requests outside a session (Table 13-5) -/

/-- SPDM is served in READY and DEBUG; Parsley and recovery answer an error that carries DEGRADED, an unreachable module
nothing (R526, R531, R534; log 63). -/
def spdm (s : State) (fn : Option VfN) (f : State → State) : State :=
  match s.sys.state.toNat with
  | 1 => f s
  | 4 => f s
  | 2 => spdmError s (doeIx fn) 5 0x10
  | 3 => spdmError s (doeIx fn) 5 0x10
  | _ => s

/-- GET_VERSION begins negotiation anew. -/
def getVersion (s : State) (fn : Option VfN) : State :=
  spdm s fn fun s =>
    let s := modSession s (doeIx fn) fun x => { x with version := true, caps := false, algs := false }
    respond s (doeIx fn) (spdmHdr 0x04 0 0 ++ [0, 1, 0, 0x13])
def execGetVersion (fn : Option VfN) (s : State) : Host.Outcome State Fault Refusal := .next (getVersion s fn)

/-- GET_CAPABILITIES, after GET_VERSION. -/
def getCapabilities (s : State) (fn : Option VfN) : State :=
  spdm s fn fun s =>
    if !(sessionOf s (doeIx fn)).version then spdmError s (doeIx fn) 4 0
    else respond (modSession s (doeIx fn) fun x => { x with caps := true }) (doeIx fn) (spdmHdr 0x61 0 0 ++ leBytes 4 16384)
def execGetCapabilities (fn : Option VfN) (s : State) : Host.Outcome State Fault Refusal := .next (getCapabilities s fn)

/-- NEGOTIATE_ALGORITHMS: each of the four of Table 13-5 must be among those offered. -/
def negotiate (s : State) (fn : Option VfN) (baseHash sig kex aead : Bool) : State :=
  spdm s fn fun s =>
    if !(sessionOf s (doeIx fn)).caps then spdmError s (doeIx fn) 4 0
    else if !(baseHash && sig && kex && aead) then spdmError s (doeIx fn) 1 0
    else respond (modSession s (doeIx fn) fun x => { x with algs := true }) (doeIx fn)
      (spdmHdr 0x63 0 0 ++ leBytes 2 1 ++ leBytes 2 2)
def execNegotiateAlgorithms (fn : Option VfN) (baseHash sig kex aead : Bool) (s : State) : Host.Outcome State Fault Refusal :=
  .next (negotiate s fn baseHash sig kex aead)

/-- GET_DIGESTS: slot 0 alone is provisioned (R418). -/
def getDigests (s : State) (fn : Option VfN) : State :=
  spdm s fn fun s =>
    if !(sessionOf s (doeIx fn)).algs then spdmError s (doeIx fn) 4 0
    else respond s (doeIx fn) (spdmHdr 0x01 0 1 ++ leBytes 48 (Config.sha384 (Config.certChain s.sage.serial)).toNat)
def execGetDigests (fn : Option VfN) (s : State) : Host.Outcome State Fault Refusal := .next (getDigests s fn)

/-- GET_CERTIFICATE returns the chain of slot 0 (R418). -/
def getCertificate (s : State) (fn : Option VfN) (slot : BitVec 8) : State :=
  spdm s fn fun s =>
    if !(sessionOf s (doeIx fn)).algs then spdmError s (doeIx fn) 4 0
    else if slot ≠ 0 then spdmError s (doeIx fn) 1 0
    else respond s (doeIx fn) (spdmHdr 0x02 0 0 ++ Config.certChain s.sage.serial)
def execGetCertificate (fn : Option VfN) (slot : BitVec 8) (s : State) : Host.Outcome State Fault Refusal :=
  .next (getCertificate s fn slot)

/-- SPDM error code for a refused signature: Busy without a token, else Unspecified (log 63). -/
def signError (st : Status) : Nat := if st = St.busy then 3 else 5

/-- CHALLENGE: a signed CHALLENGE_AUTH over the nonce (R421, R422). -/
def challenge (s : State) (fn : Option VfN) (slot : BitVec 8) (nonce : BitVec 256) : State :=
  spdm s fn fun s =>
    let ix := doeIx fn
    if !(sessionOf s ix).algs then spdmError s ix 4 0
    else if slot ≠ 0 then spdmError s ix 1 0
    else
      let (own, s) := drawBits s
      let body := spdmHdr 0x03 0 1 ++ leBytes 48 (Config.sha384 (Config.certChain s.sage.serial)).toNat ++ leBytes 32 own.toNat
      match signFor s none (body ++ leBytes 32 nonce.toNat) with
      | (.error st, s) => spdmError s ix (signError st) st.toNat
      | (.ok sig, s) => respond s ix (body ++ sig)
def execChallenge (fn : Option VfN) (slot : BitVec 8) (nonce : BitVec 256) (s : State) : Host.Outcome State Fault Refusal :=
  .next (challenge s fn slot nonce)

/-! ### Key exchange (R428, R429, R450, R453) -/

/-- First bits of an HKDF-SHA-384 output (log 8). -/
def hkdfBits (w : Nat) (secret info : List Byte) : BitVec w := (Config.hkdf secret info).setWidth w
/-- "nlk exporter", "nlk q" (R432). -/
def labelExporter : List Byte := ascii [0x6E, 0x6C, 0x6B, 0x20, 0x65, 0x78, 0x70, 0x6F, 0x72, 0x74, 0x65, 0x72]
def labelQueue : List Byte := ascii [0x6E, 0x6C, 0x6B, 0x20, 0x71]

/-- KEY_EXCHANGE: encapsulation to the requester's 1,568-byte key, signed; Busy where a session stands, Unspecified on a VF under
debug unlock. Of several exchanges the first to reach FINISH holds the session (Table 13-15); the signature counts as the
session's (R422). -/
def keyExchange (s : State) (fn : Option VfN) (key : List Byte) : State :=
  spdm s fn fun s =>
    let ix := doeIx fn
    let x := sessionOf s ix
    if x.up then spdmError s ix 3 0
    else if s.sage.debug ≠ 0 ∧ fn.isSome then spdmError s ix 5 0
    else if !x.algs then spdmError s ix 4 0
    else if key.length ≠ 1568 then spdmError s ix 1 0
    else
      let (bits, s) := drawBits s
      let (ct, secret) := Config.kemEncap key bits
      match signFor s none (key ++ ct) with
      | (.error st, s) => spdmError s ix (signError st) st.toNat
      | (.ok sig, s) =>
        let th := Config.sha384 (key ++ ct ++ sig)
        let h := (hkdfBits 384 (leBytes 32 secret.toNat) (leBytes 48 th.toNat), th, s.tick + 1)
        let s := modSession s ix fun y => { y with kex := y.kex ++ [h] }
        respond s ix (spdmHdr 0x64 0 0 ++ ct ++ sig)
def execKeyExchange (fn : Option VfN) (encapKey : List Byte) (s : State) : Host.Outcome State Fault Refusal :=
  .next (keyExchange s fn encapKey)

/-- FINISH: the requester's verify data is the HMAC of the transcript under the session's secret (log 63). -/
def finishReq (s : State) (fn : Option VfN) (verify : BitVec 384) : State :=
  spdm s fn fun s =>
    let ix := doeIx fn
    let x := sessionOf s ix
    if x.up then spdmError s ix 3 0
    else if x.kex.isEmpty then spdmError s ix 4 0
    else
      match x.kex.find? (fun h => Config.hmac384 (leBytes 48 h.1.toNat) (leBytes 48 h.2.1.toNat) == verify) with
      | none =>
        spdmError ((modSession s ix fun y => { y with kex := y.kex.drop 1 }).modSage fun g =>
          { g with deniedAuth := satAdd g.deniedAuth 1 }) ix 6 0
      | some h =>
        let th2 := Config.sha384 (leBytes 48 h.2.1.toNat ++ leBytes 48 verify.toNat)
        let s := modSession s ix fun y => { y with kex := [], up := true, secret := h.1, th := th2, sigAt := h.2.2, claimed := false,
                                                   proven := false, updates := 0 }
        respond s ix (spdmHdr 0x65 0 0)
def execFinish (fn : Option VfN) (verifyData : BitVec 384) (s : State) : Host.Outcome State Fault Refusal :=
  .next (finishReq s fn verifyData)

/-- A request inside a session; without one the secured message cannot be read (log 63). -/
def inSession (s : State) (ix : Nat) (f : State → Session → State) : State :=
  let x := sessionOf s ix
  if x.up then f s x else spdmError s ix 2 0

/-- END_SESSION (R437). -/
def endSession (s : State) (fn : Option VfN) : State :=
  spdm s fn fun s => inSession s (doeIx fn) fun s _ => respond (closeSession s (doeIx fn) true) (doeIx fn) (spdmHdr 0x6C 0 0)
def execEndSession (fn : Option VfN) (s : State) : Host.Outcome State Fault Refusal := .next (endSession s fn)

/-- KEY_UPDATE: the session's traffic keys move on. -/
def keyUpdate (s : State) (fn : Option VfN) : State :=
  spdm s fn fun s => inSession s (doeIx fn) fun s _ =>
    respond (modSession s (doeIx fn) fun y => { y with updates := y.updates + 1 }) (doeIx fn) (spdmHdr 0x69 0 0)
def execKeyUpdate (fn : Option VfN) (s : State) : Host.Outcome State Fault Refusal := .next (keyUpdate s fn)

/-- HEARTBEAT. -/
def heartbeat (s : State) (fn : Option VfN) : State :=
  spdm s fn fun s => inSession s (doeIx fn) fun s _ => respond s (doeIx fn) (spdmHdr 0x68 0 0)
def execHeartbeat (fn : Option VfN) (s : State) : Host.Outcome State Fault Refusal := .next (heartbeat s fn)

/-- HEARTBEAT_MISSED ends the session (R437). -/
def heartbeatMissed (s : State) (fn : Option VfN) : State :=
  if (sessionOf s (doeIx fn)).up then closeSession s (doeIx fn) true else s
def execHeartbeatMissed (fn : Option VfN) (s : State) : Host.Outcome State Fault Refusal := .next (heartbeatMissed s fn)

/-! ### Tenant sessions and queue keys (R431, R432, R435) -/

/-- Queue key of pair q of a VF (R432): direction 0 is host to device. -/
def queueKey (secret : BitVec 384) (vf q dir gen : Nat) : BitVec 256 :=
  let exporter := hkdfBits 384 (leBytes 48 secret.toNat) labelExporter
  hkdfBits 256 (leBytes 48 exporter.toNat) (labelQueue ++ leBytes 2 (vf * 32 + q) ++ leBytes 1 dir ++ leBytes 1 gen)

/-- A pair takes both keys of a generation; the four counters start at 0 (R434). -/
def Qp.rekey (p : Qp) (secret : BitVec 384) (vf q gen : Nat) : Qp :=
  { p with keyed := true, keyC2s := queueKey secret vf q 0 gen, keyS2c := queueKey secret vf q 1 gen, gen := BitVec.ofNat 32 gen,
           cntIn := 0, cntOut := 0, recIn := 0, recOut := 0, ended := false }

/-- Keys of all 32 pairs of a VF at a successful claim or prove. -/
def keyPairs (s : State) (vf : Nat) : State :=
  let secret := (sessionOf s vf).secret
  (List.range 32).foldl (fun s q => s.modQp vf q fun p => p.rekey secret vf q 0) s

/-- A request of a VF session that concerns its tenant; the binding's pair is checked (R444). -/
def vfRequest (s : State) (vf : VfN) (f : State → Session → Nat → State) : State :=
  spdm s (some vf) fun s => inSession s vf.val fun s x =>
    if !(tenantOf s vf.val).ok then mismatch s 6 vf.val else f s x (tenantOf s vf.val).v.toNat

/-- The VF's session becomes a tenant session. -/
def joinTenant (s : State) (vf t : Nat) (claim : Bool) : State :=
  let s := modSession s vf fun y => { y with tenant := BitVec.ofNat 16 t, claimed := claim, proven := !claim }
  vendorRsp (keyPairs s vf) vf St.ok []

/-- TENANT_CLAIM: stores the credential where the tenant has none (R431). -/
def tenantClaim (s : State) (vf : VfN) (cred : BitVec 256) : State :=
  vfRequest s vf fun s _ t =>
    if !(tenantRec s t).present || (tenantRec s t).cred.isSome then vendorRsp s vf.val St.badHandle []
    else
      joinTenant (s.modSage fun g => { g with tenants := smod Tenant.fresh g.tenants t fun r => { r with cred := some cred } })
        vf.val t true
def execTenantClaim (vf : VfN) (cred : BitVec 256) (s : State) : Host.Outcome State Fault Refusal := .next (tenantClaim s vf cred)

/-- TENANT_PROVE: HMAC-SHA-384 under the credential over TH2 (R431). -/
def tenantProve (s : State) (vf : VfN) (mac : BitVec 384) : State :=
  vfRequest s vf fun s x t =>
    let ok : Bool := match (tenantRec s t).cred with
      | none => false
      | some cred => Config.hmac384 (leBytes 32 cred.toNat) (leBytes 48 x.th.toNat) == mac
    if ok then joinTenant s vf.val t false
    else vendorRsp (s.modSage fun g => { g with deniedAuth := satAdd g.deniedAuth 1 }) vf.val St.authFail []
def execTenantProve (vf : VfN) (mac : BitVec 384) (s : State) : Host.Outcome State Fault Refusal := .next (tenantProve s vf mac)

/-- Is an entry of the pair outstanding (R435)? -/
def outstanding (s : State) (vf q : Nat) : Bool :=
  let mine (v : Via) : Bool := match v with | .queue n k _ => n.val == vf && k.val == q | _ => false
  let inPart (x : Part) : Bool :=
    x.dill.reqs.any (fun r => r.vf == vf && r.qp == q && r.command != 0x0110) ||
    (x.train.toList ++ x.trainQ).any fun t => t.vf == vf && t.qp == q || t.batches.any fun b => b.vf == vf && b.qp == q
  (List.range 8).any (fun p => inPart (s.part p)) ||
  s.ctxs.any (fun (e : Nat × Ctx) => e.2.importing.any (fun i => mine i.1) || e.2.exporting.any (fun i => mine i.1) || e.2.owed.any mine) ||
  !(s.qp vf q).waiting.isEmpty

/-- QREKEY: the next generation; it enables a pair that tag failures disabled (R434, R435). -/
def qrekey (s : State) (vf : VfN) (q : QpN) : State :=
  vfRequest s vf fun s x _ =>
    let p := s.qp vf q
    if !p.keyed then vendorRsp (s.modSage fun g => { g with deniedAuth := satAdd g.deniedAuth 1 }) vf.val St.authFail []
    else if outstanding s vf q then vendorRsp s vf.val St.busy []
    else
      let s := s.modQp vf q fun p =>
        { p.rekey x.secret vf q ((p.gen.toNat + 1) % 256) with tagFails := 0, disabled := p.disabled && p.status != St.authFail }
      vendorRsp s vf.val St.ok []
def execQrekey (vf : VfN) (qp : QpN) (s : State) : Host.Outcome State Fault Refusal := .next (qrekey s vf qp)

/-! ### Tenant records and VF assignment (R430, R437) -/

/-- Quotas of all tenants but t. -/
def otherQuotas (s : State) (t : Nat) : Nat :=
  ((s.sage.tenants.filter fun e => e.1 != t && e.2.present).map fun e => e.2.quota.toNat).foldl (fun a b => a + b) 0

/-- TENANT_SET. -/
def tenantSet (s : State) (via : Via) (t quota : BitVec 16) (mask : BitVec 8) : State :=
  permitted s via 0x0010 0 (Via.isPf0 via) fun s =>
    if t = 0 ∨ 4095 < t.toNat then answer s via 0x0010 0 St.badHandle 0 []
    else if 49152 < otherQuotas s t.toNat + quota.toNat then answer s via 0x0010 0 St.noResource 0 []
    else
      answer (s.modSage fun g => { g with tenants := smod Tenant.fresh g.tenants t.toNat fun r =>
        { r with present := true, quota := quota, mask := Paired.of mask } }) via 0x0010 0 St.ok 0 []
def execTenantSet (via : Via) (tenant quota : BitVec 16) (mask : BitVec 8) (s : State) : Host.Outcome State Fault Refusal :=
  .next (tenantSet s via tenant quota mask)

/-- VFs bound to a tenant. -/
def vfsOf (s : State) (t : BitVec 16) : List Nat := (s.sage.vfTenant.filter fun e => e.2.v == t && t != 0).map (·.1)

/-- TENANT_REVOKE: sessions end, contexts are deleted, the credential is zeroised; the record and the bindings stay. -/
def tenantRevoke (s : State) (via : Via) (t : BitVec 16) : State :=
  permitted s via 0x0011 0 (Via.isPf0 via) fun s =>
    if !(tenantRec s t.toNat).present then answer s via 0x0011 0 St.badHandle 0 []
    else
      let s := (vfsOf s t).foldl (fun s vf => closeSession s vf false) s
      let own := (s.ctxs.filter fun e => e.2.state != 0 && e.2.state != 6 && e.2.tenant.v == t).map (·.1)
      let s := own.foldl (fun s c => beginDelete s none (BitVec.ofNat 16 c)) s
      answer (s.modSage fun g => { g with tenants := smod Tenant.fresh g.tenants t.toNat fun r => { r with cred := none } })
        via 0x0011 0 St.ok 0 []
def execTenantRevoke (via : Via) (tenant : BitVec 16) (s : State) : Host.Outcome State Fault Refusal := .next (tenantRevoke s via tenant)

/-- VF_ASSIGN: binds the VF and resets it. -/
def vfAssign (s : State) (via : Via) (vf : VfN) (t : BitVec 16) : State :=
  permitted s via 0x0012 0 (Via.isPf0 via) fun s =>
    if !(tenantRec s t.toNat).present then answer s via 0x0012 0 St.badHandle 0 []
    else
      let s := resetVf s vf.val
      answer (s.modSage fun g => { g with vfTenant := sput (Paired.of 0) g.vfTenant vf.val (Paired.of t) }) via 0x0012 0 St.ok 0 []
def execVfAssign (via : Via) (vf : VfN) (tenant : BitVec 16) (s : State) : Host.Outcome State Fault Refusal :=
  .next (vfAssign s via vf tenant)

end Sys2Proof.Machine
end

