-- ==== Sys2Proof/Machine/ModuleCmds.lean ====
section
/-! DEFINITION. Operator commands of the module: ATTEST (R441, R442), debug unlock (R449, R450), ZEROISE and POWER_OFF (R446, R536,
R537), FW_UPDATE (R427 to R529), TELEMETRY. -/

namespace Sys2Proof.Machine

/-! ### Attestation report -/

/-- STATE code of a PTN_IMAGEn (Table 10-2). -/
def ImgState.code : ImgState → Nat
  | .empty => 0 | .loading => 1 | .ready => 2 | .running => 3 | .suspended => 4 | .stopped => 5

/-- Image entry of Table 13-9. -/
def imageEntry (g : Img) : List Byte :=
  match g.info with
  | none => leBytes 1 g.st.code ++ List.replicate 99 0
  | some x => leBytes 1 g.st.code ++ leBytes 1 (if x.n0 then 0 else 1) ++ [0, 0] ++ leBytes 48 x.colxel.toNat ++ leBytes 48 x.avman.toNat

/-- Partition entry of Table 13-9. -/
def partEntry (q : Part) : List Byte :=
  leBytes 2 q.live.groups.v.toNat ++ leBytes 1 q.st.toNat ++
  leBytes 1 ((if q.integ.guardOn then 1 else 0) + (if q.mint.enableOn then 2 else 0)) ++
  leBytes 4 q.baseEpoch.v.toNat ++ leBytes 32 q.baseDigest.toNat ++
  imageEntry (q.img.getD 0 Img.fresh) ++ imageEntry (q.img.getD 1 Img.fresh) ++
  leBytes 1 q.pipe.v.toNat ++ leBytes 1 q.dp.dp.v.toNat ++ List.replicate 14 0

/-- Tenant's contexts from a number on, ascending. -/
def tenantCtxs (s : State) (t first : BitVec 16) : List Nat :=
  (s.ctxs.filter fun e => e.2.state != 0 && e.2.tenant.v == t && decide (first.toNat ≤ e.1)).map (·.1)

/-- Digest of a snapshot, zero where the handle is 0. -/
def snapDigest (s : State) (h : W32) : List Byte :=
  leBytes 32 (match snapOf s h with | none => 0 | some y => y.digest.toNat)

/-- Tenant section of Table 13-10. -/
def tenantSection (s : State) (vf : Nat) (first : BitVec 16) : List Byte :=
  let x := sessionOf s vf
  let cs := tenantCtxs s x.tenant first
  let rec1 (c : Nat) : List Byte :=
    let y := s.ctx c
    leBytes 2 c ++ leBytes 1 y.state.toNat ++ leBytes 1 y.kind.toNat ++ leBytes 4 y.epoch.v.toNat ++ snapDigest s y.serve ++
      snapDigest s y.stateSnap
  leBytes 2 x.tenant.toNat ++ leBytes 2 vf ++ leBytes 1 (if x.claimed then 1 else 0) ++ leBytes 1 (min cs.length 64) ++
  leBytes 2 (cs.getD 64 0xFFFF) ++ leBytes 48 (Config.sha384 (leBytes 48 x.th.toNat)).toNat ++ (cs.take 64).flatMap rec1

/-- Report body (Table 13-8); partition entries are zero in Parsley (R442). -/
def reportBody (s : State) (nonce : BitVec 256) (tenant : Option (Nat × BitVec 16)) : List Byte :=
  let parts := (List.range 8).flatMap fun p => if s.parsley then List.replicate 256 0 else partEntry (s.part p)
  let tail := parts ++ match tenant with | none => [] | some (vf, first) => tenantSection s vf first
  let flags := (if s.sage.es then 1 else 0) + (if s.parsley then 2 else 0) + (if tenant.isSome then 4 else 0)
  let modes := ((List.range 7).map fun n => (s.port n).live.toNat * 4 ^ n).foldl (fun a b => a + b) 0
  leBytes 4 0x54505241 ++ leBytes 2 1 ++ leBytes 2 flags ++ leBytes 4 (208 + tail.length) ++ leBytes 4 0 ++
  leBytes 8 s.sage.serial.toNat ++ leBytes 32 nonce.toNat ++ leBytes 8 s.tick ++ leBytes 48 s.sage.romDigest.toNat ++
  leBytes 48 s.sage.fwDigest.toNat ++ leBytes 1 s.sage.blown.toNat ++ leBytes 1 s.sys.state.toNat ++
  leBytes 1 (s.sage.debug).toNat ++ leBytes 1 s.gov.lend.v.toNat ++ leBytes 2 modes ++
  leBytes 1 ((if s.gov.master then 1 else 0) + 2 * s.gov.slot.toNat) ++ [0] ++ leBytes 4 s.sage.loaderVersion.toNat ++
  leBytes 4 (s.sage.topNext.toNat - 1) ++ leBytes 32 (mapDigest s).toNat ++ tail

/-- Session that asks, for the signing limit (R422). -/
def askSession : Via → Option Nat
  | .doe fn => some (doeIx fn) | _ => none

/-- A report formed, signed and returned. -/
def attestReply (s : State) (via : Via) (page : Nat) (body : List Byte) : State :=
  match signFor s (askSession via) body with
  | (.error st, s) => answerData s via 6 page (if s.parsley && st != St.busy then St.internal else st) []
  | (.ok sig, s) => answerData s via 6 page St.ok (body ++ sig)

/-- ATTEST answers in these states with a status and no report: BUSY in start-up, DEGRADED in recovery, DISABLED when off; in
Parsley INTERNAL where SIGN_OK is 0 (R526, R531, R534). -/
def attestStop (s : State) : Option Status :=
  match s.sys.state.toNat with
  | 0 => some St.busy | 3 => some St.degraded | 5 => some St.disabled
  | 2 => if s.sage.signOk then none else some St.internal
  | _ => none

/-- ATTEST: the operator form on MGMT, PF0 and a PF0 session, the tenant form in a tenant session (Table 13-11). -/
def attest (s : State) (via : Via) (tenantForm : Bool) (nonce : BitVec 256) (first : BitVec 16) (page : Nat) : State :=
  let operator : Bool := !tenantForm && (Via.isPf0 via || Via.isMgmt via || (match via with | .doe none => (sessionOf s 128).up | _ => false))
  let tenant : Option Nat := match via with
    | .doe (some vf) => if tenantForm && (sessionOf s vf.val).up && ((sessionOf s vf.val).claimed || (sessionOf s vf.val).proven)
                        then some vf.val else none
    | _ => none
  if !operator && tenant.isNone then
    match via with
    | .doe fn => vendorRsp (s.modSage fun g => { g with deniedPort := satAdd g.deniedPort 1 }) (doeIx fn) St.deniedPort []
    | v => denied s v 6 0
  else if !boxAccepts via 6 then answer s via 6 0 St.badFormat 0 []
  else
    match attestStop s with
    | some st => answerData s via 6 page st []
    | none =>
      if needsArea via && !isStaging s page then answer s via 6 0 St.badHandle 0 []
      else attestReply s via page (reportBody s nonce (tenant.map fun vf => (vf, first)))
def execAttest (via : Via) (tenantForm : Bool) (nonce : BitVec 256) (firstCtx : BitVec 16) (reply : Nat) (s : State) :
    Host.Outcome State Fault Refusal := .next (attest s via tenantForm nonce firstCtx reply)

/-! ### Zeroisation by command -/

/-- Every queue pair without keys, its later entries DISABLED (R446, R489). -/
def endAllPairs (s : State) : State :=
  { s with cxl := { s.cxl with qps := (List.range 4096).map fun n => (n, (sget Qp.fresh s.cxl.qps n).unkey true) } }

/-- All work ends with DISABLED and the zeroisation of R446 begins: sessions first, in this tick, then jobs and requests. -/
def clearOut (s : State) (k : BitVec 3) : State :=
  let s := endAllPairs s
  let s := (List.range 8).foldl (fun s p => endJobNow s p .empty St.disabled .idle) s
  zeroise (endLoads (endAllReqs s St.disabled) St.disabled) k

/-- ZEROISE (R537): accepted, completed by ZEROISATION_COMPLETE. -/
def zeroiseCmd (s : State) (via : Via) : State :=
  if !(Via.isPf0 via || Via.isMgmt via) then denied s via 7 0
  else if !boxAccepts via 7 then answer s via 7 0 St.badFormat 0 []
  else
    match if s.parsley && s.sage.zeroising.isNone then none else idleStatus s with
    | some st => answer s via 7 0 (if s.parsley then St.busy else st) 0 []
    | none => (clearOut (accept s via) (if s.parsley then 1 else 2)).modSage fun g => { g with zeroVia := some (via, 7) }
def execZeroise (via : Via) (s : State) : Host.Outcome State Fault Refusal := .next (zeroiseCmd s via)

/-- POWER_OFF (R536): jobs are marked to stop at their next tile boundaries; ZEROISATION_COMPLETE does the rest. -/
def powerOff (s : State) (via : Via) : State :=
  if !(Via.isPf0 via || Via.isMgmt via) then denied s via 8 0
  else if !boxAccepts via 8 then answer s via 8 0 St.badFormat 0 []
  else
    match if s.parsley then (if s.sage.zeroVia.isSome then some St.busy else none) else idleStatus s with
    | some st => answer s via 8 0 st 0 []
    | none =>
      let s := (List.range 8).foldl (fun s p => markStop s p St.disabled) (accept s via)
      s.modSage fun g => { g with zeroising := some 5, zeroVia := some (via, 8) }
def execPowerOff (via : Via) (s : State) : Host.Outcome State Fault Refusal := .next (powerOff s via)

/-! ### Debug unlock -/

/-- DEBUG_CHALLENGE (R449). -/
def debugChallenge (s : State) (via : Via) : State :=
  permitted s via 0x0030 0 (Via.isMgmt via) fun s =>
    let (n, s) := drawBits s
    answerData (s.modSage fun g => { g with debugNonce := some (n, s.tick) }) via 0x0030 0 St.ok (leBytes 32 n.toNat)
def execDebugChallenge (via : Via) (s : State) : Host.Outcome State Fault Refusal := .next (debugChallenge s via)

/-- May the debug authority's signature open a scope (R449, R450)? -/
def unlockOk (s : State) (scope : BitVec 8) (sig : List Byte) : Bool :=
  match s.sage.debugNonce with
  | none => false
  | some (n, t) =>
    decide (s.tick < t + ticks60s) && (scope == 1 || (scope == 2 && s.sage.es)) &&
    Config.sha256 (Config.hssKey sig) == s.sage.debugKeyDigest && Config.hssVerify 2 (leBytes 8 s.sage.serial.toNat ++ leBytes 32 n.toNat ++ [scope]) sig

/-- DEBUG_UNLOCK: either way the nonce is spent; on success the module is zeroised and reads DEBUG. The TEST port opens when
the zeroisation completes. -/
def debugUnlock (s : State) (via : Via) (scope : BitVec 8) (sig : List Byte) : State :=
  permitted s via 0x0031 0 (Via.isMgmt via) fun s =>
    let ok := unlockOk s scope sig
    let s := s.modSage fun g => { g with debugNonce := none }
    if !ok then answer (s.modSage fun g => { g with deniedAuth := satAdd g.deniedAuth 1 }) via 0x0031 0 St.authFail 0 []
    else
      ((clearOut s 3).modSys fun y => { y with state := 4 }).modSage fun g =>
        { g with debug := scope.setWidth 2, zeroVia := some (via, 0x0031) }
def execDebugUnlock (via : Via) (scope : BitVec 8) (sig : List Byte) (s : State) : Host.Outcome State Fault Refusal :=
  .next (debugUnlock s via scope sig)

/-- DEBUG_NONCE_EXPIRY: 60 s after the challenge. -/
def debugNonceExpiry (s : State) : State :=
  match s.sage.debugNonce with
  | none => s
  | some (_, t) => (s.advance (32 * (t + ticks60s))).modSage fun g => { g with debugNonce := none }
def execDebugNonceExpiry (s : State) : Host.Outcome State Fault Refusal := .next (debugNonceExpiry s)

/-! ### Firmware, telemetry -/

/-- Verdict of R424 on an image. -/
def fwCheck (s : State) (image : List Byte) : Status :=
  if !Config.fwSigned image || Config.sha256 (Config.hssKey image) != s.sage.fwKeyDigest then St.authFail
  else if Config.fwSvn image < s.sage.blown.toNat ∨ 64 < Config.fwSvn image then St.badFormat
  else if Config.fwEsOnly image && !s.sage.es then St.badFormat
  else St.ok

/-- Pages of a staging area from page `first` on that hold n bytes (R528). -/
def stagedPages (s : State) (first n : Nat) : Option (List Nat) :=
  (List.range 8).findSome? fun p => stagedRun s p first ((n + 65535) / 65536)

/-- FW_UPDATE (R427, R528, R529). -/
def fwUpdate (s : State) (via : Via) (first len : Nat) : State :=
  if !(Via.isPf0 via || Via.isMgmt via) then denied s via 9 0
  else if !boxAccepts via 9 then answer s via 9 0 St.badFormat 0 []
  else
    match if s.parsley then none else idleStatus s with
    | some st => answer s via 9 0 st 0 []
    | none =>
      let refuse (st : Status) : State := answer (s.modSys fun y => { y with fwStatus := st }) via 9 0 st 0 []
      if s.sys.fwUpdate = 1 then answer s via 9 0 St.busy 0 []
      else if len = 0 ∨ 33554432 < len then refuse St.badFormat
      else
        match stagedPages s first len with
        | none => refuse St.badHandle
        | some gs => onPages s gs fun s =>
          let image := moduleBytes s gs len
          if fwCheck s image ≠ St.ok then refuse (fwCheck s image)
          else (accept s via).modSys fun y => { y with fwUpdate := 1, fwStatus := St.accepted, fwVia := some via }
def execFwUpdate (via : Via) (first len : Nat) (s : State) : Host.Outcome State Fault Refusal := .next (fwUpdate s via first len)

/-- TELEMETRY: its contents are not in the spec, a free value (log 10); it is answered in every state but recovery and off. -/
def telemetry (s : State) (via : Via) (page : Nat) : State :=
  if !(Via.isPf0 via || Via.isMgmt via) then denied s via 10 0
  else if !boxAccepts via 10 then answer s via 10 0 St.badFormat 0 []
  else if s.sys.state = 3 then answer s via 10 0 St.degraded 0 []
  else if s.sys.state = 5 then answer s via 10 0 St.disabled 0 []
  else if needsArea via && !isStaging s page then answer s via 10 0 St.badHandle 0 []
  else
    let (n, s) := draw s
    answerData s via 10 page St.ok ((Config.freeTelemetry n).take 4096)
def execTelemetry (via : Via) (reply : Nat) (s : State) : Host.Outcome State Fault Refusal := .next (telemetry s via reply)

end Sys2Proof.Machine
end

