-- ==== Sys2Proof/Machine/Bay.lean ====
section
/-! DEFINITION. The mailboxes (chapter 14): locks, doorbells, acknowledges, timeouts, wakes and register access. -/

namespace Sys2Proof.Machine

/-- Receiver's endpoint (Table 14-1). -/
def receiverOf (n : Nat) : Nat :=
  if n < 16 then 2 else if n < 24 then 1 else if n < 32 then 8 + (n - 24) else if n < 40 then 8 + (n - 32)
  else if n < 48 then 2 else if n < 56 then 3 else 2

/-- May the endpoint send in the mailbox (Table 14-1)? -/
def maySend (ep n : Nat) : Bool :=
  if n < 16 then ep == 1 else if n < 24 then ep == 2 else if n < 32 then ep == 1 else if n < 40 then ep == 2
  else if n < 48 then ep == 8 + (n - 40)
  else if n < 56 then ep == 2 || (decide (8 ≤ ep) && decide (ep < 16))
  else if n < 63 then ep == 16 + (n - 56)
  else ep == 3

/-- A non-secure access to a secure mailbox: its bit of BAY_VIOL is set (R457). -/
def bayViolation (s : State) (n : Nat) : State := { s with bayViol := s.bayViol ||| (1#32 <<< (n - 32)) }
/-- Is the access one of endpoint 1 to mailboxes 32 to 63? -/
def bayDenied (ep n : Nat) : Bool := ep == 1 && decide (32 ≤ n)

/-- Is the mailbox disabled (R470)? -/
def boxDisabled (s : State) (n : Nat) : Bool :=
  (s.parsley && decide (24 ≤ n) && decide (n < 48)) ||
  (decide (56 ≤ n) && decide (n < 63) && (s.port (n - 56)).state != 2) ||
  (s.pwr.perst && decide (16 ≤ n) && decide (n < 24)) ||
  (decide (s.sys.state.toNat = 0 ∨ s.sys.state.toNat = 3 ∨ s.sys.state.toNat = 5) && decide (24 ≤ n) && decide (n < 48))

/-! ### Locks (R459 to R462) -/

/-- A read of BAY_LOCKn; the value stands in `readData`. A lock pair that does not hold is a complement mismatch (R461). -/
def lockRead (s : State) (ep n : Nat) : State :=
  if bayDenied ep n then { bayViolation s n with readData := 0 }
  else
    let m := s.mbox n
    let o := m.owner.v.toNat
    if !m.owner.ok then mismatch s 7 n
    else if !maySend ep n then { s with readData := BitVec.ofNat 64 (if o = 0 then 31 else o) }
    else if o = 0 then { s.modMbox n fun m => { m with owner := Paired.of (BitVec.ofNat 5 ep), broken := false } with readData := 0 }
    else { s with readData := if o = ep then 0 else m.owner.v.setWidth 64 }

/-- The endpoint that wins the lock when reads reach it in one cycle: the lowest of those that may send (R460). -/
def lockWinner (n : Nat) (eps : List Nat) : Option Nat := (eps.filter fun e => maySend e n).min?

/-- Reads that reach one lock in the same cycle, of which `ep` sees its answer; the winner's read comes first, and a non-secure
one at a secure mailbox is logged (R457, R460). -/
def lockReads (s : State) (ep : Nat) (others : List Nat) (n : Nat) : State :=
  let s := if others.any fun e => bayDenied e n then bayViolation s n else s
  let s := match lockWinner n (ep :: others) with
    | some w => if w = ep ∨ !(s.mbox n).owner.ok then s else lockRead s w n
    | none => s
  lockRead s ep n
def execBayLockRead (r : LockRead) (n : MboxN) (s : State) : Host.Outcome State Fault Refusal :=
  .next (lockReads s r.ep.toNat (r.others.map BitVec.toNat) n)

/-- Does the endpoint own the lock? -/
def owns (s : State) (ep n : Nat) : Bool := ep != 0 && (s.mbox n).owner.v.toNat == ep

/-- BAY_RELEASEn.RELEASE: by any other endpoint it is ignored. -/
def bayRelease (s : State) (ep n : Nat) : State :=
  if bayDenied ep n then bayViolation s n
  else if !(s.mbox n).owner.ok then mismatch s 7 n
  else if !owns s ep n then s
  else
    let s := s.modMbox n Mbox.released
    if 16 ≤ n ∧ n < 24 then nextMessage s else s
def execBayRelease (ep : BitVec 5) (n : MboxN) (s : State) : Host.Outcome State Fault Refusal := .next (bayRelease s ep.toNat n)

/-! ### Doorbells (R463, R465, R468, R470) -/

/-- Operator command codes that Rosemary and the Dill schedulers accept from PF0 (Table 14-3). -/
def boxCodes (n : Nat) : List Nat :=
  if n < 16 then [1, 2, 3, 4, 5, 6, 7, 8, 9, 10, 11, 12, 16, 17, 18] else [0x20, 0x21]

/-- What the receiver of an operator mailbox answers at once to a code that it does not take: DENIED_PORT for the debug codes,
else BAD_FORMAT (R465). -/
def badCode (s : State) (n : Nat) : State :=
  let code := ((s.mbox n).payload |> fun m => (sget 0 m 0)).toNat % 65536
  if !(n < 16 ∨ (24 ≤ n ∧ n < 32)) ∨ (boxCodes n).contains code then s
  else if code = 0x30 ∨ code = 0x31 then
    (s.modSage fun g => { g with deniedPort := satAdd g.deniedPort 1 }).modMbox n fun m => m.ack St.deniedPort 0
  else s.modMbox n fun m => m.ack St.badFormat 0

/-- Domain PD1 powered on a wake. -/
def wakesPd1 (s : State) (n : Nat) : Bool := decide (24 ≤ n) && decide (n < 40) && !s.pwr.on.getLsbD 1

/-- BAY_DOORBELLn.RING, as sampled. -/
def doorbell (s : State) (ep n : Nat) : State :=
  if bayDenied ep n then bayViolation s n
  else if !(s.mbox n).owner.ok then mismatch s 7 n
  else if !owns s ep n ∨ (s.mbox n).pending ∨ discarded s .module then s
  else
    let s := s.modMbox n fun m =>
      { m with pending := true, done := false, timeout := false, late := false, due := m.dueAt s.gov.now }
    if boxDisabled s n then disableBox s n
    else
      let s := if receiverOf n = 1 then s.modCxl fun x => { x with msix0 := x.msix0 + 1 } else s
      if wakesPd1 s n then (s.modMbox n fun m => { m with waking := true }).modPwr fun w => { w with wake := true } else badCode s n
def execBayDoorbell (ep : BitVec 5) (n : MboxN) (s : State) : Host.Outcome State Fault Refusal := .next (doorbell s ep.toNat n)

/-- BAY_WAKE_COMPLETE: PD1 is powered; WAKING clears and the notification is delivered (R468), unless the lock was broken or
released meanwhile (Table 14-6). -/
def wakeComplete (s : State) (n : Nat) : State :=
  let s := if s.pwr.wake then s.modPwr fun w => { w with on := w.on ||| 2, pd1 := true, wake := false } else s
  if !(s.mbox n).waking then s
  else
    let s := s.modMbox n fun m => { m with waking := false }
    if (s.mbox n).pending then badCode s n else s
def execBayWakeComplete (n : MboxN) (s : State) : Host.Outcome State Fault Refusal := .next (wakeComplete s n)

/-! ### Acknowledge, timeout, lock break -/

/-- A write of BAY_ACKn by the receiver; by any other endpoint it is ignored (R464, R467). -/
def bayAck (s : State) (ep n : Nat) (st : Status) (v : BitVec 24) : State :=
  if bayDenied ep n then bayViolation s n
  else if ep = receiverOf n ∧ !discarded s .module then s.modMbox n fun m => m.ack st v else s
def execBayAck (ep : BitVec 5) (n : MboxN) (status : Status) (value : BitVec 24) (s : State) : Host.Outcome State Fault Refusal :=
  .next (bayAck s ep.toNat n status value)

/-- BAY_TIMEOUT_EXPIRY: TIMEOUT us microseconds after the doorbell with DONE still 0 (R466; log 61). -/
def bayTimeout (s : State) (n : Nat) : State :=
  let m := s.mbox n
  if !m.pending then s
  else
    (s.advance m.due).modMbox n fun m =>
      { m with timeout := true, status := St.timeout, pending := false }
def execBayTimeoutExpiry (n : MboxN) (s : State) : Host.Outcome State Fault Refusal := .next (bayTimeout s n)

/-- Is the owner's reset confirmed (Table 14-5)? -/
def ownerReset (s : State) (o : Nat) : Bool :=
  (o == 1 && s.pwr.perst) || (decide (16 ≤ o) && decide (o ≤ 22) && (s.port (o - 16)).state != 2)

/-- BAY_LOCK_BREAK by Sage in the tick after it confirms that the owner is in reset (R469). -/
def lockBreak (s : State) (n : Nat) : State := if ownerReset s (s.mbox n).owner.v.toNat then breakLock s n else s
def execBayLockBreak (n : MboxN) (s : State) : Host.Outcome State Fault Refusal := .next (lockBreak s n)

/-! ### Register accesses of an endpoint (Table 14-7, R457, R458) -/

/-- Status word of a mailbox. -/
def Mbox.statusWord (m : Mbox) : Nat :=
  (if m.pending then 1 else 0) + (if m.done then 2 else 0) + (if m.timeout then 4 else 0) + (if m.late then 8 else 0) +
  (if m.waking then 16 else 0) + (if m.broken then 32 else 0)

/-- A read of the register at byte offset `off` of mailbox n by an endpoint: new state and value. -/
def bayRead (s : State) (ep n off : Nat) : State × W32 :=
  if bayDenied ep n then (bayViolation s n, 0)
  else
    let m := s.mbox n
    if off < 0x40 then
      (s, if m.owner.v.toNat = ep ∨ receiverOf n = ep then sget 0 m.payload (off / 4) else 0)
    else if off / 4 = 16 then
      let s := lockRead s ep n
      (s, s.readData.setWidth 32)
    else
      (s, match off / 4 with
        | 19 => BitVec.ofNat 32 (m.status.toNat + m.value.toNat * 256)
        | 20 => BitVec.ofNat 32 m.statusWord
        | 21 => m.us.setWidth 32
        | 22 => BitVec.ofNat 32 (receiverOf n)
        | _ => 0)

/-- Limits of BAY_TIMEOUTn. -/
def clampUs (v : Nat) : BitVec 20 := BitVec.ofNat 20 (max 1 (min v 1000000))

/-- A write of the register at byte offset `off` of mailbox n by an endpoint. -/
def bayWrite (s : State) (ep n off : Nat) (v : W32) : State :=
  if bayDenied ep n then bayViolation s n
  else
    if off < 0x40 then
      if owns s ep n then s.modMbox n fun m => { m with payload := sput 0 m.payload (off / 4) v } else s
    else
      match off / 4 with
      | 17 => if v.getLsbD 0 then bayRelease s ep n else s
      | 18 => if v.getLsbD 0 then doorbell s ep n else s
      | 19 => bayAck s ep n (v.setWidth 8) (v.extractLsb' 8 24)
      | 21 => if owns s ep n then s.modMbox n fun m => { m with us := clampUs (v.toNat % 2 ^ 20) } else s
      | _ => s

end Sys2Proof.Machine
end

