-- ==== Sys2Proof/Machine/Queues.lean ====
section
/-! DEFINITION. Tenant queue pairs (R481 to R491), the memory window (R479), function resets and the CXL link (R437, R473, R523). -/

namespace Sys2Proof.Machine

/-! ### Entries and records (R433, R434, R482, R483) -/

/-- Counter limit of R434. -/
def counterEnd : Nat := 2 ^ 48

/-- A tag that fails, or a counter at its limit: counted; the sixteenth consecutive failure disables the pair (R434). -/
def tagFailure (s : State) (vf q : Nat) : State :=
  let s := (s.modSage fun g => { g with deniedAuth := satAdd g.deniedAuth 1 }).modQp vf q fun p => { p with tagFails := p.tagFails + 1 }
  if (s.qp vf q).tagFails < 16 ∨ (s.qp vf q).disabled then s
  else
    let s := s.modQp vf q fun p => { p with disabled := true, status := St.authFail }
    let s := recordNow s (disabledFault vf q St.authFail)
    endVfWork s vf fun k => k == q

/-- The records of a request, read and opened one after the other; none where a tag fails (R434). -/
def openRecords (vf q : Nat) (ctx : Nat) : Nat → List (List Byte) → State → Option (List Byte) × State
  | _, [], s => (some [], s)
  | left, r :: rest, s =>
    let p := s.qp vf q
    let n := min left 4096
    match if counterEnd ≤ p.recIn.toNat then none
          else Config.gcmOpen p.keyC2s (queueIv (vf * 32 + q) 0 1 p.gen.toNat p.recIn) (recordAad n ctx) (r.take n) ((r.drop n).take 16) with
    | none => (none, tagFailure s vf q)
    | some bs =>
      let s := s.modQp vf q fun p => { p with recIn := p.recIn + 1, tagFails := 0 }
      match openRecords vf q ctx (left - n) rest s with
      | (none, s) => (none, s)
      | (some more, s) => (some (bs ++ more), s)

/-- Words of a byte list. -/
def wordsOf (bs : List Byte) : List W32 := (List.range (bs.length / 4)).map fun i => BitVec.ofNat 32 (fieldAt bs (4 * i) 4)

/-- TRAIN arguments (Table 12-1) at payload byte 8. -/
def trainArgs (b : List Byte) : TrainF :=
  { context := BitVec.ofNat 16 (fieldAt b 8 2), teacher := BitVec.ofNat 16 (fieldAt b 10 2), steps := BitVec.ofNat 32 (fieldAt b 12 4),
    globalMb := BitVec.ofNat 16 (fieldAt b 16 2), ckptPeriod := BitVec.ofNat 16 (fieldAt b 18 2),
    snapPeriod := BitVec.ofNat 16 (fieldAt b 20 2), resume := fieldAt b 22 1 % 2 == 1, jobTag := BitVec.ofNat 32 (fieldAt b 24 4) }

/-- A context command: its arguments come from a payload whose layout the spec does not give (log 64). -/
def ctxCommand (s : State) (via : Via) (cmd : Nat) (c : BitVec 16) (b : List Byte) : State :=
  let a (k : Nat) := Config.ctxArg k b
  match cmd with
  | 0x120 =>
    if h : a 0 < 8 then
      ctxCreate s via ⟨a 0, h⟩ (BitVec.ofNat 2 (a 1)) (BitVec.ofNat 8 (a 2)) (BitVec.ofNat 7 (a 3))
        (if a 4 = 0 then none else some (BitVec.ofNat 64 (a 5))) (if a 6 = 0 then none else some (BitVec.ofNat 32 (a 7)))
    else answer s via 0x0120 c St.badHandle 0 []
  | 0x121 => ctxBind s via c (BitVec.ofNat 7 (a 0)) (BitVec.ofNat 32 (a 1))
  | 0x122 => ctxAdopt s via c (a 0 % 2 == 1) (BitVec.ofNat 32 (a 1))
  | 0x123 => ctxReleaseSnap s via c (BitVec.ofNat 32 (a 0))
  | 0x124 => ctxCompose s via (BitVec.ofNat 16 (a 0)) (BitVec.ofNat 16 (a 1))
  | 0x125 => ctxSeed s via c (BitVec.ofNat 64 (a 0)) (BitVec.ofNat 32 (a 1))
  | 0x126 => ctxSetkey s via c (BitVec.ofNat 256 (a 0))
  | 0x127 =>
    let (n, s) := draw s
    ctxImport s via c (Config.hostRead n (BitVec.ofNat 64 (fieldAt b 16 8)) (fieldAt b 24 8))
  | 0x128 => ctxExport s via c (a 0 % 2 == 1) (BitVec.ofNat 64 (fieldAt b 16 8)) (BitVec.ofNat 64 (fieldAt b 24 8))
  | 0x129 => ctxQuery s via c
  | 0x12A => ctxRebase s via c
  | _ => ctxDelete s via c

/-- A request whose tag holds, with its record bytes: the command of Table 15-4. -/
def runRequest (s : State) (via : Via) (cmd : Nat) (c : BitVec 16) (b recs : List Byte) : State :=
  match cmd with
  | 0x101 => generate s via c recs.length (BitVec.ofNat 32 (fieldAt b 8 4)) (BitVec.ofNat 32 (fieldAt b 12 4)) ((b.drop 16).take 80) (wordsOf recs)
  | 0x102 => cancel s via (BitVec.ofNat 32 (fieldAt b 8 4))
  | 0x110 => train s via (trainArgs b)
  | 0x111 => trainData s via c (BitVec.ofNat 32 (fieldAt b 8 4)) (BitVec.ofNat 16 (fieldAt b 12 2)) (wordsOf recs)
  | _ => ctxCommand s via cmd c b

/-- Codes of Table 15-4. -/
def tenantCode (cmd : Nat) : Bool :=
  cmd == 0x101 || cmd == 0x102 || cmd == 0x110 || cmd == 0x111 || (decide (0x120 ≤ cmd) && decide (cmd ≤ 0x12B))

/-- A translation that fails disables the pair, and its work ends (R342, R481). -/
def pairUntranslated (s : State) (vf q : Nat) : State := endVfWork (modPair s vf q Qp.untranslated) vf fun k => k == q

/-- First and last bytes of the H2D slots of a request: `n` from `slot` on, wrapping (R483). -/
def Qp.h2dSlots (q : Qp) (slot n : Nat) : List (BitVec 64) :=
  (List.range n).flatMap fun i => slotEnds q.h2dBase ((slot + i) % ((q.sizes.extractLsb' 8 10).toNat + 1))

/-- A request's plaintext payload: RECORDS against TOTAL, the code, the records from slot SLOT on, then the command (R483). -/
def takeRequest (s : State) (vf : VfN) (q : QpN) (htag : W32) (records slot : Nat) (recs : List (List Byte)) (b : List Byte) : State :=
  let via := Via.queue vf q htag
  let cmd := fieldAt b 0 2
  let c := BitVec.ofNat 16 (fieldAt b 2 2)
  let total := fieldAt b 4 4
  let code := BitVec.ofNat 16 cmd
  if records ≠ (total + 4095) / 4096 then answer s via code c St.badFormat 0 []
  else if !tenantCode cmd then answer s via code c St.badFormat 0 []
  else if ((s.qp vf q).h2dSlots slot records).any (s.atsFails vf) then answer (pairUntranslated s vf q) via code c St.disabled 0 []
  else
    match openRecords vf q c.toNat total ((List.range records).map fun i => recs.getD i []) s with
    | (none, s) => answer s via code c St.authFail 0 []
    | (some bytes, s) => runRequest s via cmd c b bytes

/-- One entry of the submission ring (R486, R489, R490): checked, the SQ head moves past it, then it is processed. -/
def takeEntry (s : State) (vf : VfN) (q : QpN) (e : SqEntry) : State :=
  let p := s.qp vf q
  if !p.on then s
  else if s.atsFails vf (p.sqBase + 128 * p.sqHead.setWidth 64) then pairUntranslated s vf q
  else
    let htag := BitVec.ofNat 32 (fieldAt e.hdr 4 4)
    let s := touchAts s vf (p.sqBase + 128 * p.sqHead.setWidth 64)
    let next := BitVec.ofNat 12 ((p.sqHead.toNat + 1) % p.sqSize)
    let s := s.modQp vf q fun p => { p with sqHead := next }
    if !p.keyed then answer s (.queue vf q htag) 0 0xFFFF St.authFail 0 []
    else
      match if counterEnd ≤ p.cntIn.toNat then none
            else Config.gcmOpen p.keyC2s (queueIv (vf.val * 32 + q.val) 0 0 p.gen.toNat p.cntIn) e.hdr e.cipher e.tag with
      | none => tagFailure (answer s (.queue vf q htag) 0 0xFFFF St.authFail 0 []) vf q
      | some b =>
        let s := s.modQp vf q fun p => { p with cntIn := p.cntIn + 1, tagFails := 0 }
        takeRequest s vf q htag (fieldAt e.hdr 3 1) (fieldAt e.hdr 8 2) e.recs b

/-- SQ_DOORBELL: every entry from the SQ head up to the tail, in ring order; a tail at or above the size sets DB_ERR; a doorbell
discarded with its VF's reset does nothing (R486, R491). -/
def sqDoorbell (s : State) (vf : VfN) (q : QpN) (tail : BitVec 12) (es : List SqEntry) : State :=
  let p := s.qp vf q
  if discarded s (.vf vf.val) then s
  else if p.sqSize ≤ tail.toNat then s.modQp vf q fun p => { p with dbErr := true }
  else
    let n := (tail.toNat + p.sqSize - p.sqHead.toNat) % p.sqSize
    (es.take n).foldl (fun s e => takeEntry s vf q e) (s.modQp vf q fun p => { p with sqTail := tail })
def execSqDoorbell (vf : VfN) (qp : QpN) (tail : BitVec 12) (entries : List SqEntry) (s : State) : Host.Outcome State Fault Refusal :=
  .next (sqDoorbell s vf qp tail entries)

/-! ### Rings and interrupts (R487, R488) -/

/-- Waiting completions written while their slots are free, up to a translation that fails (R481). -/
def Qp.drain (qn now : Nat) (fails : BitVec 64 → Bool) : Nat → Qp → Qp
  | 0, q => q
  | fuel + 1, q =>
    match q.waiting with
    | [] => q
    | c :: rest =>
      if !q.room c then q
      else if (q.slotsOf c).any fails then q.untranslated
      else Qp.drain qn now fails fuel ({ q with waiting := rest }.write qn now c)
/-- All that can be written. -/
def Qp.flush (q : Qp) (qn now : Nat) (fails : BitVec 64 → Bool) : Qp := q.drain qn now fails q.waiting.length

/-- A write of CXL_QP_CQ_HEAD: entries up to HEAD are free. -/
def cqHeadWrite (s : State) (vf q : Nat) (head : BitVec 12) : State :=
  modPair s vf q fun p =>
    let h := head.toNat % p.cqSize
    { p with cqHead := head, cqUsed := (p.cqTail.toNat + p.cqSize - h) % p.cqSize }.flush (vf * 32 + q) s.gov.now (s.atsFails vf)
def execCqHeadWrite (vf : VfN) (qp : QpN) (head : BitVec 12) (s : State) : Host.Outcome State Fault Refusal :=
  .next (cqHeadWrite s vf qp head)

/-- A write of CXL_QP_D2H_HEAD: record slots up to HEAD are free. -/
def d2hHeadWrite (s : State) (vf q : Nat) (head : BitVec 10) : State :=
  modPair s vf q fun p =>
    let h := head.toNat % p.d2hSlots
    { p with d2hHead := head, d2hUsed := (p.d2hTail.toNat + p.d2hSlots - h) % p.d2hSlots }.flush (vf * 32 + q) s.gov.now (s.atsFails vf)
def execD2hHeadWrite (vf : VfN) (qp : QpN) (head : BitVec 10) (s : State) : Host.Outcome State Fault Refusal :=
  .next (d2hHeadWrite s vf qp head)

/-- INTERRUPT_DELAY_EXPIRY: IRQ_US after the first pending completion; IRQ_COUNT 0 disables the interrupt. -/
def irqExpiry (s : State) (vf q : Nat) : State :=
  let p := s.qp vf q
  if p.irqPending = 0 ∨ p.irqCount = 0 then s
  else
    (s.advance (p.irqSince + 1000 * (p.ctrl.extractLsb' 9 16).toNat)).modQp vf q fun p => { p with irqPending := 0, msix := p.msix + 1 }
def execInterruptDelayExpiry (vf : VfN) (qp : QpN) (s : State) : Host.Outcome State Fault Refusal := .next (irqExpiry s vf qp)

/-- A write of CXL_QP_CTRL: clearing ENABLE ends the work of the pair (R342, R491); setting it enables a pair that tag failures
have not disabled (log 65). -/
def queueEnable (s : State) (vf q : Nat) (v : W32) : State :=
  let p := s.qp vf q
  let s := s.modQp vf q fun p => { p with ctrl := v &&& 0x01FFFFFF }
  if p.ctrl.getLsbD 0 && !v.getLsbD 0 then
    endVfWork (s.modQp vf q fun p => { p with status := if p.disabled then p.status else St.disabled }) vf fun k => k == q
  else if !p.ctrl.getLsbD 0 && v.getLsbD 0 then
    s.modQp vf q fun p => { p with disabled := p.disabled && p.status == St.authFail }
  else s
def execQueuePairEnable (vf : VfN) (qp : QpN) (v : W32) (s : State) : Host.Outcome State Fault Refusal := .next (queueEnable s vf qp v)

/-- ATS_INVALIDATION: the translation of the page is given up; where the host no longer maps the page, the next translation of
it fails (R481). -/
def atsInvalidate (s : State) (vf : Nat) (i : AtsInv) : State :=
  let e := (vf, i.iova >>> 12)
  s.modCxl fun x => { x with ats := x.ats.filter fun y => y != e
                             unmapped := (x.unmapped.filter fun y => y != e) ++ (if i.mapped then [] else [e]) }
def execAtsInvalidation (vf : VfN) (inv : AtsInv) (s : State) : Host.Outcome State Fault Refusal := .next (atsInvalidate s vf inv)

/-! ### The memory window (R478, R479) -/

/-- Area and page behind a frame. -/
def frameOf (s : State) (f : Nat) : Option (Area × Nat) :=
  (validAreas s).findSome? fun e =>
    if e.2.first.toNat ≤ f ∧ f < e.2.first.toNat + e.2.len then (e.2.pages[f - e.2.first.toNat]?).map fun g => (e.2, g) else none

/-- A window error: the first one is kept until VALID is cleared. -/
def windowError (s : State) (f : BitVec 20) (write : Bool) : State :=
  s.modCxl fun x => if x.errValid then x else { x with errFrame := f, errWrite := write, errValid := true }

/-- CXL.mem read of 8 bytes at a frame offset; outside an area zeros with the poison indication. -/
def windowRead (s : State) (f : BitVec 20) (off : Nat) : State :=
  match frameOf s f.toNat with
  | none => windowError { s with readData := 0, readPoison := true } f false
  | some (_, g) => onPages s [g] fun s => { s with readPoison := false, readData := BitVec.ofNat 64 (ofLeBytes (bread s.stack (g * 65536 + off) (min 8 (65536 - off)))) }
def execWindowRead (frame : BitVec 20) (off : BitVec 16) (s : State) : Host.Outcome State Fault Refusal :=
  .next (windowRead s frame off.toNat)

/-- CXL.mem write within a frame; discarded outside an area and in an export area. -/
def windowWrite (s : State) (f : BitVec 20) (off : Nat) (data : List Byte) : State :=
  match frameOf s f.toNat with
  | some (a, g) =>
    if a.exportA then windowError s f true
    else onPages s [g] fun s => { s with stack := bwrite s.stack (g * 65536 + off) (data.take (65536 - off)) }
  | none => windowError s f true
def execWindowWrite (frame : BitVec 20) (off : BitVec 16) (data : List Byte) (s : State) : Host.Outcome State Fault Refusal :=
  .next (windowWrite s frame off.toNat data)

/-! ### Link and function resets -/

/-- CXL_LINK_DOWN: class 4, unit 1,479; every session ends (Table 15-5, R437). -/
def linkDown (s : State) : State :=
  if !s.cxl.up then s
  else
    let s := recordNow s { kind := 0x11, cls := 4, status := St.disabled, scope := .host, source := 1479, detail := 0, detail2 := 0,
                           parsley := false, reset := false }
    let open_ := (s.sage.sessions.filter fun e => e.2.up || !e.2.kex.isEmpty).map (·.1)
    let s := open_.foldl (fun s ix => closeSession s ix false) s
    s.modCxl fun x => { x with up := false, width := 0, rate := 0, flit := false, ide := false, ats := [] }
def execCxlLinkDown (s : State) : Host.Outcome State Fault Refusal := .next (unlessDiscarded s .host linkDown)

/-- CXL_LINK_TRAINED: the link comes up again as negotiated, in 256-byte flit mode (R473). -/
def linkTrained (s : State) (c : LinkCfg) : State :=
  if !s.pwr.on.getLsbD 22 ∨ s.pwr.perst then s
  else s.modCxl fun x => { x with up := true, width := c.width, rate := c.rate, flit := true, vfs := c.vfs }
def execCxlLinkTrained (cfg : LinkCfg) (s : State) : Host.Outcome State Fault Refusal := .next (linkTrained s cfg)

/-- PF0_FLR: PF0's registers of the CXL function and its vectors; Sage breaks PF0's Bay locks (Table 17-2). -/
def pf0Flr (s : State) : State :=
  let s := (breakLocksOf s 1).modCxl fun x => 
    { x with msix0 := 0, msix1 := 0, msixTab := x.msixTab.filter fun e => 128 ≤ e.1, errFrame := 0, errWrite := false, errValid := false }
  discardIn s .host
def execPf0Flr (s : State) : Host.Outcome State Fault Refusal := .next (pf0Flr s)

/-- VF_FLR: the session ends and the queue pairs reset (R437, R493). -/
def vfFlr (s : State) (vf : Nat) : State := discardIn (resetVf s vf) (.vf vf)
def execVfFlr (vf : VfN) (s : State) : Host.Outcome State Fault Refusal :=
  .next (unlessDiscarded s (.vf vf) fun s => vfFlr s vf)

/-- HOST_SNOOP: answered, and it always misses: no host line is held (R199, R473). -/
def execHostSnoop (_addr : BitVec 64) (s : State) : Host.Outcome State Fault Refusal := .next { s with readData := 0 }

/-- IDE_KM on PF0's DOE instance keys the IDE streams, or ends them (R473, R474). -/
def execIdeKm (enable : Bool) (s : State) : Host.Outcome State Fault Refusal :=
  .next (if s.cxl.up then s.modCxl fun x => { x with ide := enable } else s)

/-- CONFIGURATION_REQUEST: served from READY on, with Request Retry Status before it (R526); `readData` holds 1 for a retry. -/
def execConfigurationRequest (_fn : Option VfN) (s : State) : Host.Outcome State Fault Refusal :=
  .next { s with readData := if s.sys.state = 0 then 1 else 0 }

end Sys2Proof.Machine
end

