-- ==== Sys2Proof/Machine/Fennel.lean ====
section
/-! DEFINITION. Fennel ports (chapter 16): delivery and replay of packets, bindings, LINK messages, keys, modes, alignment, throttle
levels, training and port-down. -/

namespace Sys2Proof.Machine

/-! ### Small helpers -/

/-- Link key of a direction from a shared secret (R507). -/
def linkKey (secret : BitVec 256) (dir : Nat) : BitVec 256 :=
  hkdfBits 256 (leBytes 32 secret.toNat) (ascii [0x6E, 0x6C, 0x6B, 0x20, 0x6C, 0x69, 0x6E, 0x6B] ++ leBytes 1 dir)
/-- Is this module the lower-slot end of a port? -/
def lowerEnd (s : State) (n : Nat) : Bool := txDir s n == 0
/-- Configured mode of a port: 1 plain, 2 protected. -/
def configured (s : State) (n : Nat) : BitVec 2 := s.fnlMode.v.extractLsb' (2 * n) 2
/-- Domain of a port: PD20 for ports 0 to 3, PD21 for 4 to 6 (R494). -/
def portPowered (s : State) (n : Nat) : Bool := s.pwr.on.getLsbD (if n < 4 then 20 else 21)

/-- Launched XSENDs that `f` names move nothing more: they end with DISABLED (R213, R499, R514). -/
def killXsends (s : State) (f : Nat → XsendF → Bool) : State :=
  let dead (c : Nat) (e : QEntry) : QEntry := match e.op with
    | .xsend x => if f c x then { e with launched := e.launched.map fun l => { l with dead := true } } else e
    | _ => e
  { s with cores := s.cores.map fun (e : Nat × Core) =>
      (e.1, { e.2 with queues := e.2.queues.map fun (q : Nat × List QEntry) => (q.1, q.2.map (dead e.1)) }) }

/-- XSENDs of kinds 1 and 2 on a port: a PIPE transfer takes the port of its partition's pairing. -/
def onPort (s : State) (n : Nat) (c : Nat) (f : XsendF) : Bool :=
  (f.kind == 1 && f.port.toNat == n) ||
  (f.kind == 2 && (match partOfCore s c with
    | none => false
    | some p => (s.part p).pipeOn.getLsbD 6 && ((s.part p).pipeOn.extractLsb' 3 3).toNat == n))

/-- Source and destination of a Chive transfer in flight. -/
def chiveViews (n : Env) : Option (View × View) :=
  match n.e.op with
  | .copy f | .gather f | .scatter f => some (n.view f.src, n.view f.dst)
  | .prefetch f => some (ringViews n f 0)
  | .ringFetch f j => some (ringViews n f j)
  | _ => none

/-- Chive transfers to or from the peer of port n end (R213). -/
def cutPeer (s : State) (n : Nat) : State :=
  (s.cores.map (·.1)).foldl (fun s c =>
    ((s.core c).queue 3 ++ (s.core c).queue 5).foldl (fun s e =>
      match e.launched, partOfCore s c with
      | some l, some p =>
        if l.dead then s
        else
          match chiveViews ⟨s, c, s.core c, p, 0, e, l.at_⟩ with
          | none => s
          | some (src, dst) =>
            if (src.d.tier = 4 ∧ src.d.port = n) ∨ (dst.d.tier = 4 ∧ dst.d.port = n) then
              (cutTransfer s c e.op l).modCore c fun k => k.modEntry (opQueue e.op) e.serial fun x => { x with launched := some { l with dead := true } }
            else s
      | _, _ => s) s) s

/-! ### Port down (R513, R514, R273) -/

/-- A port that is down: keys zeroised, transfers and agreements given up; its counters, shares and history stay. -/
def Port.downed (p : Port) (kind : BitVec 3) (cause : Status) : Port :=
  { p with state := 0, live := 0, toMaster := false, pending := false, blocked := false, cause := cause, downKind := kind,
           keyTx := 0, keyRx := 0, newTx := none, newRx := none, oldRx := 0, kemDk := none, ctrTx := 0, ctrRx := 0,
           switchTick := none, oldUntil := none, unacked := [], proposal := none, peerProp := none, modeDue := none, binds := [],
           identOk := false, nak := [], held := [], begun := [], waiting := [], shareUsed := [] }

/-- Ranks of a partition's data-parallel job that a port reaches. -/
def ranksOn (q : Part) (n : Nat) : BitVec 8 :=
  (List.range (dpRanks q)).foldl (fun m r => if isDp q && r != dpRank q && dpPort q r == n then m ||| (1#8 <<< r) else m) 0

/-- Work of a partition that a port's failure ends: the peer's ranks leave the live mask, a REMOTE checkpoint through the port
is abandoned, a pairing through it ends (R398, R409, R514). -/
def portLostFor (n : Nat) (s : State) (p : Nat) : State :=
  let q := s.part p
  if q.st = 0 then s
  else
    let s := if isDp q && (ranksOn q n).getLsbD q.dp.leader.toNat then voidStep s p else s
    let s := s.modPart p fun x => { x with dp := if ranksOn q n = 0 then x.dp else x.dp.without (ranksOn q n) }
    let s := if buddyRemote s p ∧ buddyPort s p = n then abandonCkpt s p St.disabled else s
    if q.pipeOn.getLsbD 7 ∧ q.pipeOn.getLsbD 6 ∧ (q.pipeOn.extractLsb' 3 3).toNat = n then
      s.modPart p fun x => { x with pipeOn := x.pipeOn &&& 0x7F, pipe := Paired.of (x.pipe.v &&& 0x7F) }
    else s

/-- Port-down event, sampled (R514). -/
def portDown (s : State) (n kind : Nat) : State :=
  let p := s.port n
  if p.state = 0 then s
  else
    let cause := if kind = 3 ∨ kind = 4 then St.authFail else St.disabled
    let s := servePort s n
    let s := recordNow s { kind := 0x10, cls := 4, status := cause, scope := .port, source := 1472 + n, detail := n, detail2 := kind,
                           parsley := false, reset := false }
    let s := raiseAlert s 5
    let lostMaster := p.toMaster
    let s := killXsends s fun c f => onPort s n c f || (lostMaster && f.kind == 1)
    let s := cutPeer s n
    let s := p.begun.foldl (fun s (l : Nat × Nat) => invalidateSlot s l.1 l.2) s
    let s := s.modPort n fun p => p.downed (BitVec.ofNat 3 kind) cause
    let s := if lostMaster then s.modGov fun g => { g with aligned := false } else s
    let s := (List.range 8).foldl (portLostFor n) s
    let s := disableBox s (56 + n)
    if (s.mbox (56 + n)).owner.v.toNat = 16 + n then breakLock s (56 + n) else s
def execFennelPortDown (port : PortN) (kind : BitVec 3) (s : State) : Host.Outcome State Fault Refusal :=
  .next (unlessDiscarded s (.port port) fun s => portDown s port kind.toNat)

/-! ### Authentication, keys (R447, R448, R507, R508) -/

/-- IDENT: strap, settled flag and master, serial, chain and a signature that draws no token (R448, R506). -/
def sendIdent (s : State) (n : Nat) : State :=
  let args := [s.gov.slot.toNat, match s.gov.settled with | none => 8 | some m => m.toNat, s.sage.serial.toNat]
  match signNext s (leBytes 1 s.gov.slot.toNat ++ leBytes 8 s.sage.serial.toNat) with
  | none => s
  | some (sig, s) => sendLink s n 0 args (Config.certChain s.sage.serial ++ sig)

/-- Training begins (R511). -/
def beginTraining (s : State) (n : Nat) : State :=
  sendIdent (s.modPort n fun p => { p with state := 1, live := 0, seqTx := 0, seqRx := 0 }) n

/-- A key exchange begins: KEM_KEY from the lower-slot end (R507). -/
def startRekey (s : State) (n : Nat) : State :=
  if !lowerEnd s n then s
  else
    let (bits, s) := drawBits s
    let (ek, dk) := Config.kemKeygen bits
    sendLink (s.modPort n fun p => { p with kemDk := some dk }) n 1 [0] ek

/-- Is another port up or training to the same peer, or is the peer's strap this module's own (R496, R581)? -/
def duplicatePeer (s : State) (n : Nat) (slot : BitVec 3) (serial : BitVec 64) : Bool :=
  slot == s.gov.slot || (List.range n).any fun m => (s.port m).state != 0 && (s.port m).identOk && (s.port m).serial == serial

/-- Higher-numbered ports that reach the same peer go down (R496). -/
def dropHigher (s : State) (n : Nat) (serial : BitVec 64) : State :=
  (List.range 7).foldl (fun s m =>
    if n < m ∧ (s.port m).state ≠ 0 ∧ (s.port m).identOk ∧ (s.port m).serial = serial then portDown s m 5 else s) s

/-- IDENT from the peer: the signature under its chain, and a chain of the module's own grade (R447). -/
def identIn (s : State) (n : Nat) (slot : BitVec 3) (serial : BitVec 64) (settled : Option (BitVec 3)) (eng : Bool)
    (chain sig : List Byte) : State :=
  if (s.port n).state = 2 then s.modPort n fun p => { p with peerMaster := settled }
  else if (s.port n).state ≠ 1 then s
  else if !Config.hssVerify (if eng then 4 else 3) (leBytes 1 slot.toNat ++ leBytes 8 serial.toNat ++ chain) sig || eng != s.sage.es then
    portDown s n 4
  else if duplicatePeer s n slot serial then portDown s n 5
  else
    let s := s.modPort n fun p => { p with peer := slot, serial := serial, peerMaster := settled, engChain := eng, identOk := true }
    startRekey (dropHigher s n serial) n
/-- KEM_KEY: the peer encapsulates and answers KEM_CT; both keys wait for KEY_AT. -/
def kemKeyIn (s : State) (n : Nat) (key : List Byte) : State :=
  if (s.port n).state = 0 ∨ key.length ≠ 1568 then s
  else
    let (bits, s) := drawBits s
    let (ct, secret) := Config.kemEncap key bits
    let d := txDir s n
    sendLink (s.modPort n fun p => { p with newTx := some (linkKey secret d), newRx := some (linkKey secret (1 - d)) }) n 1 [1] ct
def execKemKey (port : PortN) (key : List Byte) (s : State) : Host.Outcome State Fault Refusal := .next (kemKeyIn s port key)

/-- KEM_CT: the lower-slot end derives the keys and names tick N in KEY_AT, 16 ticks ahead (log 69). -/
def kemCtIn (s : State) (n : Nat) (ct : List Byte) : State :=
  match (s.port n).kemDk with
  | none => s
  | some dk =>
    let secret := Config.kemDecap dk ct
    let d := txDir s n
    let at_ := s.tick + 16
    let s := s.modPort n fun p => { p with newTx := some (linkKey secret d), newRx := some (linkKey secret (1 - d)), kemDk := none,
                                           switchTick := some (BitVec.ofNat 64 at_) }
    sendLink s n 2 [at_] []
def execKemCt (port : PortN) (ct : List Byte) (s : State) : Host.Outcome State Fault Refusal := .next (kemCtIn s port ct)

/-- KEY_AT. -/
def keyAtIn (s : State) (n : Nat) (tick : BitVec 64) : State :=
  if (s.port n).newTx.isNone then s else s.modPort n fun p => { p with switchTick := some tick }
def execKeyAt (port : PortN) (tick : BitVec 64) (s : State) : Host.Outcome State Fault Refusal := .next (keyAtIn s port tick)

/-! ### Modes (R509, R510, R515) -/

/-- Is a change to protected mode held by an image verified at the plain rate (R510)? -/
def modeBlocked (s : State) (n : Nat) : Bool :=
  (List.range 8).any fun p => (s.part p).img.any fun (g : Img) => match g.info with | none => false | some x => x.portPlain.getLsbD n

/-- MODE_PROPOSE for tick N = T + 64. -/
def sendProposal (s : State) (n : Nat) : State :=
  let m := configured s n
  let at_ := s.tick + 64
  sendLink (s.modPort n fun p => { p with proposal := some (m, BitVec.ofNat 64 at_) }) n 3 [m.toNat, at_] []

/-- A port whose configured mode differs from its live mode proposes the change; to protected mode after a rekey. -/
def propose (s : State) (n : Nat) : State :=
  let p := s.port n
  let want := configured s n
  if p.state ≠ 2 ∨ want = p.live then s.modPort n fun p => { p with pending := false, blocked := false, proposal := none }
  else
    let s := s.modPort n fun p => { p with pending := true, blocked := false, proposal := none }
    if want = 2 ∧ modeBlocked s n then s.modPort n fun p => { p with blocked := true }
    else if want = 2 then startRekey s n
    else sendProposal s n

/-- Has an accepted change of mode not taken place yet? -/
def changing (p : Port) : Bool := match p.modeDue with | none => false | some (m, _) => m != p.live

/-- FNL_MODE written as a pair; fields 0 and 3 leave the port's mode unchanged. A port whose mode is changed withdraws its
proposal and makes a new one, after N where a change has been accepted (Table 16-5). -/
def fnlModeWrite (s : State) (v c : W32) : State :=
  if v.extractLsb' 0 14 ≠ ~~~(c.extractLsb' 0 14) then pairBad s 0x00C00000
  else
    let f (n : Nat) : Nat := (v.extractLsb' (2 * n) 2).toNat
    let m := (List.range 7).foldl (fun a n => a + (if f n = 1 ∨ f n = 2 then f n else (configured s n).toNat) * 4 ^ n) 0
    let old := configured s
    let s := { s with fnlMode := Paired.of (BitVec.ofNat 14 m) }
    (List.range 7).foldl (fun s n => if configured s n = old n ∨ changing (s.port n) then s else propose s n) s

/-- MODE_PROPOSE from the peer; a proposal of the lower-slot end stands against one of the other (Table 16-5). -/
def modeProposeIn (s : State) (n : Nat) (mode : BitVec 2) (tick : BitVec 64) : State :=
  let p := s.port n
  if p.state ≠ 2 ∨ (p.proposal.isSome ∧ lowerEnd s n) then s
  else if !s.fnlMode.ok then mismatch s 8 n
  else
    let s := s.modPort n fun p => { p with proposal := none }
    let held := mode = 2 ∧ modeBlocked s n
    if configured s n = mode ∧ s.tick + 16 ≤ tick.toNat ∧ ¬ held then
      sendLink (s.modPort n fun p => { p with modeDue := some (mode, tick) }) n 4 [0] []
    else sendLink (s.modPort n fun p => { p with blocked := p.blocked || decide held }) n 4 [1] []
def execModePropose (port : PortN) (mode : BitVec 2) (tick : BitVec 64) (s : State) : Host.Outcome State Fault Refusal :=
  .next (modeProposeIn s port mode tick)

/-- MODE_ACCEPT: both ends change at N. -/
def modeAcceptIn (s : State) (n : Nat) : State :=
  s.modPort n fun p => match p.proposal with | none => p | some x => { p with modeDue := some x, proposal := none }
def execModeAccept (port : PortN) (s : State) : Host.Outcome State Fault Refusal := .next (modeAcceptIn s port)

/-- MODE_REJECT: the proposal is sent again after 65,536 ticks (MODE_PROPOSE_RETRY). -/
def execModeReject (port : PortN) (s : State) : Host.Outcome State Fault Refusal :=
  .next (s.modPort port fun p => { p with proposal := none })

/-- LINK_MODE_SWITCH at N; N stays noted for packets of the other mode up to N + 2 (R509). -/
def linkModeSwitch (s : State) (n : Nat) : State :=
  match (s.port n).modeDue with
  | none => s
  | some (m, t) =>
    if (s.port n).live = m then s
    else
      let s := (serveTo (s.advance (32 * t.toNat)) n (lineUnits * 32 * t.toNat)).modPort n fun p => { p with live := m, pending := false, blocked := false }
      if configured s n = m then s else propose s n
def execLinkModeSwitch (port : PortN) (s : State) : Host.Outcome State Fault Refusal := .next (linkModeSwitch s port)

/-- MODE_PROPOSE_RETRY, 65,536 ticks after a rejection. -/
def execModeProposeRetry (port : PortN) (s : State) : Host.Outcome State Fault Refusal :=
  .next (if (s.port port).pending && (s.port port).proposal.isNone then propose s port else s)

/-- LINK_KEY_SWITCH: at N the new keys with counters 0; at N + 2 the old receive key is zeroised (R507). A mode change that
waited for the rekey is then proposed (R509). -/
def linkKeySwitch (s : State) (n : Nat) : State :=
  let p := s.port n
  match p.switchTick, p.newTx, p.newRx with
  | some t, some tx, some rx =>
    let s := (serveTo (s.advance (32 * t.toNat)) n (lineUnits * 32 * t.toNat)).modPort n fun p =>
      { p with keyTx := tx, keyRx := rx, oldRx := p.keyRx, newTx := none, newRx := none, ctrTx := 0, ctrRx := 0, switchTick := none,
               oldUntil := some (t + 2) }
    let p := s.port n
    if p.state = 2 ∧ p.pending ∧ p.proposal.isNone ∧ configured s n ≠ p.live ∧ configured s n = 2 ∧ !p.blocked then sendProposal s n else s
  | _, _, _ =>
    match p.oldUntil with
    | none => s
    | some u => (s.advance (32 * u.toNat)).modPort n fun p => { p with oldRx := 0, oldUntil := none }
def execLinkKeySwitch (port : PortN) (s : State) : Host.Outcome State Fault Refusal := .next (linkKeySwitch s port)

/-- FNL_REKEY. -/
def fnlRekey (s : State) (mask : BitVec 7) : State :=
  (List.range 7).foldl (fun s n => if mask.getLsbD n ∧ (s.port n).state = 2 then startRekey s n else s) s

/-- LINK_COUNTER_REKEY: a counter at 2^32; a mode change in progress is let through first (R508, R515). -/
def counterRekey (s : State) (n : Nat) : State :=
  let p := s.port n
  let changing : Bool := match p.modeDue with | none => false | some (m, t) => m != p.live || decide (s.tick < t.toNat + 2)
  if p.state = 2 ∧ (2 ^ 32 ≤ p.ctrTx.toNat ∨ 2 ^ 32 ≤ p.ctrRx.toNat) ∧ !changing then startRekey s n else s
def execLinkCounterRekey (port : PortN) (s : State) : Host.Outcome State Fault Refusal := .next (counterRekey s port)

/-! ### Training, alignment, levels -/

/-- The end of a port's training (R270, R447, R496, R511): up in protected mode, or down with its cause. -/
def portUp (s : State) (i : PortInfo) : State :=
  let n := i.port.val
  let other : Bool := match s.gov.settled, i.peerMaster with | some a, some b => a != b | _, _ => false
  if (s.port n).state ≠ 1 then s
  else if !i.linkOk then portDown s n 1
  else if !s.sage.treeCertified || !i.authOk || i.engChain != s.sage.es then portDown s n 4
  else if duplicatePeer s n i.peerSlot i.serial then portDown s n 5
  else if other then portDown s n 7
  else
    let (bits, s) := drawBits s
    let p := s.port n
    let master := s.gov.settled == some i.peerSlot
    let d := if s.gov.slot.toNat < i.peerSlot.toNat then 0 else 1
    let s := s.setPort n { p with
      state := 2, live := 2, peer := i.peerSlot, serial := i.serial, engChain := i.engChain, identOk := true, delay := i.delay,
      peerMaster := i.peerMaster, toMaster := master, keyTx := p.newTx.getD (linkKey bits d), keyRx := p.newRx.getD (linkKey bits (1 - d)),
      newTx := none, newRx := none, switchTick := none, ctrTx := 0, ctrRx := 0, seqTx := 0, seqRx := 0 }
    let s := if master then s.modGov fun g => { g with residC := i.resid, aligned := true } else s
    propose (dropHigher s n i.serial) n
def execPortTrainingComplete (info : PortInfo) (s : State) : Host.Outcome State Fault Refusal := .next (portUp s info)

/-- PORT_RETRAIN_TIMER: 1 ms after a down of kinds 1, 2 and 7 (Table 16-4). -/
def retrainTimer (s : State) (n : Nat) : State :=
  let p := s.port n
  if p.state = 0 ∧ portPowered s n ∧ (p.downKind = 1 ∨ p.downKind = 2 ∨ p.downKind = 7) then beginTraining s n else s
def execPortRetrainTimer (port : PortN) (s : State) : Host.Outcome State Fault Refusal := .next (retrainTimer s port)

/-- FNL_RETRAIN: a port that is down trains again, but for a duplicate peer (Table 16-4). -/
def fnlRetrain (s : State) (mask : BitVec 7) : State :=
  (List.range 7).foldl (fun s n =>
    if mask.getLsbD n ∧ (s.port n).state = 0 ∧ (s.port n).downKind ≠ 5 ∧ portPowered s n then beginTraining s n else s) s

/-- A follower's measurement: the delay to its master and the residual offset; beyond one tick the alignment is lost (R273,
R512). -/
def measured (s : State) (n : Nat) (delay : Nat) (resid : BitVec 16) : State :=
  let s := (s.modPort n fun p => { p with delay := BitVec.ofNat 16 delay }).modGov fun g => { g with residC := resid, aligned := true }
  if 32 < resid.toInt.natAbs then
    let s := killXsends s fun _ f => f.kind == 1
    portDown (s.modGov fun g => { g with aligned := false }) n 7
  else s

/-- TICK_REALIGN: half the round trip less the master's turnaround. -/
def tickRealign (s : State) (roundTrip turnaround : Nat) (resid : BitVec 16) : State :=
  match masterPort s with
  | none => s
  | some n => measured s n ((roundTrip - turnaround) / 2) resid
def execTickRealign (roundTrip turnaround : Nat) (resid : BitVec 16) (s : State) : Host.Outcome State Fault Refusal :=
  .next (tickRealign s roundTrip turnaround resid)

/-- ALIGN_REQ is answered with the time of sending, the time of receipt and a turnaround of 0 cycles (R512; log 70). -/
def execAlignReq (port : PortN) (tick : BitVec 64) (cyc : BitVec 8) (s : State) : Host.Outcome State Fault Refusal :=
  .next (if (s.port port).state = 0 then s else sendLink s port 7 [1, 32 * tick.toNat + cyc.toNat, s.gov.now, 0] [])

/-- ALIGN_RSP at a follower, on the port to its master; times in active cycles (log 70). -/
def alignRsp (s : State) (n : Nat) (sent received : BitVec 64) (turnaround : Nat) : State :=
  if !(s.port n).toMaster || (s.port n).state != 2 then s
  else
    let delay := (s.gov.now - sent.toNat - turnaround) / 2
    measured s n delay (BitVec.ofInt 16 ((sent.toNat : Int) + delay - received.toNat))
def execAlignRsp (port : PortN) (sent received : BitVec 64) (turnaround : Nat) (s : State) : Host.Outcome State Fault Refusal :=
  .next (alignRsp s port sent received turnaround)

/-- LEVEL_REQ at the master (R297). -/
def levelReqIn (s : State) (n : Nat) (level : BitVec 4) : State :=
  if (s.port n).state ≠ 2 ∨ isFollower s then s
  else decideLevel (s.modGov fun g => { g with peerLevels := sput 0 g.peerLevels (s.port n).peer.toNat level.toNat })
def execLevelReq (port : PortN) (level : BitVec 4) (s : State) : Host.Outcome State Fault Refusal := .next (levelReqIn s port level)

/-- LEVEL_SET from the master: the level and its tick. -/
def levelSetIn (s : State) (n : Nat) (level : BitVec 4) (tick : BitVec 64) : State :=
  if (s.port n).toMaster then s.modGov fun g => { g with pendingLevels := g.pendingLevels ++ [(level.toNat, tick.toNat)] } else s
def execLevelSet (port : PortN) (level : BitVec 4) (tick : BitVec 64) (s : State) : Host.Outcome State Fault Refusal :=
  .next (levelSetIn s port level tick)

/-! ### Packets (R498 to R501) -/

/-- Sequence number a comes before b, modulo 2^16. -/
def seqBefore (a b : BitVec 16) : Bool := decide (0 < (b - a).toNat) && decide ((b - a).toNat < 2 ^ 15)

/-- Packets before ACK need not be kept for replay (R501). -/
def Port.acked (p : Port) (ack : BitVec 16) : Port :=
  { p with unacked := p.unacked.filter fun (e : Nat × OutPkt × Nat) => !seqBefore (BitVec.ofNat 16 e.1) ack }

/-- NAK: the packet is sent again with identical bytes; the fifth sending without acknowledgement takes the port down (R501). -/
def packetNak (s : State) (n : Nat) (seq : BitVec 16) : State :=
  let p := s.port n
  match p.unacked.find? fun (e : Nat × OutPkt × Nat) => e.1 == seq.toNat with
  | none => s
  | some (_, k, count) =>
    if 5 ≤ count then portDown s n 2
    else (servePort s n).modPort n fun p =>
      { p.acked seq with out := p.out ++ [k], lineFree := max p.lineFree (lineUnits * s.gov.now) + lineTime (p.live == 2) k.cells,
                         replays := satAdd p.replays 1,
                         unacked := (p.acked seq).unacked.map fun (e : Nat × OutPkt × Nat) => if e.1 == seq.toNat then (e.1, e.2.1, e.2.2 + 1) else e }
def execPacketNak (port : PortN) (seq : BitVec 16) (s : State) : Host.Outcome State Fault Refusal := .next (packetNak s port seq)

/-- Header bytes 0 to 27 as received (Table 16-2). -/
def packetHeader (k : Packet) (type : Nat) : List Byte :=
  leBytes 1 type ++ leBytes 1 ((if k.protectedMode then 1 else 0) + 2 * k.cells.toNat) ++ leBytes 2 k.seq.toNat ++ leBytes 2 k.ack.toNat ++
  leBytes 2 ((if k.nak then 1 else 0) + 2 * k.dpart.val + 16 * k.spart.val) ++ leBytes 2 k.dcore.toNat ++ leBytes 2 k.dslot.toNat ++
  leBytes 4 k.doff.toNat ++ leBytes 4 k.step.toNat ++ leBytes 8 k.counter.toNat

/-- Payload of a packet; none where its tag fails. After a key switch, packets sent before it open under the old key. -/
def packetPayload (s : State) (n type : Nat) (k : Packet) : Option (List Byte) :=
  if !k.protectedMode then some k.cipher
  else
    let p := s.port n
    let iv := linkIv (1 - txDir s n) k.counter
    let open_ (key : BitVec 256) := Config.gcmOpen key iv (packetHeader k type) k.cipher k.tag
    match open_ p.keyRx with
    | some b => some b
    | none => if p.oldUntil.isSome then open_ p.oldRx else none

/-- Is a packet of this mode accepted now (R509)? -/
def modeTaken (s : State) (n : Nat) (k : Packet) : Bool :=
  let p := s.port n
  (k.protectedMode == (p.live == 2)) || p.nak.contains k.seq ||
  (match p.modeDue with | none => false | some (_, t) => decide (t.toNat ≤ s.tick + 2) && decide (s.tick ≤ t.toNat + 2))

/-- Is the packet's DPART bound to the port (R499)? -/
def boundTo (s : State) (n type : Nat) (k : Packet) : Bool :=
  let q := s.part k.dpart
  match type with
  | 1 => q.dp.dp.v.getLsbD 6 && (List.range 8).any fun r =>
      decide (r ≤ (q.dp.dp.v.extractLsb' 3 3).toNat) && (q.dp.ports.v.extractLsb' (3 * r) 3).toNat == n
  | 2 => (s.port n).binds.any fun b => b.1 == k.dpart.val
  | _ => q.dp.buddy.v.getLsbD 8 && (q.dp.buddy.v.extractLsb' 9 3).toNat == n && (q.dp.buddy.v.extractLsb' 12 3).toNat == k.spart.val

/-- A refused packet: counted, and REJECT to its sender (R499). -/
def rejectPacket (s : State) (n : Nat) (k : Packet) : State :=
  sendLink (s.modPort n fun p => { p with reject := satAdd p.reject 1 }) n 9 [k.seq.toNat] []

/-- What becomes of bytes of an exchange or broadcast slot (R403 to R405). -/
inductive StepBytes where
  | land | late | drop
  deriving DecidableEq, Repr

/-- Disposal of bytes of a step for a slot of a partition. -/
def stepBytes (s : State) (p c slot : Nat) (step : W32) : StepBytes :=
  match serveInfo s p, (s.part p).train with
  | some x, some t =>
    let add : Bool := ((s.core c).slot slot).lateAdd
    let inSet (n : Nat) : Bool := (List.range 8).any fun r => (exSlotsOf x n r).contains (c, slot)
    if inSet 0 || inSet 1 then
      if t.sNo < step.toNat then .land
      else if step.toNat = t.sNo then (if !t.decided then .land else if add then .late else .drop)
      else if step.toNat + 1 = t.sNo ∧ !t.decided ∧ add then .late
      else .drop
    else if x.serve.bcast.contains (c, slot) ∧ step.toNat < t.sNo then .drop
    else .land
  | _, _ => .land

/-- Bytes of a transfer into a slot: 64-byte units from its base, within its length; the stamp with the last byte. -/
def intoSlot (s : State) (n p c slot off : Nat) (step : W32) (bs : List Byte) (last : Bool) : State :=
  let e := (s.core c).slot slot
  let room := e.len - 64 * off
  let write (s : State) : State := { s with scratch := bwrite s.scratch (scrAddr c (e.base + 64 * off)) (bs.take room) }
  match stepBytes s p c slot step with
  | .drop => s
  | .late =>
    let s := write s
    if last then s.modPart p fun q => { q with train := q.train.map fun t => { t with lateIn := t.lateIn ++ [(c, slot)] } } else s
  | .land =>
    let s := write s
    if last then
      (landSlot s ⟨c, slot, statusWord none false, .set, s.gov.now, [], none⟩ 0 false).modPort n fun q =>
        { q with begun := q.begun.filter fun l => l != (c, slot) }
    else s.modPort n fun q => { q with begun := (q.begun.filter fun l => l != (c, slot)) ++ [(c, slot)] }

/-- Delivery of a packet's payload: DATA to its core and slot, PIPE to its lane's, CKPT to the BUDDY pages (log 67). -/
def intoPlace (s : State) (n type : Nat) (k : Packet) (bs : List Byte) : State :=
  let p := k.dpart.val
  match type with
  | 1 =>
    if partOfCore s k.dcore.toNat = some p ∧ k.dcore.toNat < 1280 then
      intoSlot s n p k.dcore.toNat k.dslot.toNat k.doff.toNat k.step bs k.last
    else rejectPacket s n k
  | 2 =>
    match (serveInfo s p).bind fun x => x.lanes.find? fun l => l.1 == k.dcore.toNat with
    | none => rejectPacket s n k
    | some (_, c, slot) => intoSlot s n p c slot k.doff.toNat k.step bs k.last
  | _ =>
    let off := k.doff.toNat + 8192 * (k.dslot.toNat + 512 * k.dcore.toNat)
    match (buddyPages s p)[off / 1024]? with
    | none => rejectPacket s n k
    | some g => onPages s [g] fun s => { s with stack := bwrite s.stack (g * 65536 + 64 * (off % 1024)) (bs.take (65536 - 64 * (off % 1024))) }

/-- One packet in its turn: tag, binding, place. A tag failure takes the port down (R501). -/
def takePacket (s : State) (n type : Nat) (k : Packet) : State :=
  let s := s.modPort n fun p => { p.acked k.ack with seqRx := k.seq + 1 }
  match packetPayload s n type k with
  | none => portDown s n 3
  | some bs =>
    let s := if k.protectedMode then s.modPort n fun p => { p with ctrRx := k.counter + 1 } else s
    if !(s.part k.dpart).dp.dp.ok || !(s.part k.dpart).dp.ports.ok || !(s.part k.dpart).dp.buddy.ok then mismatch s 5 k.dpart
    else if !boundTo s n type k then rejectPacket s n k
    else intoPlace s n type k bs

/-- The next packet in SEQ order of those that are held, when every failed packet before it has arrived. -/
def nextHeld (p : Port) : Option (Nat × Packet) :=
  match p.held with
  | [] => none
  | e :: es =>
    let e := es.foldl (fun a (b : Nat × Packet) => if seqBefore b.2.seq a.2.seq then b else a) e
    if p.nak.all fun q => seqBefore e.2.seq q then some e else none

/-- Held packets that no failed packet holds back any longer are taken in SEQ order, `fuel` at most. -/
def takeHeld (n : Nat) : Nat → State → State
  | 0, s => s
  | fuel + 1, s =>
    match nextHeld (s.port n) with
    | none => s
    | some e => takeHeld n fuel (takePacket (s.modPort n fun p => { p with held := p.held.erase e }) n e.1 e.2)

/-- FEC symbols corrected and codewords not corrected are counted with the packet (Table 16-6). -/
def Port.fec (p : Port) (k : Packet) : Port :=
  { p with corrected := satAdd p.corrected k.fixed, uncorr := satAdd p.uncorr k.badWords }
/-- Does the packet fail its CRC or hold an uncorrectable codeword (R501)? -/
def packetDamaged (k : Packet) : Bool := !k.intact || decide (0 < k.badWords)

/-- A packet arrives (R501): a damaged one is discarded and named in a NAK; those behind it are held, up to 256, and taken in
SEQ order once it has arrived. -/
def packetIn (s : State) (n type : Nat) (k : Packet) : State :=
  let p := (s.port n).fec k
  if p.state ≠ 2 then s
  else
  let s := s.setPort n p
  if packetDamaged k then
    let s := s.modPort n fun p => { p with nak := p.nak.filter (· != k.seq) ++ [k.seq] }
    sendFirst s n ⟨0, 0, [1, k.seq.toNat], [], []⟩
  else if !modeTaken s n k then s
  else if p.nak = [] then takePacket s n type k
  else if p.nak.contains k.seq || decide (p.held.length < 256) then
    takeHeld n (p.held.length + 1)
      (s.modPort n fun p => { p with nak := p.nak.filter (· != k.seq), held := p.held ++ [(type, k)] })
  else s

def execDataPacket (port : PortN) (pkt : Packet) (s : State) : Host.Outcome State Fault Refusal := .next (packetIn s port 1 pkt)
def execPipePacket (port : PortN) (pkt : Packet) (s : State) : Host.Outcome State Fault Refusal := .next (packetIn s port 2 pkt)
def execCkptPacket (port : PortN) (pkt : Packet) (s : State) : Host.Outcome State Fault Refusal := .next (packetIn s port 3 pkt)

/-- BAY packet: one access to mailbox 56 + m as endpoint 16 + m; a read returns its value in a BAY packet (R500). -/
def bayPacket (s : State) (m : Nat) (write : Bool) (off : BitVec 8) (v : W32) : State :=
  if (s.port m).state ≠ 2 then s
  else if write then bayWrite s (16 + m) (56 + m) off.toNat v
  else
    let (s, x) := bayRead s (16 + m) (56 + m) off.toNat
    sendFirst s m ⟨4, 0, [0, off.toNat, 0, 0, 0], leBytes 4 x.toNat, []⟩
def execBayPacket (port : PortN) (write : Bool) (off : BitVec 8) (data : W32) (s : State) : Host.Outcome State Fault Refusal :=
  .next (bayPacket s port write off data)

/-- Transfers that end send nothing more: what waits of them at a port is given up at the packet boundary (R213, R514). -/
def dropWaiting (s : State) (n : Nat) (f : Waiting → Bool) : State :=
  (servePort s n).modPort n fun p => { p with waiting := p.waiting.filter fun w => !f w }

/-- The holder takes the checkpoint of a partition no longer: an open one is abandoned with DISABLED, and the valid generation is
lost with the holder's pages (Table 12-5; log 128). -/
def holderLost (s : State) (p : Nat) : State :=
  (abandonCkpt s p St.disabled).modPart p fun q => { q with ckpt := { q.ckpt with genOk := false } }

/-- REJECT: the XSEND that sent the packet ends with DISABLED (R213, R499); of a CKPT packet, the copier that sent it has lost its
holder. -/
def rejectIn (s : State) (n : Nat) (seq : BitVec 16) : State :=
  match (s.port n).unacked.find? fun (e : Nat × OutPkt × Nat) => e.1 == seq.toNat with
  | none => s
  | some (_, k, _) =>
    let a (i : Nat) := k.args.getD i 0
    let s := dropWaiting s n fun w => w.part == a 0 && w.pkt.type == k.type && w.pkt.args.getD 1 0 == a 1 && w.pkt.args.getD 2 0 == a 2
    if k.type = 3 then holderLost s (a 0) else
    killXsends s fun c f => partOfCore s c == some (a 0) && onPort s n c f && f.dcore.toNat == a 1 && f.dslot.toNat == a 2
def execReject (port : PortN) (seq : BitVec 16) (s : State) : Host.Outcome State Fault Refusal := .next (rejectIn s port seq)

/-! ### Other LINK messages and the shares -/

/-- PIPE_BIND: the peer's teacher is paired with a partition of this module (R376, R499). -/
def execPipeBind (port : PortN) (student : PartN) (s : State) : Host.Outcome State Fault Refusal :=
  .next (if (s.port port).state = 2 then
      s.modPort port fun p => { p with binds := (p.binds.filter fun b => b.1 != student.val) ++ [(student.val, 0)] }
    else s)
/-- PIPE_UNBIND. -/
def execPipeUnbind (port : PortN) (student : PartN) (s : State) : Host.Outcome State Fault Refusal :=
  .next (s.modPort port fun p => { p with binds := p.binds.filter fun b => b.1 != student.val })

/-- LEAVE: the rank is removed from the live mask at the next decision (R408). -/
def leaveIn (s : State) (n : Nat) (rank : BitVec 3) (tag : W32) : State :=
  (List.range 8).foldl (fun s p =>
    let q := s.part p
    let mine : Bool := match q.train with | some t => t.jobTag == tag | none => false
    if isDp q && mine && dpPort q rank.toNat == n then
      s.modPart p fun x => { x with dp := { x.dp with leaving := x.dp.leaving ||| (1#8 <<< rank.toNat) } }
    else s) s
def execLeave (port : PortN) (rank : BitVec 3) (jobTag : W32) (s : State) : Host.Outcome State Fault Refusal :=
  .next (leaveIn s port rank jobTag)

/-- Share that the images of a partition need on a port: those loaded, and one that a load has verified (Table 16-5). -/
def shareNeed (q : Part) (n : Nat) : Nat :=
  let need (o : Option ImgInfo) : Nat := match o with | none => 0 | some x => x.portShare.getD n 0
  ((q.img.map fun (g : Img) => need g.info) ++ [match q.load with | none => 0 | some j => need (some j.res.info)]).foldl max 0

/-- A write of FNL_PORTn_SHARE_LO or _HI (R503). -/
def shareWrite (s : State) (n : Nat) (hi : Bool) (v : W32) : State :=
  let new (k : Nat) : Nat := if hi == decide (4 ≤ k) then (v.extractLsb' (8 * (k % 4)) 5).toNat else (s.port n).share k
  let sum := ((List.range 8).map new).foldl (fun a b => a + b) 0
  let low := (List.range 8).any fun k => decide (new k < shareNeed (s.part k) n)
  if 16 < sum ∨ low then s.modPort n fun p => { p with shareErr := true }
  else (servePort s n).modPort n fun p =>
    { p with oldShares := some (32 * lineUnits * (s.tick + 1), p.shares), shares := (List.range 8).foldl (fun m k => sput 0 m k (BitVec.ofNat 12 (new k))) p.shares }

end Sys2Proof.Machine
end

