-- ==== Sys2Proof/Machine/Integrity.lean ====
section
/-! DEFINITION. Integrity of the Basil arrays: scrub reads, reload windows and their advisories, hard-failing macros,
the weight audit (R90 to R108), and the evaluation of Mint samples (R172 to R174). -/

namespace Sys2Proof.Machine

/-! ### Scrub (R90, R94, R99) -/

/-- Read numbers of a macro: 257·m + r for row r, 257·m + 256 for its scale store. Loaded macros of a group, ascending. -/
def loadedMacros (s : State) (g : Nat) : List Nat :=
  ((s.macros.filter fun e => e.2.loaded && !e.2.bad).map (·.1)).filter fun m => m / 81920 == g

/-- The read that follows position `pos` in the group's order, and whether a new sweep begins with it. -/
def nextScrub (s : State) (g pos : Nat) : Option (Nat × Bool) :=
  let ms := loadedMacros s g
  match ms.find? fun m => decide (pos < 257 * m + 257) with
  | some m => some (max pos (257 * m), false)
  | none => ms.head?.map fun m => (257 * m, true)

/-- Parity bits of a row that fail, as a nibble of differences. -/
def rowDiff (s : State) (m r : Nat) : BitVec 4 :=
  sget 0 s.parity (256 * m + r) ^^^ BitVec.ofNat 4 (rowParity (macroRow s m r))
/-- First scale code of a macro whose parity fails. -/
def scaleDiff (s : State) (m : Nat) : Option Nat :=
  (List.range 256).find? fun j => sget 0 s.scaleParity (256 * m + j) != BitVec.ofNat 1 (byteParity (macroScale s m j))

/-- A parity error of macro m (R94): suspect, log and count of its core, one record unless the log holds one (R547); again
within 16 sweeps of its reload it is hard-failing (R99). `row` is the row, or the scale index. -/
def parityError (s : State) (m row quarter : Nat) (scale : Bool) : State :=
  let c := m / 1024
  let g := m / 81920
  let p := (partOfGroup s g).getD 0
  let held := (s.core c).par.valid
  let s := s.modMacro m fun x => { x.suspectAs .parity (s.tick + 1) with parityHit := true }
  let s := s.modCore c fun k => { k with par :=
    let l := { k.par with parity := satAdd k.par.parity 1 }
    if held then l else { l with macroIx := BitVec.ofNat 10 m, row := BitVec.ofNat 8 row, quarter := BitVec.ofNat 2 quarter,
                                 scale := scale, guard := false, valid := true } }
  let rec1 (kind detail2 : Nat) : FaultEv :=
    { kind := kind, cls := 10, status := St.ok, scope := .partition p, source := c, detail := m, detail2 := detail2,
      parsley := false, reset := false }
  let s := if held then s else recordNext s (rec1 0x01 row)
  match (s.macro1 m).reloadSweep with
  | none => s
  | some n =>
    if (s.group g).sweep ≤ n + 16 ∧ !s.err.hardFail.contains m then
      recordNext (s.modErr fun e => { e with hardFail := e.hardFail ++ [m] }) (rec1 0x02 0)
    else s

/-- One scrub read at read number n. Where several parity bits of a row, or several scale codes, fail in one read, the lowest failing
one is logged (DESIGN CHOICE, log 111: the spec does not say which). -/
def scrubAt (s : State) (n : Nat) : State :=
  let m := n / 257
  let r := n % 257
  if r = 256 then
    (match scaleDiff s m with
     | none => s
     | some j => parityError s m j 0 true)
  else
    let d := rowDiff s m r
    if d = 0 then s else parityError s m r (((List.range 4).find? fun i => d.getLsbD i).getD 0) false

/-- SCRUB_READ: the engine of a powered group reads the head of its order (R90, R103). A macro moved to the head is read there and
again at its ordinary place of the same sweep (DESIGN CHOICE, log 112: R103 moves it and does not say whether its ordinary reads
fall away). -/
def scrubRead (s : State) (g : Nat) : State :=
  if !s.pwr.on.getLsbD (2 + g) then s
  else
    let x := s.group g
    match x.rescrub with
    | n :: rest =>
      let s := s.modGroup g fun y => { y with rescrub := rest }
      if (s.macro1 (n / 257)).loaded then scrubAt s n else s
    | [] =>
      match nextScrub s g x.scrubPos with
      | none => s
      | some (n, wrap) =>
        let s := s.modGroup g fun y =>
          if wrap then { y with scrubPos := n + 1, sweep := y.sweep + 1, prevSweep := y.sweepStart, sweepStart := s.tick }
          else { y with scrubPos := n + 1 }
        scrubAt s n

def execScrubRead (g : GroupN) (s : State) : Host.Outcome State Fault Refusal := .next (scrubRead s g)

/-! ### Reload windows (R95 to R98) -/

/-- Contexts of partition p that had rows in a step overlapping a window that starts at tick t and ends now. -/
def servedSince (s : State) (p t : Nat) : List Nat :=
  let d := (s.part p).dill
  let past := (d.served.filter fun e => decide (t < e.2)).map (·.1)
  let present := if d.inStep then d.rowCtx.map (·.toNat) else []
  let train := match (s.part p).train with | some j => if j.segment != 0 then [j.ctx.toNat] else [] | none => []
  ((past ++ present ++ train).eraseDups).filter fun c => decide (c < 49152)

/-- KIND of Table 11-3. -/
def AdvKind.code : AdvKind → Nat
  | .parity => 1 | .audit => 2 | .source => 3 | .mint => 4

/-- Suspect-window advisory of a reloaded macro (R98, Table 3-5): window from the later of the previous complete sweep and
the macro's last write, or from the previous audit pass, to now. "The group's previous complete sweep" is the one before the sweep in
progress at the completion of the reload, not at the detection (DESIGN CHOICE, log 113: R98 does not say which). -/
def suspectAdvisory (s : State) (p m : Nat) (k : AdvKind) (lastWrite : Nat) : State :=
  let st := match k with
    | .parity => max (s.group (m / 81920)).prevSweep lastWrite
    | .audit => (s.part p).integ.lastPass.getD (s.part p).integ.loadDone
    | _ => (s.part p).integ.loadDone
  let w := advisoryWord k.code 0 0 (BitVec.ofNat 64 st) s.tick64
  (servedSince s p st).foldl (fun s c => giveAdvisory s c w) s

/-- Macros of one window: up to 16 suspects in ascending index, at most one per slab (R95). -/
def windowMacros (ms : List Nat) : List Nat :=
  (ms.foldl (fun acc m => if acc.any fun x => x / 64 == m / 64 then acc else acc ++ [m]) []).take 16

/-- Reload of macro m from its recorded source (R95). A parity error within 16 sweeps of the reload that a parity error caused makes
the macro hard-failing (R99). -/
def reloadMacro (s : State) (p m : Nat) (recv : List (Nat × List Byte)) : State :=
  let x := s.macro1 m
  match x.src, x.mode with
  | some src, some mode =>
    let s := s.modMacro m fun y =>
      { y with suspect := none, parityHit := false,
               reloadSweep := if y.parityHit then some (s.group (m / 81920)).sweep else y.reloadSweep }
    fillMacro s m mode (s.part p).integ.guardOn src recv
  | _, _ => s

/-- Pages that the reload of a macro reads. -/
def reloadPages (s : State) (m : Nat) : List Nat :=
  match (s.macro1 m).src with
  | none => []
  | some x => x.pages

/-- Row writes of a window of 64 ticks charged to the partition's share in each field (R95, Table 8-5): n macros of a field make
256·n row writes of 2 q in its 2,048 cycles, spread evenly (log 117). The committed current follows at each of its tick edges. -/
def chargeReloads (s : State) (p : Nat) (ms : List Nat) : State :=
  let s := s.modGovPart p fun g =>
    { g with reloads := (List.range 4).filterMap fun f =>
        let n := (ms.filter fun m => m / 327680 == f).length
        if n = 0 then none else some (s.tick, s.tick + 63, f, (n + 3) / 4) }
  let d := partCurrent s p 16 (declaredCores s p s.tick)
  s.modGovPart p fun g => (List.range 64).foldl (fun g _ => g.settle d (slewOf s p)) g

/-- RELOAD_WINDOW: 64 ticks, with no job in the way: none, or one paused at its tile boundary. -/
def reloadWindow (s : State) (p : Nat) (mem : List MemEvent) : State :=
  let q := s.part p
  let ms := windowMacros (suspects s p)
  if q.st = 0 ∨ ms = [] ∨ (q.running.isSome ∧ q.pauseFrom.isNone) then s
  else onPages s (ms.flatMap (reloadPages s)) fun s =>
    let before := ms.map fun m => (m, (s.macro1 m).suspect.getD .parity, (s.macro1 m).lastWrite)
    let s := chargeReloads (burstEvents s p mem) p ms
    let s := s.advance (32 * (s.tick + 64))
    let s := ms.foldl (fun s m => reloadMacro s p m (mem.flatMap MemEvent.received)) s
    endPause (before.foldl (fun s x => suspectAdvisory s p x.1 x.2.1 x.2.2) s) p

def execReloadWindow (w : PartReads) (s : State) : Host.Outcome State Fault Refusal :=
  .next (reloadWindow s w.part w.mem)

/-! ### Weight audit (R105 to R108, R111) -/

/-- A byte of a row with its bits at checksum positions taken from the stored byte (R105). -/
def mergeCheck (mode : WMode) (k mac stored : Nat) : Nat :=
  if k ≠ 63 then mac
  else match mode with
    | .w1 | .w2 => mac % 64 + stored / 64 * 64
    | .w4 => mac % 16 + stored / 16 * 16

/-- Byte a of the stack as the macros of the layout hold it; the stored byte where no macro holds it. -/
def reformedByte (s : State) (layout : List Block1) (guard : Bool) (a : Nat) : Byte :=
  match layout.find? fun b => decide (b.image ≤ a) && decide (a < b.image + 16384) with
  | some b =>
    let v := bget s.cim (16384 * b.macroIx + (a - b.image))
    if guard then BitVec.ofNat 8 (mergeCheck b.mode ((a - b.image) % 64) v.toNat (bget s.stack a).toNat) else v
  | none =>
    match layout.find? fun b => decide (b.scale ≤ a) && decide (a < b.scale + 256) with
    | some b => bget s.scales (256 * b.macroIx + (a - b.scale))
    | none => bget s.stack a

/-- Does the macro's image or scale image touch page g? -/
def Block1.onPage (b : Block1) (g : Nat) : Bool :=
  (decide (b.image < (g + 1) * 65536) && decide (g * 65536 < b.image + 16384)) ||
  (decide (b.scale < (g + 1) * 65536) && decide (g * 65536 < b.scale + 256))

/-- Page audit record, source the page's channel. -/
def auditRecord (s : State) (p g kind : Nat) (st : Status) : State :=
  recordNext s { kind := kind, cls := 4, status := st, scope := .partition p, source := 1280 + chanOf g, detail := g,
                 detail2 := 0, parsley := false, reset := false }

/-- Contexts of a partition that hold an entry. -/
def contextsOf (s : State) (p : Nat) : List Nat :=
  (s.ctxs.filter fun e => e.2.state != 0 && e.2.part.toNat == p).map (·.1)

/-- The scrub reads that the rows of a page's macros serve as (R106). -/
def auditScrub (s : State) (g : Nat) (layout : List Block1) : State :=
  layout.foldl (fun s b =>
    let here (a : Nat) : Bool := a / 65536 == g
    let rows := (List.range 256).filter fun r => here (b.image + 64 * r)
    let s := rows.foldl (fun s r => scrubAt s (257 * b.macroIx + r)) s
    if here b.scale then scrubAt s (257 * b.macroIx + 256) else s) s

/-- One page of a pass. A macro of a page whose re-formed bytes differ is suspect for that cause, whatever the scrub reads of the pass
found in it (R107; log 114). -/
def auditPage (s : State) (p g : Nat) (leaf : BitVec 256) : State := onPages s [g] fun s =>
  let q := s.part p
  let layout := q.layout.filter fun b => b.onPage g && !(s.macro1 b.macroIx).bad
  let s := auditScrub s g (layout.filter fun b => (s.macro1 b.macroIx).loaded)
  let s1 :=
    if Config.sha256 (bread s.stack (g * 65536) 65536) = leaf then s
    else
      -- R108
      let s := auditRecord (markStop s p St.integrityFault) p g 0x05 St.integrityFault
      let w := advisoryWord AdvKind.source.code 0 0 (BitVec.ofNat 64 q.integ.loadDone) s.tick64
      let s := (contextsOf s p).foldl (fun s c => giveAdvisory s c w) s
      s.modPart p fun x => { x with integ := { x.integ with srcMis := true, refused := true } }
  if layout = [] ∨
      Config.sha256 ((List.range 65536).map fun i => reformedByte s layout q.integ.guardOn (g * 65536 + i)) = leaf then s1
  else
    -- R107
    let s := auditRecord s1 p g 0x04 St.ok
    let s := layout.foldl (fun s b => s.modMacro b.macroIx fun x => { x with suspect := some .audit, suspectAt := if x.suspect.isSome then x.suspectAt else s.tick + 1 }) s
    s.modPart p fun x => { x with integ := { x.integ with cimMis := true } }

/-- Ticks of one second at level 0. -/
def secondTicks : Nat := 31250000

/-- Is an audit pass in progress? A pass lasts one second (R106; log 29). -/
def auditBusy (s : State) (p : Nat) : Bool :=
  (s.part p).integ.auditBusy && decide (s.tick < (s.part p).integ.passStart + secondTicks)

/-- An audit pass over every FROZEN page of the base (R105); nothing while a pass is in progress. -/
def auditPass (s : State) (p : Nat) : State :=
  if auditBusy s p ∨ (s.part p).st = 0 ∨ (s.part p).basePages = [] then s
  else
    let prev := if (s.part p).integ.auditBusy then some (s.part p).integ.passStart else (s.part p).integ.lastPass
    let s := s.modPart p fun q => { q with integ := { q.integ with auditBusy := true, passStart := s.tick, lastPass := prev } }
    let q := s.part p
    (q.basePages.zip q.baseLeaves).foldl (fun s x => auditPage s p x.1 x.2) s


/-- AUDIT_PERIOD_EXPIRY: the period of PTN_AUDIT, counted from the start of the last pass, has run out. -/
def auditPeriodExpiry (s : State) (p : Nat) : State :=
  let q := s.part p
  auditPass (s.advance (32 * (q.integ.passStart + 60 * secondTicks * q.integ.auditMin.toNat))) p

def execAuditPeriodExpiry (p : PartN) (s : State) : Host.Outcome State Fault Refusal := .next (auditPeriodExpiry s p)

/-! ### Mint evaluation (R172 to R174) -/

/-- Threshold code of a destination format (Table 5-6). -/
def mintThreshold (t : BitVec 32) : Fmt → Nat
  | .bf16 => (t.extractLsb' 0 5).toNat
  | .fp16 => (t.extractLsb' 5 5).toNat
  | .e5m2 => (t.extractLsb' 10 5).toNat
  | .e4m3 => (t.extractLsb' 15 5).toNat
  | .e2m1 => (t.extractLsb' 20 5).toNat
  | .int8 => (t.extractLsb' 25 5).toNat
  | _ => 0

/-- Format code of Table 2-1 for the formats of R170. -/
def mintCode : Fmt → Nat
  | .bf16 => 1 | .fp16 => 2 | .e5m2 => 3 | .e4m3 => 4 | .e2m1 => 5 | .int8 => 6 | _ => 0

/-- MINT_EVALUATION: the sample of a group is compared and its buffer released; it takes 4 c per 256 elements plus 36 c of the
core's vector engine, under the Mint allowance (R172). The written values are those that the conversion wrote, kept at the capture
(DESIGN CHOICE, log 115: the spec does not say what an evaluation sees once the tile is overwritten), and the threshold is the one
in force at the evaluation (DESIGN CHOICE, log 116). -/
def mintEvaluation (s : State) (g : Nat) : State :=
  match (s.group g).mint, partOfGroup s g with
  | some (c, t), some p =>
    let s := s.modGroup g fun x => { x with mint := none }
    let now := s.gov.now
    let s := s.modCore c fun k =>
      { k with acts := k.acts ++ [⟨0, .mint, 0, now - (4 * ((t.xs.length + 255) / 256) + 35), now⟩] }
    let (e, r, bad) := mintDisagree t.xs t.ds (mintThreshold (s.part p).mint.threshOn t.fmt)
    let s := s.modPart p fun q => { q with mint :=
      { q.mint with samples := satAdd q.mint.samples 1,
                    disagree := if bad then satAdd q.mint.disagree 1 else q.mint.disagree } }
    if bad then
      let w := advisoryWord AdvKind.mint.code (mintCode t.fmt) t.tile (BitVec.ofNat 64 (e + r * 2 ^ 32)) 0
      t.owners.foldl (fun s o => giveAdvisory s o.toNat w) s
    else s
  | some _, none => s.modGroup g fun x => { x with mint := none }
  | none, _ => s

def execMintEvaluation (g : GroupN) (s : State) : Host.Outcome State Fault Refusal := .next (mintEvaluation s g)

end Sys2Proof.Machine
end

