-- ==== Sys2Proof/Machine/Power.lean ====
section
/-! DEFINITION. Power, clocks, resets and start-up (chapter 17), recovery, the watchdogs and the life counters (R545, R556). -/

namespace Sys2Proof.Machine

/-! ### What outlasts a reset -/

/-- The block as power-good finds it: fuses, flash and the host's memory stay, everything else is at its reset value (R521, R523). -/
def State.cold (s : State) : State :=
  { State.reset with
    pending := s.pending, freeCtr := s.freeCtr, readData := s.readData, fused := s.fused
    sage := { Sage.fresh with
      serial := s.sage.serial, es := s.sage.es, blown := s.sage.blown, topNext := s.sage.topNext, deviceSecret := s.sage.deviceSecret
      fwKeyDigest := s.sage.fwKeyDigest, debugKeyDigest := s.sage.debugKeyDigest, topTag := s.sage.topTag }
    cxl := { Cxl.fresh with host := s.cxl.host }
    sys := { Sys.fresh with flashBad := s.sys.flashBad || s.sys.fwUpdate == 1 || s.sys.recBusy }
    err := { Err.fresh with hours := s.err.hours, equiv := s.err.equiv, hot := s.err.hot, svcCount := s.err.svcCount, svc := s.err.svc,
                            hardFail := s.err.hardFail } }

/-- The block after a module reset: also the debug scope, the thermal-trip count, SYS_PARSLEY, the strap and the reset registers
(Table 17-2, R535). -/
def State.warm (s : State) : State :=
  let c := s.cold
  { c with
    sage := { c.sage with debug := s.sage.debug, testScope := s.sage.testScope }
    gov := { c.gov with trips := s.gov.trips, slot := s.gov.slot }
    pwr := { c.pwr with pwrgd := s.pwr.pwrgd, perst := s.pwr.perst, thermtrip := s.pwr.thermtrip, refOk := s.pwr.refOk,
                        rstCause := s.pwr.rstCause, rstCount := s.pwr.rstCount }
    sys := { c.sys with parCause := s.sys.parCause, parSource := s.sys.parSource, parTick := s.sys.parTick } }

/-- Power bits set or cleared. -/
def power (s : State) (mask : BitVec 24) (on : Bool) : State :=
  s.modPwr fun w => { w with on := if on then w.on ||| mask else w.on &&& ~~~mask }
/-- Group domains PD2 to PD17. -/
def groupDomains : BitVec 24 := 0x03FFFC
/-- Step of start-up in progress. -/
def atStep9 (s : State) (n : Nat) : State := s.modSys fun y => { y with step := BitVec.ofNat 4 n }

/-! ### Start-up (Table 17-3) -/

/-- A start-up failure of kind 0x1A: step and unit, then Parsley (R525). -/
def startFail (s : State) (step unit cause : Nat) : State :=
  let s := recordNow s { kind := 0x1A, cls := 4, status := St.degraded, scope := .module, source := unit, detail := step, detail2 := unit,
                         parsley := true, reset := false }
  enterParsley s cause unit

/-- RECOVERY (R531): only PD0, PD22 and PD23 are powered. -/
def enterRecovery (s : State) (env : StartEnv) (cause : BitVec 3) : State :=
  let s := s.modSys fun y => { y with state := 3, step := 0, recCause := cause }
  let s := s.modPwr fun w => { w with on := 0xC00001, resetAfter := none }
  match env.cxl with
  | none => s
  | some c => if s.pwr.perst then s else s.modCxl fun x => { x with up := true, width := c.width, rate := c.rate, flit := true, vfs := c.vfs }

/-- Step 9: anti-rollback steps, then READY, or DEBUG while a scope is unlocked (R426, R450). -/
def step9 (s : State) (env : StartEnv) : State :=
  let s := (atStep9 s 9).modPwr fun w => { w with resetAfter := none }
  if !env.svnOk then startFail s 9 1493 8
  else
    let s := s.modSage fun g => { g with blown := if g.blown.toNat < g.imageSvn.toNat then g.imageSvn else g.blown }
    s.modSys fun y => { y with state := if s.sage.debug = 0 then 1 else 4, step := 0 }

/-- Step 8: PD22, and the CXL link once PERST# is deasserted. -/
def step8 (s : State) (env : StartEnv) : State :=
  let s := power (atStep9 s 8) 0x400000 true
  if s.pwr.perst then s.modPwr fun w => { w with resetAfter := some env }
  else
    let s := match env.cxl with
      | none => s
      | some c => s.modCxl fun x => { x with up := true, width := c.width, rate := c.rate, flit := true, vfs := c.vfs }
    step9 s env

/-- The role is settled (R270): ports whose far end has settled under another master go down with kind 7. -/
def settleAs (s : State) (m : BitVec 3) (env : StartEnv) : State :=
  let own := s.gov.slot
  let s := s.modGov fun g => { g with settled := some m, master := m == own, aligned := true }
  let s := match if m = own then none else env.ports.find? fun i => i.peerSlot == m with
    | none => s
    | some i =>
      -- the one load of a follower's counter (R271)
      let s := s.modGov fun g => { g with now := 32 * i.masterTick.toNat, loadC := i.loadC, residC := i.resid }
      s.modPort i.port fun p => { p with toMaster := true, delay := i.delay }
  let s := (List.range 7).foldl (fun s n =>
    match (s.port n).peerMaster with
    | none => s
    | some k => if (s.port n).state = 2 ∧ k ≠ m then portDown s n 7 else s) s
  step8 s env

/-- Strap values of the peers on trained ports. -/
def trainedPeers (s : State) : List Nat := ((List.range 7).filter fun n => (s.port n).state == 2).map fun n => (s.port n).peer.toNat
/-- Masters that settled peers report. -/
def reportedMasters (s : State) : List Nat :=
  ((List.range 7).filter fun n => (s.port n).state == 2).filterMap fun n => (s.port n).peerMaster.map fun m => m.toNat

/-- R270, items 1 to 3; a module that must wait stands at step 7. -/
def settle (s : State) (env : StartEnv) : State :=
  let own := s.gov.slot
  match (reportedMasters s).min? with
  | some m => if (trainedPeers s).contains m ∨ m = own.toNat then settleAs s (BitVec.ofNat 3 m) env else settleAs s own env
  | none =>
    if (trainedPeers s).all fun p => decide (own.toNat ≤ p) then settleAs s own env
    else s.modPwr fun w => { w with resetAfter := some env }

/-- Does the module wait in step 7 for a peer to settle? -/
def settling (s : State) : Option StartEnv := if s.sys.state = 0 ∧ s.sys.step = 7 then s.pwr.resetAfter else none

/-- TICK_MASTER_SETTLE_TIMEOUT: 1 s has passed; the module becomes a master of its own (R270). -/
def settleTimeout (s : State) : State :=
  match settling s with
  | none => s
  | some env => settleAs (s.modPwr fun w => { w with resetAfter := none }) s.gov.slot env
def execTickMasterSettleTimeout (s : State) : Host.Outcome State Fault Refusal := .next (settleTimeout s)

/-- IDENT, and what the settled flag of the lowest-strap peer lets go on (R270 item 3). -/
def identCmd (s : State) (n : Nat) (slot : BitVec 3) (serial : BitVec 64) (settled : Option (BitVec 3)) (eng : Bool)
    (chain sig : List Byte) : State :=
  let s := identIn s n slot serial settled eng chain sig
  match settling s with
  | none => s
  | some env =>
    if settled.isSome ∧ (trainedPeers s).all (fun p => decide (slot.toNat ≤ p)) then
      settle (s.modPwr fun w => { w with resetAfter := none }) env
    else s
def execIdent (port : PortN) (slot : BitVec 3) (serial : BitVec 64) (settled : Option (BitVec 3)) (engChain : Bool)
    (chain sig : List Byte) (s : State) : Host.Outcome State Fault Refusal := .next (identCmd s port slot serial settled engChain chain sig)

/-- Step 7: PD20 and PD21; the ports train; the tick master is settled. -/
def step7 (s : State) (env : StartEnv) : State :=
  let s := power (atStep9 s 7) 0x300000 true
  let s := (List.range 7).foldl beginTraining s
  settle (env.ports.foldl portUp s) env

/-- Fewest good macros that R3 guarantees: in a core and in the module. -/
def guaranteeHolds (s : State) : Bool := decide (960 ≤ goodMin s) && decide (1269760 ≤ 1310720 - (badMacros s).length)

/-- Step 6: BIST, the runtime good-macro map with the hard-failing list (R82, R83, R99); the group domains go off again. -/
def step6 (s : State) (env : StartEnv) : State :=
  let s := power (atStep9 s 6) (0x800000 ||| groupDomains) true
  let bad := (s.fused ++ env.badMacros ++ s.err.hardFail).filter fun m => decide (m < 1310720)
  let s := { s with macros := bad.foldl (fun l m => sput MacroSt.fresh l m { MacroSt.fresh with bad := true }) [] }
  if !guaranteeHolds s then startFail s 6 1493 4
  else if !env.cacheOk then startFail s 6 1480 7
  else step7 (power s groupDomains false) env

/-- Step 5: PD18 and PD19; channels trained; every page entry FREE (R186). -/
def step5 (s : State) (env : StartEnv) : State :=
  let s := power (atStep9 s 5) 0x0C0000 true
  match env.badChannel with
  | some c => startFail s 5 (1280 + c.val) 7
  | none => step6 { s with pages := [], stack := [] } env

/-- Step 4: the root PLL; tick counter 0, level 0, committed currents 0 (R299). -/
def step4 (s : State) (env : StartEnv) : State :=
  let s := atStep9 s 4
  if !env.pllOk then startFail s 4 1493 8
  else
    let s := s.modGov fun g => { g with now := 0, running := true, locked := true, level := 0, parts := [] }
    step5 (s.modPwr fun w => { w with rootLock := true, onRef := false, refOk := true }) env

/-- Step 3: Rosemary, PD1, and the per-boot tree alongside (R420, R423). -/
def step3 (s : State) (env : StartEnv) : State :=
  let s := atStep9 s 3
  if !env.rosemaryOk then startFail s 3 1493 8
  else
    let s := power s 2 true
    if !s.sage.topLeft then step4 s env
    else if s.sage.flashGood then step4 { s with sage := s.sage.certify } env
    else sensorEvent s 3

/-- Step 2: fuses against their complements, then the firmware image (R424, R425). -/
def step2 (s : State) (env : StartEnv) : State :=
  let s := atStep9 s 2
  let image := if s.sys.flashBad then 4 else env.image
  if !env.fuseOk then sensorEvent s 4
  else if image ≠ 0 then enterRecovery s env image
  else
    step3 (s.modSage fun g => { g with imageSvn := env.imageSvn, imageVersion := env.imageVersion, loaderVersion := env.loaderVersion,
                                       romDigest := env.romDigest, fwDigest := env.fwDigest, entropyOk := true, tokens := 0 }) env

/-- POWER_GOOD_RISE: cold start from step 1; the strap is read once (R525, R581). -/
def powerGoodRise (s : State) (env : StartEnv) : State :=
  if s.pwr.pwrgd then s
  else
    let s := s.cold
    let s := s.modPwr fun w => { w with pwrgd := true, perst := !env.perstHigh, refOk := true }
    let s := atStep9 (s.modGov fun g => { g with slot := env.slot }) 1
    if !env.selfTestOk then sensorEvent s 5 else step2 s env
def execPowerGoodRise (env : StartEnv) (s : State) : Host.Outcome State Fault Refusal := .next (powerGoodRise s env)

/-- POWER_GOOD_LOSS: nothing but fuses and flash survives; every other event of the tick is discarded (R521). -/
def powerGoodLoss (s : State) : State :=
  if !s.pwr.pwrgd then s else discardIn (s.cold.modPwr fun w => { w with on := 0 }) .module
def execPowerGoodLoss (s : State) : Host.Outcome State Fault Refusal := .next (powerGoodLoss s)

/-! ### Module reset -/

/-- A module reset begins: the module is in BOOT, its jobs and sessions are gone, zeroisation is under way; start-up follows
ZEROISATION_COMPLETE (R523, R538). During a Parsley zeroisation it waits for that one's end. -/
def moduleReset (s : State) (env : StartEnv) (cause : BitVec 3) : State :=
  let s := s.modPwr fun w => { w with resetAfter := some env, rstCause := cause, rstCount := satAdd w.rstCount 1 }
  let s := if s.sys.fwUpdate = 1 ∨ s.sys.recBusy then s.modSys fun y => { y with fwUpdate := 0, recBusy := false, flashBad := true } else s
  let s := (s.modCxl fun x => { x with up := false, width := 0, rate := 0, flit := false, ide := false })
  if s.parsley ∧ s.sage.zeroising.isSome then s
  else
    let s := (List.range 8).foldl (fun s p => endJobNow s p .empty St.disabled .idle) s
    discardIn ((zeroise s 4).modSys fun y => { y with state := 0, step := 2 }) .module

/-- PERST_ASSERT: a module reset once step 8 has begun, or in recovery and off (R523; log 71). -/
def perstAssert (s : State) (env : StartEnv) : State :=
  if !s.pwr.pwrgd ∨ s.pwr.perst then s
  else
    let s := (List.range 8).foldl (fun s i => disableBox s (16 + i)) (s.modPwr fun w => { w with perst := true })
    if s.sys.state = 0 ∧ s.sys.step.toNat < 8 then s else moduleReset s env 1
def execPerstAssert (env : StartEnv) (s : State) : Host.Outcome State Fault Refusal := .next (perstAssert s env)

/-- PERST_DEASSERT: a start-up that waits in step 8 goes on with the link as it trains (R526). -/
def perstDeassert (s : State) (link : Option LinkCfg) : State :=
  let s := s.modPwr fun w => { w with perst := false }
  match if s.sys.state = 0 ∧ s.sys.step = 8 ∧ s.sage.zeroising.isNone then s.pwr.resetAfter else none with
  | none => s
  | some env => step8 (s.modPwr fun w => { w with resetAfter := none }) { env with cxl := link }
def execPerstDeassert (cxl : Option LinkCfg) (s : State) : Host.Outcome State Fault Refusal := .next (perstDeassert s cxl)

/-- RST_MODULE written as a pair; during flash programming the reset waits for its end (R524, R568). -/
def rstModule (s : State) (v c : W32) (env : StartEnv) : State :=
  if v.getLsbD 0 = c.getLsbD 0 then pairBad s 0x01800020
  else
    let s := s.modPwr fun w => { w with rst := Paired.of (v.extractLsb' 0 1) }
    if !v.getLsbD 0 ∨ !s.pwr.pwrgd then s
    else if s.sys.fwUpdate = 1 then s.modPwr fun w => { w with resetAfter := some env }
    else moduleReset s env 2

/-- Ports of the powered-off domains are down with kind 6 (Table 16-4). -/
def portsOff (s : State) (ns : List Nat) : State := ns.foldl (fun s n => portDown s n 6) s

/-- The completion that a zeroisation owes. -/
def finishZero (s : State) : State :=
  match s.sage.zeroVia with
  | none => s
  | some (via, cmd) => finish (s.modSage fun g => { g with zeroVia := none }) via cmd 0 St.ok 0 []

/-- ZEROISATION_COMPLETE (R446, R533, R536, R537, R450): a controlled power-off first waits for the jobs' tile boundaries. -/
def zeroisationComplete (s : State) : State :=
  match s.sage.zeroising with
  | none => s
  | some k =>
    if k = 5 ∧ (List.range 8).any (fun p => (s.part p).running.isSome) then s
    else
      let s := if k = 5 then clearOut s 5 else s
      let s := power (s.modSage fun g => { g with zeroising := none }) groupDomains false
      match s.pwr.resetAfter with
      | some env => step2 s.warm env
      | none =>
        match k.toNat with
        | 1 => portsOff (power (finishZero s) 0xB00002 false) (List.range 7)
        | 3 => finishZero (s.modSage fun g => { g with testScope := g.debug })
        | 5 =>
          let s := portsOff s (List.range 7)
          let s := s.modCxl fun x => { x with up := false, width := 0, rate := 0, flit := false, ide := false }
          finishZero ((s.modPwr fun w => { w with on := 1 }).modSys fun y => { y with state := 5 })
        | _ => finishZero s
def execZeroisationComplete (s : State) : Host.Outcome State Fault Refusal := .next (zeroisationComplete s)

/-! ### Firmware programming and recovery (R529 to R531) -/

/-- FW_PROGRAM_COMPLETE: read-back compared; then a reset that waited for it runs. -/
def fwProgramComplete (s : State) (ok : Bool) : State :=
  if s.sys.fwUpdate ≠ 1 then s
  else
    let st := if ok then St.ok else St.internal
    let via := s.sys.fwVia
    let s := s.modSys fun y => { y with fwUpdate := if ok then 2 else 0, fwStatus := st, flashBad := !ok, fwVia := none }
    let s := match via with | none => s | some v => finish s v 9 0 st 0 []
    match if s.sage.zeroising.isNone && s.sys.state != 0 then s.pwr.resetAfter else none with
    | none => s
    | some env => moduleReset s env 2
def execFwProgramComplete (readBackOk : Bool) (s : State) : Host.Outcome State Fault Refusal := .next (fwProgramComplete s readBackOk)

/-- Bytes of the recovery window. -/
def recoveryImage (s : State) : List Byte :=
  ((List.range ((s.sys.recLen.toNat + 3) / 4)).flatMap fun i => leBytes 4 (sget 0 s.sys.recWin i).toNat).take s.sys.recLen.toNat

/-- SYS_RECOVERY.COMMIT: verification under R424, then programming. -/
def recoveryCommit (s : State) : State :=
  if s.sys.state ≠ 3 ∨ s.sys.recBusy then s
  else
    let st := if s.sys.recLen = 0 ∨ 33554432 < s.sys.recLen.toNat then St.badFormat else fwCheck s (recoveryImage s)
    s.modSys fun y => { y with recPos := 0, recBusy := st == St.ok, recStatus := if st = St.ok then St.accepted else st }

/-- SYS_RECOVERY_DATA appends 4 bytes to the window (R531). -/
def recoveryData (s : State) (w : W32) : State :=
  if s.sys.state ≠ 3 ∨ 8388608 ≤ s.sys.recPos then s
  else s.modSys fun y => { y with recWin := sput 0 y.recWin y.recPos w, recPos := y.recPos + 1 }

/-- RECOVERY_PROGRAM_COMPLETE: on a good read-back a module reset follows, else INTERNAL and the module stays in recovery. -/
def recoveryProgramComplete (s : State) (ok : Bool) (env : StartEnv) : State :=
  if s.sys.state ≠ 3 ∨ !s.sys.recBusy then s
  else
    let s := s.modSys fun y => { y with recBusy := false, recStatus := if ok then St.ok else St.internal, flashBad := !ok }
    if ok then moduleReset s env 3 else s
def execRecoveryProgramComplete (readBackOk : Bool) (env : StartEnv) (s : State) : Host.Outcome State Fault Refusal :=
  .next (recoveryProgramComplete s readBackOk env)

/-! ### Domains, clocks (R519, R520, R522) -/

/-- PWR_CTRL refusals of R519; a doorbell waiting at a Dill receiver holds PD1 (Table 17-6). -/
def switchBusy (s : State) (bit : Nat) : Bool :=
  let anyPart := (List.range 8).any fun p => (s.part p).st != 0
  let port (q : Part) : List Nat :=
    (if q.dp.dp.v.getLsbD 6 then (List.range ((q.dp.dp.v.extractLsb' 3 3).toNat + 1)).filterMap fun r =>
        if r = (q.dp.dp.v.extractLsb' 0 3).toNat then none else some (q.dp.ports.v.extractLsb' (3 * r) 3).toNat else []) ++
    (if q.dp.buddy.v.getLsbD 0 && q.dp.buddy.v.getLsbD 1 then [(q.dp.buddy.v.extractLsb' 2 3).toNat] else []) ++
    (if q.pipe.v.getLsbD 7 && q.pipe.v.getLsbD 6 then [(q.pipe.v.extractLsb' 3 3).toNat] else [])
  let named (lo hi : Nat) : Bool := (List.range 8).any fun p => (port (s.part p)).any fun n => decide (lo ≤ n) && decide (n < hi)
  match bit with
  | 0 => anyPart || s.ctxs.any (fun e => e.2.state != 0) ||
         (List.range 16).any fun i => (s.mbox (24 + i)).pending || (s.mbox (24 + i)).waking
  | 1 => named 0 4
  | 2 => named 4 7
  | _ => (List.range 8).any fun p => (s.part p).live.ways.v != 0

/-- Domain of a PWR_CTRL bit, and the bit's state. -/
def switchDomain : Nat → BitVec 24
  | 0 => 0x000002 | 1 => 0x100000 | 2 => 0x200000 | _ => 0x800000
def Pwr.ctrl (w : Pwr) : Nat → Bool
  | 0 => w.pd1 | 1 => w.pd20 | 2 => w.pd21 | _ => w.pd23
/-- Bit of PWR_CTRL set. -/
def Pwr.setCtrl (w : Pwr) (bit : Nat) (v : Bool) : Pwr :=
  match bit with
  | 0 => { w with pd1 := v } | 1 => { w with pd20 := v } | 2 => { w with pd21 := v } | _ => { w with pd23 := v }

/-- One bit of a PWR_CTRL write. -/
def switchOne (v : W32) (s : State) (bit : Nat) : State :=
  let want := v.getLsbD bit
  if s.pwr.ctrl bit = want then s
  else if !want && switchBusy s bit then s.modPwr fun w => { w with ctrlStatus := St.busy }
  else
    let s := (power s (switchDomain bit) want).modPwr fun w => w.setCtrl bit want
    let ports := match bit with | 1 => [0, 1, 2, 3] | 2 => [4, 5, 6] | _ => []
    if want then ports.foldl beginTraining s
    else if bit = 3 then { s with lines := [], cacheBytes := [] }
    else portsOff s ports

/-- POWER_DOMAIN_SWITCH: a write of PWR_CTRL. -/
def domainSwitch (s : State) (v : W32) : State :=
  (List.range 4).foldl (switchOne v) (s.modPwr fun w => { w with ctrlStatus := St.ok })

/-- Rail fault of a group: its partition resets, unless a release already holds the group; a pending commit that adds the group
is withdrawn (R520, Table 17-6). -/
def groupRail (s : State) (d g : Nat) : State :=
  let p := partOfGroup s g
  let live : Bool := match p with | none => false | some q => (s.part q).st != 3
  let s := s.modGroup g fun x => { x with railOff := true }
  let s := recordNow s { kind := 0x0D, cls := 1, status := St.internal, scope := .partition (p.getD 255), source := d, detail := d, detail2 := g,
                         parsley := false, reset := live }
  let withdrawn : Bool := match s.commit.pending with
    | none => false
    | some (mask, _) => (List.range 8).any fun q => mask.getLsbD q && (s.part q).shadow.groups.v.getLsbD g && !(s.part q).live.groups.v.getLsbD g
  let s := if withdrawn then { s with commit := { s.commit with pending := none, busy := false, status := St.noResource } } else s
  match p with
  | some q => if live then discardIn (partitionReset s q St.internal) (.partition q) else s
  | none => s

/-- RAIL_FAULT of a powered domain, class 1 (Table 17-1, R520, R583). -/
def railFault (s : State) (d : Nat) : State :=
  if !s.pwr.on.getLsbD d then s
  else
    let s := s.modPwr fun w => { w with fault := w.fault ||| (1#24 <<< d) }
    if d = 0 then sensorEvent s 0
    else
      let s := power s (1#24 <<< d) false
      if d = 1 ∨ d = 18 ∨ d = 19 ∨ d = 23 then
        let s := recordNow s { kind := 0x18, cls := 1, status := St.degraded, scope := .module, source := d, detail := d, detail2 := 0,
                               parsley := true, reset := false }
        enterParsley (discardIn s .module) 6 d
      else if d < 18 then groupRail s d (d - 2)
      else if d = 20 then portsOff s [0, 1, 2, 3]
      else if d = 21 then portsOff s [4, 5, 6]
      else linkDown s
def execRailFault (domain : Fin 24) (s : State) : Host.Outcome State Fault Refusal := .next (railFault s domain)

/-- PARTITION_RESET by Rosemary with the status of its cause (R524). -/
def execPartitionReset (p : PartN) (status : Status) (s : State) : Host.Outcome State Fault Refusal :=
  .next (unlessDiscarded s (.partition p) fun s => if (s.part p).st = 0 then s else discardIn (partitionReset s p status) (.partition p))

/-- CLK_STATUS bits [3:0]. -/
def Pwr.clkBits (w : Pwr) : Nat :=
  (if w.rootLock then 1 else 0) + (if w.onRef then 2 else 0) + (if w.onOsc then 4 else 0) + (if w.refOk then 8 else 0)

/-- The tick network is at fault (R263, R522): record, Parsley with cause 1. -/
def clockLoss (s : State) (f : Pwr → Pwr) : State :=
  if !s.gov.running ∨ !s.pwr.rootLock then s.modPwr fun w => { (f w) with losses := w.losses }
  else
    let s := (s.modPwr fun w => { (f w) with losses := satAdd w.losses 1 }).modGov fun g => { g with locked := false }
    let s := recordNow s { kind := 0x14, cls := 4, status := St.degraded, scope := .module, source := 1493, detail := s.pwr.clkBits,
                           detail2 := 0, parsley := true, reset := false }
    enterParsley s 1 1493

/-- ROOT_PLL_LOCK_LOSS: PD0's units return to the reference. -/
def rootPllLoss (s : State) : State :=
  if s.pwr.rootLock then clockLoss s fun w => { w with rootLock := false, onRef := true } else s
def execRootPllLockLoss (s : State) : Host.Outcome State Fault Refusal := .next (rootPllLoss s)

/-- REFERENCE_LOSS: PD0's units run from the internal oscillator. -/
def referenceLoss (s : State) : State :=
  if s.pwr.refOk then clockLoss s fun w => { w with rootLock := false, refOk := false, onRef := false, onOsc := true } else s
def execReferenceLoss (s : State) : Host.Outcome State Fault Refusal := .next (referenceLoss s)

/-- REFERENCE_RESTORED: the units run from the reference again; Parsley stays until a reset (R522, R535). -/
def execReferenceRestored (s : State) : Host.Outcome State Fault Refusal :=
  .next (if s.pwr.refOk then s else s.modPwr fun w => { w with refOk := true, onOsc := false, onRef := true })

/-! ### Watchdogs and life counters -/

/-- Do the watchdogs run (R545)? -/
def watchdogsRun (s : State) : Bool := s.sys.state == 1 || s.sys.state == 2 || s.sys.state == 4

/-- DILL_WATCHDOG_EXPIRY. -/
def dillWatchdog (s : State) (p : Nat) : State :=
  if !watchdogsRun s ∨ !s.pwr.on.getLsbD 1 then s
  else
    let s := recordNow s { kind := 0x0C, cls := 4, status := St.internal, scope := .partition p, source := 1484 + p, detail := p, detail2 := 0,
                           parsley := false, reset := true }
    partitionReset s p St.internal
def execDillWatchdogExpiry (p : PartN) (s : State) : Host.Outcome State Fault Refusal :=
  .next (unlessDiscarded s (.partition p) fun s => dillWatchdog s p)

/-- ROSEMARY_WATCHDOG_EXPIRY. -/
def rosemaryWatchdog (s : State) : State :=
  if !watchdogsRun s then s
  else
    let s := recordNow s { kind := 0x17, cls := 4, status := St.degraded, scope := .module, source := 1493, detail := 0, detail2 := 0,
                           parsley := true, reset := false }
    enterParsley s 8 1493
def execRosemaryWatchdogExpiry (s : State) : Host.Outcome State Fault Refusal := .next (rosemaryWatchdog s)

/-- LIFE_HOUR_UPDATE: an hour of powered time whose hottest junction reading was `celsius` (R556). -/
def lifeHour (s : State) (celsius : Nat) : State :=
  if !s.pwr.pwrgd then s
  else
    let s := s.modErr fun e =>
      { e with hours := e.hours + 1, equiv := e.equiv + (if 100 < celsius then 4 else if 95 < celsius then 2 else 1),
               hot := if 95 < celsius then e.hot + 1 else e.hot }
    if 87660 ≤ s.err.equiv.toNat then raiseAlert s 7 else s
def execLifeHourUpdate (celsius : Nat) (s : State) : Host.Outcome State Fault Refusal := .next (lifeHour s celsius)

/-- Pair latches that have held one half for 1,024 ticks clear with KIND 2 (R569). -/
def dropOrphans (s : State) : State :=
  let old (l : Nat × Bool × W32 × Nat) : Bool := decide (l.2.2.2 + 1024 ≤ s.tick)
  let gone := s.sys.latches.filter old
  let s := s.modSys fun y => { y with latches := y.latches.filter fun l => !old l }
  gone.foldl (fun s (l : Nat × Bool × W32 × Nat) => s.modSys fun y =>
    let y := { y with pairOrphan := satAdd y.pairOrphan 1 }
    if y.pairValid then y else { y with pairOff := BitVec.ofNat 26 (l.1 / 4), pairKind := 2, pairValid := true }) s

/-- PAIR_LATCH_TIMEOUT: the half that has stood alone longest has done so for 1,024 ticks. -/
def latchTimeout (s : State) : State :=
  match s.sys.latches with
  | [] => s
  | (_, _, _, t) :: _ => dropOrphans (s.advance (32 * (t + 1024)))
def execPairLatchTimeout (s : State) : Host.Outcome State Fault Refusal := .next (latchTimeout s)

end Sys2Proof.Machine
end

