-- ==== Sys2Proof/Machine/Registers.lean ====
section
/-! DEFINITION. The register map (chapter 19): values of all registers, reads with their side effects, writes by access code,
pair latches, the access log, and the commands that are writes of one register. -/

namespace Sys2Proof.Machine

/-- A register word from the sum of its fields. -/
def w32 (n : Nat) : W32 := BitVec.ofNat 32 n
/-- A bit as a number. -/
def bit (b : Bool) : Nat := if b then 1 else 0
/-- Low and high half of a 64-bit value. -/
def lo64 (v : BitVec 64) : W32 := v.extractLsb' 0 32
def hi64 (v : BitVec 64) : W32 := v.extractLsb' 32 32
/-- Word `k` of a byte list, little-endian. -/
def wordAt (bs : List Byte) (k : Nat) : W32 := w32 (fieldAt bs (4 * k) 4)

/-! ### Values of the blocks (Table 19-10) -/

/-- SYS (Tables 17-7, 19-4). -/
def sysReg (s : State) (off : Nat) : Option W32 :=
  let y := s.sys
  match off with
  | 0x00 => some (w32 (y.state.toNat + 8 * (if y.state = 0 then y.step.toNat else 0) + 128 * bit s.pwr.perst))
  | 0x04 => some (w32 (y.parCause.toNat + 16 * y.parSource.toNat))
  | 0x08 => some (lo64 y.parTick)
  | 0x0C => some (hi64 y.parTick)
  | 0x10 => some (w32 (2 * bit y.recBusy + 4 * y.recStatus.toNat + 1024 * y.recCause.toNat))
  | 0x14 => some (y.recLen.setWidth 32)
  | 0x18 => some 0
  | 0x1C => some (w32 (y.fwUpdate.toNat + 4 * y.fwStatus.toNat))
  | 0x20 => some (w32 (y.accOff.toNat + 2 ^ 26 * y.accKind.toNat + 2 ^ 28 * bit (y.accOrigin == 1) + 2 ^ 29 * bit y.accWrite +
                       2 ^ 30 * bit (y.accOrigin == 2) + 2 ^ 31 * bit y.accValid))
  | 0x24 => some y.accCount
  | 0x28 => some (w32 (y.pairOff.toNat + 2 ^ 26 * y.pairKind.toNat + 2 ^ 31 * bit y.pairValid))
  | 0x2C => some (w32 (y.pairMismatch.toNat + 2 ^ 16 * y.pairOrphan.toNat))
  | _ => none

/-- FEAT (R260, Table 19-5). -/
def featBlock (s : State) (off : Nat) : Option W32 :=
  if off < 0x1100 then some (featReg s ((off - 0x1000) / 4))
  else match off with
    | 0x1100 => some (lo64 s.sage.serial)
    | 0x1104 => some (hi64 s.sage.serial)
    | 0x1108 => some s.sage.imageVersion
    | 0x110C => some s.sage.loaderVersion
    | _ => none

/-- MGMT command block (Table 19-6). -/
def mgmtReg (s : State) (off : Nat) : Option W32 :=
  match off with
  | 0x2000 => some s.sys.mgmtCmd
  | 0x2004 => some 0
  | 0x2008 => some (w32 (s.sys.mgmtStatus.toNat + 256 * bit s.sys.mgmtBusy + 2 ^ 16 * s.sys.mgmtLen.toNat))
  | _ => if 0x2400 ≤ off ∧ off < 0x4000 then some (sget 0 s.sys.mgmtBuf ((off - 0x2400) / 4)) else none

/-- SAGE (Table 13-14). -/
def sageReg (s : State) (off : Nat) : Option W32 :=
  let g := s.sage
  match off with
  | 0x8000 => some (w32 ((g.debug).toNat + 4 * bit g.entropyOk + 8 * bit g.signOk + 256 * g.lastSensor.toNat + 4096 * bit g.sensorValid))
  | 0x8004 => some (w32 (g.blown.toNat + 256 * g.imageSvn.toNat))
  | 0x8008 => some (g.topNext.setWidth 32)
  | 0x800C => some (w32 (g.leaves.toNat + 2 ^ 16 * g.tokens.toNat))
  | 0x8010 => some (w32 ((49152 - (s.ctxs.filter fun e => e.2.state != 0).length) +
                         2 ^ 16 * (g.tenants.filter fun e => e.2.cred.isSome).length))
  | 0x8014 => some (w32 (g.sessions.filter fun e => e.2.up).length)
  | 0x8018 => some (w32 (g.deniedPort.toNat + 2 ^ 16 * g.deniedAuth.toNat))
  | 0x801C => some g.busy
  | _ => none

/-- TICK (Table 8-9). -/
def tickReg (s : State) (off : Nat) : Option W32 :=
  let g := s.gov
  match off with
  | 0x100000 => some (lo64 s.tick64)
  | 0x100004 => some (hi64 s.tick64)
  | 0x100008 => some (w32 (bit g.running + 2 * bit g.locked + 4 * bit g.master + 8 * bit g.aligned + 16 * g.level +
                           256 * tickLen g.level + 2 ^ 16 * g.slot.toNat))
  | 0x10000C => some (w32 (g.loadC.toNat + 2 ^ 16 * g.residC.toNat))
  | _ => none

/-- GRANT_Q and REMAIN_T of partition p's grant in force (Table 8-10). -/
def grantWord (s : State) (p : Nat) : W32 :=
  match s.gov.grants.find? fun g => g.borrower == p && decide (g.fromTick ≤ s.tick) && decide (s.tick < g.endTick) with
  | none => 0
  | some g => w32 (g.amounts.foldl (fun a b => a + b) 0 + 2 ^ 14 * (g.endTick - s.tick))

/-- GOV (Table 8-10). -/
def govReg (s : State) (off : Nat) : Option W32 :=
  let g := s.gov
  let r := off - 0x101000
  if 0x10 ≤ r ∧ r < 0x50 then
    let q := s.govPart ((r - 0x10) / 8)
    some (if r % 8 = 0 then w32 (q.committed + 2 ^ 14 * q.held) else w32 (q.clamped.toNat + 2 ^ 16 * q.scaled.toNat))
  else if 0x80 ≤ r ∧ r < 0xA0 then some (grantWord s ((r - 0x80) / 4))
  else match r with
    | 0x00 => some (w32 (g.level + 16 * moduleCurrent s + 2 ^ 18 * bit g.trip))
    | 0x04 => some (g.floor.setWidth 32)
    | 0x08 => some (g.lend.v.setWidth 32)
    | 0x0C => some (g.lend.n.setWidth 32)
    | 0x50 => some (w32 (g.faultCore.toNat + 2 ^ 11 * g.faultPart.toNat + 2 ^ 14 * g.faultK.toNat + 2 ^ 18 * g.faultCause.toNat +
                         2 ^ 31 * bit g.faultValid))
    | 0x54 => some (lo64 g.faultTick)
    | 0x58 => some (hi64 g.faultTick)
    | _ => none

/-- The registers of a live or shadow set at +0x010 to +0x077 (Table 10-2). -/
def setReg (r : ResSet) (off : Nat) : Option W32 :=
  let share (v : BitVec 48) (f : Nat) : W32 := w32 ((v.extractLsb' (12 * f) 12).toNat + 2 ^ 16 * (v.extractLsb' (12 * f + 12) 12).toNat)
  if 0x20 ≤ off ∧ off < 0x38 then some (r.chans.v.extractLsb' (8 * (off - 0x20)) 32)
  else if 0x40 ≤ off ∧ off < 0x58 then some (r.chans.n.extractLsb' (8 * (off - 0x40)) 32)
  else match off with
    | 0x10 => some (r.groups.v.setWidth 32)
    | 0x14 => some (r.groups.n.setWidth 32)
    | 0x18 => some r.ways.v
    | 0x1C => some r.ways.n
    | 0x60 => some (share r.share.v 0)
    | 0x64 => some (share r.share.v 2)
    | 0x68 => some (share r.share.n 0)
    | 0x6C => some (share r.share.n 2)
    | 0x70 => some (r.slew.v.setWidth 32)
    | 0x74 => some (r.slew.n.setWidth 32)
    | _ => none

/-- PTN_IMAGEn, _T and _CERT at +0x310 + 0x10 n. -/
def imageReg (g : Img) (k : Nat) : Option W32 :=
  match k with
  | 0 => some (w32 (g.st.code + 256 * g.last.toNat))
  | 4 => some (match g.info with | none => 0 | some x => w32 (x.saveT.toNat + 2 ^ 16 * x.restoreT.toNat))
  | 8 => some (match g.info with | none => 0 | some x => w32 (x.peakQ.toNat + 2 ^ 12 * x.slewQ.toNat))
  | _ => none

/-- Registers of partition p at offset `off` of its 4 KiB (Tables 3-6, 10-2, 11-11, 12-7). -/
def ptnReg (s : State) (p off : Nat) : Option W32 :=
  let q := s.part p
  if 0x010 ≤ off ∧ off < 0x100 then setReg q.live off
  else if 0x110 ≤ off ∧ off < 0x200 then setReg q.shadow (off - 0x100)
  else if 0x310 ≤ off ∧ off < 0x330 then imageReg (q.image ((off - 0x310) / 16)) (off % 16)
  else match off with
    | 0x000 => some (w32 (q.st.toNat + 4 * bit (q.shadow != q.live)))
    | 0x200 => some (q.integ.scrub.setWidth 32)
    | 0x204 => some (w32 (bit q.integ.guard))
    | 0x208 => some (w32 (q.integ.auditMin.toNat + 2 ^ 17 * bit (auditBusy s p) + 2 ^ 18 * bit q.integ.cimMis + 2 ^ 19 * bit q.integ.srcMis))
    | 0x300 => some 0
    | 0x340 => some q.lastPause
    | 0x400 => some (q.dill.chunk.setWidth 32)
    | 0x404 => some (w32 ((q.dill.reqs.filter fun r => !r.started).length % 65536 +
                          2 ^ 16 * ((q.dill.reqs.filter fun r => !r.staged).length % 4096)))
    | 0x408 => some q.baseEpoch.v
    | 0x40C => some q.baseEpoch.n
    | 0x410 => some (q.pipe.v.setWidth 32)
    | 0x414 => some (q.pipe.n.setWidth 32)
    | 0x420 => some (w32 (q.idleRows.toNat + 2 ^ 12 * q.mode.toNat))
    | 0x424 => some (q.dp.buddy.v.setWidth 32)
    | 0x428 => some (q.dp.buddy.n.setWidth 32)
    | 0x42C => some (q.dp.dp.v.setWidth 32)
    | 0x430 => some (q.dp.dp.n.setWidth 32)
    | 0x434 => some (q.dp.ports.v.setWidth 32)
    | 0x438 => some (q.dp.ports.n.setWidth 32)
    | 0x43C => some (w32 (q.dp.live.toNat + 2 ^ 8 * q.dp.leader.toNat + 2 ^ 11 * bit q.dp.left + 2 ^ 16 * q.dp.dropped.toNat))
    | 0x440 => some (w32 (q.ckpt.state.toNat + 4 * bit q.ckpt.gen + 8 * bit q.ckpt.genOk + 16 * bit q.ckpt.abandoned + 32 * q.ckpt.cause.toNat))
    | 0x444 => some q.ckpt.t
    | 0x448 => some (q.ckpt.left.setWidth 32)
    | _ => none

/-- PTN commit block (Table 10-2). -/
def commitReg (s : State) (off : Nat) : Option W32 :=
  let k := s.commit
  match off with
  | 0x208000 => some (k.req.v.setWidth 32)
  | 0x208004 => some (k.req.n.setWidth 32)
  | 0x208008 => some (w32 (k.status.toNat + 256 * k.part.toNat + 2048 * bit k.busy))
  | 0x208010 => some (lo64 k.tick)
  | 0x208014 => some (hi64 k.tick)
  | _ => none

/-- CTX (Table 11-12). -/
def ctxReg (s : State) (off : Nat) : Option W32 :=
  let x := s.ctx s.ctxSel.toNat
  let count (p : Nat) (f : BitVec 3 → Bool) : Nat := (s.ctxs.filter fun e => e.2.part.toNat == p && f e.2.state).length
  if 0x300020 ≤ off ∧ off < 0x300040 then
    let p := (off - 0x300020) / 4
    some (w32 (count p (fun st => decide (1 ≤ st.toNat) && decide (st.toNat ≤ 4)) + 2 ^ 16 * count p (fun st => st == 3)))
  else match off with
    | 0x300000 => some (s.ctxSel.setWidth 32)
    | 0x300004 => some (w32 (x.state.toNat + 8 * x.kind.toNat + 32 * x.part.toNat + 256 * (ownedSnaps s s.ctxSel.toNat).length))
    | 0x300008 => some (w32 (x.tenant.v.toNat + 2 ^ 16 * pinsOf s s.ctxSel))
    | 0x30000C => some x.epoch.v
    | 0x300010 => some (w32 (49152 - (s.ctxs.filter fun e => e.2.state != 0).length))
    | _ => none

/-- BAY_PENDING of the 32 mailboxes from `base`. -/
def pendingMask (s : State) (base : Nat) : W32 :=
  w32 ((List.range 32).foldl (fun a n => a + if (s.mbox (base + n)).pending then 2 ^ n else 0) 0)
/-- BAY module registers, as endpoint 1 reads them (Table 14-7). -/
def bayReg (s : State) (off : Nat) : Option W32 :=
  match off with
  | 0x404000 => some (pendingMask s 0)
  | 0x404004 => some 0
  | 0x404008 => some s.bayViol
  | _ => none

/-- CXL (Table 15-6). -/
def cxlReg (s : State) (off : Nat) : Option W32 :=
  let x := s.cxl
  let r := off - 0x800000
  if 0x100 ≤ r ∧ r < 0x180 then
    let a := sget Area.fresh x.areas ((r - 0x100) / 8)
    some (if r % 8 = 0 then w32 (a.first.toNat + 2 ^ 20 * a.part.toNat + 2 ^ 23 * bit a.exportA + 2 ^ 31 * bit a.valid) else w32 a.len)
  else match r with
    | 0x00 => some (w32 (x.width.toNat + 32 * x.rate.toNat + 256 * bit x.flit + 512 * bit x.ide + 1024 * x.vfs.toNat))
    | 0x08 => some (w32 (x.errFrame.toNat + 2 ^ 20 * bit x.errWrite + 2 ^ 31 * bit x.errValid))
    | _ => none

/-- FNL_PORTn registers at +off (Table 16-6). -/
def portReg (p : Port) (off : Nat) : Option W32 :=
  let share (k : Nat) : Nat := (sget 0 p.shares k).toNat
  match off with
  | 0x00 => some (w32 (p.state.toNat + 4 * p.live.toNat + 16 * p.peer.toNat + 128 * bit p.toMaster + 256 * bit p.pending +
                       512 * bit p.blocked + 1024 * p.cause.toNat + 2 ^ 18 * p.downKind.toNat + 2 ^ 21 * bit p.shareErr))
  | 0x04 => some (lo64 p.serial)
  | 0x08 => some (hi64 p.serial)
  | 0x0C => some (w32 (p.replays.toNat + 2 ^ 16 * p.uncorr.toNat))
  | 0x10 => some p.corrected
  | 0x14 => some (p.delay.setWidth 32)
  | 0x18 => some p.reject
  | 0x1C => some (w32 (share 0 + 2 ^ 8 * share 1 + 2 ^ 16 * share 2 + 2 ^ 24 * share 3))
  | 0x20 => some (w32 (share 4 + 2 ^ 8 * share 5 + 2 ^ 16 * share 6 + 2 ^ 24 * share 7))
  | _ => none

/-- FNL (Table 16-6); the registers of a port whose domain is off read in Parsley as after reset (R570). -/
def fnlReg (s : State) (off : Nat) : Option W32 :=
  if 0xC00100 ≤ off ∧ off < 0xC002C0 then
    let n := (off - 0xC00100) / 64
    portReg (if s.parsley && !portPowered s n then Port.fresh else s.port n) (off % 64)
  else match off with
    | 0xC00000 => some (s.fnlMode.v.setWidth 32)
    | 0xC00004 => some (s.fnlMode.n.setWidth 32)
    | 0xC00008 => some 0
    | 0xC0000C => some 0
    | _ => none

/-- STK (Table 6-8). -/
def stkReg (s : State) (off : Nat) : Option W32 :=
  let m := s.mem
  let r := off - 0x1000000
  if 0x100 ≤ r ∧ r < 0x400 then
    let e := sget (0, 0) m.chErr ((r - 0x100) / 4)
    some (w32 (e.1.toNat + 2 ^ 16 * e.2.toNat))
  else if 0x400 ≤ r ∧ r < 0x700 then some (w32 (freeInChan s ((r - 0x400) / 4)))
  else match r with
    | 0x00 => some (w32 (m.qPage.toNat + 2 ^ 16 * m.qChan.toNat))
    | 0x04 => some (let g := m.qChan.toNat * 65536 + m.qPage.toNat
                    -- R186: start-up writes the entries, in step 5
                    if pageExists g && !(s.sys.state == 0 && decide (s.sys.step.toNat < 5)) then (s.page g).v else 0)
    | 0x08 => some (w32 (m.errChan.toNat + 256 * m.errPage.toNat + 2 ^ 31 * bit m.errValid))
    | _ => none

/-- ACH_OCCp: valid and pinned lines in the ways of a partition (Table 6-9). -/
def cacheWord (s : State) (p : Nat) : W32 :=
  let ways := (s.part p).live.ways.v
  let ls := s.lines.filterMap fun e => if ways.getLsbD (e.1 % 32) then e.2 else none
  let pinned := pinnedPages s p
  w32 (ls.length + 2 ^ 16 * (ls.filter fun l => pinned.contains l.gpage).length)

/-- ACH and CHV (Table 6-9). -/
def achReg (s : State) (off : Nat) : Option W32 :=
  let m := s.mem
  let r := off - 0x1400000
  if r < 0x40 then
    let p := r / 8
    let f := sget (0, 0) m.achFail p
    some (if r % 8 = 0 then cacheWord s p
          else if s.parsley && !s.pwr.on.getLsbD 23 then 0 else w32 (f.1.toNat + 2 ^ 16 * f.2.toNat))
  else match r with
    | 0x100 => some (w32 (m.chvCore.toNat + 2 ^ 11 * m.chvCh.toNat + 2 ^ 13 * m.chvStatus.toNat + 2 ^ 31 * bit m.chvValid))
    | 0x104 => some m.chvCount
    | _ => none

/-- PWR, CLK, RST (Table 17-8). -/
def pwrReg (s : State) (off : Nat) : Option W32 :=
  let w := s.pwr
  match off with
  | 0x1800000 => some (w.on.setWidth 32)
  | 0x1800004 => some (w.fault.setWidth 32)
  | 0x1800008 => some (w32 (bit w.pd1 + 2 * bit w.pd20 + 4 * bit w.pd21 + 8 * bit w.pd23))
  | 0x180000C => some (w.ctrlStatus.setWidth 32)
  | 0x1800010 => some (w32 (w.clkBits + 2 ^ 16 * w.losses.toNat))
  | 0x1800020 => some (w.rst.v.setWidth 32)
  | 0x1800024 => some (w.rst.n.setWidth 32)
  | 0x1800028 => some (w32 (w.rstCause.toNat + 2 ^ 16 * w.rstCount.toNat))
  | 0x180002C => some (w.rstPtn.setWidth 32)
  | _ => none

/-- Bytes of a fault record (Table 18-2). -/
def FaultRec.bytes (r : FaultRec) : List Byte :=
  leBytes 4 r.seq.toNat ++ leBytes 8 r.tick.toNat ++ leBytes 1 r.kind.toNat ++ leBytes 1 r.cls.toNat ++ leBytes 1 r.status.toNat ++
  leBytes 1 r.scope.toNat ++ leBytes 2 r.source.toNat ++ leBytes 1 r.part.toNat ++ leBytes 1 r.flags.toNat ++ leBytes 4 r.detail.toNat ++
  leBytes 4 r.detail2.toNat ++ [0, 0, 0, 0]

/-- ERR and the fault-record ring (Table 18-9, R548). -/
def errReg (s : State) (off : Nat) : Option W32 :=
  let e := s.err
  let r := off - 0x1C00000
  if 0x8000 ≤ r then some (wordAt (sget FaultRec.none e.ring ((r - 0x8000) / 32)).bytes ((r % 32) / 4))
  else if 0x40 ≤ r ∧ r < 0x60 then some (wordAt (sget FaultRec.none e.svc e.svcSel.toNat).bytes ((r - 0x40) / 4))
  else match r with
    | 0x00 => some e.head
    | 0x04 => some e.lost
    | 0x08 => some (e.alert.setWidth 32)
    | 0x0C => some (e.mask.setWidth 32)
    | 0x10 => some e.corrected
    | 0x14 => some e.hours
    | 0x18 => some e.equiv
    | 0x1C => some e.hot
    | 0x20 => some e.svcCount
    | 0x24 => some (e.svcSel.setWidth 32)
    | _ => none

/-- MINT registers of partition p (Table 5-6). -/
def mintReg (m : MintRegs) (k : Nat) : Option W32 :=
  match k with
  | 0x00 => some (w32 (m.rate.toNat + 2 ^ 31 * bit m.enable))
  | 0x04 => some m.thresh
  | 0x08 => some m.samples
  | 0x0C => some m.disagree
  | 0x10 => some m.skipped
  | _ => none

/-- Depth of an engine queue. -/
def depthOf (c : Core) (q : Nat) : Nat := (sget [] c.queues q).length
/-- STATE code of CORE_SEQ_STATUS. -/
def SeqState.code : SeqState → Nat
  | .idle => 0 | .running => 1 | .quiesced => 2 | .stopped => 3

/-- CORE_ID (Table 19-7). -/
def coreId (s : State) (c : Nat) : W32 :=
  let g := groupOf c
  w32 (c + 2 ^ 11 * fieldOf c + 2 ^ 13 * ((c % 320) / 16) + 2 ^ 18 * (c % 16) + 2 ^ 22 * g + 2 ^ 26 * bit (s.pwr.on.getLsbD (g + 2)) +
       match partOfGroup s g with | none => 0 | some p => 2 ^ 27 * p + 2 ^ 30)

/-- Per-core window (Tables 7-16, 19-7, 3-4, R573, R574). -/
def coreReg (s : State) (c off : Nat) : Option W32 :=
  let k := s.core c
  let on := s.pwr.on.getLsbD (groupOf c + 2)
  let live (v : W32) : Option W32 := some (if on then v else 0)
  if 0xC000 ≤ off ∧ off < 0xC080 then some (macroMapWord s c ((off - 0xC000) / 4))
  else match off with
    | 0x00 => live (w32 (k.st.code + 4 * k.pc.toNat + 2 ^ 16 * k.loops.length))
    | 0x04 => live (w32 (depthOf k 0 + 2 ^ 6 * depthOf k 1 + 2 ^ 12 * depthOf k 2 + 2 ^ 19 * depthOf k 3 + 2 ^ 26 * depthOf k 4))
    | 0x08 => live (w32 (k.fault.pc.toNat + 2 ^ 14 * k.fault.status.toNat + 2 ^ 22 * k.fault.cause.toNat + 2 ^ 31 * bit k.fault.valid))
    | 0x0C => live (lo64 k.fault.expTick)
    | 0x10 => live (hi64 k.fault.expTick)
    | 0x14 => live (lo64 k.fault.actTick)
    | 0x18 => live (hi64 k.fault.actTick)
    | 0x1C => live (w32 (k.fault.expCyc.toNat + 256 * k.fault.actCyc.toNat))
    | 0x20 => live (w32 k.segBase)
    | 0x24 => live (w32 (k.segBase / 2 ^ 32))
    | 0x100 => some (coreId s c)
    | 0xC080 => some (w32 (goodInCore s c))
    | 0xC084 => live (w32 (k.par.macroIx.toNat + 2 ^ 10 * k.par.row.toNat + 2 ^ 18 * k.par.quarter.toNat + 2 ^ 20 * bit k.par.scale +
                           2 ^ 21 * bit k.par.guard + 2 ^ 31 * bit k.par.valid))
    | 0xC088 => live (w32 (k.par.parity.toNat + 2 ^ 16 * k.par.guardN.toNat))
    | _ => none

/-- Value of the PF0 BAR0 register that stands at a word-aligned offset; none where no register stands there (Table 19-1, R562).
The mailboxes stand apart (`bayRead`). -/
def regValue (s : State) (off : Nat) : Option W32 :=
  if off < 0x30 then sysReg s off
  else if 0x1000 ≤ off ∧ off < 0x1110 then featBlock s off
  else if 0x2000 ≤ off ∧ off < 0x4000 then mgmtReg s off
  else if 0x8000 ≤ off ∧ off < 0x8020 then sageReg s off
  else if 0x100000 ≤ off ∧ off < 0x100010 then tickReg s off
  else if 0x101000 ≤ off ∧ off < 0x1010A0 then govReg s off
  else if 0x200000 ≤ off ∧ off < 0x208000 then ptnReg s ((off - 0x200000) / 0x1000) (off % 0x1000)
  else if 0x208000 ≤ off ∧ off < 0x208018 then commitReg s off
  else if 0x300000 ≤ off ∧ off < 0x300040 then ctxReg s off
  else if 0x404000 ≤ off ∧ off < 0x40400C then bayReg s off
  else if 0x800000 ≤ off ∧ off < 0x800180 then cxlReg s off
  else if 0xC00000 ≤ off ∧ off < 0xC002C0 then fnlReg s off
  else if 0x1000000 ≤ off ∧ off < 0x1000700 then stkReg s off
  else if 0x1400000 ≤ off ∧ off < 0x1400108 then achReg s off
  else if 0x1800000 ≤ off ∧ off < 0x1800030 then pwrReg s off
  else if (0x1C00000 ≤ off ∧ off < 0x1C00060) ∨ (0x1C08000 ≤ off ∧ off < 0x1C10000) then errReg s off
  else if 0x1E00000 ≤ off ∧ off < 0x1E00100 then mintReg (s.part ((off - 0x1E00000) / 32)).mint (off % 32)
  else if 0x4000000 ≤ off ∧ off < 0x9000000 then coreReg s ((off - 0x4000000) / 65536) (off % 65536)
  else none

/-- Mailbox of an offset, and the register's offset in it (Table 14-7). -/
def boxOf (off : Nat) : Option (Nat × Nat) :=
  if 0x400000 ≤ off ∧ off < 0x404000 ∧ off % 256 < 0x5C then some ((off - 0x400000) / 256, off % 256) else none

/-- Offsets of the recovery window. -/
def inWindow (off : Nat) : Bool := decide (0x2000000 ≤ off) && decide (off < 0x4000000)
/-- Offsets of the MGMT command block. -/
def inMgmt (off : Nat) : Bool := decide (0x2000 ≤ off) && decide (off < 0x4000)

/-! ### Access checks (R562, R563, R565, R570) -/

/-- Does a register stand at the offset, for this state (R531, R562)? -/
def mapped (s : State) (o : Origin) (off : Nat) : Bool :=
  if s.sys.state = 3 then
    (sysReg s off).isSome || inWindow off || (o == .mgmt && inMgmt off && (mgmtReg s off).isSome)
  else (regValue s off).isSome || (boxOf off).isSome

/-- Registers with W1C bits (tables of R577). -/
def hasW1c (off : Nat) : Bool :=
  [0x20, 0x28, 0x8000, 0x101050, 0x404008, 0x800008, 0x1000008, 0x1400100, 0x1800004, 0x1C00008].contains off ||
  (decide (0x200000 ≤ off) && decide (off < 0x208000) && (off % 0x1000 == 0x208 || off % 0x1000 == 0x440)) ||
  (decide (0xC00100 ≤ off) && decide (off < 0xC002C0) && off % 64 == 0) ||
  (decide (0x4000000 ≤ off) && decide (off < 0x9000000) && (off % 65536 == 8 || off % 65536 == 0xC084))

/-- Offsets that MGMT may write (Table 19-2). -/
def mgmtWrites (off : Nat) : Bool :=
  inMgmt off || [0x10, 0x14, 0x18, 0x20, 0x28, 0x1C00008, 0x1C0000C, 0x1C00024].contains off
/-- Blocks that MGMT may not reach: PTN, CTX, BAY and the recovery window (Table 19-2). -/
def mgmtNone (off : Nat) : Bool :=
  (decide (0x200000 ≤ off) && decide (off < 0x208018)) || (decide (0x300000 ≤ off) && decide (off < 0x300040)) ||
  (decide (0x400000 ≤ off) && decide (off < 0x40400C)) || inWindow off

/-- Table 19-2: may the origin make the access? -/
def originMay (o : Origin) (off : Nat) (write : Bool) : Bool :=
  match o with
  | .mgmt => !mgmtNone off && (!write || mgmtWrites off)
  | _ => !inMgmt off && !(write && off == 0x18) && !(inWindow off && !write)

/-- May a write reach the register in this module state (R570)? -/
def stateMay (s : State) (off : Nat) : Bool :=
  match s.sys.state.toNat with
  | 0 => inMgmt off || off == 0x1800020 || off == 0x1800024 || [0x20, 0x28, 0x1C00008].contains off ||
         (decide (0x400000 ≤ off) && decide (off < 0x40400C))
  | 2 => inMgmt off || off == 0x1800020 || off == 0x1800024 || [0x1C00008, 0x1C0000C, 0x1C00024].contains off || hasW1c off ||
         (decide (0x400000 ≤ off) && decide (off < 0x401000))
  | 5 => false
  | _ => true

/-- SYS, FEAT, SAGE and ERR, which MGMT reads when the module is off (R570). -/
def offReads (off : Nat) : Bool :=
  decide (off < 0x1110) || (decide (0x8000 ≤ off) && decide (off < 0x8020)) || (decide (0x1C00000 ≤ off) && decide (off < 0x1C10000))

/-- KIND of the refusal of a word access, none where it is accepted: 1 unmapped, 3 origin or state. Mailboxes 32 to 63 follow R457. -/
def refusal (s : State) (o : Origin) (off : Nat) (write : Bool) : Option Nat :=
  if !mapped s o off then some 1
  else if !originMay o off write then some 3
  else if write then (if stateMay s off then none else some 3)
  else if s.sys.state = 5 ∧ !offReads off then some 3
  else none

/-- Does the access come in at all? PF0 is unreachable when the module is off (R570). -/
def reaches (s : State) (o : Origin) : Bool :=
  match o with
  | .mgmt | .bay _ => true
  | _ => s.sys.state != 5

/-- A refused access counted; the first one is kept until VALID is cleared (R571). -/
def logAccess (s : State) (o : Origin) (off : Nat) (write : Bool) (kind : Nat) : State :=
  s.modSys fun y =>
    let y := { y with accCount := satAdd y.accCount 1 }
    if y.accValid then y
    else { y with accOff := BitVec.ofNat 26 (off / 4), accKind := BitVec.ofNat 2 kind, accWrite := write, accValid := true,
                  accOrigin := match o with | .mgmt => 1 | .vf _ | .vfBar2 _ => 2 | _ => 0 }

/-! ### Reads -/

/-- RC fields of the register at an offset cleared (R11). -/
def clearRc (s : State) (off : Nat) : State :=
  if off = 0x24 then s.modSys fun y => { y with accCount := 0 }
  else if off = 0x2C then s.modSys fun y => { y with pairMismatch := 0, pairOrphan := 0 }
  else if off = 0x8018 then s.modSage fun g => { g with deniedPort := 0, deniedAuth := 0 }
  else if off = 0x801C then s.modSage fun g => { g with busy := 0 }
  else if 0x101010 ≤ off ∧ off < 0x101050 ∧ off % 8 = 4 then
    s.modGovPart ((off - 0x101010) / 8) fun g => { g with clamped := 0, scaled := 0 }
  else if 0x200000 ≤ off ∧ off < 0x208000 ∧ off % 0x1000 = 0x43C then
    s.modPart ((off - 0x200000) / 0x1000) fun q => { q with dp := { q.dp with dropped := 0 } }
  else if 0xC00100 ≤ off ∧ off < 0xC002C0 ∧ off % 64 = 0x0C then s.modPort ((off - 0xC00100) / 64) fun p => { p with replays := 0, uncorr := 0 }
  else if 0xC00100 ≤ off ∧ off < 0xC002C0 ∧ off % 64 = 0x10 then s.modPort ((off - 0xC00100) / 64) fun p => { p with corrected := 0 }
  else if 0xC00100 ≤ off ∧ off < 0xC002C0 ∧ off % 64 = 0x18 then s.modPort ((off - 0xC00100) / 64) fun p => { p with reject := 0 }
  else if 0x1000100 ≤ off ∧ off < 0x1000400 then s.modMem fun m => { m with chErr := sput (0, 0) m.chErr ((off - 0x1000100) / 4) (0, 0) }
  else if 0x1400000 ≤ off ∧ off < 0x1400040 ∧ off % 8 = 4 then
    s.modMem fun m => { m with achFail := sput (0, 0) m.achFail ((off - 0x1400000) / 8) (0, 0) }
  else if off = 0x1400104 then s.modMem fun m => { m with chvCount := 0 }
  else if off = 0x1800010 then s.modPwr fun w => { w with losses := 0 }
  else if off = 0x180002C then s.modPwr fun w => { w with rstPtn := 0 }
  else if off = 0x1C00004 then s.modErr fun e => { e with lost := 0 }
  else if off = 0x1C00010 then s.modErr fun e => { e with corrected := 0 }
  else if 0x1E00000 ≤ off ∧ off < 0x1E00100 then
    let p := (off - 0x1E00000) / 32
    let set (f : MintRegs → MintRegs) : State := s.modPart p fun q => { q with mint := f q.mint }
    match off % 32 with
    | 0x08 => set fun m => { m with samples := 0 }
    | 0x0C => set fun m => { m with disagree := 0 }
    | 0x10 => set fun m => { m with skipped := 0 }
    | _ => s
  else if 0x4000000 ≤ off ∧ off < 0x9000000 ∧ off % 65536 = 0xC088 then
    let c := (off - 0x4000000) / 65536
    if s.pwr.on.getLsbD (groupOf c + 2) then s.modCore c fun k => { k with par := { k.par with parity := 0, guardN := 0 } } else s
  else s

/-- _LO registers of 64-bit values (R564, Table 19-10). -/
def isLo (off : Nat) : Bool :=
  [0x08, 0x1100, 0x100000, 0x101054, 0x208010, 0x404000].contains off ||
  (decide (0xC00100 ≤ off) && decide (off < 0xC002C0) && off % 64 == 4) ||
  (decide (0x4000000 ≤ off) && decide (off < 0x9000000) && [0x0C, 0x14, 0x20].contains (off % 65536))
/-- Latch of a _LO register for the reading origin. -/
def latchIx (o : Origin) (lo : Nat) : Nat := 2 * lo + (match o with | .mgmt => 1 | _ => 0)

/-- What registers show: during a module reset their reset values (Table 19-8). -/
def shown (s : State) : State := if s.sys.state = 0 ∧ s.sage.zeroising.isSome then s.warm else s

/-- What a word read returns and does once accepted: RC fields clear for PF0, a _LO read latches the high half, a _HI read takes
a waiting latch (R564, R565). -/
def readWord (s : State) (o : Origin) (off : Nat) : State × W32 :=
  match boxOf off with
  | some (n, k) => bayRead s 1 n k
  | none =>
    let v := (regValue (shown s) off).getD 0
    let s' := if o = .mgmt then s else clearRc s off
    if isLo off then
      (s'.modSys fun y => { y with hi := sput none y.hi (latchIx o off) (some ((regValue (shown s) (off + 4)).getD 0)) }, v)
    else if 4 ≤ off ∧ isLo (off - 4) then
      match sget none s.sys.hi (latchIx o (off - 4)) with
      | none => (s', v)
      | some h => (s'.modSys fun y => { y with hi := sput none y.hi (latchIx o (off - 4)) none }, h)
    else (s', v)

/-- One word read of PF0 or MGMT, checked. -/
def readChecked (s : State) (o : Origin) (off : Nat) : State × W32 :=
  match refusal s o off false with
  | some k => (logAccess s o off false k, 0)
  | none => readWord s o off

/-- CXL_QP_STATUS (Table 15-7). -/
def Qp.statusWord (p : Qp) : W32 :=
  w32 (bit p.on + 2 * bit p.keyed + 4 * bit p.dbErr + 8 * (min p.tagFails 16) + 256 * p.status.toNat + 2 ^ 16 * (p.gen.toNat % 256))

/-- Word of a queue-pair page (Table 15-7); outside the registers 0 (R477). -/
def qpWord (p : Qp) (off : Nat) : W32 :=
  match off with
  | 0x00 => lo64 p.sqBase | 0x04 => hi64 p.sqBase
  | 0x08 => lo64 p.cqBase | 0x0C => hi64 p.cqBase
  | 0x10 => lo64 p.h2dBase | 0x14 => hi64 p.h2dBase
  | 0x18 => lo64 p.d2hBase | 0x1C => hi64 p.d2hBase
  | 0x20 => p.sizes
  | 0x24 => p.ctrl
  | 0x28 => p.statusWord
  | _ => 0

/-- One word read of a VF: BAR0 holds 32 pages, and nothing else (R477, R575). -/
def vfReadWord (s : State) (vf off : Nat) : W32 :=
  if off < 0x20000 then qpWord (s.qp vf (off / 0x1000)) (off % 0x1000) else 0

/-- Words of a function's MSI-X table, 4 to an entry (R575): 2 entries for PF0, 32 for a VF. -/
def msixWords : Origin → Nat
  | .vfBar2 _ => 128 | _ => 8
/-- Where the table of a function begins in `Cxl.msixTab`. -/
def msixBase : Origin → Nat
  | .vfBar2 n => 128 * (n.val + 1) | _ => 0
/-- Word of an entry that differs from what stands in `msixTab`: vector control starts with its mask bit set (log 95). -/
def msixFlip (k : Nat) : W32 := if k % 4 = 3 then 1 else 0
/-- One word read in BAR2: the MSI-X table; the PBA reads 0, since no vector waits (R575; log 95). -/
def msixRead (s : State) (o : Origin) (off : Nat) : W32 :=
  if off / 4 < msixWords o then sget 0 s.cxl.msixTab (msixBase o + off / 4) ^^^ msixFlip (off / 4) else 0
/-- One word written in BAR2. -/
def msixWrite (s : State) (o : Origin) (off : Nat) (w : W32) : State :=
  if off / 4 < msixWords o then
    s.modCxl fun x => { x with msixTab := sput 0 x.msixTab (msixBase o + off / 4) (w ^^^ msixFlip (off / 4)) }
  else s

/-- One word read by an endpoint on its own path: the registers of Bay (Table 14-7). -/
def endpointRead (s : State) (ep off : Nat) : State × W32 :=
  match boxOf off with
  | some (n, k) => bayRead s ep n k
  | none => (s, if off = 0x404004 ∧ ep ≠ 1 then pendingMask s 32 else (bayReg s off).getD 0)
/-- One word written by an endpoint on its own path; secure endpoints clear bits of BAY_VIOL (Table 14-7). -/
def endpointWrite (s : State) (ep off : Nat) (w : W32) : State :=
  match boxOf off with
  | some (n, k) => bayWrite s ep n k w
  | none => if off = 0x404008 ∧ ep ≠ 1 then { s with bayViol := s.bayViol &&& ~~~w } else s

/-- One word read by an origin. -/
def readOne (s : State) (o : Origin) (off : Nat) : State × W32 :=
  match o with
  | .vf n => (s, vfReadWord s n off)
  | .pf0Bar2 | .vfBar2 _ => (s, msixRead s o off)
  | .bay ep => endpointRead s ep.toNat off
  | _ => readChecked s o off

/-- Widths and alignments that R563 accepts for a read. -/
def readAligned (off width : Nat) : Bool := [1, 2, 4, 8].contains width && off % width == 0

/-- A read of `width` bytes; what it returns stands in `readData` (R563). -/
def registerRead (s : State) (o : Origin) (off width : Nat) : State :=
  if !reaches s o then { s with readData := 0 }
  else if !readAligned off width then { logAccess s o off false 2 with readData := 0 }
  else
    let base := off / 4 * 4
    let (s, lo) := readOne s o base
    if width = 8 then
      let (s, hi) := readOne s o (base + 4)
      { s with readData := BitVec.ofNat 64 (lo.toNat + hi.toNat * 2 ^ 32) }
    else { s with readData := BitVec.ofNat 64 (lo.toNat / 2 ^ (8 * (off % 4)) % 2 ^ (8 * width)) }

/-- LO_HALF_READ, RC_READ and REFUSED_READ are reads; each does what the register at its offset gives a read (log 73). -/
def execLoHalfRead (o : Origin) (off : BitVec 28) (s : State) : Host.Outcome State Fault Refusal := .next (registerRead s o off.toNat 4)
def execRcRead (o : Origin) (off : BitVec 28) (s : State) : Host.Outcome State Fault Refusal := .next (registerRead s o off.toNat 4)
def execRefusedRead (o : Origin) (off : BitVec 28) (width : Nat) (s : State) : Host.Outcome State Fault Refusal :=
  .next (registerRead s o off.toNat width)

/-! ### The MGMT command block (R567) -/

/-- Byte of the buffer. -/
def mgmtByte (s : State) (i : Nat) : Nat := ((sget 0 s.sys.mgmtBuf (i / 4)).toNat / 2 ^ (8 * (i % 4))) % 256
/-- n bytes of the buffer from byte b - 4, as a number: argument byte b of Table 14-3. -/
def mgmtArg (s : State) (b n : Nat) : Nat := ofLeBytes ((List.range n).map fun i => BitVec.ofNat 8 (mgmtByte s (b - 4 + i)))
/-- Codes of Table 14-3 that Table 13-11 forbids on MGMT. -/
def mgmtForbidden : List Nat := [1, 2, 3, 4, 5, 11, 12, 16, 17, 18, 0x20, 0x21]

/-- The command that GO starts; too few argument bytes are BAD_FORMAT (log 74). -/
def mgmtStart (s : State) : State :=
  let code := s.sys.mgmtCmd.toNat % 65536
  let len := s.sys.mgmtCmd.toNat / 65536
  let bad := answer s .mgmt (BitVec.ofNat 16 code) 0 St.badFormat 0 []
  match code with
  | 0x06 => if len < 36 then bad else attest s .mgmt false (BitVec.ofNat 256 (mgmtArg s 8 32)) 0 0
  | 0x07 => zeroiseCmd s .mgmt
  | 0x08 => powerOff s .mgmt
  | 0x09 => if len < 12 then bad else fwUpdate s .mgmt (mgmtArg s 8 4) (mgmtArg s 12 4)
  | 0x0A => telemetry s .mgmt 0
  | 0x30 => debugChallenge s .mgmt
  | 0x31 =>
    if len ≠ 4508 ∨ mgmtArg s 5 7 ≠ 0 then bad
    else debugUnlock s .mgmt (BitVec.ofNat 8 (mgmtByte s 0)) ((List.range 4500).map fun i => BitVec.ofNat 8 (mgmtByte s (8 + i)))
  | _ => if mgmtForbidden.contains code then denied s .mgmt (BitVec.ofNat 16 code) 0 else bad

/-- SYS_MGMT_GO.GO (R567, R570). -/
def mgmtGo (s : State) : State :=
  if s.sys.mgmtBusy then s.modSys fun y => { y with mgmtStatus := St.busy }
  else
    let s := s.modSys fun y => { y with mgmtBusy := true, mgmtStatus := St.accepted, mgmtLen := 0 }
    if s.sys.state = 3 then answer s .mgmt 0 0 St.degraded 0 [] else mgmtStart s

/-- A write of the command block; while BUSY the command register and the buffer do not change. -/
def mgmtWrite (s : State) (off : Nat) (w : W32) : State :=
  if off = 0x2004 then (if w.getLsbD 0 then mgmtGo s else s)
  else if s.sys.mgmtBusy then s
  else if off = 0x2000 then s.modSys fun y => { y with mgmtCmd := w }
  else if 0x2400 ≤ off then s.modSys fun y => { y with mgmtBuf := sput 0 y.mgmtBuf ((off - 0x2400) / 4) w }
  else s

/-! ### Pairs (R568, R569) -/

/-- Value register of a pair of Table 19-3, and whether the offset is its companion. -/
def pairOf (off : Nat) : Option (Nat × Bool) :=
  let r := off % 0x1000
  if 0x200000 ≤ off ∧ off < 0x208000 then
    if r = 0x110 ∨ r = 0x118 ∨ r = 0x170 ∨ r = 0x410 ∨ r = 0x424 ∨ r = 0x42C ∨ r = 0x434 then some (off, false)
    else if r = 0x114 ∨ r = 0x11C ∨ r = 0x174 ∨ r = 0x414 ∨ r = 0x428 ∨ r = 0x430 ∨ r = 0x438 then some (off - 4, true)
    else if 0x120 ≤ r ∧ r < 0x138 then some (off, false)
    else if 0x140 ≤ r ∧ r < 0x158 then some (off - 0x20, true)
    else if r = 0x160 ∨ r = 0x164 then some (off, false)
    else if r = 0x168 ∨ r = 0x16C then some (off - 8, true)
    else none
  else
    match off with
    | 0x101008 => some (0x101008, false) | 0x10100C => some (0x101008, true)
    | 0x208000 => some (0x208000, false) | 0x208004 => some (0x208000, true)
    | 0xC00000 => some (0xC00000, false) | 0xC00004 => some (0xC00000, true)
    | 0x1800020 => some (0x1800020, false) | 0x1800024 => some (0x1800020, true)
    | _ => none

/-- A shadow register set to `v` with its companion, over `w` bits from bit `at_` of the field. -/
def Paired.put {w : Nat} (p : Paired w) (at_ n : Nat) (v c : Nat) : Paired w :=
  let m : BitVec w := BitVec.ofNat w ((2 ^ n - 1) * 2 ^ at_)
  ⟨(p.v &&& ~~~m) ||| BitVec.ofNat w (v % 2 ^ n * 2 ^ at_), (p.n &&& ~~~m) ||| BitVec.ofNat w (c % 2 ^ n * 2 ^ at_)⟩

/-- An agreeing pair of a shadow set (R325): offset of the value register in the partition's block. -/
def putShadow (r : ResSet) (off : Nat) (v c : Nat) : ResSet :=
  if 0x120 ≤ off ∧ off < 0x138 then { r with chans := r.chans.put (8 * (off - 0x120)) 32 v c }
  else match off with
    | 0x110 => { r with groups := r.groups.put 0 16 v c }
    | 0x118 => { r with ways := r.ways.put 0 32 v c }
    | 0x160 => { r with share := (r.share.put 0 12 v c).put 12 12 (v / 65536) (c / 65536) }
    | 0x164 => { r with share := (r.share.put 24 12 v c).put 36 12 (v / 65536) (c / 65536) }
    | 0x170 => { r with slew := r.slew.put 0 11 v c }
    | _ => r

/-- Compared bits of a pair of the shadow set (Table 19-3). -/
def shadowMask (off : Nat) : W32 :=
  match off with
  | 0x110 => 0xFFFF | 0x160 => 0x0FFF0FFF | 0x164 => 0x0FFF0FFF | 0x170 => 0x7FF | _ => 0xFFFFFFFF

/-- A shadow pair with both halves written. -/
def shadowWrite (s : State) (p off : Nat) (v c : W32) : State :=
  if (v ^^^ c) &&& shadowMask off ≠ shadowMask off then pairBad s (0x200000 + 0x1000 * p + off)
  else s.modPart p fun q => { q with shadow := putShadow q.shadow off v.toNat c.toNat }

/-- A pair whose two halves stand in its latch: it agrees and takes effect, or is logged (Table 19-3). -/
def pairWrite (s : State) (off : Nat) (v c : W32) (env : StartEnv) : State :=
  if 0x200000 ≤ off ∧ off < 0x208000 then
    let p := (off - 0x200000) / 0x1000
    match off % 0x1000 with
    | 0x410 => pipeWrite s p v c
    | 0x424 => buddyWrite15 s p v c
    | 0x42C => dpPair s p v c
    | 0x434 => dpPorts s p v c
    | r => shadowWrite s p r v c
  else
    match off with
    | 0x101008 => lendingEnable s v c
    | 0x208000 => commitRequest s v c
    | 0xC00000 => fnlModeWrite s v c
    | _ => rstModule s v c env

/-- The latch of a pair emptied without a log. -/
def clearLatch (s : State) (off : Nat) : State := s.modSys fun y => { y with latches := y.latches.filter fun l => l.1 != off }

/-- A write of one half: it stands in the latch, replacing the same half; with the other half the pair completes (R569). -/
def halfWrite (s : State) (off : Nat) (comp : Bool) (w : W32) (env : StartEnv) : State :=
  let s := dropOrphans s
  match s.sys.latches.find? fun l => l.1 == off with
  | none => s.modSys fun y => { y with latches := y.latches ++ [(off, comp, w, s.tick)] }
  | some (_, half, x, _) =>
    if half = comp then
      s.modSys fun y => { y with latches := y.latches.map fun (l : Nat × Bool × W32 × Nat) => if l.1 == off then (off, comp, w, l.2.2.2) else l }
    else
      let s := s.modSys fun y => { y with latches := y.latches.filter fun (l : Nat × Bool × W32 × Nat) => l.1 != off }
      if comp then pairWrite s off x w env else pairWrite s off w x env

/-! ### Writes -/

/-- W1C bits of the register at an offset cleared. -/
def clearW1c (s : State) (off : Nat) (w : W32) : State :=
  let v := w.getLsbD 31
  if off = 0x20 then (if v then s.modSys fun y => { y with accValid := false } else s)
  else if off = 0x28 then (if v then s.modSys fun y => { y with pairValid := false } else s)
  else if off = 0x8000 then (if w.getLsbD 12 then s.modSage fun g => { g with sensorValid := false } else s)
  else if off = 0x101050 then (if v then s.modGov fun g => { g with faultValid := false } else s)
  else if off = 0x800008 then (if v then s.modCxl fun x => { x with errValid := false } else s)
  else if off = 0x1000008 then (if v then s.modMem fun m => { m with errValid := false } else s)
  else if off = 0x1400100 then (if v then s.modMem fun m => { m with chvValid := false } else s)
  else if off = 0x1800004 then s.modPwr fun p => { p with fault := p.fault &&& ~~~(w.extractLsb' 0 24) }
  else if off = 0x1C00008 then s.modErr fun e => { e with alert := e.alert &&& ~~~(w.extractLsb' 0 8) }
  else if 0x200000 ≤ off ∧ off < 0x208000 ∧ off % 0x1000 = 0x208 then
    s.modPart ((off - 0x200000) / 0x1000) fun q =>
      { q with integ := { q.integ with cimMis := q.integ.cimMis && !w.getLsbD 18, srcMis := q.integ.srcMis && !w.getLsbD 19 } }
  else if 0x200000 ≤ off ∧ off < 0x208000 ∧ off % 0x1000 = 0x440 then
    s.modPart ((off - 0x200000) / 0x1000) fun q => { q with ckpt := { q.ckpt with abandoned := q.ckpt.abandoned && !w.getLsbD 4 } }
  else if 0xC00100 ≤ off ∧ off < 0xC002C0 ∧ off % 64 = 0 then
    s.modPort ((off - 0xC00100) / 64) fun p => { p with shareErr := p.shareErr && !w.getLsbD 21 }
  else if 0x4000000 ≤ off ∧ off < 0x9000000 then
    let c := (off - 0x4000000) / 65536
    if !v ∨ !s.pwr.on.getLsbD (groupOf c + 2) then s
    else if off % 65536 = 8 then s.modCore c fun k => { k with fault := { k.fault with valid := false } }
    else if off % 65536 = 0xC084 then s.modCore c fun k => { k with par := { k.par with valid := false } }
    else s
  else s

/-- PTN_JOB (Table 10-5). -/
def jobWrite (s : State) (p : Nat) (w : W32) : State :=
  let i := bit (w.getLsbD 3)
  match (w.extractLsb' 0 3).toNat with
  | 1 => jobStart s .pf0 p i
  | 2 => jobSuspend s .pf0 p i
  | 3 => jobSwitch s .pf0 p i
  | 4 => jobStop s .pf0 p i
  | 5 => jobUnload s .pf0 p i
  | _ => s

/-- A value limited to a range. -/
def limit (lo hi v : Nat) : Nat := max lo (min v hi)

/-- RW and WO registers of a partition. -/
def ptnWrite (s : State) (p off : Nat) (w : W32) : State :=
  let field (n : Nat) : Nat := (w.extractLsb' 0 n).toNat
  match off with
  | 0x200 => s.modPart p fun q => { q with integ := { q.integ with scrub := BitVec.ofNat 10 (limit 25 1000 (field 10)) } }
  | 0x204 => s.modPart p fun q => { q with integ := { q.integ with guard := w.getLsbD 0 } }
  | 0x208 =>
    let s := s.modPart p fun q => { q with integ := { q.integ with auditMin := BitVec.ofNat 14 (limit 10 10080 (field 14)) } }
    if w.getLsbD 16 then auditPass s p else s
  | 0x300 => jobWrite s p w
  | 0x400 => s.modPart p fun q => { q with dill := { q.dill with chunk := BitVec.ofNat 12 (limit 64 2048 (field 12)) } }
  | 0x420 => s.modPart p fun q => { q with idleRows := w.extractLsb' 0 12, mode := BitVec.ofNat 2 (min 2 (w.extractLsb' 12 2).toNat) }
  | _ => s

/-- MINT registers (Table 5-6); boundaries see a write from tick t on. -/
def mintWrite (m : MintRegs) (k : Nat) (w : W32) (t : Nat) : MintRegs :=
  match k with
  | 0x00 => { m with rate := BitVec.ofNat 17 (limit 256 65536 (w.extractLsb' 0 17).toNat), enable := w.getLsbD 31, since := t }
  | 0x04 => { m with thresh := w &&& 0x3FFFFFFF, since := t }
  | _ => m

/-- RW and WO fields of the register at an offset. -/
def writeFields (s : State) (off : Nat) (w : W32) : State :=
  if 0x200000 ≤ off ∧ off < 0x208000 then ptnWrite s ((off - 0x200000) / 0x1000) (off % 0x1000) w
  else if 0x1E00000 ≤ off ∧ off < 0x1E00100 then
    s.modPart ((off - 0x1E00000) / 32) fun q => { q with mint := mintWrite q.mint (off % 32) w (s.tick + 1) }
  else if 0xC00100 ≤ off ∧ off < 0xC002C0 then
    let n := (off - 0xC00100) / 64
    if off % 64 = 0x1C then shareWrite s n false w else if off % 64 = 0x20 then shareWrite s n true w else s
  else
    match off with
    | 0x10 => if w.getLsbD 0 then recoveryCommit s else s
    | 0x14 => s.modSys fun y => { y with recLen := w.extractLsb' 0 26 }
    | 0x18 => recoveryData s w
    | 0x101004 => throttleFloor s w
    | 0x300000 => { s with ctxSel := w.extractLsb' 0 16 }
    | 0xC00008 => fnlRekey s (w.extractLsb' 0 7)
    | 0xC0000C => fnlRetrain s (w.extractLsb' 0 7)
    | 0x1000000 => s.modMem fun m => { m with qPage := w.extractLsb' 0 16, qChan := w.extractLsb' 16 8 }
    | 0x1800008 => domainSwitch s w
    | 0x1C0000C => s.modErr fun e => { e with mask := w.extractLsb' 0 8 }
    | 0x1C00024 => s.modErr fun e => { e with svcSel := w.extractLsb' 0 8 }
    | _ => s

/-- An accepted word write of PF0 or MGMT; in Parsley a register with W1C bits takes those alone (R570). -/
def writeWord (s : State) (off : Nat) (w : W32) (env : StartEnv) : State :=
  match boxOf off with
  | some (n, k) => bayWrite s 1 n k w
  | none =>
    if inMgmt off then mgmtWrite s off w
    else if inWindow off then recoveryData s w
    else
      match pairOf off with
      | some (r, comp) => halfWrite s r comp w env
      | none =>
        let s := clearW1c s off w
        if s.parsley ∧ hasW1c off ∧ off ≠ 0x1C00008 then s else writeFields s off w

/-- One word write of PF0 or MGMT, checked. -/
def writeChecked (s : State) (o : Origin) (off : Nat) (w : W32) (env : StartEnv) : State :=
  match refusal s o off true with
  | some k => logAccess s o off true k
  | none => writeWord s off w env

/-- Entry `i` of a submission ring as the host's memory holds it: free bytes (R482; log 10). -/
def hostEntry (s : State) (vf q i : Nat) : SqEntry × State :=
  let p := s.qp vf q
  let (n, s) := draw s
  let bs := Config.hostRead n (p.sqBase + BitVec.ofNat 64 (128 * i)) 128
  let slot := fieldAt bs 8 2
  let slots := (p.sizes.extractLsb' 8 10).toNat + 1
  let rec1 (k : Nat) : List Byte := Config.hostRead n (p.h2dBase + BitVec.ofNat 64 (4160 * ((slot + k) % slots))) 4112
  (⟨BitVec.ofNat 8 (fieldAt bs 3 1), BitVec.ofNat 32 (fieldAt bs 4 4), BitVec.ofNat 16 slot, bs.take 16, (bs.drop 16).take 96,
    (bs.drop 112).take 16, (List.range (fieldAt bs 3 1)).map rec1⟩, s)

/-- Entries of a ring from the SQ head up to a written tail. -/
def hostEntries (s : State) (vf q tail : Nat) : List SqEntry × State :=
  let p := s.qp vf q
  let n := (tail + p.sqSize - p.sqHead.toNat) % p.sqSize
  (List.range n).foldl (fun (acc : List SqEntry × State) k =>
    let (e, s) := hostEntry acc.2 vf q ((p.sqHead.toNat + k) % p.sqSize)
    (acc.1 ++ [e], s)) ([], s)

/-- CXL_QP_SIZES: ring sizes written as the nearer limit. -/
def clampSizes (w : W32) : W32 :=
  w32 (limit 4 12 (w.extractLsb' 0 4).toNat + 16 * limit 4 12 (w.extractLsb' 4 4).toNat + 256 * (w.extractLsb' 8 20).toNat)

/-- One word write of a VF in its BAR0 (Table 15-7, R477, R491, R493). -/
def vfWriteWord (s : State) (vf : VfN) (off : Nat) (w : W32) : State :=
  if h : off < 0x20000 then
    let q : QpN := ⟨off / 0x1000, by omega⟩
    -- ring registers change only while ENABLE is 0; addresses are 4 KiB aligned
    let set (f : Qp → Qp) : State := if (s.qp vf q).ctrl.getLsbD 0 then s else s.modQp vf q f
    let lo (b : BitVec 64) : BitVec 64 := hi64 b ++ (w &&& 0xFFFFF000)
    let hi (b : BitVec 64) : BitVec 64 := w ++ lo64 b
    match off % 0x1000 with
    | 0x00 => set fun p => { p with sqBase := lo p.sqBase }
    | 0x04 => set fun p => { p with sqBase := hi p.sqBase }
    | 0x08 => set fun p => { p with cqBase := lo p.cqBase }
    | 0x0C => set fun p => { p with cqBase := hi p.cqBase }
    | 0x10 => set fun p => { p with h2dBase := lo p.h2dBase }
    | 0x14 => set fun p => { p with h2dBase := hi p.h2dBase }
    | 0x18 => set fun p => { p with d2hBase := lo p.d2hBase }
    | 0x1C => set fun p => { p with d2hBase := hi p.d2hBase }
    | 0x20 => set fun p => { p with sizes := clampSizes w }
    | 0x24 => queueEnable s vf q w
    | 0x28 => if w.getLsbD 2 then s.modQp vf q fun p => { p with dbErr := false } else s
    | 0x40 =>
      let tail := w.extractLsb' 0 12
      let (es, s') := hostEntries s vf q tail.toNat
      sqDoorbell (if (s.qp vf q).sqSize ≤ tail.toNat then s else s') vf q tail es
    | 0x44 => cqHeadWrite s vf q (w.extractLsb' 0 12)
    | 0x48 => d2hHeadWrite s vf q (w.extractLsb' 0 10)
    | _ => s
  else s

/-- One word write by an origin. -/
def writeOne (s : State) (o : Origin) (off : Nat) (w : W32) (env : StartEnv) : State :=
  match o with
  | .vf n => vfWriteWord s n off w
  | .pf0Bar2 | .vfBar2 _ => msixWrite s o off w
  | .bay ep => endpointWrite s ep.toNat off w
  | _ => writeChecked s o off w env

/-- An 8-byte write, the lower word first; one that covers both halves of a pair completes the pair in one access, in place of
a half that stands in its latch (R563, R569; log 97). -/
def writeTwo (s : State) (o : Origin) (off : Nat) (a b : W32) (env : StartEnv) : State :=
  if o = .pf0 ∧ pairOf off = some (off, false) ∧ pairOf (off + 4) = some (off, true) ∧ refusal s o off true = none then
    pairWrite (clearLatch (dropOrphans s) off) off a b env
  else writeOne (writeOne s o off a env) o (off + 4) b env

/-- Words that the recovery window takes in one write, in address order. -/
def windowWords (s : State) (o : Origin) (off : Nat) (data : List Byte) (env : StartEnv) : State :=
  (List.range (data.length / 4)).foldl (fun s k => writeOne s o (off + 4 * k) (wordAt data k) env) s

/-- The words of a private write of MGMT, to consecutive registers; those of a transfer to SYS_RECOVERY_DATA all go to that
register (R566). -/
def mgmtTransfer (s : State) (off : Nat) (data : List Byte) (env : StartEnv) : State :=
  (List.range (data.length / 4)).foldl
    (fun s k => writeChecked s .mgmt (if off = 0x18 then off else off + 4 * k) (wordAt data k) env) s

/-- A write of `data` at an offset (R563): 4 or 8 bytes, aligned; 4 to 256 bytes into the recovery window; any number of words
from MGMT (R566). -/
def registerWrite (s : State) (o : Origin) (off : Nat) (data : List Byte) (env : StartEnv) : State :=
  let n := data.length
  if !reaches s o then s
  else if s.sys.state = 3 ∧ o = .pf0 ∧ inWindow off ∧ off % 4 = 0 ∧ n % 4 = 0 ∧ 4 ≤ n ∧ n ≤ 256 then windowWords s o off data env
  else if o = .mgmt ∧ off % 4 = 0 ∧ n % 4 = 0 ∧ 4 ≤ n then mgmtTransfer s off data env
  else if (n ≠ 4 ∧ n ≠ 8) ∨ off % n ≠ 0 then logAccess s o off true 2
  else if n = 8 then writeTwo s o off (wordAt data 0) (wordAt data 1) env
  else writeOne s o off (wordAt data 0) env

def execRegisterWrite (o : Origin) (off : BitVec 28) (data : List Byte) (env : StartEnv) (s : State) : Host.Outcome State Fault Refusal :=
  .next (registerWrite s o off.toNat data env)

/-! ### Commands that are the write of one register or pair -/

/-- A write that only the named register's access checks stand before. -/
def gate (s : State) (o : Origin) (off : Nat) (f : State → State) : State :=
  if !reaches s o then s
  else match refusal s o off true with
    | some k => logAccess s o off true k
    | none => f s
/-- Both halves of a pair in one access; a half that stood in its latch is gone (R569; log 97). -/
def gatePair (s : State) (off comp : Nat) (f : State → State) : State :=
  if !reaches s .pf0 then s
  else match refusal s .pf0 off true with
    | some k => logAccess (logAccess s .pf0 off true k) .pf0 comp true k
    | none => f (clearLatch s off)

/-- Offset of a register of partition p. -/
def ptnOff (p : Nat) (r : Nat) : Nat := 0x200000 + 0x1000 * p + r

def execLendingEnable (v c : W32) (s : State) : Host.Outcome State Fault Refusal :=
  .next (gatePair s 0x101008 0x10100C fun s => lendingEnable s v c)
def execThrottleFloorWrite (v : W32) (s : State) : Host.Outcome State Fault Refusal :=
  .next (gate s .pf0 0x101004 fun s => throttleFloor s v)
def execPartitionCommitRequest (v c : W32) (s : State) : Host.Outcome State Fault Refusal :=
  .next (gatePair s 0x208000 0x208004 fun s => commitRequest s v c)
def execPipePairingWrite (p : PartN) (v c : W32) (s : State) : Host.Outcome State Fault Refusal :=
  .next (gatePair s (ptnOff p 0x410) (ptnOff p 0x414) fun s => pipeWrite s p v c)
def execBuddyConfig (p : PartN) (v c : W32) (s : State) : Host.Outcome State Fault Refusal :=
  .next (gatePair s (ptnOff p 0x424) (ptnOff p 0x428) fun s => buddyWrite15 s p v c)
def execDpConfig (p : PartN) (dp dpC ports portsC : W32) (s : State) : Host.Outcome State Fault Refusal :=
  .next (gatePair s (ptnOff p 0x42C) (ptnOff p 0x430) fun s => dpWrite (clearLatch s (ptnOff p 0x434)) p dp dpC ports portsC)
/-- PTN_AUDIT.START written with 1 (R105). -/
def execAuditStart (p : PartN) (s : State) : Host.Outcome State Fault Refusal :=
  .next (gate s .pf0 (ptnOff p 0x208) fun s => if s.parsley then s else auditPass s p)
def execFnlModeWrite (v c : W32) (s : State) : Host.Outcome State Fault Refusal :=
  .next (gatePair s 0xC00000 0xC00004 fun s => fnlModeWrite s v c)
def execFnlRekey (mask : BitVec 7) (s : State) : Host.Outcome State Fault Refusal :=
  .next (gate s .pf0 0xC00008 fun s => fnlRekey s mask)
def execFnlRetrain (mask : BitVec 7) (s : State) : Host.Outcome State Fault Refusal :=
  .next (gate s .pf0 0xC0000C fun s => fnlRetrain s mask)
def execFennelShareWrite (port : PortN) (hi : Bool) (v : W32) (s : State) : Host.Outcome State Fault Refusal :=
  .next (gate s .pf0 (0xC00100 + 64 * port.val + (if hi then 0x20 else 0x1C)) fun s => shareWrite s port hi v)
def execPowerDomainSwitch (v : W32) (s : State) : Host.Outcome State Fault Refusal :=
  .next (gate s .pf0 0x1800008 fun s => domainSwitch s v)
def execRstModuleRequest (v c : W32) (env : StartEnv) (s : State) : Host.Outcome State Fault Refusal :=
  .next (gatePair s 0x1800020 0x1800024 fun s => rstModule s v c env)
def execSysRecoveryCommit (s : State) : Host.Outcome State Fault Refusal := .next (gate s .pf0 0x10 recoveryCommit)
def execSysRecoveryData (w : W32) (s : State) : Host.Outcome State Fault Refusal := .next (gate s .mgmt 0x18 fun s => recoveryData s w)

end Sys2Proof.Machine
end

