-- ==== Sys2Proof/Machine/Dispatch.lean ====
section
/-! DEFINITION. The dispatcher: one arm per command. -/

namespace Sys2Proof.Machine

def exec (i : Instr) (s : State) : Host.Outcome State Fault Refusal :=
  match i with
  | .nop c => Sys2Proof.Machine.execNop c s
  | .endJob c => Sys2Proof.Machine.execEndJob c s
  | .loop c h cnt last period => Sys2Proof.Machine.execLoop c h cnt last period s
  | .tile c h save resume => Sys2Proof.Machine.execTile c h save resume s
  | .budget c h q span => Sys2Proof.Machine.execBudget c h q span s
  | .waitq c queue depth => Sys2Proof.Machine.execWaitq c queue depth s
  | .dstep c => Sys2Proof.Machine.execDstep c s
  | .sli c d imm => Sys2Proof.Machine.execSli c d imm s
  | .sadd c d a b => Sys2Proof.Machine.execSadd c d a b s
  | .saddi c d a imm => Sys2Proof.Machine.execSaddi c d a imm s
  | .ssub c d a b => Sys2Proof.Machine.execSsub c d a b s
  | .smul c d a b => Sys2Proof.Machine.execSmul c d a b s
  | .sand c d a b => Sys2Proof.Machine.execSand c d a b s
  | .sor c d a b => Sys2Proof.Machine.execSor c d a b s
  | .sxor c d a b => Sys2Proof.Machine.execSxor c d a b s
  | .sshl c d a b => Sys2Proof.Machine.execSshl c d a b s
  | .sshr c d a b => Sys2Proof.Machine.execSshr c d a b s
  | .smin c d a b => Sys2Proof.Machine.execSmin c d a b s
  | .smax c d a b => Sys2Proof.Machine.execSmax c d a b s
  | .sld c d a imm => Sys2Proof.Machine.execSld c d a imm s
  | .sst c d a imm => Sys2Proof.Machine.execSst c d a imm s
  | .sidx c d level => Sys2Proof.Machine.execSidx c d level s
  | .sfeat c d index => Sys2Proof.Machine.execSfeat c d index s
  | .reservedOpcode c => Sys2Proof.Machine.execReservedOpcode c s
  | .cbuf c h f => Sys2Proof.Machine.execCbuf c h f s
  | .cfwd c h f => Sys2Proof.Machine.execCfwd c h f s
  | .ctrn c h f => Sys2Proof.Machine.execCtrn c h f s
  | .cload c h f => Sys2Proof.Machine.execCload c h f s
  | .amm c h f => Sys2Proof.Machine.execAmm c h f s
  | .varith c h f => Sys2Proof.Machine.execVarith c h f s
  | .vfunc c h f => Sys2Proof.Machine.execVfunc c h f s
  | .vlogic c h f => Sys2Proof.Machine.execVlogic c h f s
  | .vcvt c h f => Sys2Proof.Machine.execVcvt c h f s
  | .vred c h f => Sys2Proof.Machine.execVred c h f s
  | .vtopk c h f => Sys2Proof.Machine.execVtopk c h f s
  | .vsplit c h f => Sys2Proof.Machine.execVsplit c h f s
  | .vupd c h f => Sys2Proof.Machine.execVupd c h f s
  | .copy c h f => Sys2Proof.Machine.execCopy c h f s
  | .gather c h f => Sys2Proof.Machine.execGather c h f s
  | .scatter c h f => Sys2Proof.Machine.execScatter c h f s
  | .prefetch c h f => Sys2Proof.Machine.execPrefetch c h f s
  | .commit c h f => Sys2Proof.Machine.execCommit c h f s
  | .xsend c h f => Sys2Proof.Machine.execXsend c h f s
  | .xlate c h f => Sys2Proof.Machine.execXlate c h f s
  | .instructionLaunch c q mem => Sys2Proof.Machine.execInstructionLaunch c q mem s
  | .instructionComplete c q => Sys2Proof.Machine.execInstructionComplete c q s
  | .loopIterationStart c => Sys2Proof.Machine.execLoopIterationStart c s
  | .tileBoundary p => Sys2Proof.Machine.execTileBoundary p s
  | .dstepResume c => Sys2Proof.Machine.execDstepResume c s
  | .commitComplete c ch => Sys2Proof.Machine.execCommitComplete c ch s
  | .cacheFill w gpage => Sys2Proof.Machine.execCacheFill w gpage s
  | .scrubRead g => Sys2Proof.Machine.execScrubRead g s
  | .reloadWindow w => Sys2Proof.Machine.execReloadWindow w s
  | .auditStart p => Sys2Proof.Machine.execAuditStart p s
  | .auditPeriodExpiry p => Sys2Proof.Machine.execAuditPeriodExpiry p s
  | .mintEvaluation g => Sys2Proof.Machine.execMintEvaluation g s
  | .committedCurrentUpdate rail => Sys2Proof.Machine.execCommittedCurrentUpdate rail s
  | .lendingEnable v c => Sys2Proof.Machine.execLendingEnable v c s
  | .loanGrantEnd p => Sys2Proof.Machine.execLoanGrantEnd p s
  | .throttleStep celsius => Sys2Proof.Machine.execThrottleStep celsius s
  | .thermalTrip celsius => Sys2Proof.Machine.execThermalTrip celsius s
  | .throttleFloorWrite v => Sys2Proof.Machine.execThrottleFloorWrite v s
  | .throttleLevelApply => Sys2Proof.Machine.execThrottleLevelApply s
  | .tickRealign roundTrip turnaround resid => Sys2Proof.Machine.execTickRealign roundTrip turnaround resid s
  | .tickMasterSettleTimeout => Sys2Proof.Machine.execTickMasterSettleTimeout s
  | .load via p image force first len reply => Sys2Proof.Machine.execLoad via p image force first len reply s
  | .loadComplete p => Sys2Proof.Machine.execLoadComplete p s
  | .loadWindow w => Sys2Proof.Machine.execLoadWindow w s
  | .partitionCommitRequest v c => Sys2Proof.Machine.execPartitionCommitRequest v c s
  | .commitTick => Sys2Proof.Machine.execCommitTick s
  | .release via p => Sys2Proof.Machine.execRelease via p s
  | .releaseComplete p => Sys2Proof.Machine.execReleaseComplete p s
  | .jobStart via p image => Sys2Proof.Machine.execJobStart via p image s
  | .jobSuspend via p image => Sys2Proof.Machine.execJobSuspend via p image s
  | .jobSwitch via p image => Sys2Proof.Machine.execJobSwitch via p image s
  | .jobStop via p image => Sys2Proof.Machine.execJobStop via p image s
  | .jobUnload via p image => Sys2Proof.Machine.execJobUnload via p image s
  | .jobYield p => Sys2Proof.Machine.execJobYield p s
  | .jobResume p => Sys2Proof.Machine.execJobResume p s
  | .resumeTick p => Sys2Proof.Machine.execResumeTick p s
  | .ctxCreate via p kind rank proj seed stream => Sys2Proof.Machine.execCtxCreate via p kind rank proj seed stream s
  | .ctxBind via ctx vf qmask => Sys2Proof.Machine.execCtxBind via ctx vf qmask s
  | .ctxAdopt via ctx state handle => Sys2Proof.Machine.execCtxAdopt via ctx state handle s
  | .ctxReleaseSnap via ctx handle => Sys2Proof.Machine.execCtxReleaseSnap via ctx handle s
  | .ctxCompose via a b => Sys2Proof.Machine.execCtxCompose via a b s
  | .ctxSeed via ctx seed stream => Sys2Proof.Machine.execCtxSeed via ctx seed stream s
  | .ctxSetkey via ctx key => Sys2Proof.Machine.execCtxSetkey via ctx key s
  | .ctxImport via ctx image => Sys2Proof.Machine.execCtxImport via ctx image s
  | .ctxExport via ctx state addr len => Sys2Proof.Machine.execCtxExport via ctx state addr len s
  | .ctxQuery via ctx => Sys2Proof.Machine.execCtxQuery via ctx s
  | .ctxRebase via ctx => Sys2Proof.Machine.execCtxRebase via ctx s
  | .ctxWithdraw via ctx => Sys2Proof.Machine.execCtxWithdraw via ctx s
  | .ctxDelete via ctx => Sys2Proof.Machine.execCtxDelete via ctx s
  | .ctxDeleteComplete ctx => Sys2Proof.Machine.execCtxDeleteComplete ctx s
  | .stepPosting p => Sys2Proof.Machine.execStepPosting p s
  | .stepEnd p outs => Sys2Proof.Machine.execStepEnd p outs s
  | .adapterStaging p => Sys2Proof.Machine.execAdapterStaging p s
  | .stagingComplete p => Sys2Proof.Machine.execStagingComplete p s
  | .baseStage via p pages => Sys2Proof.Machine.execBaseStage via p pages s
  | .baseInstall via p first count => Sys2Proof.Machine.execBaseInstall via p first count s
  | .baseReplace via p => Sys2Proof.Machine.execBaseReplace via p s
  | .pipePairingWrite p v c => Sys2Proof.Machine.execPipePairingWrite p v c s
  | .pipePairingApply p => Sys2Proof.Machine.execPipePairingApply p s
  | .buddyConfig p v c => Sys2Proof.Machine.execBuddyConfig p v c s
  | .dpConfig p dp dpC ports portsC => Sys2Proof.Machine.execDpConfig p dp dpC ports portsC s
  | .train via f => Sys2Proof.Machine.execTrain via f s
  | .trainData via ctx jobTag j tokens => Sys2Proof.Machine.execTrainData via ctx jobTag j tokens s
  | .dillTrainingSwitch p => Sys2Proof.Machine.execDillTrainingSwitch p s
  | .trainingSegmentPosting p => Sys2Proof.Machine.execTrainingSegmentPosting p s
  | .checkpointPageCopy w => Sys2Proof.Machine.execCheckpointPageCopy w s
  | .checkpointClose p => Sys2Proof.Machine.execCheckpointClose p s
  | .presenceDecision p => Sys2Proof.Machine.execPresenceDecision p s
  | .rankLeaveDeadline p => Sys2Proof.Machine.execRankLeaveDeadline p s
  | .getVersion fn => Sys2Proof.Machine.execGetVersion fn s
  | .getCapabilities fn => Sys2Proof.Machine.execGetCapabilities fn s
  | .negotiateAlgorithms fn baseHash sig kex aead => Sys2Proof.Machine.execNegotiateAlgorithms fn baseHash sig kex aead s
  | .getDigests fn => Sys2Proof.Machine.execGetDigests fn s
  | .getCertificate fn slot => Sys2Proof.Machine.execGetCertificate fn slot s
  | .challenge fn slot nonce => Sys2Proof.Machine.execChallenge fn slot nonce s
  | .keyExchange fn encapKey => Sys2Proof.Machine.execKeyExchange fn encapKey s
  | .finish fn verifyData => Sys2Proof.Machine.execFinish fn verifyData s
  | .endSession fn => Sys2Proof.Machine.execEndSession fn s
  | .keyUpdate fn => Sys2Proof.Machine.execKeyUpdate fn s
  | .heartbeat fn => Sys2Proof.Machine.execHeartbeat fn s
  | .heartbeatMissed fn => Sys2Proof.Machine.execHeartbeatMissed fn s
  | .tenantClaim vf cred => Sys2Proof.Machine.execTenantClaim vf cred s
  | .tenantProve vf mac => Sys2Proof.Machine.execTenantProve vf mac s
  | .qrekey vf qp => Sys2Proof.Machine.execQrekey vf qp s
  | .attest via tenantForm nonce firstCtx reply => Sys2Proof.Machine.execAttest via tenantForm nonce firstCtx reply s
  | .tenantSet via tenant quota mask => Sys2Proof.Machine.execTenantSet via tenant quota mask s
  | .tenantRevoke via tenant => Sys2Proof.Machine.execTenantRevoke via tenant s
  | .vfAssign via vf tenant => Sys2Proof.Machine.execVfAssign via vf tenant s
  | .debugChallenge via => Sys2Proof.Machine.execDebugChallenge via s
  | .debugUnlock via scope sig => Sys2Proof.Machine.execDebugUnlock via scope sig s
  | .debugNonceExpiry => Sys2Proof.Machine.execDebugNonceExpiry s
  | .signingToken => Sys2Proof.Machine.execSigningToken s
  | .perBootTreeCertify => Sys2Proof.Machine.execPerBootTreeCertify s
  | .successorTreeReady => Sys2Proof.Machine.execSuccessorTreeReady s
  | .drbgReseed => Sys2Proof.Machine.execDrbgReseed s
  | .sageSensorEvent sensor => Sys2Proof.Machine.execSageSensorEvent sensor s
  | .bayLockRead r n => Sys2Proof.Machine.execBayLockRead r n s
  | .bayRelease ep n => Sys2Proof.Machine.execBayRelease ep n s
  | .bayDoorbell ep n => Sys2Proof.Machine.execBayDoorbell ep n s
  | .bayAck ep n status value => Sys2Proof.Machine.execBayAck ep n status value s
  | .bayTimeoutExpiry n => Sys2Proof.Machine.execBayTimeoutExpiry n s
  | .bayWakeComplete n => Sys2Proof.Machine.execBayWakeComplete n s
  | .bayLockBreak n => Sys2Proof.Machine.execBayLockBreak n s
  | .zeroise via => Sys2Proof.Machine.execZeroise via s
  | .powerOff via => Sys2Proof.Machine.execPowerOff via s
  | .fwUpdate via first len => Sys2Proof.Machine.execFwUpdate via first len s
  | .fwProgramComplete readBackOk => Sys2Proof.Machine.execFwProgramComplete readBackOk s
  | .telemetry via reply => Sys2Proof.Machine.execTelemetry via reply s
  | .exportCmd via ctx state => Sys2Proof.Machine.execExportCmd via ctx state s
  | .exportComplete area => Sys2Proof.Machine.execExportComplete area s
  | .exportRelease via area => Sys2Proof.Machine.execExportRelease via area s
  | .sqDoorbell vf qp tail entries => Sys2Proof.Machine.execSqDoorbell vf qp tail entries s
  | .generate via ctx total maxNew stop params prompt => Sys2Proof.Machine.execGenerate via ctx total maxNew stop params prompt s
  | .cancel via htag => Sys2Proof.Machine.execCancel via htag s
  | .cqHeadWrite vf qp head => Sys2Proof.Machine.execCqHeadWrite vf qp head s
  | .d2hHeadWrite vf qp head => Sys2Proof.Machine.execD2hHeadWrite vf qp head s
  | .interruptDelayExpiry vf qp => Sys2Proof.Machine.execInterruptDelayExpiry vf qp s
  | .queuePairEnable vf qp v => Sys2Proof.Machine.execQueuePairEnable vf qp v s
  | .atsInvalidation vf inv => Sys2Proof.Machine.execAtsInvalidation vf inv s
  | .windowRead frame off => Sys2Proof.Machine.execWindowRead frame off s
  | .windowWrite frame off data => Sys2Proof.Machine.execWindowWrite frame off data s
  | .cxlLinkDown => Sys2Proof.Machine.execCxlLinkDown s
  | .pf0Flr => Sys2Proof.Machine.execPf0Flr s
  | .vfFlr vf => Sys2Proof.Machine.execVfFlr vf s
  | .dataPacket port pkt => Sys2Proof.Machine.execDataPacket port pkt s
  | .pipePacket port pkt => Sys2Proof.Machine.execPipePacket port pkt s
  | .ckptPacket port pkt => Sys2Proof.Machine.execCkptPacket port pkt s
  | .bayPacket port write off data => Sys2Proof.Machine.execBayPacket port write off data s
  | .packetNak port seq => Sys2Proof.Machine.execPacketNak port seq s
  | .ident port slot serial settled engChain chain sig => Sys2Proof.Machine.execIdent port slot serial settled engChain chain sig s
  | .kemKey port key => Sys2Proof.Machine.execKemKey port key s
  | .kemCt port ct => Sys2Proof.Machine.execKemCt port ct s
  | .keyAt port tick => Sys2Proof.Machine.execKeyAt port tick s
  | .linkKeySwitch port => Sys2Proof.Machine.execLinkKeySwitch port s
  | .modePropose port mode tick => Sys2Proof.Machine.execModePropose port mode tick s
  | .modeAccept port => Sys2Proof.Machine.execModeAccept port s
  | .modeReject port => Sys2Proof.Machine.execModeReject port s
  | .linkModeSwitch port => Sys2Proof.Machine.execLinkModeSwitch port s
  | .modeProposeRetry port => Sys2Proof.Machine.execModeProposeRetry port s
  | .pipeBind port student => Sys2Proof.Machine.execPipeBind port student s
  | .pipeUnbind port student => Sys2Proof.Machine.execPipeUnbind port student s
  | .leave port rank jobTag => Sys2Proof.Machine.execLeave port rank jobTag s
  | .alignReq port tick cyc => Sys2Proof.Machine.execAlignReq port tick cyc s
  | .alignRsp port sent received turnaround => Sys2Proof.Machine.execAlignRsp port sent received turnaround s
  | .levelReq port level => Sys2Proof.Machine.execLevelReq port level s
  | .levelSet port level tick => Sys2Proof.Machine.execLevelSet port level tick s
  | .reject port seq => Sys2Proof.Machine.execReject port seq s
  | .fennelPortDown port kind => Sys2Proof.Machine.execFennelPortDown port kind s
  | .portRetrainTimer port => Sys2Proof.Machine.execPortRetrainTimer port s
  | .portTrainingComplete info => Sys2Proof.Machine.execPortTrainingComplete info s
  | .fnlRetrain mask => Sys2Proof.Machine.execFnlRetrain mask s
  | .fnlRekey mask => Sys2Proof.Machine.execFnlRekey mask s
  | .linkCounterRekey port => Sys2Proof.Machine.execLinkCounterRekey port s
  | .fnlModeWrite v c => Sys2Proof.Machine.execFnlModeWrite v c s
  | .fennelShareWrite port hi v => Sys2Proof.Machine.execFennelShareWrite port hi v s
  | .powerGoodRise env => Sys2Proof.Machine.execPowerGoodRise env s
  | .powerGoodLoss => Sys2Proof.Machine.execPowerGoodLoss s
  | .perstAssert env => Sys2Proof.Machine.execPerstAssert env s
  | .perstDeassert cxl => Sys2Proof.Machine.execPerstDeassert cxl s
  | .rstModuleRequest v c env => Sys2Proof.Machine.execRstModuleRequest v c env s
  | .partitionReset p status => Sys2Proof.Machine.execPartitionReset p status s
  | .railFault domain => Sys2Proof.Machine.execRailFault domain s
  | .rootPllLockLoss => Sys2Proof.Machine.execRootPllLockLoss s
  | .referenceLoss => Sys2Proof.Machine.execReferenceLoss s
  | .powerDomainSwitch v => Sys2Proof.Machine.execPowerDomainSwitch v s
  | .zeroisationComplete => Sys2Proof.Machine.execZeroisationComplete s
  | .sysRecoveryCommit => Sys2Proof.Machine.execSysRecoveryCommit s
  | .sysRecoveryData w => Sys2Proof.Machine.execSysRecoveryData w s
  | .recoveryProgramComplete readBackOk env => Sys2Proof.Machine.execRecoveryProgramComplete readBackOk env s
  | .dillWatchdogExpiry p => Sys2Proof.Machine.execDillWatchdogExpiry p s
  | .rosemaryWatchdogExpiry => Sys2Proof.Machine.execRosemaryWatchdogExpiry s
  | .lifeHourUpdate celsius => Sys2Proof.Machine.execLifeHourUpdate celsius s
  | .pairLatchTimeout => Sys2Proof.Machine.execPairLatchTimeout s
  | .loHalfRead o off => Sys2Proof.Machine.execLoHalfRead o off s
  | .rcRead o off => Sys2Proof.Machine.execRcRead o off s
  | .registerWrite o off data env => Sys2Proof.Machine.execRegisterWrite o off data env s
  | .ctxImportComplete ctx => Sys2Proof.Machine.execCtxImportComplete ctx s
  | .ctxExportComplete ctx => Sys2Proof.Machine.execCtxExportComplete ctx s
  | .wayZeroisationComplete p => Sys2Proof.Machine.execWayZeroisationComplete p s
  | .groupZeroisationComplete g => Sys2Proof.Machine.execGroupZeroisationComplete g s
  | .thermtripDeassert celsius => Sys2Proof.Machine.execThermtripDeassert celsius s
  | .referenceRestored => Sys2Proof.Machine.execReferenceRestored s
  | .cxlLinkTrained cfg => Sys2Proof.Machine.execCxlLinkTrained cfg s
  | .hostSnoop addr => Sys2Proof.Machine.execHostSnoop addr s
  | .ideKm enable => Sys2Proof.Machine.execIdeKm enable s
  | .configurationRequest fn => Sys2Proof.Machine.execConfigurationRequest fn s
  | .refusedRead o off width => Sys2Proof.Machine.execRefusedRead o off width s

end Sys2Proof.Machine
end

