-- ==== Sys2Proof/Safety.lean ====
section
/-! DEFINITION. What claims about whole runs speak of: the invariant of every state a command leaves, and what no command
may undo; and the small propositions in which the statements of Certificates/ are written. -/

namespace Sys2Proof.Machine

/-- Byte memories in canonical form, every page entry beside its complement (R185), FNL_MODE beside its complement (R444),
and SYS_STATE one of the six states of Table 17-7. -/
structure Inv (s : State) : Prop where
  scratch : Memory.wf s.scratch = true
  cim : Memory.wf s.cim = true
  scales : Memory.wf s.scales = true
  stack : Memory.wf s.stack = true
  cache : Memory.wf s.cacheBytes = true
  pages : ∀ g, (s.page g).ok = true
  mode : s.fnlMode.ok = true
  state : s.sys.state.toNat ≤ 5

/-- What holds of a state `s` that commands reach from `r`: the invariant, the queue as it was, blown fuses still blown
(R426), and no leaf of the top signing tree given back (R419). -/
structure Kept (r s : State) : Prop where
  scratch : Memory.wf s.scratch = true
  cim : Memory.wf s.cim = true
  scales : Memory.wf s.scales = true
  stack : Memory.wf s.stack = true
  cache : Memory.wf s.cacheBytes = true
  pages : ∀ g, (s.page g).ok = true
  mode : s.fnlMode.ok = true
  state : s.sys.state.toNat ≤ 5
  queue : s.pending = r.pending
  fuses : r.sage.blown.toNat ≤ s.sage.blown.toNat
  tree : r.sage.topNext.toNat ≤ s.sage.topNext.toNat

/-- Every byte that the block holds reads in `t` as in `s`: scratchpads, macro cells, scale stores, stacks and cache. -/
def SameBytes (s t : State) : Prop :=
  ∀ a, bget t.scratch a = bget s.scratch a ∧ bget t.cim a = bget s.cim a ∧ bget t.scales a = bget s.scales a ∧
    bget t.stack a = bget s.stack a ∧ bget t.cacheBytes a = bget s.cacheBytes a

/-- From `s` to `t` core `c` issues one instruction (R219): time reaches the cycle of issue, the next issue is a cycle later
at the earliest, and nothing outside the core changes. -/
def Issued (s t : State) (c : Nat) : Prop :=
  t = { s with gov := { s.gov with now := issueTime s c }, cores := t.cores } ∧
  (∀ x, x ≠ c → t.core x = s.core x) ∧ (t.core c).lastIssue = issueTime s c + 1

/-- Core `c` issues an instruction whose effect on the core is that scalar register `d` takes `v`; a write to s0 is ignored
(R218), and every other register keeps its value. -/
def WritesReg (s t : State) (c : Nat) (d : SReg) (v : W32) : Prop :=
  Issued s t c ∧
  t.core c = { s.core c with pc := (s.core c).pc + 1, lastIssue := issueTime s c + 1, regs := (t.core c).regs } ∧
  ∀ r, (t.core c).reg r = if r = d ∧ d ≠ 0 then v else (s.core c).reg r

/-- Core `c` issues an instruction that leaves the core as `k` is, but for the program counter and the cycle of the next
issue. -/
def IssuedAs (s t : State) (c : Nat) (k : Core) : Prop :=
  Issued s t c ∧ t.core c = { k with lastIssue := issueTime s c + 1 }

/-! ### Words of the statements -/

/-- Core `c` issued engine instruction `op` into its queue: the entry keeps the address, the stamp that S asks for,
the registers that the instruction names and the loop indices of the issue (R219, R220, R225). -/
def Enqueued (s t : State) (c : Nat) (h : Hdr) (op : EngineOp) : Prop :=
  Issued s t c ∧ (t.core c).pc = (s.core c).pc + 1 ∧ (t.core c).regs = (s.core c).regs ∧
  (∀ n, n ≠ opQueue op → (t.core c).queue n = (s.core c).queue n) ∧
  ∃ e : QEntry, (t.core c).queue (opQueue op) = (s.core c).queue (opQueue op) ++ [e] ∧ e.op = op ∧ e.pc = (s.core c).pc ∧
    e.stamp = (if h.s then some (32 * (regionBase (s.core c).loops (s.core c).segBase + h.tick.toNat) + h.cyc.toNat) else none) ∧
    (∀ r ∈ opRegs op, (r, (s.core c).reg r) ∈ e.regs) ∧ e.loops = (s.core c).loops ∧ e.launched = none

/-- The environment in which the bytes of a COMMIT are read at its completion: time at most 64 cycles after its last
burst (R211), the cycles of the core up to then counted. -/
def commitEnv (s : State) (c p : Nat) (e : QEntry) (l : Launched) : Env :=
  let s := s.advance (max l.land (min s.gov.now (l.land + 64)))
  let s := countTo s c p s.gov.now
  ⟨overlay s l.recv, c, s.core c, p, (s.part p).live.ways.v, e, l.at_⟩

/-- No launched entry of the core has work left that falls due before its completion (R123, R245, Table 4-3). -/
def NothingDue (k : Core) : Prop := ∀ q ∈ k.queues, ∀ e ∈ q.2, ∀ l, e.launched = some l → l.todo = []

/-- Core `c` is one of the running job's, and has not come to its END, so that the job goes on (R334). -/
def GoesOn (s : State) (p c : Nat) : Prop :=
  ∀ i x, (s.part p).running = some i → ((s.part p).img.getD i Img.fresh).info = some x → c ∈ x.cores ∧ (s.core c).ended = false

/-- No Chive transfer of the partition is in flight, so that a job's end cuts none off (R213). -/
def NoneInFlight (s : State) (p : Nat) : Prop :=
  ∀ c ∈ coresOf s p, ∀ q, q = 3 ∨ q = 5 → ∀ e ∈ (s.core c).queue q, ∀ l, e.launched = some l → l.dead = true

/-- No page entry disagrees with its complement (R185). -/
def PagesOk (s : State) : Prop := ∀ g, (s.page g).ok = true

/-- No load of the partition is in progress whose end would meet a page entry that disagrees with its complement (R185, R311). -/
def LoadEnds (s : State) (p : Nat) : Prop := (s.part p).load = none ∨ PagesOk s

/-- No context's bindings disagree with their complements (R352). -/
def ContextsOk (s : State) : Prop := ∀ c, (s.ctx c).ok = true

/-- A pair whose halves disagree: only the mismatch count and its log change (R569). -/
def PairCounted (s t : State) : Prop :=
  t = { s with sys := { s.sys with
    pairMismatch := t.sys.pairMismatch, pairKind := t.sys.pairKind, pairOff := t.sys.pairOff
    pairValid := t.sys.pairValid } } ∧
  t.sys.pairMismatch = satAdd s.sys.pairMismatch 1 ∧ t.sys.pairValid = true

/-- Nothing waits on port `n` to leave, so that what the block sends there leaves at once (R502). -/
def LineFree (s : State) (n : Nat) : Prop := (s.port n).waiting = []

/-- The module runs commands: READY, and no zeroisation is in progress (Table 17-7). -/
def Ready (s : State) : Prop := s.sys.state = 1 ∧ s.sage.zeroising = none

/-- Mailbox `n` holds a message that waits for its answer (R464). -/
def Waits (s : State) (n : Nat) : Prop := (s.mbox n).pending = true ∧ (s.mbox n).timeout = false

/-- Mailbox `n` shows an answer with a status and a value (R464). -/
def Answered (s t : State) (n : Nat) (st : Status) (value : Nat) : Prop :=
  t.mbox n = { s.mbox n with pending := false, done := true, status := st, value := BitVec.ofNat 24 value }

/-- Queue pair `q` of VF `vf` takes tenant commands: it is on and holds a key, and the VF's assignment agrees with its
complement (R431, R433). The host maps every page of the VF (R481). -/
def Serves (s : State) (vf : VfN) (q : QpN) : Prop :=
  (s.qp vf q).on = true ∧ (s.qp vf q).keyed = true ∧ (tenantOf s vf).ok = true ∧
  s.cxl.unmapped.all (fun e => e.1 != vf.val) = true

/-- Such a pair, and a context that it may name (R354) and that is neither DELETING nor damaged. -/
def Names (s : State) (vf : VfN) (q : QpN) (c : BitVec 16) : Prop :=
  Serves s vf q ∧ c.toNat < 49152 ∧ mayName (s.ctx c.toNat) vf q (tenantOf s vf).v = true ∧ (s.ctx c.toNat).ok = true ∧
  (s.ctx c.toNat).state ≠ 6

/-- The queue pair takes one completion with these fields (Table 15-3), and its sealed payload `data`. -/
def Reported (s t : State) (vf : VfN) (q : QpN) (htag : W32) (cmd ctx : BitVec 16) (st : Status) (value : Nat) (data : List Byte) : Prop :=
  ∃ c : Completion,
    t.qp vf q = (s.qp vf q).push (vf.val * 32 + q.val) s.gov.now c ∧ c.htag = htag ∧ c.command = cmd ∧ c.ctx = ctx ∧ c.status = st ∧
    c.value = BitVec.ofNat 32 value ∧ c.data = data ∧ c.pstatus = false

/-- From `s` to `t` the context `c` alone becomes `x`. -/
def CtxBecomes (s t : State) (c : Nat) (x : Ctx) : Prop := ∀ k, t.ctx k = if k = c then x else s.ctx k

/-- A packet of this type, kind and arguments leaves through port `n` (R498, Table 16-3). -/
def Sent (s t : State) (n type kind : Nat) (args : List Nat) : Prop :=
  ∃ k : OutPkt, (t.port n).out = (s.port n).out ++ [k] ∧ k.type = type ∧ k.kind = kind ∧ k.args = args

/-- The macros fused off at manufacture and those that have failed in service leave what R3 guarantees: 960 good macros in
every core and 1,269,760 in the module. -/
def MacrosSuffice (s : State) : Prop :=
  let bad := (s.fused ++ s.err.hardFail).filter fun m => decide (m < 1310720)
  guaranteeHolds { s with macros := bad.foldl (fun l m => sput MacroSt.fresh l m { MacroSt.fresh with bad := true }) [] } = true

/-- What the parts outside the model answer to a start-up that nothing fails (Table 17-3). -/
def GoodStart (e : StartEnv) : Prop :=
  e.selfTestOk = true ∧ e.fuseOk = true ∧ e.image = 0 ∧ e.rosemaryOk = true ∧ e.pllOk = true ∧ e.badChannel = none ∧ e.badMacros = [] ∧
  e.cacheOk = true ∧ e.ports = [] ∧ e.perstHigh = true ∧ e.svnOk = true

end Sys2Proof.Machine
end

