-- ==== Sys2Proof/Certificates/Slice0/Obligations.lean ====
section
/-! DEFINITION. The statements for the provers. Each says which rules it rests on; where a clause rests on a choice of the
model, it names the log entry. -/

section Statements

open Sys2Proof Sys2Proof.Machine

/-- R235: SLI, SADD, SADDI, SSUB, SMUL, SAND, SOR and SXOR on unsigned 32-bit values that wrap modulo 2^32, of every core
that may issue and for every register, s0 (R218) among the sources and destinations. R235: SSHL and SSHR shift by bits
[4:0] of the second operand, SSHR fills with zeros; SMIN and SMAX compare unsigned values. -/
def Obligations.ScalarInstructionsCompute : Prop :=
  (∀ (s : State) (c : CoreN) (d a b : SReg) (imm : W32), (s.core c).canIssue = true →
     (∃ t, exec (.sli c d imm) s = .next t ∧ WritesReg s t c d imm) ∧
     (∃ t, exec (.sadd c d a b) s = .next t ∧
       WritesReg s t c d ((s.core c).reg a + (s.core c).reg b)) ∧
     (∃ t, exec (.saddi c d a imm) s = .next t ∧ WritesReg s t c d ((s.core c).reg a + imm)) ∧
     (∃ t, exec (.ssub c d a b) s = .next t ∧
       WritesReg s t c d ((s.core c).reg a - (s.core c).reg b)) ∧
     (∃ t, exec (.smul c d a b) s = .next t ∧
       WritesReg s t c d ((s.core c).reg a * (s.core c).reg b)) ∧
     (∃ t, exec (.sand c d a b) s = .next t ∧ WritesReg s t c d ((s.core c).reg a &&& (s.core c).reg b)) ∧
     (∃ t, exec (.sor c d a b) s = .next t ∧ WritesReg s t c d ((s.core c).reg a ||| (s.core c).reg b)) ∧
     (∃ t, exec (.sxor c d a b) s = .next t ∧ WritesReg s t c d ((s.core c).reg a ^^^ (s.core c).reg b))) ∧
  (∀ (s : State) (c : CoreN) (d a b : SReg), (s.core c).canIssue = true →
     (∃ t, exec (.sshl c d a b) s = .next t ∧
       WritesReg s t c d (BitVec.ofNat 32 (((s.core c).reg a).toNat * 2 ^ (((s.core c).reg b).extractLsb' 0 5).toNat))) ∧
     (∃ t, exec (.sshr c d a b) s = .next t ∧
       WritesReg s t c d (BitVec.ofNat 32 (((s.core c).reg a).toNat / 2 ^ (((s.core c).reg b).extractLsb' 0 5).toNat))) ∧
     (∃ t, exec (.smin c d a b) s = .next t ∧
       WritesReg s t c d (BitVec.ofNat 32 (min ((s.core c).reg a).toNat ((s.core c).reg b).toNat))) ∧
     (∃ t, exec (.smax c d a b) s = .next t ∧
       WritesReg s t c d (BitVec.ofNat 32 (max ((s.core c).reg a).toNat ((s.core c).reg b).toNat))))

/-- R235: SLD reads the aligned word that holds (sA + IMM) mod 2^21 of the core's own scratchpad, SST writes it and no
other byte, SIDX reads the index of a loop level or 0, SFEAT feature register N as Table 7-17 gives each of the 64: 0 to 7,
the map digest in 8 to 15, 16 with the tick length of the throttle level in force, 17 to 26, and 0 for 27 to 63. -/
def Obligations.ScalarWordsIndicesFeatures : Prop :=
  ∀ (s : State) (c : CoreN) (d a : SReg) (imm : W32) (level : BitVec 2) (index : BitVec 6), (s.core c).canIssue = true →
    (∃ t, exec (.sld c d a imm) s = .next t ∧
      let w := c * 2 ^ 21 + (((s.core c).reg a).toNat + imm.toNat) % 2 ^ 21 / 4 * 4
      WritesReg s t c d (bget s.scratch (w + 3) ++ bget s.scratch (w + 2) ++ bget s.scratch (w + 1) ++ bget s.scratch w)) ∧
    (∃ t, exec (.sst c d a imm) s = .next t ∧
      t = { s with gov := { s.gov with now := issueTime s c }, cores := t.cores, scratch := t.scratch } ∧
      (∀ x, t.core x = if x = c.val then { s.core c with pc := (s.core c).pc + 1, lastIssue := issueTime s c + 1 } else s.core x) ∧
      ∀ x, bget t.scratch x =
        let w := c * 2 ^ 21 + (((s.core c).reg a).toNat + imm.toNat) % 2 ^ 21 / 4 * 4
        if w ≤ x ∧ x < w + 4 then ((s.core c).reg d).extractLsb' (8 * (x - w)) 8 else bget s.scratch x) ∧
    (∃ t, exec (.sidx c d level) s = .next t ∧
      WritesReg s t c d (if h : level.toNat < (s.core c).loops.length then BitVec.ofNat 32 ((s.core c).loops[level.toNat]'h).idx else 0)) ∧
    (∃ t, exec (.sfeat c d index) s = .next t ∧ WritesReg s t c d
      (match index.toNat with
       | 0 => if s.sage.es then 1 else 0
       | 1 => 17
       | 2 => 4095
       | 3 => 34768128
       | 4 => 2064
       | 5 => 1310720
       | 6 => BitVec.ofNat 32 (1310720 - (badMacros s).length)
       | 7 => BitVec.ofNat 32 (goodMin s)
       | 16 => BitVec.ofNat 32 (32 + 256 * ((512 + (16 - s.gov.level) - 1) / (16 - s.gov.level)))
       | 17 => 327168000
       | 18 => 1024
       | 19 => 1207975936
       | 20 => 1210058752
       | 21 => 1077944352
       | 22 => 2064
       | 23 => 2097664
       | 24 => 249969676
       | 25 => 573440
       | 26 => 7
       | n => if 8 ≤ n ∧ n ≤ 15 then (mapDigest s).extractLsb' (32 * (n - 8)) 32 else 0))

/-- R219, R235, R236, R238: NOP only takes its issue; a WAITQ whose condition is met issues, one whose condition is unmet
holds issue; TILE and DSTEP hold issue from then on; at cycle 0 of the posted tick, which becomes the segment base, issue
resumes. A WAITQ on a queue number 5 to 7 waits for nothing (the model's choice, log 35). -/
def Obligations.WaitsHoldIssue : Prop :=
  ∀ (s : State) (c : CoreN) (h : Hdr) (save resume : BitVec 14) (queue : BitVec 3) (depth : BitVec 7) (tick : Nat),
    ((s.core c).canIssue = true →
      (∃ t, exec (.nop c) s = .next t ∧ IssuedAs s t c { s.core c with pc := (s.core c).pc + 1 }) ∧
      (((s.core c).depth queue.toNat ≤ depth.toNat ∨ 5 ≤ queue.toNat) →
        ∃ t, exec (.waitq c queue depth) s = .next t ∧ IssuedAs s t c { s.core c with pc := (s.core c).pc + 1 }) ∧
      (∃ t, exec (.tile c h save resume) s = .next t ∧
        IssuedAs s t c { s.core c with
          pc := (s.core c).pc + 1
          wait := .tile (32 * (regionBase (s.core c).loops (s.core c).segBase + h.tick.toNat) + h.cyc.toNat) save resume (s.core c).pc
          lastTile := ((s.core c).pc, save, resume) } ∧ (t.core c).canIssue = false) ∧
      (∃ t, exec (.dstep c) s = .next t ∧ (∃ a b,
        IssuedAs s t c { s.core c with pc := (s.core c).pc + 1, wait := .dstep a b } ∧
        ((s.core c).lastTile.1 + 1 = (s.core c).pc → (a, b) = (s.core c).lastTile.2)) ∧ (t.core c).canIssue = false)) ∧
    (depth.toNat < (s.core c).depth queue.toNat → queue.toNat < 5 → exec (.waitq c queue depth) s = .next s) ∧
    ((s.core c).wait = .posted tick →
      ∃ t, exec (.dstepResume c) s = .next t ∧ t = { s with gov := { s.gov with now := max s.gov.now (32 * tick) }, cores := t.cores } ∧
        ∀ x, t.core x = if x = c.val then { s.core c with wait := .none, segBase := tick, lastIssue := max (s.core c).lastIssue (32 * tick) }
          else s.core x)

/-- R227: a LOOP with count 0 goes to the instruction after the body end and opens no level; any other opens one at the
register's count, at index 0 and at the tick its stamp resolves to; at the body end the level returns to the body start
while index + 1 is below the count, and otherwise closes. -/
def Obligations.LoopsRunTheirCounts : Prop :=
  ∀ (s : State) (c : CoreN) (h : Hdr) (cnt : SReg) (last : BitVec 14) (period : BitVec 16) (l : LoopLvl) (outer : List LoopLvl),
    ((s.core c).canIssue = true → (s.core c).loops.length < 4 →
      ∃ t, exec (.loop c h cnt last period) s = .next t ∧ Issued s t c ∧
        (if (s.core c).reg cnt = 0 then (t.core c).pc = last + 1 ∧ (t.core c).loops = (s.core c).loops
         else (t.core c).pc = (s.core c).pc + 1 ∧
           (t.core c).loops = (s.core c).loops ++
             [⟨(s.core c).pc + 1, last, ((s.core c).reg cnt).toNat, 0,
               regionBase (s.core c).loops (s.core c).segBase + h.tick.toNat + h.cyc.toNat / 32, period.toNat⟩]) ∧
        (t.core c).regs = (s.core c).regs ∧ (t.core c).st = (s.core c).st) ∧
    ((s.core c).loops = outer ++ [l] → (s.core c).pc = l.last + 1 → (s.core c).st = .running → (s.core c).ended = false →
      (s.core c).halted = false → (s.core c).wait = .none →
      ∃ t, exec (.loopIterationStart c) s = .next t ∧ t = { s with cores := t.cores } ∧ (∀ x, x ≠ c.val → t.core x = s.core x) ∧
        (if l.idx + 1 < l.count then (t.core c).pc = l.body ∧ (t.core c).loops = outer ++ [{ l with idx := l.idx + 1 }]
         else (t.core c).pc = (s.core c).pc ∧ (t.core c).loops = outer) ∧
        (t.core c).regs = (s.core c).regs ∧ (t.core c).lastIssue = (s.core c).lastIssue)

/-- R237, R283: a BUDGET that issues two ticks or more before its tick T declares Q from T on for its span. R228: a
reserved opcode and a fifth LOOP are not executed; the core issues nothing further and CORE_FAULT records CAUSE 3,
BAD_FORMAT and the instruction's address. R235: END ends the core's part of the job; while another core of the job has not
ended, nothing else changes, and with the last, no Chive transfer of the partition being in flight (R213 ends those), the
image is READY with LAST_STATUS OK (Table 10-2). -/
def Obligations.BudgetReservedAndEnd : Prop :=
  ∀ (s : State) (c : CoreN) (h : Hdr) (q : BitVec 8) (span : BitVec 16) (cnt : SReg) (last : BitVec 14) (period : BitVec 16),
    (s.core c).canIssue = true →
    (issueTime s c / 32 + 2 ≤ regionBase (s.core c).loops (s.core c).segBase + h.tick.toNat → h.cyc = 0 →
      ∃ t, exec (.budget c h q span) s = .next t ∧
        IssuedAs s t c { s.core c with
          pc := (s.core c).pc + 1
          budget := ⟨regionBase (s.core c).loops (s.core c).segBase + h.tick.toNat, span.toNat, q.toNat,
            regionBase (s.core c).loops (s.core c).segBase + h.tick.toNat⟩ :: (s.core c).budget }) ∧
    ((s.core c).fault.valid = false →
      (∃ t, exec (.reservedOpcode c) s = .next t ∧ (t.core c).halted = true ∧ (t.core c).canIssue = false ∧ (t.core c).pc = (s.core c).pc ∧
        (t.core c).fault.valid = true ∧ (t.core c).fault.cause = 3 ∧ (t.core c).fault.status = St.badFormat ∧
        (t.core c).fault.pc = (s.core c).pc ∧ SameBytes s t) ∧
      (4 ≤ (s.core c).loops.length →
        ∃ t, exec (.loop c h cnt last period) s = .next t ∧ (t.core c).halted = true ∧ (t.core c).fault.cause = 3 ∧
          (t.core c).loops = (s.core c).loops ∧ SameBytes s t)) ∧
    ((∀ p, partOfCore s c = some p → ∃ i x y, (s.part p).running = some i ∧ ((s.part p).img.getD i Img.fresh).info = some x ∧
        y ∈ x.cores ∧ y ≠ c.val ∧ (s.core y).ended = false) →
      ∃ t, exec (.endJob c) s = .next t ∧ IssuedAs s t c { s.core c with pc := (s.core c).pc + 1, ended := true }) ∧
    (∀ p i x, partOfCore s c = some p → (s.part p).running = some i → ((s.part p).img.getD i Img.fresh).info = some x →
      (∀ y ∈ x.cores, (s.core y).drained = true ∧ (y = c.val ∨ (s.core y).ended = true)) → (s.part p).saving = false →
      NoneInFlight s p →
      ∃ t, exec (.endJob c) s = .next t ∧ (t.part p).running = none ∧ ((t.part p).img.getD i Img.fresh).st = .ready ∧
        ((t.part p).img.getD i Img.fresh).last = St.ok ∧ SameBytes s t)

/-- R219, Table 7-1: each engine instruction enters the queue of its engine at issue, while that queue is below its depth:
CIM and adapter engine 32, vector engine and Chive 64, link/reduction 16. R219: an instruction whose queue is full does
not issue, and nothing changes; so of one instruction of each queue. -/
def Obligations.EngineInstructionsEnterTheirQueues : Prop :=
  (∀ (s : State) (c : CoreN) (h : Hdr), (s.core c).canIssue = true →
     ((s.core c).depth 0 < 32 →
       (∀ f, ∃ t, exec (.cbuf c h f) s = .next t ∧ Enqueued s t c h (.cbuf f)) ∧
       (∀ f, ∃ t, exec (.cfwd c h f) s = .next t ∧ Enqueued s t c h (.cfwd f)) ∧
       (∀ f, ∃ t, exec (.ctrn c h f) s = .next t ∧ Enqueued s t c h (.ctrn f)) ∧
       (∀ f, ∃ t, exec (.cload c h f) s = .next t ∧ Enqueued s t c h (.cload f))) ∧
     ((s.core c).depth 1 < 32 → ∀ f, ∃ t, exec (.amm c h f) s = .next t ∧ Enqueued s t c h (.amm f)) ∧
     ((s.core c).depth 2 < 64 →
       (∀ f, ∃ t, exec (.varith c h f) s = .next t ∧ Enqueued s t c h (.varith f)) ∧
       (∀ f, ∃ t, exec (.vfunc c h f) s = .next t ∧ Enqueued s t c h (.vfunc f)) ∧
       (∀ f, ∃ t, exec (.vlogic c h f) s = .next t ∧ Enqueued s t c h (.vlogic f)) ∧
       (∀ f, ∃ t, exec (.vcvt c h f) s = .next t ∧ Enqueued s t c h (.vcvt f)) ∧
       (∀ f, ∃ t, exec (.vred c h f) s = .next t ∧ Enqueued s t c h (.vred f)) ∧
       (∀ f, ∃ t, exec (.vtopk c h f) s = .next t ∧ Enqueued s t c h (.vtopk f)) ∧
       (∀ f, ∃ t, exec (.vsplit c h f) s = .next t ∧ Enqueued s t c h (.vsplit f)) ∧
       (∀ f, ∃ t, exec (.vupd c h f) s = .next t ∧ Enqueued s t c h (.vupd f))) ∧
     ((s.core c).depth 3 < 64 →
       (∀ f, ∃ t, exec (.copy c h f) s = .next t ∧ Enqueued s t c h (.copy f)) ∧
       (∀ f, ∃ t, exec (.gather c h f) s = .next t ∧ Enqueued s t c h (.gather f)) ∧
       (∀ f, ∃ t, exec (.scatter c h f) s = .next t ∧ Enqueued s t c h (.scatter f)) ∧
       (∀ f, ∃ t, exec (.prefetch c h f) s = .next t ∧ Enqueued s t c h (.prefetch f) ∧
         (t.core c).rings = (s.core c).rings ++ [⟨f, 4, (s.core c).loops, (s.core c).pc⟩]) ∧
       (∀ f, ∃ t, exec (.commit c h f) s = .next t ∧ Enqueued s t c h (.commit f))) ∧
     ((s.core c).depth 4 < 16 →
       (∀ f, ∃ t, exec (.xsend c h f) s = .next t ∧ Enqueued s t c h (.xsend f)) ∧
       (∀ f, ∃ t, exec (.xlate c h f) s = .next t ∧ Enqueued s t c h (.xlate f)))) ∧
  (∀ (s : State) (c : CoreN) (h : Hdr),
     (32 ≤ (s.core c).depth 0 → ∀ f, exec (.cload c h f) s = .next s) ∧ (32 ≤ (s.core c).depth 1 → ∀ f, exec (.amm c h f) s = .next s) ∧
     (64 ≤ (s.core c).depth 2 → ∀ f, exec (.vred c h f) s = .next s) ∧ (64 ≤ (s.core c).depth 3 → ∀ f, exec (.prefetch c h f) s = .next s) ∧
     (16 ≤ (s.core c).depth 4 → ∀ f, exec (.xlate c h f) s = .next s))

/-- R90, R94: a scrub read of a macro row whose parity holds only moves on in the engine's order; one whose parity fails
marks the macro suspect, counts the error, and logs macro and row unless the log already holds an error. No stored byte
changes either way. R95: a reload window of a partition without a job that has one suspect macro lasts 64 ticks and writes
the macro's rows and scale codes from the FROZEN copy recorded at load; the macro is no longer suspect, and no other byte
of the module changes. With GUARD on, rows are written with their check words instead (R101), so the clause is of GUARD
off. -/
def Obligations.ParityErrorsAreFoundAndReloaded : Prop :=
  (∀ (s : State) (g : GroupN) (n : Nat) (rest : List Nat), s.pwr.on.getLsbD (2 + g) = true →
     (s.group g).rescrub = n :: rest → (s.macro1 (n / 257)).loaded = true → n % 257 < 256 →
     (rowDiff s (n / 257) (n % 257) = 0 →
       ∃ t, exec (.scrubRead g) s = .next t ∧ t = { s with groups := t.groups } ∧
         ∀ x, t.group x = if x = g.val then { s.group g with rescrub := rest } else s.group x) ∧
     (rowDiff s (n / 257) (n % 257) ≠ 0 →
       ∃ t, exec (.scrubRead g) s = .next t ∧ (t.macro1 (n / 257)).suspect.isSome ∧
         (∀ x, x ≠ n / 257 → t.macro1 x = s.macro1 x) ∧ (∀ x, x ≠ n / 257 / 1024 → t.core x = s.core x) ∧
         (t.core (n / 257 / 1024)).par.parity = satAdd (s.core (n / 257 / 1024)).par.parity 1 ∧
         (t.core (n / 257 / 1024)).par.valid = true ∧
         ((s.core (n / 257 / 1024)).par.valid = false →
           (t.core (n / 257 / 1024)).par.macroIx = BitVec.ofNat 10 (n / 257) ∧
           (t.core (n / 257 / 1024)).par.row = BitVec.ofNat 8 (n % 257) ∧ (t.core (n / 257 / 1024)).par.guard = false ∧
           (t.core (n / 257 / 1024)).par.scale = false) ∧ SameBytes s t)) ∧
  (∀ (s : State) (p : PartN) (m : Nat) (src : MacroSrc) (mode : WMode), (s.part p).st ≠ 0 → (s.part p).running = none →
     suspects s p = [m] → (s.macro1 m).src = some src → (s.macro1 m).mode = some mode → (s.part p).integ.guardOn = false →
     PagesOk s →
     ∃ t, exec (.reloadWindow ⟨p, []⟩) s = .next t ∧ t.gov.now = 32 * (s.gov.now / 32 + 64) ∧
       (∀ i, i < 16384 → bget t.cim (16384 * m + i) = bget s.stack (src.image + i)) ∧
       (∀ i, i < 256 → bget t.scales (256 * m + i) = bget s.stack (src.scale + i)) ∧
       (∀ a, a < 16384 * m ∨ 16384 * (m + 1) ≤ a → bget t.cim a = bget s.cim a) ∧
       (∀ a, a < 256 * m ∨ 256 * (m + 1) ≤ a → bget t.scales a = bget s.scales a) ∧
       (t.macro1 m).suspect = none ∧ (∀ x, x ≠ m → t.macro1 x = s.macro1 x) ∧ t.stack = s.stack ∧ t.scratch = s.scratch)

/-- R105, R108: PTN_AUDIT.START in READY, or the end of the audit period, starts a pass; a stored page whose hash differs
from its leaf refuses further jobs of the partition and shows SOURCE_MISMATCH, and a page that agrees does not. Of a base
of one page that no macro of the load layout covers; that the pass counts as in progress for one second is the model's
choice (log 29). R172, R173: the evaluation of a group's sample releases the capture buffer and counts one sample; it
counts a disagreement exactly when mint_disagree holds at the threshold code of the destination format; of the core it
changes the list of actions alone, which holds its vector-engine cycles. Nothing stored changes. -/
def Obligations.AuditsAndMintEvaluate : Prop :=
  (∀ (s : State) (p : PartN) (g : Nat) (leaf : BitVec 256), auditBusy s p = false → (s.part p).st ≠ 0 → (s.part p).basePages = [g] →
     (s.part p).baseLeaves = [leaf] → (s.part p).layout = [] → (s.page g).ok = true →
     (s.sys.state = 1 → ∃ t, exec (.auditStart p) s = .next t ∧ t.gov = s.gov ∧ (t.part p).integ.auditBusy = true ∧
       (t.part p).integ.passStart = s.tick ∧ SameBytes s t ∧
       if Config.sha256 (bread s.stack (g * 65536) 65536) = leaf then
         (t.part p).integ.refused = (s.part p).integ.refused ∧ (t.part p).integ.srcMis = (s.part p).integ.srcMis
       else (t.part p).integ.refused = true ∧ (t.part p).integ.srcMis = true) ∧
     (0 < (s.part p).integ.auditMin.toNat → ∃ t, exec (.auditPeriodExpiry p) s = .next t ∧ SameBytes s t ∧
       t.gov.now = max s.gov.now (32 * ((s.part p).integ.passStart + 60 * secondTicks * (s.part p).integ.auditMin.toNat)) ∧
       (t.part p).integ.passStart = t.gov.now / 32 ∧
       (Config.sha256 (bread s.stack (g * 65536) 65536) ≠ leaf → (t.part p).integ.refused = true))) ∧
  (∀ (s : State) (g : GroupN) (c p : Nat) (m : MintTile), (s.group g).mint = some (c, m) → partOfGroup s g = some p →
     ∃ t, exec (.mintEvaluation g) s = .next t ∧ t = { s with groups := t.groups, parts := t.parts, ctxs := t.ctxs, cores := t.cores } ∧
       (∀ x, t.core x = if x = c then { s.core c with acts := (t.core c).acts } else s.core x) ∧
       (∀ x, t.group x = if x = g.val then { s.group g with mint := none } else s.group x) ∧
       (∀ x, x ≠ p → t.part x = s.part x) ∧
       (t.part p).mint.samples = satAdd (s.part p).mint.samples 1 ∧ (t.part p).mint.skipped = (s.part p).mint.skipped ∧
       (t.part p).mint.disagree =
         if (mintDisagree m.xs m.ds (mintThreshold (s.part p).mint.threshOn m.fmt)).2.2 then satAdd (s.part p).mint.disagree 1
         else (s.part p).mint.disagree)

/-- R285: at each tick edge the committed current of every created partition follows its declared current within the slew
share, and what it keeps above that is held current. Of a module whose array-rail monitor agreed at the last edge. R290,
R569, R293: GOV_LEND takes an agreeing pair, and counts a pair whose ENABLE bits are not complements; the end of a loan
takes the grants of the borrower alone away, at the end of its step length while its job runs. -/
def Obligations.CommittedCurrentsAndLoans : Prop :=
  (∀ (s : State) (rail : Nat), s.gov.running = true → s.gov.diverge = 0 →
     ∃ t, exec (.committedCurrentUpdate rail) s = .next t ∧ t.gov.now = 32 * (s.gov.now / 32 + 1) ∧ SameBytes s t ∧
       t.gov.discard = [] ∧ t.sys = s.sys ∧ t.cores = s.cores ∧
       ∀ p, p < 8 →
         let d := partCurrent (s.advance (32 * (s.gov.now / 32 + 1))) p 16 (declaredCores s p (s.gov.now / 32 + 1))
         let c := (s.govPart p).committed
         if (s.part p).st = 0 then (t.govPart p).committed = c
         else
           (t.govPart p).committed = (if d ≤ c + slewOf s p then max d (c - slewOf s p) else c + slewOf s p) ∧
           (t.govPart p).held = (t.govPart p).committed - d ∧
           (t.govPart p).committed ≤ c + slewOf s p ∧ c ≤ (t.govPart p).committed + slewOf s p) ∧
  ((∀ (s : State) (v c : W32), s.sys.state = 1 →
     (v.getLsbD 0 ≠ c.getLsbD 0 → exec (.lendingEnable v c) s = .next { clearLatch s 0x101008 with gov := { s.gov with lend := Paired.of (v.extractLsb' 0 1) } }) ∧
     (v.getLsbD 0 = c.getLsbD 0 → ∃ t, exec (.lendingEnable v c) s = .next t ∧ PairCounted (clearLatch s 0x101008) t)) ∧
   (∀ (s : State) (p : PartN) (g : Grant), s.gov.grants.find? (fun x => x.borrower == p.val) = some g →
     exec (.loanGrantEnd p) s = .next { s with gov := { s.gov with
       now := if (s.part p).running.isSome then max s.gov.now (32 * g.endTick) else s.gov.now
       grants := s.gov.grants.filter fun x => x.borrower != p.val } }))

/-- R296: above 97 °C the requested level rises by one, at 92 °C or below it falls by one and never below FLOOR, and
between the two it stays; a level above 12 is never asked for. FLOOR takes values to 12; a floor not above the level in
force does nothing more. R296, R297, R586: a trip at 110 °C or above asserts THERMTRIP# and puts the level at 12 at once,
and the second in a power-on period enters Parsley with cause 5; at 100 °C or below the signal deasserts; a decided level
is in force from its tick on. -/
def Obligations.ThrottleFollowsTheSensor : Prop :=
  ((∀ (s : State) (celsius : Nat),
     ∃ t, exec (.throttleStep celsius) s = .next t ∧ t.gov.celsius = celsius ∧ t.gov.level = s.gov.level ∧ SameBytes s t ∧
       ownLevel t = if 97 < celsius ∧ ownLevel s < 12 then ownLevel s + 1
         else if celsius ≤ 92 ∧ s.gov.floor.toNat < ownLevel s then ownLevel s - 1 else ownLevel s) ∧
   (∀ (s : State) (v : W32), s.sys.state = 1 →
     (min (v.extractLsb' 0 4).toNat 12 ≤ s.gov.level → exec (.throttleFloorWrite v) s =
       .next { s with gov := { s.gov with floor := BitVec.ofNat 4 (min (v.extractLsb' 0 4).toNat 12) } }) ∧
     (s.gov.level < min (v.extractLsb' 0 4).toNat 12 → ∃ t, exec (.throttleFloorWrite v) s = .next t ∧
       t.gov.floor = BitVec.ofNat 4 (min (v.extractLsb' 0 4).toNat 12) ∧
       min (v.extractLsb' 0 4).toNat 12 ≤ ownLevel t ∧ t.gov.level = s.gov.level))) ∧
  ((∀ (s : State) (celsius : Nat), 110 ≤ celsius → s.gov.trip = false → discarded s .module = false → s.sys.state = 1 →
     ∃ t, exec (.thermalTrip celsius) s = .next t ∧ t.gov.level = 12 ∧ t.gov.trip = true ∧ t.gov.trips = s.gov.trips + 1 ∧
       t.pwr.thermtrip = true ∧ t.sys.state = (if s.gov.trips = 0 then 1 else 2) ∧
       (s.gov.trips ≠ 0 → t.sys.parCause = 5)) ∧
   (∀ (s : State) (celsius : Nat), s.gov.trip = true → celsius ≤ 100 →
     exec (.thermtripDeassert celsius) s =
       .next { s with gov := { s.gov with celsius := celsius, trip := false }, pwr := { s.pwr with thermtrip := false } }) ∧
   (∀ (s : State) (l n : Nat) (rest : List (Nat × Nat)), s.gov.pendingLevels = (l, n) :: rest →
     ∃ t, exec .throttleLevelApply s = .next t ∧
       t = { s with gov := { s.gov with now := max s.gov.now (32 * n), level := l, pendingLevels := rest }, err := t.err, cxl := t.cxl } ∧
       (s.gov.level = 0 → 0 < l → t.err.alert.getLsbD 3 = true)))

/-- R221, R222: the launch of the entry that is due on a queue brings time to its launch cycle, marks the entry launched,
and moves no byte of any memory: results land at completion. Of launches without a memory error event and without a copy
slot (R395), in a state whose page entries agree with their complements, by a core none of whose instructions in flight has
work that falls due before its completion (R123, R245). R221, R592: an entry that completes leaves its queue; one that was
refused at launch moves nothing, and a VARITH whose cycles were all within the limit and that no bank conflict of R180 holds
writes the bytes of its result, and no others, and sets status word and arrival stamp of the destination slot. Of cores
whose job goes on. -/
def Obligations.LaunchMovesNothingCompletionLands : Prop :=
  (∀ (s : State) (c : CoreN) (q : Fin 5) (e : QEntry) (p : Nat), PagesOk s → NothingDue (s.core c) →
     nextLaunch (s.core c) q = some e → partOfCore s c = some p → e ∈ (s.core c).queue (opQueue e.op) → (∀ f, e.op ≠ .copy f) →
     ∃ t, exec (.instructionLaunch c q []) s = .next t ∧ t.gov.now = max s.gov.now (dueTime s c p e) ∧ SameBytes s t ∧
       (∃ x ∈ (t.core c).queue (opQueue e.op), x.serial = e.serial ∧ x.launched.isSome) ∧ t.pages = s.pages) ∧
  (∀ (s : State) (c : CoreN) (q : Fin 5) (e : QEntry) (l : Launched) (p : Nat), nextLanding (s.core c) q = some (e, l) →
     partOfCore s c = some p → NothingDue (s.core c) → GoesOn s p c →
     (l.dead = true → ∃ t, exec (.instructionComplete c q) s = .next t ∧ SameBytes s t ∧
       ∀ x ∈ (t.core c).queue (opQueue e.op), x.serial ≠ e.serial) ∧
     (∀ (f : ElemF) (a : Nat) (bs : List Byte) (d : SlotDone), e.op = .varith f → (s.core c).acts = [] → (s.core c).banks = [] → l.dead = false → l.poison = false →
       l.early = l.land → l.writes = [⟨.scratch c, a, bs⟩] → l.slots = [d] → l.tiles = [] → l.mint = none → l.sregs = [] → d.kind = .set →
       ∃ t, exec (.instructionComplete c q) s = .next t ∧
         (∀ i, bget t.scratch i = if scrAddr c a ≤ i ∧ i < scrAddr c a + bs.length then bs.getD (i - scrAddr c a) 0 else bget s.scratch i) ∧
         t.cim = s.cim ∧ t.scales = s.scales ∧ t.stack = s.stack ∧ t.cacheBytes = s.cacheBytes ∧
         ((t.core d.core).slot d.slot).status = d.status ∧
         ((t.core d.core).slot d.slot).arrTick = BitVec.ofNat 64 (d.at_ / 32) ∧
         ((t.core d.core).slot d.slot).arrCyc = BitVec.ofNat 5 (d.at_ % 32) ∧
         (∀ x, x ≠ d.slot → (t.core d.core).slot x = (s.core d.core).slot x) ∧
         ∀ x ∈ (t.core c).queue (opQueue e.op), x.serial ≠ e.serial))

/-- R211, R212: a COMMIT that nothing stands against completes as one more snapshot of the context its source descriptor
names, at the lowest handle that none has, over pages that were free, with the base epoch; the instruction leaves its queue.
Of a module whose page entries agree with their complements (R185). -/
def Obligations.CommitFormsOneSnapshot : Prop :=
  ∀ (s : State) (c : CoreN) (ch : Fin 4) (e : QEntry) (l : Launched) (f : CommitF) (rest : List (QEntry × Launched × CommitF))
    (p : Nat) (gs : List Nat),
    commitsOn (s.core c) ch = (e, l, f) :: rest → partOfCore s c = some p → PagesOk s →
    let n := commitEnv s c p e l
    let k := ((commitBytes n f).length + 65535) / 65536
    let x := (n.view f.src).d.ctx.toNat
    commitCause n.s p x k l.poison (if (n.view f.src).d.tier = 2 then (n.view f.src).pages else []) = none →
    allocPages n.s (n.s.part p).live.chans.v (k + manifestPages k) = some gs →
    ∃ t d, exec (.commitComplete c ch) s = .next t ∧
      t.snaps = s.snaps ++ [⟨freshHandle s, BitVec.ofNat 16 x, gs.take k, gs.drop k, d, (n.s.part p).baseEpoch.v⟩] ∧
      ∀ y ∈ (t.core c).queue (opQueue e.op), y.serial ≠ e.serial

/-- R193, R195: a cache fill of a staged page puts the page into the line of its set and its way, byte for byte, as the most
recently used line; where the page's bytes do not hash to the leaf of its manifest the line stays empty, the failure counts
and the staging ends. Of a page whose entry agrees with its complement. -/
def Obligations.CacheFillChecksThePage : Prop :=
  ∀ (s : State) (p : PartN) (g : Nat) (st : Staging) (w : Nat), (s.part p).dill.staging = some st → g ∈ st.pages →
    fillWay s p g = some w → (s.page g).ok = true →
    ∃ t, exec (.cacheFill ⟨p, []⟩ g) s = .next t ∧
      ((∀ h, leafOf s st.snaps g = some h → Config.sha256 (bread s.stack (g * 65536) 65536) = h) →
        t = { s with lines := t.lines, cacheBytes := t.cacheBytes, useCtr := s.useCtr + 1, parts := t.parts } ∧
        (∀ i, sget none t.lines i = if i = lineIx (setOf g) w then some ⟨g, s.useCtr + 1⟩ else sget none s.lines i) ∧
        (∀ i, i < 65536 → bget t.cacheBytes (lineIx (setOf g) w * 65536 + i) = bget s.stack (g * 65536 + i)) ∧
        (∀ a, a < lineIx (setOf g) w * 65536 ∨ (lineIx (setOf g) w + 1) * 65536 ≤ a → bget t.cacheBytes a = bget s.cacheBytes a) ∧
        ((t.part p).dill.staging.map fun x => x.pages) = some (st.pages.filter (· != g))) ∧
      (∀ h, leafOf s st.snaps g = some h → Config.sha256 (bread s.stack (g * 65536) 65536) ≠ h →
        sget none t.lines (lineIx (setOf g) w) = none ∧ (t.part p).dill.staging = none ∧
        (sget (0, 0) t.mem.achFail p).1 = satAdd (sget (0, 0) s.mem.achFail p).1 1 ∧ t.stack = s.stack)

/-- R236, R329, R334: at a tile boundary with empty queues and nothing that holds the job, every core that waits there goes
on at the stamp; a job that a stop has reached ends there instead. No stored byte changes where it goes on. A rate of Mint
written before the boundary's tick is in force after it. -/
def Obligations.TileBoundaryPassesOrStops : Prop :=
  ∀ (s : State) (p : PartN), (boundaryCores s p).1 ≠ [] → (s.part p).running.isSome → (s.part p).resume = none → (s.part p).saving = false →
    (s.part p).pauseFrom = none → (s.part p).yield_ = none → (s.part p).replacing = none → (s.part p).reshape = none →
    (∀ c ∈ (boundaryCores s p).1, (s.core c).depth0 = true ∧ (s.core c).lastIssue ≤ (boundaryCores s p).2 + 1) →
    ((s.part p).stop = none → windowsDue s p = false →
      ∃ t, exec (.tileBoundary p) s = .next t ∧ SameBytes s t ∧ t.gov.now = max s.gov.now (boundaryCores s p).2 ∧
        (∀ c ∈ (boundaryCores s p).1, t.core c =
          { s.core c with wait := .none, st := .running, lastIssue := max (s.core c).lastIssue (boundaryCores s p).2 }) ∧
        (∀ c, c ∉ (boundaryCores s p).1 → t.core c = s.core c) ∧
        ((s.part p).mint.since ≤ (boundaryCores s p).2 / 32 → (t.part p).mint.rateOn = (s.part p).mint.rate) ∧ (t.part p).running = (s.part p).running) ∧
    (∀ st from_, (s.part p).stop = some (st, from_) → from_ ≤ (boundaryCores s p).2 / 32 →
      ∃ t, exec (.tileBoundary p) s = .next t ∧ (t.part p).running = none)

/-- R307, R317, R311, R318: a LOAD in a mailbox of PF0 whose module passes every check of the translation is ACCEPTED with its TAG
and writes nothing yet; its window, with no job of the partition in the way, lasts the ticks of R317 and writes the tables
(of a load without pages and new layout); a table write whose complement check fails in it ends the load with
INTEGRITY_FAULT in its report, the image's range cleared and the other image as it was (Table 9-6); its completion makes the image READY with LAST_STATUS OK and its Avman digest. Of
a module whose page entries agree with their complements (R185). -/
def Obligations.LoadsWriteTablesInTheirWindow : Prop :=
  (∀ (s : State) (n : MboxN) (tag : BitVec 16) (p : PartN) (i : Fin 2) (force : Bool) (first len reply : Nat) (ps : List Nat),
    Ready s → n.val < 16 → Waits s n → (s.part p).st = 1 → (s.part p).load = none → (s.part p).running ≠ some i.val →
    stagedRun s p first ((len + 65535) / 65536) = some ps → PagesOk s →
    ∃ t, exec (.load (.mailbox n tag) p i force first len reply) s = .next t ∧
      if (translateModule s p i (s.part p).live (s.part p).layout (moduleBytes s ps len)).status = St.ok then
        t = { s with parts := t.parts, mboxes := t.mboxes } ∧ Answered s t n St.accepted tag.toNat ∧
        (t.part p).load.map (fun l => (l.image, l.res, l.written)) =
          some (i.val, translateModule s p i (s.part p).live (s.part p).layout (moduleBytes s ps len), false) ∧
        (t.part p).running = (s.part p).running ∧ ∀ q, q ≠ p.val → t.part q = s.part q
      else t.parts = s.parts ∧ t.cores = s.cores) ∧
  (∀ (s : State) (p : PartN) (l : LoadJob) (c a : Nat) (w : BitVec 128), (s.part p).load = some l → l.written = false →
    (s.part p).running = none → suspects s p = [] → l.res.tables = [.imem c a w] → a < 16384 → l.res.info.pages = [] →
    l.newLayout = false →
    ∃ t, exec (.loadWindow ⟨p, [], none⟩) s = .next t ∧ t.gov.now = 32 * (s.gov.now / 32 + windowTicks l.res.info.largest) ∧
      sget endWord (t.core c).imem a = w ∧ (t.part p).load = some { l with written := true }) ∧
  (∀ (s : State) (p : PartN) (l : LoadJob) (k : CoreN) (c a : Nat) (w : BitVec 128), (s.part p).load = some l → l.written = false →
    (s.part p).running = none → suspects s p = [] → l.res.tables = [.imem c a w] → a < 16384 → l.res.info.pages = [] →
    l.newLayout = false → ((s.part p).image l.image).info = none → c ∈ l.res.info.cores → l.res.info.imemFirst ≤ a →
    a < l.res.info.imemFirst + l.res.info.imemCount → isStaging s l.reply = true → PagesOk s →
    ∃ t, exec (.loadWindow ⟨p, [], some k⟩) s = .next t ∧ (t.part p).load = none ∧ sget endWord (t.core c).imem a = endWord ∧
      (∀ i, i ≠ l.image → (t.part p).image i = (s.part p).image i) ∧ bget t.stack (l.reply * 65536) = St.integrityFault) ∧
  (∀ (s : State) (p : PartN) (l : LoadJob), (s.part p).load = some l → l.written = true → PagesOk s →
    ∃ t, exec (.loadComplete p) s = .next t ∧ (t.part p).load = none ∧
      (t.part p).img = (s.part p).img.modify l.image fun _ =>
        ⟨.ready, St.ok, some { l.res.info with avman := avmanDigest s p l.res.info }⟩)

/-- Table 10-5, R334, R335: START of a READY image runs it from the next tick on, at its first instruction with fresh
registers; SUSPEND and SWITCH ask for a yield from the next tick on; STOP of a running job marks it to end with DISABLED,
and leaves a suspended image READY; UNLOAD leaves the image EMPTY. Written by PF0 in READY, of a partition that exists. In
a tick in which an event of classes 1 to 3 of its scope came first, SUSPEND and SWITCH are discarded (R268). -/
def Obligations.JobActionsOfTable105 : Prop :=
  ∀ (s : State) (p : PartN) (i : Fin 2), Ready s → (s.part p).st ≠ 0 → i.val < (s.part p).img.length →
    (((s.part p).image i).st = .ready → (s.part p).running = none → (s.part p).integ.refused = false → (s.part p).yield_ = none →
      drawnUntil s p ≤ s.tick + 1 → ∀ x, ((s.part p).image i).info = some x →
      ∃ t, exec (.jobStart .pf0 p i) s = .next t ∧ t = { s with cores := t.cores, parts := t.parts } ∧
        (t.part p).running = some i.val ∧ (t.part p).jobStart = s.tick + 1 ∧ ((t.part p).image i).st = .running ∧
        (∀ c ∈ x.cores, (t.core c).pc = BitVec.ofNat 14 x.imemFirst ∧ (t.core c).segBase = s.tick + 1 ∧ (t.core c).st = .running ∧
          (t.core c).regs = [] ∧ (t.core c).loops = []) ∧ ∀ c, c ∉ x.cores → t.core c = s.core c) ∧
    (discarded s (.partition p.val) = true →
      exec (.jobSuspend .pf0 p i) s = .next s ∧ exec (.jobSwitch .pf0 p i) s = .next s) ∧
    (((s.part p).image i).st = .running → (s.part p).yield_ = none → discarded s (.partition p.val) = false →
      ∃ t, exec (.jobSuspend .pf0 p i) s = .next t ∧ t = { s with parts := t.parts } ∧
        (t.part p).yield_ = some (⟨none, none, none⟩, s.tick + 1) ∧ (t.part p).running = (s.part p).running) ∧
    (((s.part p).image i).st = .ready → ((s.part p).image (1 - i.val)).st = .running → (s.part p).integ.refused = false →
      (s.part p).yield_ = none → discarded s (.partition p.val) = false →
      ∃ t, exec (.jobSwitch .pf0 p i) s = .next t ∧ t = { s with parts := t.parts } ∧
        (t.part p).yield_ = some (⟨some i.val, none, none⟩, s.tick + 1) ∧ (t.part p).running = (s.part p).running) ∧
    (((s.part p).image i).st = .running → (s.part p).running.isSome → (s.part p).stop = none → allAtDstep s p = false →
      ∃ t, exec (.jobStop .pf0 p i) s = .next t ∧ t = { s with parts := t.parts } ∧
        (t.part p).stop = some (St.disabled, s.tick + 1) ∧ (t.part p).running = (s.part p).running) ∧
    (((s.part p).image i).st = .suspended →
      ∃ t, exec (.jobStop .pf0 p i) s = .next t ∧ ((t.part p).image i).st = .ready ∧ ((t.part p).image i).last = St.disabled) ∧
    (((s.part p).image i).st ≠ .running → ((s.part p).image i).st ≠ .loading →
      ∃ t, exec (.jobUnload .pf0 p i) s = .next t ∧ (t.part p).image i = ⟨.empty, St.ok, none⟩ ∧
        (t.part p).image (1 - i.val) = (s.part p).image (1 - i.val))

/-- R335 to R338: at its boundary a job without a save sequence is suspended, its contexts kept, and the next tick is the
switch tick; at the switch tick a READY incoming image starts; at the TILE that ends a restore sequence the kept context
goes on. -/
def Obligations.YieldSwitchAndResume : Prop :=
  ∀ (s : State) (p : PartN) (i : Nat) (x : ImgInfo), ((s.part p).image i).info = some x →
    (∀ pre r b, (s.part p).running = some i → (s.part p).yield_ = some (pre, r) → (s.part p).saving = false → pre.boundary = some b →
      (∀ c ∈ x.cores, (s.core c).tileSave = 0) →
      ∃ t, exec (.jobYield p) s = .next t ∧ (t.part p).running = none ∧ ((t.part p).image i).st = .suspended ∧
        ⟨i, b, b + 1⟩ ∈ (t.part p).resumes ∧
        (∀ c ∈ x.cores, sget SeqCtx.fresh (t.core c).saved i = (s.core c).ctxOf) ∧ (∀ c, c ∉ x.cores → t.core c = s.core c) ∧
        SameBytes s t) ∧
    (∀ bd w r, (s.part p).running = none → (s.part p).yield_ = some (⟨some i, bd, some w⟩, r) → windowsDue s p = false →
      ((s.part p).image i).st = .ready → (s.part p).integ.refused = false →
      ∃ t, exec (.jobResume p) s = .next t ∧ (t.part p).running = some i ∧ (t.part p).jobStart = max w s.tick ∧
        (t.part p).yield_ = none ∧ (∀ c ∈ x.cores, (t.core c).pc = BitVec.ofNat 14 x.imemFirst ∧ (t.core c).st = .running) ∧ SameBytes s t) ∧
    (∀ rec, (s.part p).running = some i → (s.part p).resume = some rec → (s.part p).stop = none →
      (boundaryCores s p).1.length = x.cores.length → x.cores.Nodup →
      ∃ t, exec (.resumeTick p) s = .next t ∧ (t.part p).resume = none ∧ (t.part p).running = some i ∧
        (∀ c ∈ x.cores, (t.core c).pc = (sget SeqCtx.fresh (s.core c).saved i).pc ∧
          (t.core c).regs = (sget SeqCtx.fresh (s.core c).saved i).regs ∧ (t.core c).st = .running ∧
          (t.core c).segBase = (sget SeqCtx.fresh (s.core c).saved i).segBase + ((boundaryCores s p).2 / 32 - rec.b)) ∧
        SameBytes s t)

/-- R326, R327, R569: PTN_COMMIT takes an agreeing pair; where no check of Table 10-3 fails and nothing is moved, the
commit is ACCEPTED for the tick 16 ticks on; a failing check leaves its status and partition; in the commit tick the live
sets of the named partitions become their shadow sets. -/
def Obligations.CommitsTakeTheShadowSets : Prop :=
  (∀ (s : State) (v c : W32), s.sys.state = 1 → s.commit.busy = false → v.extractLsb' 0 9 = ~~~(c.extractLsb' 0 9) → v.getLsbD 8 = false →
    (∀ q, (s.part q).live.ok = true ∧ (s.part q).shadow.ok = true) →
    (commitChecks s (v.extractLsb' 0 8) false = none →
      ∃ t, exec (.partitionCommitRequest v c) s = .next t ∧ t = { clearLatch s 0x208000 with commit := t.commit } ∧ t.commit.status = St.accepted ∧
        t.commit.busy = true ∧ t.commit.tick = BitVec.ofNat 64 (s.tick + 16) ∧ t.commit.pending = some (v.extractLsb' 0 8, false)) ∧
    (∀ st q, commitChecks s (v.extractLsb' 0 8) false = some (st, q) →
      ∃ t, exec (.partitionCommitRequest v c) s = .next t ∧ t = { clearLatch s 0x208000 with commit := t.commit } ∧ t.commit.status = st ∧
        t.commit.part = BitVec.ofNat 3 q ∧ t.commit.busy = false ∧ t.commit.pending = s.commit.pending)) ∧
  (∀ (s : State) (mask : BitVec 8), s.commit.pending = some (mask, false) → (∀ q, (s.part q).reshape = none) →
    (∀ q, (s.part q).live.ok = true ∧ (s.part q).shadow.ok = true) →
    ∃ t, exec .commitTick s = .next t ∧ t.commit.status = St.ok ∧ t.commit.busy = false ∧ t.commit.pending = none ∧
      t.gov.now = max s.gov.now (32 * max s.commit.tick.toNat s.tick) ∧
      (∀ q, q < 8 → (t.part q).live = if mask.getLsbD q then (s.part q).shadow else (s.part q).live) ∧
      (∀ q, q < 8 → (t.part q).shadow = (s.part q).shadow) ∧ t.scratch = s.scratch ∧ t.cim = s.cim ∧ t.stack = s.stack)

/-- R328, R333: RELEASE in a mailbox of PF0 is ACCEPTED and leaves the partition RELEASING; at its end the partition holds
nothing: its sets are those of reset and its pages are FREE. A removed group that has been zeroised reads zero and is off,
and removed ways are free. The end does nothing while the zeroisation of a field waits for current that no share holds
(R333). -/
def Obligations.ReleasedResourcesAreZero : Prop :=
  (∀ (s : State) (n : MboxN) (tag : BitVec 16) (p : PartN), Ready s → n.val < 16 → Waits s n → (s.part p).st = 1 → LoadEnds s p →
    ∃ t, exec (.release (.mailbox n tag) p) s = .next t ∧ (t.part p).st = 3 ∧ (t.part p).releasing = some (.mailbox n tag) ∧
      Answered s t n St.accepted tag.toNat) ∧
  (∀ (s : State) (p : PartN), releaseWaits s p = true → exec (.releaseComplete p) s = .next s) ∧
  (∀ (s : State) (p : PartN) (via : Via), (s.part p).releasing = some via → (s.part p).running = none → releaseWaits s p = false →
    ∃ t, exec (.releaseComplete p) s = .next t ∧ t.part p = Part.fresh ∧ (∀ g ∈ ownedPages s p, attrOf (t.page g).v = .free) ∧
      (∀ g ∈ ownedPages s p, ∀ i, i < 65536 → bget t.stack (g * 65536 + i) = 0) ∧
      ∀ g, g < 16 → (s.part p).live.groups.v.getLsbD g = true → t.pwr.on.getLsbD (2 + g) = false) ∧
  (∀ (s : State) (p : PartN), ∃ t, exec (.wayZeroisationComplete p) s = .next t ∧ t = { s with parts := t.parts } ∧
    (t.part p).waysZeroing = 0 ∧ (t.part p).live = (s.part p).live ∧ ∀ q, q ≠ p.val → t.part q = s.part q) ∧
  (∀ (s : State) (g : GroupN), (s.group g).zeroing = true →
    ∃ t, exec (.groupZeroisationComplete g) s = .next t ∧ (t.group g).zeroing = false ∧ t.pwr.on.getLsbD (2 + g) = false ∧
      (∀ c a, 80 * g.val ≤ c → c < 80 * (g.val + 1) → a < 2 ^ 21 → bget t.scratch (c * 2 ^ 21 + a) = 0) ∧ t.stack = s.stack ∧
      ∀ c, 80 * g.val ≤ c → c < 80 * (g.val + 1) → t.core c = { Core.fresh with fault := (s.core c).fault, par := (s.core c).par })

/-- R354, R55, R56, R438: CTX_CREATE takes the lowest FREE entry, in the partition's base epoch; CTX_BIND writes VF and
queue mask; CTX_SEED is in force at once where no job runs and waits for a tile boundary otherwise; CTX_SETKEY writes the
key of the context's slot. Each reports OK. R355, R353: CTX_ADOPT of an own snapshot in the base epoch takes it as
STATE_SNAP, or, with a valid header of the context's shape that claims no slot of a partner, as SERVE, and the context is
ACTIVE; CTX_RELEASE_SNAP gives up a snapshot without a role; CTX_REBASE turns STALE to REBASING. -/
def Obligations.ContextsAreMadeBoundAndAdopted : Prop :=
  (∀ (s : State) (vf : VfN) (q : QpN) (htag : W32),
     (∀ (p : PartN) (kind : BitVec 2) (rank : BitVec 8) (proj : BitVec 7) (seed : Option (BitVec 64)) (stream : Option W32),
       Serves s vf q → (tenantRec s (tenantOf s vf).v.toNat).mask.ok = true → (s.part p).baseEpoch.ok = true →
       (tenantRec s (tenantOf s vf).v.toNat).mask.v.getLsbD p = true → (s.part p).st = 1 → holdsBase (s.part p) = true →
       shapeOk kind rank proj = true → ctxRoom s (tenantOf s vf).v = true →
       ∃ t, exec (.ctxCreate (.queue vf q htag) p kind rank proj seed stream) s = .next t ∧ t = { s with ctxs := t.ctxs, cxl := t.cxl } ∧
         (∃ x, CtxBecomes s t (freeCtx s) x ∧ x.state = 1 ∧ x.kind = kind ∧ x.rank = rank ∧ x.proj = proj ∧ x.part = BitVec.ofNat 3 p ∧
           x.tenant = Paired.of (tenantOf s vf).v ∧ x.epoch = Paired.of (s.part p).baseEpoch.v ∧ x.seed = seed.getD 0 ∧
           x.stream = stream.getD (BitVec.ofNat 32 (freeCtx s)) ∧ x.bound = false ∧ x.serve = 0 ∧ x.stateSnap = 0) ∧
         Reported s t vf q htag 0x0120 0xFFFF St.ok (freeCtx s) []) ∧
     (∀ (c : BitVec 16), Names s vf q c → (s.ctx c.toNat).state ≠ 5 →
       (∀ (w : BitVec 7) (qmask : W32), (tenantOf s w.toNat).v = (s.ctx c.toNat).tenant.v →
         ∃ t, exec (.ctxBind (.queue vf q htag) c w qmask) s = .next t ∧ t = { s with ctxs := t.ctxs, cxl := t.cxl } ∧
           CtxBecomes s t c.toNat { s.ctx c.toNat with vf := w, qmask := qmask, bound := true } ∧
           Reported s t vf q htag 0x0121 c St.ok 0 []) ∧
       (∀ (seed : BitVec 64) (stream : W32),
         ∃ t, exec (.ctxSeed (.queue vf q htag) c seed stream) s = .next t ∧ t = { s with ctxs := t.ctxs, cxl := t.cxl } ∧
           (if (s.part (s.ctx c.toNat).part.toNat).running.isSome then
              CtxBecomes s t c.toNat { s.ctx c.toNat with newSeed := some (seed, stream, s.tick + 1) }
            else (t.ctx c.toNat).seed = seed ∧ (t.ctx c.toNat).stream = stream ∧ (t.ctx c.toNat).newSeed = none) ∧
           Reported s t vf q htag 0x0125 c St.ok 0 []) ∧
       (∀ (key : BitVec 256), (s.ctx c.toNat).importing = [] → (s.ctx c.toNat).exporting = [] →
         s.cxl.exports.any (fun e => e.2.1 == c) = false →
         ∃ t, exec (.ctxSetkey (.queue vf q htag) c key) s = .next t ∧ t = { s with sage := t.sage, cxl := t.cxl } ∧
           sealKey t c.toNat = some key ∧ Reported s t vf q htag 0x0126 c St.ok 0 []))) ∧
  (∀ (s : State) (vf : VfN) (q : QpN) (htag : W32) (c : BitVec 16), Names s vf q c → (s.ctx c.toNat).state ≠ 5 →
     (∀ (h : W32) (y : Snapshot), (s.part (s.ctx c.toNat).part.toNat).baseEpoch.ok = true → (s.ctx c.toNat).kind ≠ 3 →
       (ownedSnaps s c.toNat).find? (fun y => y.handle == h) = some y →
       y.epoch = (s.part (s.ctx c.toNat).part.toNat).baseEpoch.v →
       (∃ t, exec (.ctxAdopt (.queue vf q htag) c true h) s = .next t ∧
         CtxBecomes s t c.toNat { s.ctx c.toNat with stateSnap := h } ∧ Reported s t vf q htag 0x0122 c St.ok 0 []) ∧
       (headerValid (headerOf s h) = true → (headerOf s h).take 3 = (shapeBytes (s.ctx c.toNat)).take 3 →
         (∀ o ∈ partners s c, claimClash (headerOf s h) (headerOf s o) = false) → (∀ g ∈ headerPage s h, (s.page g).ok = true) →
         ∃ t, exec (.ctxAdopt (.queue vf q htag) c false h) s = .next t ∧
           CtxBecomes s t c.toNat { s.ctx c.toNat with
             serve := h
             state := 2
             epoch := Paired.of (s.part (s.ctx c.toNat).part.toNat).baseEpoch.v
             baseDigest := (s.part (s.ctx c.toNat).part.toNat).baseDigest } ∧
           Reported s t vf q htag 0x0122 c St.ok 0 [])) ∧
     (∀ (h : W32), (ownedSnaps s c.toNat).any (fun y => y.handle == h) = true → h ≠ (s.ctx c.toNat).serve → h ≠ (s.ctx c.toNat).stateSnap →
       ∃ t, exec (.ctxReleaseSnap (.queue vf q htag) c h) s = .next t ∧ t.ctxs = s.ctxs ∧
         (∀ y ∈ t.snaps, y.handle = h → y.ctx = 0xFFFF) ∧ ((s.snaps.map fun y => y.handle).Nodup → ∀ y ∈ s.snaps, y.handle ≠ h → y.ctx ≠ 0xFFFF → y ∈ t.snaps) ∧
         Reported s t vf q htag 0x0123 c St.ok 0 []) ∧
     ((s.ctx c.toNat).state = 3 →
       ∃ t, exec (.ctxRebase (.queue vf q htag) c) s = .next t ∧ t = { s with ctxs := t.ctxs, cxl := t.cxl } ∧
         CtxBecomes s t c.toNat { s.ctx c.toNat with state := 4 } ∧ Reported s t vf q htag 0x012A c St.ok 0 []))

/-- R356, R349: CTX_COMPOSE of two ACTIVE contexts of one partition that claim no slot twice makes a composition that
names both; CTX_QUERY reports the context's state, handles and records, and clears both records. R371, R372: CTX_WITHDRAW
in a Dill mailbox makes a context of its partition WITHDRAWN; CTX_DELETE of a context that no composition names makes it
DELETING, and at the end of its requests the entry is FREE, and its snapshots and its key are gone. -/
def Obligations.ContextsComposeReportAndEnd : Prop :=
  (∀ (s : State) (vf : VfN) (q : QpN) (htag : W32), Serves s vf q →
     (∀ (a b : BitVec 16), a.toNat < 49152 → b.toNat < 49152 → mayName (s.ctx a.toNat) vf q (tenantOf s vf).v = true →
       mayName (s.ctx b.toNat) vf q (tenantOf s vf).v = true → (s.ctx a.toNat).state = 2 → (s.ctx b.toNat).state = 2 →
       (s.ctx a.toNat).kind ≠ 3 → (s.ctx b.toNat).kind ≠ 3 → (s.ctx a.toNat).part = (s.ctx b.toNat).part → (s.ctx a.toNat).ok = true →
       (s.ctx b.toNat).ok = true → claimClash (headerOf s (s.ctx a.toNat).serve) (headerOf s (s.ctx b.toNat).serve) = false →
       ctxRoom s (tenantOf s vf).v = true →
       (∀ g ∈ headerPage s (s.ctx a.toNat).serve ++ headerPage s (s.ctx b.toNat).serve, (s.page g).ok = true) →
       ∃ t, exec (.ctxCompose (.queue vf q htag) a b) s = .next t ∧ t = { s with ctxs := t.ctxs, cxl := t.cxl } ∧
         (∃ x, CtxBecomes s t (freeCtx s) x ∧ x.state = 2 ∧ x.kind = 3 ∧ x.memberA = a ∧ x.memberB = b ∧ x.part = (s.ctx a.toNat).part) ∧
         Reported s t vf q htag 0x0124 0xFFFF St.ok (freeCtx s) []) ∧
     (∀ (c : BitVec 16), Names s vf q c → (s.ctx c.toNat).bound = true →
       ∃ t, exec (.ctxQuery (.queue vf q htag) c) s = .next t ∧ t = { s with ctxs := t.ctxs, cxl := t.cxl } ∧
         CtxBecomes s t c.toNat { s.ctx c.toNat with numeric := 0, advisory := 0, numPending := false, advPending := false } ∧
         Reported s t vf q htag 0x0129 c St.ok 0 (queryBytes s c))) ∧
  ((∀ (s : State) (n : MboxN) (tag c : BitVec 16), Ready s → 24 ≤ n.val → n.val < 32 → Waits s n → c.toNat < 49152 → (s.ctx c.toNat).ok = true →
     (s.ctx c.toNat).state ≠ 0 → (s.ctx c.toNat).state ≠ 6 → (s.ctx c.toNat).part.toNat = n.val - 24 →
     ∃ t, exec (.ctxWithdraw (.mailbox n tag) c) s = .next t ∧ t = { s with ctxs := t.ctxs, mboxes := t.mboxes } ∧
       CtxBecomes s t c.toNat { s.ctx c.toNat with state := 5 } ∧ Answered s t n St.ok 0) ∧
   (∀ (s : State) (vf : VfN) (q : QpN) (htag : W32) (c : BitVec 16), Names s vf q c → isMember s c = false →
     ∃ t, exec (.ctxDelete (.queue vf q htag) c) s = .next t ∧
       CtxBecomes s t c.toNat { s.ctx c.toNat with state := 6, owed := some (.queue vf q htag), importing := [], exporting := [] }) ∧
   (∀ (s : State) (c : BitVec 16), c.toNat < 49152 → (s.ctx c.toNat).state = 6 → inStepOf s (s.ctx c.toNat).part.toNat c = false →
     ∃ t, exec (.ctxDeleteComplete c) s = .next t ∧ CtxBecomes s t c.toNat Ctx.fresh ∧ (∀ y ∈ t.snaps, y.ctx ≠ c) ∧
       sget none t.sage.ctxKeys (s.ctx c.toNat).keySlot.v.toNat = none))

/-- R438 to R440: CTX_IMPORT holds free pages as STAGING while it checks; an image that opens under the context's key
becomes one more snapshot of the context, and one that does not leaves none and reports AUTH_FAIL; CTX_EXPORT seals a
snapshot, and its end leaves the image in host memory. The pages named agree with their complements. -/
def Obligations.SealedImagesComeAndGo : Prop :=
  ∀ (s : State) (vf : VfN) (q : QpN) (htag : W32) (c : BitVec 16),
    (∀ (image : List Byte), Names s vf q c → (s.ctx c.toNat).state ≠ 5 →
      ∃ t, exec (.ctxImport (.queue vf q htag) c image) s = .next t ∧
        match importCheck s c.toNat image with
        | .error st => t = { s with cxl := t.cxl } ∧ Reported s t vf q htag 0x0127 c st 0 []
        | .ok n => ∀ gs, allocPages s (s.part (s.ctx c.toNat).part.toNat).live.chans.v n = some gs →
          t = { s with pages := t.pages, ctxs := t.ctxs } ∧ (∀ g ∈ gs, attrOf (t.page g).v = .staging) ∧
          CtxBecomes s t c.toNat { s.ctx c.toNat with
            importing := (s.ctx c.toNat).importing ++ [(.queue vf q htag, gs, image)] }) ∧
    (∀ (image : List Byte) (gs : List Nat) (rest : List (Via × List Nat × List Byte)) (key : BitVec 256), (s.qp vf q).keyed = true →
      (s.ctx c.toNat).importing = (.queue vf q htag, gs, image) :: rest → sealKey s c.toNat = some key → (ownedSnaps s c.toNat).length < 8 →
      (∀ g ∈ gs, (s.page g).ok = true) →
      ∃ t, exec (.ctxImportComplete c) s = .next t ∧ (t.ctx c.toNat).importing = rest ∧
        match importOpen key image gs.length with
        | none => t.snaps = s.snaps ∧ (∀ g ∈ gs, attrOf (t.page g).v = .free) ∧ Reported s t vf q htag 0x0127 c St.authFail 0 []
        | some _ => Reported s t vf q htag 0x0127 c St.ok (freshHandle s).toNat [] ∧
            ∃ d e, t.snaps = s.snaps ++
              [⟨freshHandle s, BitVec.ofNat 16 c.toNat, gs.take (dataPages gs.length), gs.drop (dataPages gs.length), d, e⟩]) ∧
    (∀ (state : Bool) (addr len : BitVec 64) (key : BitVec 256) (y : Snapshot), Names s vf q c → (s.ctx c.toNat).state ≠ 5 →
      sealKey s c.toNat = some key → roleSnap s c.toNat state = some y → 144 + 65552 * (y.pages ++ y.manifest).length ≤ len.toNat →
      (∀ g ∈ y.pages ++ y.manifest, (s.page g).ok = true) →
      ∃ t nonce, exec (.ctxExport (.queue vf q htag) c state addr len) s = .next t ∧ t.sage.drbg = s.sage.drbg + 1 ∧ SameBytes s t ∧
        (t.ctx c.toNat).exporting = (s.ctx c.toNat).exporting ++ [(.queue vf q htag, addr, sealSnapshot s c.toNat key y state nonce)]) ∧
    (∀ (addr : BitVec 64) (image : List Byte) (rest : List (Via × BitVec 64 × List Byte)), (s.qp vf q).keyed = true →
      (s.ctx c.toNat).exporting = (.queue vf q htag, addr, image) :: rest →
      ∃ t, exec (.ctxExportComplete c) s = .next t ∧ t.cxl.host = s.cxl.host ++ [(addr, image)] ∧ (t.ctx c.toNat).exporting = rest ∧
        Reported s t vf q htag 0x0128 c St.ok 0 [])

/-- R364, R491, R342: GENERATE of a context that may be served queues one request in order of arrival; CANCEL ends the
request of this queue pair with the named HTAG, one with rows in the step in progress at the end of that step; without
such a request it reports BAD_HANDLE. R368, R369: the oldest request whose adaptation is not staged starts its staging
while some page is missing, and takes its pins at once when none is; when the last page of a staging is in, the waiting
requests of the adaptation are staged with its snapshots, and the staging is over. -/
def Obligations.RequestsQueueStageAndCancel : Prop :=
  (∀ (s : State) (vf : VfN) (q : QpN) (htag : W32),
     (∀ (c : BitVec 16) (total : Nat) (maxNew stop : W32) (params : List Byte) (prompt : List W32), Names s vf q c →
       (s.ctx c.toNat).state ≠ 5 → total ≠ 0 → total % 4 = 0 → serveStatus s c = none →
       (∀ m ∈ partsOf s c, (s.ctx m.toNat).ok = true) →
       (∀ x, servingImage (s.part (s.ctx c.toNat).part.toNat) = some x → kvNeed x (total / 4 + maxNew.toNat) ≤ x.serve.kvPages) →
       ∃ t, exec (.generate (.queue vf q htag) c total maxNew stop params prompt) s = .next t ∧ t = { s with parts := t.parts } ∧
         (∀ p, p ≠ (s.ctx c.toNat).part.toNat → t.part p = s.part p) ∧
         (t.part (s.ctx c.toNat).part.toNat).dill = { (s.part (s.ctx c.toNat).part.toNat).dill with
           reqs := (s.part (s.ctx c.toNat).part.toNat).dill.reqs ++
             [Req.new 0x0101 vf q htag c prompt (total / 4) maxNew.toNat stop params] }) ∧
     (∀ (h : W32) (p : Nat), Serves s vf q →
       (List.range 8).find? (fun p => (s.part p).dill.reqs.any fun r => r.isOf vf q h) = some p →
       ∃ t, exec (.cancel (.queue vf q htag) h) s = .next t ∧
         ∀ r ∈ (t.part p).dill.reqs, r.isOf vf q h = true → r.rows ≠ 0 ∧ r.status = St.disabled) ∧
     (∀ (h : W32), Serves s vf q → (∀ p, p < 8 → (s.part p).dill.reqs.any (fun r => r.isOf vf q h) = false ∧
         ((s.part p).train.toList ++ (s.part p).trainQ).any (fun u => u.isOf vf q h) = false) →
       ∃ t, exec (.cancel (.queue vf q htag) h) s = .next t ∧ t = { s with cxl := t.cxl } ∧
         Reported s t vf q htag 0x0102 0xFFFF St.badHandle 0 [])) ∧
  (∀ (s : State) (p : PartN),
     (∀ (r : Req), (s.part p).dill.staging = none → ContextsOk s →
       (s.part p).dill.reqs.find? (fun r => !r.staged && (serveStatus s r.ctx).isNone) = some r →
       let all := snapPages s (servingSnaps s r.ctx)
       (all.filter (fun g => !resident s p g) ≠ [] → (∀ x, servingImage (s.part p) = some x → x.serve.reserve ≠ 0) →
         neverFits s p all = false →
         ∃ t, exec (.adapterStaging p) s = .next t ∧ t = { s with parts := t.parts } ∧
           (t.part p).dill = { (s.part p).dill with staging := some ⟨r.ctx, servingSnaps s r.ctx, all.filter fun g => !resident s p g, all⟩ }) ∧
       (all.filter (fun g => !resident s p g) = [] →
         ∃ t, exec (.adapterStaging p) s = .next t ∧ t = { s with parts := t.parts } ∧ (t.part p).dill.staging = none ∧
           ∀ x ∈ (t.part p).dill.reqs, x.ctx = r.ctx → x.staged = true)) ∧
     (∀ (st : Staging), (s.part p).dill.staging = some st → st.pages = [] → (∀ g ∈ st.all, resident s p g = true) → serveStatus s st.ctx = none →
       servingSnaps s st.ctx = st.snaps →
       ∃ t, exec (.stagingComplete p) s = .next t ∧ t = { s with parts := t.parts } ∧ (t.part p).dill.staging = none ∧
         (t.part p).dill.reqs = (s.part p).dill.reqs.map fun r =>
           if r.ctx == st.ctx && !r.staged then { r with staged := true, snaps := st.snaps } else r))

/-- R238, R359, R360: with rows to run and every core of the serving job at a DSTEP, Dill posts a step: each core waits
for a named tick that lies ahead, s24 holds the step number, and the number moves on; with the cores at their next DSTEP
the step is over and no request holds rows of it. -/
def Obligations.ServingStepsPostAndEnd : Prop :=
  (∀ (s : State) (p : PartN) (x : ImgInfo), serveInfo s p = some x → x.training = false → (s.part p).dill.inStep = false →
    mayPost s p = true → (s.part p).baseEpoch.ok = true → ContextsOk s → (admitReqs (sweepReqs s p) p x).isEmpty = false →
    ∃ t, exec (.stepPosting p) s = .next t ∧ (t.part p).dill.inStep = true ∧ (t.part p).dill.step = (s.part p).dill.step + 1 ∧
      (∀ c ∈ x.cores, (∃ n, (t.core c).wait = .posted n ∧ s.gov.now / 32 < n) ∧ (t.core c).reg 24 = (s.part p).dill.step ∧
        (t.core c).pc = (s.core c).pc) ∧
      (∀ c, c ∉ x.cores → t.core c = s.core c) ∧ t.cim = s.cim ∧ t.pwr = s.pwr) ∧
  (∀ (s : State) (p : PartN) (outs : List StepOut), (∀ x, serveInfo s p = some x → x.training = false) → (s.part p).dill.inStep = true →
    allAtDstep s p = true →
    ∃ t, exec (.stepEnd p outs) s = .next t ∧ (t.part p).dill.inStep = false ∧ (t.part p).dill.rowCtx = [] ∧
      (∀ r ∈ (t.part p).dill.reqs, r.rows = 0) ∧ (t.part p).dill.step = (s.part p).dill.step ∧ t.cores = s.cores)

/-- R478, R373: BASE_STAGE gives a partition free pages as STAGING and answers the first of them; BASE_INSTALL freezes
staged pages as the base, with the root over their leaves as its digest, and a first base has epoch 1; BASE_REPLACE
without a running job drops the base and counts its epoch up. Sent in a mailbox of PF0 to a READY module. -/
def Obligations.BasesAreStagedInstalledReplaced : Prop :=
  ∀ (s : State) (n : MboxN) (tag : BitVec 16) (p : PartN), Ready s → n.val < 16 → Waits s n → (s.part p).st = 1 →
    (∀ (k a : Nat) (gs : List Nat) (u : State), k ≠ 0 → stagingArea s p = none → makeArea s p k false = some (a, gs, u) →
      ∃ t, exec (.baseStage (.mailbox n tag) p k) s = .next t ∧ t = { s with pages := t.pages, cxl := t.cxl, mboxes := t.mboxes } ∧
        (∀ g ∈ gs, attrOf (t.page g).v = .staging) ∧ (sget Area.fresh t.cxl.areas a).pages = gs ∧
        (sget Area.fresh t.cxl.areas a).valid = true ∧ Answered s t n St.ok (gs.headD 0)) ∧
    (∀ (first count a : Nat) (area : Area) (ps : List Nat), (s.part p).baseEpoch.ok = true → holdsBase (s.part p) = false →
      stagingArea s p = some (a, area) → stagedRun s p first count = some ps → count ≠ 0 →
      ∃ t, exec (.baseInstall (.mailbox n tag) p first count) s = .next t ∧ Answered s t n St.ok 0 ∧
        (t.part p).basePages = ps ∧ (t.part p).baseLeaves = ps.map (pageLeaf s) ∧
        (t.part p).baseDigest = digestRoot (ps.map (pageLeaf s)) ∧
        (t.part p).baseEpoch = (if (s.part p).baseEpoch.v = 0 then Paired.of 1 else (s.part p).baseEpoch) ∧
        (∀ g ∈ ps, attrOf (t.page g).v = .frozen) ∧ (sget Area.fresh t.cxl.areas a).valid = false) ∧
    ((s.part p).replacing = none → (s.part p).running = none → holdsBase (s.part p) = true → (s.part p).baseEpoch.ok = true →
      LoadEnds s p →
      ∃ t, exec (.baseReplace (.mailbox n tag) p) s = .next t ∧ Answered s t n St.ok 0 ∧ (t.part p).basePages = [] ∧
        (t.part p).baseEpoch = Paired.of ((s.part p).baseEpoch.v + 1) ∧ (t.part p).baseDigest = 0 ∧ (t.part p).layout = [])

/-- R569, R376, R411: the pairs of PTN_PIPE, PTN_BUDDY, PTN_DP and PTN_DP_PORTS take halves that agree, and change nothing
but the mismatch count and its log otherwise, which keeps the first mismatch until VALID is cleared; a pairing is in force
from the next step boundary of both partitions on, and with either at another point nothing changes. -/
def Obligations.SettingPairsOfAPartition : Prop :=
  ∀ (s : State) (p : PartN),
    (s.sys.state = 1 → ∀ v c : W32,
      (v.extractLsb' 0 8 = ~~~(c.extractLsb' 0 8) → ∃ t, exec (.pipePairingWrite p v c) s = .next t ∧ t = { clearLatch s (ptnOff p 0x410) with parts := t.parts } ∧
        (t.part p) = { s.part p with pipe := Paired.of (v.extractLsb' 0 8) } ∧ ∀ k, k ≠ p.val → t.part k = s.part k) ∧
      (v.extractLsb' 0 8 ≠ ~~~(c.extractLsb' 0 8) → ∃ t, exec (.pipePairingWrite p v c) s = .next t ∧ PairCounted (clearLatch s (ptnOff p 0x410)) t)) ∧
    (s.sys.state = 1 → ∀ v c : W32,
      (v.extractLsb' 0 15 = ~~~(c.extractLsb' 0 15) → ∃ t, exec (.buddyConfig p v c) s = .next t ∧ t = { clearLatch s (ptnOff p 0x424) with parts := t.parts } ∧
        (t.part p) = { s.part p with dp := { (s.part p).dp with buddy := Paired.of (v.extractLsb' 0 15) } } ∧
        ∀ k, k ≠ p.val → t.part k = s.part k) ∧
      (v.extractLsb' 0 15 ≠ ~~~(c.extractLsb' 0 15) → ∃ t, exec (.buddyConfig p v c) s = .next t ∧ PairCounted (clearLatch s (ptnOff p 0x424)) t)) ∧
    (s.sys.state = 1 → ∀ v c x y : W32, ∃ t, exec (.dpConfig p v c x y) s = .next t ∧
      let a := v.extractLsb' 0 7 = ~~~(c.extractLsb' 0 7)
      let b := x.extractLsb' 0 24 = ~~~(y.extractLsb' 0 24)
      (t.part p) = { s.part p with dp := { (s.part p).dp with
        dp := if a then Paired.of (v.extractLsb' 0 7) else (s.part p).dp.dp
        ports := if b then Paired.of (x.extractLsb' 0 24) else (s.part p).dp.ports } } ∧
      (∀ k, k ≠ p.val → t.part k = s.part k) ∧ t = { s with parts := t.parts, sys := t.sys } ∧
      t.sys.pairMismatch = satAdd (satAdd s.sys.pairMismatch (if a then 0 else 1)) (if b then 0 else 1) ∧ (a → b → t.sys = (clearLatch (clearLatch s (ptnOff p 0x42C)) (ptnOff p 0x434)).sys)) ∧
    ((s.part p).pipe.ok = true →
      ((s.part p).pipe.v ≠ (s.part p).pipeOn → atStep s p = true → (∀ k, atStep s k = true) →
        ∃ t, exec (.pipePairingApply p) s = .next t ∧ t = { s with parts := t.parts, ports := t.ports } ∧
          (t.part p) = { s.part p with pipeOn := (s.part p).pipe.v } ∧ ∀ k, k ≠ p.val → t.part k = s.part k) ∧
      ((s.part p).pipe.v = (s.part p).pipeOn ∨ atStep s p = false ∨
          (∃ w, (w = (s.part p).pipe.v ∨ w = (s.part p).pipeOn) ∧ w.getLsbD 7 = true ∧ w.getLsbD 6 = false ∧
            atStep s (w.extractLsb' 0 3).toNat = false) →
        exec (.pipePairingApply p) s = .next s))

/-- R382, R383, R387, R385: TRAIN of a context that may train becomes the request in progress, or the last that waits for
it; TRAIN_DATA adds one micro-batch to the request with its JOB_TAG; with a request, no job, and no more serving requests
than the idle mark, Dill starts the READY training image. -/
def Obligations.TrainingRequestsArrive : Prop :=
  ∀ (s : State) (vf : VfN) (q : QpN) (htag : W32),
    (∀ (f : TrainF) (i : Nat), Names s vf q f.context → ((s.ctx f.context.toNat).state = 1 ∨ (s.ctx f.context.toNat).state = 2 ∨
        (s.ctx f.context.toNat).state = 4) → ((s.ctx f.context.toNat).stateSnap ≠ 0 ∨ f.resume = true) →
      trainImage (s.part (s.ctx f.context.toNat).part.toNat) = some i →
      ((s.part (s.ctx f.context.toNat).part.toNat).image i).st = .ready → 1 ≤ f.globalMb.toNat → f.globalMb.toNat ≤ 256 → f.steps ≠ 0 →
      ∃ t, exec (.train (.queue vf q htag) f) s = .next t ∧ t = { s with parts := t.parts } ∧
        (t.part (s.ctx f.context.toNat).part.toNat).train.toList ++ (t.part (s.ctx f.context.toNat).part.toNat).trainQ =
          (match (s.part (s.ctx f.context.toNat).part.toNat).train with
           | none => TrainJob.new vf q htag f :: (s.part (s.ctx f.context.toNat).part.toNat).trainQ
           | some u => u :: (s.part (s.ctx f.context.toNat).part.toNat).trainQ ++ [TrainJob.new vf q htag f])) ∧
    (∀ (c : BitVec 16) (tag : W32) (j : BitVec 16) (tokens : List W32) (u : TrainJob), Names s vf q c → (s.ctx c.toNat).state ≠ 5 →
      (s.part (s.ctx c.toNat).part.toNat).train = some u → u.ctx = c → u.jobTag = tag → j.toNat < u.globalMb →
      ∃ t, exec (.trainData (.queue vf q htag) c tag j tokens) s = .next t ∧ t = { s with parts := t.parts } ∧
        (t.part (s.ctx c.toNat).part.toNat).train = some { u with batches := u.batches ++ [⟨vf, q, htag, j, tokens⟩] }) ∧
    (∀ (p : PartN) (i : Nat), Ready s → trainImage (s.part p) = some i → (s.part p).train.isSome → (s.part p).running = none →
      (s.part p).yield_ = none → servingLoad (s.part p) ≤ (s.part p).idleRows.toNat → ((s.part p).image i).st = .ready →
      (s.part p).integ.refused = false → (s.part p).st ≠ 0 → drawnUntil s p ≤ s.tick + 1 →
      ∃ t, exec (.dillTrainingSwitch p) s = .next t ∧ t = { s with cores := t.cores, parts := t.parts } ∧ (t.part p).running = some i ∧
        (t.part p).jobStart = s.tick + 1)

/-- R386: at a DSTEP Dill posts segment 1 of the next step once every micro-batch of it is held, and segment 2 after it;
s24 holds the job's step number and s25 the segment. Of a job on one module without a teacher whose state is in its pages.
R404, R408: at the end of tick S_s + X the leader decides once: present are the live ranks whose exchange slots have all
landed since segment 1; a rank whose segment 2 was not posted by its deadline leaves the job, and its request ends. -/
def Obligations.TrainingSegmentsRanksAndLeave : Prop :=
  (∀ (s : State) (p : PartN) (x : ImgInfo) (u : TrainJob), serveInfo s p = some x → x.training = true → mayPost s p = true →
     (s.part p).train = some u → (s.part p).baseEpoch.ok = true → ContextsOk s → (s.part p).dp.buddy.ok = true → (s.part p).dp.dp.ok = true → (s.part p).dp.ports.ok = true →
     (u.segment = 0 → trainStatus s p u = none → (s.part p).dp.dp.v.getLsbD 6 = false → u.teacher = 0xFFFF → u.begun = true →
       (∀ j, j < u.globalMb → u.batches.any (fun b => b.j.toNat == j) = true) →
       ∃ t, exec (.trainingSegmentPosting p) s = .next t ∧ (t.part p).train.map (fun v => (v.segment, v.sNo, v.htag)) = some (1, u.sNo, u.htag) ∧
         (∀ c ∈ x.cores, (∃ n, (t.core c).wait = .posted n ∧ s.gov.now / 32 < n) ∧ (t.core c).reg 24 = BitVec.ofNat 32 u.sNo ∧
           (t.core c).reg 25 = 1)) ∧
     (u.segment = 1 → isDp (s.part p) = false →
       ∃ t, exec (.trainingSegmentPosting p) s = .next t ∧ (t.part p).train = some { u with segment := 2 } ∧
         (∀ c ∈ x.cores, (∃ n, (t.core c).wait = .posted n ∧ s.gov.now / 32 < n) ∧ (t.core c).reg 24 = BitVec.ofNat 32 u.sNo ∧
           (t.core c).reg 25 = 2))) ∧
  (∀ (s : State) (p : PartN) (x : ImgInfo) (u : TrainJob), serveInfo s p = some x → (s.part p).train = some u → isDp (s.part p) = true → u.segment = 1 →
     (x.training = true → isLead (s.part p) = true → u.decided = false →
       ∃ t v, exec (.presenceDecision p) s = .next t ∧ t = { s with parts := t.parts, gov := t.gov } ∧ (t.part p).train = some v ∧
         t.gov.now = max s.gov.now (32 * (u.s0.getD 0 + u.sNo * x.maxStep + x.serve.exchange) + 31) ∧ v.decided = true ∧
         ∀ r, r < 8 → v.present.getLsbD r = ((liveRanks (s.part p)).contains r && exLanded s x u.sNo r u.seg1)) ∧
     (∃ t, exec (.rankLeaveDeadline p) s = .next t ∧ (t.part p).dp.left = true ∧
       t.gov.now = max s.gov.now (32 * (u.s0.getD 0 + (u.sNo + 2) * x.maxStep)) ∧
       ∀ v ∈ (t.part p).train.toList ++ (t.part p).trainQ, v.isOf u.vf u.qp u.htag = false))

/-- R394, R397: the copier copies the lowest held STATE page into the BUDDY page of its place byte for byte and marks it
copied; once every page is, closing makes the target generation the valid one and lets the pages be written again. Of a
buddy region on this module, whose page entries agree with their complements (R185). -/
def Obligations.CheckpointsCopyAndClose : Prop :=
  ∀ (s : State) (p : PartN),
    (∀ (i g b : Nat), (s.part p).running = some i → trainImage (s.part p) = some i → (s.part p).pauseFrom = none → (s.part p).saving = false →
      (s.part p).ckpt.state = 1 → (s.part p).ckpt.openPages.find? (fun g => (s.page g).v.getLsbD 7 && !(s.page g).v.getLsbD 8) = some g →
      buddyRemote s p = false → PagesOk s →
      (buddyPages s p)[targetGen (s.part p).ckpt * genSize (statePages s p).length + (statePages s p).findIdx (· == g)]? = some b →
      ∃ t, exec (.checkpointPageCopy ⟨p, []⟩) s = .next t ∧ t = { s with stack := t.stack, pages := t.pages, parts := t.parts } ∧
        (t.page g).v.getLsbD 8 = true ∧ (∀ k, k ≠ g → t.page k = s.page k) ∧
        (∀ k, k < 65536 → bget t.stack (b * 65536 + k) = bget s.stack (g * 65536 + k)) ∧
        (∀ a, a < b * 65536 ∨ (b + 1) * 65536 ≤ a → bget t.stack a = bget s.stack a) ∧
        (t.part p).ckpt.left = (s.part p).ckpt.left - 1) ∧
    (∀ (u : TrainJob), (s.part p).train = some u → (s.part p).ckpt.state = 1 → PagesOk s →
      (∀ g ∈ (s.part p).ckpt.openPages, (s.page g).v.getLsbD 8 = true) →
      ∃ t, exec (.checkpointClose p) s = .next t ∧ (t.part p).ckpt.state = 0 ∧ (t.part p).ckpt.gen = (s.part p).ckpt.target ∧
        (t.part p).ckpt.genOk = true ∧ (t.part p).ckpt.t = (s.part p).ckpt.epoch ∧
        (∀ g ∈ (s.part p).ckpt.openPages, (t.page g).v.getLsbD 7 = false ∧ (t.page g).v.getLsbD 8 = false) ∧ t.cores = s.cores)

/-- Table 13-5: GET_VERSION, GET_CAPABILITIES and NEGOTIATE_ALGORITHMS in this order lead to agreed algorithms, after
which GET_DIGESTS and GET_CERTIFICATE of slot 0 return the digest of the chain and the chain; nothing else of the module
changes. The message layout is DSP0274's (log 63). R421, R422, R428: CHALLENGE and KEY_EXCHANGE each take a token of the
bucket and a leaf of the per-boot tree, and without a token both are refused and counted; FINISH with the verify data of
an exchange establishes the session on its secret, and any other verify data counts as a failed authentication. -/
def Obligations.SpdmIdentityAndSignatures : Prop :=
  (∀ (s : State) (fn : Option VfN), s.sys.state = 1 →
     (∃ t, exec (.getVersion fn) s = .next t ∧ t = { s with sage := t.sage } ∧
       sessionOf t (doeIx fn) = { sessionOf s (doeIx fn) with version := true, caps := false, algs := false } ∧
       sget [] t.sage.doe (doeIx fn) = spdmHdr 0x04 0 0 ++ [0, 1, 0, 0x13]) ∧
     ((sessionOf s (doeIx fn)).version = true →
       ∃ t, exec (.getCapabilities fn) s = .next t ∧ t = { s with sage := t.sage } ∧
         sessionOf t (doeIx fn) = { sessionOf s (doeIx fn) with caps := true }) ∧
     ((sessionOf s (doeIx fn)).caps = true →
       ∃ t, exec (.negotiateAlgorithms fn true true true true) s = .next t ∧ t = { s with sage := t.sage } ∧
         sessionOf t (doeIx fn) = { sessionOf s (doeIx fn) with algs := true }) ∧
     ((sessionOf s (doeIx fn)).algs = true →
       (∃ t, exec (.getDigests fn) s = .next t ∧ t = { s with sage := { s.sage with doe := t.sage.doe } } ∧
         sget [] t.sage.doe (doeIx fn) = spdmHdr 0x01 0 1 ++ leBytes 48 (Config.sha384 (Config.certChain s.sage.serial)).toNat) ∧
       (∃ t, exec (.getCertificate fn 0) s = .next t ∧ t = { s with sage := { s.sage with doe := t.sage.doe } } ∧
         sget [] t.sage.doe (doeIx fn) = spdmHdr 0x02 0 0 ++ Config.certChain s.sage.serial))) ∧
  (∀ (s : State) (fn : Option VfN), s.sys.state = 1 →
     (s.sage.treeCertified = true → s.sage.leaves ≠ 0 → (sessionOf s (doeIx fn)).algs = true →
       (s.sage.tokens ≠ 0 → ∀ nonce, ∃ t, exec (.challenge fn 0 nonce) s = .next t ∧ t.sage.tokens = s.sage.tokens - 1 ∧
         t.sage.leaves = s.sage.leaves - 1 ∧ t.sage.drbg = s.sage.drbg + 1 ∧ (sget [] t.sage.doe (doeIx fn)).take 2 = [0x13, 0x03]) ∧
       (s.sage.tokens = 0 → ∀ nonce, ∃ t, exec (.challenge fn 0 nonce) s = .next t ∧ t.sage.busy = satAdd s.sage.busy 1 ∧
         t.sage.leaves = s.sage.leaves ∧ (sget [] t.sage.doe (doeIx fn)).take 3 = [0x13, 0x7F, 3]) ∧
       (s.sage.tokens ≠ 0 → ∀ key : List Byte, (sessionOf s (doeIx fn)).up = false → (s.sage.debug = 0 ∨ fn = none) → key.length = 1568 →
         ∃ t h, exec (.keyExchange fn key) s = .next t ∧ t.sage.tokens = s.sage.tokens - 1 ∧ t.sage.leaves = s.sage.leaves - 1 ∧
           (sessionOf t (doeIx fn)).kex = (sessionOf s (doeIx fn)).kex ++ [h] ∧ (sessionOf t (doeIx fn)).up = false)) ∧
     (∀ verify : BitVec 384, (sessionOf s (doeIx fn)).up = false → (sessionOf s (doeIx fn)).kex ≠ [] →
       (∀ h, (sessionOf s (doeIx fn)).kex.find?
           (fun h => Config.hmac384 (leBytes 48 h.1.toNat) (leBytes 48 h.2.1.toNat) == verify) = some h →
         ∃ t, exec (.finish fn verify) s = .next t ∧ (sessionOf t (doeIx fn)).up = true ∧ (sessionOf t (doeIx fn)).secret = h.1 ∧
           (sessionOf t (doeIx fn)).kex = [] ∧ (sessionOf t (doeIx fn)).claimed = false ∧ t.sage.deniedAuth = s.sage.deniedAuth) ∧
       ((∀ h ∈ (sessionOf s (doeIx fn)).kex, Config.hmac384 (leBytes 48 h.1.toNat) (leBytes 48 h.2.1.toNat) ≠ verify) →
         ∃ t, exec (.finish fn verify) s = .next t ∧ (sessionOf t (doeIx fn)).up = false ∧ t.sage.deniedAuth = satAdd s.sage.deniedAuth 1)))

/-- R437: END_SESSION and a missed heartbeat end an established session; its secret and the keys of the VF's queue pairs
are gone in the same tick. KEY_UPDATE and HEARTBEAT keep it. R431, R432, R434, R435: TENANT_CLAIM stores the credential of
a tenant that has none, TENANT_PROVE asks for its HMAC over the session; either keys all 32 queue pairs of the VF in
generation 0 with counters 0. A wrong proof is counted. QREKEY moves a pair to the next generation. -/
def Obligations.SessionsAndTheirQueueKeys : Prop :=
  (∀ (s : State) (fn : Option VfN), (sessionOf s (doeIx fn)).up = true →
     (s.sys.state = 1 →
       (∃ t, exec (.endSession fn) s = .next t ∧ sessionOf t (doeIx fn) = Session.fresh ∧
         ∀ vf, fn = some vf → ∀ q : QpN, (t.qp vf q).keyed = false ∧ (t.qp vf q).keyC2s = 0 ∧ (t.qp vf q).keyS2c = 0) ∧
       (∃ t, exec (.keyUpdate fn) s = .next t ∧ t = { s with sage := t.sage } ∧
         sessionOf t (doeIx fn) = { sessionOf s (doeIx fn) with updates := (sessionOf s (doeIx fn)).updates + 1 }) ∧
       (∃ t, exec (.heartbeat fn) s = .next t ∧ t = { s with sage := { s.sage with doe := t.sage.doe } })) ∧
     (∃ t, exec (.heartbeatMissed fn) s = .next t ∧ sessionOf t (doeIx fn) = Session.fresh ∧
       ∀ vf, fn = some vf → ∀ q : QpN, (t.qp vf q).keyed = false ∧ (t.qp vf q).keyC2s = 0 ∧ (t.qp vf q).keyS2c = 0)) ∧
  (∀ (s : State) (vf : VfN), s.sys.state = 1 → (sessionOf s vf).up = true → (tenantOf s vf).ok = true →
     (∀ cred, (tenantRec s (tenantOf s vf).v.toNat).present = true → (tenantRec s (tenantOf s vf).v.toNat).cred = none →
       ∃ t, exec (.tenantClaim vf cred) s = .next t ∧ (tenantRec t (tenantOf s vf).v.toNat).cred = some cred ∧
         (sessionOf t vf).claimed = true ∧ (sessionOf t vf).tenant = (tenantOf s vf).v ∧
         ∀ q : QpN, t.qp vf q = (s.qp vf q).rekey (sessionOf s vf).secret vf q 0) ∧
     (∀ mac cred, (tenantRec s (tenantOf s vf).v.toNat).cred = some cred →
       (Config.hmac384 (leBytes 32 cred.toNat) (leBytes 48 (sessionOf s vf).th.toNat) = mac →
         ∃ t, exec (.tenantProve vf mac) s = .next t ∧ (sessionOf t vf).proven = true ∧ (sessionOf t vf).claimed = false ∧
           ∀ q : QpN, t.qp vf q = (s.qp vf q).rekey (sessionOf s vf).secret vf q 0) ∧
       (Config.hmac384 (leBytes 32 cred.toNat) (leBytes 48 (sessionOf s vf).th.toNat) ≠ mac →
         ∃ t, exec (.tenantProve vf mac) s = .next t ∧ t.sage.deniedAuth = satAdd s.sage.deniedAuth 1 ∧ t.cxl = s.cxl ∧
           sessionOf t vf = sessionOf s vf)) ∧
     (∀ q : QpN, (s.qp vf q).keyed = true → outstanding s vf q = false →
       ∃ t, exec (.qrekey vf q) s = .next t ∧ (t.qp vf q).keyed = true ∧ (t.qp vf q).cntIn = 0 ∧ (t.qp vf q).cntOut = 0 ∧
         (t.qp vf q).gen.toNat = ((s.qp vf q).gen.toNat + 1) % 256 ∧ (t.qp vf q).tagFails = 0 ∧
         (t.qp vf q).keyC2s = queueKey (sessionOf s vf).secret vf q 0 (((s.qp vf q).gen.toNat + 1) % 256) ∧
         ∀ k, k ≠ q.val → t.qp vf k = s.qp vf k))

/-- R430, R437: TENANT_SET writes record, quota and mask while the quotas fit into 49,152 contexts; TENANT_REVOKE zeroises
the credential and ends the sessions of the tenant's VFs, and its contexts are DELETING; VF_ASSIGN binds a VF and resets
its queue pairs. Sent in a mailbox of PF0. -/
def Obligations.TenantRecordsAndBindings : Prop :=
  ∀ (s : State) (n : MboxN) (tag tenant : BitVec 16), Ready s → n.val < 16 → Waits s n →
    (∀ (quota : BitVec 16) (mask : BitVec 8), tenant ≠ 0 → tenant.toNat ≤ 4095 → otherQuotas s tenant.toNat + quota.toNat ≤ 49152 →
      ∃ t, exec (.tenantSet (.mailbox n tag) tenant quota mask) s = .next t ∧ t = { s with sage := t.sage, mboxes := t.mboxes } ∧
        tenantRec t tenant.toNat = { tenantRec s tenant.toNat with present := true, quota := quota, mask := Paired.of mask } ∧
        (∀ k, k ≠ tenant.toNat → tenantRec t k = tenantRec s k) ∧ Answered s t n St.ok 0) ∧
    ((tenantRec s tenant.toNat).present = true →
      (∃ t, exec (.tenantRevoke (.mailbox n tag) tenant) s = .next t ∧ tenantRec t tenant.toNat = { tenantRec s tenant.toNat with cred := none } ∧
        (∀ vf ∈ vfsOf s tenant, vf < 128 → sessionOf t vf = Session.fresh) ∧
        (∀ c : BitVec 16, (s.ctx c.toNat).state ≠ 0 → (s.ctx c.toNat).tenant.v = tenant → (t.ctx c.toNat).state = 6) ∧
        Answered s t n St.ok 0) ∧
      (∀ vf : VfN, ∃ t, exec (.vfAssign (.mailbox n tag) vf tenant) s = .next t ∧ tenantOf t vf = Paired.of tenant ∧
        sessionOf t vf = Session.fresh ∧ (∀ q : QpN, ∃ w m, t.qp vf q = { Qp.fresh with written := w, msix := m }) ∧
        Answered s t n St.ok 0))

/-- R415, R420 to R422: a token enters the bucket while it holds fewer than 4,096; the per-boot tree is certified once
with the next top leaf and 32,768 leaves of its own, and a flash record of the top index that fails its HMAC is sensor 3
(R419) and certifies nothing; a successor is made when 1,024 leaves or fewer remain; the DRBG is
reseeded after 2^20 requests. Nothing outside Sage changes. R416, R446, R532, R533: a sensor event in READY enters Parsley
with cause 3 and its sensor as source, and the zeroisation leaves no byte of any memory, no partition and no context. -/
def Obligations.SageTreesTokensAndSensors : Prop :=
  (∀ s : State,
     (∃ t, exec .signingToken s = .next t ∧ t = { s with sage := { s.sage with tokens := t.sage.tokens } } ∧
       (s.sage.tokens.toNat ≤ 4096 → t.sage.tokens.toNat = min 4096 (s.sage.tokens.toNat + 1))) ∧
     (s.sage.treeCertified = false → s.sage.topNext.toNat < 2 ^ 20 → s.sage.flashGood = true →
       ∃ t, exec .perBootTreeCertify s = .next t ∧ t = { s with sage := t.sage } ∧ t.sage.treeCertified = true ∧
         t.sage.leaves = 32768 ∧ t.sage.topNext.toNat = s.sage.topNext.toNat + 1) ∧
     (s.sage.treeCertified = false → s.sage.topNext.toNat < 2 ^ 20 → s.sage.flashGood = false → s.sys.state = 1 →
       ∃ t, exec .perBootTreeCertify s = .next t ∧ t.sys.state = 2 ∧ t.sys.parCause = 3 ∧ t.sage.lastSensor = 3 ∧
         t.sage.topNext = s.sage.topNext) ∧
     (s.sage.treeCertified = true → exec .perBootTreeCertify s = .next s) ∧
     (s.sage.treeCertified = true → s.sage.topNext.toNat < 2 ^ 20 →
       exec .successorTreeReady s = .next (if s.sage.leaves.toNat ≤ 1024 then { s with sage := { s.sage with successor := true } } else s)) ∧
     exec .drbgReseed s = .next (if 2 ^ 20 ≤ s.sage.drbg then { s with sage := { s.sage with drbg := 0 } } else s)) ∧
  (∀ (s : State) (n : Fin 6), s.sys.state = 1 →
     ∃ t, exec (.sageSensorEvent n) s = .next t ∧ t.sys.state = 2 ∧ t.sys.parCause = 3 ∧ t.sys.parSource = BitVec.ofNat 12 n ∧
       t.sage.lastSensor = BitVec.ofNat 4 n ∧ t.sage.sensorValid = true ∧ t.err.alert.getLsbD 2 = true ∧
       (∀ a, bget t.stack a = 0 ∧ bget t.scratch a = 0 ∧ bget t.cim a = 0 ∧ bget t.scales a = 0 ∧ bget t.cacheBytes a = 0) ∧
       (∀ p, t.part p = Part.fresh) ∧ ∀ c, t.ctx c = Ctx.fresh)

/-- R441, R528: on MGMT in READY, ATTEST draws a token and a leaf and answers OK, TELEMETRY answers OK, and FW_UPDATE of a
staged image that passes R424 begins programming; none of them writes to a memory. The contents of the telemetry are free
values (log 10). R446, R536, R537: ZEROISE on MGMT leaves every memory zero and begins the zeroisation that ends in READY;
POWER_OFF marks every running job to stop with DISABLED and begins the one that ends in OFF. R449, R450: DEBUG_CHALLENGE
on MGMT gives a nonce of this tick; DEBUG_UNLOCK spends it: a signature that opens the scope zeroises the module and reads
DEBUG, any other counts and reports AUTH_FAIL; after 60 s the nonce is gone. -/
def Obligations.ManagementCommandsAndDebug : Prop :=
  (∀ s : State, Ready s →
     (∀ nonce first page, s.sage.treeCertified = true → s.sage.leaves ≠ 0 → s.sage.tokens ≠ 0 →
       ∃ t, exec (.attest .mgmt false nonce first page) s = .next t ∧ t = { s with sage := t.sage, sys := t.sys } ∧ t.sys.mgmtStatus = St.ok ∧
         t.sys.mgmtBusy = false ∧ t.sage.tokens = s.sage.tokens - 1 ∧ t.sage.leaves = s.sage.leaves - 1) ∧
     (∀ page, ∃ t, exec (.telemetry .mgmt page) s = .next t ∧ t = { s with freeCtr := s.freeCtr + 1, sys := t.sys } ∧
       t.sys.mgmtStatus = St.ok ∧ t.sys.mgmtBusy = false) ∧
     (∀ first len gs, s.sys.fwUpdate ≠ 1 → 0 < len → len ≤ 33554432 → stagedPages s first len = some gs → PagesOk s →
       let image := moduleBytes s gs len
       ∃ t, exec (.fwUpdate .mgmt first len) s = .next t ∧
         if fwCheck s image = St.ok then t = { s with sys := { s.sys with fwUpdate := 1, fwStatus := St.accepted, fwVia := some .mgmt } }
         else t = { s with sys := t.sys } ∧ t.sys.mgmtStatus = fwCheck s image ∧ t.sys.fwUpdate = s.sys.fwUpdate)) ∧
  (∀ s : State, Ready s →
     (∃ t, exec (.zeroise .mgmt) s = .next t ∧ t.sage.zeroising = some 2 ∧ t.sys.state = 1 ∧
       (∀ a, bget t.stack a = 0 ∧ bget t.scratch a = 0 ∧ bget t.cim a = 0 ∧ bget t.scales a = 0 ∧ bget t.cacheBytes a = 0) ∧
       (∀ p, t.part p = Part.fresh) ∧ (∀ c, t.ctx c = Ctx.fresh) ∧ (∀ k, tenantRec t k = Tenant.fresh) ∧ ∀ ix, sessionOf t ix = Session.fresh) ∧
     (∃ t, exec (.powerOff .mgmt) s = .next t ∧ t = { s with parts := t.parts, sage := t.sage } ∧ t.sage.zeroising = some 5 ∧
       ∀ p, p < 8 → (s.part p).running.isSome → (s.part p).stop = none → (t.part p).stop = some (St.disabled, s.tick + 1))) ∧
  (∀ s : State,
     (Ready s → (∃ t n, exec (.debugChallenge .mgmt) s = .next t ∧ t.sage.debugNonce = some (n, s.tick) ∧ t.sage.drbg = s.sage.drbg + 1 ∧
         t.sys.mgmtStatus = St.ok) ∧
       ∀ (scope : BitVec 8) (sig : List Byte),
         ∃ t, exec (.debugUnlock .mgmt scope sig) s = .next t ∧ t.sage.debugNonce = none ∧
           if unlockOk s scope sig = true then t.sys.state = 4 ∧ t.sage.debug = scope.setWidth 2 ∧ t.sage.zeroising = some 3 ∧
             ∀ a, bget t.stack a = 0 ∧ bget t.scratch a = 0
           else t.sys.mgmtStatus = St.authFail ∧ t.sys.state = 1 ∧ t.sage.deniedAuth = satAdd s.sage.deniedAuth 1 ∧
             t.sage.debug = s.sage.debug ∧ SameBytes s t) ∧
     (∀ n u, s.sage.debugNonce = some (n, u) → exec .debugNonceExpiry s = .next { s with
       gov := { s.gov with now := max s.gov.now (32 * (u + 1875000000)) }
       sage := { s.sage with debugNonce := none } }))

/-- R459, R460 (and R457 for PF0 at the mailboxes it may not reach): what a read of a lock register by an endpoint returns,
when it acquires the lock, and that it changes nothing otherwise; of reads that reach a free lock in one cycle, the lowest
endpoint that may send acquires it, and the others read its number. The pair of the lock holds; a read by PF0 at a secure
mailbox returns 0 and sets the mailbox's bit of BAY_VIOL. -/
def Obligations.LockReadsAcquireFreeLocks : Prop :=
  ∀ (s : State) (ep : BitVec 5) (os : List (BitVec 5)) (n : MboxN), (s.mbox n).owner.ok = true →
    (ep = 1 → 32 ≤ n.val → exec (.bayLockRead ⟨ep, []⟩ n) s =
      .next { s with bayViol := s.bayViol ||| (1#32 <<< (n.val - 32)), readData := 0 }) ∧
    (¬(ep = 1 ∧ 32 ≤ n.val) → (∀ e ∈ os, ¬(e = 1 ∧ 32 ≤ n.val)) →
      (maySend ep.toNat n = true → (s.mbox n).owner.v = 0 → (∀ e ∈ os, maySend e.toNat n = true → ep.toNat ≤ e.toNat) →
        ∃ t, exec (.bayLockRead ⟨ep, os⟩ n) s = .next t ∧
        t = { s with readData := 0, mboxes := t.mboxes } ∧ t.mbox n = { s.mbox n with owner := Paired.of ep, broken := false } ∧
        ∀ k, k ≠ n.val → t.mbox k = s.mbox k) ∧
      (∀ e ∈ os, maySend e.toNat n = true → e ≠ ep → (s.mbox n).owner.v = 0 →
        (∀ x ∈ ep :: os, maySend x.toNat n = true → e.toNat ≤ x.toNat) →
        ∃ t, exec (.bayLockRead ⟨ep, os⟩ n) s = .next t ∧
        t = { s with readData := e.setWidth 64, mboxes := t.mboxes } ∧
        t.mbox n = { s.mbox n with owner := Paired.of e, broken := false } ∧ ∀ k, k ≠ n.val → t.mbox k = s.mbox k) ∧
      (maySend ep.toNat n = true → (s.mbox n).owner.v = ep → ep ≠ 0 →
        exec (.bayLockRead ⟨ep, os⟩ n) s = .next { s with readData := 0 }) ∧
      (maySend ep.toNat n = true → (s.mbox n).owner.v ≠ 0 → (s.mbox n).owner.v ≠ ep →
        exec (.bayLockRead ⟨ep, os⟩ n) s = .next { s with readData := (s.mbox n).owner.v.setWidth 64 }) ∧
      (maySend ep.toNat n = false → ((s.mbox n).owner.v = 0 → ∀ e ∈ os, maySend e.toNat n = false) →
        exec (.bayLockRead ⟨ep, os⟩ n) s =
          .next { s with readData := if (s.mbox n).owner.v = 0 then 31 else (s.mbox n).owner.v.setWidth 64 }))

/-- R462: a release by the owner frees the lock and clears payload, acknowledge register and the five bits; a later
acknowledge of the message changes nothing; a release by any other endpoint is ignored. Of mailboxes for which no
completion message waits (R465; log 76). -/
def Obligations.ReleasesFreeTheLock : Prop :=
  ∀ (s : State) (ep : BitVec 5) (n : MboxN), (s.mbox n).owner.ok = true → ¬(ep = 1 ∧ 32 ≤ n.val) →
    (ep ≠ 0 → (s.mbox n).owner.v = ep → (16 ≤ n.val → n.val < 24 → s.sys.owedMsgs = []) →
      ∃ t, exec (.bayRelease ep n) s = .next t ∧ t = { s with mboxes := t.mboxes } ∧
        t.mbox n = { s.mbox n with owner := Paired.of 0, payload := [], status := 0, value := 0, pending := false, done := false,
                                   timeout := false, late := false, waking := false } ∧
        (∀ k, k ≠ n.val → t.mbox k = s.mbox k) ∧
        ∀ r st v, ∃ u, exec (.bayAck r n st v) t = .next u ∧ u.mbox n = t.mbox n) ∧
    ((s.mbox n).owner.v ≠ ep → exec (.bayRelease ep n) s = .next s)

/-- R463, R464, R466, R467: a doorbell of the owner sets PENDING, clears the result bits and starts the timer, and is
ignored while a message is pending; the receiver's acknowledge completes the pending message and no other endpoint's does;
the timer's end sets TIMEOUT with its status, and an acknowledge after it only sets LATE. Of enabled mailboxes whose
receiver is awake and takes the command code. R468, R469: a doorbell to a Dill mailbox while PD1 is off sets WAKING; when
the domain is up WAKING clears and the domain reads powered. Sage breaks the lock of an owner whose reset is confirmed: the
mailbox is cleared as by a release, BROKEN is set, and mailbox 63 holds the notice. The notice's layout is the model's (log
76). Doorbells are of ticks without an event of classes 1 to 3 of the module before them (R268). -/
def Obligations.DoorbellsWakesAndBreaks : Prop :=
  (∀ (s : State) (ep : BitVec 5) (n : MboxN), ¬(ep = 1 ∧ 32 ≤ n.val) → discarded s .module = false →
     ((s.mbox n).owner.ok = true → ep ≠ 0 → (s.mbox n).owner.v = ep → (s.mbox n).pending = false → boxDisabled s n = false → wakesPd1 s n = false →
       (¬(n.val < 16 ∨ (24 ≤ n.val ∧ n.val < 32)) ∨ (boxCodes n).contains ((sget 0 (s.mbox n).payload 0).toNat % 65536) = true) →
       ∃ t, exec (.bayDoorbell ep n) s = .next t ∧ t = { s with mboxes := t.mboxes, cxl := t.cxl } ∧
         t.mbox n = { s.mbox n with pending := true, done := false, timeout := false, late := false, due := (s.mbox n).dueAt s.gov.now } ∧
         ∀ k, k ≠ n.val → t.mbox k = s.mbox k) ∧
     ((s.mbox n).owner.ok = true → ((s.mbox n).pending = true ∨ (s.mbox n).owner.v ≠ ep) → exec (.bayDoorbell ep n) s = .next s) ∧
     (∀ st v, (ep.toNat = receiverOf n →
         ((s.mbox n).pending = true → (s.mbox n).timeout = false → ∃ t, exec (.bayAck ep n st v) s = .next t ∧ t = { s with mboxes := t.mboxes } ∧
           Answered s t n st v.toNat) ∧
         ((s.mbox n).timeout = true → ∃ t, exec (.bayAck ep n st v) s = .next t ∧ t = { s with mboxes := t.mboxes } ∧
           t.mbox n = { s.mbox n with late := true })) ∧
       (ep.toNat ≠ receiverOf n → exec (.bayAck ep n st v) s = .next s)) ∧
     ((s.mbox n).pending = true → ∃ t, exec (.bayTimeoutExpiry n) s = .next t ∧
       t = { s with gov := { s.gov with now := max s.gov.now (s.mbox n).due }, mboxes := t.mboxes } ∧
       t.mbox n = { s.mbox n with timeout := true, status := St.timeout, pending := false })) ∧
  ((∀ (s : State) (n : MboxN), (s.mbox n).owner.ok = true → (s.mbox n).owner.v = 1 → 24 ≤ n.val → n.val < 32 → (s.mbox n).pending = false →
     s.pwr.on.getLsbD 1 = false → boxDisabled s n = false → discarded s .module = false →
     ∃ t, exec (.bayDoorbell 1 n) s = .next t ∧ (t.mbox n).waking = true ∧ (t.mbox n).pending = true ∧ t.pwr.wake = true) ∧
   (∀ (s : State) (n : MboxN), s.pwr.wake = true → (s.mbox n).waking = true → (s.mbox n).pending = true →
     (¬(n.val < 16 ∨ (24 ≤ n.val ∧ n.val < 32)) ∨ (boxCodes n).contains ((sget 0 (s.mbox n).payload 0).toNat % 65536) = true) →
     ∃ t, exec (.bayWakeComplete n) s = .next t ∧ t = { s with mboxes := t.mboxes, pwr := t.pwr } ∧ t.pwr.pd1 = true ∧ t.pwr.on.getLsbD 1 = true ∧
       t.pwr.wake = false ∧ t.mbox n = { s.mbox n with waking := false }) ∧
   (∀ (s : State) (n : MboxN), n.val ≠ 63 → ownerReset s (s.mbox n).owner.v.toNat = true →
     ∃ t, exec (.bayLockBreak n) s = .next t ∧ t = { s with mboxes := t.mboxes, err := t.err, cxl := t.cxl } ∧
       t.mbox n = { s.mbox n with owner := Paired.of 0, payload := [], status := 0, value := 0, pending := false, done := false,
                                  timeout := false, late := false, waking := false, broken := true } ∧
       (t.mbox 63).owner.v = 3 ∧ (t.mbox 63).pending = true ∧ (∀ k, k ≠ n.val → k ≠ 63 → t.mbox k = s.mbox k)))

/-- R486, R490, R434, R481: a tail at or above the SQ size only sets DB_ERR. Otherwise the entry up to the tail is opened and the
SQ head passes it; one whose tag fails is counted and completes with AUTH_FAIL and the counter stays, and one that opens but
names no command of Table 15-4 advances the counter and completes with BAD_FORMAT. Where the translation of the entry's
address fails, the pair is disabled with DISABLED, no entry is read and the fault is recorded (R481, R546), named here where no training job's
completions follow it in the ring. Of ticks without such an event of the VF
before the doorbell (R268). -/
def Obligations.SubmittedEntriesAreTaken : Prop :=
  ∀ (s : State) (vf : VfN) (q : QpN) (tail : BitVec 12) (e : SqEntry) (es : List SqEntry), discarded s (.vf vf.val) = false →
    ((s.qp vf q).sqSize ≤ tail.toNat → ∃ t, exec (.sqDoorbell vf q tail es) s = .next t ∧ t = { s with cxl := t.cxl } ∧
      t.qp vf q = { s.qp vf q with dbErr := true } ∧ ∀ k, k ≠ q.val → t.qp vf k = s.qp vf k) ∧
    ((s.qp vf q).on = true → (s.qp vf q).keyed = true → tail.toNat < (s.qp vf q).sqSize → (s.qp vf q).tagFails < 15 →
      (s.qp vf q).cntIn.toNat < counterEnd →
      (tail.toNat + (s.qp vf q).sqSize - (s.qp vf q).sqHead.toNat) % (s.qp vf q).sqSize = 1 →
      (s.atsFails vf ((s.qp vf q).sqBase + 128 * (s.qp vf q).sqHead.setWidth 64) = true →
        ∃ t, exec (.sqDoorbell vf q tail [e]) s = .next t ∧ (t.qp vf q).on = false ∧ (t.qp vf q).status = St.disabled ∧
          ((∀ p, p < 8 → (s.part p).train = none ∧ (s.part p).trainQ = []) →
            sget FaultRec.none t.err.ring (s.err.head.toNat % 1024) = (disabledFault vf q St.disabled).record s.err.head s.tick) ∧
          (t.qp vf q).sqHead = (s.qp vf q).sqHead ∧ (t.qp vf q).cntIn = (s.qp vf q).cntIn) ∧
      ((∀ a, s.atsFails vf a = false) →
      ∃ t, exec (.sqDoorbell vf q tail [e]) s = .next t ∧ (t.qp vf q).sqTail = tail ∧
        (t.qp vf q).sqHead = BitVec.ofNat 12 (((s.qp vf q).sqHead.toNat + 1) % (s.qp vf q).sqSize) ∧
        match Config.gcmOpen (s.qp vf q).keyC2s (queueIv (vf.val * 32 + q.val) 0 0 (s.qp vf q).gen.toNat (s.qp vf q).cntIn) e.hdr e.cipher e.tag with
        | none => t = { s with sage := { s.sage with deniedAuth := satAdd s.sage.deniedAuth 1 }, cxl := t.cxl } ∧
            (t.qp vf q).tagFails = (s.qp vf q).tagFails + 1 ∧ (t.qp vf q).cntIn = (s.qp vf q).cntIn ∧
            ∃ c ∈ (t.qp vf q).written ++ (t.qp vf q).waiting, c.htag = BitVec.ofNat 32 (fieldAt e.hdr 4 4) ∧ c.status = St.authFail
        | some b => tenantCode (fieldAt b 0 2) = false → t = { s with cxl := t.cxl } ∧ (t.qp vf q).tagFails = 0 ∧
            (t.qp vf q).cntIn = (s.qp vf q).cntIn + 1 ∧
            ∃ c ∈ (t.qp vf q).written ++ (t.qp vf q).waiting, c.htag = BitVec.ofNat 32 (fieldAt e.hdr 4 4) ∧ c.status = St.badFormat))

/-- R487, R488, R342, R491, R481: entries and record slots up to a written head are free, and a completion that waited for
them is written with the present phase; IRQ_US after the first pending completion the vector fires; clearing ENABLE ends
the pair's requests outside a step with DISABLED and marks the others; an invalidated translation is given up, and where the
host maps the page no more, what would be written through it is not: the pair is disabled with DISABLED and the fault recorded. -/
def Obligations.RingsInterruptsAndTranslations : Prop :=
  ∀ (s : State) (vf : VfN) (q : QpN),
    (∀ head : BitVec 12,
      ((s.qp vf q).waiting = [] → ∃ t, exec (.cqHeadWrite vf q head) s = .next t ∧ t = { s with cxl := t.cxl } ∧
        t.qp vf q = { s.qp vf q with
          cqHead := head
          cqUsed := ((s.qp vf q).cqTail.toNat + (s.qp vf q).cqSize - head.toNat % (s.qp vf q).cqSize) % (s.qp vf q).cqSize } ∧
        ∀ k, k ≠ q.val → t.qp vf k = s.qp vf k) ∧
      (∀ c, (s.qp vf q).waiting = [c] → (s.qp vf q).d2hUsed + c.recs ≤ (s.qp vf q).d2hSlots →
        (((s.qp vf q).slotsOf c).any (s.atsFails vf) = true → ∃ t, exec (.cqHeadWrite vf q head) s = .next t ∧
          t = { s with cxl := t.cxl, err := t.err } ∧ ((s.qp vf q).disabled = true → t.err = s.err) ∧
          ((s.qp vf q).disabled = false →
            sget FaultRec.none t.err.ring (s.err.head.toNat % 1024) = (disabledFault vf q St.disabled).record s.err.head s.tick) ∧
          (t.qp vf q).on = false ∧ (t.qp vf q).waiting = [] ∧ (t.qp vf q).written = (s.qp vf q).written ∧
          ((s.qp vf q).disabled = false → (t.qp vf q).status = St.disabled)) ∧
        (((s.qp vf q).slotsOf c).any (s.atsFails vf) = false → ∃ t d, exec (.cqHeadWrite vf q head) s = .next t ∧ t = { s with cxl := t.cxl } ∧ (t.qp vf q).waiting = [] ∧
          (t.qp vf q).written = (s.qp vf q).written ++ [d] ∧ d.htag = c.htag ∧ d.status = c.status ∧ d.data = c.data ∧
          d.phase = (s.qp vf q).cqPhase ∧ (c.pstatus = true → d.entry = d.header ++ List.replicate 112 0)))) ∧
    (∀ head : BitVec 10, (s.qp vf q).waiting = [] → ∃ t, exec (.d2hHeadWrite vf q head) s = .next t ∧ t = { s with cxl := t.cxl } ∧
      t.qp vf q = { s.qp vf q with
        d2hHead := head
        d2hUsed := ((s.qp vf q).d2hTail.toNat + (s.qp vf q).d2hSlots - head.toNat % (s.qp vf q).d2hSlots) % (s.qp vf q).d2hSlots } ∧
      ∀ k, k ≠ q.val → t.qp vf k = s.qp vf k) ∧
    ((s.qp vf q).irqPending ≠ 0 → (s.qp vf q).irqCount ≠ 0 → ∃ t, exec (.interruptDelayExpiry vf q) s = .next t ∧
      t = { s with
        gov := { s.gov with now := max s.gov.now ((s.qp vf q).irqSince + 1000 * ((s.qp vf q).ctrl.extractLsb' 9 16).toNat) }
        cxl := t.cxl } ∧
      t.qp vf q = { s.qp vf q with irqPending := 0, msix := (s.qp vf q).msix + 1 } ∧ ∀ k, k ≠ q.val → t.qp vf k = s.qp vf k) ∧
    (∀ v : W32,
      ((s.qp vf q).ctrl.getLsbD 0 = false → v.getLsbD 0 = true → ∃ t, exec (.queuePairEnable vf q v) s = .next t ∧ t = { s with cxl := t.cxl } ∧
        t.qp vf q = { s.qp vf q with
          ctrl := v &&& 0x01FFFFFF
          disabled := (s.qp vf q).disabled && (s.qp vf q).status == St.authFail } ∧ ∀ k, k ≠ q.val → t.qp vf k = s.qp vf k) ∧
      ((s.qp vf q).ctrl.getLsbD 0 = true → v.getLsbD 0 = false → ∃ t, exec (.queuePairEnable vf q v) s = .next t ∧
        (t.qp vf q).ctrl = v &&& 0x01FFFFFF ∧ (t.qp vf q).on = false ∧
        (t.qp vf q).status = (if (s.qp vf q).disabled then (s.qp vf q).status else St.disabled) ∧
        ∀ p, p < 8 → ∀ r ∈ (t.part p).dill.reqs, r.vf = vf.val → r.qp = q.val → r.command ≠ 0x0110 → r.rows ≠ 0 ∧ r.status = St.disabled)) ∧
    (∀ i : AtsInv, ∃ t, exec (.atsInvalidation vf i) s = .next t ∧
      t = { s with cxl := { s.cxl with ats := s.cxl.ats.filter fun e => e != (vf.val, i.iova >>> 12), unmapped := t.cxl.unmapped } } ∧
      (∀ a, t.atsFails vf a = if a >>> 12 = i.iova >>> 12 then !i.mapped else s.atsFails vf a) ∧
      ∀ k : VfN, k ≠ vf → ∀ a, t.atsFails k a = s.atsFails k a)

/-- R479: a read of a frame in no area returns zeros with the poison indication and a write to one is discarded, both
logged in CXL_ERR_LOG, as is a write to an export area, which is discarded. Within an area the bytes of the page behind
the frame are read and written, and no others. -/
def Obligations.MemoryWindowReachesAreas : Prop :=
  ∀ (s : State) (f : BitVec 20) (off : BitVec 16) (data : List Byte),
    ((∀ e ∈ s.cxl.areas, e.2.valid = true → f.toNat < e.2.first.toNat ∨ e.2.first.toNat + e.2.len ≤ f.toNat) →
      exec (.windowRead f off) s = .next { s with
        readData := 0
        readPoison := true
        cxl := if s.cxl.errValid then s.cxl else { s.cxl with errFrame := f, errWrite := false, errValid := true } } ∧
      exec (.windowWrite f off data) s = .next { s with
        cxl := if s.cxl.errValid then s.cxl else { s.cxl with errFrame := f, errWrite := true, errValid := true } }) ∧
    (∀ a g, frameOf s f.toNat = some (a, g) → (s.page g).ok = true →
      (a.exportA = true → exec (.windowWrite f off data) s = .next { s with
        cxl := if s.cxl.errValid then s.cxl else { s.cxl with errFrame := f, errWrite := true, errValid := true } }) ∧
      (a.exportA = false → off.toNat + data.length ≤ 65536 → ∃ t, exec (.windowWrite f off data) s = .next t ∧ t = { s with stack := t.stack } ∧
        ∀ x, bget t.stack x =
          if g * 65536 + off.toNat ≤ x ∧ x < g * 65536 + off.toNat + data.length then data.getD (x - (g * 65536 + off.toNat)) 0
          else bget s.stack x) ∧
      (off.toNat + 8 ≤ 65536 → ∃ t, exec (.windowRead f off) s = .next t ∧ t = { s with readData := t.readData, readPoison := false } ∧
        ∀ i, i < 8 → t.readData.extractLsb' (8 * i) 8 = bget s.stack (g * 65536 + off.toNat + i)))

/-- R437, R473, R491, R493, R523, R526: a link that goes down ends every session and records kind 0x11 of unit 1,479; a
trained link is up with its width and rate in flit mode; IDE_KM sets the encryption of a link that is up; snoops miss;
configuration requests are retried in BOOT alone; a reset of PF0 breaks its locks and clears its registers, and one of a VF
resets its queue pairs and ends its session. In a tick in which an event of classes 1 to 3 of its scope came first, a link
loss and a VF's reset are discarded (R268). -/
def Obligations.LinkAndFunctionResets : Prop :=
  ∀ s : State,
    (s.cxl.up = true → discarded s .host = false → ∃ t, exec .cxlLinkDown s = .next t ∧ t.cxl.up = false ∧ t.cxl.width = 0 ∧ t.cxl.ide = false ∧ t.cxl.ats = [] ∧
      (∀ ix, (sessionOf s ix).up = true → sessionOf t ix = Session.fresh) ∧ t.err.head = s.err.head + 1 ∧
      (sget FaultRec.none t.err.ring (s.err.head.toNat % 1024)).kind = 0x11 ∧
      (sget FaultRec.none t.err.ring (s.err.head.toNat % 1024)).source = 1479) ∧
    (∀ cfg, s.pwr.on.getLsbD 22 = true → s.pwr.perst = false → exec (.cxlLinkTrained cfg) s =
      .next { s with cxl := { s.cxl with up := true, width := cfg.width, rate := cfg.rate, flit := true, vfs := cfg.vfs } }) ∧
    (∀ enable, s.cxl.up = true → exec (.ideKm enable) s = .next { s with cxl := { s.cxl with ide := enable } }) ∧
    (∀ addr, exec (.hostSnoop addr) s = .next { s with readData := 0 }) ∧
    (∀ fn, exec (.configurationRequest fn) s = .next { s with readData := if s.sys.state = 0 then 1 else 0 }) ∧
    (∃ t, exec .pf0Flr s = .next t ∧ t.sage = s.sage ∧ t.cxl.errValid = false ∧ t.cxl.errFrame = 0 ∧ t.cxl.qps = s.cxl.qps ∧
      ∀ n, n < 63 → if (s.mbox n).owner.v = 1 then (t.mbox n).owner.v = 0 ∧ (t.mbox n).broken = true else t.mbox n = s.mbox n) ∧
    (discarded s .host = true → exec .cxlLinkDown s = .next s) ∧
    (∀ vf : VfN, discarded s (.vf vf.val) = true → exec (.vfFlr vf) s = .next s) ∧
    (∀ vf : VfN, discarded s (.vf vf.val) = false → ∃ t, exec (.vfFlr vf) s = .next t ∧ sessionOf t vf = Session.fresh ∧ (∀ e ∈ t.cxl.ats, e.1 ≠ vf.val) ∧
      ∀ q : QpN, ∃ w m, t.qp vf q = { Qp.fresh with written := w, msix := m })

/-- R480, R478: EXPORT in a mailbox of PF0 makes an export area with the sealed image of a snapshot and is ACCEPTED; at its
end a message in mailbox 16 carries TAG, OK and the area number (of a module whose mailbox 16 is free); EXPORT_RELEASE
returns the area's pages to FREE, zeroised. The pages of the snapshot agree with their complements. -/
def Obligations.ExportAreasComeAndGo : Prop :=
  (∀ (s : State) (n : MboxN) (tag c : BitVec 16) (state : Bool) (key : BitVec 256) (y : Snapshot) (a : Nat) (gs : List Nat) (u : State),
    Ready s → n.val < 16 → Waits s n → c.toNat < 49152 → (s.ctx c.toNat).state ≠ 0 → (s.ctx c.toNat).ok = true →
    sealKey s c.toNat = some key → roleSnap s c.toNat state = some y →
    makeArea (drawNonce s).2 (s.ctx c.toNat).part.toNat ((144 + 65552 * (y.pages ++ y.manifest).length + 65535) / 65536) true = some (a, gs, u) →
    (∀ g ∈ y.pages ++ y.manifest, (s.page g).ok = true) →
    ∃ t, exec (.exportCmd (.mailbox n tag) c state) s = .next t ∧ Answered s t n St.accepted tag.toNat ∧
      t.cxl.exports = s.cxl.exports ++ [(a, c, .mailbox n tag)] ∧ (sget Area.fresh t.cxl.areas a).exportA = true ∧
      (sget Area.fresh t.cxl.areas a).pages = gs ∧ ∀ g ∈ gs, attrOf (t.page g).v = .staging) ∧
  (∀ (s : State) (a : Fin 16) (c tag : BitVec 16) (n : MboxN), s.cxl.exports.find? (fun e => e.1 == a.val) = some (a.val, c, .mailbox n tag) →
    (s.mbox 16).owner.v = 0 → s.pwr.perst = false →
    ∃ t, exec (.exportComplete a) s = .next t ∧ t = { s with mboxes := t.mboxes, cxl := t.cxl } ∧
      t.cxl.exports = s.cxl.exports.filter (fun e => e.1 != a.val) ∧ t.cxl.msix0 = s.cxl.msix0 + 1 ∧
      (t.mbox 16).owner = Paired.of 2 ∧ (t.mbox 16).pending = true ∧
      sget 0 (t.mbox 16).payload 0 = BitVec.ofNat 32 (0x00FF + tag.toNat * 65536) ∧ sget 0 (t.mbox 16).payload 1 = 0 ∧
      sget 0 (t.mbox 16).payload 2 = BitVec.ofNat 32 a.val ∧ ∀ k, k ≠ 16 → t.mbox k = s.mbox k) ∧
  (∀ (s : State) (n : MboxN) (tag : BitVec 16) (a : Fin 16), Ready s → n.val < 16 → Waits s n → (sget Area.fresh s.cxl.areas a).valid = true →
    (sget Area.fresh s.cxl.areas a).exportA = true → s.cxl.exports.any (fun e => e.1 == a.val) = false →
    ∃ t, exec (.exportRelease (.mailbox n tag) a) s = .next t ∧ Answered s t n St.ok 0 ∧ sget Area.fresh t.cxl.areas a = Area.fresh ∧
      ∀ g ∈ (sget Area.fresh s.cxl.areas a).pages, attrOf (t.page g).v = .free ∧ ∀ i, i < 65536 → bget t.stack (g * 65536 + i) = 0)

/-- R498 to R501, R213: through a port that is up in plain mode a bound DATA, PIPE or CKPT packet delivers its payload: to
the slot of its core, to the slot of its lane, to the BUDDY pages; no other byte changes. A packet of a partition that is
not bound is refused with REJECT and counted, and a damaged one is named in a NAK, its FEC codewords counted. Of partitions without a
training job, on a port on which no packet is missed and nothing waits to leave; the place of a CKPT unit is the model's
(log 67). -/
def Obligations.PacketsDeliverTheirPayload : Prop :=
  ∀ (s : State) (n : PortN) (k : Packet), (s.port n).state = 2 → (s.port n).nak = [] → LineFree s n →
    (k.intact = false ∨ 0 < k.badWords → ∃ t, exec (.dataPacket n k) s = .next t ∧ t = { s with ports := t.ports } ∧
      (t.port n).uncorr = satAdd (s.port n).uncorr k.badWords ∧ (t.port n).corrected = satAdd (s.port n).corrected k.fixed ∧
      (t.port n).nak = [k.seq] ∧ Sent s t n 0 0 [1, k.seq.toNat]) ∧
    (k.intact = true → k.badWords = 0 → k.protectedMode = false → (s.port n).live = 1 → (s.part k.dpart).train = none → (s.part k.dpart).dp.dp.ok = true →
      (s.part k.dpart).dp.ports.ok = true → (s.part k.dpart).dp.buddy.ok = true →
      (boundTo s n 1 k = false → ∃ t, exec (.dataPacket n k) s = .next t ∧ t = { s with ports := t.ports } ∧
        (t.port n).reject = satAdd (s.port n).reject 1 ∧ Sent s t n 5 9 [k.seq.toNat]) ∧
      (boundTo s n 1 k = true → partOfCore s k.dcore.toNat = some k.dpart.val → k.dcore.toNat < 1280 →
        ∃ t, exec (.dataPacket n k) s = .next t ∧ t = { s with scratch := t.scratch, ports := t.ports, cores := t.cores } ∧
          let e := (s.core k.dcore.toNat).slot k.dslot.toNat
          let bs := k.cipher.take (e.len - 64 * k.doff.toNat)
          (∀ a, bget t.scratch a = if scrAddr k.dcore.toNat (e.base + 64 * k.doff.toNat) ≤ a ∧
              a < scrAddr k.dcore.toNat (e.base + 64 * k.doff.toNat) + bs.length
            then bs.getD (a - scrAddr k.dcore.toNat (e.base + 64 * k.doff.toNat)) 0 else bget s.scratch a) ∧
          (t.port n).seqRx = k.seq + 1 ∧
          if k.last then ((t.core k.dcore.toNat).slot k.dslot.toNat).arrTick = BitVec.ofNat 64 s.tick
          else t.cores = s.cores ∧ (k.dcore.toNat, k.dslot.toNat) ∈ (t.port n).begun) ∧
      (boundTo s n 2 k = true → ∀ (x : ImgInfo) (c slot : Nat), serveInfo s k.dpart = some x →
        x.lanes.find? (fun l => l.1 == k.dcore.toNat) = some (k.dcore.toNat, c, slot) →
        ∃ t, exec (.pipePacket n k) s = .next t ∧ t = { s with scratch := t.scratch, ports := t.ports, cores := t.cores } ∧
          let e := (s.core c).slot slot
          let bs := k.cipher.take (e.len - 64 * k.doff.toNat)
          (∀ a, bget t.scratch a = if scrAddr c (e.base + 64 * k.doff.toNat) ≤ a ∧ a < scrAddr c (e.base + 64 * k.doff.toNat) + bs.length
            then bs.getD (a - scrAddr c (e.base + 64 * k.doff.toNat)) 0 else bget s.scratch a) ∧
          (k.last = true → ((t.core c).slot slot).arrTick = BitVec.ofNat 64 s.tick)) ∧
      (boundTo s n 3 k = true → ∀ g, (buddyPages s k.dpart)[(k.doff.toNat + 8192 * (k.dslot.toNat + 512 * k.dcore.toNat)) / 1024]? = some g →
        (s.page g).ok = true →
        ∃ t, exec (.ckptPacket n k) s = .next t ∧ t = { s with stack := t.stack, ports := t.ports } ∧
          let a := g * 65536 + 64 * ((k.doff.toNat + 8192 * (k.dslot.toNat + 512 * k.dcore.toNat)) % 1024)
          let bs := k.cipher.take ((g + 1) * 65536 - a)
          ∀ x, bget t.stack x = if a ≤ x ∧ x < a + bs.length then bs.getD (x - a) 0 else bget s.stack x))

/-- R500, R501, R213: a packet that the peer missed is sent again with identical bytes and counted, and the fifth sending
unacknowledged takes the port down with kind 2; REJECT ends the launched XSENDs that the packet belongs to and nothing
else, and of a CKPT packet it abandons the sender's checkpoint with DISABLED, whose valid generation is lost (Table 12-5; that REJECT
is how the sender learns of it is the model's reading, log 128); a BAY packet reads or writes its port's mailbox as endpoint 16 + m. Of a port on which nothing waits to leave. -/
def Obligations.ReplayRejectAndRemoteMailbox : Prop :=
  ∀ (s : State) (n : PortN), (s.port n).state = 2 → LineFree s n →
    (∀ (seq : BitVec 16) (k : OutPkt) (count : Nat),
      (s.port n).unacked.find? (fun (e : Nat × OutPkt × Nat) => e.1 == seq.toNat) = some (seq.toNat, k, count) →
      (count < 5 → ∃ t, exec (.packetNak n seq) s = .next t ∧ t = { s with ports := t.ports } ∧ (t.port n).out = (s.port n).out ++ [k] ∧
        (t.port n).replays = satAdd (s.port n).replays 1 ∧ (t.port n).state = 2) ∧
      (5 ≤ count → ∃ t, exec (.packetNak n seq) s = .next t ∧ (t.port n).state = 0 ∧ (t.port n).downKind = 2) ∧
      (k.type = 3 → k.args.getD 0 0 < 8 → ∃ t, exec (.reject n seq) s = .next t ∧
        t = { s with pages := t.pages, parts := t.parts, ports := t.ports } ∧ (∀ m, t.port m = s.port m) ∧
        (t.part (k.args.getD 0 0)).ckpt.genOk = false ∧
        ((s.part (k.args.getD 0 0)).ckpt.state ≠ 0 → (t.part (k.args.getD 0 0)).ckpt.state = 0 ∧
          (t.part (k.args.getD 0 0)).ckpt.abandoned = true ∧ (t.part (k.args.getD 0 0)).ckpt.cause = St.disabled)) ∧
      (k.type ≠ 3 → ∃ t, exec (.reject n seq) s = .next t ∧ t = { s with cores := t.cores, ports := t.ports } ∧ (∀ m, t.port m = s.port m) ∧
        ∀ c q, (t.core c).queue q = ((s.core c).queue q).map fun e =>
          match e.op with
          | .xsend f =>
            if partOfCore s c == some (k.args.getD 0 0) && onPort s n c f && f.dcore.toNat == k.args.getD 1 0 && f.dslot.toNat == k.args.getD 2 0 then
              { e with launched := e.launched.map fun l => { l with dead := true } }
            else e
          | _ => e)) ∧
    (∀ (off : BitVec 8) (v : W32), off.toNat < 64 → (s.mbox (56 + n)).owner.v.toNat = 16 + n.val →
      (∃ t, exec (.bayPacket n true off v) s = .next t ∧ t = { s with mboxes := t.mboxes } ∧
        sget 0 (t.mbox (56 + n)).payload (off.toNat / 4) = v ∧ (t.mbox (56 + n)).owner = (s.mbox (56 + n)).owner ∧
        ∀ m, m ≠ 56 + n.val → t.mbox m = s.mbox m) ∧
      ((s.port n).live = 1 → ∃ t k, exec (.bayPacket n false off v) s = .next t ∧ t = { s with ports := t.ports } ∧
        (t.port n).out = (s.port n).out ++ [k] ∧ k.type = 4 ∧
        k.bytes = leBytes 4 (sget 0 (s.mbox (56 + n)).payload (off.toNat / 4)).toNat))

/-- R447, R448, R496, R507, R508: IDENT with a good signature of the module's own grade authenticates the peer, and any
other takes the port down with kind 4; the lower-slot end begins a key exchange with KEM_KEY, the peer answers KEM_CT,
both hold new keys until the tick of KEY_AT, at which they are in force with counters 0, and the old receive key is
zeroised 2 ticks later. Of ports on which nothing waits to leave (R502). That KEY_AT is 16 ticks ahead is the model's
choice (log 69). -/
def Obligations.LinkKeysAreExchanged : Prop :=
  ∀ (s : State) (n : PortN),
    (∀ (slot : BitVec 3) (serial : BitVec 64) (settled : Option (BitVec 3)) (eng : Bool) (chain sig : List Byte), s.sys.state = 1 →
      (s.port n).state = 1 → duplicatePeer s n slot serial = false →
      ∃ t, exec (.ident n slot serial settled eng chain sig) s = .next t ∧
        if Config.hssVerify (if eng then 4 else 3) (leBytes 1 slot.toNat ++ leBytes 8 serial.toNat ++ chain) sig = true ∧ eng = s.sage.es then
          (t.port n).identOk = true ∧ (t.port n).peer = slot ∧ (t.port n).serial = serial ∧
          (s.gov.slot.toNat < slot.toNat → (t.port n).kemDk.isSome ∧ Sent s t n 5 1 [0])
        else (t.port n).state = 0 ∧ (t.port n).downKind = 4 ∧ (t.port n).cause = St.authFail) ∧
    (∀ key : List Byte, (s.port n).state ≠ 0 → key.length = 1568 → LineFree s n → ∃ t, exec (.kemKey n key) s = .next t ∧ (t.port n).newTx.isSome ∧
      (t.port n).newRx.isSome ∧ (t.port n).keyTx = (s.port n).keyTx ∧ (t.port n).keyRx = (s.port n).keyRx ∧ Sent s t n 5 1 [1]) ∧
    (∀ (ct : List Byte) (dk : BitVec 256), (s.port n).kemDk = some dk → LineFree s n → ∃ t, exec (.kemCt n ct) s = .next t ∧ t = { s with ports := t.ports } ∧
      (t.port n).newTx = some (linkKey (Config.kemDecap dk ct) (txDir s n)) ∧
      (t.port n).newRx = some (linkKey (Config.kemDecap dk ct) (1 - txDir s n)) ∧ (t.port n).kemDk = none ∧
      (t.port n).switchTick = some (BitVec.ofNat 64 (s.tick + 16)) ∧ Sent s t n 5 2 [s.tick + 16]) ∧
    (∀ u : BitVec 64, (s.port n).newTx.isSome → ∃ t, exec (.keyAt n u) s = .next t ∧ t = { s with ports := t.ports } ∧
      t.port n = { s.port n with switchTick := some u } ∧ ∀ m, m ≠ n.val → t.port m = s.port m) ∧
    (∀ (u : BitVec 64) (tx rx : BitVec 256), (s.port n).switchTick = some u → (s.port n).newTx = some tx → (s.port n).newRx = some rx →
      configured s n = (s.port n).live → LineFree s n →
      ∃ t, exec (.linkKeySwitch n) s = .next t ∧ t = { s with gov := { s.gov with now := max s.gov.now (32 * u.toNat) }, ports := t.ports } ∧
        t.port n = { s.port n with
          keyTx := tx, keyRx := rx, oldRx := (s.port n).keyRx, newTx := none, newRx := none, ctrTx := 0, ctrRx := 0, switchTick := none
          oldUntil := some (u + 2) } ∧ ∀ m, m ≠ n.val → t.port m = s.port m) ∧
    (∀ u : BitVec 64, (s.port n).switchTick = none → (s.port n).oldUntil = some u →
      ∃ t, exec (.linkKeySwitch n) s = .next t ∧ t = { s with gov := { s.gov with now := max s.gov.now (32 * u.toNat) }, ports := t.ports } ∧
        t.port n = { s.port n with oldRx := 0, oldUntil := none } ∧ ∀ m, m ≠ n.val → t.port m = s.port m) ∧
    ((s.port n).state = 2 → s.gov.slot.toNat < (s.port n).peer.toNat → LineFree s n →
      (s.sys.state = 1 → ∃ t, exec (.fnlRekey (1#7 <<< n.val)) s = .next t ∧ (t.port n).kemDk.isSome ∧ Sent s t n 5 1 [0] ∧
        ∀ m, m ≠ n.val → t.port m = s.port m) ∧
      (2 ^ 32 ≤ (s.port n).ctrTx.toNat → (s.port n).modeDue = none →
        ∃ t, exec (.linkCounterRekey n) s = .next t ∧ (t.port n).kemDk.isSome ∧ Sent s t n 5 1 [0]))

/-- R509, R510, R515, R569: MODE_PROPOSE of the configured mode, 16 ticks ahead or more, is accepted, and of any other
mode refused; an accepted change takes place at its tick at both ends; a refused one is proposed again for tick T + 64.
FNL_MODE takes an agreeing pair and leaves ports with fields 0 and 3 as they were. Of ports on which nothing waits to leave
(R502). -/
def Obligations.LinkModesAreAgreed : Prop :=
  ∀ (s : State) (n : PortN),
    (∀ (mode : BitVec 2) (u : BitVec 64), (s.port n).state = 2 → (s.port n).proposal = none → s.fnlMode.ok = true →
      (mode ≠ 2 ∨ modeBlocked s n = false) → LineFree s n →
      ∃ t, exec (.modePropose n mode u) s = .next t ∧ t = { s with ports := t.ports } ∧
        if configured s n = mode ∧ s.tick + 16 ≤ u.toNat then (t.port n).modeDue = some (mode, u) ∧ Sent s t n 5 4 [0]
        else (t.port n).modeDue = (s.port n).modeDue ∧ Sent s t n 5 4 [1]) ∧
    (∀ x, (s.port n).proposal = some x →
      (∃ t, exec (.modeAccept n) s = .next t ∧ t = { s with ports := t.ports } ∧
        t.port n = { s.port n with modeDue := some x, proposal := none } ∧ ∀ m, m ≠ n.val → t.port m = s.port m) ∧
      (∃ t, exec (.modeReject n) s = .next t ∧ t = { s with ports := t.ports } ∧
        t.port n = { s.port n with proposal := none } ∧ ∀ m, m ≠ n.val → t.port m = s.port m)) ∧
    (∀ (mode : BitVec 2) (u : BitVec 64), (s.port n).modeDue = some (mode, u) → (s.port n).live ≠ mode → configured s n = mode → LineFree s n →
      ∃ t, exec (.linkModeSwitch n) s = .next t ∧ t = { s with gov := { s.gov with now := max s.gov.now (32 * u.toNat) }, ports := t.ports } ∧
        t.port n = { s.port n with live := mode, pending := false, blocked := false } ∧ ∀ m, m ≠ n.val → t.port m = s.port m) ∧
    ((s.port n).pending = true → (s.port n).proposal = none → (s.port n).state = 2 → configured s n = 1 → (s.port n).live ≠ 1 → LineFree s n →
      ∃ t, exec (.modeProposeRetry n) s = .next t ∧ t = { s with ports := t.ports } ∧
        (t.port n).proposal = some (1, BitVec.ofNat 64 (s.tick + 64)) ∧ Sent s t n 5 3 [1, s.tick + 64]) ∧
    (s.sys.state = 1 → ∀ v c : W32,
      (v.extractLsb' 0 14 = ~~~(c.extractLsb' 0 14) → ∃ t, exec (.fnlModeWrite v c) s = .next t ∧ t.fnlMode.ok = true ∧
        ∀ m, m < 7 → configured t m =
          if v.extractLsb' (2 * m) 2 = 1 ∨ v.extractLsb' (2 * m) 2 = 2 then v.extractLsb' (2 * m) 2 else configured s m) ∧
      (v.extractLsb' 0 14 ≠ ~~~(c.extractLsb' 0 14) → ∃ t, exec (.fnlModeWrite v c) s = .next t ∧ PairCounted (clearLatch s 0xC00000) t))

/-- R270 to R273, R297, R512: a follower takes half the round trip less the turnaround as its delay and loses the
alignment, with port-down kind 7, beyond a residual of one tick; ALIGN_REQ is answered with the times of sending and
receipt; LEVEL_REQ leaves the highest requested level decided, for a tick 8 ahead, and LEVEL_SET takes the master's; a
module whose peers have not settled becomes its own master. Times of ALIGN are active cycles (log 70). -/
def Obligations.AlignmentAndThrottleMessages : Prop :=
  ∀ (s : State) (n : PortN),
    (∀ (roundTrip turnaround : Nat) (resid : BitVec 16), masterPort s = some n.val →
      (resid.toInt.natAbs ≤ 32 → ∃ t, exec (.tickRealign roundTrip turnaround resid) s = .next t ∧
        t = { s with gov := { s.gov with residC := resid, aligned := true }, ports := t.ports } ∧
        t.port n = { s.port n with delay := BitVec.ofNat 16 ((roundTrip - turnaround) / 2) } ∧ ∀ m, m ≠ n.val → t.port m = s.port m) ∧
      (32 < resid.toInt.natAbs → ∃ t, exec (.tickRealign roundTrip turnaround resid) s = .next t ∧ t.gov.aligned = false ∧
        (t.port n).state = 0 ∧ (t.port n).downKind = 7)) ∧
    (∀ (u : BitVec 64) (cyc : BitVec 8), (s.port n).state ≠ 0 → LineFree s n → ∃ t, exec (.alignReq n u cyc) s = .next t ∧ t = { s with ports := t.ports } ∧
      Sent s t n 5 7 [1, 32 * u.toNat + cyc.toNat, s.gov.now, 0]) ∧
    (∀ (sent received : BitVec 64) (turnaround : Nat), (s.port n).toMaster = true → (s.port n).state = 2 →
      let d := (s.gov.now - sent.toNat - turnaround) / 2
      (BitVec.ofInt 16 ((sent.toNat : Int) + d - received.toNat)).toInt.natAbs ≤ 32 →
      ∃ t, exec (.alignRsp n sent received turnaround) s = .next t ∧
        t = { s with gov := { s.gov with residC := BitVec.ofInt 16 ((sent.toNat : Int) + d - received.toNat), aligned := true }, ports := t.ports } ∧
        t.port n = { s.port n with delay := BitVec.ofNat 16 d } ∧ ∀ m, m ≠ n.val → t.port m = s.port m) ∧
    (∀ level : BitVec 4, (s.port n).state = 2 → isFollower s = false → ∃ t, exec (.levelReq n level) s = .next t ∧ t.gov.level = s.gov.level ∧
      sget 0 t.gov.peerLevels (s.port n).peer.toNat = level.toNat ∧
      (match t.gov.pendingLevels.getLast? with | none => t.gov.level | some x => x.1) = (t.gov.peerLevels.map (·.2)).foldl max 0 ∧
      (t.gov.pendingLevels = s.gov.pendingLevels ∨ ∃ l, t.gov.pendingLevels = s.gov.pendingLevels ++ [(l, s.tick + 8)])) ∧
    (∀ (level : BitVec 4) (u : BitVec 64), (s.port n).toMaster = true → exec (.levelSet n level u) s =
      .next { s with gov := { s.gov with pendingLevels := s.gov.pendingLevels ++ [(level.toNat, u.toNat)] } }) ∧
    (∀ env, settling s = some env → ∃ t, exec .tickMasterSettleTimeout s = .next t ∧ t.gov.settled = some s.gov.slot ∧ t.gov.master = true)

/-- R511, R513, R514, R447, R496, R448: a port whose training ends well is up in protected mode with its peer; a failed one
is down with the kind of its cause; a port that goes down loses its keys and raises its alert; ports down with kinds 1, 2
and 7 train again after 1 ms, and by FNL_RETRAIN every port but a duplicate's. R376, R408, R499, R503: PIPE_BIND and
PIPE_UNBIND bind and unbind a partition on a port; LEAVE marks the rank in the partitions whose job it names; the shares of
a port are taken where they sum to at most 16 sixteenths and no loaded image needs more, and set SHARE_ERR otherwise. A
port's loss is stated for ticks in which no event of classes 1 to 3 of its scope came first (R268). -/
def Obligations.PortsTrainBindAndGoDown : Prop :=
  (∀ (s : State) (n : PortN),
     (∀ i : PortInfo, i.port = n → (s.port n).state = 1 →
       (i.linkOk = true → s.sage.treeCertified = true → i.authOk = true → i.engChain = s.sage.es → duplicatePeer s n i.peerSlot i.serial = false →
         (s.gov.settled = none ∨ i.peerMaster = none) →
         ∃ t, exec (.portTrainingComplete i) s = .next t ∧ (t.port n).state = 2 ∧ (t.port n).live = 2 ∧ (t.port n).peer = i.peerSlot ∧
           (t.port n).serial = i.serial ∧ (t.port n).delay = i.delay ∧ (t.port n).ctrRx = 0) ∧
       (i.linkOk = false → ∃ t, exec (.portTrainingComplete i) s = .next t ∧ (t.port n).state = 0 ∧ (t.port n).downKind = 1) ∧
       (i.linkOk = true → i.authOk = false → ∃ t, exec (.portTrainingComplete i) s = .next t ∧ (t.port n).state = 0 ∧ (t.port n).downKind = 4)) ∧
     (∀ kind : BitVec 3, (s.port n).state ≠ 0 → discarded s (.port n.val) = false → ∃ t, exec (.fennelPortDown n kind) s = .next t ∧ (t.port n).state = 0 ∧ (t.port n).live = 0 ∧
       (t.port n).downKind = kind ∧ (t.port n).keyTx = 0 ∧ (t.port n).keyRx = 0 ∧
       (t.port n).cause = (if kind = 3 ∨ kind = 4 then St.authFail else St.disabled) ∧ t.err.alert.getLsbD 5 = true ∧
       ∀ m, m ≠ n.val → t.port m = s.port m) ∧
     ((s.port n).state = 0 → portPowered s n = true →
       ((s.port n).downKind = 1 ∨ (s.port n).downKind = 2 ∨ (s.port n).downKind = 7 →
         ∃ t, exec (.portRetrainTimer n) s = .next t ∧ (t.port n).state = 1 ∧ ∀ m, m ≠ n.val → t.port m = s.port m) ∧
       ((s.port n).downKind ≠ 5 → s.sys.state = 1 → ∃ t, exec (.fnlRetrain (1#7 <<< n.val)) s = .next t ∧ (t.port n).state = 1 ∧
         ∀ m, m ≠ n.val → t.port m = s.port m) ∧
       ((s.port n).downKind = 5 → s.sys.state = 1 → exec (.fnlRetrain (1#7 <<< n.val)) s = .next s))) ∧
  (∀ (s : State) (n : PortN),
     (∀ p : PartN, ((s.port n).state = 2 → ∃ t, exec (.pipeBind n p) s = .next t ∧ t = { s with ports := t.ports } ∧
         (∀ k, (t.port n).binds.any (fun b => b.1 == k) = (k == p.val || (s.port n).binds.any (fun b => b.1 == k))) ∧
         ∀ m, m ≠ n.val → t.port m = s.port m) ∧
       ∃ t, exec (.pipeUnbind n p) s = .next t ∧ t = { s with ports := t.ports } ∧
         (∀ k, (t.port n).binds.any (fun b => b.1 == k) = (k != p.val && (s.port n).binds.any (fun b => b.1 == k))) ∧
         ∀ m, m ≠ n.val → t.port m = s.port m) ∧
     (∀ (rank : BitVec 3) (tag : W32), ∃ t, exec (.leave n rank tag) s = .next t ∧ t = { s with parts := t.parts } ∧
       ∀ p, p < 8 → t.part p =
         if isDp (s.part p) = true ∧ (∃ u, (s.part p).train = some u ∧ u.jobTag = tag) ∧ dpPort (s.part p) rank.toNat = n.val then
           { s.part p with dp := { (s.part p).dp with leaving := (s.part p).dp.leaving ||| (1#8 <<< rank.toNat) } }
         else s.part p) ∧
     (∀ (hi : Bool) (v : W32), s.sys.state = 1 →
       let new (k : Nat) : Nat := if hi = decide (4 ≤ k) then (v.extractLsb' (8 * (k % 4)) 5).toNat else (s.port n).share k
       ((new 0 + new 1 + new 2 + new 3 + new 4 + new 5 + new 6 + new 7 ≤ 16 ∧ ∀ k, k < 8 → shareNeed (s.part k) n ≤ new k) →
         ∃ t, exec (.fennelShareWrite n hi v) s = .next t ∧ t = { s with ports := t.ports } ∧ (∀ k, k < 8 → (t.port n).share k = new k) ∧
           (t.port n).shareErr = (s.port n).shareErr) ∧
       ((16 < new 0 + new 1 + new 2 + new 3 + new 4 + new 5 + new 6 + new 7 ∨ ∃ k, k < 8 ∧ new k < shareNeed (s.part k) n) →
         ∃ t, exec (.fennelShareWrite n hi v) s = .next t ∧ t = { s with ports := t.ports } ∧
           t.port n = { s.port n with shareErr := true } ∧ ∀ m, m ≠ n.val → t.port m = s.port m)))

/-- R521, R525, R526, R531, R299, R426: power-good leads through the nine steps to READY with tick 0, no partition, context
or page in use, and the image's SVN blown; a failing self-test ends in Parsley with cause 3, a refused image in recovery
with its cause; power-good lost, no memory, partition or context stays, while fuses, leaves and life counters do. Of a
module with the good macros that R3 guarantees and a flash record that verifies (R419), where READY is reached. -/
def Obligations.StartUpReachesReady : Prop :=
  ∀ (s : State) (e : StartEnv), (s.pwr.pwrgd = false → s.sys.flashBad = false → s.sys.fwUpdate ≠ 1 → s.sys.recBusy = false →
    (GoodStart e → MacrosSuffice s → s.sage.flashGood = true → ∃ t, exec (.powerGoodRise e) s = .next t ∧ t.sys.state = 1 ∧ t.sys.step = 0 ∧ t.gov.now = 0 ∧
      t.gov.running = true ∧ t.gov.level = 0 ∧ t.gov.slot = e.slot ∧ t.gov.master = true ∧ t.pwr.on = 0xFC0003 ∧ t.parts = [] ∧ t.ctxs = [] ∧
      t.pages = [] ∧ t.cxl.up = e.cxl.isSome ∧ t.sage.blown.toNat = max s.sage.blown.toNat e.imageSvn.toNat) ∧
    (e.selfTestOk = false → ∃ t, exec (.powerGoodRise e) s = .next t ∧ t.sys.state = 2 ∧ t.sys.parCause = 3 ∧ t.sys.parSource = 5) ∧
    (e.selfTestOk = true → e.fuseOk = true → e.image ≠ 0 → ∃ t, exec (.powerGoodRise e) s = .next t ∧ t.sys.state = 3 ∧
      t.sys.recCause = e.image ∧ t.pwr.on = 0xC00001)) ∧
  (s.pwr.pwrgd = true → ∃ t, exec .powerGoodLoss s = .next t ∧ t.sys.state = 0 ∧ t.pwr.pwrgd = false ∧ t.pwr.on = 0 ∧ t.parts = [] ∧ t.ctxs = [] ∧
    (∀ a, bget t.stack a = 0 ∧ bget t.scratch a = 0 ∧ bget t.cim a = 0) ∧ t.sage.blown = s.sage.blown ∧ t.sage.topNext = s.sage.topNext ∧
    t.err.hours = s.err.hours)

/-- R523, R524, R526, R533, R535 to R538, R568: PERST# in READY, and an agreeing RST_MODULE pair, begin a module reset:
BOOT, every memory zero, cause and count kept; its zeroisation ends in READY again. PERST# deasserted lets a start-up that
waits in step 8 reach READY; the end of a zeroisation by command answers it, and that of a power-off leaves OFF. READY is
reached with the good macros that R3 guarantees and a flash record that verifies (R419). -/
def Obligations.ModuleResetsRestart : Prop :=
  ∀ (s : State) (e : StartEnv),
    (s.sys.state = 1 → s.pwr.pwrgd = true → s.sys.fwUpdate ≠ 1 →
      (s.pwr.perst = false → ∃ t, exec (.perstAssert e) s = .next t ∧ t.sys.state = 0 ∧ t.sage.zeroising = some 4 ∧ t.pwr.perst = true ∧
        t.pwr.rstCause = 1 ∧ t.pwr.rstCount = satAdd s.pwr.rstCount 1 ∧ t.pwr.resetAfter = some e ∧ t.parts = [] ∧ t.cxl.up = false ∧
        t.gov.trips = s.gov.trips ∧ t.sage.debug = s.sage.debug ∧ ∀ a, bget t.stack a = 0 ∧ bget t.scratch a = 0 ∧ bget t.cim a = 0) ∧
      (∀ v c : W32, v.getLsbD 0 = true → c.getLsbD 0 = false → ∃ t, exec (.rstModuleRequest v c e) s = .next t ∧ t.sys.state = 0 ∧
        t.sage.zeroising = some 4 ∧ t.pwr.rstCause = 2 ∧ t.pwr.rstCount = satAdd s.pwr.rstCount 1 ∧ t.parts = [] ∧
        ∀ a, bget t.stack a = 0 ∧ bget t.scratch a = 0 ∧ bget t.cim a = 0)) ∧
    (∀ link, s.sys.state = 1 → exec (.perstDeassert link) s = .next { s with pwr := { s.pwr with perst := false } }) ∧
    (∀ link, s.sys.state = 0 → s.sys.step = 8 → s.sage.zeroising = none → s.pwr.resetAfter = some e → e.svnOk = true → s.sage.debug = 0 →
      ∃ t, exec (.perstDeassert link) s = .next t ∧ t.sys.state = 1 ∧ t.pwr.perst = false ∧ t.pwr.on.getLsbD 22 = true ∧
        (∀ c, link = some c → t.cxl.up = true ∧ t.cxl.width = c.width)) ∧
    (s.sage.zeroising = some 4 → s.pwr.resetAfter = some e → GoodStart e → s.pwr.perst = false → s.sage.debug = 0 → s.sys.flashBad = false →
      s.sys.fwUpdate ≠ 1 → s.sys.recBusy = false → MacrosSuffice s → s.sage.flashGood = true →
      ∃ t, exec .zeroisationComplete s = .next t ∧ t.sys.state = 1 ∧ t.sage.zeroising = none ∧ t.pwr.rstCause = s.pwr.rstCause ∧
        t.pwr.rstCount = s.pwr.rstCount ∧ t.gov.now = 0 ∧ t.parts = [] ∧ t.gov.trips = s.gov.trips) ∧
    (s.sage.zeroising = some 2 → s.pwr.resetAfter = none → s.sage.zeroVia = some (.mgmt, 7) → exec .zeroisationComplete s = .next { s with
      sage := { s.sage with zeroising := none, zeroVia := none }
      pwr := { s.pwr with on := s.pwr.on &&& ~~~groupDomains }
      sys := { s.sys with mgmtStatus := St.ok, mgmtBusy := false } }) ∧
    (s.sage.zeroising = some 5 → s.pwr.resetAfter = none → s.sage.zeroVia = some (.mgmt, 8) → (∀ p, p < 8 → (s.part p).running = none) →
      ∃ t, exec .zeroisationComplete s = .next t ∧ t.sys.state = 5 ∧ t.pwr.on = 1 ∧ t.sys.mgmtStatus = St.ok ∧ t.sys.mgmtBusy = false ∧
        t.sage.zeroising = none ∧ ∀ a, bget t.stack a = 0 ∧ bget t.scratch a = 0 ∧ bget t.cim a = 0)

/-- R524, R520, R545, Table 17-2: a partition reset, by Rosemary, by the Dill watchdog and by the rail fault of one of its
groups, ends the job, empties both images, frees MUTABLE and STATE pages and zeroes the groups; sets, base epoch and
contexts stay. A group whose rail faults is off and marked; a rail of PD1, PD18, PD19 or PD23 ends in Parsley with cause 6,
and one of the ports' domains takes the ports down with kind 6. Partition resets are stated for ticks in which no event of
classes 1 to 3 of their scope came first (R268). -/
def Obligations.PartitionResetsAndRails : Prop :=
  ∀ s : State,
    (∀ (p : PartN) (st : Status), (s.part p).st ≠ 0 → discarded s (.partition p.val) = false → LoadEnds s p → ∃ t, exec (.partitionReset p st) s = .next t ∧ (t.part p).running = none ∧
      (t.part p).st = (s.part p).st ∧ (t.part p).live = (s.part p).live ∧ (t.part p).baseEpoch = (s.part p).baseEpoch ∧ t.ctxs = s.ctxs ∧
      (t.part p).lastFault = st ∧ (∀ g ∈ (t.part p).img, g.st = .empty) ∧ t.pwr.rstPtn.getLsbD p = true ∧
      (∀ g ∈ ownedPages s p, attrOf (s.page g).v = .mutable ∨ attrOf (s.page g).v = .state → attrOf (t.page g).v = .free) ∧
      ∀ c a, c < 1280 → (s.part p).live.groups.v.getLsbD (groupOf c) = true → a < 2 ^ 21 → bget t.scratch (c * 2 ^ 21 + a) = 0) ∧
    (∀ p : PartN, s.sys.state = 1 → s.pwr.on.getLsbD 1 = true → (s.part p).st ≠ 0 → discarded s (.partition p.val) = false → LoadEnds s p → ∃ t, exec (.dillWatchdogExpiry p) s = .next t ∧
      (t.part p).running = none ∧ (t.part p).lastFault = St.internal ∧ (t.part p).live = (s.part p).live ∧ t.err.alert.getLsbD 0 = true) ∧
    (∀ d : Fin 24, s.pwr.on.getLsbD d = false → exec (.railFault d) s = .next s) ∧
    (∀ d : Fin 24, s.pwr.on.getLsbD d = true → s.sys.state = 1 →
      ((d = 1 ∨ d = 18 ∨ d = 19 ∨ d = 23) → ∃ t, exec (.railFault d) s = .next t ∧ t.sys.state = 2 ∧ t.sys.parCause = 6 ∧
        t.sys.parSource = BitVec.ofNat 12 d ∧ t.pwr.fault.getLsbD d = true ∧ t.pwr.on.getLsbD d = false) ∧
      (2 ≤ d.val → d.val < 18 → (∀ p, LoadEnds s p) → ∃ t, exec (.railFault d) s = .next t ∧ (t.group (d.val - 2)).railOff = true ∧ t.pwr.fault.getLsbD d = true ∧
        t.pwr.on.getLsbD d = false ∧ t.sys.state = 1 ∧
        ∀ p, partOfGroup s (d.val - 2) = some p → (s.part p).st ≠ 3 → (t.part p).running = none ∧ (t.part p).lastFault = St.internal) ∧
      (d = 20 → ∃ t, exec (.railFault d) s = .next t ∧ t.pwr.on.getLsbD 20 = false ∧
        ∀ n, n < 4 → (s.port n).state ≠ 0 → (t.port n).state = 0 ∧ (t.port n).downKind = 6))

/-- R519, R522, R532, R545, R556: a loss of the root PLL's lock or of the reference in READY enters Parsley with cause 1
and source 1,493, and the reference restored runs PD0's units again; the Rosemary watchdog enters it with cause 8. A
PWR_CTRL write powers PD23 off, its cache lines gone, unless a partition holds ways. Each powered hour adds 1, 2 or 4
equivalent hours by its hottest reading, and 87,660 of them set the LIFE alert. -/
def Obligations.ClocksDomainsAndLife : Prop :=
  ∀ s : State,
    (s.sys.state = 1 → s.gov.running = true → s.pwr.rootLock = true →
      (∃ t, exec .rootPllLockLoss s = .next t ∧ t.sys.state = 2 ∧ t.sys.parCause = 1 ∧ t.sys.parSource = 1493 ∧ t.pwr.rootLock = false ∧
        t.pwr.onRef = true ∧ t.gov.locked = false ∧ t.pwr.losses = satAdd s.pwr.losses 1) ∧
      (s.pwr.refOk = true → ∃ t, exec .referenceLoss s = .next t ∧ t.sys.state = 2 ∧ t.sys.parCause = 1 ∧ t.sys.parSource = 1493 ∧
        t.pwr.refOk = false ∧ t.pwr.onOsc = true ∧ t.pwr.onRef = false ∧ t.pwr.losses = satAdd s.pwr.losses 1)) ∧
    (s.pwr.refOk = false → exec .referenceRestored s = .next { s with pwr := { s.pwr with refOk := true, onOsc := false, onRef := true } }) ∧
    (s.sys.state = 1 → ∃ t, exec .rosemaryWatchdogExpiry s = .next t ∧ t.sys.state = 2 ∧ t.sys.parCause = 8 ∧ t.sys.parSource = 1493) ∧
    (∀ v : W32, s.sys.state = 1 → v.getLsbD 0 = s.pwr.pd1 → v.getLsbD 1 = s.pwr.pd20 → v.getLsbD 2 = s.pwr.pd21 →
      (v.getLsbD 3 = s.pwr.pd23 → exec (.powerDomainSwitch v) s = .next { s with pwr := { s.pwr with ctrlStatus := St.ok } }) ∧
      (v.getLsbD 3 = true → s.pwr.pd23 = false → exec (.powerDomainSwitch v) s =
        .next { s with pwr := { s.pwr with on := s.pwr.on ||| 0x800000, pd23 := true, ctrlStatus := St.ok } }) ∧
      (v.getLsbD 3 = false → s.pwr.pd23 = true →
        ((∀ p, p < 8 → (s.part p).live.ways.v = 0) → exec (.powerDomainSwitch v) s = .next { s with
          lines := []
          cacheBytes := []
          pwr := { s.pwr with on := s.pwr.on &&& ~~~0x800000, pd23 := false, ctrlStatus := St.ok } }) ∧
        (∀ p, p < 8 → (s.part p).live.ways.v ≠ 0 → exec (.powerDomainSwitch v) s =
          .next { s with pwr := { s.pwr with ctrlStatus := St.busy } }))) ∧
    (∀ celsius, s.pwr.pwrgd = true → ∃ t, exec (.lifeHourUpdate celsius) s = .next t ∧ t = { s with err := t.err, cxl := t.cxl } ∧
      t.err.hours = s.err.hours + 1 ∧ t.err.equiv = s.err.equiv + (if 100 < celsius then 4 else if 95 < celsius then 2 else 1) ∧
      (87660 ≤ t.err.equiv.toNat → t.err.alert.getLsbD 7 = true))

/-- R427, R528 to R531, R569: programming ends with UPDATE and its status by the read-back; in recovery the data register
fills the window word by word, COMMIT is accepted where the image passes R424, and a programmed image is followed by a
module reset with cause 3; a half of a pair that stood alone for 1,024 ticks is dropped, counted and logged with KIND 2.
-/
def Obligations.FirmwareRecoveryAndOrphans : Prop :=
  ∀ s : State,
    (∀ ok : Bool, s.sys.fwUpdate = 1 → s.sys.fwVia = some .mgmt → s.pwr.resetAfter = none → exec (.fwProgramComplete ok) s = .next { s with
      sys := { s.sys with
        fwUpdate := if ok then 2 else 0, fwStatus := if ok then St.ok else St.internal, flashBad := !ok, fwVia := none
        mgmtStatus := if ok then St.ok else St.internal, mgmtBusy := false } }) ∧
    (s.sys.state = 3 →
      (∀ w : W32, s.sys.recPos < 8388608 → ∃ t, exec (.sysRecoveryData w) s = .next t ∧
        t = { s with sys := { s.sys with recWin := t.sys.recWin, recPos := s.sys.recPos + 1 } } ∧
        ∀ i, sget 0 t.sys.recWin i = if i = s.sys.recPos then w else sget 0 s.sys.recWin i) ∧
      (s.sys.recBusy = false → s.sys.recLen ≠ 0 → s.sys.recLen.toNat ≤ 33554432 → exec .sysRecoveryCommit s = .next { s with
        sys := { s.sys with
          recPos := 0, recBusy := fwCheck s (recoveryImage s) == St.ok
          recStatus := if fwCheck s (recoveryImage s) = St.ok then St.accepted else fwCheck s (recoveryImage s) } }) ∧
      (∀ e, s.sys.recBusy = true →
        exec (.recoveryProgramComplete false e) s = .next { s with sys := { s.sys with recBusy := false, recStatus := St.internal, flashBad := true } } ∧
        ∃ t, exec (.recoveryProgramComplete true e) s = .next t ∧ t.sys.state = 0 ∧ t.sage.zeroising = some 4 ∧ t.pwr.rstCause = 3 ∧
          t.pwr.resetAfter = some e ∧ t.sys.flashBad = (s.sys.fwUpdate == 1))) ∧
    (∀ off half w u, s.sys.latches = [(off, half, w, u)] → ∃ t, exec .pairLatchTimeout s = .next t ∧
      t = { s with gov := { s.gov with now := max s.gov.now (32 * (u + 1024)) }, sys := t.sys } ∧ t.sys.latches = [] ∧
      t.sys.pairOrphan = satAdd s.sys.pairOrphan 1 ∧ t.sys.pairValid = true ∧
      (s.sys.pairValid = false → t.sys.pairKind = 2 ∧ t.sys.pairOff = BitVec.ofNat 26 (off / 4)))

/-- R564, R565, R571, R562, R563: a read of TICK_COUNT_LO latches the high half for its origin alone, and the next read of
_HI by that origin returns it; PF0's read of SYS_ACCESS_COUNT clears it and MGMT's does not; a read of an offset without a
register, or of a wrong width or alignment, returns 0 and is counted and logged. -/
def Obligations.RegisterReadsLatchClearAndRefuse : Prop :=
  ∀ (s : State) (o : Origin),
    (s.sys.state = 1 → (o = .pf0 ∨ o = .mgmt) →
      (∃ t, exec (.loHalfRead o 0x100000) s = .next t ∧
        t = { s with readData := (s.tick64.extractLsb' 0 32).setWidth 64, sys := { s.sys with hi := t.sys.hi } } ∧
        ∀ i, sget none t.sys.hi i = if i = latchIx o 0x100000 then some (s.tick64.extractLsb' 32 32) else sget none s.sys.hi i) ∧
      (∀ h, sget none s.sys.hi (latchIx o 0x100000) = some h → ∃ t, exec (.loHalfRead o 0x100004) s = .next t ∧
        t = { s with readData := h.setWidth 64, sys := { s.sys with hi := t.sys.hi } } ∧
        ∀ i, sget none t.sys.hi i = if i = latchIx o 0x100000 then none else sget none s.sys.hi i) ∧
      exec (.rcRead o 0x24) s = .next { s with
        readData := s.sys.accCount.setWidth 64
        sys := { s.sys with accCount := if o = .pf0 then 0 else s.sys.accCount } }) ∧
    (∀ (off : BitVec 28) (width : Nat), s.sys.state ≠ 5 →
      ((o ≠ .pf0 → o = .mgmt) → mapped s o off.toNat = false → width = 4 → off.toNat % 4 = 0 →
        ∃ t, exec (.refusedRead o off width) s = .next t ∧ t = { s with readData := 0, sys := t.sys } ∧
          t.sys.accCount = satAdd s.sys.accCount 1 ∧ t.sys.accValid = true ∧
          (s.sys.accValid = false → t.sys.accKind = 1 ∧ t.sys.accOff = BitVec.ofNat 26 (off.toNat / 4) ∧ t.sys.accWrite = false)) ∧
      (readAligned off.toNat width = false →
        ∃ t, exec (.refusedRead o off width) s = .next t ∧ t = { s with readData := 0, sys := t.sys } ∧
          t.sys.accCount = satAdd s.sys.accCount 1 ∧ t.sys.accValid = true ∧ (s.sys.accValid = false → t.sys.accKind = 2)))

/-- R563, R565, R569, R493, R577: a word written to ERR_ALERT_MASK stands in it; a write to an offset without a register,
or shorter than 4 bytes, changes nothing but the access log; an 8-byte write of an agreeing pair completes it, whatever half stood in its latch; a VF's ring
base is written, 4 KiB aligned, while ENABLE is 0 and not otherwise. -/
def Obligations.RegisterWritesTakeTheirFields : Prop :=
  ∀ (s : State) (e : StartEnv), s.sys.state = 1 →
    (∀ a b c d : Byte, exec (.registerWrite .pf0 0x1C0000C [a, b, c, d] e) s = .next { s with err := { s.err with mask := a } }) ∧
    (∀ (o : Origin) (off : BitVec 28) (a b c d : Byte), (o = .pf0 ∨ o = .mgmt) → off.toNat % 4 = 0 → mapped s o off.toNat = false →
      ∃ t, exec (.registerWrite o off [a, b, c, d] e) s = .next t ∧ t = { s with sys := t.sys } ∧ t.sys.accCount = satAdd s.sys.accCount 1 ∧
        t.sys.accValid = true ∧ (s.sys.accValid = false → t.sys.accKind = 1 ∧ t.sys.accWrite = true)) ∧
    (∀ (o : Origin) (off : BitVec 28) (data : List Byte), data.length < 4 → ∃ t, exec (.registerWrite o off data e) s = .next t ∧
      t = { s with sys := t.sys } ∧ t.sys.accCount = satAdd s.sys.accCount 1 ∧ (s.sys.accValid = false → t.sys.accKind = 2)) ∧
    ((∀ l ∈ s.sys.latches, s.tick < l.2.2.2 + 1024) → exec (.registerWrite .pf0 0x101008 [1, 0, 0, 0, 0, 0, 0, 0] e) s =
      .next { clearLatch s 0x101008 with gov := { s.gov with lend := Paired.of 1 } }) ∧
    (∀ (vf : VfN) (q : QpN) (v : BitVec 64),
      ((s.qp vf q).ctrl.getLsbD 0 = false → ∃ t, exec (.registerWrite (.vf vf) (BitVec.ofNat 28 (0x1000 * q.val)) (leBytes 8 v.toNat) e) s = .next t ∧
        t = { s with cxl := t.cxl } ∧ t.qp vf q = { s.qp vf q with sqBase := v &&& ~~~0xFFF } ∧ ∀ k, k ≠ q.val → t.qp vf k = s.qp vf k) ∧
      ((s.qp vf q).ctrl.getLsbD 0 = true → exec (.registerWrite (.vf vf) (BitVec.ofNat 28 (0x1000 * q.val)) (leBytes 8 v.toNat) e) s = .next s))

/-- The block's queue is first in, first out: a step runs the front command on the state with the queue's rest; on an
empty queue the block idles (log 1). -/
def Obligations.StepRunsTheFrontCommand : Prop :=
  (∀ (s : State) (c : Instr) (rest : List Instr), s.pending = c :: rest → step s = exec c { s with pending := rest }) ∧
  ∀ s : State, s.pending = [] → step s = .next s

/-- Reset values of the chapter tables: BOOT with PD0 alone powered, every page FREE, every partition and context FREE, no
lock held, slots with the invalid stamp, every port down, FNL_MODE 0x1555, ERR_ALERT_MASK 0xB6, time-outs of 100 µs, SCRUB
50, audit 60 minutes, MINT rate 4,096, chunk 256, an empty queue. Bytes read 0 by the model's choice (log 6). -/
def Obligations.ResetValuesOfTheTables : Prop :=
  State.reset.pending = [] ∧ State.reset.sys.state = 0 ∧ State.reset.pwr.on = 1 ∧ State.reset.fnlMode = Paired.of 0x1555 ∧
  State.reset.err.mask = 0xB6 ∧ (∀ g, attrOf (State.reset.page g).v = .free ∧ ownerOf (State.reset.page g).v = none ∧
    ctxOf (State.reset.page g).v = 0xFFFF) ∧
  (∀ p, (State.reset.part p).st = 0 ∧ (State.reset.part p).integ.scrub = 50 ∧ (State.reset.part p).integ.auditMin = 60 ∧
    (State.reset.part p).mint.rate = 4096 ∧ (State.reset.part p).dill.chunk = 256 ∧ (State.reset.part p).running = none) ∧
  (∀ c, (State.reset.ctx c).state = 0) ∧ (∀ n, (State.reset.mbox n).owner = Paired.of 0 ∧ (State.reset.mbox n).us = 100) ∧
  (∀ c k, ((State.reset.core c).slot k).arrTick = 0xFFFFFFFFFFFFFFFF ∧ ((State.reset.core c).slot k).arrCyc = 31) ∧
  (∀ n, (State.reset.port n).state = 0) ∧ (∀ vf q, (State.reset.qp vf q).on = false ∧ (State.reset.qp vf q).sqSize = 16) ∧
  ∀ a, bget State.reset.stack a = 0 ∧ bget State.reset.scratch a = 0

/-- The state after reset meets the invariant that every step keeps. -/
def Obligations.ResetMeetsTheInvariant : Prop :=
   Inv State.reset

/-- Every command keeps, from every state that meets it: memories in canonical form, page entries and FNL_MODE beside
their complements (R185, R444), and SYS_STATE one of the six states of Table 17-7. -/
def Obligations.EveryStepKeepsTheInvariant : Prop :=
  ∀ s t : State, Inv s → step s = .next t → Inv t

/-- R419, R426: no command unblows a fuse or gives back a leaf of the top signing tree, whatever it resets, and none adds
to the queue or reorders it: what waits after a step is the rest of what waited before. -/
def Obligations.FusesAndTopLeavesOnlyAdvance : Prop :=
  ∀ s t : State, Inv s → step s = .next t →
    t.pending = s.pending.tail ∧ s.sage.blown.toNat ≤ t.sage.blown.toNat ∧ s.sage.topNext.toNat ≤ t.sage.topNext.toNat

end Statements
end

