-- ==== Sys2Proof/Laws/Family.lean ====
section
/-! SUPPORT. Laws of sparse families and byte memories: what a read gives after a write, and that every operation keeps the
canonical form. -/

namespace Sys2Proof.Machine

/-! ### Reads after writes -/

theorem sget_sins {α : Type} (d : α) (m : SMap α) (n : Nat) (v : α) (k : Nat) :
    sget d (sins m n v) k = if k = n then v else sget d m k := by
  induction m with
  | nil =>
    by_cases h : k = n
    · simp [sins, sget, h]
    · have : ¬ n = k := fun x => h x.symm
      simp [sins, sget, h, this]
  | cons e rest ih =>
    obtain ⟨a, w⟩ := e
    by_cases h1 : n < a
    · by_cases h : k = n
      · simp [sins, sget, h1, h]
      · have : ¬ n = k := fun x => h x.symm
        simp [sins, sget, h1, h, this]
    · by_cases h2 : a = n
      · subst h2
        by_cases h : k = a
        · simp [sins, sget, h]
        · have : ¬ a = k := fun x => h x.symm
          simp [sins, sget, h, this]
      · by_cases h3 : a = k
        · subst h3
          have : ¬ a = n := h2
          simp [sins, sget, h1, this]
        · simp [sins, sget, h1, h2, h3, ih]

theorem sget_filter_ne {α : Type} (d : α) (m : SMap α) (n k : Nat) :
    sget d (m.filter fun e => e.1 != n) k = if k = n then d else sget d m k := by
  induction m with
  | nil => simp [sget]
  | cons e rest ih =>
    obtain ⟨a, w⟩ := e
    by_cases h1 : a = n
    · subst h1
      by_cases h : k = a
      · simpa [h] using ih
      · have : ¬ a = k := fun x => h x.symm
        simpa [sget, h, this] using ih
    · by_cases h2 : a = k
      · subst h2; simp [sget, h1]
      · simp [sget, h1, h2, ih]

/-- Reading a family after an entry is set. -/
@[simp] theorem sget_sput {α : Type} [DecidableEq α] (d : α) (m : SMap α) (n : Nat) (v : α) (k : Nat) :
    sget d (sput d m n v) k = if k = n then v else sget d m k := by
  unfold sput
  split
  · next h => subst h; exact sget_filter_ne v m n k
  · exact sget_sins d m n v k

/-- The entry just set. -/
theorem sget_sput_same {α : Type} [DecidableEq α] (d : α) (m : SMap α) (n : Nat) (v : α) : sget d (sput d m n v) n = v := by simp
/-- Any other entry. -/
theorem sget_sput_ne {α : Type} [DecidableEq α] (d : α) (m : SMap α) {n k : Nat} (v : α) (h : k ≠ n) :
    sget d (sput d m n v) k = sget d m k := by simp [h]

@[simp] theorem sget_smod {α : Type} [DecidableEq α] (d : α) (m : SMap α) (n : Nat) (f : α → α) (k : Nat) :
    sget d (smod d m n f) k = if k = n then f (sget d m n) else sget d m k := by simp [smod]

@[simp] theorem sget_nil {α : Type} (d : α) (k : Nat) : sget d [] k = d := rfl

/-- An unlisted address reads 0. -/
@[simp] theorem bget_nil (a : Nat) : bget [] a = 0 := rfl

/-- Reading a byte after a byte is written. -/
@[simp] theorem bget_bput (m : List Host.Cell) (a : Nat) (b : Byte) (x : Nat) :
    bget (bput m a b) x = if x = a then b else bget m x := sget_sput 0#8 m a b x

/-- Reading a byte after bytes are written from `a` on. -/
theorem bget_bwrite (bs : List Byte) : ∀ (m : List Host.Cell) (a x : Nat),
    bget (bwrite m a bs) x = if a ≤ x ∧ x < a + bs.length then bs.getD (x - a) 0 else bget m x := by
  induction bs with
  | nil => intro m a x; have : ¬(a ≤ x ∧ x < a) := by omega
           simp [bwrite, this]
  | cons b bs ih =>
    intro m a x
    rw [bwrite, ih]
    by_cases h : x = a
    · subst h
      have : ¬(x + 1 ≤ x) := by omega
      simp [this]
    · by_cases h2 : a + 1 ≤ x ∧ x < a + 1 + bs.length
      · have h3 : a ≤ x ∧ x < a + (b :: bs).length := by simp; omega
        have h4 : x - a = (x - (a + 1)) + 1 := by omega
        simp only [if_pos h2, if_pos h3]
        rw [h4]; rfl
      · have h3 : ¬(a ≤ x ∧ x < a + (b :: bs).length) := by simp; omega
        rw [if_neg h2, if_neg h3]; simp [h]

/-- A byte outside the written bytes reads as before. -/
theorem bget_bwrite_outside (m : List Host.Cell) (a : Nat) (bs : List Byte) (x : Nat) (h : x < a ∨ a + bs.length ≤ x) :
    bget (bwrite m a bs) x = bget m x := by
  rw [bget_bwrite, if_neg (by omega)]

/-- Reading a byte after a range is zeroed. -/
@[simp] theorem bget_bzero (m : List Host.Cell) (lo hi x : Nat) :
    bget (bzero m lo hi) x = if lo ≤ x ∧ x < hi then 0 else bget m x := by
  induction m with
  | nil => simp [bzero, bget]
  | cons e rest ih =>
    obtain ⟨a, w⟩ := e
    unfold bget bzero at *
    by_cases h1 : lo ≤ a ∧ a < hi
    · by_cases h2 : a = x
      · subst h2; simp only [List.filter_cons, h1]; simpa [h1] using ih
      · simp only [List.filter_cons, h1]; simpa [sget, h2] using ih
    · have h1' : lo ≤ a → hi ≤ a := by omega
      by_cases h2 : a = x
      · subst h2
        have : ¬(lo ≤ a ∧ a < hi) := h1
        simp only [List.filter_cons]
        rw [if_neg h1, if_pos (by simp; omega)]; simp [sget]
      · simp only [List.filter_cons]
        rw [if_pos (by simp; omega)]
        simpa [sget, h2] using ih

/-- The bytes just written are read back. -/
theorem bread_bwrite (m : List Host.Cell) (a : Nat) (bs : List Byte) : bread (bwrite m a bs) a bs.length = bs := by
  apply List.ext_getElem
  · simp [bread]
  · intro i h1 h2
    simp only [bread, List.getElem_map, List.getElem_range, bget_bwrite]
    rw [if_pos (by omega)]
    have : a + i - a = i := by omega
    rw [this]; simp [List.getD, h2]

/-! ### Canonical form -/

theorem swfFrom_filter {α : Type} [DecidableEq α] (d : α) (p : Nat × α → Bool) (m : SMap α) :
    ∀ lo, swfFrom d lo m = true → swfFrom d lo (m.filter p) = true := by
  induction m with
  | nil => intro lo _; rfl
  | cons e rest ih =>
    obtain ⟨k, v⟩ := e
    intro lo h
    simp only [swfFrom, Bool.and_eq_true] at h
    by_cases hp : p (k, v) = true
    · simp only [List.filter_cons, hp, if_true, swfFrom, Bool.and_eq_true]
      exact ⟨h.1, ih _ h.2⟩
    · simp only [List.filter_cons, hp]
      -- a looser lower bound
      have loosen : ∀ (m : SMap α) (lo : Option Nat), (match lo with | none => true | some l => decide (l < k)) = true →
          swfFrom d (some k) m = true → swfFrom d lo m = true := by
        intro m lo hlo hm
        cases m with
        | nil => rfl
        | cons e rest =>
          obtain ⟨k2, v2⟩ := e
          cases lo with
          | none => simp only [swfFrom, Bool.and_eq_true] at hm ⊢; exact ⟨⟨trivial, hm.1.2⟩, hm.2⟩
          | some l =>
            simp only [swfFrom, Bool.and_eq_true, decide_eq_true_eq] at hm hlo ⊢
            exact ⟨⟨by omega, hm.1.2⟩, hm.2⟩
      exact loosen _ _ h.1.1 (ih _ h.2)

theorem swfFrom_sins {α : Type} [DecidableEq α] (d : α) (n : Nat) (v : α) (hv : v ≠ d) (m : SMap α) :
    ∀ lo : Option Nat, (∀ l, lo = some l → l < n) → swfFrom d lo m = true → swfFrom d lo (sins m n v) = true := by
  induction m with
  | nil => intro lo hlo _; cases lo <;> simp_all [sins, swfFrom]
  | cons e rest ih =>
    obtain ⟨k, w⟩ := e
    intro lo hlo h
    simp only [swfFrom, Bool.and_eq_true] at h
    by_cases h1 : n < k
    · simp only [sins, h1, if_true, swfFrom, Bool.and_eq_true, decide_eq_true_eq]
      refine ⟨⟨?_, by simp [hv]⟩, ⟨⟨trivial, h.1.2⟩, h.2⟩⟩
      cases lo with
      | none => rfl
      | some l => simp [hlo l rfl]
    · by_cases h2 : k = n
      · subst h2
        simp only [sins, lt_irrefl, if_false, if_true, swfFrom, Bool.and_eq_true]
        exact ⟨⟨h.1.1, by simp [hv]⟩, h.2⟩
      · simp only [sins, h1, h2, if_false, swfFrom, Bool.and_eq_true]
        exact ⟨h.1, ih (some k) (by intro l hl; cases hl; omega) h.2⟩

/-- Setting an entry keeps the canonical form. -/
theorem swf_sput {α : Type} [DecidableEq α] (d : α) (m : SMap α) (n : Nat) (v : α) (h : swf d m = true) :
    swf d (sput d m n v) = true := by
  unfold sput
  split
  · exact swfFrom_filter d _ m none h
  · next hv => exact swfFrom_sins d n v hv m none (by simp) h

/-- Keeping some of the entries keeps the canonical form. -/
theorem swf_filter {α : Type} [DecidableEq α] (d : α) (p : Nat × α → Bool) (m : SMap α) (h : swf d m = true) :
    swf d (m.filter p) = true := swfFrom_filter d p m none h

@[simp] theorem Memory.wf_nil : Memory.wf [] = true := rfl
theorem Memory.wf_bput (m : List Host.Cell) (a : Nat) (b : Byte) (h : Memory.wf m = true) : Memory.wf (bput m a b) = true :=
  swf_sput 0#8 m a b h
theorem Memory.wf_bwrite (bs : List Byte) : ∀ (m : List Host.Cell) (a : Nat), Memory.wf m = true → Memory.wf (bwrite m a bs) = true := by
  induction bs with
  | nil => intro m a h; exact h
  | cons b bs ih => intro m a h; exact ih _ _ (Memory.wf_bput m a b h)
theorem Memory.wf_bzero (m : List Host.Cell) (lo hi : Nat) (h : Memory.wf m = true) : Memory.wf (bzero m lo hi) = true :=
  swf_filter 0#8 _ m h

end Sys2Proof.Machine
end

