-- ==== Sys2Proof/Laws/Kept.lean ====
section
/-! SUPPORT. What every operation keeps (`Kept`): the base operations, from which the lemmas of the other files are built. -/

namespace Sys2Proof.Machine

variable {r s : State}

theorem Kept.inv (h : Kept r s) : Inv s := ⟨h.1, h.2, h.3, h.4, h.5, h.6, h.7, h.8⟩
theorem Inv.kept (h : Inv s) : Kept s s := ⟨h.1, h.2, h.3, h.4, h.5, h.6, h.7, h.8, rfl, Nat.le_refl _, Nat.le_refl _⟩

/-- A record update is kept by what its fields keep; the fields not named here are free. -/
theorem Kept.mk' {x : State} (h : Kept r x) {fc rd rp gov cores fused macros groups scratch cim scales par spar pages stack snaps lines cache uc mem parts
    commit ctxs csel sage mb bv cxl ports fm pwr sys err}
    (h1 : Memory.wf scratch = true) (h2 : Memory.wf cim = true) (h3 : Memory.wf scales = true) (h4 : Memory.wf stack = true)
    (h5 : Memory.wf cache = true) (h6 : ∀ g, (sget PageE.free pages g).ok = true) (h7 : fm.ok = true) (h8 : sys.state.toNat ≤ 5)
    (h9 : r.sage.blown.toNat ≤ sage.blown.toNat) (h10 : r.sage.topNext.toNat ≤ sage.topNext.toNat) :
    Kept r ⟨x.pending, fc, rd, rp, gov, cores, fused, macros, groups, scratch, cim, scales, par, spar, pages, stack, snaps, lines, cache, uc, mem, parts,
      commit, ctxs, csel, sage, mb, bv, cxl, ports, fm, pwr, sys, err⟩ :=
  ⟨h1, h2, h3, h4, h5, h6, h7, h8, h.queue, h9, h10⟩

theorem foldl_kept {α : Type} {f : State → α → State} (hf : ∀ s a, Kept r s → Kept r (f s a)) (l : List α) (h : Kept r s) :
    Kept r (l.foldl f s) := by
  induction l generalizing s with
  | nil => exact h
  | cons a l ih => exact ih (hf s a h)

theorem Memory.wf_foldl {α : Type} {f : List Host.Cell → α → List Host.Cell} (hf : ∀ m a, Memory.wf m = true → Memory.wf (f m a) = true)
    (l : List α) : ∀ m, Memory.wf m = true → Memory.wf (l.foldl f m) = true := by
  induction l with
  | nil => intro m h; exact h
  | cons a l ih => intro m h; exact ih _ (hf m a h)

theorem Memory.wf_filter (p : Host.Cell → Bool) {m : List Host.Cell} (h : Memory.wf m = true) : Memory.wf (m.filter p) = true :=
  swf_filter 0#8 p m h

theorem Paired.of_ok {w : Nat} (v : BitVec w) : (Paired.of v).ok = true := by simp [Paired.of, Paired.ok]

theorem pages_nil (g : Nat) : (sget PageE.free [] g).ok = true := Paired.of_ok _

namespace State

theorem setCore_kept {c v} (h : Kept r s) : Kept r (s.setCore c v) := ⟨h.1, h.2, h.3, h.4, h.5, h.6, h.7, h.8, h.9, h.10, h.11⟩
theorem modCore_kept {c f} (h : Kept r s) : Kept r (s.modCore c f) := ⟨h.1, h.2, h.3, h.4, h.5, h.6, h.7, h.8, h.9, h.10, h.11⟩
theorem modMacro_kept {c f} (h : Kept r s) : Kept r (s.modMacro c f) := ⟨h.1, h.2, h.3, h.4, h.5, h.6, h.7, h.8, h.9, h.10, h.11⟩
theorem modGroup_kept {c f} (h : Kept r s) : Kept r (s.modGroup c f) := ⟨h.1, h.2, h.3, h.4, h.5, h.6, h.7, h.8, h.9, h.10, h.11⟩
theorem setPart_kept {c v} (h : Kept r s) : Kept r (s.setPart c v) := ⟨h.1, h.2, h.3, h.4, h.5, h.6, h.7, h.8, h.9, h.10, h.11⟩
theorem modPart_kept {c f} (h : Kept r s) : Kept r (s.modPart c f) := ⟨h.1, h.2, h.3, h.4, h.5, h.6, h.7, h.8, h.9, h.10, h.11⟩
theorem modGov_kept {f} (h : Kept r s) : Kept r (s.modGov f) := ⟨h.1, h.2, h.3, h.4, h.5, h.6, h.7, h.8, h.9, h.10, h.11⟩
theorem modGovPart_kept {c f} (h : Kept r s) : Kept r (s.modGovPart c f) := ⟨h.1, h.2, h.3, h.4, h.5, h.6, h.7, h.8, h.9, h.10, h.11⟩
theorem setCtx_kept {c v} (h : Kept r s) : Kept r (s.setCtx c v) := ⟨h.1, h.2, h.3, h.4, h.5, h.6, h.7, h.8, h.9, h.10, h.11⟩
theorem modCtx_kept {c f} (h : Kept r s) : Kept r (s.modCtx c f) := ⟨h.1, h.2, h.3, h.4, h.5, h.6, h.7, h.8, h.9, h.10, h.11⟩
theorem setMbox_kept {c v} (h : Kept r s) : Kept r (s.setMbox c v) := ⟨h.1, h.2, h.3, h.4, h.5, h.6, h.7, h.8, h.9, h.10, h.11⟩
theorem modMbox_kept {c f} (h : Kept r s) : Kept r (s.modMbox c f) := ⟨h.1, h.2, h.3, h.4, h.5, h.6, h.7, h.8, h.9, h.10, h.11⟩
theorem setPort_kept {c v} (h : Kept r s) : Kept r (s.setPort c v) := ⟨h.1, h.2, h.3, h.4, h.5, h.6, h.7, h.8, h.9, h.10, h.11⟩
theorem modPort_kept {c f} (h : Kept r s) : Kept r (s.modPort c f) := ⟨h.1, h.2, h.3, h.4, h.5, h.6, h.7, h.8, h.9, h.10, h.11⟩
theorem modQp_kept {a b f} (h : Kept r s) : Kept r (s.modQp a b f) := ⟨h.1, h.2, h.3, h.4, h.5, h.6, h.7, h.8, h.9, h.10, h.11⟩
theorem modErr_kept {f} (h : Kept r s) : Kept r (s.modErr f) := ⟨h.1, h.2, h.3, h.4, h.5, h.6, h.7, h.8, h.9, h.10, h.11⟩
theorem modPwr_kept {f} (h : Kept r s) : Kept r (s.modPwr f) := ⟨h.1, h.2, h.3, h.4, h.5, h.6, h.7, h.8, h.9, h.10, h.11⟩
theorem modMem_kept {f} (h : Kept r s) : Kept r (s.modMem f) := ⟨h.1, h.2, h.3, h.4, h.5, h.6, h.7, h.8, h.9, h.10, h.11⟩
theorem modCxl_kept {f} (h : Kept r s) : Kept r (s.modCxl f) := ⟨h.1, h.2, h.3, h.4, h.5, h.6, h.7, h.8, h.9, h.10, h.11⟩
theorem advance_kept {t} (h : Kept r s) : Kept r (s.advance t) := ⟨h.1, h.2, h.3, h.4, h.5, h.6, h.7, h.8, h.9, h.10, h.11⟩

theorem modSys_kept {f : Sys → Sys} (h : Kept r s) (hf : (f s.sys).state.toNat ≤ 5) : Kept r (s.modSys f) :=
  ⟨h.1, h.2, h.3, h.4, h.5, h.6, h.7, hf, h.9, h.10, h.11⟩
theorem modSage_kept {f : Sage → Sage} (h : Kept r s) (h1 : r.sage.blown.toNat ≤ (f s.sage).blown.toNat)
    (h2 : r.sage.topNext.toNat ≤ (f s.sage).topNext.toNat) : Kept r (s.modSage f) :=
  ⟨h.1, h.2, h.3, h.4, h.5, h.6, h.7, h.8, h.9, h1, h2⟩

theorem setPage_kept {g : Nat} {v : PageE} (h : Kept r s) (hv : v.ok = true) : Kept r (s.setPage g v) :=
  ⟨h.1, h.2, h.3, h.4, h.5, fun x => by
    show (sget PageE.free (sput PageE.free s.pages g v) x).ok = true
    rw [sget_sput]; split
    · exact hv
    · exact h.pages x, h.7, h.8, h.9, h.10, h.11⟩

end State

/-- A record update that changes none of the fields `Kept` speaks of. -/
theorem Kept.same {x y : State} (h : Kept r x)
    (e : (y.pending, y.scratch, y.cim, y.scales, y.stack, y.cacheBytes, y.pages, y.fnlMode, y.sys.state, y.sage.blown, y.sage.topNext) =
      (x.pending, x.scratch, x.cim, x.scales, x.stack, x.cacheBytes, x.pages, x.fnlMode, x.sys.state, x.sage.blown, x.sage.topNext)) : Kept r y := by
  simp only [Prod.mk.injEq] at e
  obtain ⟨e1, e2, e3, e4, e5, e6, e7, e8, e9, e10, e11⟩ := e
  exact ⟨e2 ▸ h.1, e3 ▸ h.2, e4 ▸ h.3, e5 ▸ h.4, e6 ▸ h.5, fun g => by have := h.6 g; unfold State.page at *; rw [e7]; exact this,
    e8 ▸ h.7, e9 ▸ h.8, e1 ▸ h.9, e10 ▸ h.10, e11 ▸ h.11⟩
theorem ite_kept {c : Prop} [Decidable c] {a b : State} (ha : Kept r a) (hb : Kept r b) : Kept r (if c then a else b) := by
  split <;> assumption
theorem dite_kept {c : Prop} [Decidable c] {a : c → State} {b : ¬c → State} (ha : ∀ h, Kept r (a h)) (hb : ∀ h, Kept r (b h)) :
    Kept r (if h : c then a h else b h) := by
  split
  · exact ha _
  · exact hb _
theorem foldl_kept' {α : Type} {f : State → α → State} (hf : ∀ s a, Kept r s → Kept r (f s a)) (l : List α) {s : State} (h : Kept r s) :
    Kept r (l.foldl f s) := foldl_kept hf l h
theorem snd_kept {α : Type} {p : α × State} {a : α} {b : State} (h : Kept r p.2) (e : p = (a, b)) : Kept r b := by subst e; exact h
theorem fst_kept {α : Type} {p : State × α} {a : α} {b : State} (h : Kept r p.1) (e : p = (b, a)) : Kept r b := by subst e; exact h
theorem State.modSys_kept' {f : Sys → Sys} (h : Kept r s) (hf : ∀ y, (f y).state = y.state) : Kept r (s.modSys f) :=
  State.modSys_kept h (by rw [hf]; exact h.state)
theorem State.modSage_kept' {f : Sage → Sage} (h : Kept r s) (hf : ∀ y, (f y).blown = y.blown ∧ (f y).topNext = y.topNext) : Kept r (s.modSage f) :=
  State.modSage_kept h (by rw [(hf _).1]; exact h.fuses) (by rw [(hf _).2]; exact h.tree)

end Sys2Proof.Machine
end

