-- ==== Sys2Proof/Laws/KeptOps.lean ====
section
/-! SUPPORT. `Kept` for every operation that the meanings call, in the order of their calls: an operation keeps what its
parts keep. -/

namespace Sys2Proof.Machine

variable {r s : State}

theorem State.cold_kept (h : Kept r s) : Kept r (State.cold s) :=
  Kept.mk' h Memory.wf_nil Memory.wf_nil Memory.wf_nil Memory.wf_nil Memory.wf_nil pages_nil (by decide) (Nat.zero_le 5) h.fuses h.tree
theorem State.warm_kept (h : Kept r s) : Kept r (State.warm s) := by
  unfold State.warm
  extract_lets x1 x2 x3 x4 x5
  clear_value x2 x4
  have h1 : Kept r x1 := (State.cold_kept h)
  clear_value x1
  exact (Kept.mk' h1 h1.scratch h1.cim h1.scales h1.stack h1.cache h1.pages h1.mode h1.state h1.fuses h1.tree)
theorem abandonCkpt_kept {p cause} (h : Kept r s) : Kept r (abandonCkpt s p cause) := by
  unfold abandonCkpt
  extract_lets x1 x2
  clear_value x1
  have h1 : Kept r x2 := (foldl_kept (fun s1 _ h2 => (State.setPage_kept h2 (Paired.of_ok _))) _ h)
  clear_value x2
  exact (ite_kept h (State.modPart_kept h1))
theorem accept_kept {via} (h : Kept r s) : Kept r (accept s via) := by
  unfold accept
  split
  · exact (State.modMbox_kept h)
  · exact h
theorem fireV1_kept (h : Kept r s) : Kept r (fireV1 s) := by
  unfold fireV1
  extract_lets x1 x2
  clear_value x1 x2
  exact (ite_kept h (h.same rfl))
theorem raiseAlert_kept {bit} (h : Kept r s) : Kept r (raiseAlert s bit) := by
  unfold raiseAlert
  extract_lets x1
  clear_value x1
  exact (ite_kept h (fireV1_kept (h.same rfl)))
theorem recordAt_kept {t e} (h : Kept r s) : Kept r (recordAt s t e) := by
  unfold recordAt
  extract_lets x1 x2 x3 x4 x5 x6 x7 x8 x9
  clear_value x1 x2 x3 x4 x6
  have h1 : Kept r x5 := (h.same rfl)
  clear_value x5
  have h2 : Kept r x7 := (ite_kept (h1.same rfl) h1)
  clear_value x7
  have h3 : Kept r x8 := (ite_kept (raiseAlert_kept h2) h2)
  clear_value x8
  have h4 : Kept r x9 := (ite_kept (raiseAlert_kept h3) h3)
  clear_value x9
  exact (fireV1_kept (raiseAlert_kept h4))
theorem recordNext_kept {e} (h : Kept r s) : Kept r (recordNext s e) := by
  unfold recordNext
  exact (recordAt_kept h)
theorem draw_kept (h : Kept r s) : Kept r ((draw s).2) := by
  unfold draw
  exact (h.same rfl)
theorem applyWrite_kept {w} (h : Kept r s) : Kept r (applyWrite s w) := by
  unfold applyWrite
  split
  · exact (Kept.mk' h (Memory.wf_bwrite _ _ _ h.scratch) h.cim h.scales h.stack h.cache h.pages h.mode h.state h.fuses h.tree)
  · exact (Kept.mk' h h.scratch h.cim h.scales (Memory.wf_bwrite _ _ _ h.stack) h.cache h.pages h.mode h.state h.fuses h.tree)
theorem landWrite_kept {w} (h : Kept r s) : Kept r (landWrite s w) := by
  unfold landWrite
  split
  · exact (ite_kept h (applyWrite_kept h))
  · exact (applyWrite_kept h)
theorem invalidateSlot_kept {c slot} (h : Kept r s) : Kept r (invalidateSlot s c slot) := by
  unfold invalidateSlot
  exact (State.modCore_kept h)
theorem chvFault_kept {c op st} (h : Kept r s) : Kept r (chvFault s c op st) := by
  unfold chvFault
  extract_lets x1
  clear_value x1
  split
  · exact h
  · exact (State.modMem_kept h)
theorem cutTransfer_kept {c op l} (h : Kept r s) : Kept r (cutTransfer s c op l) := by
  unfold cutTransfer
  extract_lets x1 x2
  clear_value x1 x2
  split
  · next _ s1 e1 => have h1 := snd_kept (draw_kept h) e1; extract_lets x3 x4 x5 x6 x7 x8; clear_value x3 x4 x6; have h2 : Kept r x5 := (foldl_kept (fun s2 _ h3 => (landWrite_kept h3)) _ h1); clear_value x5; have h4 : Kept r x7 := (foldl_kept (fun s3 _ h5 => (ite_kept h5 (State.setPage_kept h5 (Paired.of_ok _)))) _ h2); clear_value x7; have h6 : Kept r x8 := (foldl_kept (fun s4 _ h7 => (invalidateSlot_kept h7)) _ h4); clear_value x8; exact (chvFault_kept h6)
theorem cutPart_kept {p} (h : Kept r s) : Kept r (cutPart s p) := by
  unfold cutPart
  exact (foldl_kept (fun s1 _ h1 => (foldl_kept (fun s2 _ h2 => (by split; (exact (ite_kept h2 (cutTransfer_kept h2))); (exact h2))) _ h1)) _ h)
theorem modCores_kept {p f} (h : Kept r s) : Kept r (modCores s p f) := by
  unfold modCores
  exact (foldl_kept (fun s1 _ h1 => (State.modCore_kept h1)) _ h)
theorem endJobNow_kept {p img st seq} (h : Kept r s) : Kept r (endJobNow s p img st seq) := by
  unfold endJobNow
  extract_lets x1
  have h1 : Kept r x1 := (cutPart_kept h)
  clear_value x1
  split
  · exact h
  · extract_lets x2 x3; have h2 : Kept r x2 := (foldl_kept (fun s1 _ h3 => (State.modCore_kept h3)) _ h1); clear_value x2; have h4 : Kept r x3 := (modCores_kept h2); clear_value x3; exact (State.modPart_kept h4)
theorem disableBox_kept {n} (h : Kept r s) : Kept r (disableBox s n) := by
  unfold disableBox
  exact (State.modMbox_kept h)
theorem completionMessage_kept {tag st value} (h : Kept r s) : Kept r (completionMessage s tag st value) := by
  unfold completionMessage
  split
  · exact (State.modSys_kept' h (by intro _; dsimp only; repeat' (first | rfl | split)))
  · extract_lets x1 x2; clear_value x2; have h1 : Kept r x1 := (State.modMbox_kept h); clear_value x1; exact (ite_kept (disableBox_kept h1) (h1.same rfl))
theorem touchAts_kept {vf addr} (h : Kept r s) : Kept r (touchAts s vf addr) := by
  unfold touchAts
  extract_lets x1 x2
  clear_value x1 x2
  exact (State.modCxl_kept h)
theorem recordNow_kept {e} (h : Kept r s) : Kept r (recordNow s e) := by
  unfold recordNow
  exact (recordAt_kept h)
theorem modPair_kept {vf q f} (h : Kept r s) : Kept r (modPair s vf q f) := by
  unfold modPair
  extract_lets x1
  have h1 : Kept r x1 := State.modQp_kept h
  clear_value x1
  exact ite_kept h1 (recordNow_kept h1)
theorem complete_kept {vf q c} (h : Kept r s) : Kept r (complete s vf q c) := by
  unfold complete
  extract_lets x1 x2
  clear_value x1 x2
  exact (ite_kept (modPair_kept h) (State.modQp_kept (touchAts_kept h)))
theorem answer_kept {via} {cmd} {ctx} {st} {value} {data} (h : Kept r s) : Kept r (answer s via cmd ctx st value data) := by
  cases via
  case mailbox n tag => exact h.same rfl
  case mgmt => exact h.same rfl
  case queue vf q htag => exact complete_kept h
  case doe => exact h.same rfl
  all_goals exact h
theorem finish_kept {via cmd ctx st value data} (h : Kept r s) : Kept r (finish s via cmd ctx st value data) := by
  unfold finish
  split
  · exact (completionMessage_kept h)
  · exact (answer_kept h)
theorem endLoads_kept {st} (h : Kept r s) : Kept r (endLoads s st) := by
  unfold endLoads
  extract_lets x1 x2 x3
  clear_value x1
  have h1 : Kept r x2 := (foldl_kept (fun s1 _ h2 => (State.modPart_kept h2)) _ h)
  clear_value x2
  have h3 : Kept r x3 := (h1.same rfl)
  clear_value x3
  exact (foldl_kept (fun s2 _ h4 => (finish_kept h4)) _ (State.modCxl_kept h3))
theorem noteServed_kept {p cs} (h : Kept r s) : Kept r (noteServed s p cs) := by
  unfold noteServed
  extract_lets x1
  clear_value x1
  exact (State.modPart_kept h)
theorem finishTrain_kept {t st} (h : Kept r s) : Kept r (finishTrain s t st) := by
  unfold finishTrain
  extract_lets x1
  have h1 : Kept r x1 := (foldl_kept (fun s1 _ h2 => (complete_kept h2)) _ h)
  clear_value x1
  exact (complete_kept h1)
theorem endTrains_kept {p f st} (h : Kept r s) : Kept r (endTrains s p f st) := by
  unfold endTrains
  extract_lets x1 x2 x3 x4
  clear_value x1 x2
  have h1 : Kept r x3 := (noteServed_kept h)
  clear_value x3
  have h2 : Kept r x4 := (foldl_kept (fun s1 _ h3 => (finishTrain_kept h3)) _ h1)
  clear_value x4
  exact (State.modPart_kept h2)
theorem endTrain_kept {p st} (h : Kept r s) : Kept r (endTrain s p st) := by
  unfold endTrain
  exact (endTrains_kept h)
theorem completeReq_kept {r1 st} (h : Kept r s) : Kept r (completeReq s r1 st) := by
  unfold completeReq
  exact (ite_kept h (complete_kept h))
theorem freeKv_kept {p ns} (h : Kept r s) : Kept r (freeKv s p ns) := by
  unfold freeKv
  split
  · exact h
  · extract_lets x1 x2; clear_value x1 x2; exact (Kept.mk' h h.scratch h.cim h.scales (Memory.wf_foldl (fun _ _ h => Memory.wf_bzero _ _ _ h) _ _ h.stack) h.cache h.pages h.mode h.state h.fuses h.tree)
theorem setAttr_kept {a owner ctx g} (h : Kept r s) : Kept r (setAttr s a owner ctx g) := by
  unfold setAttr
  extract_lets x1
  have h1 : Kept r x1 := (State.setPage_kept h (Paired.of_ok _))
  clear_value x1
  split
  · exact (Kept.mk' h1 h1.scratch h1.cim h1.scales (Memory.wf_bzero _ _ _ h1.stack) h1.cache h1.pages h1.mode h1.state h1.fuses h1.tree)
  · exact h1
theorem freePages_kept {ps} (h : Kept r s) : Kept r (freePages s ps) := by
  unfold freePages
  exact (foldl_kept (fun s1 _ h1 => (setAttr_kept h1)) _ h)
theorem dropPageLines_kept {gs} (h : Kept r s) : Kept r (dropPageLines s gs) := by
  unfold dropPageLines
  extract_lets x1
  clear_value x1
  exact (Kept.mk' h h.scratch h.cim h.scales h.stack (Memory.wf_filter _ h.cache) h.pages h.mode h.state h.fuses h.tree)
theorem sweepSnaps_kept (h : Kept r s) : Kept r (sweepSnaps s) := by
  unfold sweepSnaps
  extract_lets x1 x2 x3
  clear_value x1 x2
  have h1 : Kept r x3 := (freePages_kept (dropPageLines_kept h))
  clear_value x3
  exact (h1.same rfl)
theorem endReqs_kept {p st} (h : Kept r s) : Kept r (endReqs s p st) := by
  unfold endReqs
  extract_lets x1 x2 x3 x4
  clear_value x1
  have h1 : Kept r x2 := (ite_kept (noteServed_kept h) h)
  clear_value x2
  have h2 : Kept r x3 := (foldl_kept (fun s1 _ h3 => (completeReq_kept h3)) _ h1)
  clear_value x3
  have h4 : Kept r x4 := (freeKv_kept h2)
  clear_value x4
  exact (sweepSnaps_kept (State.modPart_kept h4))
theorem endAllReqs_kept {st} (h : Kept r s) : Kept r (endAllReqs s st) := by
  unfold endAllReqs
  exact (foldl_kept (fun s1 _ h1 => (endTrain_kept (endReqs_kept h1))) _ h)
theorem disableBoxes_kept {first n} (h : Kept r s) : Kept r (disableBoxes s first n) := by
  unfold disableBoxes
  exact (foldl_kept (fun s1 _ h1 => (disableBox_kept h1)) _ h)
theorem zeroiseAll_kept (h : Kept r s) : Kept r (zeroiseAll s) := by
  unfold zeroiseAll
  extract_lets x1 x2 x3 x4 x5 x6 x7
  clear_value x1 x2 x3 x4 x5 x7
  exact (Kept.mk' h Memory.wf_nil Memory.wf_nil Memory.wf_nil Memory.wf_nil Memory.wf_nil pages_nil h.mode h.state h.fuses h.tree)
theorem zeroise_kept {k} (h : Kept r s) : Kept r (zeroise s k) := by
  unfold zeroise
  extract_lets x1 x2 x3
  clear_value x3
  have h1 : Kept r x1 := (zeroiseAll_kept h)
  clear_value x1
  exact (Kept.mk' h1 h1.scratch h1.cim h1.scales h1.stack h1.cache h1.pages h1.mode h1.state h1.fuses h1.tree)
theorem enterParsley_kept {cause source} (h : Kept r s) : Kept r (enterParsley s cause source) := by
  unfold enterParsley
  extract_lets x1 x2 x3 x4 x5 x6 x7 x8 x9 x10
  clear_value x5 x8
  have h1 : Kept r x1 := (ite_kept (State.modPwr_kept h) h)
  clear_value x1
  have h2 : Kept r x2 := (State.modSys_kept h1 (by dsimp only; first | decide | exact Kept.state (by assumption)))
  clear_value x2
  have h3 : Kept r x3 := (raiseAlert_kept h2)
  clear_value x3
  have h4 : Kept r x4 := (foldl_kept (fun s1 _ h5 => (endJobNow_kept h5)) _ h3)
  clear_value x4
  have h6 : Kept r x6 := (h4.same rfl)
  clear_value x6
  have h7 : Kept r x7 := (endLoads_kept (endAllReqs_kept h6))
  clear_value x7
  have h8 : Kept r x9 := (h7.same rfl)
  clear_value x9
  have h9 : Kept r x10 := (disableBoxes_kept h8)
  clear_value x10
  exact (ite_kept h (zeroise_kept h9))
theorem mismatch_kept {code unit} (h : Kept r s) : Kept r (mismatch s code unit) := by
  unfold mismatch
  extract_lets x1
  have h1 : Kept r x1 := (recordNext_kept h)
  clear_value x1
  exact (enterParsley_kept h1)
theorem onCtxs_kept {cs f} (h : Kept r s) (hf : ∀ s, Kept r s → Kept r (f s)) : Kept r (onCtxs s cs f) := by
  unfold onCtxs
  split
  · exact (mismatch_kept h)
  · exact (hf _ h)
theorem pinReqs_kept {p c snaps} (h : Kept r s) : Kept r (pinReqs s p c snaps) := by
  unfold pinReqs
  exact (State.modPart_kept h)
theorem endSome_kept {p f st} (h : Kept r s) : Kept r (endSome s p f st) := by
  unfold endSome
  extract_lets x1 x2 x3
  clear_value x1
  have h1 : Kept r x2 := (foldl_kept (fun s1 _ h2 => (completeReq_kept h2)) _ h)
  clear_value x2
  have h3 : Kept r x3 := (freeKv_kept h1)
  clear_value x3
  exact (sweepSnaps_kept (State.modPart_kept h3))
theorem adapterStaging_kept {p} (h : Kept r s) : Kept r (adapterStaging s p) := by
  unfold adapterStaging
  extract_lets x1
  clear_value x1
  exact (ite_kept h (onCtxs_kept h (fun s1 h1 => (by split; (exact h1); (extract_lets x2 x3 x4 x5 x6; clear_value x2 x3 x4 x5 x6; exact (ite_kept (pinReqs_kept h1) (ite_kept (endSome_kept h1) (State.modPart_kept h1))))))))
theorem killXsends_kept {f} (h : Kept r s) : Kept r (killXsends s f) := by
  unfold killXsends
  extract_lets x1
  clear_value x1
  exact (h.same rfl)
theorem send1_kept {n dpart k} (h : Kept r s) : Kept r (send1 s n dpart k) := by
  unfold send1
  extract_lets x1 x2 x3 x4 x5
  clear_value x1 x2 x3 x4 x5
  exact (State.setPort_kept h)
theorem serveOne_kept {n t w} (h : Kept r s) : Kept r (serveOne s n t w) := by
  unfold serveOne
  extract_lets x1 x2 x3 x4 x5 x6
  clear_value x1 x2 x3 x4 x5
  have h1 : Kept r x6 := (send1_kept h)
  clear_value x6
  exact (State.modPort_kept h1)
theorem serveWaiting_kept {n lim} : ∀ {fuel} {s : State}, Kept r s → Kept r (serveWaiting n lim fuel s) := by
  intro fuel
  induction fuel with
  | zero => intro s h; exact h
  | succ f ih =>
    intro s h
    rw [serveWaiting]
    split
    · exact h
    · split
      · exact h
      · exact ih (serveOne_kept h)
theorem serveTo_kept {n lim} (h : Kept r s) : Kept r (serveTo s n lim) := by
  unfold serveTo
  exact (ite_kept (serveWaiting_kept h) h)
theorem servePort_kept {n} (h : Kept r s) : Kept r (servePort s n) := by
  unfold servePort
  exact (serveTo_kept h)
theorem cutPeer_kept {n} (h : Kept r s) : Kept r (cutPeer s n) := by
  unfold cutPeer
  exact (foldl_kept (fun s1 _ h1 => (foldl_kept (fun s2 _ h2 => (by split; (exact (ite_kept h2 (by split; (exact h2); (exact (ite_kept (State.modCore_kept (cutTransfer_kept h2)) h2))))); (exact h2))) _ h1)) _ h)
theorem releaseBatches_kept {t} (h : Kept r s) : Kept r (releaseBatches s t).1 :=
  foldl_kept (fun _ _ h1 => complete_kept h1) _ h
theorem voidStep_kept {p} (h : Kept r s) : Kept r (voidStep s p) := by
  unfold voidStep
  split
  · exact (ite_kept h (by split; (next s1 _ e1 => have h1 := fst_kept (releaseBatches_kept h) e1; exact (State.modPart_kept h1))))
  · exact h
theorem portLostFor_kept {n p} (h : Kept r s) : Kept r (portLostFor n s p) := by
  unfold portLostFor
  extract_lets x1 x2 x3 x4
  clear_value x1
  have h1 : Kept r x2 := (ite_kept (voidStep_kept h) h)
  clear_value x2
  have h2 : Kept r x3 := (State.modPart_kept h1)
  clear_value x3
  have h3 : Kept r x4 := (ite_kept (abandonCkpt_kept h2) h2)
  clear_value x4
  exact (ite_kept h (ite_kept (State.modPart_kept h3) h3))
theorem breakLock_kept {n} (h : Kept r s) : Kept r (breakLock s n) := by
  unfold breakLock
  extract_lets x1 x2 x3
  clear_value x1
  have h1 : Kept r x2 := (State.modMbox_kept h)
  clear_value x2
  have h2 : Kept r x3 := (recordNow_kept h1)
  clear_value x3
  exact (State.modMbox_kept h2)
theorem portDown_kept {n kind} (h : Kept r s) : Kept r (portDown s n kind) := by
  unfold portDown
  extract_lets x1 x2 x3 x4 x5 x6 x7 x8 x9 x10 x11 x12 x13
  clear_value x1 x2 x6
  have h1 : Kept r x3 := (servePort_kept h)
  clear_value x3
  have h2 : Kept r x4 := (recordNow_kept h1)
  clear_value x4
  have h3 : Kept r x5 := (raiseAlert_kept h2)
  clear_value x5
  have h4 : Kept r x7 := (killXsends_kept h3)
  clear_value x7
  have h5 : Kept r x8 := (cutPeer_kept h4)
  clear_value x8
  have h6 : Kept r x9 := (foldl_kept (fun s1 _ h7 => (invalidateSlot_kept h7)) _ h5)
  clear_value x9
  have h8 : Kept r x10 := (State.modPort_kept h6)
  clear_value x10
  have h9 : Kept r x11 := (ite_kept (State.modGov_kept h8) h8)
  clear_value x11
  have h10 : Kept r x12 := (foldl_kept (fun s2 _ h11 => (portLostFor_kept h11)) _ h9)
  clear_value x12
  have h12 : Kept r x13 := (disableBox_kept h10)
  clear_value x13
  exact (ite_kept h (ite_kept (breakLock_kept h12) h12))
theorem measured_kept {n delay resid} (h : Kept r s) : Kept r (measured s n delay resid) := by
  unfold measured
  extract_lets x1 x2
  have h1 : Kept r x1 := (State.modGov_kept (State.modPort_kept h))
  clear_value x1
  have h2 : Kept r x2 := (killXsends_kept h1)
  clear_value x2
  exact (ite_kept (portDown_kept (State.modGov_kept h2)) h1)
theorem alignRsp_kept {n sent received turnaround} (h : Kept r s) : Kept r (alignRsp s n sent received turnaround) := by
  unfold alignRsp
  extract_lets x1
  clear_value x1
  exact (ite_kept h (measured_kept h))
theorem mgmtReply_kept {bs} (h : Kept r s) : Kept r (mgmtReply s bs) := by
  unfold mgmtReply
  extract_lets x1
  clear_value x1
  exact (State.modSys_kept' h (by intro _; dsimp only; repeat' (first | rfl | split)))
theorem respond_kept {ix bs} (h : Kept r s) : Kept r (respond s ix bs) := by
  unfold respond
  exact (State.modSage_kept' h (fun _ => ⟨rfl, rfl⟩))
theorem vendorRsp_kept {ix st data} (h : Kept r s) : Kept r (vendorRsp s ix st data) := by
  unfold vendorRsp
  exact (respond_kept (h.same rfl))
theorem onPages_kept {gs f} (h : Kept r s) (hf : ∀ s, Kept r s → Kept r (f s)) : Kept r (onPages s gs f) := by
  unfold onPages
  split
  · exact (mismatch_kept h)
  · exact (hf _ h)
theorem writeArea_kept {g bs} (h : Kept r s) : Kept r (writeArea s g bs) := by
  unfold writeArea
  exact (Kept.mk' h h.scratch h.cim h.scales (Memory.wf_bwrite _ _ _ h.stack) h.cache h.pages h.mode h.state h.fuses h.tree)
theorem answerData_kept {via cmd page st bs} (h : Kept r s) : Kept r (answerData s via cmd page st bs) := by
  unfold answerData
  split
  · exact (answer_kept (mgmtReply_kept h))
  · exact (vendorRsp_kept h)
  · exact (answer_kept (ite_kept (onPages_kept h (fun s1 h1 => (writeArea_kept h1))) h))
theorem applyDp_kept {p} (h : Kept r s) : Kept r (applyDp s p) := by
  unfold applyDp
  exact (State.modPart_kept h)
theorem applyMint_kept {p b} (h : Kept r s) : Kept r (applyMint s p b) := by
  unfold applyMint
  exact (State.modPart_kept h)
theorem applySeeds_kept {p b} (h : Kept r s) : Kept r (applySeeds s p b) := by
  unfold applySeeds
  exact (h.same rfl)
theorem dropLines_kept {ways} (h : Kept r s) : Kept r (dropLines s ways) := by
  unfold dropLines
  extract_lets x1
  clear_value x1
  exact (Kept.mk' h h.scratch h.cim h.scales h.stack (Memory.wf_filter _ h.cache) h.pages h.mode h.state h.fuses h.tree)
theorem applyShares_kept {p} (h : Kept r s) : Kept r (applyShares s p) := by
  unfold applyShares
  extract_lets x1 x2 x3 x4 x5 x6 x7 x8
  clear_value x1 x2 x3 x4
  have h1 : Kept r x5 := (dropLines_kept h)
  clear_value x5
  have h2 : Kept r x6 := (State.modPwr_kept h1)
  clear_value x6
  have h3 : Kept r x7 := (foldl_kept (fun s1 _ h4 => (State.modGroup_kept h4)) _ h2)
  clear_value x7
  have h5 : Kept r x8 := (ite_kept (State.modGovPart_kept h3) h3)
  clear_value x8
  exact (State.modPart_kept h5)
theorem askGrant_kept {p} {x} {t} (h : Kept r s) : Kept r (askGrant s p x t).2 := by
  unfold askGrant
  split
  · exact h
  · split
    · exact h
    · exact h.same rfl
theorem askTeacher_kept {p t} (h : Kept r s) : Kept r (askTeacher s p t) := by
  unfold askTeacher
  extract_lets x1 x2 x3
  clear_value x1 x2 x3
  exact (ite_kept h (State.modPart_kept h))
theorem atStep9_kept {n} (h : Kept r s) : Kept r (atStep9 s n) := by
  unfold atStep9
  exact (State.modSys_kept' h (by intro _; dsimp only; repeat' (first | rfl | split)))
theorem atsInvalidate_kept {vf inv} (h : Kept r s) : Kept r (atsInvalidate s vf inv) := by
  unfold atsInvalidate
  extract_lets x1
  clear_value x1
  exact (State.modCxl_kept h)
theorem denied_kept {via cmd ctx} (h : Kept r s) : Kept r (denied s via cmd ctx) := by
  unfold denied
  exact (answer_kept (State.modSage_kept' h (fun _ => ⟨rfl, rfl⟩)))
theorem Sage.certify_tree {g : Sage} (h : g.topLeft = true) : g.topNext.toNat ≤ g.certify.topNext.toNat := by
  simp only [Sage.topLeft, decide_eq_true_eq] at h
  simp only [Sage.certify, BitVec.toNat_add]
  have : (1 : BitVec 21).toNat = 1 := rfl
  omega
theorem certify_kept (h : Kept r s) (ht : s.sage.topLeft = true) : Kept r { s with sage := s.sage.certify } :=
  Kept.mk' h h.scratch h.cim h.scales h.stack h.cache h.pages h.mode h.state h.fuses (Nat.le_trans h.tree (Sage.certify_tree ht))
theorem signNext_kept {msg b s'} (h : Kept r s) (e : signNext s msg = some (b, s')) : Kept r s' := by
  unfold signNext at e
  have hg : r.sage.blown.toNat ≤ (if s.sage.leaves = 0 ∧ s.sage.topLeft = true ∧ s.sage.flashGood = true then s.sage.certify else s.sage).blown.toNat ∧
      r.sage.topNext.toNat ≤ (if s.sage.leaves = 0 ∧ s.sage.topLeft = true ∧ s.sage.flashGood = true then s.sage.certify else s.sage).topNext.toNat := by
    split
    · next hc => exact ⟨h.fuses, Nat.le_trans h.tree (Sage.certify_tree hc.2.1)⟩
    · exact ⟨h.fuses, h.tree⟩
  generalize (if s.sage.leaves = 0 ∧ s.sage.topLeft = true ∧ s.sage.flashGood = true then s.sage.certify else s.sage) = g at e hg
  dsimp only at e
  split at e
  · cases e
  · cases e
    exact Kept.mk' h h.scratch h.cim h.scales h.stack h.cache h.pages h.mode h.state hg.1 hg.2
theorem discardIn_kept {c} (h : Kept r s) : Kept r (discardIn s c) := by
  unfold discardIn
  exact (State.modGov_kept h)
theorem sensorEvent_kept {n} (h : Kept r s) : Kept r (sensorEvent s n) := by
  unfold sensorEvent
  extract_lets x1 x2 x3 x4
  have h1 : Kept r x1 := (State.modSage_kept' h (fun _ => ⟨rfl, rfl⟩))
  clear_value x1
  have h2 : Kept r x2 := (recordNow_kept h1)
  clear_value x2
  have h3 : Kept r x3 := (discardIn_kept h2)
  clear_value x3
  have h4 : Kept r x4 := (ite_kept (State.modSys_kept' h3 (by intro _; dsimp only; repeat' (first | rfl | split))) h3)
  clear_value x4
  exact (enterParsley_kept h4)
theorem modSession_kept {ix f} (h : Kept r s) : Kept r (modSession s ix f) := by
  unfold modSession
  exact (State.modSage_kept' h (fun _ => ⟨rfl, rfl⟩))
theorem signFor_kept {ix} {msg} (h : Kept r s) : Kept r (signFor s ix msg).2 := by
  unfold signFor
  extract_lets early
  split
  · have h1 : Kept r (s.modSage fun g => { g with signOk := false }) := State.modSage_kept' h (fun _ => ⟨rfl, rfl⟩)
    exact ite_kept (sensorEvent_kept h1) h1
  · next e =>
    have h1 := signNext_kept h e
    split
    · exact h.same rfl
    · split
      · exact h
      · have h2 : Kept r (State.modSage _ fun g => { g with tokens := g.tokens - 1 }) := State.modSage_kept' h1 (fun _ => ⟨rfl, rfl⟩)
        cases ix
        · exact h2
        · exact modSession_kept h2
theorem attestReply_kept {via page body} (h : Kept r s) : Kept r (attestReply s via page body) := by
  unfold attestReply
  split
  · next _ s1 e1 => have h1 := snd_kept (signFor_kept h) e1; exact (answerData_kept h1)
  · next _ s2 e2 => have h2 := snd_kept (signFor_kept h) e2; exact (answerData_kept h2)
theorem attest_kept {via tenantForm nonce first page} (h : Kept r s) : Kept r (attest s via tenantForm nonce first page) := by
  unfold attest
  extract_lets x1 x2
  clear_value x1 x2
  exact (ite_kept (by split; (exact (vendorRsp_kept (State.modSage_kept' h (fun _ => ⟨rfl, rfl⟩)))); (exact (denied_kept h))) (ite_kept (answer_kept h) (by split; (exact (answerData_kept h)); (exact (ite_kept (answer_kept h) (attestReply_kept h))))))
theorem parityError_kept {m row quarter scale} (h : Kept r s) : Kept r (parityError s m row quarter scale) := by
  unfold parityError
  extract_lets x1 x2 x3 x4 x5 x6 x7 x8
  clear_value x1 x2 x3 x4 x7
  have h1 : Kept r x5 := (State.modMacro_kept h)
  clear_value x5
  have h2 : Kept r x6 := (State.modCore_kept h1)
  clear_value x6
  have h3 : Kept r x8 := (ite_kept h2 (recordNext_kept h2))
  clear_value x8
  split
  · exact h3
  · exact (ite_kept (recordNext_kept (State.modErr_kept h3)) h3)
theorem scrubAt_kept {n} (h : Kept r s) : Kept r (scrubAt s n) := by
  unfold scrubAt
  extract_lets x1 x2 x3
  clear_value x1 x2 x3
  exact (ite_kept (by split; (exact h); (exact (parityError_kept h))) (ite_kept h (parityError_kept h)))
theorem auditScrub_kept {g layout} (h : Kept r s) : Kept r (auditScrub s g layout) := by
  unfold auditScrub
  extract_lets x1
  clear_value x1
  exact (foldl_kept (fun s1 _ h1 => (by extract_lets x2 x3; clear_value x2; have h2 : Kept r x3 := (foldl_kept (fun s2 _ h3 => (scrubAt_kept h3)) _ h1); clear_value x3; exact (ite_kept (scrubAt_kept h2) h2))) _ h)
theorem auditRecord_kept {p g kind st} (h : Kept r s) : Kept r (auditRecord s p g kind st) := by
  unfold auditRecord
  exact (recordNext_kept h)
theorem markStop_kept {p st} (h : Kept r s) : Kept r (markStop s p st) := by
  unfold markStop
  exact (State.modPart_kept h)
theorem giveAdvisory_kept {c w} (h : Kept r s) : Kept r (giveAdvisory s c w) := by
  unfold giveAdvisory
  exact (State.modCtx_kept h)
theorem auditPage_kept {p g leaf} (h : Kept r s) : Kept r (auditPage s p g leaf) := by
  unfold auditPage
  exact (onPages_kept h (fun s1 h1 => (by extract_lets x1 x2 x3 x4 x5 x6 x7 x8 x9; clear_value x1 x2 x5; have h2 : Kept r x3 := (auditScrub_kept h1); clear_value x3; have h3 : Kept r x4 := (auditRecord_kept (markStop_kept h2)); clear_value x4; have h4 : Kept r x6 := (foldl_kept (fun s2 _ h5 => (giveAdvisory_kept h5)) _ h3); clear_value x6; have h6 : Kept r x7 := (ite_kept h2 (State.modPart_kept h4)); clear_value x7; have h7 : Kept r x8 := (auditRecord_kept h6); clear_value x8; have h8 : Kept r x9 := (foldl_kept (fun s3 _ h9 => (State.modMacro_kept h9)) _ h7); clear_value x9; exact (ite_kept h6 (State.modPart_kept h8)))))
theorem auditPass_kept {p} (h : Kept r s) : Kept r (auditPass s p) := by
  unfold auditPass
  extract_lets x1 x2 x3
  clear_value x1 x3
  have h1 : Kept r x2 := (State.modPart_kept h)
  clear_value x2
  exact (ite_kept h (foldl_kept (fun s1 _ h2 => (auditPage_kept h2)) _ h1))
theorem auditPeriodExpiry_kept {p} (h : Kept r s) : Kept r (auditPeriodExpiry s p) := by
  unfold auditPeriodExpiry
  extract_lets x1
  clear_value x1
  exact (auditPass_kept (State.advance_kept h))
theorem badCode_kept {n} (h : Kept r s) : Kept r (badCode s n) := by
  unfold badCode
  extract_lets x1
  clear_value x1
  exact (ite_kept h (ite_kept (State.modMbox_kept (State.modSage_kept' h (fun _ => ⟨rfl, rfl⟩))) (State.modMbox_kept h)))
theorem whenReady_kept {via cmd ctx f} (h : Kept r s) (hf : ∀ s, Kept r s → Kept r (f s)) : Kept r (whenReady s via cmd ctx f) := by
  unfold whenReady
  split
  · exact (answer_kept h)
  · exact (hf _ h)
theorem permitted_kept {via cmd ctx ok f} (h : Kept r s) (hf : ∀ s, Kept r s → Kept r (f s)) : Kept r (permitted s via cmd ctx ok f) := by
  unfold permitted
  exact (ite_kept (denied_kept h) (ite_kept (answer_kept h) (whenReady_kept h (fun s1 h1 => (hf _ h1)))))
theorem takePages_kept {a owner ctx ps} (h : Kept r s) : Kept r (takePages s a owner ctx ps) := by
  unfold takePages
  exact (foldl_kept (fun s1 _ h1 => (setAttr_kept h1)) _ h)
theorem baseInstall_kept {via p first count} (h : Kept r s) : Kept r (baseInstall s via p first count) := by
  unfold baseInstall
  exact (permitted_kept h (fun s1 h1 => (by extract_lets x1; clear_value x1; exact (ite_kept (answer_kept h1) (ite_kept (answer_kept h1) (ite_kept (mismatch_kept h1) (ite_kept (answer_kept h1) (by split; (extract_lets x2 x3 x4 x5 x6; clear_value x2; have h2 : Kept r x3 := (takePages_kept h1); clear_value x3; have h3 : Kept r x4 := (freePages_kept h2); clear_value x4; have h4 : Kept r x5 := (State.modCxl_kept h3); clear_value x5; have h5 : Kept r x6 := (State.modPart_kept h4); clear_value x6; exact (ite_kept (answer_kept h1) (answer_kept h5))); (exact (answer_kept h1))))))))))
theorem endWork_kept {p i st} (h : Kept r s) : Kept r (endWork s p i st) := by
  unfold endWork
  split
  · exact (ite_kept (endTrain_kept h) (endReqs_kept h))
  · exact (endReqs_kept h)
theorem stopJob_kept {p st} (h : Kept r s) : Kept r (stopJob s p st) := by
  unfold stopJob
  extract_lets x1 x2
  have h1 : Kept r x1 := (by subst x1; split; (exact h); (exact (endWork_kept h)))
  clear_value x1
  have h2 : Kept r x2 := (abandonCkpt_kept h1)
  clear_value x2
  exact (endJobNow_kept h2)
theorem modList_kept {cs f} (h : Kept r s) : Kept r (modList s cs f) := by
  unfold modList
  exact (foldl_kept (fun s1 _ h1 => (State.modCore_kept h1)) _ h)
theorem clearRanges_kept {info} (h : Kept r s) : Kept r (clearRanges s info) := by
  unfold clearRanges
  extract_lets x1
  clear_value x1
  exact (modList_kept h)
theorem writeReply_kept {g bs} (h : Kept r s) : Kept r (writeReply s g bs) := by
  unfold writeReply
  exact (Kept.mk' h h.scratch h.cim h.scales (Memory.wf_bwrite _ _ _ (Memory.wf_bzero _ _ _ h.stack)) h.cache h.pages h.mode h.state h.fuses h.tree)
theorem putReply_kept {g bs} (h : Kept r s) : Kept r (putReply s g bs) := by
  unfold putReply
  exact (ite_kept (onPages_kept h (fun s1 h1 => (writeReply_kept h1))) h)
theorem endLoad_kept {p st} (h : Kept r s) : Kept r (endLoad s p st) := by
  unfold endLoad
  split
  · exact h
  · extract_lets x1 x2; have h1 : Kept r x1 := (ite_kept (freePages_kept (clearRanges_kept h)) h); clear_value x1; have h2 : Kept r x2 := (State.modPart_kept h1); clear_value x2; exact (finish_kept (putReply_kept h2))
theorem dropImage_kept {p i last} (h : Kept r s) : Kept r (dropImage s p i last) := by
  unfold dropImage
  extract_lets x1 x2
  clear_value x2
  have h1 : Kept r x1 := (by subst x1; split; (exact h); (exact (freePages_kept (clearRanges_kept h))))
  clear_value x1
  exact (State.modPart_kept h1)
theorem zeroMacros_kept {lo hi} (h : Kept r s) : Kept r (zeroMacros s lo hi) := by
  unfold zeroMacros
  exact (Kept.mk' h h.scratch (Memory.wf_bzero _ _ _ h.cim) (Memory.wf_bzero _ _ _ h.scales) h.stack h.cache h.pages h.mode h.state h.fuses h.tree)
theorem replaceBase_kept {p} (h : Kept r s) : Kept r (replaceBase s p) := by
  unfold replaceBase
  extract_lets x1 x2 x3 x4 x5 x6 x7
  clear_value x6
  have h1 : Kept r x1 := (endTrain_kept (endReqs_kept h))
  clear_value x1
  have h2 : Kept r x2 := (stopJob_kept (endLoad_kept h1))
  clear_value x2
  have h3 : Kept r x3 := (foldl_kept (fun s1 _ h4 => (dropImage_kept h4)) _ h2)
  clear_value x3
  have h5 : Kept r x4 := (foldl_kept (fun s2 _ h6 => (zeroMacros_kept h6)) _ h3)
  clear_value x4
  have h7 : Kept r x5 := (freePages_kept h5)
  clear_value x5
  have h8 : Kept r x7 := (State.modPart_kept h7)
  clear_value x7
  split
  · exact h8
  · exact (finish_kept h8)
theorem baseReplace_kept {via p} (h : Kept r s) : Kept r (baseReplace s via p) := by
  unfold baseReplace
  exact (permitted_kept h (fun s1 h1 => (by extract_lets x1; clear_value x1; exact (ite_kept (answer_kept h1) (ite_kept (answer_kept h1) (ite_kept (mismatch_kept h1) (ite_kept (State.modPart_kept (markStop_kept (accept_kept h1))) (answer_kept (replaceBase_kept h1)))))))))
theorem dropArea_kept {a} (h : Kept r s) : Kept r (dropArea s a) := by
  unfold dropArea
  exact (State.modCxl_kept (freePages_kept h))
theorem makeArea_kept {p n exportA a gs s'} (h : Kept r s) (e : makeArea s p n exportA = some (a, gs, s')) : Kept r s' := by
  unfold makeArea at e
  split at e
  · cases e; exact State.modCxl_kept (takePages_kept h)
  · cases e
theorem baseStage_kept {via p n} (h : Kept r s) : Kept r (baseStage s via p n) := by
  unfold baseStage
  exact (permitted_kept h (fun s1 h1 => (ite_kept (answer_kept h1) (ite_kept (answer_kept h1) (by split; (exact (ite_kept (answer_kept (dropArea_kept h1)) (answer_kept h1))); (exact (ite_kept (answer_kept h1) (by split; exact (answer_kept h1); (next _ _ s2 e1 => have h2 := (makeArea_kept h1) e1; exact (answer_kept h2))))))))))
theorem bayViolation_kept {n} (h : Kept r s) : Kept r (bayViolation s n) := by
  unfold bayViolation
  exact (h.same rfl)
theorem bayAck_kept {ep n st v} (h : Kept r s) : Kept r (bayAck s ep n st v) := by
  unfold bayAck
  exact (ite_kept (bayViolation_kept h) (ite_kept (State.modMbox_kept h) h))
theorem nextMessage_kept (h : Kept r s) : Kept r (nextMessage s) := by
  unfold nextMessage
  split
  · exact h
  · exact (completionMessage_kept (State.modSys_kept' h (by intro _; dsimp only; repeat' (first | rfl | split))))
theorem bayRelease_kept {ep n} (h : Kept r s) : Kept r (bayRelease s ep n) := by
  unfold bayRelease
  extract_lets x1
  have h1 : Kept r x1 := (State.modMbox_kept h)
  clear_value x1
  exact (ite_kept (bayViolation_kept h) (ite_kept (mismatch_kept h) (ite_kept h (ite_kept (nextMessage_kept h1) h1))))
theorem doorbell_kept {ep n} (h : Kept r s) : Kept r (doorbell s ep n) := by
  unfold doorbell
  extract_lets x1 x2
  have h1 : Kept r x1 := (State.modMbox_kept h)
  clear_value x1
  have h2 : Kept r x2 := (ite_kept (State.modCxl_kept h1) h1)
  clear_value x2
  exact (ite_kept (bayViolation_kept h) (ite_kept (mismatch_kept h) (ite_kept h (ite_kept (disableBox_kept h1) (ite_kept (State.modPwr_kept (State.modMbox_kept h2)) (badCode_kept h2))))))
theorem bayWrite_kept {ep n off v} (h : Kept r s) : Kept r (bayWrite s ep n off v) := by
  unfold bayWrite
  exact (ite_kept (bayViolation_kept h) (ite_kept (ite_kept (State.modMbox_kept h) h) (by split; (exact (ite_kept (bayRelease_kept h) h)); (exact (ite_kept (doorbell_kept h) h)); (exact (bayAck_kept h)); (exact (ite_kept (State.modMbox_kept h) h)); (exact h))))
theorem lockRead_kept {ep n} (h : Kept r s) : Kept r (lockRead s ep n) := by
  unfold lockRead
  extract_lets x1 x2 x3 x4
  clear_value x2 x3
  have h1 : Kept r x1 := (bayViolation_kept h)
  clear_value x1
  have h2 : Kept r x4 := (State.modMbox_kept h)
  clear_value x4
  exact (ite_kept (h1.same rfl) (ite_kept (mismatch_kept h) (ite_kept (h.same rfl) (ite_kept (h2.same rfl) (h.same rfl)))))
theorem lockReads_kept {ep os n} (h : Kept r s) : Kept r (lockReads s ep os n) := by
  unfold lockReads
  refine lockRead_kept ?_
  split
  · exact ite_kept (ite_kept (bayViolation_kept h) h) (lockRead_kept (ite_kept (bayViolation_kept h) h))
  · exact ite_kept (bayViolation_kept h) h
theorem bayRead_kept {ep n off} (h : Kept r s) : Kept r (bayRead s ep n off).1 := by
  unfold bayRead
  split
  · exact bayViolation_kept h
  · dsimp only
    split
    · exact h
    · split
      · exact lockRead_kept h
      · exact h
theorem sendFirst_kept {n k} (h : Kept r s) : Kept r (sendFirst s n k) := by
  unfold sendFirst
  exact (send1_kept (servePort_kept h))
theorem bayPacket_kept {m write off v} (h : Kept r s) : Kept r (bayPacket s m write off v) := by
  unfold bayPacket
  exact (ite_kept h (ite_kept (bayWrite_kept h) (by split; (next s1 _ e1 => have h1 := fst_kept (bayRead_kept h) e1; exact (sendFirst_kept h1)))))
theorem bayTimeout_kept {n} (h : Kept r s) : Kept r (bayTimeout s n) := by
  unfold bayTimeout
  extract_lets x1
  clear_value x1
  exact (ite_kept h (State.modMbox_kept (State.advance_kept h)))
theorem beginDelete_kept {via c} (h : Kept r s) : Kept r (beginDelete s via c) := by
  unfold beginDelete
  extract_lets x1 x2 x3 x4
  clear_value x1
  have h1 : Kept r x2 := (foldl_kept (fun s1 _ h2 => (finish_kept (freePages_kept h2))) _ h)
  clear_value x2
  have h3 : Kept r x3 := (foldl_kept (fun s2 _ h4 => (finish_kept h4)) _ h1)
  clear_value x3
  have h5 : Kept r x4 := (foldl_kept (fun s3 _ h6 => (by extract_lets x5; have h7 : Kept r x5 := (freePages_kept h6); clear_value x5; exact (finish_kept (State.modCxl_kept h7)))) _ h3)
  clear_value x4
  exact (State.modCtx_kept h5)
theorem beginReshape_kept {ps s'} (h : Kept r s) (e : beginReshape s ps = .ok s') : Kept r s' := by
  suffices ∀ (ps : List Nat) (acc : Except (Status × Nat) State), (∀ x, acc = .ok x → Kept r x) → ∀ y,
      ps.foldl (fun acc p =>
        match acc with
        | .error e => .error e
        | .ok s' =>
          match reshapeOf s p with
          | .error st => .error (st, p)
          | .ok ts => .ok (s'.modPart p fun q =>
              { q with st := 2, reshape := some ts,
                       pauseFrom := if allAtDstep s p then some (s.tick + 1) else q.pauseFrom })) acc = .ok y → Kept r y from
    this ps (.ok s) (by intro x hx; cases hx; exact h) s' e
  intro ps
  induction ps with
  | nil => intro acc ha y hy; exact ha y hy
  | cons p ps ih =>
    intro acc ha y hy
    refine ih _ ?_ y hy
    intro x hx
    cases acc with
    | error e => cases hx
    | ok s2 =>
      dsimp only at hx
      split at hx
      · cases hx
      · cases hx; exact State.modPart_kept (ha s2 rfl)
theorem writePage_kept {g bs} (h : Kept r s) : Kept r (writePage s g bs) := by
  unfold writePage
  exact (Kept.mk' h h.scratch h.cim h.scales (Memory.wf_bwrite _ _ _ (Memory.wf_bzero _ _ _ h.stack)) h.cache h.pages h.mode h.state h.fuses h.tree)
theorem loadState_kept {p src} (h : Kept r s) : Kept r (loadState s p src) := by
  unfold loadState
  exact (foldl_kept (fun s1 _ h1 => (writePage_kept h1)) _ h)
theorem beginState_kept {p t s'} (h : Kept r s) (e : beginState s p t = .ok s') : Kept r s' := by
  have hw : ∀ {x : State} {a bs}, Kept r x → Kept r { x with stack := bwrite x.stack a bs } := fun {x a bs} hx =>
    Kept.mk' hx hx.scratch hx.cim hx.scales (Memory.wf_bwrite _ _ _ hx.stack) hx.cache hx.pages hx.mode hx.state hx.fuses hx.tree
  have hh : ∀ {x : State}, Kept r x → Kept r (match statePages x p with
    | [] => x
    | g :: _ => { x with stack := bwrite x.stack (g * 65536 + 4) (leBytes 4 0 ++ leBytes 4 t.jobTag.toNat) }) := by
    intro x hx
    split
    · exact hx
    · exact hw hx
  unfold beginState at e
  extract_lets k header gen s1 s2 c at e
  split at e
  · split at e
    · cases e
    · split at e
      · cases e
      · cases e
        have h1 : Kept r s1 := loadState_kept h
        refine hh ?_
        show Kept r (match statePages s1 p, recordPage s1 p gen with
          | g :: _, some r => { s1 with stack := bwrite s1.stack (g * 65536) (bread s1.stack (r * 65536 + 4) 4) }
          | _, _ => s1)
        split
        · exact hw h1
        · exact h1
  · split at e
    · cases e
    · dsimp only at e
      repeat' (first | (cases e; done) | split at e)
      all_goals (cases e; exact hh (loadState_kept h))
theorem sendLink_kept {n kind args bytes} (h : Kept r s) : Kept r (sendLink s n kind args bytes) := by
  unfold sendLink
  exact (sendFirst_kept h)
theorem sendIdent_kept {n} (h : Kept r s) : Kept r (sendIdent s n) := by
  unfold sendIdent
  extract_lets x1
  clear_value x1
  split
  exact h
  · next _ s1 e1 => have h1 := (signNext_kept h) e1; exact (sendLink_kept h1)
theorem beginTraining_kept {n} (h : Kept r s) : Kept r (beginTraining s n) := by
  unfold beginTraining
  exact (sendIdent_kept (State.modPort_kept h))
theorem passBoundary_kept {cs t} (h : Kept r s) : Kept r (passBoundary s cs t) := by
  unfold passBoundary
  exact (modList_kept h)
theorem boundaryAct_kept {p cs t} (h : Kept r s) : Kept r (boundaryAct s p cs t) := by
  unfold boundaryAct
  extract_lets x1 x2 x3
  clear_value x1 x2
  have h1 : ∀ a1, Kept r a1 → Kept r (x3 a1) := (fun s1 h2 => (modList_kept h2))
  clear_value x3
  split
  · extract_lets x4; have h3 : Kept r x4 := (ite_kept (replaceBase_kept h) (stopJob_kept h)); clear_value x4; exact (ite_kept (by split; (exact (ite_kept (State.modPart_kept h3) (ite_kept (State.modPart_kept h3) h3))); (exact h3)) (passBoundary_kept h))
  · exact (ite_kept (State.modPart_kept (h1 _ h)) (by split; (exact (ite_kept (State.modPart_kept (h1 _ h)) (ite_kept (State.modPart_kept (h1 _ h)) (passBoundary_kept h)))); (exact (ite_kept (State.modPart_kept (h1 _ h)) (passBoundary_kept h)))))
theorem breakLocksOf_kept {ep} (h : Kept r s) : Kept r (breakLocksOf s ep) := by
  unfold breakLocksOf
  exact (foldl_kept (fun s1 _ h1 => (ite_kept (breakLock_kept h1) h1)) _ h)
theorem sendData_kept {n part dpart k} (h : Kept r s) : Kept r (sendData s n part dpart k) := by
  unfold sendData
  exact (ite_kept (servePort_kept (State.modPort_kept (servePort_kept h))) h)
theorem buddyWrite_kept {p gen i bytes} (h : Kept r s) : Kept r (buddyWrite s p gen i bytes) := by
  unfold buddyWrite
  extract_lets x1
  clear_value x1
  exact (ite_kept (sendData_kept h) (by split; (exact h); (exact (onPages_kept h (fun s1 h1 => (Kept.mk' h1 h1.scratch h1.cim h1.scales (Memory.wf_bwrite _ _ _ h1.stack) h1.cache h1.pages h1.mode h1.state h1.fuses h1.tree))))))
theorem pairBad_kept {off} (h : Kept r s) : Kept r (pairBad s off) := by
  unfold pairBad
  exact (State.modSys_kept' h (by intro _; dsimp only; repeat' (first | rfl | split)))
theorem buddyWrite15_kept {p v c} (h : Kept r s) : Kept r (buddyWrite15 s p v c) := by
  unfold buddyWrite15
  exact (ite_kept (pairBad_kept h) (State.modPart_kept h))
theorem issue_kept {c f} (h : Kept r s) : Kept r (issue s c f) := by
  unfold issue
  extract_lets x1 x2
  clear_value x1 x2
  exact (ite_kept (State.setCore_kept (State.advance_kept h)) h)
theorem coreFault_kept {c pc st cause ex ac} (h : Kept r s) : Kept r (coreFault s c pc st cause ex ac) := by
  unfold coreFault
  extract_lets x1 x2 x3
  clear_value x1 x3
  have h1 : Kept r x2 := (State.modCore_kept h)
  clear_value x2
  split
  · exact h1
  · extract_lets x4; have h2 : Kept r x4 := (ite_kept h1 (recordNext_kept h1)); clear_value x4; exact (markStop_kept h2)
theorem budgetAt_kept {c h0 q span} (h : Kept r s) : Kept r (budgetAt s c h0 q span) := by
  unfold budgetAt
  extract_lets x1 x2 x3 x4 x5
  clear_value x1 x2 x3 x4
  have h1 : Kept r x5 := (issue_kept h)
  clear_value x5
  exact (ite_kept (ite_kept (coreFault_kept h1) h1) h)
theorem burstEvent_kept {p m} (h : Kept r s) : Kept r (burstEvent s p m) := by
  unfold burstEvent
  extract_lets x1 x2
  have h1 : ∀ a1 a2 a3, Kept r a3 → Kept r (x1 a1 a2 a3) := (fun _ _ s1 h2 => (State.modMem_kept h2))
  clear_value x1
  have h3 : ∀ a4 a5, Kept r a5 → Kept r (x2 a4 a5) := (fun _ s2 h4 => (ite_kept h4 (recordNext_kept (State.modMem_kept h4))))
  clear_value x2
  split
  · exact (h1 _ _ _ h)
  · exact (h3 _ _ (h1 _ _ _ h))
  · exact (h3 _ _ (h1 _ _ _ h))
  · exact h
theorem burstEvents_kept {p mem} (h : Kept r s) : Kept r (burstEvents s p mem) := by
  unfold burstEvents
  exact (foldl_kept (fun s1 _ h1 => (burstEvent_kept h1)) _ h)
theorem sourceAdvisory_kept {p g} (h : Kept r s) : Kept r (sourceAdvisory s p g) := by
  unfold sourceAdvisory
  extract_lets x1
  clear_value x1
  exact (foldl_kept (fun s1 _ h1 => (giveAdvisory_kept h1)) _ h)
theorem cacheFill_kept {p g mem} (h : Kept r s) : Kept r (cacheFill s p g mem) := by
  unfold cacheFill
  extract_lets x1
  have h1 : ∀ a1, Kept r a1 → Kept r (x1 a1) := (fun s1 h2 => (State.modPart_kept h2))
  clear_value x1
  split
  · exact h
  · exact (ite_kept h (onPages_kept h (fun s2 h3 => (by extract_lets x2 x3; clear_value x3; have h4 : Kept r x2 := (burstEvents_kept h3); clear_value x2; split; (exact (h1 _ (State.modMem_kept h4))); (extract_lets x4 x5 x6 x7 x8 x9; clear_value x4 x6; have h5 : Kept r x5 := (Kept.mk' h4 h4.scratch h4.cim h4.scales h4.stack (Memory.wf_bzero _ _ _ h4.cache) h4.pages h4.mode h4.state h4.fuses h4.tree); clear_value x5; have h6 : Kept r x7 := (State.modMem_kept h5); clear_value x7; have h7 : Kept r x8 := (recordNow_kept h6); clear_value x8; have h8 : Kept r x9 := (Kept.mk' h5 h5.scratch h5.cim h5.scales h5.stack (Memory.wf_bwrite _ _ _ h5.cache) h5.pages h5.mode h5.state h5.fuses h5.tree); clear_value x9; exact (ite_kept (endSome_kept (h1 _ (sourceAdvisory_kept h7))) (State.modPart_kept h8)))))))
theorem tenantCmd_kept {via cmd ctx f} (h : Kept r s) (hf : ∀ a b c, Kept r (f a b c)) : Kept r (tenantCmd s via cmd ctx f) := by
  unfold tenantCmd
  split
  · extract_lets x1; clear_value x1; exact (ite_kept h (ite_kept (answer_kept h) (ite_kept (mismatch_kept h) (hf _ _ _))))
  · exact (denied_kept h)
theorem disableReqs_kept {p f st} (h : Kept r s) : Kept r (disableReqs s p f st) := by
  unfold disableReqs
  extract_lets x1
  have h1 : Kept r x1 := (State.modPart_kept h)
  clear_value x1
  exact (endSome_kept h1)
theorem disableTrains_kept {p f st} (h : Kept r s) : Kept r (disableTrains s p f st) := by
  unfold disableTrains
  extract_lets x1
  have h1 : Kept r x1 := (State.modPart_kept h)
  clear_value x1
  exact (endTrains_kept h1)
theorem cancel_kept {via htag} (h : Kept r s) : Kept r (cancel s via htag) := by
  unfold cancel
  exact (tenantCmd_kept h (fun _ _ _ => (by split; (exact (answer_kept (disableReqs_kept h))); (split; (exact (answer_kept (disableTrains_kept h))); (exact (answer_kept h))))))
theorem spdmError_kept {ix code data} (h : Kept r s) : Kept r (spdmError s ix code data) := by
  unfold spdmError
  exact (respond_kept h)
theorem spdm_kept {fn f} (h : Kept r s) (hf : ∀ s, Kept r s → Kept r (f s)) : Kept r (spdm s fn f) := by
  unfold spdm
  split
  · exact (hf _ h)
  · exact (hf _ h)
  · exact (spdmError_kept h)
  · exact (spdmError_kept h)
  · exact h
theorem drawBits_kept (h : Kept r s) : Kept r (drawBits s).2 := (draw_kept h).same rfl
theorem challenge_kept {fn slot nonce} (h : Kept r s) : Kept r (challenge s fn slot nonce) := by
  unfold challenge
  extract_lets x1
  clear_value x1
  exact (spdm_kept h (fun s1 h1 => (ite_kept (spdmError_kept h1) (ite_kept (spdmError_kept h1) (by split; (next _ s2 e1 => have h2 := snd_kept (drawBits_kept h1) e1; extract_lets x2; clear_value x2; split; (next _ s3 e2 => have h3 := snd_kept (signFor_kept h2) e2; exact (spdmError_kept h3)); (next _ s4 e3 => have h4 := snd_kept (signFor_kept h2) e3; exact (respond_kept h4))))))))
theorem chargeReloads_kept {p ms} (h : Kept r s) : Kept r (chargeReloads s p ms) := by
  unfold chargeReloads
  extract_lets x1 x2
  clear_value x2
  have h1 : Kept r x1 := (State.modGovPart_kept h)
  clear_value x1
  exact (State.modGovPart_kept h1)
theorem leaveStep_kept {p} (h : Kept r s) : Kept r (leaveStep s p) := by
  unfold leaveStep
  exact (State.modPart_kept h)
theorem checkEnd_kept {c} (h : Kept r s) : Kept r (checkEnd s c) := by
  unfold checkEnd
  split
  · exact h
  · exact (ite_kept (endJobNow_kept (leaveStep_kept h)) h)
theorem ckptClose_kept {p} (h : Kept r s) : Kept r (ckptClose s p) := by
  unfold ckptClose
  extract_lets x1 x2 x3 x4 x5 x6
  clear_value x1 x2 x3 x4 x5
  have h1 : Kept r x6 := (foldl_kept (fun s1 _ h2 => (buddyWrite_kept h2)) _ h)
  clear_value x6
  split
  · exact h
  · extract_lets x7 x8 x9; clear_value x7; have h3 : Kept r x8 := (buddyWrite_kept h1); clear_value x8; have h4 : Kept r x9 := (foldl_kept (fun s2 _ h5 => (State.setPage_kept h5 (Paired.of_ok _))) _ h3); clear_value x9; exact (ite_kept h (State.modPart_kept h4))
theorem copyPage_kept {p g recv} (h : Kept r s) : Kept r (copyPage s p g recv) := by
  unfold copyPage
  extract_lets x1 x2 x3 x4 x5
  clear_value x1 x2 x3
  have h1 : Kept r x4 := (buddyWrite_kept h)
  clear_value x4
  have h2 : Kept r x5 := (State.setPage_kept h1 (Paired.of_ok _))
  clear_value x5
  exact (ite_kept (State.modPart_kept h2) h)
theorem ckptCopy_kept {p mem} (h : Kept r s) : Kept r (ckptCopy s p mem) := by
  unfold ckptCopy
  extract_lets x1 x2
  clear_value x1 x2
  exact (ite_kept h (by split; (exact h); (exact (onPages_kept h (fun s1 h1 => (copyPage_kept (burstEvents_kept h1)))))))
theorem endAllPairs_kept (h : Kept r s) : Kept r (endAllPairs s) := by
  unfold endAllPairs
  extract_lets x1
  clear_value x1
  exact (h.same rfl)
theorem clearOut_kept {k} (h : Kept r s) : Kept r (clearOut s k) := by
  unfold clearOut
  extract_lets x1 x2
  have h1 : Kept r x1 := (endAllPairs_kept h)
  clear_value x1
  have h2 : Kept r x2 := (foldl_kept (fun s1 _ h3 => (endJobNow_kept h3)) _ h1)
  clear_value x2
  exact (zeroise_kept (endLoads_kept (endAllReqs_kept h2)))
theorem clearRc_kept {off} (h : Kept r s) : Kept r (clearRc s off) := by
  unfold clearRc
  extract_lets x1 x2 x3
  clear_value x1 x3
  have h1 : ∀ a1, Kept r (x2 a1) := (fun _ => (State.modPart_kept h))
  clear_value x2
  exact (ite_kept (State.modSys_kept' h (by intro _; dsimp only; repeat' (first | rfl | split))) (ite_kept (State.modSys_kept' h (by intro _; dsimp only; repeat' (first | rfl | split))) (ite_kept (State.modSage_kept' h (fun _ => ⟨rfl, rfl⟩)) (ite_kept (State.modSage_kept' h (fun _ => ⟨rfl, rfl⟩)) (ite_kept (State.modGovPart_kept h) (ite_kept (State.modPart_kept h) (ite_kept (State.modPort_kept h) (ite_kept (State.modPort_kept h) (ite_kept (State.modPort_kept h) (ite_kept (State.modMem_kept h) (ite_kept (State.modMem_kept h) (ite_kept (State.modMem_kept h) (ite_kept (State.modPwr_kept h) (ite_kept (State.modPwr_kept h) (ite_kept (State.modErr_kept h) (ite_kept (State.modErr_kept h) (ite_kept (by split; (exact (h1 _)); (exact (h1 _)); (exact (h1 _)); (exact h)) (ite_kept (ite_kept (State.modCore_kept h) h) h))))))))))))))))))
theorem clearW1c_kept {off w} (h : Kept r s) : Kept r (clearW1c s off w) := by
  unfold clearW1c
  extract_lets x1 x2
  clear_value x1 x2
  exact (ite_kept (ite_kept (State.modSys_kept' h (by intro _; dsimp only; repeat' (first | rfl | split))) h) (ite_kept (ite_kept (State.modSys_kept' h (by intro _; dsimp only; repeat' (first | rfl | split))) h) (ite_kept (ite_kept (State.modSage_kept' h (fun _ => ⟨rfl, rfl⟩)) h) (ite_kept (ite_kept (State.modGov_kept h) h) (ite_kept (ite_kept (State.modCxl_kept h) h) (ite_kept (ite_kept (State.modMem_kept h) h) (ite_kept (ite_kept (State.modMem_kept h) h) (ite_kept (State.modPwr_kept h) (ite_kept (State.modErr_kept h) (ite_kept (State.modPart_kept h) (ite_kept (State.modPart_kept h) (ite_kept (State.modPort_kept h) (ite_kept (ite_kept h (ite_kept (State.modCore_kept h) (ite_kept (State.modCore_kept h) h))) h)))))))))))))
theorem cloadLand_kept {n f} (h : Kept r n.s) : Kept r (cloadLand n f) := by
  unfold cloadLand
  extract_lets x1 x2 x3
  clear_value x1 x2 x3
  exact (ite_kept h (State.modMacro_kept h))
theorem writeRow_kept {m r1 mode guard row scl tick} (h : Kept r s) : Kept r (writeRow s m r1 mode guard row scl tick) := by
  unfold writeRow
  extract_lets x1 x2 x3
  clear_value x1
  have h1 : Kept r x2 := (Kept.mk' h h.scratch (Memory.wf_bwrite _ _ _ h.cim) h.scales h.stack h.cache h.pages h.mode h.state h.fuses h.tree)
  clear_value x2
  have h2 : Kept r x3 := (by subst x3; split; (exact (ite_kept (Kept.mk' h1 h1.scratch h1.cim (Memory.wf_bwrite _ _ _ h1.scales) h1.stack h1.cache h1.pages h1.mode h1.state h1.fuses h1.tree) h1)); (exact h1))
  clear_value x3
  exact (State.modMacro_kept h2)
theorem logRow_kept {c m r1 at_ scl} (h : Kept r s) : Kept r (logRow s c m r1 at_ scl) := by
  unfold logRow
  extract_lets x1 x2
  clear_value x1 x2
  exact (ite_kept (State.modCore_kept h) h)
theorem cloadRow_kept {c p e f recv at_ i} (h : Kept r s) : Kept r (cloadRow s c p e f recv at_ i) := by
  unfold cloadRow
  extract_lets x1 x2 x3 x4 x5 x6 x7 x8 x9 x10 x11 x12
  clear_value x1 x2 x3 x4 x7 x8 x9 x10 x11 x12
  have h1 : Kept r x5 := (ite_kept (State.modMacro_kept h) h)
  clear_value x5
  have h2 : Kept r x6.s := h1
  clear_value x6
  exact (ite_kept h (ite_kept h1 (writeRow_kept (logRow_kept h1))))
theorem clockLoss_kept {f} (h : Kept r s) : Kept r (clockLoss s f) := by
  unfold clockLoss
  extract_lets x1 x2
  have h1 : Kept r x1 := (State.modGov_kept (State.modPwr_kept h))
  clear_value x1
  have h2 : Kept r x2 := (recordNow_kept h1)
  clear_value x2
  exact (ite_kept (State.modPwr_kept h) (enterParsley_kept h2))
theorem endVfCtxWork_kept {vf} (h : Kept r s) : Kept r (endVfCtxWork s vf) := by
  unfold endVfCtxWork
  extract_lets x1
  clear_value x1
  exact (foldl_kept (fun s1 _ h1 => (by extract_lets x2 x3 x4; clear_value x2; have h2 : Kept r x3 := (foldl_kept (fun s2 _ h3 => (finish_kept (freePages_kept h3))) _ h1); clear_value x3; have h4 : Kept r x4 := (foldl_kept (fun s3 _ h5 => (finish_kept h5)) _ h2); clear_value x4; exact (State.modCtx_kept h4))) _ h)
theorem endVfWork_kept {vf f} (h : Kept r s) : Kept r (endVfWork s vf f) := by
  unfold endVfWork
  exact (foldl_kept (fun s1 _ h1 => (disableTrains_kept (disableReqs_kept h1))) _ h)
theorem modPairs_kept {vf f} (h : Kept r s) : Kept r (modPairs s vf f) := by
  unfold modPairs
  exact (foldl_kept (fun s1 _ h1 => (State.modQp_kept h1)) _ h)
theorem closeSession_kept {ix ended} (h : Kept r s) : Kept r (closeSession s ix ended) := by
  unfold closeSession
  extract_lets x1
  have h1 : Kept r x1 := (modSession_kept h)
  clear_value x1
  exact (ite_kept h1 (endVfCtxWork_kept (endVfWork_kept (modPairs_kept h1))))
theorem govFault_kept {c p k cause tick} (h : Kept r s) : Kept r (govFault s c p k cause tick) := by
  unfold govFault
  extract_lets x1 x2 x3
  clear_value x1
  have h1 : Kept r x2 := (ite_kept h (State.modGov_kept h))
  clear_value x2
  have h2 : Kept r x3 := (ite_kept h1 (recordNext_kept h1))
  clear_value x3
  exact (markStop_kept h2)
theorem freeTime_kept (h : Kept r s) : Kept r (freeTime s).2 := draw_kept h
theorem coreFaultFree_kept {c pc st cause} (h : Kept r s) : Kept r (coreFaultFree s c pc st cause) := by
  unfold coreFaultFree
  split
  · next _ s1 e1 => have h1 := snd_kept (freeTime_kept h) e1; split; (next _ s2 e2 => have h2 := snd_kept (freeTime_kept h1) e2; exact (coreFault_kept h2))
theorem countCycle_kept {c p cyc} (h : Kept r s) : Kept r (countCycle c p s cyc) := by
  unfold countCycle
  extract_lets x1 x2 x3
  clear_value x1 x2
  have h1 : Kept r x3 := (ite_kept (govFault_kept (State.modGovPart_kept h)) h)
  clear_value x3
  split
  · exact h1
  · exact (coreFaultFree_kept h1)
theorem countTo_kept {c p hi} (h : Kept r s) : Kept r (countTo s c p hi) := by
  unfold countTo
  extract_lets x1 x2 x3
  clear_value x1 x2 x3
  exact (State.modCore_kept (foldl_kept (fun s1 _ h1 => (countCycle_kept h1)) _ h))
theorem fillPages_kept : ∀ {gs bs} {s : State}, Kept r s → Kept r (fillPages s gs bs) := by
  intro gs
  induction gs with
  | nil => intro bs s h; exact h
  | cons g gs ih => intro bs s h; exact ih (writePage_kept h)
theorem formSnapshot_kept {p c pages manifest leaves epoch} (h : Kept r s) : Kept r (formSnapshot s p c pages manifest leaves epoch) := by
  unfold formSnapshot
  extract_lets x1
  have h1 : Kept r x1 := (takePages_kept h)
  clear_value x1
  exact (h1.same rfl)
theorem commitPages_kept {p c bytes} (h : Kept r s) : Kept r (commitPages s p c bytes) := by
  unfold commitPages
  extract_lets x1
  clear_value x1
  split
  · exact h
  · extract_lets x2 x3; clear_value x2 x3; exact (onPages_kept h (fun s1 h1 => (by extract_lets x4 x5 x6; clear_value x5; have h2 : Kept r x4 := (fillPages_kept h1); clear_value x4; have h3 : Kept r x6 := (fillPages_kept h2); clear_value x6; exact (formSnapshot_kept h3))))
theorem commitDone_kept {c ch} (h : Kept r s) : Kept r (commitDone s c ch) := by
  unfold commitDone
  split
  · extract_lets x1 x2 n v bytes x src
    have h1 : Kept r x1 := State.advance_kept h
    clear_value x1
    have h2 : Kept r x2 := countTo_kept h1
    clear_value x2 n v bytes x src
    refine onPages_kept h2 (fun s hs => ?_)
    refine checkEnd_kept (State.modCore_kept ?_)
    split
    · exact chvFault_kept hs
    · exact commitPages_kept hs
  · exact h
theorem commitPart_kept {p t} (h : Kept r s) : Kept r (commitPart s p t) := by
  unfold commitPart
  extract_lets x1 x2 x3 x4 x5 x6 x7 x8 x9
  clear_value x1 x2 x3 x4 x5 x6 x8
  have h1 : Kept r x7 := (State.modGovPart_kept h)
  clear_value x7
  have h2 : Kept r x9 := (State.modGovPart_kept h1)
  clear_value x9
  exact (ite_kept h (ite_kept (govFault_kept h2) h1))
theorem commitPlan_kept {n pl poison recv} (h : Kept r n.s) : Kept r (commitPlan n pl poison recv) := by
  unfold commitPlan
  extract_lets x1 x2 x3 x4 x5 x6 x7 x8
  clear_value x1 x2 x3 x6 x8
  have h1 : Kept r x4 := (State.modCore_kept h)
  clear_value x4
  have h2 : Kept r x5 := (by subst x5; split; (exact (ite_kept (State.modMacro_kept h1) h1)); (exact h1))
  clear_value x5
  have h3 : Kept r x7 := (foldl_kept (fun s1 _ h4 => (sendData_kept h4)) _ h2)
  clear_value x7
  exact (ite_kept (h3.same rfl) h3)
theorem refuseCommit_kept {st p} (h : Kept r s) : Kept r (refuseCommit s st p) := by
  unfold refuseCommit
  extract_lets x1
  clear_value x1
  exact (h.same rfl)
theorem commitRequest_kept {v c} (h : Kept r s) : Kept r (commitRequest s v c) := by
  unfold commitRequest
  extract_lets x1 x2 x3 x4 x5
  clear_value x1 x3 x4 x5
  have h1 : Kept r x2 := (h.same rfl)
  clear_value x2
  exact (ite_kept (pairBad_kept h) (ite_kept (refuseCommit_kept h1) (by split; (exact (mismatch_kept h1)); (split; (exact (refuseCommit_kept h1)); (split; exact (refuseCommit_kept h1); (next s1 e1 => have h2 := (beginReshape_kept h1) e1; extract_lets x6; clear_value x6; exact (h2.same rfl)))))))
theorem fillMacro_kept {m mode guard src recv} (h : Kept r s) : Kept r (fillMacro s m mode guard src recv) := by
  unfold fillMacro
  extract_lets x1 x2 x3
  clear_value x1 x2
  have h1 : Kept r x3 := (foldl_kept (fun s1 _ h2 => (writeRow_kept h2)) _ h)
  clear_value x3
  exact (ite_kept (State.modMacro_kept h1) h1)
theorem loadBlock_kept {p guard b recv} (h : Kept r s) : Kept r (loadBlock s p guard b recv) := by
  unfold loadBlock
  extract_lets x1
  have h1 : Kept r x1 := (State.modMacro_kept h)
  clear_value x1
  exact (State.modMacro_kept (fillMacro_kept h1))
theorem loadLayout_kept {p guard bs recv} (h : Kept r s) : Kept r (loadLayout s p guard bs recv) := by
  unfold loadLayout
  exact (foldl_kept (fun s1 _ h1 => (ite_kept (loadBlock_kept h1) h1)) _ h)
theorem writeLayout_kept {p t} (h : Kept r s) : Kept r (writeLayout s p t) := by
  unfold writeLayout
  exact (State.modPart_kept (loadLayout_kept h))
theorem writeTable_kept {w} (h : Kept r s) : Kept r (writeTable s w) := by
  unfold writeTable
  split <;> (exact (ite_kept (State.modCore_kept h) h))
theorem writeImageTables_kept {p i t newLayout guard recv} (h : Kept r s) : Kept r (writeImageTables s p i t newLayout guard recv) := by
  unfold writeImageTables
  extract_lets x1 x2 x3
  have h1 : Kept r x1 := (foldl_kept (fun s1 _ h2 => (writeTable_kept h2)) _ h)
  clear_value x1
  have h3 : Kept r x2 := (ite_kept (loadLayout_kept h1) h1)
  clear_value x2
  have h4 : Kept r x3 := (modList_kept h3)
  clear_value x3
  exact (State.modPart_kept h4)
theorem reshapePart_kept {p ts} (h : Kept r s) : Kept r (reshapePart s p ts) := by
  unfold reshapePart
  extract_lets x1 x2 x3 x4 x5 x6 x7 x8 x9
  clear_value x1 x2 x3
  have h1 : Kept r x4 := (State.advance_kept h)
  clear_value x4
  have h2 : Kept r x5 := (modList_kept h1)
  clear_value x5
  have h3 : Kept r x6 := (foldl_kept (fun s1 _ h4 => (by split; (exact h4); (exact (clearRanges_kept h4)))) _ h2)
  clear_value x6
  have h5 : Kept r x7 := (foldl_kept (fun s2 _ h6 => (ite_kept (writeLayout_kept h6) (writeImageTables_kept h6))) _ h3)
  clear_value x7
  have h7 : Kept r x8 := (foldl_kept (fun s3 _ h8 => (by extract_lets x10 x11; clear_value x10 x11; exact (State.modPart_kept h8))) _ h5)
  clear_value x8
  have h9 : Kept r x9 := (by subst x9; split; (exact h7); (exact (ite_kept h7 (foldl_kept (fun s4 _ h10 => (State.modCore_kept h10)) _ h7))))
  clear_value x9
  exact (State.modPart_kept h9)
theorem commitTick_kept (h : Kept r s) : Kept r (commitTick s) := by
  unfold commitTick
  extract_lets x1 x2
  clear_value x1
  have h1 : Kept r x2 := (State.advance_kept h)
  clear_value x2
  split
  · exact h
  · extract_lets x3 x4 x5 x6; clear_value x3 x5; have h2 : Kept r x4 := (foldl_kept (fun s1 _ h3 => (applyShares_kept h3)) _ h1); clear_value x4; have h4 : Kept r x6 := (h2.same rfl); clear_value x6; exact (ite_kept h (by split; (exact (mismatch_kept h)); (exact (foldl_kept (fun s2 _ h5 => (by split; (exact h5); (exact (reshapePart_kept h5)))) _ h4))))
theorem railCheck_kept {rail} (h : Kept r s) : Kept r (railCheck s rail) := by
  unfold railCheck
  extract_lets x1 x2 x3 x4
  clear_value x1 x2
  have h1 : Kept r x3 := (State.modGov_kept h)
  clear_value x3
  have h2 : Kept r x4 := (recordNow_kept h1)
  clear_value x4
  exact (ite_kept (State.modGov_kept h) (ite_kept (State.modGov_kept h) (enterParsley_kept h2)))
theorem committedUpdate_kept {rail} (h : Kept r s) : Kept r (committedUpdate s rail) := by
  unfold committedUpdate
  extract_lets x1 x2
  clear_value x1
  have h1 : Kept r x2 := (State.modGov_kept (State.advance_kept h))
  clear_value x2
  exact (ite_kept h (railCheck_kept (foldl_kept (fun s1 _ h2 => (commitPart_kept h2)) _ h1)))
theorem landSlot_kept {d delay poison} (h : Kept r s) : Kept r (landSlot s d delay poison) := by
  unfold landSlot
  extract_lets x1 x2
  clear_value x1 x2
  exact (State.modCore_kept h)
theorem numericJob_kept {p w tile at_} (h : Kept r s) : Kept r (numericJob s p w tile at_) := by
  unfold numericJob
  exact (State.modPart_kept h)
theorem numericCtx_kept {c w tile at_} (h : Kept r s) : Kept r (numericCtx s c w tile at_) := by
  unfold numericCtx
  exact (State.modCtx_kept h)
theorem tileNumeric_kept {p e at_} (h : Kept r s) : Kept r (tileNumeric s p e at_) := by
  unfold tileNumeric
  extract_lets x1
  clear_value x1
  exact (foldl_kept (fun s1 _ h1 => (by extract_lets x2; clear_value x2; exact (ite_kept (numericJob_kept h1) (numericCtx_kept h1)))) _ h)
theorem mintCapture_kept {c p m clean} (h : Kept r s) : Kept r (mintCapture s c p m clean) := by
  unfold mintCapture
  extract_lets x1 x2 x3
  clear_value x1 x3
  have h1 : Kept r x2 := (State.modCore_kept h)
  clear_value x2
  split
  · exact h
  · extract_lets x4 x5; clear_value x4 x5; exact (ite_kept h (ite_kept (by split; (exact (State.modPart_kept h1)); (exact (State.modGroup_kept h1))) h1))
theorem landAll_kept {c p l sregs at_ delay poison} (h : Kept r s) : Kept r (landAll s c p l sregs at_ delay poison) := by
  unfold landAll
  extract_lets x1 x2 x3 x4 x5 x6
  clear_value x5
  have h1 : Kept r x1 := (foldl_kept (fun s1 _ h2 => (landWrite_kept h2)) _ h)
  clear_value x1
  have h3 : Kept r x2 := (foldl_kept (fun s2 _ h4 => (State.setPage_kept h4 (Paired.of_ok _))) _ h1)
  clear_value x2
  have h5 : Kept r x3 := (foldl_kept (fun s3 _ h6 => (landSlot_kept h6)) _ h3)
  clear_value x3
  have h7 : Kept r x4 := (State.modCore_kept h5)
  clear_value x4
  have h8 : Kept r x6 := (foldl_kept (fun s4 _ h9 => (tileNumeric_kept h9)) _ h7)
  clear_value x6
  exact (mintCapture_kept h8)
theorem settleDue_kept {c p e l d} (h : Kept r s) : Kept r (settleDue s c p e l d) := by
  unfold settleDue
  split
  · extract_lets x1; clear_value x1; exact (landAll_kept h)
  · exact (State.modCore_kept h)
  · split; (exact (cloadRow_kept h)); (exact h)
theorem settleEntry_kept {c p e hi} (h : Kept r s) : Kept r (settleEntry s c p e hi) := by
  unfold settleEntry
  split
  · exact h
  · extract_lets x1 x2; clear_value x1; have h1 : Kept r x2 := (foldl_kept (fun s1 _ h2 => (settleDue_kept h2)) _ h); clear_value x2; exact (ite_kept h (State.modCore_kept h1))
theorem settleOwn_kept {c p e hi} (h : Kept r s) : Kept r (settleOwn s c p e hi) := by
  unfold settleOwn
  split
  · exact h
  · exact (settleEntry_kept h)
theorem settleCore_kept {c p hi} (h : Kept r s) : Kept r (settleCore s c p hi) := by
  unfold settleCore
  exact (foldl_kept (fun s1 _ h1 => (settleEntry_kept h1)) _ h)
theorem foldl_fst_kept {α β : Type} {f : State × β → α → State × β} (hf : ∀ x a, Kept r x.1 → Kept r (f x a).1) (l : List α) :
    ∀ {x : State × β}, Kept r x.1 → Kept r (l.foldl f x).1 := by
  induction l with
  | nil => intro x h; exact h
  | cons a l ih => intro x h; exact ih (hf x a h)
theorem foldl_snd_kept {α β : Type} {f : β × State → α → β × State} (hf : ∀ x a, Kept r x.2 → Kept r (f x a).2) (l : List α) :
    ∀ {x : β × State}, Kept r x.2 → Kept r (l.foldl f x).2 := by
  induction l with
  | nil => intro x h; exact h
  | cons a l ih => intro x h; exact ih (hf x a h)
theorem settleClash_kept {c p e l} (h : Kept r s) : Kept r (settleClash s c p e l).1 := by
  unfold settleClash
  split
  · exact h
  · extract_lets inFlight
    refine foldl_fst_kept (fun x o hx => ?_) _ h
    split
    · split
      · exact hx
      · dsimp only
        split
        · exact chvFault_kept (markStop_kept (recordNext_kept (State.modCore_kept hx)))
        · dsimp only; exact State.modCore_kept hx
    · exact hx
theorem completeEntry_kept {c p e l} (h : Kept r s) : Kept r (completeEntry s c p e l) := by
  unfold completeEntry
  extract_lets x1 x2 x3 x4 x5 x6
  clear_value x1 x4 x5 x6
  have h1 : Kept r x2 := (State.advance_kept h)
  clear_value x2
  have h2 : Kept r x3 := (settleOwn_kept (settleCore_kept h1))
  clear_value x3
  exact (ite_kept (checkEnd_kept (State.modCore_kept h1)) (by split; (next s1 _ e1 => have h3 := fst_kept (settleClash_kept (countTo_kept h2)) e1; extract_lets x7 x8 x9 x10 x11 x12 x13 x14 x15 x16; clear_value x7 x8 x9 x11 x12 x13 x14 x15; have h4 : Kept r x10.s := h3; clear_value x10; have h5 : Kept r x16 := (by subst x16; split; (extract_lets x17 x18 x19; clear_value x17 x19; have h6 : Kept r x18 := (ite_kept (coreFaultFree_kept h3) h3); clear_value x18; exact (landAll_kept h6)); (extract_lets x20 x21 x22; clear_value x20 x22; have h7 : Kept r x21 := (ite_kept (coreFaultFree_kept h3) h3); clear_value x21; exact (landAll_kept h7)); (exact (cloadLand_kept h4)); (exact (landAll_kept h3)); (exact (landAll_kept h3))); clear_value x16; exact (checkEnd_kept (State.modCore_kept h5)))))
theorem completeQ_kept {c q} (h : Kept r s) : Kept r (completeQ s c q) := by
  unfold completeQ
  split
  · exact (completeEntry_kept h)
  · exact h
theorem startRekey_kept {n} (h : Kept r s) : Kept r (startRekey s n) := by
  unfold startRekey
  exact (ite_kept h (by split; (next _ s1 e1 => have h1 := snd_kept (drawBits_kept h) e1; split <;> (exact (sendLink_kept (State.modPort_kept h1))))))
theorem counterRekey_kept {n} (h : Kept r s) : Kept r (counterRekey s n) := by
  unfold counterRekey
  extract_lets x1 x2
  clear_value x1 x2
  exact (ite_kept (startRekey_kept h) h)
theorem cqHeadWrite_kept {vf q head} (h : Kept r s) : Kept r (cqHeadWrite s vf q head) := by
  unfold cqHeadWrite
  exact (modPair_kept h)
theorem ctxCmd_kept {via cmd c f} (h : Kept r s) (hf : Kept r f) : Kept r (ctxCmd s via cmd c f) := by
  unfold ctxCmd
  extract_lets x1
  clear_value x1
  exact (tenantCmd_kept h (fun _ _ _ => (ite_kept (answer_kept h) (ite_kept (mismatch_kept h) (ite_kept (answer_kept h) (ite_kept (answer_kept h) hf))))))
theorem dropSnap_kept {h0} (h : Kept r s) : Kept r (dropSnap s h0) := by
  unfold dropSnap
  exact (h.same rfl)
theorem unhold_kept {c old} (h : Kept r s) : Kept r (unhold s c old) := by
  unfold unhold
  exact (ite_kept h (sweepSnaps_kept (dropSnap_kept h)))
theorem ctxAdopt_kept {via c state h0} (h : Kept r s) : Kept r (ctxAdopt s via c state h0) := by
  unfold ctxAdopt
  extract_lets x1 x2
  clear_value x1 x2
  exact (ctxCmd_kept h (ite_kept (mismatch_kept h) (ite_kept (answer_kept h) (by split; (exact (answer_kept h)); (extract_lets x3; clear_value x3; exact (ite_kept (answer_kept h) (ite_kept (answer_kept (unhold_kept (State.modCtx_kept h))) (onPages_kept h (fun s1 h1 => (by extract_lets x4; clear_value x4; exact (ite_kept (answer_kept h1) (ite_kept (answer_kept h1) (answer_kept (unhold_kept (State.modCtx_kept h1)))))))))))))))
theorem ctxBind_kept {via c vf qmask} (h : Kept r s) : Kept r (ctxBind s via c vf qmask) := by
  unfold ctxBind
  exact (ctxCmd_kept h (ite_kept (answer_kept h) (answer_kept (State.modCtx_kept h))))
theorem makeCtx_kept {t p kind rank proj state seed stream a b} (h : Kept r s) : Kept r (makeCtx s t p kind rank proj state seed stream a b) := by
  unfold makeCtx
  extract_lets x1 x2 x3
  clear_value x1 x2 x3
  exact (State.setCtx_kept h)
theorem ctxCreate_kept {via p kind rank proj seed stream} (h : Kept r s) : Kept r (ctxCreate s via p kind rank proj seed stream) := by
  unfold ctxCreate
  extract_lets x1
  clear_value x1
  exact (tenantCmd_kept h (fun _ _ _ => (by extract_lets x2; clear_value x2; exact (ite_kept (mismatch_kept h) (ite_kept (mismatch_kept h) (ite_kept (answer_kept h) (ite_kept (answer_kept h) (ite_kept (answer_kept h) (answer_kept (makeCtx_kept h))))))))))
theorem ctxReleaseSnap_kept {via c h0} (h : Kept r s) : Kept r (ctxReleaseSnap s via c h0) := by
  unfold ctxReleaseSnap
  extract_lets x1
  clear_value x1
  exact (ctxCmd_kept h (ite_kept (answer_kept h) (ite_kept (answer_kept h) (answer_kept (sweepSnaps_kept (dropSnap_kept h))))))
theorem ctxCompose_kept {via a b} (h : Kept r s) : Kept r (ctxCompose s via a b) := by
  unfold ctxCompose
  extract_lets x1 x2
  clear_value x1 x2
  exact (tenantCmd_kept h (fun _ _ _ => (by extract_lets x3; clear_value x3; exact (ite_kept (answer_kept h) (ite_kept (mismatch_kept h) (ite_kept (mismatch_kept h) (onPages_kept h (fun s1 h1 => (ite_kept (answer_kept h1) (ite_kept (answer_kept h1) (answer_kept (makeCtx_kept h1))))))))))))
theorem ctxSeed_kept {via c seed stream} (h : Kept r s) : Kept r (ctxSeed s via c seed stream) := by
  unfold ctxSeed
  extract_lets x1 x2
  clear_value x2
  have h1 : Kept r x1 := (State.modCtx_kept h)
  clear_value x1
  exact (ctxCmd_kept h (answer_kept (ite_kept h1 (applySeeds_kept h1))))
theorem ctxSetkey_kept {via c key} (h : Kept r s) : Kept r (ctxSetkey s via c key) := by
  unfold ctxSetkey
  extract_lets x1
  clear_value x1
  exact (ctxCmd_kept h (ite_kept (answer_kept h) (answer_kept (State.modSage_kept' h (fun _ => ⟨rfl, rfl⟩)))))
theorem ctxImport_kept {via c image} (h : Kept r s) : Kept r (ctxImport s via c image) := by
  unfold ctxImport
  extract_lets x1
  clear_value x1
  exact (ctxCmd_kept h (by split; (exact (answer_kept h)); (split; (exact (answer_kept h)); (exact (State.modCtx_kept (takePages_kept h))))))
theorem drawNonce_kept (h : Kept r s) : Kept r (drawNonce s).2 := drawBits_kept h
theorem ctxExport_kept {via c state addr len} (h : Kept r s) : Kept r (ctxExport s via c state addr len) := by
  unfold ctxExport
  exact (ctxCmd_kept h (by split; (exact (onPages_kept h (fun s1 h1 => (by split; (next _ s2 e1 => have h2 := snd_kept (drawNonce_kept h1) e1; extract_lets x1; clear_value x1; exact (ite_kept (answer_kept h2) (State.modCtx_kept h2))))))); (exact (answer_kept h))))
theorem ctxQuery_kept {via c} (h : Kept r s) : Kept r (ctxQuery s via c) := by
  unfold ctxQuery
  exact (ctxCmd_kept h (ite_kept (answer_kept h) (answer_kept (State.modCtx_kept h))))
theorem ctxRebase_kept {via c} (h : Kept r s) : Kept r (ctxRebase s via c) := by
  unfold ctxRebase
  exact (ctxCmd_kept h (ite_kept (answer_kept h) (answer_kept (State.modCtx_kept h))))
theorem ctxDelete_kept {via c} (h : Kept r s) : Kept r (ctxDelete s via c) := by
  unfold ctxDelete
  split
  · exact (ctxCmd_kept h (ite_kept (answer_kept h) (beginDelete_kept h)))
  · exact (permitted_kept h (fun s1 h1 => (ite_kept (answer_kept h1) (ite_kept (mismatch_kept h1) (ite_kept (answer_kept h1) (beginDelete_kept (accept_kept h1)))))))
theorem ctxCommand_kept {via cmd c b} (h : Kept r s) : Kept r (ctxCommand s via cmd c b) := by
  unfold ctxCommand
  extract_lets x1
  clear_value x1
  split
  · exact (dite_kept (fun _ => (ctxCreate_kept h)) (fun _ => (answer_kept h)))
  · exact (ctxBind_kept h)
  · exact (ctxAdopt_kept h)
  · exact (ctxReleaseSnap_kept h)
  · exact (ctxCompose_kept h)
  · exact (ctxSeed_kept h)
  · exact (ctxSetkey_kept h)
  · split; (next _ s1 e1 => have h1 := snd_kept (draw_kept h) e1; exact (ctxImport_kept h1))
  · exact (ctxExport_kept h)
  · exact (ctxQuery_kept h)
  · exact (ctxRebase_kept h)
  · exact (ctxDelete_kept h)
theorem ctxDeleteComplete_kept {c} (h : Kept r s) : Kept r (ctxDeleteComplete s c) := by
  unfold ctxDeleteComplete
  extract_lets x1 x2 x3 x4 x5 x6 x7 x8
  clear_value x1 x2
  have h1 : Kept r x3 := (endSome_kept h)
  clear_value x3
  have h2 : Kept r x4 := (ite_kept (abandonCkpt_kept h1) h1)
  clear_value x4
  have h3 : Kept r x5 := (endTrains_kept h2)
  clear_value x5
  have h4 : Kept r x6 := (sweepSnaps_kept (foldl_kept (fun s1 _ h5 => (dropSnap_kept h5)) _ h3))
  clear_value x6
  have h6 : Kept r x7 := (State.modSage_kept' h4 (fun _ => ⟨rfl, rfl⟩))
  clear_value x7
  have h7 : Kept r x8 := (State.setCtx_kept h6)
  clear_value x8
  exact (ite_kept h (by split; (exact h7); (exact (finish_kept h7))))
theorem ctxExportComplete_kept {c} (h : Kept r s) : Kept r (ctxExportComplete s c) := by
  unfold ctxExportComplete
  split
  · exact h
  · extract_lets x1; have h1 : Kept r x1 := (State.modCtx_kept h); clear_value x1; exact (finish_kept (State.modCxl_kept h1))
theorem ctxImportComplete_kept {c} (h : Kept r s) : Kept r (ctxImportComplete s c) := by
  unfold ctxImportComplete
  extract_lets x1 x2
  clear_value x1 x2
  split
  · exact h
  · extract_lets x3 x4; clear_value x4; have h1 : Kept r x3 := (State.modCtx_kept h); clear_value x3; split; (exact (finish_kept (freePages_kept h1))); (exact (onPages_kept h1 (fun s1 h2 => (ite_kept (finish_kept (freePages_kept h2)) (by extract_lets x5 x6 x7 x8 x9; clear_value x6 x7 x8; have h3 : Kept r x5 := (foldl_kept (fun s2 _ h4 => (writePage_kept h4)) _ h2); clear_value x5; have h5 : Kept r x9 := (formSnapshot_kept h3); clear_value x9; exact (finish_kept h5))))))
theorem ctxWithdraw_kept {via c} (h : Kept r s) : Kept r (ctxWithdraw s via c) := by
  unfold ctxWithdraw
  exact (permitted_kept h (fun s1 h1 => (ite_kept (answer_kept h1) (ite_kept (mismatch_kept h1) (answer_kept (State.modCtx_kept h1))))))
theorem d2hHeadWrite_kept {vf q head} (h : Kept r s) : Kept r (d2hHeadWrite s vf q head) := by
  unfold d2hHeadWrite
  exact (modPair_kept h)
theorem debugChallenge_kept {via} (h : Kept r s) : Kept r (debugChallenge s via) := by
  unfold debugChallenge
  exact (permitted_kept h (fun s1 h1 => (by split; (next _ s2 e1 => have h2 := snd_kept (drawBits_kept h1) e1; exact (answerData_kept (State.modSage_kept' h2 (fun _ => ⟨rfl, rfl⟩)))))))
theorem debugNonceExpiry_kept (h : Kept r s) : Kept r (debugNonceExpiry s) := by
  unfold debugNonceExpiry
  split
  · exact h
  · exact (State.modSage_kept' (State.advance_kept h) (fun _ => ⟨rfl, rfl⟩))
theorem debugUnlock_kept {via scope sig} (h : Kept r s) : Kept r (debugUnlock s via scope sig) := by
  unfold debugUnlock
  exact (permitted_kept h (fun s1 h1 => (by extract_lets x1 x2; clear_value x1; have h2 : Kept r x2 := (State.modSage_kept' h1 (fun _ => ⟨rfl, rfl⟩)); clear_value x2; exact (ite_kept (answer_kept (State.modSage_kept' h2 (fun _ => ⟨rfl, rfl⟩))) (State.modSage_kept' (State.modSys_kept (clearOut_kept h2) (by dsimp only; first | decide | exact Kept.state (by assumption))) (fun _ => ⟨rfl, rfl⟩))))))
theorem decideLevel_kept (h : Kept r s) : Kept r (decideLevel s) := by
  unfold decideLevel
  extract_lets x1 x2 x3 x4
  clear_value x1 x2 x3
  have h1 : Kept r x4 := (State.modGov_kept h)
  clear_value x4
  exact (ite_kept h (foldl_kept (fun s1 _ h2 => (ite_kept (sendLink_kept h2) h2)) _ h1))
theorem zeroGroup_kept {g} (h : Kept r s) : Kept r (zeroGroup s g) := by
  unfold zeroGroup
  extract_lets x1
  have h1 : Kept r x1 := (zeroMacros_kept h)
  clear_value x1
  exact (Kept.mk' h1 (Memory.wf_bzero _ _ _ h1.scratch) h1.cim h1.scales h1.stack h1.cache h1.pages h1.mode h1.state h1.fuses h1.tree)
theorem freeAttrs_kept {p as} (h : Kept r s) : Kept r (freeAttrs s p as) := by
  unfold freeAttrs
  exact (freePages_kept h)
theorem dropLatches_kept {p} (h : Kept r s) : Kept r (dropLatches s p) := by
  unfold dropLatches
  exact (State.modSys_kept' h (by intro _; dsimp only; repeat' (first | rfl | split)))
theorem partitionReset_kept {p st} (h : Kept r s) : Kept r (partitionReset s p st) := by
  unfold partitionReset
  extract_lets x1 x2 x3 x4 x5 x6 x7 x8 x9
  clear_value x7
  have h1 : Kept r x1 := (endTrain_kept (endReqs_kept h))
  clear_value x1
  have h2 : Kept r x2 := (endJobNow_kept h1)
  clear_value x2
  have h3 : Kept r x3 := (abandonCkpt_kept (endLoad_kept h2))
  clear_value x3
  have h4 : Kept r x4 := (modCores_kept h3)
  clear_value x4
  have h5 : Kept r x5 := (foldl_kept (fun s1 _ h6 => (zeroGroup_kept h6)) _ h4)
  clear_value x5
  have h7 : Kept r x6 := (freeAttrs_kept h5)
  clear_value x6
  have h8 : Kept r x8 := (State.modPart_kept h7)
  clear_value x8
  have h9 : Kept r x9 := (State.modPwr_kept (dropLatches_kept h8))
  clear_value x9
  exact (ite_kept h (disableBox_kept (disableBox_kept (breakLocksOf_kept h9))))
theorem dillWatchdog_kept {p} (h : Kept r s) : Kept r (dillWatchdog s p) := by
  unfold dillWatchdog
  extract_lets x1
  have h1 : Kept r x1 := (recordNow_kept h)
  clear_value x1
  exact (ite_kept h (partitionReset_kept h1))
theorem power_kept {mask on} (h : Kept r s) : Kept r (power s mask on) := by
  unfold power
  exact (State.modPwr_kept h)
theorem portsOff_kept {ns} (h : Kept r s) : Kept r (portsOff s ns) := by
  unfold portsOff
  exact (foldl_kept (fun s1 _ h1 => (portDown_kept h1)) _ h)
theorem switchOne_kept {v bit} (h : Kept r s) : Kept r (switchOne v s bit) := by
  unfold switchOne
  extract_lets x1 x2 x3
  clear_value x1 x3
  have h1 : Kept r x2 := (State.modPwr_kept (power_kept h))
  clear_value x2
  exact (ite_kept h (ite_kept (State.modPwr_kept h) (ite_kept (foldl_kept (fun s1 _ h2 => (beginTraining_kept h2)) _ h1) (ite_kept (Kept.mk' h1 h1.scratch h1.cim h1.scales h1.stack Memory.wf_nil h1.pages h1.mode h1.state h1.fuses h1.tree) (portsOff_kept h1)))))
theorem domainSwitch_kept {v} (h : Kept r s) : Kept r (domainSwitch s v) := by
  unfold domainSwitch
  exact (foldl_kept (fun s1 _ h1 => (switchOne_kept h1)) _ (State.modPwr_kept h))
theorem dpPair_kept {p v c} (h : Kept r s) : Kept r (dpPair s p v c) := by
  unfold dpPair
  exact (ite_kept (pairBad_kept h) (State.modPart_kept h))
theorem dpPorts_kept {p v c} (h : Kept r s) : Kept r (dpPorts s p v c) := by
  unfold dpPorts
  exact (ite_kept (pairBad_kept h) (State.modPart_kept h))
theorem dpWrite_kept {p dp dpC ports portsC} (h : Kept r s) : Kept r (dpWrite s p dp dpC ports portsC) := by
  unfold dpWrite
  exact (dpPorts_kept (dpPair_kept h))
theorem drbgReseed_kept (h : Kept r s) : Kept r (drbgReseed s) := by
  unfold drbgReseed
  exact (ite_kept (State.modSage_kept' h (fun _ => ⟨rfl, rfl⟩)) h)
theorem dropHigher_kept {n serial} (h : Kept r s) : Kept r (dropHigher s n serial) := by
  unfold dropHigher
  exact (foldl_kept (fun s1 _ h1 => (ite_kept (portDown_kept h1) h1)) _ h)
theorem dropOrphans_kept (h : Kept r s) : Kept r (dropOrphans s) := by
  unfold dropOrphans
  extract_lets x1 x2 x3
  clear_value x1 x2
  have h1 : Kept r x3 := (State.modSys_kept' h (by intro _; dsimp only; repeat' (first | rfl | split)))
  clear_value x3
  exact (foldl_kept (fun s1 _ h2 => (State.modSys_kept' h2 (by intro _; dsimp only; repeat' (first | rfl | split)))) _ h1)
theorem dropWaiting_kept {n f} (h : Kept r s) : Kept r (dropWaiting s n f) := by
  unfold dropWaiting
  exact (State.modPort_kept (servePort_kept h))
theorem endCtxWork_kept {p st} (h : Kept r s) : Kept r (endCtxWork s p st) := by
  unfold endCtxWork
  extract_lets x1 x2
  clear_value x1
  have h1 : Kept r x2 := (foldl_kept (fun s1 _ h2 => (by extract_lets x3 x4 x5; clear_value x3; have h3 : Kept r x4 := (freePages_kept h2); clear_value x4; have h4 : Kept r x5 := (State.modCxl_kept h3); clear_value x5; exact (finish_kept h4))) _ h)
  clear_value x2
  exact (foldl_kept (fun s2 _ h5 => (by extract_lets x6 x7; have h6 : Kept r x6 := (foldl_kept (fun s3 _ h7 => (finish_kept (freePages_kept h7))) _ h5); clear_value x6; have h8 : Kept r x7 := (foldl_kept (fun s4 _ h9 => (finish_kept h9)) _ h6); clear_value x7; exact (State.modCtx_kept h8))) _ h1)
theorem resumeAt_kept {p i b r1} (h : Kept r s) : Kept r (resumeAt s p i b r1) := by
  unfold resumeAt
  split
  · exact h
  · exact (modList_kept h)
theorem endPause_kept {p} (h : Kept r s) : Kept r (endPause s p) := by
  unfold endPause
  split
  · extract_lets x1; have h1 : Kept r x1 := (resumeAt_kept h); clear_value x1; exact (ite_kept h (State.modPart_kept h1))
  · exact (ite_kept h (State.modPart_kept h))
  · exact h
theorem inSession_kept {ix f} (h : Kept r s) (hf : ∀ s a, Kept r s → Kept r (f s a)) : Kept r (inSession s ix f) := by
  unfold inSession
  extract_lets x1
  clear_value x1
  exact (ite_kept (hf _ _ h) (spdmError_kept h))
theorem endSession_kept {fn} (h : Kept r s) : Kept r (endSession s fn) := by
  unfold endSession
  exact (spdm_kept h (fun s1 h1 => (inSession_kept h1 (fun s2 _ h2 => (respond_kept (closeSession_kept h2))))))
theorem enterRecovery_kept {env cause} (h : Kept r s) : Kept r (enterRecovery s env cause) := by
  unfold enterRecovery
  extract_lets x1 x2
  have h1 : Kept r x1 := (State.modSys_kept h (by dsimp only; first | decide | exact Kept.state (by assumption)))
  clear_value x1
  have h2 : Kept r x2 := (State.modPwr_kept h1)
  clear_value x2
  split
  · exact h2
  · exact (ite_kept h2 (State.modCxl_kept h2))
theorem exportComplete_kept {a} (h : Kept r s) : Kept r (exportComplete s a) := by
  unfold exportComplete
  split
  · exact h
  · exact (finish_kept (State.modCxl_kept h))
theorem exportRelease_kept {via a} (h : Kept r s) : Kept r (exportRelease s via a) := by
  unfold exportRelease
  exact (permitted_kept h (fun s1 h1 => (by extract_lets x1; clear_value x1; exact (ite_kept (answer_kept h1) (ite_kept (answer_kept h1) (answer_kept (dropArea_kept h1)))))))
theorem exportStart_kept {via c state} (h : Kept r s) : Kept r (exportStart s via c state) := by
  unfold exportStart
  exact (permitted_kept h (fun s1 h1 => (ite_kept (answer_kept h1) (ite_kept (mismatch_kept h1) (by split; (extract_lets x1; clear_value x1; exact (onPages_kept h1 (fun s2 h2 => (by extract_lets x2; clear_value x2; split; (next _ s3 e1 => have h3 := snd_kept (drawNonce_kept h2) e1; extract_lets x3; clear_value x3; split; exact (answer_kept h3); (next _ _ s4 e2 => have h4 := (makeArea_kept h3) e2; exact (State.modCxl_kept (accept_kept (fillPages_kept h4))))))))); (exact (answer_kept h1)))))))
theorem finishReq_kept {fn verify} (h : Kept r s) : Kept r (finishReq s fn verify) := by
  unfold finishReq
  extract_lets x1
  clear_value x1
  exact (spdm_kept h (fun s1 h1 => (by extract_lets x2; clear_value x2; exact (ite_kept (spdmError_kept h1) (ite_kept (spdmError_kept h1) (by split; (exact (spdmError_kept (State.modSage_kept' (modSession_kept h1) (fun _ => ⟨rfl, rfl⟩)))); (extract_lets x3 x4; clear_value x3; have h2 : Kept r x4 := (modSession_kept h1); clear_value x4; exact (respond_kept h2))))))))
theorem finishZero_kept (h : Kept r s) : Kept r (finishZero s) := by
  unfold finishZero
  split
  · exact h
  · exact (finish_kept (State.modSage_kept' h (fun _ => ⟨rfl, rfl⟩)))
theorem sendProposal_kept {n} (h : Kept r s) : Kept r (sendProposal s n) := by
  unfold sendProposal
  extract_lets x1 x2
  clear_value x1 x2
  exact (sendLink_kept (State.modPort_kept h))
theorem propose_kept {n} (h : Kept r s) : Kept r (propose s n) := by
  unfold propose
  extract_lets x1 x2 x3
  clear_value x1 x2
  have h1 : Kept r x3 := (State.modPort_kept h)
  clear_value x3
  exact (ite_kept (State.modPort_kept h) (ite_kept (State.modPort_kept h1) (ite_kept (startRekey_kept h1) (sendProposal_kept h1))))
theorem fnlModeWrite_kept {v c} (h : Kept r s) : Kept r (fnlModeWrite s v c) := by
  unfold fnlModeWrite
  extract_lets x1 x2 x3 x4
  clear_value x1 x2 x3
  have h1 : Kept r x4 := (Kept.mk' h h.scratch h.cim h.scales h.stack h.cache h.pages (Paired.of_ok _) h.state h.fuses h.tree)
  clear_value x4
  exact (ite_kept (pairBad_kept h) (foldl_kept (fun s1 _ h2 => (ite_kept h2 (propose_kept h2))) _ h1))
theorem fnlRekey_kept {mask} (h : Kept r s) : Kept r (fnlRekey s mask) := by
  unfold fnlRekey
  exact (foldl_kept (fun s1 _ h1 => (ite_kept (startRekey_kept h1) h1)) _ h)
theorem fnlRetrain_kept {mask} (h : Kept r s) : Kept r (fnlRetrain s mask) := by
  unfold fnlRetrain
  exact (foldl_kept (fun s1 _ h1 => (ite_kept (beginTraining_kept h1) h1)) _ h)
theorem moduleReset_kept {env cause} (h : Kept r s) : Kept r (moduleReset s env cause) := by
  unfold moduleReset
  extract_lets x1 x2 x3 x4
  have h1 : Kept r x1 := (State.modPwr_kept h)
  clear_value x1
  have h2 : Kept r x2 := (ite_kept (State.modSys_kept h1 (by dsimp only; first | decide | exact Kept.state (by assumption))) h1)
  clear_value x2
  have h3 : Kept r x3 := (State.modCxl_kept h2)
  clear_value x3
  have h4 : Kept r x4 := (foldl_kept (fun s1 _ h5 => (endJobNow_kept h5)) _ h3)
  clear_value x4
  exact (ite_kept h3 (discardIn_kept (State.modSys_kept (zeroise_kept h4) (by dsimp only; first | decide | exact Kept.state (by assumption)))))
theorem fwProgramComplete_kept {ok} (h : Kept r s) : Kept r (fwProgramComplete s ok) := by
  unfold fwProgramComplete
  extract_lets x1 x2 x3 x4
  clear_value x1 x2
  have h1 : Kept r x3 := (State.modSys_kept' h (by intro _; dsimp only; repeat' (first | rfl | split)))
  clear_value x3
  have h2 : Kept r x4 := (by subst x4; split; (exact h1); (exact (finish_kept h1)))
  clear_value x4
  exact (ite_kept h (by split; (exact h2); (exact (moduleReset_kept h2))))
theorem fwUpdate_kept {via first len} (h : Kept r s) : Kept r (fwUpdate s via first len) := by
  unfold fwUpdate
  extract_lets x1
  have h1 : ∀ a1, Kept r (x1 a1) := (fun _ => (answer_kept (State.modSys_kept' h (by intro _; dsimp only; repeat' (first | rfl | split)))))
  clear_value x1
  exact (ite_kept (denied_kept h) (ite_kept (answer_kept h) (by split; (exact (answer_kept h)); (exact (ite_kept (answer_kept h) (ite_kept (h1 _) (by split; (exact (h1 _)); (exact (onPages_kept h (fun s1 h2 => (by extract_lets x2; clear_value x2; exact (ite_kept (h1 _) (State.modSys_kept' (accept_kept h2) (by intro _; dsimp only; repeat' (first | rfl | split)))))))))))))))
theorem logAccess_kept {o off write kind} (h : Kept r s) : Kept r (logAccess s o off write kind) := by
  unfold logAccess
  exact (State.modSys_kept' h (by intro _; dsimp only; repeat' (first | rfl | split)))
theorem gate_kept {o off f} (h : Kept r s) (hf : ∀ s, Kept r s → Kept r (f s)) : Kept r (gate s o off f) := by
  unfold gate
  exact (ite_kept h (by split; (exact (logAccess_kept h)); (exact (hf _ h))))
theorem gatePair_kept {off comp f} (h : Kept r s) (hf : ∀ s, Kept r s → Kept r (f s)) : Kept r (gatePair s off comp f) := by
  unfold gatePair
  exact (ite_kept h (by split; (exact (logAccess_kept (logAccess_kept h))); (exact (hf _ (h.same rfl)))))
theorem markStale_kept {c} (h : Kept r s) : Kept r (markStale s c) := by
  unfold markStale
  exact (foldl_kept (fun s1 _ h1 => (by extract_lets x1; clear_value x1; exact (ite_kept (State.setCtx_kept h1) h1))) _ h)
theorem generate_kept {via c total maxNew stop params prompt} (h : Kept r s) : Kept r (generate s via c total maxNew stop params prompt) := by
  unfold generate
  exact (ctxCmd_kept h (onCtxs_kept h (fun s1 h1 => (by extract_lets x1 x2; clear_value x1 x2; exact (ite_kept (answer_kept h1) (by split; (exact (answer_kept (markStale_kept h1))); (exact (ite_kept (answer_kept h1) (by split; (exact (State.modPart_kept h1)); (exact h1))))))))))
theorem getCapabilities_kept {fn} (h : Kept r s) : Kept r (getCapabilities s fn) := by
  unfold getCapabilities
  exact (spdm_kept h (fun s1 h1 => (ite_kept (spdmError_kept h1) (respond_kept (modSession_kept h1)))))
theorem getCertificate_kept {fn slot} (h : Kept r s) : Kept r (getCertificate s fn slot) := by
  unfold getCertificate
  exact (spdm_kept h (fun s1 h1 => (ite_kept (spdmError_kept h1) (ite_kept (spdmError_kept h1) (respond_kept h1)))))
theorem getDigests_kept {fn} (h : Kept r s) : Kept r (getDigests s fn) := by
  unfold getDigests
  exact (spdm_kept h (fun s1 h1 => (ite_kept (spdmError_kept h1) (respond_kept h1))))
theorem getVersion_kept {fn} (h : Kept r s) : Kept r (getVersion s fn) := by
  unfold getVersion
  exact (spdm_kept h (fun s1 h1 => (by extract_lets x1; have h2 : Kept r x1 := (modSession_kept h1); clear_value x1; exact (respond_kept h2))))
theorem groupRail_kept {d g} (h : Kept r s) : Kept r (groupRail s d g) := by
  unfold groupRail
  extract_lets x1 x2 x3 x4 x5 x6 x7
  clear_value x1 x2 x5 x6
  have h1 : Kept r x3 := (State.modGroup_kept h)
  clear_value x3
  have h2 : Kept r x4 := (recordNow_kept h1)
  clear_value x4
  have h3 : Kept r x7 := (ite_kept (h2.same rfl) h2)
  clear_value x7
  split
  · exact (ite_kept (discardIn_kept (partitionReset_kept h3)) h3)
  · exact h3
theorem groupZeroised_kept {g} (h : Kept r s) : Kept r (groupZeroised s g) := by
  unfold groupZeroised
  extract_lets x1 x2 x3 x4
  clear_value x3
  have h1 : Kept r x1 := (zeroGroup_kept h)
  clear_value x1
  have h2 : Kept r x2 := (foldl_kept (fun s1 _ h3 => (State.modCore_kept h3)) _ h1)
  clear_value x2
  have h4 : Kept r x4 := (State.modGroup_kept h2)
  clear_value x4
  exact (ite_kept h (State.modPwr_kept h4))
theorem pipeWrite_kept {p v c} (h : Kept r s) : Kept r (pipeWrite s p v c) := by
  unfold pipeWrite
  exact (ite_kept (pairBad_kept h) (State.modPart_kept h))
theorem shadowWrite_kept {p off v c} (h : Kept r s) : Kept r (shadowWrite s p off v c) := by
  unfold shadowWrite
  exact (ite_kept (pairBad_kept h) (State.modPart_kept h))
theorem lendingEnable_kept {v c} (h : Kept r s) : Kept r (lendingEnable s v c) := by
  unfold lendingEnable
  exact (ite_kept (State.modGov_kept h) (pairBad_kept h))
theorem rstModule_kept {v c env} (h : Kept r s) : Kept r (rstModule s v c env) := by
  unfold rstModule
  extract_lets x1
  have h1 : Kept r x1 := (State.modPwr_kept h)
  clear_value x1
  exact (ite_kept (pairBad_kept h) (ite_kept h1 (ite_kept (State.modPwr_kept h1) (moduleReset_kept h1))))
theorem pairWrite_kept {off v c env} (h : Kept r s) : Kept r (pairWrite s off v c env) := by
  unfold pairWrite
  extract_lets x1
  clear_value x1
  exact (ite_kept (by split; (exact (pipeWrite_kept h)); (exact (buddyWrite15_kept h)); (exact (dpPair_kept h)); (exact (dpPorts_kept h)); (exact (shadowWrite_kept h))) (by split; (exact (lendingEnable_kept h)); (exact (commitRequest_kept h)); (exact (fnlModeWrite_kept h)); (exact (rstModule_kept h))))
theorem halfWrite_kept {off comp w env} (h : Kept r s) : Kept r (halfWrite s off comp w env) := by
  unfold halfWrite
  extract_lets x1 x2
  have h1 : Kept r x1 := (dropOrphans_kept h)
  clear_value x1
  have h2 : Kept r x2 := (State.modSys_kept' h1 (by intro _; dsimp only; repeat' (first | rfl | split)))
  clear_value x2
  split
  · exact (State.modSys_kept' h1 (by intro _; dsimp only; repeat' (first | rfl | split)))
  · exact (ite_kept (State.modSys_kept' h1 (by intro _; dsimp only; repeat' (first | rfl | split))) (ite_kept (pairWrite_kept h2) (pairWrite_kept h2)))
theorem haltCore_kept {c} (h : Kept r s) : Kept r (haltCore s c) := by
  unfold haltCore
  extract_lets x1 x2 x3
  clear_value x1 x2
  have h1 : Kept r x3 := (State.modCore_kept (State.advance_kept h))
  clear_value x3
  exact (ite_kept (coreFaultFree_kept h1) h)
theorem heartbeat_kept {fn} (h : Kept r s) : Kept r (heartbeat s fn) := by
  unfold heartbeat
  exact (spdm_kept h (fun s1 h1 => (inSession_kept h1 (fun s2 _ h2 => (respond_kept h2)))))
theorem heartbeatMissed_kept {fn} (h : Kept r s) : Kept r (heartbeatMissed s fn) := by
  unfold heartbeatMissed
  exact (ite_kept (closeSession_kept h) h)
theorem hostEntry_kept {vf q i} (h : Kept r s) : Kept r (hostEntry s vf q i).2 := draw_kept h
theorem hostEntries_kept {vf q tail} (h : Kept r s) : Kept r (hostEntries s vf q tail).2 := by
  unfold hostEntries
  refine foldl_snd_kept (fun x k hx => ?_) _ h
  exact draw_kept hx
theorem identIn_kept {n slot serial settled eng chain sig} (h : Kept r s) : Kept r (identIn s n slot serial settled eng chain sig) := by
  unfold identIn
  extract_lets x1
  have h1 : Kept r x1 := (State.modPort_kept h)
  clear_value x1
  exact (ite_kept (State.modPort_kept h) (ite_kept h (ite_kept (portDown_kept h) (ite_kept (portDown_kept h) (startRekey_kept (dropHigher_kept h1))))))
theorem startFail_kept {step unit cause} (h : Kept r s) : Kept r (startFail s step unit cause) := by
  unfold startFail
  extract_lets x1
  have h1 : Kept r x1 := (recordNow_kept h)
  clear_value x1
  exact (enterParsley_kept h1)
theorem step9_kept {env} (h : Kept r s) : Kept r (step9 s env) := by
  unfold step9
  extract_lets x1 x2
  have h1 : Kept r x1 := State.modPwr_kept (atStep9_kept h)
  clear_value x1
  have h2 : Kept r x2 := State.modSage_kept h1 (by dsimp only; split <;> have := h1.fuses <;> omega) h1.tree
  clear_value x2
  exact ite_kept (startFail_kept h1) (State.modSys_kept h2 (by dsimp only; split <;> decide))
theorem step8_kept {env} (h : Kept r s) : Kept r (step8 s env) := by
  unfold step8
  extract_lets x1 x2
  have h1 : Kept r x1 := (power_kept (atStep9_kept h))
  clear_value x1
  have h2 : Kept r x2 := (by subst x2; split; (exact h1); (exact (State.modCxl_kept h1)))
  clear_value x2
  exact (ite_kept (State.modPwr_kept h1) (step9_kept h2))
theorem settleAs_kept {m env} (h : Kept r s) : Kept r (settleAs s m env) := by
  unfold settleAs
  extract_lets x1 x2 x3 x4
  clear_value x1
  have h1 : Kept r x2 := (State.modGov_kept h)
  clear_value x2
  have h2 : Kept r x3 := (by subst x3; split; (exact h1); (extract_lets x5; have h3 : Kept r x5 := (State.modGov_kept h1); clear_value x5; exact (State.modPort_kept h3)))
  clear_value x3
  have h4 : Kept r x4 := (foldl_kept (fun s1 _ h5 => (by split; (exact h5); (exact (ite_kept (portDown_kept h5) h5)))) _ h2)
  clear_value x4
  exact (step8_kept h4)
theorem settle_kept {env} (h : Kept r s) : Kept r (settle s env) := by
  unfold settle
  extract_lets x1
  clear_value x1
  split
  · exact (ite_kept (settleAs_kept h) (settleAs_kept h))
  · exact (ite_kept (settleAs_kept h) (State.modPwr_kept h))
theorem identCmd_kept {n slot serial settled eng chain sig} (h : Kept r s) : Kept r (identCmd s n slot serial settled eng chain sig) := by
  unfold identCmd
  extract_lets x1
  have h1 : Kept r x1 := (identIn_kept h)
  clear_value x1
  split
  · exact h1
  · exact (ite_kept (settle_kept (State.modPwr_kept h1)) h1)
theorem intoSlot_kept {n p c slot off step bs last} (h : Kept r s) : Kept r (intoSlot s n p c slot off step bs last) := by
  unfold intoSlot
  extract_lets x1 x2 x3 x4
  clear_value x1 x2
  have h1 : ∀ a1, Kept r a1 → Kept r (x3 a1) := (fun s1 h2 => (Kept.mk' h2 (Memory.wf_bwrite _ _ _ h2.scratch) h2.cim h2.scales h2.stack h2.cache h2.pages h2.mode h2.state h2.fuses h2.tree))
  clear_value x3
  have h3 : Kept r x4 := (h1 _ h)
  clear_value x4
  split
  · exact h
  · exact (ite_kept (State.modPart_kept h3) h3)
  · exact (ite_kept (State.modPort_kept (landSlot_kept h3)) (State.modPort_kept h3))
theorem rejectPacket_kept {n k} (h : Kept r s) : Kept r (rejectPacket s n k) := by
  unfold rejectPacket
  exact (sendLink_kept (State.modPort_kept h))
theorem intoPlace_kept {n type k bs} (h : Kept r s) : Kept r (intoPlace s n type k bs) := by
  unfold intoPlace
  extract_lets x1 x2
  clear_value x1 x2
  split
  · exact (ite_kept (intoSlot_kept h) (rejectPacket_kept h))
  · split; (exact (rejectPacket_kept h)); (exact (intoSlot_kept h))
  · split; (exact (rejectPacket_kept h)); (exact (onPages_kept h (fun s1 h1 => (Kept.mk' h1 h1.scratch h1.cim h1.scales (Memory.wf_bwrite _ _ _ h1.stack) h1.cache h1.pages h1.mode h1.state h1.fuses h1.tree))))
theorem irqExpiry_kept {vf q} (h : Kept r s) : Kept r (irqExpiry s vf q) := by
  unfold irqExpiry
  extract_lets x1
  clear_value x1
  exact (ite_kept h (State.modQp_kept (State.advance_kept h)))
theorem issueEngine_kept {c h0 op} (h : Kept r s) : Kept r (issueEngine s c h0 op) := by
  unfold issueEngine
  extract_lets x1
  clear_value x1
  exact (ite_kept (issue_kept h) h)
theorem iterate_kept {c} (h : Kept r s) : Kept r (iterate s c) := by
  unfold iterate
  extract_lets x1
  clear_value x1
  exact (ite_kept (by split; (exact h); (extract_lets x2; clear_value x2; exact (ite_kept (State.setCore_kept h) (State.setCore_kept h)))) h)
theorem refuseAction_kept {p i} (h : Kept r s) : Kept r (refuseAction s p i) := by
  unfold refuseAction
  exact (State.modPart_kept h)
theorem jobAction_kept {via p ok i f} (h : Kept r s) (hf : ∀ s, Kept r s → Kept r (f s)) : Kept r (jobAction s via p ok i f) := by
  unfold jobAction
  exact (permitted_kept h (fun s1 h1 => (ite_kept (hf _ h1) (refuseAction_kept h1))))
theorem startImage_kept {p i t} (h : Kept r s) : Kept r (startImage s p i t) := by
  unfold startImage
  extract_lets x1 x2 x3
  clear_value x1 x2
  have h1 : Kept r x3 := (modList_kept h)
  clear_value x3
  exact (State.modPart_kept h1)
theorem restoreContext_kept {p i b r1} (h : Kept r s) : Kept r (restoreContext s p i b r1) := by
  unfold restoreContext
  split
  · exact h
  · exact (modList_kept h)
theorem jobResume_kept {p} (h : Kept r s) : Kept r (jobResume s p) := by
  unfold jobResume
  extract_lets x1
  clear_value x1
  split
  · extract_lets x2 x3 x4 x5 x6 x7; clear_value x2 x4 x5; have h1 : Kept r x3 := (State.modPart_kept (State.advance_kept h)); clear_value x3; have h2 : ∀ a1, Kept r a1 → Kept r (x6 a1) := (fun s1 h3 => (State.modPart_kept h3)); clear_value x6; have h4 : Kept r x7 := (foldl_kept (fun s2 _ h5 => (State.modCore_kept h5)) _ (h2 _ h1)); clear_value x7; exact (ite_kept h (ite_kept (refuseAction_kept (State.modPart_kept h)) (by split; (exact (startImage_kept h1)); (exact (ite_kept (State.modPart_kept (restoreContext_kept (h2 _ h1))) (State.modPart_kept h4))); (exact h1))))
  · exact h
theorem okAction_kept {p i} (h : Kept r s) : Kept r (okAction s p i) := by
  unfold okAction
  exact (State.modPart_kept h)
theorem jobStart_kept {via p i} (h : Kept r s) : Kept r (jobStart s via p i) := by
  unfold jobStart
  extract_lets x1
  clear_value x1
  exact (jobAction_kept h (fun s1 h1 => (by split; (exact (State.modPart_kept (okAction_kept h1))); (extract_lets x2; clear_value x2; exact (ite_kept (State.modPart_kept (okAction_kept h1)) (startImage_kept h1))))))
theorem jobStop_kept {via p i} (h : Kept r s) : Kept r (jobStop s via p i) := by
  unfold jobStop
  extract_lets x1
  clear_value x1
  exact (jobAction_kept h (fun s1 h1 => (ite_kept (by extract_lets x2; have h2 : Kept r x2 := (endWork_kept h1); clear_value x2; exact (State.modPart_kept h2)) (by extract_lets x3; have h3 : Kept r x3 := (markStop_kept (okAction_kept h1)); clear_value x3; exact (ite_kept (stopJob_kept h3) h3)))))
theorem requestYield_kept {p next} (h : Kept r s) : Kept r (requestYield s p next) := by
  unfold requestYield
  exact (State.modPart_kept h)
theorem jobSuspend_kept {via p i} (h : Kept r s) : Kept r (jobSuspend s via p i) := by
  unfold jobSuspend
  exact (jobAction_kept h (fun s1 h1 => (requestYield_kept (okAction_kept h1))))
theorem jobSwitch_kept {via p i} (h : Kept r s) : Kept r (jobSwitch s via p i) := by
  unfold jobSwitch
  extract_lets x1
  clear_value x1
  exact (jobAction_kept h (fun s1 h1 => (requestYield_kept (okAction_kept h1))))
theorem jobUnload_kept {via p i} (h : Kept r s) : Kept r (jobUnload s via p i) := by
  unfold jobUnload
  extract_lets x1
  clear_value x1
  exact (jobAction_kept h (fun s1 h1 => (dropImage_kept h1)))
theorem jobWrite_kept {p w} (h : Kept r s) : Kept r (jobWrite s p w) := by
  unfold jobWrite
  extract_lets x1
  clear_value x1
  split
  · exact (jobStart_kept h)
  · exact (jobSuspend_kept h)
  · exact (jobSwitch_kept h)
  · exact (jobStop_kept h)
  · exact (jobUnload_kept h)
  · exact h
theorem yielded_kept {p i b w pre r1} (h : Kept r s) : Kept r (yielded s p i b w pre r1) := by
  unfold yielded
  extract_lets x1
  have h1 : Kept r x1 := (modList_kept h)
  clear_value x1
  exact (State.modPart_kept h1)
theorem saveContexts_kept {p i} (h : Kept r s) : Kept r (saveContexts s p i) := by
  unfold saveContexts
  exact (modList_kept h)
theorem jobYield_kept {p} (h : Kept r s) : Kept r (jobYield s p) := by
  unfold jobYield
  extract_lets x1 x2
  clear_value x1 x2
  split
  · extract_lets x3 x4; clear_value x3 x4; exact (ite_kept (by split; (extract_lets x5; have h1 : Kept r x5 := (endJobNow_kept h); clear_value x5; exact (State.modPart_kept h1)); (exact (ite_kept (yielded_kept h) h))) (by split; (exact h); (extract_lets x6 x7; have h2 : Kept r x6 := (saveContexts_kept (State.advance_kept h)); clear_value x6; have h3 : Kept r x7 := (modList_kept h2); clear_value x7; exact (ite_kept (yielded_kept h2) (State.modPart_kept h3)))))
  · exact h
theorem keyPairs_kept {vf} (h : Kept r s) : Kept r (keyPairs s vf) := by
  unfold keyPairs
  extract_lets x1
  clear_value x1
  exact (foldl_kept (fun s1 _ h1 => (State.modQp_kept h1)) _ h)
theorem joinTenant_kept {vf t claim} (h : Kept r s) : Kept r (joinTenant s vf t claim) := by
  unfold joinTenant
  extract_lets x1
  have h1 : Kept r x1 := (modSession_kept h)
  clear_value x1
  exact (vendorRsp_kept (keyPairs_kept h1))
theorem kemCtIn_kept {n ct} (h : Kept r s) : Kept r (kemCtIn s n ct) := by
  unfold kemCtIn
  extract_lets x1 x2
  clear_value x1 x2
  split
  · exact h
  · extract_lets x3 x4; clear_value x3; have h1 : Kept r x4 := (State.modPort_kept h); clear_value x4; exact (sendLink_kept h1)
theorem kemKeyIn_kept {n key} (h : Kept r s) : Kept r (kemKeyIn s n key) := by
  unfold kemKeyIn
  exact (ite_kept h (by split; (next _ s1 e1 => have h1 := snd_kept (drawBits_kept h) e1; extract_lets x1; clear_value x1; split <;> (exact (sendLink_kept (State.modPort_kept h1))))))
theorem keyAtIn_kept {n tick} (h : Kept r s) : Kept r (keyAtIn s n tick) := by
  unfold keyAtIn
  exact (ite_kept h (State.modPort_kept h))
theorem keyExchange_kept {fn key} (h : Kept r s) : Kept r (keyExchange s fn key) := by
  unfold keyExchange
  extract_lets x1
  clear_value x1
  exact (spdm_kept h (fun s1 h1 => (by extract_lets x2; clear_value x2; exact (ite_kept (spdmError_kept h1) (ite_kept (spdmError_kept h1) (ite_kept (spdmError_kept h1) (ite_kept (spdmError_kept h1) (by split; (next _ s2 e1 => have h2 := snd_kept (drawBits_kept h1) e1; split <;> (split; (next _ s3 e2 => have h3 := snd_kept (signFor_kept h2) e2; exact (spdmError_kept h3)); (next _ s4 e3 => have h4 := snd_kept (signFor_kept h2) e3; extract_lets x3 x4 x5; clear_value x3 x4; have h5 : Kept r x5 := (modSession_kept h4); clear_value x5; exact (respond_kept h5))))))))))))
theorem keyUpdate_kept {fn} (h : Kept r s) : Kept r (keyUpdate s fn) := by
  unfold keyUpdate
  exact (spdm_kept h (fun s1 h1 => (inSession_kept h1 (fun s2 _ h2 => (respond_kept (modSession_kept h2))))))
theorem landElems_kept {core v codes} (h : Kept r s) : Kept r (landElems s core v codes) := by
  unfold landElems
  exact (foldl_kept (fun s1 _ h1 => (by extract_lets x1; clear_value x1; exact (applyWrite_kept h1))) _ h)
theorem latchTimeout_kept (h : Kept r s) : Kept r (latchTimeout s) := by
  unfold latchTimeout
  split
  · exact h
  · exact (dropOrphans_kept (State.advance_kept h))
theorem lateDropped_kept {p t} (h : Kept r s) : Kept r (lateDropped s p t) := by
  unfold lateDropped
  extract_lets x1
  clear_value x1
  exact (State.modPart_kept (complete_kept h))
theorem memEvent_kept {c p op m} (h : Kept r s) : Kept r (memEvent s c p op m) := by
  unfold memEvent
  extract_lets x1
  have h1 : Kept r x1 := (burstEvent_kept h)
  clear_value x1
  split
  · exact (burstEvent_kept h)
  · split; (exact (State.modMacro_kept h1)); (exact h1)
  · split; (exact (State.modMacro_kept h1)); (exact h1)
  · exact (State.modErr_kept h)
  · exact (partitionReset_kept (recordNext_kept h))
  · extract_lets x2 x3; clear_value x2; have h2 : Kept r x3 := (Kept.mk' h h.scratch h.cim h.scales h.stack (Memory.wf_bzero _ _ _ h.cache) h.pages h.mode h.state h.fuses h.tree); clear_value x3; exact (recordNext_kept h2)
theorem stopLaunch_kept {n st cause kill slots} (h : Kept r n.s) : Kept r (stopLaunch n st cause kill slots) := by
  unfold stopLaunch
  extract_lets x1 x2
  have h1 : Kept r x1 := (State.modCore_kept h)
  clear_value x1
  have h2 : Kept r x2 := (by subst x2; split; (split; (exact (ite_kept (State.modCore_kept h1) h1)); (exact h1)); (exact h1))
  clear_value x2
  exact (chvFault_kept (coreFaultFree_kept h2))
theorem runCopySlot_kept {n g recv} (h : Kept r n.s) : Kept r (runCopySlot n g recv) := by
  unfold runCopySlot
  split
  · extract_lets x1 x2; clear_value x1 x2; exact (onPages_kept h (fun s1 h1 => (commitPlan_kept (copyPage_kept h1))))
  · exact h
theorem touchLines_kept {ways gs} (h : Kept r s) : Kept r (touchLines s ways gs) := by
  unfold touchLines
  exact (foldl_kept (fun s1 _ h1 => (by split; (exact h1); (exact (h1.same rfl)))) _ h)
theorem residueTest_kept {c p v} (h : Kept r s) : Kept r (residueTest s c p v) := by
  unfold residueTest
  extract_lets x1 x2
  clear_value x1 x2
  split
  · exact h
  · extract_lets x3 x4 x5; have h1 : Kept r x3 := (State.modCore_kept h); clear_value x3; have h2 : Kept r x4 := (ite_kept h1 (recordNext_kept (State.modCore_kept h1))); clear_value x4; have h3 : Kept r x5 := (tileNumeric_kept h2); clear_value x5; exact (State.modGroup_kept h3)
theorem runLaunch_kept {n f mem} (h : Kept r n.s) : Kept r (runLaunch n f mem) := by
  unfold runLaunch
  extract_lets x1 x2 x3 x4 x5 x6 x7 x8 x9 x10
  clear_value x4 x6 x7 x9 x10
  have h1 : Kept r x1 := (touchLines_kept h)
  clear_value x1
  have h2 : Kept r x2 := (by subst x2; split; (exact h1); (exact (coreFault_kept h1)); (split; (next _ s1 e1 => have h3 := snd_kept (freeTime_kept h1) e1; exact (coreFault_kept h3))))
  clear_value x2
  have h4 : Kept r x3 := (ite_kept (chvFault_kept (coreFaultFree_kept h2)) h2)
  clear_value x3
  have h5 : Kept r x5 := (ite_kept (State.modCore_kept (coreFaultFree_kept h4)) h4)
  clear_value x5
  have h6 : Kept r x8 := (ite_kept (foldl_kept (fun s2 _ h7 => (ite_kept (residueTest_kept h7) h7)) _ h5) h5)
  clear_value x8
  exact (commitPlan_kept h6)
theorem launchAt_kept {c p e t mem} (h : Kept r s) : Kept r (launchAt s c p e t mem) := by
  unfold launchAt
  extract_lets x1 x2 x3 x4 x5 x6
  clear_value x4 x6
  have h1 : Kept r x1 := (settleCore_kept (State.advance_kept h))
  clear_value x1
  have h2 : Kept r x2 := (by subst x2; split; (exact h1); (exact (ite_kept (coreFault_kept h1) h1)))
  clear_value x2
  have h3 : Kept r x3 := (foldl_kept (fun s1 _ h4 => (memEvent_kept h4)) _ h2)
  clear_value x3
  have h5 : Kept r x5.s := h3
  clear_value x5
  exact (ite_kept h3 (by split; (exact (stopLaunch_kept h5)); (exact (ite_kept (stopLaunch_kept h5) (by split; (exact (runCopySlot_kept h5)); (split; (exact (mismatch_kept h3)); (exact (ite_kept (stopLaunch_kept h5) (ite_kept (stopLaunch_kept h5) (runLaunch_kept h5))))))))))
theorem launchQ_kept {c q mem} (h : Kept r s) : Kept r (launchQ s c q mem) := by
  unfold launchQ
  split
  · exact (launchAt_kept h)
  · exact h
theorem leaveJob_kept {p t} (h : Kept r s) : Kept r (leaveJob s p t) := by
  unfold leaveJob
  extract_lets x1 x2 x3
  clear_value x1
  have h1 : Kept r x2 := (foldl_kept (fun s1 _ h2 => (sendLink_kept h2)) _ h)
  clear_value x2
  have h3 : Kept r x3 := (State.modPart_kept h1)
  clear_value x3
  exact (endTrains_kept h3)
theorem leaveDeadline_kept {p} (h : Kept r s) : Kept r (leaveDeadline s p) := by
  unfold leaveDeadline
  split
  · exact (ite_kept h (leaveJob_kept (State.advance_kept h)))
  · exact h
theorem leaveIn_kept {n rank tag} (h : Kept r s) : Kept r (leaveIn s n rank tag) := by
  unfold leaveIn
  exact (foldl_kept (fun s1 _ h1 => (by extract_lets x1 x2; clear_value x1 x2; exact (ite_kept (State.modPart_kept h1) h1))) _ h)
theorem levelReqIn_kept {n level} (h : Kept r s) : Kept r (levelReqIn s n level) := by
  unfold levelReqIn
  exact (ite_kept h (decideLevel_kept (State.modGov_kept h)))
theorem levelSetIn_kept {n level tick} (h : Kept r s) : Kept r (levelSetIn s n level tick) := by
  unfold levelSetIn
  exact (ite_kept (State.modGov_kept h) h)
theorem lifeHour_kept {celsius} (h : Kept r s) : Kept r (lifeHour s celsius) := by
  unfold lifeHour
  extract_lets x1
  have h1 : Kept r x1 := (State.modErr_kept h)
  clear_value x1
  exact (ite_kept h (ite_kept (raiseAlert_kept h1) h1))
theorem linkDown_kept (h : Kept r s) : Kept r (linkDown s) := by
  unfold linkDown
  extract_lets x1 x2 x3
  clear_value x2
  have h1 : Kept r x1 := (recordNow_kept h)
  clear_value x1
  have h2 : Kept r x3 := (foldl_kept (fun s1 _ h3 => (closeSession_kept h3)) _ h1)
  clear_value x3
  exact (ite_kept h (State.modCxl_kept h2))
theorem linkKeySwitch_kept {n} (h : Kept r s) : Kept r (linkKeySwitch s n) := by
  unfold linkKeySwitch
  extract_lets x1
  clear_value x1
  split
  · extract_lets x2 x3; clear_value x3; have h1 : Kept r x2 := (State.modPort_kept (serveTo_kept (State.advance_kept h))); clear_value x2; exact (ite_kept (sendProposal_kept h1) h1)
  · split; (exact h); (exact (State.modPort_kept (State.advance_kept h)))
theorem linkModeSwitch_kept {n} (h : Kept r s) : Kept r (linkModeSwitch s n) := by
  unfold linkModeSwitch
  split
  · exact h
  · extract_lets x1; have h1 : Kept r x1 := (State.modPort_kept (serveTo_kept (State.advance_kept h))); clear_value x1; exact (ite_kept h (ite_kept h1 (propose_kept h1)))
theorem linkTrained_kept {c} (h : Kept r s) : Kept r (linkTrained s c) := by
  unfold linkTrained
  exact (ite_kept h (State.modCxl_kept h))
theorem refuseLoad_kept {via t reply} (h : Kept r s) : Kept r (refuseLoad s via t reply) := by
  unfold refuseLoad
  exact (finish_kept (putReply_kept (accept_kept h)))
theorem loadCmd_kept {via p i force first len reply} (h : Kept r s) : Kept r (loadCmd s via p i force first len reply) := by
  unfold loadCmd
  exact (permitted_kept h (fun s1 h1 => (by extract_lets x1 x2; clear_value x1 x2; exact (ite_kept (answer_kept h1) (ite_kept (answer_kept h1) (ite_kept (answer_kept h1) (by split; (exact (answer_kept h1)); (exact (onPages_kept h1 (fun s2 h2 => (by extract_lets x3 x4 x5; clear_value x3; have h3 : Kept r x4 := (ite_kept (markStop_kept h2) h2); clear_value x4; have h4 : Kept r x5 := (ite_kept (stopJob_kept h3) h3); clear_value x5; exact (ite_kept (refuseLoad_kept h2) (State.modPart_kept (accept_kept h4))))))))))))))
theorem loadComplete_kept {p} (h : Kept r s) : Kept r (loadComplete s p) := by
  unfold loadComplete
  split
  · exact h
  · extract_lets x1 x2 x3 x4; clear_value x1 x2; have h1 : Kept r x3 := (State.modPart_kept h); clear_value x3; have h2 : Kept r x4 := (putReply_kept h1); clear_value x4; exact (ite_kept h (finish_kept h2))
theorem takeRegions_kept {p ps} (h : Kept r s) : Kept r (takeRegions s p ps) := by
  unfold takeRegions
  exact (foldl_kept (fun s1 _ h1 => (setAttr_kept h1)) _ h)
theorem writeImage_kept {p i t newLayout guard recv} (h : Kept r s) : Kept r (writeImage s p i t newLayout guard recv) := by
  unfold writeImage
  extract_lets x1
  have h1 : Kept r x1 := (takeRegions_kept (dropImage_kept h))
  clear_value x1
  exact (State.modPart_kept (writeImageTables_kept h1))
theorem loadWindow_kept {p mem bad} (h : Kept r s) : Kept r (loadWindow s p mem bad) := by
  unfold loadWindow
  extract_lets x1
  clear_value x1
  split
  · exact h
  · refine ite_kept h (onPages_kept h fun s1 h1 => ?_)
    extract_lets x2 x3 x4
    have h2 : Kept r x2 := State.advance_kept (burstEvents_kept h1)
    clear_value x2
    have h3 : Kept r x3 := writeImage_kept h2
    have h4 : ∀ t, Kept r (x4 t) := fun t => State.modPart_kept h3
    clear_value x4
    refine ite_kept (endPause_kept (endLoad_kept h2)) ?_
    split
    · exact endPause_kept (h4 _)
    · exact endPause_kept (endLoad_kept (h4 _))
theorem loanGrantEnd_kept {p} (h : Kept r s) : Kept r (loanGrantEnd s p) := by
  unfold loanGrantEnd
  split
  · exact h
  · extract_lets x1; have h1 : Kept r x1 := (ite_kept (State.advance_kept h) h); clear_value x1; exact (State.modGov_kept h1)
theorem lockBreak_kept {n} (h : Kept r s) : Kept r (lockBreak s n) := by
  unfold lockBreak
  exact (ite_kept (breakLock_kept h) h)
theorem loopAt_kept {c h0 cnt last period} (h : Kept r s) : Kept r (loopAt s c h0 cnt last period) := by
  unfold loopAt
  extract_lets x1 x2 x3
  clear_value x1 x2 x3
  exact (ite_kept (haltCore_kept h) (issue_kept h))
theorem zeroiseCmd_kept {via} (h : Kept r s) : Kept r (zeroiseCmd s via) := by
  unfold zeroiseCmd
  exact (ite_kept (denied_kept h) (ite_kept (answer_kept h) (by split; (exact (answer_kept h)); (exact (State.modSage_kept' (clearOut_kept (accept_kept h)) (fun _ => ⟨rfl, rfl⟩))))))
theorem powerOff_kept {via} (h : Kept r s) : Kept r (powerOff s via) := by
  unfold powerOff
  extract_lets x1
  have h1 : Kept r x1 := (foldl_kept (fun s1 _ h2 => (markStop_kept h2)) _ (accept_kept h))
  clear_value x1
  exact (ite_kept (denied_kept h) (ite_kept (answer_kept h) (by split; (exact (answer_kept h)); (exact (State.modSage_kept' h1 (fun _ => ⟨rfl, rfl⟩))))))
theorem telemetry_kept {via page} (h : Kept r s) : Kept r (telemetry s via page) := by
  unfold telemetry
  exact (ite_kept (denied_kept h) (ite_kept (answer_kept h) (ite_kept (answer_kept h) (ite_kept (answer_kept h) (ite_kept (answer_kept h) (by split; (next _ s1 e1 => have h1 := snd_kept (draw_kept h) e1; exact (answerData_kept h1))))))))
theorem mgmtStart_kept (h : Kept r s) : Kept r (mgmtStart s) := by
  unfold mgmtStart
  extract_lets x1 x2 x3
  clear_value x1 x2
  have h1 : Kept r x3 := (answer_kept h)
  clear_value x3
  split
  · exact (ite_kept h1 (attest_kept h))
  · exact (zeroiseCmd_kept h)
  · exact (powerOff_kept h)
  · exact (ite_kept h1 (fwUpdate_kept h))
  · exact (telemetry_kept h)
  · exact (debugChallenge_kept h)
  · exact (ite_kept h1 (debugUnlock_kept h))
  · exact (ite_kept (denied_kept h) h1)
theorem mgmtGo_kept (h : Kept r s) : Kept r (mgmtGo s) := by
  unfold mgmtGo
  extract_lets x1
  have h1 : Kept r x1 := (State.modSys_kept' h (by intro _; dsimp only; repeat' (first | rfl | split)))
  clear_value x1
  exact (ite_kept (State.modSys_kept' h (by intro _; dsimp only; repeat' (first | rfl | split))) (ite_kept (answer_kept h1) (mgmtStart_kept h1)))
theorem mgmtWrite_kept {off w} (h : Kept r s) : Kept r (mgmtWrite s off w) := by
  unfold mgmtWrite
  exact (ite_kept (ite_kept (mgmtGo_kept h) h) (ite_kept h (ite_kept (State.modSys_kept' h (by intro _; dsimp only; repeat' (first | rfl | split))) (ite_kept (State.modSys_kept' h (by intro _; dsimp only; repeat' (first | rfl | split))) h))))
theorem recoveryData_kept {w} (h : Kept r s) : Kept r (recoveryData s w) := by
  unfold recoveryData
  exact (ite_kept h (State.modSys_kept' h (by intro _; dsimp only; repeat' (first | rfl | split))))
theorem ptnWrite_kept {p off w} (h : Kept r s) : Kept r (ptnWrite s p off w) := by
  unfold ptnWrite
  extract_lets x1 x2
  clear_value x1
  have h1 : Kept r x2 := (State.modPart_kept h)
  clear_value x2
  split
  · exact (State.modPart_kept h)
  · exact (State.modPart_kept h)
  · exact (ite_kept (auditPass_kept h1) h1)
  · exact (jobWrite_kept h)
  · exact (State.modPart_kept h)
  · exact (State.modPart_kept h)
  · exact h
theorem shareWrite_kept {n hi v} (h : Kept r s) : Kept r (shareWrite s n hi v) := by
  unfold shareWrite
  extract_lets x1 x2 x3
  exact (ite_kept (State.modPort_kept h) (State.modPort_kept (servePort_kept h)))
theorem recoveryCommit_kept (h : Kept r s) : Kept r (recoveryCommit s) := by
  unfold recoveryCommit
  extract_lets x1
  clear_value x1
  exact (ite_kept h (State.modSys_kept' h (by intro _; dsimp only; repeat' (first | rfl | split))))
theorem requestLevel_kept {l} (h : Kept r s) : Kept r (requestLevel s l) := by
  unfold requestLevel
  extract_lets x1
  have h1 : Kept r x1 := (State.modGov_kept h)
  clear_value x1
  exact (ite_kept (by split; (exact h1); (exact (sendLink_kept h1))) (decideLevel_kept h1))
theorem throttleFloor_kept {v} (h : Kept r s) : Kept r (throttleFloor s v) := by
  unfold throttleFloor
  extract_lets x1 x2
  clear_value x1
  have h1 : Kept r x2 := (State.modGov_kept h)
  clear_value x2
  exact (ite_kept (requestLevel_kept h1) h1)
theorem writeFields_kept {off w} (h : Kept r s) : Kept r (writeFields s off w) := by
  unfold writeFields
  extract_lets x1
  clear_value x1
  exact (ite_kept (ptnWrite_kept h) (ite_kept (State.modPart_kept h) (ite_kept (ite_kept (shareWrite_kept h) (ite_kept (shareWrite_kept h) h)) (by split; (exact (ite_kept (recoveryCommit_kept h) h)); (exact (State.modSys_kept' h (by intro _; dsimp only; repeat' (first | rfl | split)))); (exact (recoveryData_kept h)); (exact (throttleFloor_kept h)); (exact (h.same rfl)); (exact (fnlRekey_kept h)); (exact (fnlRetrain_kept h)); (exact (State.modMem_kept h)); (exact (domainSwitch_kept h)); (exact (State.modErr_kept h)); (exact (State.modErr_kept h)); (exact h)))))
theorem writeWord_kept {off w env} (h : Kept r s) : Kept r (writeWord s off w env) := by
  unfold writeWord
  extract_lets x1
  have h1 : Kept r x1 := (clearW1c_kept h)
  clear_value x1
  split
  · exact (bayWrite_kept h)
  · exact (ite_kept (mgmtWrite_kept h) (ite_kept (recoveryData_kept h) (by split; (exact (halfWrite_kept h)); (exact (ite_kept h1 (writeFields_kept h1))))))
theorem writeChecked_kept {o off w env} (h : Kept r s) : Kept r (writeChecked s o off w env) := by
  unfold writeChecked
  split
  · exact (logAccess_kept h)
  · exact (writeWord_kept h)
theorem mgmtTransfer_kept {off data env} (h : Kept r s) : Kept r (mgmtTransfer s off data env) := by
  unfold mgmtTransfer
  exact (foldl_kept (fun s1 _ h1 => (writeChecked_kept h1)) _ h)
theorem mintEvaluation_kept {g} (h : Kept r s) : Kept r (mintEvaluation s g) := by
  unfold mintEvaluation
  extract_lets x1 x2
  clear_value x2
  have h1 : Kept r x1 := (State.modGroup_kept h)
  clear_value x1
  split
  · extract_lets x3; have h2 : Kept r x3 := (State.modCore_kept h1); clear_value x3; split <;> (extract_lets x4 x5; clear_value x5; have h3 : Kept r x4 := (State.modPart_kept h2); clear_value x4; exact (ite_kept (foldl_kept (fun s1 _ h4 => (giveAdvisory_kept h4)) _ h3) h3))
  · exact (State.modGroup_kept h)
  · exact h
theorem modeAcceptIn_kept {n} (h : Kept r s) : Kept r (modeAcceptIn s n) := by
  unfold modeAcceptIn
  exact (State.modPort_kept h)
theorem modeProposeIn_kept {n mode tick} (h : Kept r s) : Kept r (modeProposeIn s n mode tick) := by
  unfold modeProposeIn
  extract_lets x1 x2 x3
  clear_value x1
  have h1 : Kept r x2 := (State.modPort_kept h)
  clear_value x2
  exact (ite_kept h (ite_kept (mismatch_kept h) (ite_kept (sendLink_kept (State.modPort_kept h1)) (sendLink_kept (State.modPort_kept h1)))))
theorem msixWrite_kept {o off w} (h : Kept r s) : Kept r (msixWrite s o off w) := by
  unfold msixWrite
  exact (ite_kept (State.modCxl_kept h) h)
theorem negotiate_kept {fn baseHash sig kex aead} (h : Kept r s) : Kept r (negotiate s fn baseHash sig kex aead) := by
  unfold negotiate
  exact (spdm_kept h (fun s1 h1 => (ite_kept (spdmError_kept h1) (ite_kept (spdmError_kept h1) (respond_kept (modSession_kept h1))))))
theorem nextReleases_kept {p} (h : Kept r s) : Kept r (nextReleases s p) := by
  unfold nextReleases
  exact (foldl_kept (fun s1 _ h1 => (ite_kept (State.modPart_kept h1) h1)) _ h)
theorem openCkpt_kept {p} (h : Kept r s) : Kept r (openCkpt s p) := by
  unfold openCkpt
  extract_lets x1 x2 x3 x4
  clear_value x1 x2 x3
  have h1 : Kept r x4 := (foldl_kept (fun s1 _ h2 => (State.setPage_kept h2 (Paired.of_ok _))) _ h)
  clear_value x4
  exact (ite_kept (State.modPart_kept h) (State.modPart_kept h1))
theorem takePacket_kept {n type k} (h : Kept r s) : Kept r (takePacket s n type k) := by
  unfold takePacket
  extract_lets x1 x2
  have h1 : Kept r x1 := (State.modPort_kept h)
  clear_value x1
  have h2 : Kept r x2 := (ite_kept (State.modPort_kept h1) h1)
  clear_value x2
  split
  · exact (portDown_kept h1)
  · exact (ite_kept (mismatch_kept h2) (ite_kept (rejectPacket_kept h2) (intoPlace_kept h2)))
theorem takeHeld_kept {n} : ∀ {fuel} {s : State}, Kept r s → Kept r (takeHeld n fuel s) := by
  intro fuel
  induction fuel with
  | zero => intro s h; exact h
  | succ f ih =>
    intro s h
    rw [takeHeld]
    split
    · exact h
    · exact ih (takePacket_kept (State.modPort_kept h))
theorem packetIn_kept {n type k} (h : Kept r s) : Kept r (packetIn s n type k) := by
  unfold packetIn
  extract_lets x1 x2 x3
  have h2 : Kept r x2 := (State.setPort_kept h)
  clear_value x1 x2
  have h3 : Kept r x3 := (State.modPort_kept h2)
  clear_value x3
  exact (ite_kept h (ite_kept (sendFirst_kept h3) (ite_kept h2 (ite_kept (takePacket_kept h2) (ite_kept (takeHeld_kept (State.modPort_kept h2)) h2)))))
theorem packetNak_kept {n seq} (h : Kept r s) : Kept r (packetNak s n seq) := by
  unfold packetNak
  extract_lets x1
  clear_value x1
  split
  · exact h
  · exact (ite_kept (portDown_kept h) (State.modPort_kept (servePort_kept h)))
theorem perBootTreeCertify_kept (h : Kept r s) : Kept r (perBootTreeCertify s) := by
  unfold perBootTreeCertify
  split
  · exact h
  · next hc =>
    split
    · exact certify_kept h (by simp only [Bool.or_eq_true, Bool.not_eq_true', not_or] at hc; simpa using hc.2)
    · exact sensorEvent_kept h
theorem perstAssert_kept {env} (h : Kept r s) : Kept r (perstAssert s env) := by
  unfold perstAssert
  extract_lets x1
  have h1 : Kept r x1 := (foldl_kept (fun s1 _ h2 => (disableBox_kept h2)) _ (State.modPwr_kept h))
  clear_value x1
  exact (ite_kept h (ite_kept h1 (moduleReset_kept h1)))
theorem perstDeassert_kept {link} (h : Kept r s) : Kept r (perstDeassert s link) := by
  unfold perstDeassert
  extract_lets x1
  have h1 : Kept r x1 := (State.modPwr_kept h)
  clear_value x1
  split
  · exact h1
  · exact (step8_kept (State.modPwr_kept h1))
theorem pf0Flr_kept (h : Kept r s) : Kept r (pf0Flr s) := by
  unfold pf0Flr
  extract_lets x1
  have h1 : Kept r x1 := (State.modCxl_kept (breakLocksOf_kept h))
  clear_value x1
  exact (discardIn_kept h1)
theorem pipeApply_kept {p} (h : Kept r s) : Kept r (pipeApply s p) := by
  unfold pipeApply
  extract_lets x1 x2 x3 x4 x5 x6 x7 x8 x9
  clear_value x1 x2 x3 x4 x5 x6 x7
  have h1 : Kept r x8 := (ite_kept (sendLink_kept h) h)
  clear_value x8
  have h2 : Kept r x9 := (ite_kept (sendLink_kept h1) h1)
  clear_value x9
  exact (ite_kept (mismatch_kept h) (ite_kept h (State.modPart_kept h2)))
theorem portUp_kept {i} (h : Kept r s) : Kept r (portUp s i) := by
  unfold portUp
  extract_lets x1 x2
  clear_value x1 x2
  exact (ite_kept h (ite_kept (portDown_kept h) (ite_kept (portDown_kept h) (ite_kept (portDown_kept h) (ite_kept (portDown_kept h) (by split; (next _ s1 e1 => have h1 := snd_kept (drawBits_kept h) e1; extract_lets x3 x4 x5 x6 x7; clear_value x3 x4 x5; have h2 : Kept r x6 := (State.setPort_kept h1); clear_value x6; have h3 : Kept r x7 := (ite_kept (State.modGov_kept h2) h2); clear_value x7; exact (propose_kept (dropHigher_kept h3)))))))))
theorem postRegs_kept {p t vs} (h : Kept r s) : Kept r (postRegs s p t vs) := by
  unfold postRegs
  exact (modList_kept h)
theorem writeTables_kept {p base bs} (h : Kept r s) : Kept r (writeTables s p base bs) := by
  unfold writeTables
  exact (foldl_kept (fun s1 _ h1 => (Kept.mk' h1 (Memory.wf_bwrite _ _ _ h1.scratch) h1.cim h1.scales h1.stack h1.cache h1.pages h1.mode h1.state h1.fuses h1.tree)) _ h)
theorem postSegment_kept {p x j seg at_} (h : Kept r s) : Kept r (postSegment s p x j seg at_).1 := by
  unfold postSegment
  extract_lets q bs rows tabs t s1
  have h1 : Kept r s1 := writeTables_kept h
  clear_value s1
  split
  next e =>
  have h2 := snd_kept (askGrant_kept h1) e
  exact postRegs_kept (noteServed_kept h2)
theorem stampSlots_kept {ls t} (h : Kept r s) : Kept r (stampSlots s ls t) := by
  unfold stampSlots
  exact (foldl_kept (fun s1 _ h1 => (State.modCore_kept h1)) _ h)
theorem postSeg1_kept {p x t} (h : Kept r s) : Kept r (postSeg1 s p x t) := by
  unfold postSeg1
  extract_lets q hv s1 t' s2
  have h1 : Kept r s1 := askTeacher_kept h
  clear_value s1
  have h2 : Kept r s2 := State.modPart_kept h1
  clear_value s2
  refine ite_kept h (ite_kept h2 (onPages_kept h2 (fun s hs => ?_)))
  split
  · exact endTrains_kept hs
  · next s3 e =>
    have h3 : Kept r s3 := by
      split at e
      · cases e; exact hs
      · exact beginState_kept hs e
    split
    next e4 =>
    have h4 := snd_kept (draw_kept h3) e4
    extract_lets s0 at_ t'' lanes
    refine ite_kept (State.modPart_kept h4) ?_
    split
    next e5 =>
    have h5 := fst_kept (postSegment_kept h4) e5
    extract_lets s6 s7 opened t3 s8 nx all s9
    have h6 : Kept r s6 := stampSlots_kept h5
    clear_value s6
    have h7 : Kept r s7 := ite_kept (openCkpt_kept h6) h6
    clear_value s7
    have h8 : Kept r s8 := State.modPart_kept h7
    clear_value s8
    have h9 : Kept r s9 := askTeacher_kept h8
    clear_value s9
    exact ite_kept h8 (ite_kept (State.modPart_kept h9) h8)
theorem postSeg2_kept {p x t} (h : Kept r s) : Kept r (postSeg2 s p x t) := by
  unfold postSeg2
  extract_lets x1 x2 x3 x4
  clear_value x1 x2 x3 x4
  exact (ite_kept (by split; (next s1 _ e1 => have h1 := fst_kept (postSegment_kept h) e1; exact (State.modPart_kept h1))) (ite_kept (ite_kept h (by split; (next s2 _ e2 => have h2 := fst_kept (postSegment_kept h) e2; extract_lets x5 x6; have h3 : Kept r x5 := (stampSlots_kept (stampSlots_kept h2)); clear_value x5; have h4 : Kept r x6 := (State.modPart_kept h3); clear_value x6; exact (ite_kept (lateDropped_kept h4) h4)))) (ite_kept h (ite_kept (leaveJob_kept h) (by split; (next s3 _ e3 => have h5 := fst_kept (postSegment_kept h) e3; extract_lets x7 x8; have h6 : Kept r x7 := (stampSlots_kept h5); clear_value x7; have h7 : Kept r x8 := (ite_kept (lateDropped_kept h6) h6); clear_value x8; exact (State.modPart_kept h7)))))))
theorem powerGoodLoss_kept (h : Kept r s) : Kept r (powerGoodLoss s) := by
  unfold powerGoodLoss
  exact (ite_kept h (discardIn_kept (State.modPwr_kept (State.cold_kept h))))
theorem step7_kept {env} (h : Kept r s) : Kept r (step7 s env) := by
  unfold step7
  extract_lets x1 x2
  have h1 : Kept r x1 := (power_kept (atStep9_kept h))
  clear_value x1
  have h2 : Kept r x2 := (foldl_kept (fun s1 _ h3 => (beginTraining_kept h3)) _ h1)
  clear_value x2
  exact (settle_kept (foldl_kept (fun s2 _ h4 => (portUp_kept h4)) _ h2))
theorem step6_kept {env} (h : Kept r s) : Kept r (step6 s env) := by
  unfold step6
  extract_lets x1 x2 x3 x4
  clear_value x2 x3
  have h1 : Kept r x1 := (power_kept (atStep9_kept h))
  clear_value x1
  have h2 : Kept r x4 := (h1.same rfl)
  clear_value x4
  exact (ite_kept (startFail_kept h2) (ite_kept (startFail_kept h2) (step7_kept (power_kept h2))))
theorem step5_kept {env} (h : Kept r s) : Kept r (step5 s env) := by
  unfold step5
  extract_lets x1
  have h1 : Kept r x1 := (power_kept (atStep9_kept h))
  clear_value x1
  split
  · exact (startFail_kept h1)
  · exact (step6_kept (Kept.mk' h1 h1.scratch h1.cim h1.scales Memory.wf_nil h1.cache pages_nil h1.mode h1.state h1.fuses h1.tree))
theorem step4_kept {env} (h : Kept r s) : Kept r (step4 s env) := by
  unfold step4
  extract_lets x1 x2
  have h1 : Kept r x1 := (atStep9_kept h)
  clear_value x1
  have h2 : Kept r x2 := (State.modGov_kept h1)
  clear_value x2
  exact (ite_kept (startFail_kept h1) (step5_kept (State.modPwr_kept h2)))
theorem step3_kept {env} (h : Kept r s) : Kept r (step3 s env) := by
  unfold step3
  extract_lets x1 x2
  have h1 : Kept r x1 := atStep9_kept h
  clear_value x1
  have h2 : Kept r x2 := power_kept h1
  clear_value x2
  refine ite_kept (startFail_kept h1) ?_
  split
  · exact step4_kept h2
  · next ht =>
    refine ite_kept (step4_kept (certify_kept h2 ?_)) (sensorEvent_kept h2)
    simpa using ht
theorem step2_kept {env} (h : Kept r s) : Kept r (step2 s env) := by
  unfold step2
  extract_lets x1 x2
  clear_value x2
  have h1 : Kept r x1 := (atStep9_kept h)
  clear_value x1
  exact (ite_kept (sensorEvent_kept h1) (ite_kept (enterRecovery_kept h1) (step3_kept (State.modSage_kept' h1 (fun _ => ⟨rfl, rfl⟩)))))
theorem powerGoodRise_kept {env} (h : Kept r s) : Kept r (powerGoodRise s env) := by
  unfold powerGoodRise
  extract_lets x1 x2 x3
  have h1 : Kept r x1 := (State.cold_kept h)
  clear_value x1
  have h2 : Kept r x2 := (State.modPwr_kept h1)
  clear_value x2
  have h3 : Kept r x3 := (atStep9_kept (State.modGov_kept h2))
  clear_value x3
  exact (ite_kept h (ite_kept (sensorEvent_kept h3) (step2_kept h3)))
theorem presence_kept {p} (h : Kept r s) : Kept r (presence s p) := by
  unfold presence
  extract_lets x1 x2 x3
  clear_value x1 x2 x3
  split
  · extract_lets x4 x5 x6 x7 x8 x9 x10 x11; clear_value x5 x6 x7 x8 x9 x10 x11; have h1 : Kept r x4 := (State.advance_kept h); clear_value x4; exact (ite_kept h (State.modPart_kept h1))
  · exact h
theorem vfRequest_kept {vf f} (h : Kept r s) (hf : ∀ s a b, Kept r s → Kept r (f s a b)) : Kept r (vfRequest s vf f) := by
  unfold vfRequest
  exact (spdm_kept h (fun s1 h1 => (inSession_kept h1 (fun s2 _ h2 => (ite_kept (mismatch_kept h2) (hf _ _ _ h2))))))
theorem qrekey_kept {vf q} (h : Kept r s) : Kept r (qrekey s vf q) := by
  unfold qrekey
  exact (vfRequest_kept h (fun s1 _ _ h1 => (by extract_lets x1 x2; clear_value x1; have h2 : Kept r x2 := (State.modQp_kept h1); clear_value x2; exact (ite_kept (vendorRsp_kept (State.modSage_kept' h1 (fun _ => ⟨rfl, rfl⟩))) (ite_kept (vendorRsp_kept h1) (vendorRsp_kept h2))))))
theorem queueEnable_kept {vf q v} (h : Kept r s) : Kept r (queueEnable s vf q v) := by
  unfold queueEnable
  extract_lets x1 x2
  clear_value x1
  have h1 : Kept r x2 := (State.modQp_kept h)
  clear_value x2
  exact (ite_kept (endVfWork_kept (State.modQp_kept h1)) (ite_kept (State.modQp_kept h1) h1))
theorem railFault_kept {d} (h : Kept r s) : Kept r (railFault s d) := by
  unfold railFault
  extract_lets x1 x2 x3
  have h1 : Kept r x1 := (State.modPwr_kept h)
  clear_value x1
  have h2 : Kept r x2 := (power_kept h1)
  clear_value x2
  have h3 : Kept r x3 := (recordNow_kept h2)
  clear_value x3
  exact (ite_kept h (ite_kept (sensorEvent_kept h1) (ite_kept (enterParsley_kept (discardIn_kept h3)) (ite_kept (groupRail_kept h2) (ite_kept (portsOff_kept h2) (ite_kept (portsOff_kept h2) (linkDown_kept h2)))))))
theorem shown_kept (h : Kept r s) : Kept r (shown s) := by
  unfold shown
  exact (ite_kept (State.warm_kept h) h)
theorem readWord_kept {o off} (h : Kept r s) : Kept r (readWord s o off).1 := by
  unfold readWord
  split
  · exact bayRead_kept h
  · extract_lets v s1
    have h1 : Kept r s1 := ite_kept h (clearRc_kept h)
    clear_value s1
    split
    · exact h1.same rfl
    · split
      · split
        · exact h1
        · exact h1.same rfl
      · exact h1
theorem readChecked_kept {o off} (h : Kept r s) : Kept r ((readChecked s o off).1) := by
  unfold readChecked
  split <;> first | exact (logAccess_kept h) | exact (readWord_kept h)
theorem endpointRead_kept {ep off} (h : Kept r s) : Kept r ((endpointRead s ep off).1) := by
  unfold endpointRead
  split <;> first | exact bayRead_kept h | exact h
theorem endpointWrite_kept {ep off w} (h : Kept r s) : Kept r (endpointWrite s ep off w) := by
  unfold endpointWrite
  split
  · exact bayWrite_kept h
  · exact ite_kept (h.same rfl) h
theorem readOne_kept {o off} (h : Kept r s) : Kept r ((readOne s o off).1) := by
  unfold readOne
  split <;> first | exact h | exact (endpointRead_kept h) | exact (readChecked_kept h)
theorem recoveryProgramComplete_kept {ok env} (h : Kept r s) : Kept r (recoveryProgramComplete s ok env) := by
  unfold recoveryProgramComplete
  extract_lets x1
  have h1 : Kept r x1 := (State.modSys_kept' h (by intro _; dsimp only; repeat' (first | rfl | split)))
  clear_value x1
  exact (ite_kept h (ite_kept (moduleReset_kept h1) h1))
theorem referenceLoss_kept (h : Kept r s) : Kept r (referenceLoss s) := by
  unfold referenceLoss
  exact (ite_kept (clockLoss_kept h) h)
theorem registerRead_kept {o off width} (h : Kept r s) : Kept r (registerRead s o off width) := by
  unfold registerRead
  extract_lets x1 x2
  clear_value x2
  have h1 : Kept r x1 := (logAccess_kept h)
  clear_value x1
  exact (ite_kept (h.same rfl) (ite_kept (h1.same rfl) (by split; (next s1 _ e1 => have h2 := fst_kept (readOne_kept h) e1; exact (ite_kept (by split; (next s2 _ e2 => have h3 := fst_kept (readOne_kept h2) e2; exact (h3.same rfl))) (h2.same rfl))))))
theorem tagFailure_kept {vf q} (h : Kept r s) : Kept r (tagFailure s vf q) := by
  unfold tagFailure
  extract_lets x1 x2 x3
  have h1 : Kept r x1 := (State.modQp_kept (State.modSage_kept' h (fun _ => ⟨rfl, rfl⟩)))
  clear_value x1
  have h2 : Kept r x2 := (State.modQp_kept h1)
  clear_value x2
  have h3 : Kept r x3 := (recordNow_kept h2)
  clear_value x3
  exact (ite_kept h1 (endVfWork_kept h3))
theorem openRecords_kept {vf q ctx} : ∀ {rs left} {s : State}, Kept r s → Kept r (openRecords vf q ctx left rs s).2 := by
  intro rs
  induction rs with
  | nil => intro left s h; exact h
  | cons x rs ih =>
    intro left s h
    rw [openRecords]
    dsimp only
    split
    · exact tagFailure_kept h
    · have h1 : Kept r (s.modQp vf q fun p => { p with recIn := p.recIn + 1, tagFails := 0 }) := State.modQp_kept h
      have h2 := ih (left := left - min left 4096) h1
      split
      · next e => exact snd_kept h2 e
      · next e => exact snd_kept h2 e
theorem train_kept {via f} (h : Kept r s) : Kept r (train s via f) := by
  unfold train
  extract_lets x1 x2 x3 x4
  clear_value x1 x2 x3
  have h1 : ∀ a1, Kept r (x4 a1) := (fun _ => (answer_kept h))
  clear_value x4
  exact (ctxCmd_kept h (ite_kept (h1 _) (ite_kept (h1 _) (ite_kept (h1 _) (ite_kept (h1 _) (by split; (extract_lets x5; clear_value x5; exact (State.modPart_kept h)); (exact h)))))))
theorem trainData_kept {via c tag j tokens} (h : Kept r s) : Kept r (trainData s via c tag j tokens) := by
  unfold trainData
  extract_lets x1 x2 x3
  clear_value x1 x2 x3
  exact (ctxCmd_kept h (by split; (exact (answer_kept h)); (exact (ite_kept (answer_kept h) (by split; (extract_lets x4; clear_value x4; exact (State.modPart_kept h)); (exact h))))))
theorem runRequest_kept {via cmd c b recs} (h : Kept r s) : Kept r (runRequest s via cmd c b recs) := by
  unfold runRequest
  split
  · exact (generate_kept h)
  · exact (cancel_kept h)
  · exact (train_kept h)
  · exact (trainData_kept h)
  · exact (ctxCommand_kept h)
theorem pairUntranslated_kept {vf q} (h : Kept r s) : Kept r (pairUntranslated s vf q) := by
  unfold pairUntranslated
  exact (endVfWork_kept (modPair_kept h))
theorem takeRequest_kept {vf q htag records slot recs b} (h : Kept r s) : Kept r (takeRequest s vf q htag records slot recs b) := by
  unfold takeRequest
  extract_lets x1 x2 x3 x4 x5
  clear_value x1 x2 x3 x4 x5
  exact (ite_kept (answer_kept h) (ite_kept (answer_kept h) (ite_kept (answer_kept (pairUntranslated_kept h)) (by split; (next s1 e1 => have h1 := snd_kept (openRecords_kept h) e1; exact (answer_kept h1)); (next _ s2 e2 => have h2 := snd_kept (openRecords_kept h) e2; exact (runRequest_kept h2))))))
theorem takeEntry_kept {vf q e} (h : Kept r s) : Kept r (takeEntry s vf q e) := by
  unfold takeEntry
  extract_lets x1 x2 x3 x4 x5 x6
  clear_value x1 x2 x4
  have h1 : Kept r x3 := (touchAts_kept h)
  clear_value x3
  have h2 : Kept r x5 := (State.modQp_kept h1)
  clear_value x5
  have h3 : Kept r x6 := (State.modQp_kept h2)
  clear_value x6
  exact (ite_kept h (ite_kept (pairUntranslated_kept h) (ite_kept (answer_kept h2) (by split; (exact (tagFailure_kept (answer_kept h2))); (exact (takeRequest_kept h3))))))
theorem sqDoorbell_kept {vf q tail es} (h : Kept r s) : Kept r (sqDoorbell s vf q tail es) := by
  unfold sqDoorbell
  extract_lets x1 x2
  clear_value x1 x2
  exact (ite_kept h (ite_kept (State.modQp_kept h) (foldl_kept (fun s1 _ h1 => (takeEntry_kept h1)) _ (State.modQp_kept h))))
theorem vfWriteWord_kept {vf off w} (h : Kept r s) : Kept r (vfWriteWord s vf off w) := by
  unfold vfWriteWord
  extract_lets x1 x2 x3
  clear_value x1 x2 x3
  exact (dite_kept (fun _ => (by extract_lets x4 x5; clear_value x4; have h1 : ∀ a1, Kept r (x5 a1) := (fun _ => (ite_kept h (State.modQp_kept h))); clear_value x5; split; (exact (h1 _)); (exact (h1 _)); (exact (h1 _)); (exact (h1 _)); (exact (h1 _)); (exact (h1 _)); (exact (h1 _)); (exact (h1 _)); (exact (h1 _)); (exact (queueEnable_kept h)); (exact (ite_kept (State.modQp_kept h) h)); (split; (next _ s1 e1 => have h2 := snd_kept (hostEntries_kept h) e1; exact (sqDoorbell_kept (ite_kept h h2)))); (exact (cqHeadWrite_kept h)); (exact (d2hHeadWrite_kept h)); (exact h))) (fun _ => h))
theorem writeOne_kept {o off w env} (h : Kept r s) : Kept r (writeOne s o off w env) := by
  unfold writeOne
  split
  · exact (vfWriteWord_kept h)
  · exact (msixWrite_kept h)
  · exact (msixWrite_kept h)
  · exact (endpointWrite_kept h)
  · exact (writeChecked_kept h)
theorem windowWords_kept {o off data env} (h : Kept r s) : Kept r (windowWords s o off data env) := by
  unfold windowWords
  exact (foldl_kept (fun s1 _ h1 => (writeOne_kept h1)) _ h)
theorem writeTwo_kept {o off a b env} (h : Kept r s) : Kept r (writeTwo s o off a b env) := by
  unfold writeTwo
  exact (ite_kept (pairWrite_kept ((dropOrphans_kept h).same rfl)) (writeOne_kept (writeOne_kept h)))
theorem registerWrite_kept {o off data env} (h : Kept r s) : Kept r (registerWrite s o off data env) := by
  unfold registerWrite
  extract_lets x1
  clear_value x1
  exact (ite_kept h (ite_kept (windowWords_kept h) (ite_kept (mgmtTransfer_kept h) (ite_kept (logAccess_kept h) (ite_kept (writeTwo_kept h) (writeOne_kept h))))))
theorem holderLost_kept {p} (h : Kept r s) : Kept r (holderLost s p) := by
  unfold holderLost
  exact (State.modPart_kept (abandonCkpt_kept h))
theorem rejectIn_kept {n seq} (h : Kept r s) : Kept r (rejectIn s n seq) := by
  unfold rejectIn
  split
  · exact h
  · extract_lets x1 x2; clear_value x1; have h1 : Kept r x2 := (dropWaiting_kept h); clear_value x2; exact (ite_kept (holderLost_kept h1) (killXsends_kept h1))
theorem releaseCmd_kept {via p} (h : Kept r s) : Kept r (releaseCmd s via p) := by
  unfold releaseCmd
  exact (permitted_kept h (fun s1 h1 => (by extract_lets x1 x2 x3 x4; clear_value x1; have h2 : Kept r x2 := (endCtxWork_kept (endLoad_kept h1)); clear_value x2; have h3 : Kept r x3 := (ite_kept (stopJob_kept h2) (markStop_kept h2)); clear_value x3; have h4 : Kept r x4 := (ite_kept (endTrain_kept (endReqs_kept h3)) h3); clear_value x4; exact (ite_kept (answer_kept h1) (ite_kept (answer_kept h1) (State.modPart_kept (accept_kept h4)))))))
theorem releaseComplete_kept {p} (h : Kept r s) : Kept r (releaseComplete s p) := by
  unfold releaseComplete
  extract_lets x1 x2 x3 x4 x5 x6 x7 x8 x9 x10 x11 x12 x13 x14 x15 x16 x17 x18
  clear_value x1 x3 x6 x7 x13
  have h1 : Kept r x2 := (nextReleases_kept (State.advance_kept h))
  clear_value x2
  have h2 : Kept r x4 := (endTrain_kept (endReqs_kept h1))
  clear_value x4
  have h3 : Kept r x5 := (dropLines_kept h2)
  clear_value x5
  have h4 : Kept r x8 := (h3.same rfl)
  clear_value x8
  have h5 : Kept r x9 := (freePages_kept h4)
  clear_value x9
  have h6 : Kept r x10 := (State.modCxl_kept h5)
  clear_value x10
  have h7 : Kept r x11 := (foldl_kept (fun s1 _ h8 => (zeroGroup_kept h8)) _ h6)
  clear_value x11
  have h9 : Kept r x12 := (modCores_kept h7)
  clear_value x12
  have h10 : Kept r x14 := (foldl_kept (fun s2 _ h11 => (State.modGroup_kept h11)) _ h9)
  clear_value x14
  have h12 : Kept r x15 := (State.modPwr_kept h10)
  clear_value x15
  have h13 : Kept r x16 := (State.modGovPart_kept (State.setPart_kept h12))
  clear_value x16
  have h14 : Kept r x17 := (State.modMem_kept h13)
  clear_value x17
  have h15 : Kept r x18 := (dropLatches_kept h14)
  clear_value x18
  split
  · exact h
  · exact (ite_kept h (finish_kept h15))
theorem reloadMacro_kept {p m recv} (h : Kept r s) : Kept r (reloadMacro s p m recv) := by
  unfold reloadMacro
  extract_lets x1 x2
  clear_value x1
  have h1 : Kept r x2 := (State.modMacro_kept h)
  clear_value x2
  split
  · exact (fillMacro_kept h1)
  · exact h
theorem suspectAdvisory_kept {p m k lastWrite} (h : Kept r s) : Kept r (suspectAdvisory s p m k lastWrite) := by
  unfold suspectAdvisory
  extract_lets x1 x2
  clear_value x1 x2
  exact (foldl_kept (fun s1 _ h1 => (giveAdvisory_kept h1)) _ h)
theorem reloadWindow_kept {p mem} (h : Kept r s) : Kept r (reloadWindow s p mem) := by
  unfold reloadWindow
  extract_lets x1 x2
  clear_value x1 x2
  exact (ite_kept h (onPages_kept h (fun s1 h1 => (by extract_lets x3 x4 x5 x6; clear_value x3; have h2 : Kept r x4 := (chargeReloads_kept (burstEvents_kept h1)); clear_value x4; have h3 : Kept r x5 := (State.advance_kept h2); clear_value x5; have h4 : Kept r x6 := (foldl_kept (fun s2 _ h5 => (reloadMacro_kept h5)) _ h3); clear_value x6; exact (endPause_kept (foldl_kept (fun s3 _ h6 => (suspectAdvisory_kept h6)) _ h4))))))
theorem reply_kept {via cmd ctx st v} (h : Kept r s) : Kept r (reply s via cmd ctx st v) := by
  unfold reply
  exact (answer_kept h)
theorem resetVf_kept {vf} (h : Kept r s) : Kept r (resetVf s vf) := by
  unfold resetVf
  extract_lets x1
  clear_value x1
  exact (State.modCxl_kept (modPairs_kept (closeSession_kept h)))
theorem resumeTick_kept {p} (h : Kept r s) : Kept r (resumeTick s p) := by
  unfold resumeTick
  extract_lets x1
  clear_value x1
  split
  · extract_lets x2; clear_value x2; split <;> (extract_lets x3; have h1 : Kept r x3 := (State.advance_kept h); clear_value x3; exact (ite_kept h (by split; (exact (stopJob_kept h1)); (exact (State.modPart_kept (restoreContext_kept (applyMint_kept (applySeeds_kept h1))))))))
  · exact h
theorem retrainTimer_kept {n} (h : Kept r s) : Kept r (retrainTimer s n) := by
  unfold retrainTimer
  extract_lets x1
  clear_value x1
  exact (ite_kept (beginTraining_kept h) h)
theorem rootPllLoss_kept (h : Kept r s) : Kept r (rootPllLoss s) := by
  unfold rootPllLoss
  exact (ite_kept (clockLoss_kept h) h)
theorem rosemaryWatchdog_kept (h : Kept r s) : Kept r (rosemaryWatchdog s) := by
  unfold rosemaryWatchdog
  extract_lets x1
  have h1 : Kept r x1 := (recordNow_kept h)
  clear_value x1
  exact (ite_kept h (enterParsley_kept h1))
theorem scalar_kept {c d f} (h : Kept r s) : Kept r (scalar s c d f) := by
  unfold scalar
  exact (issue_kept h)
theorem scrubRead_kept {g} (h : Kept r s) : Kept r (scrubRead s g) := by
  unfold scrubRead
  extract_lets x1
  clear_value x1
  exact (ite_kept h (by split; (extract_lets x2; have h1 : Kept r x2 := (State.modGroup_kept h); clear_value x2; exact (ite_kept (scrubAt_kept h1) h1)); (split; (exact h); (extract_lets x3; have h2 : Kept r x3 := (State.modGroup_kept h); clear_value x3; exact (scrubAt_kept h2)))))
theorem segmentPosting_kept {p} (h : Kept r s) : Kept r (segmentPosting s p) := by
  unfold segmentPosting
  split
  · exact (ite_kept h (ite_kept (mismatch_kept h) (ite_kept (mismatch_kept h) (ite_kept (onCtxs_kept h (fun s1 h1 => (by split; (exact (endTrains_kept (abandonCkpt_kept h1))); (exact (postSeg1_kept (applyDp_kept h1)))))) (ite_kept (postSeg2_kept h) h)))))
  · exact h
theorem stepReq_kept {p outs q} (h : Kept r s) : Kept r (stepReq s p outs q).1 := by
  unfold stepReq
  extract_lets ts r' ended final cs s1
  have h1 : Kept r s1 := foldl_kept (fun _ _ hx => complete_kept hx) _ h
  clear_value s1
  split
  · exact h
  · split
    · split
      · exact freeKv_kept h
      · exact h
    · split
      · exact freeKv_kept h1
      · split
        · exact freeKv_kept (completeReq_kept h1)
        · exact h1
theorem serveEnd_kept {p outs} (h : Kept r s) : Kept r (serveEnd s p outs) := by
  unfold serveEnd
  extract_lets d s1
  have h1 : Kept r s1 := noteServed_kept h
  clear_value s1
  refine ite_kept h ?_
  split
  next e =>
  have h2 := fst_kept (foldl_fst_kept (fun x q hx => ?_) _ h1) e
  · exact sweepSnaps_kept (State.modPart_kept h2)
  · exact stepReq_kept hx
theorem settleTimeout_kept (h : Kept r s) : Kept r (settleTimeout s) := by
  unfold settleTimeout
  split
  · exact h
  · exact (settleAs_kept (State.modPwr_kept h))
theorem signingToken_kept (h : Kept r s) : Kept r (signingToken s) := by
  unfold signingToken
  exact (State.modSage_kept' h (fun _ => ⟨rfl, rfl⟩))
theorem stagingComplete_kept {p} (h : Kept r s) : Kept r (stagingComplete s p) := by
  unfold stagingComplete
  extract_lets x1
  have h1 : Kept r x1 := (State.modPart_kept h)
  clear_value x1
  split
  · exact h
  · extract_lets x2; clear_value x2; exact (ite_kept h (ite_kept (State.modPart_kept h) (ite_kept h1 (pinReqs_kept h1))))
theorem trainEnd_kept {p t} (h : Kept r s) : Kept r (trainEnd s p t) := by
  unfold trainEnd
  extract_lets x1 x2 x3
  clear_value x1 x2 x3
  exact (ite_kept h (by split; (next s1 _ e1 => have h1 := fst_kept (releaseBatches_kept (noteServed_kept h)) e1; extract_lets x4 x5 x6 x7 x8 x9 x10 x11 x12; clear_value x4 x5 x6 x8 x10 x12; have h2 : Kept r x7 := (State.modPart_kept h1); clear_value x7; have h3 : Kept r x9 := (foldl_kept (fun s2 _ h4 => (complete_kept h4)) _ h2); clear_value x9; have h5 : Kept r x11 := (complete_kept h3); clear_value x11; split; (exact (ite_kept (endTrains_kept (abandonCkpt_kept h2)) h2)); (exact (ite_kept (State.modPart_kept h5) (ite_kept (complete_kept h2) h2))))))
theorem stepEnd_kept {p outs} (h : Kept r s) : Kept r (stepEnd s p outs) := by
  unfold stepEnd
  split
  · exact (ite_kept (trainEnd_kept h) (serveEnd_kept h))
  · exact (serveEnd_kept h)
theorem sweepReqs_kept {p} (h : Kept r s) : Kept r (sweepReqs s p) := by
  unfold sweepReqs
  extract_lets x0 x1 x2
  have h0 : Kept r x0 := (endSome_kept h)
  clear_value x0 x1
  have h1 : Kept r x2 := (foldl_kept (fun s1 _ h2 => (markStale_kept h2)) _ h0)
  clear_value x2
  exact (foldl_kept (fun s2 _ h3 => (by split; (exact h3); (exact (endSome_kept h3)))) _ h1)
theorem stepPosting_kept {p} (h : Kept r s) : Kept r (stepPosting s p) := by
  unfold stepPosting
  split
  · exact h
  · exact (ite_kept h (ite_kept (mismatch_kept h) (onCtxs_kept h (fun s1 h1 => (by extract_lets x1 x2 x3 x4 x5 x6 x7; clear_value x2 x3 x4 x5 x6 x7; have h2 : Kept r x1 := (sweepReqs_kept h1); clear_value x1; exact (ite_kept h2 (by split <;> (extract_lets x8 x9 x10; clear_value x8 x9; have h3 : Kept r x10 := (writeTables_kept h2); clear_value x10; split; (next _ s2 e1 => have h4 := snd_kept (askGrant_kept h3) e1; extract_lets x11 x12 x13; clear_value x11; have h5 : Kept r x12 := (postRegs_kept h4); clear_value x12; have h6 : Kept r x13 := (noteServed_kept h5); clear_value x13; exact (State.modPart_kept h6))))))))))
theorem successorTreeReady_kept (h : Kept r s) : Kept r (successorTreeReady s) := by
  unfold successorTreeReady
  exact (ite_kept (State.modSage_kept' h (fun _ => ⟨rfl, rfl⟩)) h)
theorem tenantClaim_kept {vf cred} (h : Kept r s) : Kept r (tenantClaim s vf cred) := by
  unfold tenantClaim
  exact (vfRequest_kept h (fun s1 _ _ h1 => (ite_kept (vendorRsp_kept h1) (joinTenant_kept (State.modSage_kept' h1 (fun _ => ⟨rfl, rfl⟩))))))
theorem tenantProve_kept {vf mac} (h : Kept r s) : Kept r (tenantProve s vf mac) := by
  unfold tenantProve
  exact (vfRequest_kept h (fun s1 _ _ h1 => (by extract_lets x1; clear_value x1; exact (ite_kept (joinTenant_kept h1) (vendorRsp_kept (State.modSage_kept' h1 (fun _ => ⟨rfl, rfl⟩)))))))
theorem tenantRevoke_kept {via t} (h : Kept r s) : Kept r (tenantRevoke s via t) := by
  unfold tenantRevoke
  exact (permitted_kept h (fun s1 h1 => (ite_kept (answer_kept h1) (by extract_lets x1 x2 x3; clear_value x2; have h2 : Kept r x1 := (foldl_kept (fun s2 _ h3 => (closeSession_kept h3)) _ h1); clear_value x1; have h4 : Kept r x3 := (foldl_kept (fun s3 _ h5 => (beginDelete_kept h5)) _ h2); clear_value x3; exact (answer_kept (State.modSage_kept' h4 (fun _ => ⟨rfl, rfl⟩)))))))
theorem tenantSet_kept {via t quota mask} (h : Kept r s) : Kept r (tenantSet s via t quota mask) := by
  unfold tenantSet
  exact (permitted_kept h (fun s1 h1 => (ite_kept (answer_kept h1) (ite_kept (answer_kept h1) (answer_kept (State.modSage_kept' h1 (fun _ => ⟨rfl, rfl⟩)))))))
theorem thermalTrip_kept {celsius} (h : Kept r s) : Kept r (thermalTrip s celsius) := by
  unfold thermalTrip
  extract_lets x1 x2 x3 x4 x5
  clear_value x1
  have h1 : Kept r x2 := (raiseAlert_kept (ite_kept (raiseAlert_kept h) h))
  clear_value x2
  have h2 : Kept r x3 := (requestLevel_kept (State.modPwr_kept h1))
  clear_value x3
  have h3 : Kept r x4 := (State.modGov_kept h2)
  clear_value x4
  have h4 : Kept r x5 := (recordNow_kept h3)
  clear_value x5
  exact (ite_kept h (ite_kept (enterParsley_kept h4) (recordNow_kept h3)))
theorem thermtripDeassert_kept {celsius} (h : Kept r s) : Kept r (thermtripDeassert s celsius) := by
  unfold thermtripDeassert
  exact (ite_kept (State.modPwr_kept (State.modGov_kept h)) h)
theorem throttleApply_kept (h : Kept r s) : Kept r (throttleApply s) := by
  unfold throttleApply
  split
  · exact h
  · extract_lets x1; have h1 : Kept r x1 := (ite_kept (raiseAlert_kept h) h); clear_value x1; exact (State.modGov_kept (State.advance_kept h1))
theorem throttleStep_kept {celsius} (h : Kept r s) : Kept r (throttleStep s celsius) := by
  unfold throttleStep
  extract_lets x1 x2 x3
  clear_value x3
  have h1 : Kept r x1 := (ite_kept (recordNow_kept h) h)
  clear_value x1
  have h2 : Kept r x2 := (State.modGov_kept h1)
  clear_value x2
  exact (ite_kept (ite_kept (requestLevel_kept h2) h2) (ite_kept (ite_kept (requestLevel_kept h2) h2) h2))
theorem tickRealign_kept {roundTrip turnaround resid} (h : Kept r s) : Kept r (tickRealign s roundTrip turnaround resid) := by
  unfold tickRealign
  split
  · exact h
  · exact (measured_kept h)
theorem tileQueueCheck_kept {c} (h : Kept r s) : Kept r (tileQueueCheck s c) := by
  unfold tileQueueCheck
  split
  · extract_lets x1; have h1 : Kept r x1 := (ite_kept (coreFault_kept h) h); clear_value x1; exact (ite_kept h1 (coreFaultFree_kept h1))
  · exact h
theorem tileBoundary_kept {p} (h : Kept r s) : Kept r (tileBoundary s p) := by
  unfold tileBoundary
  extract_lets x1
  clear_value x1
  split <;> (extract_lets x2 x3 x4; have h1 : Kept r x2 := (State.advance_kept h); clear_value x2; have h2 : Kept r x3 := (foldl_kept (fun s1 _ h3 => (tileQueueCheck_kept h3)) _ h1); clear_value x3; have h4 : Kept r x4 := (applyMint_kept (applySeeds_kept h2)); clear_value x4; exact (ite_kept (replaceBase_kept h) (ite_kept h (boundaryAct_kept h4))))
theorem trainingSwitch_kept {p} (h : Kept r s) : Kept r (trainingSwitch s p) := by
  unfold trainingSwitch
  extract_lets x1 x2 x3 x4
  clear_value x1 x2 x3 x4
  split
  · exact h
  · exact (ite_kept (ite_kept (by split; (exact (ite_kept (jobSwitch_kept h) h)); (exact h)) (ite_kept h (ite_kept (ite_kept (jobStart_kept h) (ite_kept (State.modPart_kept (requestYield_kept h)) h)) (ite_kept (jobSwitch_kept h) h)))) (ite_kept (by split; (exact (jobSwitch_kept h)); (exact h)) h))
theorem unlessDiscarded_kept {c f} (h : Kept r s) (hf : ∀ s, Kept r s → Kept r (f s)) : Kept r (unlessDiscarded s c f) := by
  unfold unlessDiscarded
  exact (ite_kept h (hf _ h))
theorem vfAssign_kept {via vf t} (h : Kept r s) : Kept r (vfAssign s via vf t) := by
  unfold vfAssign
  exact (permitted_kept h (fun s1 h1 => (ite_kept (answer_kept h1) (by extract_lets x1; have h2 : Kept r x1 := (resetVf_kept h1); clear_value x1; exact (answer_kept (State.modSage_kept' h2 (fun _ => ⟨rfl, rfl⟩)))))))
theorem vfFlr_kept {vf} (h : Kept r s) : Kept r (vfFlr s vf) := by
  unfold vfFlr
  exact (discardIn_kept (resetVf_kept h))
theorem wakeComplete_kept {n} (h : Kept r s) : Kept r (wakeComplete s n) := by
  unfold wakeComplete
  extract_lets x1 x2
  have h1 : Kept r x1 := (ite_kept (State.modPwr_kept h) h)
  clear_value x1
  have h2 : Kept r x2 := (State.modMbox_kept h1)
  clear_value x2
  exact (ite_kept h1 (ite_kept (badCode_kept h2) h2))
theorem windowError_kept {f write} (h : Kept r s) : Kept r (windowError s f write) := by
  unfold windowError
  exact (State.modCxl_kept h)
theorem windowRead_kept {f off} (h : Kept r s) : Kept r (windowRead s f off) := by
  unfold windowRead
  split
  · exact (windowError_kept (h.same rfl))
  · exact (onPages_kept h (fun s1 h1 => (h1.same rfl)))
theorem windowWrite_kept {f off data} (h : Kept r s) : Kept r (windowWrite s f off data) := by
  unfold windowWrite
  split
  · exact (ite_kept (windowError_kept h) (onPages_kept h (fun s1 h1 => (Kept.mk' h1 h1.scratch h1.cim h1.scales (Memory.wf_bwrite _ _ _ h1.stack) h1.cache h1.pages h1.mode h1.state h1.fuses h1.tree))))
  · exact (windowError_kept h)
theorem zeroisationComplete_kept (h : Kept r s) : Kept r (zeroisationComplete s) := by
  unfold zeroisationComplete
  split
  · exact h
  · extract_lets x1 x2 x3 x4; have h1 : Kept r x1 := (ite_kept (clearOut_kept h) h); clear_value x1; have h2 : Kept r x2 := (power_kept (State.modSage_kept' h1 (fun _ => ⟨rfl, rfl⟩))); clear_value x2; have h3 : Kept r x3 := (portsOff_kept h2); clear_value x3; have h4 : Kept r x4 := (State.modCxl_kept h3); clear_value x4; exact (ite_kept h (by split; (exact (step2_kept (State.warm_kept h2))); (split; (exact (portsOff_kept (power_kept (finishZero_kept h2)))); (exact (finishZero_kept (State.modSage_kept' h2 (fun _ => ⟨rfl, rfl⟩)))); (exact (finishZero_kept (State.modSys_kept (State.modPwr_kept h4) (by dsimp only; first | decide | exact Kept.state (by assumption))))); (exact (finishZero_kept h2)))))

end Sys2Proof.Machine
end

