-- ==== Sys2Proof/Laws/KeptExec.lean ====
section
/-! SUPPORT. For the meaning of each command: it answers a next state, and that state is `Kept`. -/

namespace Sys2Proof.Machine

variable {r s : State}

theorem execNop_kept {c} (h : Kept r s) : ∃ t, execNop c s = .next t ∧ Kept r t :=
  ⟨_, rfl, issue_kept h⟩
theorem execEndJob_kept {c} (h : Kept r s) : ∃ t, execEndJob c s = .next t ∧ Kept r t :=
  ⟨_, rfl, checkEnd_kept (issue_kept h)⟩
theorem execLoop_kept {c h0 cnt last period} (h : Kept r s) : ∃ t, execLoop c h0 cnt last period s = .next t ∧ Kept r t :=
  ⟨_, rfl, loopAt_kept h⟩
theorem execTile_kept {c h0 save resume} (h : Kept r s) : ∃ t, execTile c h0 save resume s = .next t ∧ Kept r t :=
  ⟨_, rfl, issue_kept h⟩
theorem execBudget_kept {c h0 q span} (h : Kept r s) : ∃ t, execBudget c h0 q span s = .next t ∧ Kept r t :=
  ⟨_, rfl, budgetAt_kept h⟩
theorem execWaitq_kept {c queue depth} (h : Kept r s) : ∃ t, execWaitq c queue depth s = .next t ∧ Kept r t :=
  ⟨_, rfl, ite_kept (issue_kept h) h⟩
theorem execDstep_kept {c} (h : Kept r s) : ∃ t, execDstep c s = .next t ∧ Kept r t :=
  ⟨_, rfl, issue_kept h⟩
theorem execSli_kept {c d imm} (h : Kept r s) : ∃ t, execSli c d imm s = .next t ∧ Kept r t :=
  ⟨_, rfl, scalar_kept h⟩
theorem execSadd_kept {c d a b} (h : Kept r s) : ∃ t, execSadd c d a b s = .next t ∧ Kept r t :=
  ⟨_, rfl, scalar_kept h⟩
theorem execSaddi_kept {c d a imm} (h : Kept r s) : ∃ t, execSaddi c d a imm s = .next t ∧ Kept r t :=
  ⟨_, rfl, scalar_kept h⟩
theorem execSsub_kept {c d a b} (h : Kept r s) : ∃ t, execSsub c d a b s = .next t ∧ Kept r t :=
  ⟨_, rfl, scalar_kept h⟩
theorem execSmul_kept {c d a b} (h : Kept r s) : ∃ t, execSmul c d a b s = .next t ∧ Kept r t :=
  ⟨_, rfl, scalar_kept h⟩
theorem execSand_kept {c d a b} (h : Kept r s) : ∃ t, execSand c d a b s = .next t ∧ Kept r t :=
  ⟨_, rfl, scalar_kept h⟩
theorem execSor_kept {c d a b} (h : Kept r s) : ∃ t, execSor c d a b s = .next t ∧ Kept r t :=
  ⟨_, rfl, scalar_kept h⟩
theorem execSxor_kept {c d a b} (h : Kept r s) : ∃ t, execSxor c d a b s = .next t ∧ Kept r t :=
  ⟨_, rfl, scalar_kept h⟩
theorem execSshl_kept {c d a b} (h : Kept r s) : ∃ t, execSshl c d a b s = .next t ∧ Kept r t :=
  ⟨_, rfl, scalar_kept h⟩
theorem execSshr_kept {c d a b} (h : Kept r s) : ∃ t, execSshr c d a b s = .next t ∧ Kept r t :=
  ⟨_, rfl, scalar_kept h⟩
theorem execSmin_kept {c d a b} (h : Kept r s) : ∃ t, execSmin c d a b s = .next t ∧ Kept r t :=
  ⟨_, rfl, scalar_kept h⟩
theorem execSmax_kept {c d a b} (h : Kept r s) : ∃ t, execSmax c d a b s = .next t ∧ Kept r t :=
  ⟨_, rfl, scalar_kept h⟩
theorem execSld_kept {c d a imm} (h : Kept r s) : ∃ t, execSld c d a imm s = .next t ∧ Kept r t :=
  ⟨_, rfl, scalar_kept h⟩
theorem execSst_kept {c d a imm} (h : Kept r s) : ∃ t, execSst c d a imm s = .next t ∧ Kept r t := by
  refine ⟨_, rfl, ite_kept ?_ h⟩
  have h1 : Kept r (issue s c id) := issue_kept h
  exact Kept.mk' h1 (Memory.wf_bwrite _ _ _ h1.scratch) h1.cim h1.scales h1.stack h1.cache h1.pages h1.mode h1.state h1.fuses h1.tree
theorem execSidx_kept {c d level} (h : Kept r s) : ∃ t, execSidx c d level s = .next t ∧ Kept r t :=
  ⟨_, rfl, scalar_kept h⟩
theorem execSfeat_kept {c d index} (h : Kept r s) : ∃ t, execSfeat c d index s = .next t ∧ Kept r t :=
  ⟨_, rfl, scalar_kept h⟩
theorem execReservedOpcode_kept {c} (h : Kept r s) : ∃ t, execReservedOpcode c s = .next t ∧ Kept r t :=
  ⟨_, rfl, haltCore_kept h⟩
theorem execCbuf_kept {c h0 f} (h : Kept r s) : ∃ t, execCbuf c h0 f s = .next t ∧ Kept r t :=
  ⟨_, rfl, issueEngine_kept h⟩
theorem execCfwd_kept {c h0 f} (h : Kept r s) : ∃ t, execCfwd c h0 f s = .next t ∧ Kept r t :=
  ⟨_, rfl, issueEngine_kept h⟩
theorem execCtrn_kept {c h0 f} (h : Kept r s) : ∃ t, execCtrn c h0 f s = .next t ∧ Kept r t :=
  ⟨_, rfl, issueEngine_kept h⟩
theorem execCload_kept {c h0 f} (h : Kept r s) : ∃ t, execCload c h0 f s = .next t ∧ Kept r t :=
  ⟨_, rfl, issueEngine_kept h⟩
theorem execAmm_kept {c h0 f} (h : Kept r s) : ∃ t, execAmm c h0 f s = .next t ∧ Kept r t :=
  ⟨_, rfl, issueEngine_kept h⟩
theorem execVarith_kept {c h0 f} (h : Kept r s) : ∃ t, execVarith c h0 f s = .next t ∧ Kept r t :=
  ⟨_, rfl, issueEngine_kept h⟩
theorem execVfunc_kept {c h0 f} (h : Kept r s) : ∃ t, execVfunc c h0 f s = .next t ∧ Kept r t :=
  ⟨_, rfl, issueEngine_kept h⟩
theorem execVlogic_kept {c h0 f} (h : Kept r s) : ∃ t, execVlogic c h0 f s = .next t ∧ Kept r t :=
  ⟨_, rfl, issueEngine_kept h⟩
theorem execVcvt_kept {c h0 f} (h : Kept r s) : ∃ t, execVcvt c h0 f s = .next t ∧ Kept r t :=
  ⟨_, rfl, issueEngine_kept h⟩
theorem execVred_kept {c h0 f} (h : Kept r s) : ∃ t, execVred c h0 f s = .next t ∧ Kept r t :=
  ⟨_, rfl, issueEngine_kept h⟩
theorem execVtopk_kept {c h0 f} (h : Kept r s) : ∃ t, execVtopk c h0 f s = .next t ∧ Kept r t :=
  ⟨_, rfl, issueEngine_kept h⟩
theorem execVsplit_kept {c h0 f} (h : Kept r s) : ∃ t, execVsplit c h0 f s = .next t ∧ Kept r t :=
  ⟨_, rfl, issueEngine_kept h⟩
theorem execVupd_kept {c h0 f} (h : Kept r s) : ∃ t, execVupd c h0 f s = .next t ∧ Kept r t :=
  ⟨_, rfl, issueEngine_kept h⟩
theorem execCopy_kept {c h0 f} (h : Kept r s) : ∃ t, execCopy c h0 f s = .next t ∧ Kept r t :=
  ⟨_, rfl, issueEngine_kept h⟩
theorem execGather_kept {c h0 f} (h : Kept r s) : ∃ t, execGather c h0 f s = .next t ∧ Kept r t :=
  ⟨_, rfl, issueEngine_kept h⟩
theorem execScatter_kept {c h0 f} (h : Kept r s) : ∃ t, execScatter c h0 f s = .next t ∧ Kept r t :=
  ⟨_, rfl, issueEngine_kept h⟩
theorem execPrefetch_kept {c h0 f} (h : Kept r s) : ∃ t, execPrefetch c h0 f s = .next t ∧ Kept r t :=
  ⟨_, rfl, ite_kept (State.modCore_kept (issueEngine_kept h)) h⟩
theorem execCommit_kept {c h0 f} (h : Kept r s) : ∃ t, execCommit c h0 f s = .next t ∧ Kept r t :=
  ⟨_, rfl, issueEngine_kept h⟩
theorem execXsend_kept {c h0 f} (h : Kept r s) : ∃ t, execXsend c h0 f s = .next t ∧ Kept r t :=
  ⟨_, rfl, issueEngine_kept h⟩
theorem execXlate_kept {c h0 f} (h : Kept r s) : ∃ t, execXlate c h0 f s = .next t ∧ Kept r t :=
  ⟨_, rfl, issueEngine_kept h⟩
theorem execInstructionLaunch_kept {c q mem} (h : Kept r s) : ∃ t, execInstructionLaunch c q mem s = .next t ∧ Kept r t :=
  ⟨_, rfl, launchQ_kept h⟩
theorem execInstructionComplete_kept {c q} (h : Kept r s) : ∃ t, execInstructionComplete c q s = .next t ∧ Kept r t :=
  ⟨_, rfl, completeQ_kept h⟩
theorem execLoopIterationStart_kept {c} (h : Kept r s) : ∃ t, execLoopIterationStart c s = .next t ∧ Kept r t :=
  ⟨_, rfl, iterate_kept h⟩
theorem execTileBoundary_kept {p} (h : Kept r s) : ∃ t, execTileBoundary p s = .next t ∧ Kept r t :=
  ⟨_, rfl, tileBoundary_kept h⟩
theorem execDstepResume_kept {c} (h : Kept r s) : ∃ t, execDstepResume c s = .next t ∧ Kept r t :=
  ⟨_, rfl, by split; (exact (State.modCore_kept (State.advance_kept h))); (exact h)⟩
theorem execCommitComplete_kept {c ch} (h : Kept r s) : ∃ t, execCommitComplete c ch s = .next t ∧ Kept r t :=
  ⟨_, rfl, commitDone_kept h⟩
theorem execCacheFill_kept {w gpage} (h : Kept r s) : ∃ t, execCacheFill w gpage s = .next t ∧ Kept r t :=
  ⟨_, rfl, cacheFill_kept h⟩
theorem execScrubRead_kept {g} (h : Kept r s) : ∃ t, execScrubRead g s = .next t ∧ Kept r t :=
  ⟨_, rfl, scrubRead_kept h⟩
theorem execReloadWindow_kept {w} (h : Kept r s) : ∃ t, execReloadWindow w s = .next t ∧ Kept r t :=
  ⟨_, rfl, reloadWindow_kept h⟩
theorem execAuditStart_kept {p} (h : Kept r s) : ∃ t, execAuditStart p s = .next t ∧ Kept r t :=
  ⟨_, rfl, gate_kept h (fun s1 h1 => (ite_kept h1 (auditPass_kept h1)))⟩
theorem execAuditPeriodExpiry_kept {p} (h : Kept r s) : ∃ t, execAuditPeriodExpiry p s = .next t ∧ Kept r t :=
  ⟨_, rfl, auditPeriodExpiry_kept h⟩
theorem execMintEvaluation_kept {g} (h : Kept r s) : ∃ t, execMintEvaluation g s = .next t ∧ Kept r t :=
  ⟨_, rfl, mintEvaluation_kept h⟩
theorem execCommittedCurrentUpdate_kept {rail} (h : Kept r s) : ∃ t, execCommittedCurrentUpdate rail s = .next t ∧ Kept r t :=
  ⟨_, rfl, committedUpdate_kept h⟩
theorem execLendingEnable_kept {v c} (h : Kept r s) : ∃ t, execLendingEnable v c s = .next t ∧ Kept r t :=
  ⟨_, rfl, gatePair_kept h (fun s1 h1 => (lendingEnable_kept h1))⟩
theorem execLoanGrantEnd_kept {p} (h : Kept r s) : ∃ t, execLoanGrantEnd p s = .next t ∧ Kept r t :=
  ⟨_, rfl, loanGrantEnd_kept h⟩
theorem execThrottleStep_kept {celsius} (h : Kept r s) : ∃ t, execThrottleStep celsius s = .next t ∧ Kept r t :=
  ⟨_, rfl, throttleStep_kept h⟩
theorem execThermalTrip_kept {celsius} (h : Kept r s) : ∃ t, execThermalTrip celsius s = .next t ∧ Kept r t :=
  ⟨_, rfl, thermalTrip_kept h⟩
theorem execThrottleFloorWrite_kept {v} (h : Kept r s) : ∃ t, execThrottleFloorWrite v s = .next t ∧ Kept r t :=
  ⟨_, rfl, gate_kept h (fun s1 h1 => (throttleFloor_kept h1))⟩
theorem execThrottleLevelApply_kept (h : Kept r s) : ∃ t, execThrottleLevelApply s = .next t ∧ Kept r t :=
  ⟨_, rfl, throttleApply_kept h⟩
theorem execTickRealign_kept {roundTrip turnaround resid} (h : Kept r s) : ∃ t, execTickRealign roundTrip turnaround resid s = .next t ∧ Kept r t :=
  ⟨_, rfl, tickRealign_kept h⟩
theorem execTickMasterSettleTimeout_kept (h : Kept r s) : ∃ t, execTickMasterSettleTimeout s = .next t ∧ Kept r t :=
  ⟨_, rfl, settleTimeout_kept h⟩
theorem execLoad_kept {via p image force first len reply} (h : Kept r s) : ∃ t, execLoad via p image force first len reply s = .next t ∧ Kept r t :=
  ⟨_, rfl, loadCmd_kept h⟩
theorem execLoadComplete_kept {p} (h : Kept r s) : ∃ t, execLoadComplete p s = .next t ∧ Kept r t :=
  ⟨_, rfl, loadComplete_kept h⟩
theorem execLoadWindow_kept {w} (h : Kept r s) : ∃ t, execLoadWindow w s = .next t ∧ Kept r t :=
  ⟨_, rfl, loadWindow_kept h⟩
theorem execPartitionCommitRequest_kept {v c} (h : Kept r s) : ∃ t, execPartitionCommitRequest v c s = .next t ∧ Kept r t :=
  ⟨_, rfl, gatePair_kept h (fun s1 h1 => (commitRequest_kept h1))⟩
theorem execCommitTick_kept (h : Kept r s) : ∃ t, execCommitTick s = .next t ∧ Kept r t :=
  ⟨_, rfl, commitTick_kept h⟩
theorem execRelease_kept {via p} (h : Kept r s) : ∃ t, execRelease via p s = .next t ∧ Kept r t :=
  ⟨_, rfl, releaseCmd_kept h⟩
theorem execReleaseComplete_kept {p} (h : Kept r s) : ∃ t, execReleaseComplete p s = .next t ∧ Kept r t :=
  ⟨_, rfl, releaseComplete_kept h⟩
theorem execJobStart_kept {via p image} (h : Kept r s) : ∃ t, execJobStart via p image s = .next t ∧ Kept r t :=
  ⟨_, rfl, jobStart_kept h⟩
theorem execJobSuspend_kept {via p image} (h : Kept r s) : ∃ t, execJobSuspend via p image s = .next t ∧ Kept r t :=
  ⟨_, rfl, unlessDiscarded_kept h (fun s1 h1 => (jobSuspend_kept h1))⟩
theorem execJobSwitch_kept {via p image} (h : Kept r s) : ∃ t, execJobSwitch via p image s = .next t ∧ Kept r t :=
  ⟨_, rfl, unlessDiscarded_kept h (fun s1 h1 => (jobSwitch_kept h1))⟩
theorem execJobStop_kept {via p image} (h : Kept r s) : ∃ t, execJobStop via p image s = .next t ∧ Kept r t :=
  ⟨_, rfl, jobStop_kept h⟩
theorem execJobUnload_kept {via p image} (h : Kept r s) : ∃ t, execJobUnload via p image s = .next t ∧ Kept r t :=
  ⟨_, rfl, jobUnload_kept h⟩
theorem execJobYield_kept {p} (h : Kept r s) : ∃ t, execJobYield p s = .next t ∧ Kept r t :=
  ⟨_, rfl, jobYield_kept h⟩
theorem execJobResume_kept {p} (h : Kept r s) : ∃ t, execJobResume p s = .next t ∧ Kept r t :=
  ⟨_, rfl, jobResume_kept h⟩
theorem execResumeTick_kept {p} (h : Kept r s) : ∃ t, execResumeTick p s = .next t ∧ Kept r t :=
  ⟨_, rfl, resumeTick_kept h⟩
theorem execCtxCreate_kept {via p kind rank proj seed stream} (h : Kept r s) : ∃ t, execCtxCreate via p kind rank proj seed stream s = .next t ∧ Kept r t :=
  ⟨_, rfl, ctxCreate_kept h⟩
theorem execCtxBind_kept {via ctx vf qmask} (h : Kept r s) : ∃ t, execCtxBind via ctx vf qmask s = .next t ∧ Kept r t :=
  ⟨_, rfl, ctxBind_kept h⟩
theorem execCtxAdopt_kept {via ctx state handle} (h : Kept r s) : ∃ t, execCtxAdopt via ctx state handle s = .next t ∧ Kept r t :=
  ⟨_, rfl, ctxAdopt_kept h⟩
theorem execCtxReleaseSnap_kept {via ctx handle} (h : Kept r s) : ∃ t, execCtxReleaseSnap via ctx handle s = .next t ∧ Kept r t :=
  ⟨_, rfl, ctxReleaseSnap_kept h⟩
theorem execCtxCompose_kept {via a b} (h : Kept r s) : ∃ t, execCtxCompose via a b s = .next t ∧ Kept r t :=
  ⟨_, rfl, ctxCompose_kept h⟩
theorem execCtxSeed_kept {via ctx seed stream} (h : Kept r s) : ∃ t, execCtxSeed via ctx seed stream s = .next t ∧ Kept r t :=
  ⟨_, rfl, ctxSeed_kept h⟩
theorem execCtxSetkey_kept {via ctx key} (h : Kept r s) : ∃ t, execCtxSetkey via ctx key s = .next t ∧ Kept r t :=
  ⟨_, rfl, ctxSetkey_kept h⟩
theorem execCtxImport_kept {via ctx image} (h : Kept r s) : ∃ t, execCtxImport via ctx image s = .next t ∧ Kept r t :=
  ⟨_, rfl, ctxImport_kept h⟩
theorem execCtxExport_kept {via ctx state addr len} (h : Kept r s) : ∃ t, execCtxExport via ctx state addr len s = .next t ∧ Kept r t :=
  ⟨_, rfl, ctxExport_kept h⟩
theorem execCtxQuery_kept {via ctx} (h : Kept r s) : ∃ t, execCtxQuery via ctx s = .next t ∧ Kept r t :=
  ⟨_, rfl, ctxQuery_kept h⟩
theorem execCtxRebase_kept {via ctx} (h : Kept r s) : ∃ t, execCtxRebase via ctx s = .next t ∧ Kept r t :=
  ⟨_, rfl, ctxRebase_kept h⟩
theorem execCtxWithdraw_kept {via ctx} (h : Kept r s) : ∃ t, execCtxWithdraw via ctx s = .next t ∧ Kept r t :=
  ⟨_, rfl, ctxWithdraw_kept h⟩
theorem execCtxDelete_kept {via ctx} (h : Kept r s) : ∃ t, execCtxDelete via ctx s = .next t ∧ Kept r t :=
  ⟨_, rfl, ctxDelete_kept h⟩
theorem execCtxDeleteComplete_kept {ctx} (h : Kept r s) : ∃ t, execCtxDeleteComplete ctx s = .next t ∧ Kept r t :=
  ⟨_, rfl, ctxDeleteComplete_kept h⟩
theorem execStepPosting_kept {p} (h : Kept r s) : ∃ t, execStepPosting p s = .next t ∧ Kept r t :=
  ⟨_, rfl, stepPosting_kept h⟩
theorem execStepEnd_kept {p outs} (h : Kept r s) : ∃ t, execStepEnd p outs s = .next t ∧ Kept r t :=
  ⟨_, rfl, stepEnd_kept h⟩
theorem execAdapterStaging_kept {p} (h : Kept r s) : ∃ t, execAdapterStaging p s = .next t ∧ Kept r t :=
  ⟨_, rfl, adapterStaging_kept h⟩
theorem execStagingComplete_kept {p} (h : Kept r s) : ∃ t, execStagingComplete p s = .next t ∧ Kept r t :=
  ⟨_, rfl, stagingComplete_kept h⟩
theorem execBaseStage_kept {via p pages} (h : Kept r s) : ∃ t, execBaseStage via p pages s = .next t ∧ Kept r t :=
  ⟨_, rfl, baseStage_kept h⟩
theorem execBaseInstall_kept {via p first count} (h : Kept r s) : ∃ t, execBaseInstall via p first count s = .next t ∧ Kept r t :=
  ⟨_, rfl, baseInstall_kept h⟩
theorem execBaseReplace_kept {via p} (h : Kept r s) : ∃ t, execBaseReplace via p s = .next t ∧ Kept r t :=
  ⟨_, rfl, baseReplace_kept h⟩
theorem execPipePairingWrite_kept {p v c} (h : Kept r s) : ∃ t, execPipePairingWrite p v c s = .next t ∧ Kept r t :=
  ⟨_, rfl, gatePair_kept h (fun s1 h1 => (pipeWrite_kept h1))⟩
theorem execPipePairingApply_kept {p} (h : Kept r s) : ∃ t, execPipePairingApply p s = .next t ∧ Kept r t :=
  ⟨_, rfl, pipeApply_kept h⟩
theorem execBuddyConfig_kept {p v c} (h : Kept r s) : ∃ t, execBuddyConfig p v c s = .next t ∧ Kept r t :=
  ⟨_, rfl, gatePair_kept h (fun s1 h1 => (buddyWrite15_kept h1))⟩
theorem execDpConfig_kept {p dp dpC ports portsC} (h : Kept r s) : ∃ t, execDpConfig p dp dpC ports portsC s = .next t ∧ Kept r t :=
  ⟨_, rfl, gatePair_kept h (fun s1 h1 => (dpWrite_kept (h1.same rfl)))⟩
theorem execTrain_kept {via f} (h : Kept r s) : ∃ t, execTrain via f s = .next t ∧ Kept r t :=
  ⟨_, rfl, train_kept h⟩
theorem execTrainData_kept {via ctx jobTag j tokens} (h : Kept r s) : ∃ t, execTrainData via ctx jobTag j tokens s = .next t ∧ Kept r t :=
  ⟨_, rfl, trainData_kept h⟩
theorem execDillTrainingSwitch_kept {p} (h : Kept r s) : ∃ t, execDillTrainingSwitch p s = .next t ∧ Kept r t :=
  ⟨_, rfl, trainingSwitch_kept h⟩
theorem execTrainingSegmentPosting_kept {p} (h : Kept r s) : ∃ t, execTrainingSegmentPosting p s = .next t ∧ Kept r t :=
  ⟨_, rfl, segmentPosting_kept h⟩
theorem execCheckpointPageCopy_kept {w} (h : Kept r s) : ∃ t, execCheckpointPageCopy w s = .next t ∧ Kept r t :=
  ⟨_, rfl, ckptCopy_kept h⟩
theorem execCheckpointClose_kept {p} (h : Kept r s) : ∃ t, execCheckpointClose p s = .next t ∧ Kept r t :=
  ⟨_, rfl, ckptClose_kept h⟩
theorem execPresenceDecision_kept {p} (h : Kept r s) : ∃ t, execPresenceDecision p s = .next t ∧ Kept r t :=
  ⟨_, rfl, presence_kept h⟩
theorem execRankLeaveDeadline_kept {p} (h : Kept r s) : ∃ t, execRankLeaveDeadline p s = .next t ∧ Kept r t :=
  ⟨_, rfl, leaveDeadline_kept h⟩
theorem execGetVersion_kept {fn} (h : Kept r s) : ∃ t, execGetVersion fn s = .next t ∧ Kept r t :=
  ⟨_, rfl, getVersion_kept h⟩
theorem execGetCapabilities_kept {fn} (h : Kept r s) : ∃ t, execGetCapabilities fn s = .next t ∧ Kept r t :=
  ⟨_, rfl, getCapabilities_kept h⟩
theorem execNegotiateAlgorithms_kept {fn baseHash sig kex aead} (h : Kept r s) : ∃ t, execNegotiateAlgorithms fn baseHash sig kex aead s = .next t ∧ Kept r t :=
  ⟨_, rfl, negotiate_kept h⟩
theorem execGetDigests_kept {fn} (h : Kept r s) : ∃ t, execGetDigests fn s = .next t ∧ Kept r t :=
  ⟨_, rfl, getDigests_kept h⟩
theorem execGetCertificate_kept {fn slot} (h : Kept r s) : ∃ t, execGetCertificate fn slot s = .next t ∧ Kept r t :=
  ⟨_, rfl, getCertificate_kept h⟩
theorem execChallenge_kept {fn slot nonce} (h : Kept r s) : ∃ t, execChallenge fn slot nonce s = .next t ∧ Kept r t :=
  ⟨_, rfl, challenge_kept h⟩
theorem execKeyExchange_kept {fn encapKey} (h : Kept r s) : ∃ t, execKeyExchange fn encapKey s = .next t ∧ Kept r t :=
  ⟨_, rfl, keyExchange_kept h⟩
theorem execFinish_kept {fn verifyData} (h : Kept r s) : ∃ t, execFinish fn verifyData s = .next t ∧ Kept r t :=
  ⟨_, rfl, finishReq_kept h⟩
theorem execEndSession_kept {fn} (h : Kept r s) : ∃ t, execEndSession fn s = .next t ∧ Kept r t :=
  ⟨_, rfl, endSession_kept h⟩
theorem execKeyUpdate_kept {fn} (h : Kept r s) : ∃ t, execKeyUpdate fn s = .next t ∧ Kept r t :=
  ⟨_, rfl, keyUpdate_kept h⟩
theorem execHeartbeat_kept {fn} (h : Kept r s) : ∃ t, execHeartbeat fn s = .next t ∧ Kept r t :=
  ⟨_, rfl, heartbeat_kept h⟩
theorem execHeartbeatMissed_kept {fn} (h : Kept r s) : ∃ t, execHeartbeatMissed fn s = .next t ∧ Kept r t :=
  ⟨_, rfl, heartbeatMissed_kept h⟩
theorem execTenantClaim_kept {vf cred} (h : Kept r s) : ∃ t, execTenantClaim vf cred s = .next t ∧ Kept r t :=
  ⟨_, rfl, tenantClaim_kept h⟩
theorem execTenantProve_kept {vf mac} (h : Kept r s) : ∃ t, execTenantProve vf mac s = .next t ∧ Kept r t :=
  ⟨_, rfl, tenantProve_kept h⟩
theorem execQrekey_kept {vf qp} (h : Kept r s) : ∃ t, execQrekey vf qp s = .next t ∧ Kept r t :=
  ⟨_, rfl, qrekey_kept h⟩
theorem execAttest_kept {via tenantForm nonce firstCtx reply} (h : Kept r s) : ∃ t, execAttest via tenantForm nonce firstCtx reply s = .next t ∧ Kept r t :=
  ⟨_, rfl, attest_kept h⟩
theorem execTenantSet_kept {via tenant quota mask} (h : Kept r s) : ∃ t, execTenantSet via tenant quota mask s = .next t ∧ Kept r t :=
  ⟨_, rfl, tenantSet_kept h⟩
theorem execTenantRevoke_kept {via tenant} (h : Kept r s) : ∃ t, execTenantRevoke via tenant s = .next t ∧ Kept r t :=
  ⟨_, rfl, tenantRevoke_kept h⟩
theorem execVfAssign_kept {via vf tenant} (h : Kept r s) : ∃ t, execVfAssign via vf tenant s = .next t ∧ Kept r t :=
  ⟨_, rfl, vfAssign_kept h⟩
theorem execDebugChallenge_kept {via} (h : Kept r s) : ∃ t, execDebugChallenge via s = .next t ∧ Kept r t :=
  ⟨_, rfl, debugChallenge_kept h⟩
theorem execDebugUnlock_kept {via scope sig} (h : Kept r s) : ∃ t, execDebugUnlock via scope sig s = .next t ∧ Kept r t :=
  ⟨_, rfl, debugUnlock_kept h⟩
theorem execDebugNonceExpiry_kept (h : Kept r s) : ∃ t, execDebugNonceExpiry s = .next t ∧ Kept r t :=
  ⟨_, rfl, debugNonceExpiry_kept h⟩
theorem execSigningToken_kept (h : Kept r s) : ∃ t, execSigningToken s = .next t ∧ Kept r t :=
  ⟨_, rfl, signingToken_kept h⟩
theorem execPerBootTreeCertify_kept (h : Kept r s) : ∃ t, execPerBootTreeCertify s = .next t ∧ Kept r t :=
  ⟨_, rfl, perBootTreeCertify_kept h⟩
theorem execSuccessorTreeReady_kept (h : Kept r s) : ∃ t, execSuccessorTreeReady s = .next t ∧ Kept r t :=
  ⟨_, rfl, successorTreeReady_kept h⟩
theorem execDrbgReseed_kept (h : Kept r s) : ∃ t, execDrbgReseed s = .next t ∧ Kept r t :=
  ⟨_, rfl, drbgReseed_kept h⟩
theorem execSageSensorEvent_kept {sensor} (h : Kept r s) : ∃ t, execSageSensorEvent sensor s = .next t ∧ Kept r t :=
  ⟨_, rfl, sensorEvent_kept h⟩
theorem execBayLockRead_kept {q n} (h : Kept r s) : ∃ t, execBayLockRead q n s = .next t ∧ Kept r t :=
  ⟨_, rfl, lockReads_kept h⟩
theorem execBayRelease_kept {ep n} (h : Kept r s) : ∃ t, execBayRelease ep n s = .next t ∧ Kept r t :=
  ⟨_, rfl, bayRelease_kept h⟩
theorem execBayDoorbell_kept {ep n} (h : Kept r s) : ∃ t, execBayDoorbell ep n s = .next t ∧ Kept r t :=
  ⟨_, rfl, doorbell_kept h⟩
theorem execBayAck_kept {ep n status value} (h : Kept r s) : ∃ t, execBayAck ep n status value s = .next t ∧ Kept r t :=
  ⟨_, rfl, bayAck_kept h⟩
theorem execBayTimeoutExpiry_kept {n} (h : Kept r s) : ∃ t, execBayTimeoutExpiry n s = .next t ∧ Kept r t :=
  ⟨_, rfl, bayTimeout_kept h⟩
theorem execBayWakeComplete_kept {n} (h : Kept r s) : ∃ t, execBayWakeComplete n s = .next t ∧ Kept r t :=
  ⟨_, rfl, wakeComplete_kept h⟩
theorem execBayLockBreak_kept {n} (h : Kept r s) : ∃ t, execBayLockBreak n s = .next t ∧ Kept r t :=
  ⟨_, rfl, lockBreak_kept h⟩
theorem execZeroise_kept {via} (h : Kept r s) : ∃ t, execZeroise via s = .next t ∧ Kept r t :=
  ⟨_, rfl, zeroiseCmd_kept h⟩
theorem execPowerOff_kept {via} (h : Kept r s) : ∃ t, execPowerOff via s = .next t ∧ Kept r t :=
  ⟨_, rfl, powerOff_kept h⟩
theorem execFwUpdate_kept {via first len} (h : Kept r s) : ∃ t, execFwUpdate via first len s = .next t ∧ Kept r t :=
  ⟨_, rfl, fwUpdate_kept h⟩
theorem execFwProgramComplete_kept {readBackOk} (h : Kept r s) : ∃ t, execFwProgramComplete readBackOk s = .next t ∧ Kept r t :=
  ⟨_, rfl, fwProgramComplete_kept h⟩
theorem execTelemetry_kept {via reply} (h : Kept r s) : ∃ t, execTelemetry via reply s = .next t ∧ Kept r t :=
  ⟨_, rfl, telemetry_kept h⟩
theorem execExportCmd_kept {via ctx state} (h : Kept r s) : ∃ t, execExportCmd via ctx state s = .next t ∧ Kept r t :=
  ⟨_, rfl, exportStart_kept h⟩
theorem execExportComplete_kept {area} (h : Kept r s) : ∃ t, execExportComplete area s = .next t ∧ Kept r t :=
  ⟨_, rfl, exportComplete_kept h⟩
theorem execExportRelease_kept {via area} (h : Kept r s) : ∃ t, execExportRelease via area s = .next t ∧ Kept r t :=
  ⟨_, rfl, exportRelease_kept h⟩
theorem execSqDoorbell_kept {vf qp tail entries} (h : Kept r s) : ∃ t, execSqDoorbell vf qp tail entries s = .next t ∧ Kept r t :=
  ⟨_, rfl, sqDoorbell_kept h⟩
theorem execGenerate_kept {via ctx total maxNew stop params prompt} (h : Kept r s) : ∃ t, execGenerate via ctx total maxNew stop params prompt s = .next t ∧ Kept r t :=
  ⟨_, rfl, generate_kept h⟩
theorem execCancel_kept {via htag} (h : Kept r s) : ∃ t, execCancel via htag s = .next t ∧ Kept r t :=
  ⟨_, rfl, cancel_kept h⟩
theorem execCqHeadWrite_kept {vf qp head} (h : Kept r s) : ∃ t, execCqHeadWrite vf qp head s = .next t ∧ Kept r t :=
  ⟨_, rfl, cqHeadWrite_kept h⟩
theorem execD2hHeadWrite_kept {vf qp head} (h : Kept r s) : ∃ t, execD2hHeadWrite vf qp head s = .next t ∧ Kept r t :=
  ⟨_, rfl, d2hHeadWrite_kept h⟩
theorem execInterruptDelayExpiry_kept {vf qp} (h : Kept r s) : ∃ t, execInterruptDelayExpiry vf qp s = .next t ∧ Kept r t :=
  ⟨_, rfl, irqExpiry_kept h⟩
theorem execQueuePairEnable_kept {vf qp v} (h : Kept r s) : ∃ t, execQueuePairEnable vf qp v s = .next t ∧ Kept r t :=
  ⟨_, rfl, queueEnable_kept h⟩
theorem execAtsInvalidation_kept {vf iova} (h : Kept r s) : ∃ t, execAtsInvalidation vf iova s = .next t ∧ Kept r t :=
  ⟨_, rfl, atsInvalidate_kept h⟩
theorem execWindowRead_kept {frame off} (h : Kept r s) : ∃ t, execWindowRead frame off s = .next t ∧ Kept r t :=
  ⟨_, rfl, windowRead_kept h⟩
theorem execWindowWrite_kept {frame off data} (h : Kept r s) : ∃ t, execWindowWrite frame off data s = .next t ∧ Kept r t :=
  ⟨_, rfl, windowWrite_kept h⟩
theorem execCxlLinkDown_kept (h : Kept r s) : ∃ t, execCxlLinkDown s = .next t ∧ Kept r t :=
  ⟨_, rfl, unlessDiscarded_kept h (fun s1 h1 => (linkDown_kept h1))⟩
theorem execPf0Flr_kept (h : Kept r s) : ∃ t, execPf0Flr s = .next t ∧ Kept r t :=
  ⟨_, rfl, pf0Flr_kept h⟩
theorem execVfFlr_kept {vf} (h : Kept r s) : ∃ t, execVfFlr vf s = .next t ∧ Kept r t :=
  ⟨_, rfl, unlessDiscarded_kept h (fun s1 h1 => (vfFlr_kept h1))⟩
theorem execDataPacket_kept {port pkt} (h : Kept r s) : ∃ t, execDataPacket port pkt s = .next t ∧ Kept r t :=
  ⟨_, rfl, packetIn_kept h⟩
theorem execPipePacket_kept {port pkt} (h : Kept r s) : ∃ t, execPipePacket port pkt s = .next t ∧ Kept r t :=
  ⟨_, rfl, packetIn_kept h⟩
theorem execCkptPacket_kept {port pkt} (h : Kept r s) : ∃ t, execCkptPacket port pkt s = .next t ∧ Kept r t :=
  ⟨_, rfl, packetIn_kept h⟩
theorem execBayPacket_kept {port write off data} (h : Kept r s) : ∃ t, execBayPacket port write off data s = .next t ∧ Kept r t :=
  ⟨_, rfl, bayPacket_kept h⟩
theorem execPacketNak_kept {port seq} (h : Kept r s) : ∃ t, execPacketNak port seq s = .next t ∧ Kept r t :=
  ⟨_, rfl, packetNak_kept h⟩
theorem execIdent_kept {port slot serial settled engChain chain sig} (h : Kept r s) : ∃ t, execIdent port slot serial settled engChain chain sig s = .next t ∧ Kept r t :=
  ⟨_, rfl, identCmd_kept h⟩
theorem execKemKey_kept {port key} (h : Kept r s) : ∃ t, execKemKey port key s = .next t ∧ Kept r t :=
  ⟨_, rfl, kemKeyIn_kept h⟩
theorem execKemCt_kept {port ct} (h : Kept r s) : ∃ t, execKemCt port ct s = .next t ∧ Kept r t :=
  ⟨_, rfl, kemCtIn_kept h⟩
theorem execKeyAt_kept {port tick} (h : Kept r s) : ∃ t, execKeyAt port tick s = .next t ∧ Kept r t :=
  ⟨_, rfl, keyAtIn_kept h⟩
theorem execLinkKeySwitch_kept {port} (h : Kept r s) : ∃ t, execLinkKeySwitch port s = .next t ∧ Kept r t :=
  ⟨_, rfl, linkKeySwitch_kept h⟩
theorem execModePropose_kept {port mode tick} (h : Kept r s) : ∃ t, execModePropose port mode tick s = .next t ∧ Kept r t :=
  ⟨_, rfl, modeProposeIn_kept h⟩
theorem execModeAccept_kept {port} (h : Kept r s) : ∃ t, execModeAccept port s = .next t ∧ Kept r t :=
  ⟨_, rfl, modeAcceptIn_kept h⟩
theorem execModeReject_kept {port} (h : Kept r s) : ∃ t, execModeReject port s = .next t ∧ Kept r t :=
  ⟨_, rfl, State.modPort_kept h⟩
theorem execLinkModeSwitch_kept {port} (h : Kept r s) : ∃ t, execLinkModeSwitch port s = .next t ∧ Kept r t :=
  ⟨_, rfl, linkModeSwitch_kept h⟩
theorem execModeProposeRetry_kept {port} (h : Kept r s) : ∃ t, execModeProposeRetry port s = .next t ∧ Kept r t :=
  ⟨_, rfl, ite_kept (propose_kept h) h⟩
theorem execPipeBind_kept {port student} (h : Kept r s) : ∃ t, execPipeBind port student s = .next t ∧ Kept r t :=
  ⟨_, rfl, ite_kept (State.modPort_kept h) h⟩
theorem execPipeUnbind_kept {port student} (h : Kept r s) : ∃ t, execPipeUnbind port student s = .next t ∧ Kept r t :=
  ⟨_, rfl, State.modPort_kept h⟩
theorem execLeave_kept {port rank jobTag} (h : Kept r s) : ∃ t, execLeave port rank jobTag s = .next t ∧ Kept r t :=
  ⟨_, rfl, leaveIn_kept h⟩
theorem execAlignReq_kept {port tick cyc} (h : Kept r s) : ∃ t, execAlignReq port tick cyc s = .next t ∧ Kept r t :=
  ⟨_, rfl, ite_kept h (sendLink_kept h)⟩
theorem execAlignRsp_kept {port sent received turnaround} (h : Kept r s) : ∃ t, execAlignRsp port sent received turnaround s = .next t ∧ Kept r t :=
  ⟨_, rfl, alignRsp_kept h⟩
theorem execLevelReq_kept {port level} (h : Kept r s) : ∃ t, execLevelReq port level s = .next t ∧ Kept r t :=
  ⟨_, rfl, levelReqIn_kept h⟩
theorem execLevelSet_kept {port level tick} (h : Kept r s) : ∃ t, execLevelSet port level tick s = .next t ∧ Kept r t :=
  ⟨_, rfl, levelSetIn_kept h⟩
theorem execReject_kept {port seq} (h : Kept r s) : ∃ t, execReject port seq s = .next t ∧ Kept r t :=
  ⟨_, rfl, rejectIn_kept h⟩
theorem execFennelPortDown_kept {port kind} (h : Kept r s) : ∃ t, execFennelPortDown port kind s = .next t ∧ Kept r t :=
  ⟨_, rfl, unlessDiscarded_kept h (fun s1 h1 => (portDown_kept h1))⟩
theorem execPortRetrainTimer_kept {port} (h : Kept r s) : ∃ t, execPortRetrainTimer port s = .next t ∧ Kept r t :=
  ⟨_, rfl, retrainTimer_kept h⟩
theorem execPortTrainingComplete_kept {info} (h : Kept r s) : ∃ t, execPortTrainingComplete info s = .next t ∧ Kept r t :=
  ⟨_, rfl, portUp_kept h⟩
theorem execFnlRetrain_kept {mask} (h : Kept r s) : ∃ t, execFnlRetrain mask s = .next t ∧ Kept r t :=
  ⟨_, rfl, gate_kept h (fun s1 h1 => (fnlRetrain_kept h1))⟩
theorem execFnlRekey_kept {mask} (h : Kept r s) : ∃ t, execFnlRekey mask s = .next t ∧ Kept r t :=
  ⟨_, rfl, gate_kept h (fun s1 h1 => (fnlRekey_kept h1))⟩
theorem execLinkCounterRekey_kept {port} (h : Kept r s) : ∃ t, execLinkCounterRekey port s = .next t ∧ Kept r t :=
  ⟨_, rfl, counterRekey_kept h⟩
theorem execFnlModeWrite_kept {v c} (h : Kept r s) : ∃ t, execFnlModeWrite v c s = .next t ∧ Kept r t :=
  ⟨_, rfl, gatePair_kept h (fun s1 h1 => (fnlModeWrite_kept h1))⟩
theorem execFennelShareWrite_kept {port hi v} (h : Kept r s) : ∃ t, execFennelShareWrite port hi v s = .next t ∧ Kept r t :=
  ⟨_, rfl, gate_kept h (fun s1 h1 => (shareWrite_kept h1))⟩
theorem execPowerGoodRise_kept {env} (h : Kept r s) : ∃ t, execPowerGoodRise env s = .next t ∧ Kept r t :=
  ⟨_, rfl, powerGoodRise_kept h⟩
theorem execPowerGoodLoss_kept (h : Kept r s) : ∃ t, execPowerGoodLoss s = .next t ∧ Kept r t :=
  ⟨_, rfl, powerGoodLoss_kept h⟩
theorem execPerstAssert_kept {env} (h : Kept r s) : ∃ t, execPerstAssert env s = .next t ∧ Kept r t :=
  ⟨_, rfl, perstAssert_kept h⟩
theorem execPerstDeassert_kept {cxl} (h : Kept r s) : ∃ t, execPerstDeassert cxl s = .next t ∧ Kept r t :=
  ⟨_, rfl, perstDeassert_kept h⟩
theorem execRstModuleRequest_kept {v c env} (h : Kept r s) : ∃ t, execRstModuleRequest v c env s = .next t ∧ Kept r t :=
  ⟨_, rfl, gatePair_kept h (fun s1 h1 => (rstModule_kept h1))⟩
theorem execPartitionReset_kept {p status} (h : Kept r s) : ∃ t, execPartitionReset p status s = .next t ∧ Kept r t :=
  ⟨_, rfl, unlessDiscarded_kept h (fun s1 h1 => (ite_kept h1 (discardIn_kept (partitionReset_kept h1))))⟩
theorem execRailFault_kept {domain} (h : Kept r s) : ∃ t, execRailFault domain s = .next t ∧ Kept r t :=
  ⟨_, rfl, railFault_kept h⟩
theorem execRootPllLockLoss_kept (h : Kept r s) : ∃ t, execRootPllLockLoss s = .next t ∧ Kept r t :=
  ⟨_, rfl, rootPllLoss_kept h⟩
theorem execReferenceLoss_kept (h : Kept r s) : ∃ t, execReferenceLoss s = .next t ∧ Kept r t :=
  ⟨_, rfl, referenceLoss_kept h⟩
theorem execPowerDomainSwitch_kept {v} (h : Kept r s) : ∃ t, execPowerDomainSwitch v s = .next t ∧ Kept r t :=
  ⟨_, rfl, gate_kept h (fun s1 h1 => (domainSwitch_kept h1))⟩
theorem execZeroisationComplete_kept (h : Kept r s) : ∃ t, execZeroisationComplete s = .next t ∧ Kept r t :=
  ⟨_, rfl, zeroisationComplete_kept h⟩
theorem execSysRecoveryCommit_kept (h : Kept r s) : ∃ t, execSysRecoveryCommit s = .next t ∧ Kept r t :=
  ⟨_, rfl, gate_kept h (fun s1 h1 => (recoveryCommit_kept h1))⟩
theorem execSysRecoveryData_kept {w} (h : Kept r s) : ∃ t, execSysRecoveryData w s = .next t ∧ Kept r t :=
  ⟨_, rfl, gate_kept h (fun s1 h1 => (recoveryData_kept h1))⟩
theorem execRecoveryProgramComplete_kept {readBackOk env} (h : Kept r s) : ∃ t, execRecoveryProgramComplete readBackOk env s = .next t ∧ Kept r t :=
  ⟨_, rfl, recoveryProgramComplete_kept h⟩
theorem execDillWatchdogExpiry_kept {p} (h : Kept r s) : ∃ t, execDillWatchdogExpiry p s = .next t ∧ Kept r t :=
  ⟨_, rfl, unlessDiscarded_kept h (fun s1 h1 => (dillWatchdog_kept h1))⟩
theorem execRosemaryWatchdogExpiry_kept (h : Kept r s) : ∃ t, execRosemaryWatchdogExpiry s = .next t ∧ Kept r t :=
  ⟨_, rfl, rosemaryWatchdog_kept h⟩
theorem execLifeHourUpdate_kept {celsius} (h : Kept r s) : ∃ t, execLifeHourUpdate celsius s = .next t ∧ Kept r t :=
  ⟨_, rfl, lifeHour_kept h⟩
theorem execPairLatchTimeout_kept (h : Kept r s) : ∃ t, execPairLatchTimeout s = .next t ∧ Kept r t :=
  ⟨_, rfl, latchTimeout_kept h⟩
theorem execLoHalfRead_kept {o off} (h : Kept r s) : ∃ t, execLoHalfRead o off s = .next t ∧ Kept r t :=
  ⟨_, rfl, registerRead_kept h⟩
theorem execRcRead_kept {o off} (h : Kept r s) : ∃ t, execRcRead o off s = .next t ∧ Kept r t :=
  ⟨_, rfl, registerRead_kept h⟩
theorem execRegisterWrite_kept {o off data env} (h : Kept r s) : ∃ t, execRegisterWrite o off data env s = .next t ∧ Kept r t :=
  ⟨_, rfl, registerWrite_kept h⟩
theorem execCtxImportComplete_kept {ctx} (h : Kept r s) : ∃ t, execCtxImportComplete ctx s = .next t ∧ Kept r t :=
  ⟨_, rfl, ctxImportComplete_kept h⟩
theorem execCtxExportComplete_kept {ctx} (h : Kept r s) : ∃ t, execCtxExportComplete ctx s = .next t ∧ Kept r t :=
  ⟨_, rfl, ctxExportComplete_kept h⟩
theorem execWayZeroisationComplete_kept {p} (h : Kept r s) : ∃ t, execWayZeroisationComplete p s = .next t ∧ Kept r t :=
  ⟨_, rfl, State.modPart_kept h⟩
theorem execGroupZeroisationComplete_kept {g} (h : Kept r s) : ∃ t, execGroupZeroisationComplete g s = .next t ∧ Kept r t :=
  ⟨_, rfl, groupZeroised_kept h⟩
theorem execThermtripDeassert_kept {celsius} (h : Kept r s) : ∃ t, execThermtripDeassert celsius s = .next t ∧ Kept r t :=
  ⟨_, rfl, thermtripDeassert_kept h⟩
theorem execReferenceRestored_kept (h : Kept r s) : ∃ t, execReferenceRestored s = .next t ∧ Kept r t :=
  ⟨_, rfl, ite_kept h (State.modPwr_kept h)⟩
theorem execCxlLinkTrained_kept {cfg} (h : Kept r s) : ∃ t, execCxlLinkTrained cfg s = .next t ∧ Kept r t :=
  ⟨_, rfl, linkTrained_kept h⟩
theorem execHostSnoop_kept {_addr} (h : Kept r s) : ∃ t, execHostSnoop _addr s = .next t ∧ Kept r t :=
  ⟨_, rfl, h.same rfl⟩
theorem execIdeKm_kept {enable} (h : Kept r s) : ∃ t, execIdeKm enable s = .next t ∧ Kept r t :=
  ⟨_, rfl, ite_kept (State.modCxl_kept h) h⟩
theorem execConfigurationRequest_kept {_fn} (h : Kept r s) : ∃ t, execConfigurationRequest _fn s = .next t ∧ Kept r t :=
  ⟨_, rfl, h.same rfl⟩
theorem execRefusedRead_kept {o off width} (h : Kept r s) : ∃ t, execRefusedRead o off width s = .next t ∧ Kept r t :=
  ⟨_, rfl, registerRead_kept h⟩

end Sys2Proof.Machine
end

