-- ==== Sys2Proof/Laws/State.lean ====
section
/-! SUPPORT. What each update of `State` leaves in each field and unit: no later proof unfolds a record update. -/

namespace Sys2Proof.Machine.State

/-! `setCore` -/

@[simp] theorem setCore_pending (s : State) (c : Nat) (v : Core) : (s.setCore c v).pending = s.pending := rfl
@[simp] theorem setCore_freeCtr (s : State) (c : Nat) (v : Core) : (s.setCore c v).freeCtr = s.freeCtr := rfl
@[simp] theorem setCore_readData (s : State) (c : Nat) (v : Core) : (s.setCore c v).readData = s.readData := rfl
@[simp] theorem setCore_readPoison (s : State) (c : Nat) (v : Core) : (s.setCore c v).readPoison = s.readPoison := rfl
@[simp] theorem setCore_gov (s : State) (c : Nat) (v : Core) : (s.setCore c v).gov = s.gov := rfl
@[simp] theorem setCore_cores (s : State) (c : Nat) (v : Core) : (s.setCore c v).cores = sput Core.fresh s.cores c v := rfl
@[simp] theorem setCore_fused (s : State) (c : Nat) (v : Core) : (s.setCore c v).fused = s.fused := rfl
@[simp] theorem setCore_macros (s : State) (c : Nat) (v : Core) : (s.setCore c v).macros = s.macros := rfl
@[simp] theorem setCore_groups (s : State) (c : Nat) (v : Core) : (s.setCore c v).groups = s.groups := rfl
@[simp] theorem setCore_scratch (s : State) (c : Nat) (v : Core) : (s.setCore c v).scratch = s.scratch := rfl
@[simp] theorem setCore_cim (s : State) (c : Nat) (v : Core) : (s.setCore c v).cim = s.cim := rfl
@[simp] theorem setCore_scales (s : State) (c : Nat) (v : Core) : (s.setCore c v).scales = s.scales := rfl
@[simp] theorem setCore_parity (s : State) (c : Nat) (v : Core) : (s.setCore c v).parity = s.parity := rfl
@[simp] theorem setCore_scaleParity (s : State) (c : Nat) (v : Core) : (s.setCore c v).scaleParity = s.scaleParity := rfl
@[simp] theorem setCore_pages (s : State) (c : Nat) (v : Core) : (s.setCore c v).pages = s.pages := rfl
@[simp] theorem setCore_stack (s : State) (c : Nat) (v : Core) : (s.setCore c v).stack = s.stack := rfl
@[simp] theorem setCore_snaps (s : State) (c : Nat) (v : Core) : (s.setCore c v).snaps = s.snaps := rfl
@[simp] theorem setCore_lines (s : State) (c : Nat) (v : Core) : (s.setCore c v).lines = s.lines := rfl
@[simp] theorem setCore_cacheBytes (s : State) (c : Nat) (v : Core) : (s.setCore c v).cacheBytes = s.cacheBytes := rfl
@[simp] theorem setCore_useCtr (s : State) (c : Nat) (v : Core) : (s.setCore c v).useCtr = s.useCtr := rfl
@[simp] theorem setCore_mem (s : State) (c : Nat) (v : Core) : (s.setCore c v).mem = s.mem := rfl
@[simp] theorem setCore_parts (s : State) (c : Nat) (v : Core) : (s.setCore c v).parts = s.parts := rfl
@[simp] theorem setCore_commit (s : State) (c : Nat) (v : Core) : (s.setCore c v).commit = s.commit := rfl
@[simp] theorem setCore_ctxs (s : State) (c : Nat) (v : Core) : (s.setCore c v).ctxs = s.ctxs := rfl
@[simp] theorem setCore_ctxSel (s : State) (c : Nat) (v : Core) : (s.setCore c v).ctxSel = s.ctxSel := rfl
@[simp] theorem setCore_sage (s : State) (c : Nat) (v : Core) : (s.setCore c v).sage = s.sage := rfl
@[simp] theorem setCore_mboxes (s : State) (c : Nat) (v : Core) : (s.setCore c v).mboxes = s.mboxes := rfl
@[simp] theorem setCore_bayViol (s : State) (c : Nat) (v : Core) : (s.setCore c v).bayViol = s.bayViol := rfl
@[simp] theorem setCore_cxl (s : State) (c : Nat) (v : Core) : (s.setCore c v).cxl = s.cxl := rfl
@[simp] theorem setCore_ports (s : State) (c : Nat) (v : Core) : (s.setCore c v).ports = s.ports := rfl
@[simp] theorem setCore_fnlMode (s : State) (c : Nat) (v : Core) : (s.setCore c v).fnlMode = s.fnlMode := rfl
@[simp] theorem setCore_pwr (s : State) (c : Nat) (v : Core) : (s.setCore c v).pwr = s.pwr := rfl
@[simp] theorem setCore_sys (s : State) (c : Nat) (v : Core) : (s.setCore c v).sys = s.sys := rfl
@[simp] theorem setCore_err (s : State) (c : Nat) (v : Core) : (s.setCore c v).err = s.err := rfl
@[simp] theorem setCore_core (s : State) (c : Nat) (v : Core) (x : Nat) : (s.setCore c v).core x = if x = c then v else s.core x :=
  sget_sput _ _ _ _ _
@[simp] theorem setCore_macro1 (s : State) (c : Nat) (v : Core) (x : Nat) : (s.setCore c v).macro1 x = s.macro1 x := rfl
@[simp] theorem setCore_group (s : State) (c : Nat) (v : Core) (x : Nat) : (s.setCore c v).group x = s.group x := rfl
@[simp] theorem setCore_page (s : State) (c : Nat) (v : Core) (x : Nat) : (s.setCore c v).page x = s.page x := rfl
@[simp] theorem setCore_part (s : State) (c : Nat) (v : Core) (x : Nat) : (s.setCore c v).part x = s.part x := rfl
@[simp] theorem setCore_ctx (s : State) (c : Nat) (v : Core) (x : Nat) : (s.setCore c v).ctx x = s.ctx x := rfl
@[simp] theorem setCore_mbox (s : State) (c : Nat) (v : Core) (x : Nat) : (s.setCore c v).mbox x = s.mbox x := rfl
@[simp] theorem setCore_port (s : State) (c : Nat) (v : Core) (x : Nat) : (s.setCore c v).port x = s.port x := rfl
@[simp] theorem setCore_qp (s : State) (c : Nat) (v : Core) (x y : Nat) : (s.setCore c v).qp x y = s.qp x y := rfl
@[simp] theorem setCore_govPart (s : State) (c : Nat) (v : Core) (x : Nat) : (s.setCore c v).govPart x = s.govPart x := rfl
@[simp] theorem setCore_tick (s : State) (c : Nat) (v : Core) : (s.setCore c v).tick = s.tick := rfl
@[simp] theorem setCore_tick64 (s : State) (c : Nat) (v : Core) : (s.setCore c v).tick64 = s.tick64 := rfl
@[simp] theorem setCore_ready (s : State) (c : Nat) (v : Core) : (s.setCore c v).ready = s.ready := rfl
@[simp] theorem setCore_parsley (s : State) (c : Nat) (v : Core) : (s.setCore c v).parsley = s.parsley := rfl

/-! `modCore` -/

@[simp] theorem modCore_pending (s : State) (c : Nat) (f : Core → Core) : (s.modCore c f).pending = s.pending := rfl
@[simp] theorem modCore_freeCtr (s : State) (c : Nat) (f : Core → Core) : (s.modCore c f).freeCtr = s.freeCtr := rfl
@[simp] theorem modCore_readData (s : State) (c : Nat) (f : Core → Core) : (s.modCore c f).readData = s.readData := rfl
@[simp] theorem modCore_readPoison (s : State) (c : Nat) (f : Core → Core) : (s.modCore c f).readPoison = s.readPoison := rfl
@[simp] theorem modCore_gov (s : State) (c : Nat) (f : Core → Core) : (s.modCore c f).gov = s.gov := rfl
@[simp] theorem modCore_cores (s : State) (c : Nat) (f : Core → Core) : (s.modCore c f).cores = sput Core.fresh s.cores c (f (s.core c)) := rfl
@[simp] theorem modCore_fused (s : State) (c : Nat) (f : Core → Core) : (s.modCore c f).fused = s.fused := rfl
@[simp] theorem modCore_macros (s : State) (c : Nat) (f : Core → Core) : (s.modCore c f).macros = s.macros := rfl
@[simp] theorem modCore_groups (s : State) (c : Nat) (f : Core → Core) : (s.modCore c f).groups = s.groups := rfl
@[simp] theorem modCore_scratch (s : State) (c : Nat) (f : Core → Core) : (s.modCore c f).scratch = s.scratch := rfl
@[simp] theorem modCore_cim (s : State) (c : Nat) (f : Core → Core) : (s.modCore c f).cim = s.cim := rfl
@[simp] theorem modCore_scales (s : State) (c : Nat) (f : Core → Core) : (s.modCore c f).scales = s.scales := rfl
@[simp] theorem modCore_parity (s : State) (c : Nat) (f : Core → Core) : (s.modCore c f).parity = s.parity := rfl
@[simp] theorem modCore_scaleParity (s : State) (c : Nat) (f : Core → Core) : (s.modCore c f).scaleParity = s.scaleParity := rfl
@[simp] theorem modCore_pages (s : State) (c : Nat) (f : Core → Core) : (s.modCore c f).pages = s.pages := rfl
@[simp] theorem modCore_stack (s : State) (c : Nat) (f : Core → Core) : (s.modCore c f).stack = s.stack := rfl
@[simp] theorem modCore_snaps (s : State) (c : Nat) (f : Core → Core) : (s.modCore c f).snaps = s.snaps := rfl
@[simp] theorem modCore_lines (s : State) (c : Nat) (f : Core → Core) : (s.modCore c f).lines = s.lines := rfl
@[simp] theorem modCore_cacheBytes (s : State) (c : Nat) (f : Core → Core) : (s.modCore c f).cacheBytes = s.cacheBytes := rfl
@[simp] theorem modCore_useCtr (s : State) (c : Nat) (f : Core → Core) : (s.modCore c f).useCtr = s.useCtr := rfl
@[simp] theorem modCore_mem (s : State) (c : Nat) (f : Core → Core) : (s.modCore c f).mem = s.mem := rfl
@[simp] theorem modCore_parts (s : State) (c : Nat) (f : Core → Core) : (s.modCore c f).parts = s.parts := rfl
@[simp] theorem modCore_commit (s : State) (c : Nat) (f : Core → Core) : (s.modCore c f).commit = s.commit := rfl
@[simp] theorem modCore_ctxs (s : State) (c : Nat) (f : Core → Core) : (s.modCore c f).ctxs = s.ctxs := rfl
@[simp] theorem modCore_ctxSel (s : State) (c : Nat) (f : Core → Core) : (s.modCore c f).ctxSel = s.ctxSel := rfl
@[simp] theorem modCore_sage (s : State) (c : Nat) (f : Core → Core) : (s.modCore c f).sage = s.sage := rfl
@[simp] theorem modCore_mboxes (s : State) (c : Nat) (f : Core → Core) : (s.modCore c f).mboxes = s.mboxes := rfl
@[simp] theorem modCore_bayViol (s : State) (c : Nat) (f : Core → Core) : (s.modCore c f).bayViol = s.bayViol := rfl
@[simp] theorem modCore_cxl (s : State) (c : Nat) (f : Core → Core) : (s.modCore c f).cxl = s.cxl := rfl
@[simp] theorem modCore_ports (s : State) (c : Nat) (f : Core → Core) : (s.modCore c f).ports = s.ports := rfl
@[simp] theorem modCore_fnlMode (s : State) (c : Nat) (f : Core → Core) : (s.modCore c f).fnlMode = s.fnlMode := rfl
@[simp] theorem modCore_pwr (s : State) (c : Nat) (f : Core → Core) : (s.modCore c f).pwr = s.pwr := rfl
@[simp] theorem modCore_sys (s : State) (c : Nat) (f : Core → Core) : (s.modCore c f).sys = s.sys := rfl
@[simp] theorem modCore_err (s : State) (c : Nat) (f : Core → Core) : (s.modCore c f).err = s.err := rfl
@[simp] theorem modCore_core (s : State) (c : Nat) (f : Core → Core) (x : Nat) : (s.modCore c f).core x = if x = c then f (s.core c) else s.core x :=
  sget_sput _ _ _ _ _
@[simp] theorem modCore_macro1 (s : State) (c : Nat) (f : Core → Core) (x : Nat) : (s.modCore c f).macro1 x = s.macro1 x := rfl
@[simp] theorem modCore_group (s : State) (c : Nat) (f : Core → Core) (x : Nat) : (s.modCore c f).group x = s.group x := rfl
@[simp] theorem modCore_page (s : State) (c : Nat) (f : Core → Core) (x : Nat) : (s.modCore c f).page x = s.page x := rfl
@[simp] theorem modCore_part (s : State) (c : Nat) (f : Core → Core) (x : Nat) : (s.modCore c f).part x = s.part x := rfl
@[simp] theorem modCore_ctx (s : State) (c : Nat) (f : Core → Core) (x : Nat) : (s.modCore c f).ctx x = s.ctx x := rfl
@[simp] theorem modCore_mbox (s : State) (c : Nat) (f : Core → Core) (x : Nat) : (s.modCore c f).mbox x = s.mbox x := rfl
@[simp] theorem modCore_port (s : State) (c : Nat) (f : Core → Core) (x : Nat) : (s.modCore c f).port x = s.port x := rfl
@[simp] theorem modCore_qp (s : State) (c : Nat) (f : Core → Core) (x y : Nat) : (s.modCore c f).qp x y = s.qp x y := rfl
@[simp] theorem modCore_govPart (s : State) (c : Nat) (f : Core → Core) (x : Nat) : (s.modCore c f).govPart x = s.govPart x := rfl
@[simp] theorem modCore_tick (s : State) (c : Nat) (f : Core → Core) : (s.modCore c f).tick = s.tick := rfl
@[simp] theorem modCore_tick64 (s : State) (c : Nat) (f : Core → Core) : (s.modCore c f).tick64 = s.tick64 := rfl
@[simp] theorem modCore_ready (s : State) (c : Nat) (f : Core → Core) : (s.modCore c f).ready = s.ready := rfl
@[simp] theorem modCore_parsley (s : State) (c : Nat) (f : Core → Core) : (s.modCore c f).parsley = s.parsley := rfl

/-! `modMacro` -/

@[simp] theorem modMacro_pending (s : State) (m : Nat) (f : MacroSt → MacroSt) : (s.modMacro m f).pending = s.pending := rfl
@[simp] theorem modMacro_freeCtr (s : State) (m : Nat) (f : MacroSt → MacroSt) : (s.modMacro m f).freeCtr = s.freeCtr := rfl
@[simp] theorem modMacro_readData (s : State) (m : Nat) (f : MacroSt → MacroSt) : (s.modMacro m f).readData = s.readData := rfl
@[simp] theorem modMacro_readPoison (s : State) (m : Nat) (f : MacroSt → MacroSt) : (s.modMacro m f).readPoison = s.readPoison := rfl
@[simp] theorem modMacro_gov (s : State) (m : Nat) (f : MacroSt → MacroSt) : (s.modMacro m f).gov = s.gov := rfl
@[simp] theorem modMacro_cores (s : State) (m : Nat) (f : MacroSt → MacroSt) : (s.modMacro m f).cores = s.cores := rfl
@[simp] theorem modMacro_fused (s : State) (m : Nat) (f : MacroSt → MacroSt) : (s.modMacro m f).fused = s.fused := rfl
@[simp] theorem modMacro_macros (s : State) (m : Nat) (f : MacroSt → MacroSt) : (s.modMacro m f).macros = smod MacroSt.fresh s.macros m f := rfl
@[simp] theorem modMacro_groups (s : State) (m : Nat) (f : MacroSt → MacroSt) : (s.modMacro m f).groups = s.groups := rfl
@[simp] theorem modMacro_scratch (s : State) (m : Nat) (f : MacroSt → MacroSt) : (s.modMacro m f).scratch = s.scratch := rfl
@[simp] theorem modMacro_cim (s : State) (m : Nat) (f : MacroSt → MacroSt) : (s.modMacro m f).cim = s.cim := rfl
@[simp] theorem modMacro_scales (s : State) (m : Nat) (f : MacroSt → MacroSt) : (s.modMacro m f).scales = s.scales := rfl
@[simp] theorem modMacro_parity (s : State) (m : Nat) (f : MacroSt → MacroSt) : (s.modMacro m f).parity = s.parity := rfl
@[simp] theorem modMacro_scaleParity (s : State) (m : Nat) (f : MacroSt → MacroSt) : (s.modMacro m f).scaleParity = s.scaleParity := rfl
@[simp] theorem modMacro_pages (s : State) (m : Nat) (f : MacroSt → MacroSt) : (s.modMacro m f).pages = s.pages := rfl
@[simp] theorem modMacro_stack (s : State) (m : Nat) (f : MacroSt → MacroSt) : (s.modMacro m f).stack = s.stack := rfl
@[simp] theorem modMacro_snaps (s : State) (m : Nat) (f : MacroSt → MacroSt) : (s.modMacro m f).snaps = s.snaps := rfl
@[simp] theorem modMacro_lines (s : State) (m : Nat) (f : MacroSt → MacroSt) : (s.modMacro m f).lines = s.lines := rfl
@[simp] theorem modMacro_cacheBytes (s : State) (m : Nat) (f : MacroSt → MacroSt) : (s.modMacro m f).cacheBytes = s.cacheBytes := rfl
@[simp] theorem modMacro_useCtr (s : State) (m : Nat) (f : MacroSt → MacroSt) : (s.modMacro m f).useCtr = s.useCtr := rfl
@[simp] theorem modMacro_mem (s : State) (m : Nat) (f : MacroSt → MacroSt) : (s.modMacro m f).mem = s.mem := rfl
@[simp] theorem modMacro_parts (s : State) (m : Nat) (f : MacroSt → MacroSt) : (s.modMacro m f).parts = s.parts := rfl
@[simp] theorem modMacro_commit (s : State) (m : Nat) (f : MacroSt → MacroSt) : (s.modMacro m f).commit = s.commit := rfl
@[simp] theorem modMacro_ctxs (s : State) (m : Nat) (f : MacroSt → MacroSt) : (s.modMacro m f).ctxs = s.ctxs := rfl
@[simp] theorem modMacro_ctxSel (s : State) (m : Nat) (f : MacroSt → MacroSt) : (s.modMacro m f).ctxSel = s.ctxSel := rfl
@[simp] theorem modMacro_sage (s : State) (m : Nat) (f : MacroSt → MacroSt) : (s.modMacro m f).sage = s.sage := rfl
@[simp] theorem modMacro_mboxes (s : State) (m : Nat) (f : MacroSt → MacroSt) : (s.modMacro m f).mboxes = s.mboxes := rfl
@[simp] theorem modMacro_bayViol (s : State) (m : Nat) (f : MacroSt → MacroSt) : (s.modMacro m f).bayViol = s.bayViol := rfl
@[simp] theorem modMacro_cxl (s : State) (m : Nat) (f : MacroSt → MacroSt) : (s.modMacro m f).cxl = s.cxl := rfl
@[simp] theorem modMacro_ports (s : State) (m : Nat) (f : MacroSt → MacroSt) : (s.modMacro m f).ports = s.ports := rfl
@[simp] theorem modMacro_fnlMode (s : State) (m : Nat) (f : MacroSt → MacroSt) : (s.modMacro m f).fnlMode = s.fnlMode := rfl
@[simp] theorem modMacro_pwr (s : State) (m : Nat) (f : MacroSt → MacroSt) : (s.modMacro m f).pwr = s.pwr := rfl
@[simp] theorem modMacro_sys (s : State) (m : Nat) (f : MacroSt → MacroSt) : (s.modMacro m f).sys = s.sys := rfl
@[simp] theorem modMacro_err (s : State) (m : Nat) (f : MacroSt → MacroSt) : (s.modMacro m f).err = s.err := rfl
@[simp] theorem modMacro_core (s : State) (m : Nat) (f : MacroSt → MacroSt) (x : Nat) : (s.modMacro m f).core x = s.core x := rfl
@[simp] theorem modMacro_macro1 (s : State) (m : Nat) (f : MacroSt → MacroSt) (x : Nat) : (s.modMacro m f).macro1 x = if x = m then f (s.macro1 m) else s.macro1 x :=
  sget_sput _ _ _ _ _
@[simp] theorem modMacro_group (s : State) (m : Nat) (f : MacroSt → MacroSt) (x : Nat) : (s.modMacro m f).group x = s.group x := rfl
@[simp] theorem modMacro_page (s : State) (m : Nat) (f : MacroSt → MacroSt) (x : Nat) : (s.modMacro m f).page x = s.page x := rfl
@[simp] theorem modMacro_part (s : State) (m : Nat) (f : MacroSt → MacroSt) (x : Nat) : (s.modMacro m f).part x = s.part x := rfl
@[simp] theorem modMacro_ctx (s : State) (m : Nat) (f : MacroSt → MacroSt) (x : Nat) : (s.modMacro m f).ctx x = s.ctx x := rfl
@[simp] theorem modMacro_mbox (s : State) (m : Nat) (f : MacroSt → MacroSt) (x : Nat) : (s.modMacro m f).mbox x = s.mbox x := rfl
@[simp] theorem modMacro_port (s : State) (m : Nat) (f : MacroSt → MacroSt) (x : Nat) : (s.modMacro m f).port x = s.port x := rfl
@[simp] theorem modMacro_qp (s : State) (m : Nat) (f : MacroSt → MacroSt) (x y : Nat) : (s.modMacro m f).qp x y = s.qp x y := rfl
@[simp] theorem modMacro_govPart (s : State) (m : Nat) (f : MacroSt → MacroSt) (x : Nat) : (s.modMacro m f).govPart x = s.govPart x := rfl
@[simp] theorem modMacro_tick (s : State) (m : Nat) (f : MacroSt → MacroSt) : (s.modMacro m f).tick = s.tick := rfl
@[simp] theorem modMacro_tick64 (s : State) (m : Nat) (f : MacroSt → MacroSt) : (s.modMacro m f).tick64 = s.tick64 := rfl
@[simp] theorem modMacro_ready (s : State) (m : Nat) (f : MacroSt → MacroSt) : (s.modMacro m f).ready = s.ready := rfl
@[simp] theorem modMacro_parsley (s : State) (m : Nat) (f : MacroSt → MacroSt) : (s.modMacro m f).parsley = s.parsley := rfl

/-! `modGroup` -/

@[simp] theorem modGroup_pending (s : State) (g : Nat) (f : GroupSt → GroupSt) : (s.modGroup g f).pending = s.pending := rfl
@[simp] theorem modGroup_freeCtr (s : State) (g : Nat) (f : GroupSt → GroupSt) : (s.modGroup g f).freeCtr = s.freeCtr := rfl
@[simp] theorem modGroup_readData (s : State) (g : Nat) (f : GroupSt → GroupSt) : (s.modGroup g f).readData = s.readData := rfl
@[simp] theorem modGroup_readPoison (s : State) (g : Nat) (f : GroupSt → GroupSt) : (s.modGroup g f).readPoison = s.readPoison := rfl
@[simp] theorem modGroup_gov (s : State) (g : Nat) (f : GroupSt → GroupSt) : (s.modGroup g f).gov = s.gov := rfl
@[simp] theorem modGroup_cores (s : State) (g : Nat) (f : GroupSt → GroupSt) : (s.modGroup g f).cores = s.cores := rfl
@[simp] theorem modGroup_fused (s : State) (g : Nat) (f : GroupSt → GroupSt) : (s.modGroup g f).fused = s.fused := rfl
@[simp] theorem modGroup_macros (s : State) (g : Nat) (f : GroupSt → GroupSt) : (s.modGroup g f).macros = s.macros := rfl
@[simp] theorem modGroup_groups (s : State) (g : Nat) (f : GroupSt → GroupSt) : (s.modGroup g f).groups = smod GroupSt.fresh s.groups g f := rfl
@[simp] theorem modGroup_scratch (s : State) (g : Nat) (f : GroupSt → GroupSt) : (s.modGroup g f).scratch = s.scratch := rfl
@[simp] theorem modGroup_cim (s : State) (g : Nat) (f : GroupSt → GroupSt) : (s.modGroup g f).cim = s.cim := rfl
@[simp] theorem modGroup_scales (s : State) (g : Nat) (f : GroupSt → GroupSt) : (s.modGroup g f).scales = s.scales := rfl
@[simp] theorem modGroup_parity (s : State) (g : Nat) (f : GroupSt → GroupSt) : (s.modGroup g f).parity = s.parity := rfl
@[simp] theorem modGroup_scaleParity (s : State) (g : Nat) (f : GroupSt → GroupSt) : (s.modGroup g f).scaleParity = s.scaleParity := rfl
@[simp] theorem modGroup_pages (s : State) (g : Nat) (f : GroupSt → GroupSt) : (s.modGroup g f).pages = s.pages := rfl
@[simp] theorem modGroup_stack (s : State) (g : Nat) (f : GroupSt → GroupSt) : (s.modGroup g f).stack = s.stack := rfl
@[simp] theorem modGroup_snaps (s : State) (g : Nat) (f : GroupSt → GroupSt) : (s.modGroup g f).snaps = s.snaps := rfl
@[simp] theorem modGroup_lines (s : State) (g : Nat) (f : GroupSt → GroupSt) : (s.modGroup g f).lines = s.lines := rfl
@[simp] theorem modGroup_cacheBytes (s : State) (g : Nat) (f : GroupSt → GroupSt) : (s.modGroup g f).cacheBytes = s.cacheBytes := rfl
@[simp] theorem modGroup_useCtr (s : State) (g : Nat) (f : GroupSt → GroupSt) : (s.modGroup g f).useCtr = s.useCtr := rfl
@[simp] theorem modGroup_mem (s : State) (g : Nat) (f : GroupSt → GroupSt) : (s.modGroup g f).mem = s.mem := rfl
@[simp] theorem modGroup_parts (s : State) (g : Nat) (f : GroupSt → GroupSt) : (s.modGroup g f).parts = s.parts := rfl
@[simp] theorem modGroup_commit (s : State) (g : Nat) (f : GroupSt → GroupSt) : (s.modGroup g f).commit = s.commit := rfl
@[simp] theorem modGroup_ctxs (s : State) (g : Nat) (f : GroupSt → GroupSt) : (s.modGroup g f).ctxs = s.ctxs := rfl
@[simp] theorem modGroup_ctxSel (s : State) (g : Nat) (f : GroupSt → GroupSt) : (s.modGroup g f).ctxSel = s.ctxSel := rfl
@[simp] theorem modGroup_sage (s : State) (g : Nat) (f : GroupSt → GroupSt) : (s.modGroup g f).sage = s.sage := rfl
@[simp] theorem modGroup_mboxes (s : State) (g : Nat) (f : GroupSt → GroupSt) : (s.modGroup g f).mboxes = s.mboxes := rfl
@[simp] theorem modGroup_bayViol (s : State) (g : Nat) (f : GroupSt → GroupSt) : (s.modGroup g f).bayViol = s.bayViol := rfl
@[simp] theorem modGroup_cxl (s : State) (g : Nat) (f : GroupSt → GroupSt) : (s.modGroup g f).cxl = s.cxl := rfl
@[simp] theorem modGroup_ports (s : State) (g : Nat) (f : GroupSt → GroupSt) : (s.modGroup g f).ports = s.ports := rfl
@[simp] theorem modGroup_fnlMode (s : State) (g : Nat) (f : GroupSt → GroupSt) : (s.modGroup g f).fnlMode = s.fnlMode := rfl
@[simp] theorem modGroup_pwr (s : State) (g : Nat) (f : GroupSt → GroupSt) : (s.modGroup g f).pwr = s.pwr := rfl
@[simp] theorem modGroup_sys (s : State) (g : Nat) (f : GroupSt → GroupSt) : (s.modGroup g f).sys = s.sys := rfl
@[simp] theorem modGroup_err (s : State) (g : Nat) (f : GroupSt → GroupSt) : (s.modGroup g f).err = s.err := rfl
@[simp] theorem modGroup_core (s : State) (g : Nat) (f : GroupSt → GroupSt) (x : Nat) : (s.modGroup g f).core x = s.core x := rfl
@[simp] theorem modGroup_macro1 (s : State) (g : Nat) (f : GroupSt → GroupSt) (x : Nat) : (s.modGroup g f).macro1 x = s.macro1 x := rfl
@[simp] theorem modGroup_group (s : State) (g : Nat) (f : GroupSt → GroupSt) (x : Nat) : (s.modGroup g f).group x = if x = g then f (s.group g) else s.group x :=
  sget_sput _ _ _ _ _
@[simp] theorem modGroup_page (s : State) (g : Nat) (f : GroupSt → GroupSt) (x : Nat) : (s.modGroup g f).page x = s.page x := rfl
@[simp] theorem modGroup_part (s : State) (g : Nat) (f : GroupSt → GroupSt) (x : Nat) : (s.modGroup g f).part x = s.part x := rfl
@[simp] theorem modGroup_ctx (s : State) (g : Nat) (f : GroupSt → GroupSt) (x : Nat) : (s.modGroup g f).ctx x = s.ctx x := rfl
@[simp] theorem modGroup_mbox (s : State) (g : Nat) (f : GroupSt → GroupSt) (x : Nat) : (s.modGroup g f).mbox x = s.mbox x := rfl
@[simp] theorem modGroup_port (s : State) (g : Nat) (f : GroupSt → GroupSt) (x : Nat) : (s.modGroup g f).port x = s.port x := rfl
@[simp] theorem modGroup_qp (s : State) (g : Nat) (f : GroupSt → GroupSt) (x y : Nat) : (s.modGroup g f).qp x y = s.qp x y := rfl
@[simp] theorem modGroup_govPart (s : State) (g : Nat) (f : GroupSt → GroupSt) (x : Nat) : (s.modGroup g f).govPart x = s.govPart x := rfl
@[simp] theorem modGroup_tick (s : State) (g : Nat) (f : GroupSt → GroupSt) : (s.modGroup g f).tick = s.tick := rfl
@[simp] theorem modGroup_tick64 (s : State) (g : Nat) (f : GroupSt → GroupSt) : (s.modGroup g f).tick64 = s.tick64 := rfl
@[simp] theorem modGroup_ready (s : State) (g : Nat) (f : GroupSt → GroupSt) : (s.modGroup g f).ready = s.ready := rfl
@[simp] theorem modGroup_parsley (s : State) (g : Nat) (f : GroupSt → GroupSt) : (s.modGroup g f).parsley = s.parsley := rfl

/-! `setPage` -/

@[simp] theorem setPage_pending (s : State) (g : Nat) (v : PageE) : (s.setPage g v).pending = s.pending := rfl
@[simp] theorem setPage_freeCtr (s : State) (g : Nat) (v : PageE) : (s.setPage g v).freeCtr = s.freeCtr := rfl
@[simp] theorem setPage_readData (s : State) (g : Nat) (v : PageE) : (s.setPage g v).readData = s.readData := rfl
@[simp] theorem setPage_readPoison (s : State) (g : Nat) (v : PageE) : (s.setPage g v).readPoison = s.readPoison := rfl
@[simp] theorem setPage_gov (s : State) (g : Nat) (v : PageE) : (s.setPage g v).gov = s.gov := rfl
@[simp] theorem setPage_cores (s : State) (g : Nat) (v : PageE) : (s.setPage g v).cores = s.cores := rfl
@[simp] theorem setPage_fused (s : State) (g : Nat) (v : PageE) : (s.setPage g v).fused = s.fused := rfl
@[simp] theorem setPage_macros (s : State) (g : Nat) (v : PageE) : (s.setPage g v).macros = s.macros := rfl
@[simp] theorem setPage_groups (s : State) (g : Nat) (v : PageE) : (s.setPage g v).groups = s.groups := rfl
@[simp] theorem setPage_scratch (s : State) (g : Nat) (v : PageE) : (s.setPage g v).scratch = s.scratch := rfl
@[simp] theorem setPage_cim (s : State) (g : Nat) (v : PageE) : (s.setPage g v).cim = s.cim := rfl
@[simp] theorem setPage_scales (s : State) (g : Nat) (v : PageE) : (s.setPage g v).scales = s.scales := rfl
@[simp] theorem setPage_parity (s : State) (g : Nat) (v : PageE) : (s.setPage g v).parity = s.parity := rfl
@[simp] theorem setPage_scaleParity (s : State) (g : Nat) (v : PageE) : (s.setPage g v).scaleParity = s.scaleParity := rfl
@[simp] theorem setPage_pages (s : State) (g : Nat) (v : PageE) : (s.setPage g v).pages = sput PageE.free s.pages g v := rfl
@[simp] theorem setPage_stack (s : State) (g : Nat) (v : PageE) : (s.setPage g v).stack = s.stack := rfl
@[simp] theorem setPage_snaps (s : State) (g : Nat) (v : PageE) : (s.setPage g v).snaps = s.snaps := rfl
@[simp] theorem setPage_lines (s : State) (g : Nat) (v : PageE) : (s.setPage g v).lines = s.lines := rfl
@[simp] theorem setPage_cacheBytes (s : State) (g : Nat) (v : PageE) : (s.setPage g v).cacheBytes = s.cacheBytes := rfl
@[simp] theorem setPage_useCtr (s : State) (g : Nat) (v : PageE) : (s.setPage g v).useCtr = s.useCtr := rfl
@[simp] theorem setPage_mem (s : State) (g : Nat) (v : PageE) : (s.setPage g v).mem = s.mem := rfl
@[simp] theorem setPage_parts (s : State) (g : Nat) (v : PageE) : (s.setPage g v).parts = s.parts := rfl
@[simp] theorem setPage_commit (s : State) (g : Nat) (v : PageE) : (s.setPage g v).commit = s.commit := rfl
@[simp] theorem setPage_ctxs (s : State) (g : Nat) (v : PageE) : (s.setPage g v).ctxs = s.ctxs := rfl
@[simp] theorem setPage_ctxSel (s : State) (g : Nat) (v : PageE) : (s.setPage g v).ctxSel = s.ctxSel := rfl
@[simp] theorem setPage_sage (s : State) (g : Nat) (v : PageE) : (s.setPage g v).sage = s.sage := rfl
@[simp] theorem setPage_mboxes (s : State) (g : Nat) (v : PageE) : (s.setPage g v).mboxes = s.mboxes := rfl
@[simp] theorem setPage_bayViol (s : State) (g : Nat) (v : PageE) : (s.setPage g v).bayViol = s.bayViol := rfl
@[simp] theorem setPage_cxl (s : State) (g : Nat) (v : PageE) : (s.setPage g v).cxl = s.cxl := rfl
@[simp] theorem setPage_ports (s : State) (g : Nat) (v : PageE) : (s.setPage g v).ports = s.ports := rfl
@[simp] theorem setPage_fnlMode (s : State) (g : Nat) (v : PageE) : (s.setPage g v).fnlMode = s.fnlMode := rfl
@[simp] theorem setPage_pwr (s : State) (g : Nat) (v : PageE) : (s.setPage g v).pwr = s.pwr := rfl
@[simp] theorem setPage_sys (s : State) (g : Nat) (v : PageE) : (s.setPage g v).sys = s.sys := rfl
@[simp] theorem setPage_err (s : State) (g : Nat) (v : PageE) : (s.setPage g v).err = s.err := rfl
@[simp] theorem setPage_core (s : State) (g : Nat) (v : PageE) (x : Nat) : (s.setPage g v).core x = s.core x := rfl
@[simp] theorem setPage_macro1 (s : State) (g : Nat) (v : PageE) (x : Nat) : (s.setPage g v).macro1 x = s.macro1 x := rfl
@[simp] theorem setPage_group (s : State) (g : Nat) (v : PageE) (x : Nat) : (s.setPage g v).group x = s.group x := rfl
@[simp] theorem setPage_page (s : State) (g : Nat) (v : PageE) (x : Nat) : (s.setPage g v).page x = if x = g then v else s.page x :=
  sget_sput _ _ _ _ _
@[simp] theorem setPage_part (s : State) (g : Nat) (v : PageE) (x : Nat) : (s.setPage g v).part x = s.part x := rfl
@[simp] theorem setPage_ctx (s : State) (g : Nat) (v : PageE) (x : Nat) : (s.setPage g v).ctx x = s.ctx x := rfl
@[simp] theorem setPage_mbox (s : State) (g : Nat) (v : PageE) (x : Nat) : (s.setPage g v).mbox x = s.mbox x := rfl
@[simp] theorem setPage_port (s : State) (g : Nat) (v : PageE) (x : Nat) : (s.setPage g v).port x = s.port x := rfl
@[simp] theorem setPage_qp (s : State) (g : Nat) (v : PageE) (x y : Nat) : (s.setPage g v).qp x y = s.qp x y := rfl
@[simp] theorem setPage_govPart (s : State) (g : Nat) (v : PageE) (x : Nat) : (s.setPage g v).govPart x = s.govPart x := rfl
@[simp] theorem setPage_tick (s : State) (g : Nat) (v : PageE) : (s.setPage g v).tick = s.tick := rfl
@[simp] theorem setPage_tick64 (s : State) (g : Nat) (v : PageE) : (s.setPage g v).tick64 = s.tick64 := rfl
@[simp] theorem setPage_ready (s : State) (g : Nat) (v : PageE) : (s.setPage g v).ready = s.ready := rfl
@[simp] theorem setPage_parsley (s : State) (g : Nat) (v : PageE) : (s.setPage g v).parsley = s.parsley := rfl

/-! `setPart` -/

@[simp] theorem setPart_pending (s : State) (p : Nat) (v : Part) : (s.setPart p v).pending = s.pending := rfl
@[simp] theorem setPart_freeCtr (s : State) (p : Nat) (v : Part) : (s.setPart p v).freeCtr = s.freeCtr := rfl
@[simp] theorem setPart_readData (s : State) (p : Nat) (v : Part) : (s.setPart p v).readData = s.readData := rfl
@[simp] theorem setPart_readPoison (s : State) (p : Nat) (v : Part) : (s.setPart p v).readPoison = s.readPoison := rfl
@[simp] theorem setPart_gov (s : State) (p : Nat) (v : Part) : (s.setPart p v).gov = s.gov := rfl
@[simp] theorem setPart_cores (s : State) (p : Nat) (v : Part) : (s.setPart p v).cores = s.cores := rfl
@[simp] theorem setPart_fused (s : State) (p : Nat) (v : Part) : (s.setPart p v).fused = s.fused := rfl
@[simp] theorem setPart_macros (s : State) (p : Nat) (v : Part) : (s.setPart p v).macros = s.macros := rfl
@[simp] theorem setPart_groups (s : State) (p : Nat) (v : Part) : (s.setPart p v).groups = s.groups := rfl
@[simp] theorem setPart_scratch (s : State) (p : Nat) (v : Part) : (s.setPart p v).scratch = s.scratch := rfl
@[simp] theorem setPart_cim (s : State) (p : Nat) (v : Part) : (s.setPart p v).cim = s.cim := rfl
@[simp] theorem setPart_scales (s : State) (p : Nat) (v : Part) : (s.setPart p v).scales = s.scales := rfl
@[simp] theorem setPart_parity (s : State) (p : Nat) (v : Part) : (s.setPart p v).parity = s.parity := rfl
@[simp] theorem setPart_scaleParity (s : State) (p : Nat) (v : Part) : (s.setPart p v).scaleParity = s.scaleParity := rfl
@[simp] theorem setPart_pages (s : State) (p : Nat) (v : Part) : (s.setPart p v).pages = s.pages := rfl
@[simp] theorem setPart_stack (s : State) (p : Nat) (v : Part) : (s.setPart p v).stack = s.stack := rfl
@[simp] theorem setPart_snaps (s : State) (p : Nat) (v : Part) : (s.setPart p v).snaps = s.snaps := rfl
@[simp] theorem setPart_lines (s : State) (p : Nat) (v : Part) : (s.setPart p v).lines = s.lines := rfl
@[simp] theorem setPart_cacheBytes (s : State) (p : Nat) (v : Part) : (s.setPart p v).cacheBytes = s.cacheBytes := rfl
@[simp] theorem setPart_useCtr (s : State) (p : Nat) (v : Part) : (s.setPart p v).useCtr = s.useCtr := rfl
@[simp] theorem setPart_mem (s : State) (p : Nat) (v : Part) : (s.setPart p v).mem = s.mem := rfl
@[simp] theorem setPart_parts (s : State) (p : Nat) (v : Part) : (s.setPart p v).parts = sput Part.fresh s.parts p v := rfl
@[simp] theorem setPart_commit (s : State) (p : Nat) (v : Part) : (s.setPart p v).commit = s.commit := rfl
@[simp] theorem setPart_ctxs (s : State) (p : Nat) (v : Part) : (s.setPart p v).ctxs = s.ctxs := rfl
@[simp] theorem setPart_ctxSel (s : State) (p : Nat) (v : Part) : (s.setPart p v).ctxSel = s.ctxSel := rfl
@[simp] theorem setPart_sage (s : State) (p : Nat) (v : Part) : (s.setPart p v).sage = s.sage := rfl
@[simp] theorem setPart_mboxes (s : State) (p : Nat) (v : Part) : (s.setPart p v).mboxes = s.mboxes := rfl
@[simp] theorem setPart_bayViol (s : State) (p : Nat) (v : Part) : (s.setPart p v).bayViol = s.bayViol := rfl
@[simp] theorem setPart_cxl (s : State) (p : Nat) (v : Part) : (s.setPart p v).cxl = s.cxl := rfl
@[simp] theorem setPart_ports (s : State) (p : Nat) (v : Part) : (s.setPart p v).ports = s.ports := rfl
@[simp] theorem setPart_fnlMode (s : State) (p : Nat) (v : Part) : (s.setPart p v).fnlMode = s.fnlMode := rfl
@[simp] theorem setPart_pwr (s : State) (p : Nat) (v : Part) : (s.setPart p v).pwr = s.pwr := rfl
@[simp] theorem setPart_sys (s : State) (p : Nat) (v : Part) : (s.setPart p v).sys = s.sys := rfl
@[simp] theorem setPart_err (s : State) (p : Nat) (v : Part) : (s.setPart p v).err = s.err := rfl
@[simp] theorem setPart_core (s : State) (p : Nat) (v : Part) (x : Nat) : (s.setPart p v).core x = s.core x := rfl
@[simp] theorem setPart_macro1 (s : State) (p : Nat) (v : Part) (x : Nat) : (s.setPart p v).macro1 x = s.macro1 x := rfl
@[simp] theorem setPart_group (s : State) (p : Nat) (v : Part) (x : Nat) : (s.setPart p v).group x = s.group x := rfl
@[simp] theorem setPart_page (s : State) (p : Nat) (v : Part) (x : Nat) : (s.setPart p v).page x = s.page x := rfl
@[simp] theorem setPart_part (s : State) (p : Nat) (v : Part) (x : Nat) : (s.setPart p v).part x = if x = p then v else s.part x :=
  sget_sput _ _ _ _ _
@[simp] theorem setPart_ctx (s : State) (p : Nat) (v : Part) (x : Nat) : (s.setPart p v).ctx x = s.ctx x := rfl
@[simp] theorem setPart_mbox (s : State) (p : Nat) (v : Part) (x : Nat) : (s.setPart p v).mbox x = s.mbox x := rfl
@[simp] theorem setPart_port (s : State) (p : Nat) (v : Part) (x : Nat) : (s.setPart p v).port x = s.port x := rfl
@[simp] theorem setPart_qp (s : State) (p : Nat) (v : Part) (x y : Nat) : (s.setPart p v).qp x y = s.qp x y := rfl
@[simp] theorem setPart_govPart (s : State) (p : Nat) (v : Part) (x : Nat) : (s.setPart p v).govPart x = s.govPart x := rfl
@[simp] theorem setPart_tick (s : State) (p : Nat) (v : Part) : (s.setPart p v).tick = s.tick := rfl
@[simp] theorem setPart_tick64 (s : State) (p : Nat) (v : Part) : (s.setPart p v).tick64 = s.tick64 := rfl
@[simp] theorem setPart_ready (s : State) (p : Nat) (v : Part) : (s.setPart p v).ready = s.ready := rfl
@[simp] theorem setPart_parsley (s : State) (p : Nat) (v : Part) : (s.setPart p v).parsley = s.parsley := rfl

/-! `modPart` -/

@[simp] theorem modPart_pending (s : State) (p : Nat) (f : Part → Part) : (s.modPart p f).pending = s.pending := rfl
@[simp] theorem modPart_freeCtr (s : State) (p : Nat) (f : Part → Part) : (s.modPart p f).freeCtr = s.freeCtr := rfl
@[simp] theorem modPart_readData (s : State) (p : Nat) (f : Part → Part) : (s.modPart p f).readData = s.readData := rfl
@[simp] theorem modPart_readPoison (s : State) (p : Nat) (f : Part → Part) : (s.modPart p f).readPoison = s.readPoison := rfl
@[simp] theorem modPart_gov (s : State) (p : Nat) (f : Part → Part) : (s.modPart p f).gov = s.gov := rfl
@[simp] theorem modPart_cores (s : State) (p : Nat) (f : Part → Part) : (s.modPart p f).cores = s.cores := rfl
@[simp] theorem modPart_fused (s : State) (p : Nat) (f : Part → Part) : (s.modPart p f).fused = s.fused := rfl
@[simp] theorem modPart_macros (s : State) (p : Nat) (f : Part → Part) : (s.modPart p f).macros = s.macros := rfl
@[simp] theorem modPart_groups (s : State) (p : Nat) (f : Part → Part) : (s.modPart p f).groups = s.groups := rfl
@[simp] theorem modPart_scratch (s : State) (p : Nat) (f : Part → Part) : (s.modPart p f).scratch = s.scratch := rfl
@[simp] theorem modPart_cim (s : State) (p : Nat) (f : Part → Part) : (s.modPart p f).cim = s.cim := rfl
@[simp] theorem modPart_scales (s : State) (p : Nat) (f : Part → Part) : (s.modPart p f).scales = s.scales := rfl
@[simp] theorem modPart_parity (s : State) (p : Nat) (f : Part → Part) : (s.modPart p f).parity = s.parity := rfl
@[simp] theorem modPart_scaleParity (s : State) (p : Nat) (f : Part → Part) : (s.modPart p f).scaleParity = s.scaleParity := rfl
@[simp] theorem modPart_pages (s : State) (p : Nat) (f : Part → Part) : (s.modPart p f).pages = s.pages := rfl
@[simp] theorem modPart_stack (s : State) (p : Nat) (f : Part → Part) : (s.modPart p f).stack = s.stack := rfl
@[simp] theorem modPart_snaps (s : State) (p : Nat) (f : Part → Part) : (s.modPart p f).snaps = s.snaps := rfl
@[simp] theorem modPart_lines (s : State) (p : Nat) (f : Part → Part) : (s.modPart p f).lines = s.lines := rfl
@[simp] theorem modPart_cacheBytes (s : State) (p : Nat) (f : Part → Part) : (s.modPart p f).cacheBytes = s.cacheBytes := rfl
@[simp] theorem modPart_useCtr (s : State) (p : Nat) (f : Part → Part) : (s.modPart p f).useCtr = s.useCtr := rfl
@[simp] theorem modPart_mem (s : State) (p : Nat) (f : Part → Part) : (s.modPart p f).mem = s.mem := rfl
@[simp] theorem modPart_parts (s : State) (p : Nat) (f : Part → Part) : (s.modPart p f).parts = sput Part.fresh s.parts p (f (s.part p)) := rfl
@[simp] theorem modPart_commit (s : State) (p : Nat) (f : Part → Part) : (s.modPart p f).commit = s.commit := rfl
@[simp] theorem modPart_ctxs (s : State) (p : Nat) (f : Part → Part) : (s.modPart p f).ctxs = s.ctxs := rfl
@[simp] theorem modPart_ctxSel (s : State) (p : Nat) (f : Part → Part) : (s.modPart p f).ctxSel = s.ctxSel := rfl
@[simp] theorem modPart_sage (s : State) (p : Nat) (f : Part → Part) : (s.modPart p f).sage = s.sage := rfl
@[simp] theorem modPart_mboxes (s : State) (p : Nat) (f : Part → Part) : (s.modPart p f).mboxes = s.mboxes := rfl
@[simp] theorem modPart_bayViol (s : State) (p : Nat) (f : Part → Part) : (s.modPart p f).bayViol = s.bayViol := rfl
@[simp] theorem modPart_cxl (s : State) (p : Nat) (f : Part → Part) : (s.modPart p f).cxl = s.cxl := rfl
@[simp] theorem modPart_ports (s : State) (p : Nat) (f : Part → Part) : (s.modPart p f).ports = s.ports := rfl
@[simp] theorem modPart_fnlMode (s : State) (p : Nat) (f : Part → Part) : (s.modPart p f).fnlMode = s.fnlMode := rfl
@[simp] theorem modPart_pwr (s : State) (p : Nat) (f : Part → Part) : (s.modPart p f).pwr = s.pwr := rfl
@[simp] theorem modPart_sys (s : State) (p : Nat) (f : Part → Part) : (s.modPart p f).sys = s.sys := rfl
@[simp] theorem modPart_err (s : State) (p : Nat) (f : Part → Part) : (s.modPart p f).err = s.err := rfl
@[simp] theorem modPart_core (s : State) (p : Nat) (f : Part → Part) (x : Nat) : (s.modPart p f).core x = s.core x := rfl
@[simp] theorem modPart_macro1 (s : State) (p : Nat) (f : Part → Part) (x : Nat) : (s.modPart p f).macro1 x = s.macro1 x := rfl
@[simp] theorem modPart_group (s : State) (p : Nat) (f : Part → Part) (x : Nat) : (s.modPart p f).group x = s.group x := rfl
@[simp] theorem modPart_page (s : State) (p : Nat) (f : Part → Part) (x : Nat) : (s.modPart p f).page x = s.page x := rfl
@[simp] theorem modPart_part (s : State) (p : Nat) (f : Part → Part) (x : Nat) : (s.modPart p f).part x = if x = p then f (s.part p) else s.part x :=
  sget_sput _ _ _ _ _
@[simp] theorem modPart_ctx (s : State) (p : Nat) (f : Part → Part) (x : Nat) : (s.modPart p f).ctx x = s.ctx x := rfl
@[simp] theorem modPart_mbox (s : State) (p : Nat) (f : Part → Part) (x : Nat) : (s.modPart p f).mbox x = s.mbox x := rfl
@[simp] theorem modPart_port (s : State) (p : Nat) (f : Part → Part) (x : Nat) : (s.modPart p f).port x = s.port x := rfl
@[simp] theorem modPart_qp (s : State) (p : Nat) (f : Part → Part) (x y : Nat) : (s.modPart p f).qp x y = s.qp x y := rfl
@[simp] theorem modPart_govPart (s : State) (p : Nat) (f : Part → Part) (x : Nat) : (s.modPart p f).govPart x = s.govPart x := rfl
@[simp] theorem modPart_tick (s : State) (p : Nat) (f : Part → Part) : (s.modPart p f).tick = s.tick := rfl
@[simp] theorem modPart_tick64 (s : State) (p : Nat) (f : Part → Part) : (s.modPart p f).tick64 = s.tick64 := rfl
@[simp] theorem modPart_ready (s : State) (p : Nat) (f : Part → Part) : (s.modPart p f).ready = s.ready := rfl
@[simp] theorem modPart_parsley (s : State) (p : Nat) (f : Part → Part) : (s.modPart p f).parsley = s.parsley := rfl

/-! `modGov` -/

@[simp] theorem modGov_pending (s : State) (f : Gov → Gov) : (s.modGov f).pending = s.pending := rfl
@[simp] theorem modGov_freeCtr (s : State) (f : Gov → Gov) : (s.modGov f).freeCtr = s.freeCtr := rfl
@[simp] theorem modGov_readData (s : State) (f : Gov → Gov) : (s.modGov f).readData = s.readData := rfl
@[simp] theorem modGov_readPoison (s : State) (f : Gov → Gov) : (s.modGov f).readPoison = s.readPoison := rfl
@[simp] theorem modGov_gov (s : State) (f : Gov → Gov) : (s.modGov f).gov = f s.gov := rfl
@[simp] theorem modGov_cores (s : State) (f : Gov → Gov) : (s.modGov f).cores = s.cores := rfl
@[simp] theorem modGov_fused (s : State) (f : Gov → Gov) : (s.modGov f).fused = s.fused := rfl
@[simp] theorem modGov_macros (s : State) (f : Gov → Gov) : (s.modGov f).macros = s.macros := rfl
@[simp] theorem modGov_groups (s : State) (f : Gov → Gov) : (s.modGov f).groups = s.groups := rfl
@[simp] theorem modGov_scratch (s : State) (f : Gov → Gov) : (s.modGov f).scratch = s.scratch := rfl
@[simp] theorem modGov_cim (s : State) (f : Gov → Gov) : (s.modGov f).cim = s.cim := rfl
@[simp] theorem modGov_scales (s : State) (f : Gov → Gov) : (s.modGov f).scales = s.scales := rfl
@[simp] theorem modGov_parity (s : State) (f : Gov → Gov) : (s.modGov f).parity = s.parity := rfl
@[simp] theorem modGov_scaleParity (s : State) (f : Gov → Gov) : (s.modGov f).scaleParity = s.scaleParity := rfl
@[simp] theorem modGov_pages (s : State) (f : Gov → Gov) : (s.modGov f).pages = s.pages := rfl
@[simp] theorem modGov_stack (s : State) (f : Gov → Gov) : (s.modGov f).stack = s.stack := rfl
@[simp] theorem modGov_snaps (s : State) (f : Gov → Gov) : (s.modGov f).snaps = s.snaps := rfl
@[simp] theorem modGov_lines (s : State) (f : Gov → Gov) : (s.modGov f).lines = s.lines := rfl
@[simp] theorem modGov_cacheBytes (s : State) (f : Gov → Gov) : (s.modGov f).cacheBytes = s.cacheBytes := rfl
@[simp] theorem modGov_useCtr (s : State) (f : Gov → Gov) : (s.modGov f).useCtr = s.useCtr := rfl
@[simp] theorem modGov_mem (s : State) (f : Gov → Gov) : (s.modGov f).mem = s.mem := rfl
@[simp] theorem modGov_parts (s : State) (f : Gov → Gov) : (s.modGov f).parts = s.parts := rfl
@[simp] theorem modGov_commit (s : State) (f : Gov → Gov) : (s.modGov f).commit = s.commit := rfl
@[simp] theorem modGov_ctxs (s : State) (f : Gov → Gov) : (s.modGov f).ctxs = s.ctxs := rfl
@[simp] theorem modGov_ctxSel (s : State) (f : Gov → Gov) : (s.modGov f).ctxSel = s.ctxSel := rfl
@[simp] theorem modGov_sage (s : State) (f : Gov → Gov) : (s.modGov f).sage = s.sage := rfl
@[simp] theorem modGov_mboxes (s : State) (f : Gov → Gov) : (s.modGov f).mboxes = s.mboxes := rfl
@[simp] theorem modGov_bayViol (s : State) (f : Gov → Gov) : (s.modGov f).bayViol = s.bayViol := rfl
@[simp] theorem modGov_cxl (s : State) (f : Gov → Gov) : (s.modGov f).cxl = s.cxl := rfl
@[simp] theorem modGov_ports (s : State) (f : Gov → Gov) : (s.modGov f).ports = s.ports := rfl
@[simp] theorem modGov_fnlMode (s : State) (f : Gov → Gov) : (s.modGov f).fnlMode = s.fnlMode := rfl
@[simp] theorem modGov_pwr (s : State) (f : Gov → Gov) : (s.modGov f).pwr = s.pwr := rfl
@[simp] theorem modGov_sys (s : State) (f : Gov → Gov) : (s.modGov f).sys = s.sys := rfl
@[simp] theorem modGov_err (s : State) (f : Gov → Gov) : (s.modGov f).err = s.err := rfl
@[simp] theorem modGov_core (s : State) (f : Gov → Gov) (x : Nat) : (s.modGov f).core x = s.core x := rfl
@[simp] theorem modGov_macro1 (s : State) (f : Gov → Gov) (x : Nat) : (s.modGov f).macro1 x = s.macro1 x := rfl
@[simp] theorem modGov_group (s : State) (f : Gov → Gov) (x : Nat) : (s.modGov f).group x = s.group x := rfl
@[simp] theorem modGov_page (s : State) (f : Gov → Gov) (x : Nat) : (s.modGov f).page x = s.page x := rfl
@[simp] theorem modGov_part (s : State) (f : Gov → Gov) (x : Nat) : (s.modGov f).part x = s.part x := rfl
@[simp] theorem modGov_ctx (s : State) (f : Gov → Gov) (x : Nat) : (s.modGov f).ctx x = s.ctx x := rfl
@[simp] theorem modGov_mbox (s : State) (f : Gov → Gov) (x : Nat) : (s.modGov f).mbox x = s.mbox x := rfl
@[simp] theorem modGov_port (s : State) (f : Gov → Gov) (x : Nat) : (s.modGov f).port x = s.port x := rfl
@[simp] theorem modGov_qp (s : State) (f : Gov → Gov) (x y : Nat) : (s.modGov f).qp x y = s.qp x y := rfl
@[simp] theorem modGov_ready (s : State) (f : Gov → Gov) : (s.modGov f).ready = s.ready := rfl
@[simp] theorem modGov_parsley (s : State) (f : Gov → Gov) : (s.modGov f).parsley = s.parsley := rfl

/-! `modGovPart` -/

@[simp] theorem modGovPart_pending (s : State) (p : Nat) (f : GovPart → GovPart) : (s.modGovPart p f).pending = s.pending := rfl
@[simp] theorem modGovPart_freeCtr (s : State) (p : Nat) (f : GovPart → GovPart) : (s.modGovPart p f).freeCtr = s.freeCtr := rfl
@[simp] theorem modGovPart_readData (s : State) (p : Nat) (f : GovPart → GovPart) : (s.modGovPart p f).readData = s.readData := rfl
@[simp] theorem modGovPart_readPoison (s : State) (p : Nat) (f : GovPart → GovPart) : (s.modGovPart p f).readPoison = s.readPoison := rfl
@[simp] theorem modGovPart_gov (s : State) (p : Nat) (f : GovPart → GovPart) : (s.modGovPart p f).gov = { s.gov with parts := smod GovPart.fresh s.gov.parts p f } := rfl
@[simp] theorem modGovPart_cores (s : State) (p : Nat) (f : GovPart → GovPart) : (s.modGovPart p f).cores = s.cores := rfl
@[simp] theorem modGovPart_fused (s : State) (p : Nat) (f : GovPart → GovPart) : (s.modGovPart p f).fused = s.fused := rfl
@[simp] theorem modGovPart_macros (s : State) (p : Nat) (f : GovPart → GovPart) : (s.modGovPart p f).macros = s.macros := rfl
@[simp] theorem modGovPart_groups (s : State) (p : Nat) (f : GovPart → GovPart) : (s.modGovPart p f).groups = s.groups := rfl
@[simp] theorem modGovPart_scratch (s : State) (p : Nat) (f : GovPart → GovPart) : (s.modGovPart p f).scratch = s.scratch := rfl
@[simp] theorem modGovPart_cim (s : State) (p : Nat) (f : GovPart → GovPart) : (s.modGovPart p f).cim = s.cim := rfl
@[simp] theorem modGovPart_scales (s : State) (p : Nat) (f : GovPart → GovPart) : (s.modGovPart p f).scales = s.scales := rfl
@[simp] theorem modGovPart_parity (s : State) (p : Nat) (f : GovPart → GovPart) : (s.modGovPart p f).parity = s.parity := rfl
@[simp] theorem modGovPart_scaleParity (s : State) (p : Nat) (f : GovPart → GovPart) : (s.modGovPart p f).scaleParity = s.scaleParity := rfl
@[simp] theorem modGovPart_pages (s : State) (p : Nat) (f : GovPart → GovPart) : (s.modGovPart p f).pages = s.pages := rfl
@[simp] theorem modGovPart_stack (s : State) (p : Nat) (f : GovPart → GovPart) : (s.modGovPart p f).stack = s.stack := rfl
@[simp] theorem modGovPart_snaps (s : State) (p : Nat) (f : GovPart → GovPart) : (s.modGovPart p f).snaps = s.snaps := rfl
@[simp] theorem modGovPart_lines (s : State) (p : Nat) (f : GovPart → GovPart) : (s.modGovPart p f).lines = s.lines := rfl
@[simp] theorem modGovPart_cacheBytes (s : State) (p : Nat) (f : GovPart → GovPart) : (s.modGovPart p f).cacheBytes = s.cacheBytes := rfl
@[simp] theorem modGovPart_useCtr (s : State) (p : Nat) (f : GovPart → GovPart) : (s.modGovPart p f).useCtr = s.useCtr := rfl
@[simp] theorem modGovPart_mem (s : State) (p : Nat) (f : GovPart → GovPart) : (s.modGovPart p f).mem = s.mem := rfl
@[simp] theorem modGovPart_parts (s : State) (p : Nat) (f : GovPart → GovPart) : (s.modGovPart p f).parts = s.parts := rfl
@[simp] theorem modGovPart_commit (s : State) (p : Nat) (f : GovPart → GovPart) : (s.modGovPart p f).commit = s.commit := rfl
@[simp] theorem modGovPart_ctxs (s : State) (p : Nat) (f : GovPart → GovPart) : (s.modGovPart p f).ctxs = s.ctxs := rfl
@[simp] theorem modGovPart_ctxSel (s : State) (p : Nat) (f : GovPart → GovPart) : (s.modGovPart p f).ctxSel = s.ctxSel := rfl
@[simp] theorem modGovPart_sage (s : State) (p : Nat) (f : GovPart → GovPart) : (s.modGovPart p f).sage = s.sage := rfl
@[simp] theorem modGovPart_mboxes (s : State) (p : Nat) (f : GovPart → GovPart) : (s.modGovPart p f).mboxes = s.mboxes := rfl
@[simp] theorem modGovPart_bayViol (s : State) (p : Nat) (f : GovPart → GovPart) : (s.modGovPart p f).bayViol = s.bayViol := rfl
@[simp] theorem modGovPart_cxl (s : State) (p : Nat) (f : GovPart → GovPart) : (s.modGovPart p f).cxl = s.cxl := rfl
@[simp] theorem modGovPart_ports (s : State) (p : Nat) (f : GovPart → GovPart) : (s.modGovPart p f).ports = s.ports := rfl
@[simp] theorem modGovPart_fnlMode (s : State) (p : Nat) (f : GovPart → GovPart) : (s.modGovPart p f).fnlMode = s.fnlMode := rfl
@[simp] theorem modGovPart_pwr (s : State) (p : Nat) (f : GovPart → GovPart) : (s.modGovPart p f).pwr = s.pwr := rfl
@[simp] theorem modGovPart_sys (s : State) (p : Nat) (f : GovPart → GovPart) : (s.modGovPart p f).sys = s.sys := rfl
@[simp] theorem modGovPart_err (s : State) (p : Nat) (f : GovPart → GovPart) : (s.modGovPart p f).err = s.err := rfl
@[simp] theorem modGovPart_core (s : State) (p : Nat) (f : GovPart → GovPart) (x : Nat) : (s.modGovPart p f).core x = s.core x := rfl
@[simp] theorem modGovPart_macro1 (s : State) (p : Nat) (f : GovPart → GovPart) (x : Nat) : (s.modGovPart p f).macro1 x = s.macro1 x := rfl
@[simp] theorem modGovPart_group (s : State) (p : Nat) (f : GovPart → GovPart) (x : Nat) : (s.modGovPart p f).group x = s.group x := rfl
@[simp] theorem modGovPart_page (s : State) (p : Nat) (f : GovPart → GovPart) (x : Nat) : (s.modGovPart p f).page x = s.page x := rfl
@[simp] theorem modGovPart_part (s : State) (p : Nat) (f : GovPart → GovPart) (x : Nat) : (s.modGovPart p f).part x = s.part x := rfl
@[simp] theorem modGovPart_ctx (s : State) (p : Nat) (f : GovPart → GovPart) (x : Nat) : (s.modGovPart p f).ctx x = s.ctx x := rfl
@[simp] theorem modGovPart_mbox (s : State) (p : Nat) (f : GovPart → GovPart) (x : Nat) : (s.modGovPart p f).mbox x = s.mbox x := rfl
@[simp] theorem modGovPart_port (s : State) (p : Nat) (f : GovPart → GovPart) (x : Nat) : (s.modGovPart p f).port x = s.port x := rfl
@[simp] theorem modGovPart_qp (s : State) (p : Nat) (f : GovPart → GovPart) (x y : Nat) : (s.modGovPart p f).qp x y = s.qp x y := rfl
@[simp] theorem modGovPart_govPart (s : State) (p : Nat) (f : GovPart → GovPart) (x : Nat) : (s.modGovPart p f).govPart x = if x = p then f (s.govPart p) else s.govPart x :=
  sget_sput _ _ _ _ _
@[simp] theorem modGovPart_tick (s : State) (p : Nat) (f : GovPart → GovPart) : (s.modGovPart p f).tick = s.tick := rfl
@[simp] theorem modGovPart_tick64 (s : State) (p : Nat) (f : GovPart → GovPart) : (s.modGovPart p f).tick64 = s.tick64 := rfl
@[simp] theorem modGovPart_ready (s : State) (p : Nat) (f : GovPart → GovPart) : (s.modGovPart p f).ready = s.ready := rfl
@[simp] theorem modGovPart_parsley (s : State) (p : Nat) (f : GovPart → GovPart) : (s.modGovPart p f).parsley = s.parsley := rfl

/-! `setCtx` -/

@[simp] theorem setCtx_pending (s : State) (c : Nat) (v : Ctx) : (s.setCtx c v).pending = s.pending := rfl
@[simp] theorem setCtx_freeCtr (s : State) (c : Nat) (v : Ctx) : (s.setCtx c v).freeCtr = s.freeCtr := rfl
@[simp] theorem setCtx_readData (s : State) (c : Nat) (v : Ctx) : (s.setCtx c v).readData = s.readData := rfl
@[simp] theorem setCtx_readPoison (s : State) (c : Nat) (v : Ctx) : (s.setCtx c v).readPoison = s.readPoison := rfl
@[simp] theorem setCtx_gov (s : State) (c : Nat) (v : Ctx) : (s.setCtx c v).gov = s.gov := rfl
@[simp] theorem setCtx_cores (s : State) (c : Nat) (v : Ctx) : (s.setCtx c v).cores = s.cores := rfl
@[simp] theorem setCtx_fused (s : State) (c : Nat) (v : Ctx) : (s.setCtx c v).fused = s.fused := rfl
@[simp] theorem setCtx_macros (s : State) (c : Nat) (v : Ctx) : (s.setCtx c v).macros = s.macros := rfl
@[simp] theorem setCtx_groups (s : State) (c : Nat) (v : Ctx) : (s.setCtx c v).groups = s.groups := rfl
@[simp] theorem setCtx_scratch (s : State) (c : Nat) (v : Ctx) : (s.setCtx c v).scratch = s.scratch := rfl
@[simp] theorem setCtx_cim (s : State) (c : Nat) (v : Ctx) : (s.setCtx c v).cim = s.cim := rfl
@[simp] theorem setCtx_scales (s : State) (c : Nat) (v : Ctx) : (s.setCtx c v).scales = s.scales := rfl
@[simp] theorem setCtx_parity (s : State) (c : Nat) (v : Ctx) : (s.setCtx c v).parity = s.parity := rfl
@[simp] theorem setCtx_scaleParity (s : State) (c : Nat) (v : Ctx) : (s.setCtx c v).scaleParity = s.scaleParity := rfl
@[simp] theorem setCtx_pages (s : State) (c : Nat) (v : Ctx) : (s.setCtx c v).pages = s.pages := rfl
@[simp] theorem setCtx_stack (s : State) (c : Nat) (v : Ctx) : (s.setCtx c v).stack = s.stack := rfl
@[simp] theorem setCtx_snaps (s : State) (c : Nat) (v : Ctx) : (s.setCtx c v).snaps = s.snaps := rfl
@[simp] theorem setCtx_lines (s : State) (c : Nat) (v : Ctx) : (s.setCtx c v).lines = s.lines := rfl
@[simp] theorem setCtx_cacheBytes (s : State) (c : Nat) (v : Ctx) : (s.setCtx c v).cacheBytes = s.cacheBytes := rfl
@[simp] theorem setCtx_useCtr (s : State) (c : Nat) (v : Ctx) : (s.setCtx c v).useCtr = s.useCtr := rfl
@[simp] theorem setCtx_mem (s : State) (c : Nat) (v : Ctx) : (s.setCtx c v).mem = s.mem := rfl
@[simp] theorem setCtx_parts (s : State) (c : Nat) (v : Ctx) : (s.setCtx c v).parts = s.parts := rfl
@[simp] theorem setCtx_commit (s : State) (c : Nat) (v : Ctx) : (s.setCtx c v).commit = s.commit := rfl
@[simp] theorem setCtx_ctxs (s : State) (c : Nat) (v : Ctx) : (s.setCtx c v).ctxs = sput Ctx.fresh s.ctxs c v := rfl
@[simp] theorem setCtx_ctxSel (s : State) (c : Nat) (v : Ctx) : (s.setCtx c v).ctxSel = s.ctxSel := rfl
@[simp] theorem setCtx_sage (s : State) (c : Nat) (v : Ctx) : (s.setCtx c v).sage = s.sage := rfl
@[simp] theorem setCtx_mboxes (s : State) (c : Nat) (v : Ctx) : (s.setCtx c v).mboxes = s.mboxes := rfl
@[simp] theorem setCtx_bayViol (s : State) (c : Nat) (v : Ctx) : (s.setCtx c v).bayViol = s.bayViol := rfl
@[simp] theorem setCtx_cxl (s : State) (c : Nat) (v : Ctx) : (s.setCtx c v).cxl = s.cxl := rfl
@[simp] theorem setCtx_ports (s : State) (c : Nat) (v : Ctx) : (s.setCtx c v).ports = s.ports := rfl
@[simp] theorem setCtx_fnlMode (s : State) (c : Nat) (v : Ctx) : (s.setCtx c v).fnlMode = s.fnlMode := rfl
@[simp] theorem setCtx_pwr (s : State) (c : Nat) (v : Ctx) : (s.setCtx c v).pwr = s.pwr := rfl
@[simp] theorem setCtx_sys (s : State) (c : Nat) (v : Ctx) : (s.setCtx c v).sys = s.sys := rfl
@[simp] theorem setCtx_err (s : State) (c : Nat) (v : Ctx) : (s.setCtx c v).err = s.err := rfl
@[simp] theorem setCtx_core (s : State) (c : Nat) (v : Ctx) (x : Nat) : (s.setCtx c v).core x = s.core x := rfl
@[simp] theorem setCtx_macro1 (s : State) (c : Nat) (v : Ctx) (x : Nat) : (s.setCtx c v).macro1 x = s.macro1 x := rfl
@[simp] theorem setCtx_group (s : State) (c : Nat) (v : Ctx) (x : Nat) : (s.setCtx c v).group x = s.group x := rfl
@[simp] theorem setCtx_page (s : State) (c : Nat) (v : Ctx) (x : Nat) : (s.setCtx c v).page x = s.page x := rfl
@[simp] theorem setCtx_part (s : State) (c : Nat) (v : Ctx) (x : Nat) : (s.setCtx c v).part x = s.part x := rfl
@[simp] theorem setCtx_ctx (s : State) (c : Nat) (v : Ctx) (x : Nat) : (s.setCtx c v).ctx x = if x = c then v else s.ctx x :=
  sget_sput _ _ _ _ _
@[simp] theorem setCtx_mbox (s : State) (c : Nat) (v : Ctx) (x : Nat) : (s.setCtx c v).mbox x = s.mbox x := rfl
@[simp] theorem setCtx_port (s : State) (c : Nat) (v : Ctx) (x : Nat) : (s.setCtx c v).port x = s.port x := rfl
@[simp] theorem setCtx_qp (s : State) (c : Nat) (v : Ctx) (x y : Nat) : (s.setCtx c v).qp x y = s.qp x y := rfl
@[simp] theorem setCtx_govPart (s : State) (c : Nat) (v : Ctx) (x : Nat) : (s.setCtx c v).govPart x = s.govPart x := rfl
@[simp] theorem setCtx_tick (s : State) (c : Nat) (v : Ctx) : (s.setCtx c v).tick = s.tick := rfl
@[simp] theorem setCtx_tick64 (s : State) (c : Nat) (v : Ctx) : (s.setCtx c v).tick64 = s.tick64 := rfl
@[simp] theorem setCtx_ready (s : State) (c : Nat) (v : Ctx) : (s.setCtx c v).ready = s.ready := rfl
@[simp] theorem setCtx_parsley (s : State) (c : Nat) (v : Ctx) : (s.setCtx c v).parsley = s.parsley := rfl

/-! `modCtx` -/

@[simp] theorem modCtx_pending (s : State) (c : Nat) (f : Ctx → Ctx) : (s.modCtx c f).pending = s.pending := rfl
@[simp] theorem modCtx_freeCtr (s : State) (c : Nat) (f : Ctx → Ctx) : (s.modCtx c f).freeCtr = s.freeCtr := rfl
@[simp] theorem modCtx_readData (s : State) (c : Nat) (f : Ctx → Ctx) : (s.modCtx c f).readData = s.readData := rfl
@[simp] theorem modCtx_readPoison (s : State) (c : Nat) (f : Ctx → Ctx) : (s.modCtx c f).readPoison = s.readPoison := rfl
@[simp] theorem modCtx_gov (s : State) (c : Nat) (f : Ctx → Ctx) : (s.modCtx c f).gov = s.gov := rfl
@[simp] theorem modCtx_cores (s : State) (c : Nat) (f : Ctx → Ctx) : (s.modCtx c f).cores = s.cores := rfl
@[simp] theorem modCtx_fused (s : State) (c : Nat) (f : Ctx → Ctx) : (s.modCtx c f).fused = s.fused := rfl
@[simp] theorem modCtx_macros (s : State) (c : Nat) (f : Ctx → Ctx) : (s.modCtx c f).macros = s.macros := rfl
@[simp] theorem modCtx_groups (s : State) (c : Nat) (f : Ctx → Ctx) : (s.modCtx c f).groups = s.groups := rfl
@[simp] theorem modCtx_scratch (s : State) (c : Nat) (f : Ctx → Ctx) : (s.modCtx c f).scratch = s.scratch := rfl
@[simp] theorem modCtx_cim (s : State) (c : Nat) (f : Ctx → Ctx) : (s.modCtx c f).cim = s.cim := rfl
@[simp] theorem modCtx_scales (s : State) (c : Nat) (f : Ctx → Ctx) : (s.modCtx c f).scales = s.scales := rfl
@[simp] theorem modCtx_parity (s : State) (c : Nat) (f : Ctx → Ctx) : (s.modCtx c f).parity = s.parity := rfl
@[simp] theorem modCtx_scaleParity (s : State) (c : Nat) (f : Ctx → Ctx) : (s.modCtx c f).scaleParity = s.scaleParity := rfl
@[simp] theorem modCtx_pages (s : State) (c : Nat) (f : Ctx → Ctx) : (s.modCtx c f).pages = s.pages := rfl
@[simp] theorem modCtx_stack (s : State) (c : Nat) (f : Ctx → Ctx) : (s.modCtx c f).stack = s.stack := rfl
@[simp] theorem modCtx_snaps (s : State) (c : Nat) (f : Ctx → Ctx) : (s.modCtx c f).snaps = s.snaps := rfl
@[simp] theorem modCtx_lines (s : State) (c : Nat) (f : Ctx → Ctx) : (s.modCtx c f).lines = s.lines := rfl
@[simp] theorem modCtx_cacheBytes (s : State) (c : Nat) (f : Ctx → Ctx) : (s.modCtx c f).cacheBytes = s.cacheBytes := rfl
@[simp] theorem modCtx_useCtr (s : State) (c : Nat) (f : Ctx → Ctx) : (s.modCtx c f).useCtr = s.useCtr := rfl
@[simp] theorem modCtx_mem (s : State) (c : Nat) (f : Ctx → Ctx) : (s.modCtx c f).mem = s.mem := rfl
@[simp] theorem modCtx_parts (s : State) (c : Nat) (f : Ctx → Ctx) : (s.modCtx c f).parts = s.parts := rfl
@[simp] theorem modCtx_commit (s : State) (c : Nat) (f : Ctx → Ctx) : (s.modCtx c f).commit = s.commit := rfl
@[simp] theorem modCtx_ctxs (s : State) (c : Nat) (f : Ctx → Ctx) : (s.modCtx c f).ctxs = sput Ctx.fresh s.ctxs c (f (s.ctx c)) := rfl
@[simp] theorem modCtx_ctxSel (s : State) (c : Nat) (f : Ctx → Ctx) : (s.modCtx c f).ctxSel = s.ctxSel := rfl
@[simp] theorem modCtx_sage (s : State) (c : Nat) (f : Ctx → Ctx) : (s.modCtx c f).sage = s.sage := rfl
@[simp] theorem modCtx_mboxes (s : State) (c : Nat) (f : Ctx → Ctx) : (s.modCtx c f).mboxes = s.mboxes := rfl
@[simp] theorem modCtx_bayViol (s : State) (c : Nat) (f : Ctx → Ctx) : (s.modCtx c f).bayViol = s.bayViol := rfl
@[simp] theorem modCtx_cxl (s : State) (c : Nat) (f : Ctx → Ctx) : (s.modCtx c f).cxl = s.cxl := rfl
@[simp] theorem modCtx_ports (s : State) (c : Nat) (f : Ctx → Ctx) : (s.modCtx c f).ports = s.ports := rfl
@[simp] theorem modCtx_fnlMode (s : State) (c : Nat) (f : Ctx → Ctx) : (s.modCtx c f).fnlMode = s.fnlMode := rfl
@[simp] theorem modCtx_pwr (s : State) (c : Nat) (f : Ctx → Ctx) : (s.modCtx c f).pwr = s.pwr := rfl
@[simp] theorem modCtx_sys (s : State) (c : Nat) (f : Ctx → Ctx) : (s.modCtx c f).sys = s.sys := rfl
@[simp] theorem modCtx_err (s : State) (c : Nat) (f : Ctx → Ctx) : (s.modCtx c f).err = s.err := rfl
@[simp] theorem modCtx_core (s : State) (c : Nat) (f : Ctx → Ctx) (x : Nat) : (s.modCtx c f).core x = s.core x := rfl
@[simp] theorem modCtx_macro1 (s : State) (c : Nat) (f : Ctx → Ctx) (x : Nat) : (s.modCtx c f).macro1 x = s.macro1 x := rfl
@[simp] theorem modCtx_group (s : State) (c : Nat) (f : Ctx → Ctx) (x : Nat) : (s.modCtx c f).group x = s.group x := rfl
@[simp] theorem modCtx_page (s : State) (c : Nat) (f : Ctx → Ctx) (x : Nat) : (s.modCtx c f).page x = s.page x := rfl
@[simp] theorem modCtx_part (s : State) (c : Nat) (f : Ctx → Ctx) (x : Nat) : (s.modCtx c f).part x = s.part x := rfl
@[simp] theorem modCtx_ctx (s : State) (c : Nat) (f : Ctx → Ctx) (x : Nat) : (s.modCtx c f).ctx x = if x = c then f (s.ctx c) else s.ctx x :=
  sget_sput _ _ _ _ _
@[simp] theorem modCtx_mbox (s : State) (c : Nat) (f : Ctx → Ctx) (x : Nat) : (s.modCtx c f).mbox x = s.mbox x := rfl
@[simp] theorem modCtx_port (s : State) (c : Nat) (f : Ctx → Ctx) (x : Nat) : (s.modCtx c f).port x = s.port x := rfl
@[simp] theorem modCtx_qp (s : State) (c : Nat) (f : Ctx → Ctx) (x y : Nat) : (s.modCtx c f).qp x y = s.qp x y := rfl
@[simp] theorem modCtx_govPart (s : State) (c : Nat) (f : Ctx → Ctx) (x : Nat) : (s.modCtx c f).govPart x = s.govPart x := rfl
@[simp] theorem modCtx_tick (s : State) (c : Nat) (f : Ctx → Ctx) : (s.modCtx c f).tick = s.tick := rfl
@[simp] theorem modCtx_tick64 (s : State) (c : Nat) (f : Ctx → Ctx) : (s.modCtx c f).tick64 = s.tick64 := rfl
@[simp] theorem modCtx_ready (s : State) (c : Nat) (f : Ctx → Ctx) : (s.modCtx c f).ready = s.ready := rfl
@[simp] theorem modCtx_parsley (s : State) (c : Nat) (f : Ctx → Ctx) : (s.modCtx c f).parsley = s.parsley := rfl

/-! `setMbox` -/

@[simp] theorem setMbox_pending (s : State) (n : Nat) (v : Mbox) : (s.setMbox n v).pending = s.pending := rfl
@[simp] theorem setMbox_freeCtr (s : State) (n : Nat) (v : Mbox) : (s.setMbox n v).freeCtr = s.freeCtr := rfl
@[simp] theorem setMbox_readData (s : State) (n : Nat) (v : Mbox) : (s.setMbox n v).readData = s.readData := rfl
@[simp] theorem setMbox_readPoison (s : State) (n : Nat) (v : Mbox) : (s.setMbox n v).readPoison = s.readPoison := rfl
@[simp] theorem setMbox_gov (s : State) (n : Nat) (v : Mbox) : (s.setMbox n v).gov = s.gov := rfl
@[simp] theorem setMbox_cores (s : State) (n : Nat) (v : Mbox) : (s.setMbox n v).cores = s.cores := rfl
@[simp] theorem setMbox_fused (s : State) (n : Nat) (v : Mbox) : (s.setMbox n v).fused = s.fused := rfl
@[simp] theorem setMbox_macros (s : State) (n : Nat) (v : Mbox) : (s.setMbox n v).macros = s.macros := rfl
@[simp] theorem setMbox_groups (s : State) (n : Nat) (v : Mbox) : (s.setMbox n v).groups = s.groups := rfl
@[simp] theorem setMbox_scratch (s : State) (n : Nat) (v : Mbox) : (s.setMbox n v).scratch = s.scratch := rfl
@[simp] theorem setMbox_cim (s : State) (n : Nat) (v : Mbox) : (s.setMbox n v).cim = s.cim := rfl
@[simp] theorem setMbox_scales (s : State) (n : Nat) (v : Mbox) : (s.setMbox n v).scales = s.scales := rfl
@[simp] theorem setMbox_parity (s : State) (n : Nat) (v : Mbox) : (s.setMbox n v).parity = s.parity := rfl
@[simp] theorem setMbox_scaleParity (s : State) (n : Nat) (v : Mbox) : (s.setMbox n v).scaleParity = s.scaleParity := rfl
@[simp] theorem setMbox_pages (s : State) (n : Nat) (v : Mbox) : (s.setMbox n v).pages = s.pages := rfl
@[simp] theorem setMbox_stack (s : State) (n : Nat) (v : Mbox) : (s.setMbox n v).stack = s.stack := rfl
@[simp] theorem setMbox_snaps (s : State) (n : Nat) (v : Mbox) : (s.setMbox n v).snaps = s.snaps := rfl
@[simp] theorem setMbox_lines (s : State) (n : Nat) (v : Mbox) : (s.setMbox n v).lines = s.lines := rfl
@[simp] theorem setMbox_cacheBytes (s : State) (n : Nat) (v : Mbox) : (s.setMbox n v).cacheBytes = s.cacheBytes := rfl
@[simp] theorem setMbox_useCtr (s : State) (n : Nat) (v : Mbox) : (s.setMbox n v).useCtr = s.useCtr := rfl
@[simp] theorem setMbox_mem (s : State) (n : Nat) (v : Mbox) : (s.setMbox n v).mem = s.mem := rfl
@[simp] theorem setMbox_parts (s : State) (n : Nat) (v : Mbox) : (s.setMbox n v).parts = s.parts := rfl
@[simp] theorem setMbox_commit (s : State) (n : Nat) (v : Mbox) : (s.setMbox n v).commit = s.commit := rfl
@[simp] theorem setMbox_ctxs (s : State) (n : Nat) (v : Mbox) : (s.setMbox n v).ctxs = s.ctxs := rfl
@[simp] theorem setMbox_ctxSel (s : State) (n : Nat) (v : Mbox) : (s.setMbox n v).ctxSel = s.ctxSel := rfl
@[simp] theorem setMbox_sage (s : State) (n : Nat) (v : Mbox) : (s.setMbox n v).sage = s.sage := rfl
@[simp] theorem setMbox_mboxes (s : State) (n : Nat) (v : Mbox) : (s.setMbox n v).mboxes = sput Mbox.fresh s.mboxes n v := rfl
@[simp] theorem setMbox_bayViol (s : State) (n : Nat) (v : Mbox) : (s.setMbox n v).bayViol = s.bayViol := rfl
@[simp] theorem setMbox_cxl (s : State) (n : Nat) (v : Mbox) : (s.setMbox n v).cxl = s.cxl := rfl
@[simp] theorem setMbox_ports (s : State) (n : Nat) (v : Mbox) : (s.setMbox n v).ports = s.ports := rfl
@[simp] theorem setMbox_fnlMode (s : State) (n : Nat) (v : Mbox) : (s.setMbox n v).fnlMode = s.fnlMode := rfl
@[simp] theorem setMbox_pwr (s : State) (n : Nat) (v : Mbox) : (s.setMbox n v).pwr = s.pwr := rfl
@[simp] theorem setMbox_sys (s : State) (n : Nat) (v : Mbox) : (s.setMbox n v).sys = s.sys := rfl
@[simp] theorem setMbox_err (s : State) (n : Nat) (v : Mbox) : (s.setMbox n v).err = s.err := rfl
@[simp] theorem setMbox_core (s : State) (n : Nat) (v : Mbox) (x : Nat) : (s.setMbox n v).core x = s.core x := rfl
@[simp] theorem setMbox_macro1 (s : State) (n : Nat) (v : Mbox) (x : Nat) : (s.setMbox n v).macro1 x = s.macro1 x := rfl
@[simp] theorem setMbox_group (s : State) (n : Nat) (v : Mbox) (x : Nat) : (s.setMbox n v).group x = s.group x := rfl
@[simp] theorem setMbox_page (s : State) (n : Nat) (v : Mbox) (x : Nat) : (s.setMbox n v).page x = s.page x := rfl
@[simp] theorem setMbox_part (s : State) (n : Nat) (v : Mbox) (x : Nat) : (s.setMbox n v).part x = s.part x := rfl
@[simp] theorem setMbox_ctx (s : State) (n : Nat) (v : Mbox) (x : Nat) : (s.setMbox n v).ctx x = s.ctx x := rfl
@[simp] theorem setMbox_mbox (s : State) (n : Nat) (v : Mbox) (x : Nat) : (s.setMbox n v).mbox x = if x = n then v else s.mbox x :=
  sget_sput _ _ _ _ _
@[simp] theorem setMbox_port (s : State) (n : Nat) (v : Mbox) (x : Nat) : (s.setMbox n v).port x = s.port x := rfl
@[simp] theorem setMbox_qp (s : State) (n : Nat) (v : Mbox) (x y : Nat) : (s.setMbox n v).qp x y = s.qp x y := rfl
@[simp] theorem setMbox_govPart (s : State) (n : Nat) (v : Mbox) (x : Nat) : (s.setMbox n v).govPart x = s.govPart x := rfl
@[simp] theorem setMbox_tick (s : State) (n : Nat) (v : Mbox) : (s.setMbox n v).tick = s.tick := rfl
@[simp] theorem setMbox_tick64 (s : State) (n : Nat) (v : Mbox) : (s.setMbox n v).tick64 = s.tick64 := rfl
@[simp] theorem setMbox_ready (s : State) (n : Nat) (v : Mbox) : (s.setMbox n v).ready = s.ready := rfl
@[simp] theorem setMbox_parsley (s : State) (n : Nat) (v : Mbox) : (s.setMbox n v).parsley = s.parsley := rfl

/-! `modMbox` -/

@[simp] theorem modMbox_pending (s : State) (n : Nat) (f : Mbox → Mbox) : (s.modMbox n f).pending = s.pending := rfl
@[simp] theorem modMbox_freeCtr (s : State) (n : Nat) (f : Mbox → Mbox) : (s.modMbox n f).freeCtr = s.freeCtr := rfl
@[simp] theorem modMbox_readData (s : State) (n : Nat) (f : Mbox → Mbox) : (s.modMbox n f).readData = s.readData := rfl
@[simp] theorem modMbox_readPoison (s : State) (n : Nat) (f : Mbox → Mbox) : (s.modMbox n f).readPoison = s.readPoison := rfl
@[simp] theorem modMbox_gov (s : State) (n : Nat) (f : Mbox → Mbox) : (s.modMbox n f).gov = s.gov := rfl
@[simp] theorem modMbox_cores (s : State) (n : Nat) (f : Mbox → Mbox) : (s.modMbox n f).cores = s.cores := rfl
@[simp] theorem modMbox_fused (s : State) (n : Nat) (f : Mbox → Mbox) : (s.modMbox n f).fused = s.fused := rfl
@[simp] theorem modMbox_macros (s : State) (n : Nat) (f : Mbox → Mbox) : (s.modMbox n f).macros = s.macros := rfl
@[simp] theorem modMbox_groups (s : State) (n : Nat) (f : Mbox → Mbox) : (s.modMbox n f).groups = s.groups := rfl
@[simp] theorem modMbox_scratch (s : State) (n : Nat) (f : Mbox → Mbox) : (s.modMbox n f).scratch = s.scratch := rfl
@[simp] theorem modMbox_cim (s : State) (n : Nat) (f : Mbox → Mbox) : (s.modMbox n f).cim = s.cim := rfl
@[simp] theorem modMbox_scales (s : State) (n : Nat) (f : Mbox → Mbox) : (s.modMbox n f).scales = s.scales := rfl
@[simp] theorem modMbox_parity (s : State) (n : Nat) (f : Mbox → Mbox) : (s.modMbox n f).parity = s.parity := rfl
@[simp] theorem modMbox_scaleParity (s : State) (n : Nat) (f : Mbox → Mbox) : (s.modMbox n f).scaleParity = s.scaleParity := rfl
@[simp] theorem modMbox_pages (s : State) (n : Nat) (f : Mbox → Mbox) : (s.modMbox n f).pages = s.pages := rfl
@[simp] theorem modMbox_stack (s : State) (n : Nat) (f : Mbox → Mbox) : (s.modMbox n f).stack = s.stack := rfl
@[simp] theorem modMbox_snaps (s : State) (n : Nat) (f : Mbox → Mbox) : (s.modMbox n f).snaps = s.snaps := rfl
@[simp] theorem modMbox_lines (s : State) (n : Nat) (f : Mbox → Mbox) : (s.modMbox n f).lines = s.lines := rfl
@[simp] theorem modMbox_cacheBytes (s : State) (n : Nat) (f : Mbox → Mbox) : (s.modMbox n f).cacheBytes = s.cacheBytes := rfl
@[simp] theorem modMbox_useCtr (s : State) (n : Nat) (f : Mbox → Mbox) : (s.modMbox n f).useCtr = s.useCtr := rfl
@[simp] theorem modMbox_mem (s : State) (n : Nat) (f : Mbox → Mbox) : (s.modMbox n f).mem = s.mem := rfl
@[simp] theorem modMbox_parts (s : State) (n : Nat) (f : Mbox → Mbox) : (s.modMbox n f).parts = s.parts := rfl
@[simp] theorem modMbox_commit (s : State) (n : Nat) (f : Mbox → Mbox) : (s.modMbox n f).commit = s.commit := rfl
@[simp] theorem modMbox_ctxs (s : State) (n : Nat) (f : Mbox → Mbox) : (s.modMbox n f).ctxs = s.ctxs := rfl
@[simp] theorem modMbox_ctxSel (s : State) (n : Nat) (f : Mbox → Mbox) : (s.modMbox n f).ctxSel = s.ctxSel := rfl
@[simp] theorem modMbox_sage (s : State) (n : Nat) (f : Mbox → Mbox) : (s.modMbox n f).sage = s.sage := rfl
@[simp] theorem modMbox_mboxes (s : State) (n : Nat) (f : Mbox → Mbox) : (s.modMbox n f).mboxes = sput Mbox.fresh s.mboxes n (f (s.mbox n)) := rfl
@[simp] theorem modMbox_bayViol (s : State) (n : Nat) (f : Mbox → Mbox) : (s.modMbox n f).bayViol = s.bayViol := rfl
@[simp] theorem modMbox_cxl (s : State) (n : Nat) (f : Mbox → Mbox) : (s.modMbox n f).cxl = s.cxl := rfl
@[simp] theorem modMbox_ports (s : State) (n : Nat) (f : Mbox → Mbox) : (s.modMbox n f).ports = s.ports := rfl
@[simp] theorem modMbox_fnlMode (s : State) (n : Nat) (f : Mbox → Mbox) : (s.modMbox n f).fnlMode = s.fnlMode := rfl
@[simp] theorem modMbox_pwr (s : State) (n : Nat) (f : Mbox → Mbox) : (s.modMbox n f).pwr = s.pwr := rfl
@[simp] theorem modMbox_sys (s : State) (n : Nat) (f : Mbox → Mbox) : (s.modMbox n f).sys = s.sys := rfl
@[simp] theorem modMbox_err (s : State) (n : Nat) (f : Mbox → Mbox) : (s.modMbox n f).err = s.err := rfl
@[simp] theorem modMbox_core (s : State) (n : Nat) (f : Mbox → Mbox) (x : Nat) : (s.modMbox n f).core x = s.core x := rfl
@[simp] theorem modMbox_macro1 (s : State) (n : Nat) (f : Mbox → Mbox) (x : Nat) : (s.modMbox n f).macro1 x = s.macro1 x := rfl
@[simp] theorem modMbox_group (s : State) (n : Nat) (f : Mbox → Mbox) (x : Nat) : (s.modMbox n f).group x = s.group x := rfl
@[simp] theorem modMbox_page (s : State) (n : Nat) (f : Mbox → Mbox) (x : Nat) : (s.modMbox n f).page x = s.page x := rfl
@[simp] theorem modMbox_part (s : State) (n : Nat) (f : Mbox → Mbox) (x : Nat) : (s.modMbox n f).part x = s.part x := rfl
@[simp] theorem modMbox_ctx (s : State) (n : Nat) (f : Mbox → Mbox) (x : Nat) : (s.modMbox n f).ctx x = s.ctx x := rfl
@[simp] theorem modMbox_mbox (s : State) (n : Nat) (f : Mbox → Mbox) (x : Nat) : (s.modMbox n f).mbox x = if x = n then f (s.mbox n) else s.mbox x :=
  sget_sput _ _ _ _ _
@[simp] theorem modMbox_port (s : State) (n : Nat) (f : Mbox → Mbox) (x : Nat) : (s.modMbox n f).port x = s.port x := rfl
@[simp] theorem modMbox_qp (s : State) (n : Nat) (f : Mbox → Mbox) (x y : Nat) : (s.modMbox n f).qp x y = s.qp x y := rfl
@[simp] theorem modMbox_govPart (s : State) (n : Nat) (f : Mbox → Mbox) (x : Nat) : (s.modMbox n f).govPart x = s.govPart x := rfl
@[simp] theorem modMbox_tick (s : State) (n : Nat) (f : Mbox → Mbox) : (s.modMbox n f).tick = s.tick := rfl
@[simp] theorem modMbox_tick64 (s : State) (n : Nat) (f : Mbox → Mbox) : (s.modMbox n f).tick64 = s.tick64 := rfl
@[simp] theorem modMbox_ready (s : State) (n : Nat) (f : Mbox → Mbox) : (s.modMbox n f).ready = s.ready := rfl
@[simp] theorem modMbox_parsley (s : State) (n : Nat) (f : Mbox → Mbox) : (s.modMbox n f).parsley = s.parsley := rfl

/-! `setPort` -/

@[simp] theorem setPort_pending (s : State) (n : Nat) (v : Port) : (s.setPort n v).pending = s.pending := rfl
@[simp] theorem setPort_freeCtr (s : State) (n : Nat) (v : Port) : (s.setPort n v).freeCtr = s.freeCtr := rfl
@[simp] theorem setPort_readData (s : State) (n : Nat) (v : Port) : (s.setPort n v).readData = s.readData := rfl
@[simp] theorem setPort_readPoison (s : State) (n : Nat) (v : Port) : (s.setPort n v).readPoison = s.readPoison := rfl
@[simp] theorem setPort_gov (s : State) (n : Nat) (v : Port) : (s.setPort n v).gov = s.gov := rfl
@[simp] theorem setPort_cores (s : State) (n : Nat) (v : Port) : (s.setPort n v).cores = s.cores := rfl
@[simp] theorem setPort_fused (s : State) (n : Nat) (v : Port) : (s.setPort n v).fused = s.fused := rfl
@[simp] theorem setPort_macros (s : State) (n : Nat) (v : Port) : (s.setPort n v).macros = s.macros := rfl
@[simp] theorem setPort_groups (s : State) (n : Nat) (v : Port) : (s.setPort n v).groups = s.groups := rfl
@[simp] theorem setPort_scratch (s : State) (n : Nat) (v : Port) : (s.setPort n v).scratch = s.scratch := rfl
@[simp] theorem setPort_cim (s : State) (n : Nat) (v : Port) : (s.setPort n v).cim = s.cim := rfl
@[simp] theorem setPort_scales (s : State) (n : Nat) (v : Port) : (s.setPort n v).scales = s.scales := rfl
@[simp] theorem setPort_parity (s : State) (n : Nat) (v : Port) : (s.setPort n v).parity = s.parity := rfl
@[simp] theorem setPort_scaleParity (s : State) (n : Nat) (v : Port) : (s.setPort n v).scaleParity = s.scaleParity := rfl
@[simp] theorem setPort_pages (s : State) (n : Nat) (v : Port) : (s.setPort n v).pages = s.pages := rfl
@[simp] theorem setPort_stack (s : State) (n : Nat) (v : Port) : (s.setPort n v).stack = s.stack := rfl
@[simp] theorem setPort_snaps (s : State) (n : Nat) (v : Port) : (s.setPort n v).snaps = s.snaps := rfl
@[simp] theorem setPort_lines (s : State) (n : Nat) (v : Port) : (s.setPort n v).lines = s.lines := rfl
@[simp] theorem setPort_cacheBytes (s : State) (n : Nat) (v : Port) : (s.setPort n v).cacheBytes = s.cacheBytes := rfl
@[simp] theorem setPort_useCtr (s : State) (n : Nat) (v : Port) : (s.setPort n v).useCtr = s.useCtr := rfl
@[simp] theorem setPort_mem (s : State) (n : Nat) (v : Port) : (s.setPort n v).mem = s.mem := rfl
@[simp] theorem setPort_parts (s : State) (n : Nat) (v : Port) : (s.setPort n v).parts = s.parts := rfl
@[simp] theorem setPort_commit (s : State) (n : Nat) (v : Port) : (s.setPort n v).commit = s.commit := rfl
@[simp] theorem setPort_ctxs (s : State) (n : Nat) (v : Port) : (s.setPort n v).ctxs = s.ctxs := rfl
@[simp] theorem setPort_ctxSel (s : State) (n : Nat) (v : Port) : (s.setPort n v).ctxSel = s.ctxSel := rfl
@[simp] theorem setPort_sage (s : State) (n : Nat) (v : Port) : (s.setPort n v).sage = s.sage := rfl
@[simp] theorem setPort_mboxes (s : State) (n : Nat) (v : Port) : (s.setPort n v).mboxes = s.mboxes := rfl
@[simp] theorem setPort_bayViol (s : State) (n : Nat) (v : Port) : (s.setPort n v).bayViol = s.bayViol := rfl
@[simp] theorem setPort_cxl (s : State) (n : Nat) (v : Port) : (s.setPort n v).cxl = s.cxl := rfl
@[simp] theorem setPort_ports (s : State) (n : Nat) (v : Port) : (s.setPort n v).ports = sput Port.fresh s.ports n v := rfl
@[simp] theorem setPort_fnlMode (s : State) (n : Nat) (v : Port) : (s.setPort n v).fnlMode = s.fnlMode := rfl
@[simp] theorem setPort_pwr (s : State) (n : Nat) (v : Port) : (s.setPort n v).pwr = s.pwr := rfl
@[simp] theorem setPort_sys (s : State) (n : Nat) (v : Port) : (s.setPort n v).sys = s.sys := rfl
@[simp] theorem setPort_err (s : State) (n : Nat) (v : Port) : (s.setPort n v).err = s.err := rfl
@[simp] theorem setPort_core (s : State) (n : Nat) (v : Port) (x : Nat) : (s.setPort n v).core x = s.core x := rfl
@[simp] theorem setPort_macro1 (s : State) (n : Nat) (v : Port) (x : Nat) : (s.setPort n v).macro1 x = s.macro1 x := rfl
@[simp] theorem setPort_group (s : State) (n : Nat) (v : Port) (x : Nat) : (s.setPort n v).group x = s.group x := rfl
@[simp] theorem setPort_page (s : State) (n : Nat) (v : Port) (x : Nat) : (s.setPort n v).page x = s.page x := rfl
@[simp] theorem setPort_part (s : State) (n : Nat) (v : Port) (x : Nat) : (s.setPort n v).part x = s.part x := rfl
@[simp] theorem setPort_ctx (s : State) (n : Nat) (v : Port) (x : Nat) : (s.setPort n v).ctx x = s.ctx x := rfl
@[simp] theorem setPort_mbox (s : State) (n : Nat) (v : Port) (x : Nat) : (s.setPort n v).mbox x = s.mbox x := rfl
@[simp] theorem setPort_port (s : State) (n : Nat) (v : Port) (x : Nat) : (s.setPort n v).port x = if x = n then v else s.port x :=
  sget_sput _ _ _ _ _
@[simp] theorem setPort_qp (s : State) (n : Nat) (v : Port) (x y : Nat) : (s.setPort n v).qp x y = s.qp x y := rfl
@[simp] theorem setPort_govPart (s : State) (n : Nat) (v : Port) (x : Nat) : (s.setPort n v).govPart x = s.govPart x := rfl
@[simp] theorem setPort_tick (s : State) (n : Nat) (v : Port) : (s.setPort n v).tick = s.tick := rfl
@[simp] theorem setPort_tick64 (s : State) (n : Nat) (v : Port) : (s.setPort n v).tick64 = s.tick64 := rfl
@[simp] theorem setPort_ready (s : State) (n : Nat) (v : Port) : (s.setPort n v).ready = s.ready := rfl
@[simp] theorem setPort_parsley (s : State) (n : Nat) (v : Port) : (s.setPort n v).parsley = s.parsley := rfl

/-! `modPort` -/

@[simp] theorem modPort_pending (s : State) (n : Nat) (f : Port → Port) : (s.modPort n f).pending = s.pending := rfl
@[simp] theorem modPort_freeCtr (s : State) (n : Nat) (f : Port → Port) : (s.modPort n f).freeCtr = s.freeCtr := rfl
@[simp] theorem modPort_readData (s : State) (n : Nat) (f : Port → Port) : (s.modPort n f).readData = s.readData := rfl
@[simp] theorem modPort_readPoison (s : State) (n : Nat) (f : Port → Port) : (s.modPort n f).readPoison = s.readPoison := rfl
@[simp] theorem modPort_gov (s : State) (n : Nat) (f : Port → Port) : (s.modPort n f).gov = s.gov := rfl
@[simp] theorem modPort_cores (s : State) (n : Nat) (f : Port → Port) : (s.modPort n f).cores = s.cores := rfl
@[simp] theorem modPort_fused (s : State) (n : Nat) (f : Port → Port) : (s.modPort n f).fused = s.fused := rfl
@[simp] theorem modPort_macros (s : State) (n : Nat) (f : Port → Port) : (s.modPort n f).macros = s.macros := rfl
@[simp] theorem modPort_groups (s : State) (n : Nat) (f : Port → Port) : (s.modPort n f).groups = s.groups := rfl
@[simp] theorem modPort_scratch (s : State) (n : Nat) (f : Port → Port) : (s.modPort n f).scratch = s.scratch := rfl
@[simp] theorem modPort_cim (s : State) (n : Nat) (f : Port → Port) : (s.modPort n f).cim = s.cim := rfl
@[simp] theorem modPort_scales (s : State) (n : Nat) (f : Port → Port) : (s.modPort n f).scales = s.scales := rfl
@[simp] theorem modPort_parity (s : State) (n : Nat) (f : Port → Port) : (s.modPort n f).parity = s.parity := rfl
@[simp] theorem modPort_scaleParity (s : State) (n : Nat) (f : Port → Port) : (s.modPort n f).scaleParity = s.scaleParity := rfl
@[simp] theorem modPort_pages (s : State) (n : Nat) (f : Port → Port) : (s.modPort n f).pages = s.pages := rfl
@[simp] theorem modPort_stack (s : State) (n : Nat) (f : Port → Port) : (s.modPort n f).stack = s.stack := rfl
@[simp] theorem modPort_snaps (s : State) (n : Nat) (f : Port → Port) : (s.modPort n f).snaps = s.snaps := rfl
@[simp] theorem modPort_lines (s : State) (n : Nat) (f : Port → Port) : (s.modPort n f).lines = s.lines := rfl
@[simp] theorem modPort_cacheBytes (s : State) (n : Nat) (f : Port → Port) : (s.modPort n f).cacheBytes = s.cacheBytes := rfl
@[simp] theorem modPort_useCtr (s : State) (n : Nat) (f : Port → Port) : (s.modPort n f).useCtr = s.useCtr := rfl
@[simp] theorem modPort_mem (s : State) (n : Nat) (f : Port → Port) : (s.modPort n f).mem = s.mem := rfl
@[simp] theorem modPort_parts (s : State) (n : Nat) (f : Port → Port) : (s.modPort n f).parts = s.parts := rfl
@[simp] theorem modPort_commit (s : State) (n : Nat) (f : Port → Port) : (s.modPort n f).commit = s.commit := rfl
@[simp] theorem modPort_ctxs (s : State) (n : Nat) (f : Port → Port) : (s.modPort n f).ctxs = s.ctxs := rfl
@[simp] theorem modPort_ctxSel (s : State) (n : Nat) (f : Port → Port) : (s.modPort n f).ctxSel = s.ctxSel := rfl
@[simp] theorem modPort_sage (s : State) (n : Nat) (f : Port → Port) : (s.modPort n f).sage = s.sage := rfl
@[simp] theorem modPort_mboxes (s : State) (n : Nat) (f : Port → Port) : (s.modPort n f).mboxes = s.mboxes := rfl
@[simp] theorem modPort_bayViol (s : State) (n : Nat) (f : Port → Port) : (s.modPort n f).bayViol = s.bayViol := rfl
@[simp] theorem modPort_cxl (s : State) (n : Nat) (f : Port → Port) : (s.modPort n f).cxl = s.cxl := rfl
@[simp] theorem modPort_ports (s : State) (n : Nat) (f : Port → Port) : (s.modPort n f).ports = sput Port.fresh s.ports n (f (s.port n)) := rfl
@[simp] theorem modPort_fnlMode (s : State) (n : Nat) (f : Port → Port) : (s.modPort n f).fnlMode = s.fnlMode := rfl
@[simp] theorem modPort_pwr (s : State) (n : Nat) (f : Port → Port) : (s.modPort n f).pwr = s.pwr := rfl
@[simp] theorem modPort_sys (s : State) (n : Nat) (f : Port → Port) : (s.modPort n f).sys = s.sys := rfl
@[simp] theorem modPort_err (s : State) (n : Nat) (f : Port → Port) : (s.modPort n f).err = s.err := rfl
@[simp] theorem modPort_core (s : State) (n : Nat) (f : Port → Port) (x : Nat) : (s.modPort n f).core x = s.core x := rfl
@[simp] theorem modPort_macro1 (s : State) (n : Nat) (f : Port → Port) (x : Nat) : (s.modPort n f).macro1 x = s.macro1 x := rfl
@[simp] theorem modPort_group (s : State) (n : Nat) (f : Port → Port) (x : Nat) : (s.modPort n f).group x = s.group x := rfl
@[simp] theorem modPort_page (s : State) (n : Nat) (f : Port → Port) (x : Nat) : (s.modPort n f).page x = s.page x := rfl
@[simp] theorem modPort_part (s : State) (n : Nat) (f : Port → Port) (x : Nat) : (s.modPort n f).part x = s.part x := rfl
@[simp] theorem modPort_ctx (s : State) (n : Nat) (f : Port → Port) (x : Nat) : (s.modPort n f).ctx x = s.ctx x := rfl
@[simp] theorem modPort_mbox (s : State) (n : Nat) (f : Port → Port) (x : Nat) : (s.modPort n f).mbox x = s.mbox x := rfl
@[simp] theorem modPort_port (s : State) (n : Nat) (f : Port → Port) (x : Nat) : (s.modPort n f).port x = if x = n then f (s.port n) else s.port x :=
  sget_sput _ _ _ _ _
@[simp] theorem modPort_qp (s : State) (n : Nat) (f : Port → Port) (x y : Nat) : (s.modPort n f).qp x y = s.qp x y := rfl
@[simp] theorem modPort_govPart (s : State) (n : Nat) (f : Port → Port) (x : Nat) : (s.modPort n f).govPart x = s.govPart x := rfl
@[simp] theorem modPort_tick (s : State) (n : Nat) (f : Port → Port) : (s.modPort n f).tick = s.tick := rfl
@[simp] theorem modPort_tick64 (s : State) (n : Nat) (f : Port → Port) : (s.modPort n f).tick64 = s.tick64 := rfl
@[simp] theorem modPort_ready (s : State) (n : Nat) (f : Port → Port) : (s.modPort n f).ready = s.ready := rfl
@[simp] theorem modPort_parsley (s : State) (n : Nat) (f : Port → Port) : (s.modPort n f).parsley = s.parsley := rfl

/-! `modQp` -/

@[simp] theorem modQp_pending (s : State) (vf q : Nat) (f : Qp → Qp) : (s.modQp vf q f).pending = s.pending := rfl
@[simp] theorem modQp_freeCtr (s : State) (vf q : Nat) (f : Qp → Qp) : (s.modQp vf q f).freeCtr = s.freeCtr := rfl
@[simp] theorem modQp_readData (s : State) (vf q : Nat) (f : Qp → Qp) : (s.modQp vf q f).readData = s.readData := rfl
@[simp] theorem modQp_readPoison (s : State) (vf q : Nat) (f : Qp → Qp) : (s.modQp vf q f).readPoison = s.readPoison := rfl
@[simp] theorem modQp_gov (s : State) (vf q : Nat) (f : Qp → Qp) : (s.modQp vf q f).gov = s.gov := rfl
@[simp] theorem modQp_cores (s : State) (vf q : Nat) (f : Qp → Qp) : (s.modQp vf q f).cores = s.cores := rfl
@[simp] theorem modQp_fused (s : State) (vf q : Nat) (f : Qp → Qp) : (s.modQp vf q f).fused = s.fused := rfl
@[simp] theorem modQp_macros (s : State) (vf q : Nat) (f : Qp → Qp) : (s.modQp vf q f).macros = s.macros := rfl
@[simp] theorem modQp_groups (s : State) (vf q : Nat) (f : Qp → Qp) : (s.modQp vf q f).groups = s.groups := rfl
@[simp] theorem modQp_scratch (s : State) (vf q : Nat) (f : Qp → Qp) : (s.modQp vf q f).scratch = s.scratch := rfl
@[simp] theorem modQp_cim (s : State) (vf q : Nat) (f : Qp → Qp) : (s.modQp vf q f).cim = s.cim := rfl
@[simp] theorem modQp_scales (s : State) (vf q : Nat) (f : Qp → Qp) : (s.modQp vf q f).scales = s.scales := rfl
@[simp] theorem modQp_parity (s : State) (vf q : Nat) (f : Qp → Qp) : (s.modQp vf q f).parity = s.parity := rfl
@[simp] theorem modQp_scaleParity (s : State) (vf q : Nat) (f : Qp → Qp) : (s.modQp vf q f).scaleParity = s.scaleParity := rfl
@[simp] theorem modQp_pages (s : State) (vf q : Nat) (f : Qp → Qp) : (s.modQp vf q f).pages = s.pages := rfl
@[simp] theorem modQp_stack (s : State) (vf q : Nat) (f : Qp → Qp) : (s.modQp vf q f).stack = s.stack := rfl
@[simp] theorem modQp_snaps (s : State) (vf q : Nat) (f : Qp → Qp) : (s.modQp vf q f).snaps = s.snaps := rfl
@[simp] theorem modQp_lines (s : State) (vf q : Nat) (f : Qp → Qp) : (s.modQp vf q f).lines = s.lines := rfl
@[simp] theorem modQp_cacheBytes (s : State) (vf q : Nat) (f : Qp → Qp) : (s.modQp vf q f).cacheBytes = s.cacheBytes := rfl
@[simp] theorem modQp_useCtr (s : State) (vf q : Nat) (f : Qp → Qp) : (s.modQp vf q f).useCtr = s.useCtr := rfl
@[simp] theorem modQp_mem (s : State) (vf q : Nat) (f : Qp → Qp) : (s.modQp vf q f).mem = s.mem := rfl
@[simp] theorem modQp_parts (s : State) (vf q : Nat) (f : Qp → Qp) : (s.modQp vf q f).parts = s.parts := rfl
@[simp] theorem modQp_commit (s : State) (vf q : Nat) (f : Qp → Qp) : (s.modQp vf q f).commit = s.commit := rfl
@[simp] theorem modQp_ctxs (s : State) (vf q : Nat) (f : Qp → Qp) : (s.modQp vf q f).ctxs = s.ctxs := rfl
@[simp] theorem modQp_ctxSel (s : State) (vf q : Nat) (f : Qp → Qp) : (s.modQp vf q f).ctxSel = s.ctxSel := rfl
@[simp] theorem modQp_sage (s : State) (vf q : Nat) (f : Qp → Qp) : (s.modQp vf q f).sage = s.sage := rfl
@[simp] theorem modQp_mboxes (s : State) (vf q : Nat) (f : Qp → Qp) : (s.modQp vf q f).mboxes = s.mboxes := rfl
@[simp] theorem modQp_bayViol (s : State) (vf q : Nat) (f : Qp → Qp) : (s.modQp vf q f).bayViol = s.bayViol := rfl
@[simp] theorem modQp_cxl (s : State) (vf q : Nat) (f : Qp → Qp) : (s.modQp vf q f).cxl = { s.cxl with qps := smod Qp.fresh s.cxl.qps (vf * 32 + q) f } := rfl
@[simp] theorem modQp_ports (s : State) (vf q : Nat) (f : Qp → Qp) : (s.modQp vf q f).ports = s.ports := rfl
@[simp] theorem modQp_fnlMode (s : State) (vf q : Nat) (f : Qp → Qp) : (s.modQp vf q f).fnlMode = s.fnlMode := rfl
@[simp] theorem modQp_pwr (s : State) (vf q : Nat) (f : Qp → Qp) : (s.modQp vf q f).pwr = s.pwr := rfl
@[simp] theorem modQp_sys (s : State) (vf q : Nat) (f : Qp → Qp) : (s.modQp vf q f).sys = s.sys := rfl
@[simp] theorem modQp_err (s : State) (vf q : Nat) (f : Qp → Qp) : (s.modQp vf q f).err = s.err := rfl
@[simp] theorem modQp_core (s : State) (vf q : Nat) (f : Qp → Qp) (x : Nat) : (s.modQp vf q f).core x = s.core x := rfl
@[simp] theorem modQp_macro1 (s : State) (vf q : Nat) (f : Qp → Qp) (x : Nat) : (s.modQp vf q f).macro1 x = s.macro1 x := rfl
@[simp] theorem modQp_group (s : State) (vf q : Nat) (f : Qp → Qp) (x : Nat) : (s.modQp vf q f).group x = s.group x := rfl
@[simp] theorem modQp_page (s : State) (vf q : Nat) (f : Qp → Qp) (x : Nat) : (s.modQp vf q f).page x = s.page x := rfl
@[simp] theorem modQp_part (s : State) (vf q : Nat) (f : Qp → Qp) (x : Nat) : (s.modQp vf q f).part x = s.part x := rfl
@[simp] theorem modQp_ctx (s : State) (vf q : Nat) (f : Qp → Qp) (x : Nat) : (s.modQp vf q f).ctx x = s.ctx x := rfl
@[simp] theorem modQp_mbox (s : State) (vf q : Nat) (f : Qp → Qp) (x : Nat) : (s.modQp vf q f).mbox x = s.mbox x := rfl
@[simp] theorem modQp_port (s : State) (vf q : Nat) (f : Qp → Qp) (x : Nat) : (s.modQp vf q f).port x = s.port x := rfl
@[simp] theorem modQp_qp (s : State) (vf q : Nat) (f : Qp → Qp) (x y : Nat) :
    (s.modQp vf q f).qp x y = if x * 32 + y = vf * 32 + q then f (s.qp vf q) else s.qp x y := sget_sput _ _ _ _ _
@[simp] theorem modQp_govPart (s : State) (vf q : Nat) (f : Qp → Qp) (x : Nat) : (s.modQp vf q f).govPart x = s.govPart x := rfl
@[simp] theorem modQp_tick (s : State) (vf q : Nat) (f : Qp → Qp) : (s.modQp vf q f).tick = s.tick := rfl
@[simp] theorem modQp_tick64 (s : State) (vf q : Nat) (f : Qp → Qp) : (s.modQp vf q f).tick64 = s.tick64 := rfl
@[simp] theorem modQp_ready (s : State) (vf q : Nat) (f : Qp → Qp) : (s.modQp vf q f).ready = s.ready := rfl
@[simp] theorem modQp_parsley (s : State) (vf q : Nat) (f : Qp → Qp) : (s.modQp vf q f).parsley = s.parsley := rfl

/-! `modSage` -/

@[simp] theorem modSage_pending (s : State) (f : Sage → Sage) : (s.modSage f).pending = s.pending := rfl
@[simp] theorem modSage_freeCtr (s : State) (f : Sage → Sage) : (s.modSage f).freeCtr = s.freeCtr := rfl
@[simp] theorem modSage_readData (s : State) (f : Sage → Sage) : (s.modSage f).readData = s.readData := rfl
@[simp] theorem modSage_readPoison (s : State) (f : Sage → Sage) : (s.modSage f).readPoison = s.readPoison := rfl
@[simp] theorem modSage_gov (s : State) (f : Sage → Sage) : (s.modSage f).gov = s.gov := rfl
@[simp] theorem modSage_cores (s : State) (f : Sage → Sage) : (s.modSage f).cores = s.cores := rfl
@[simp] theorem modSage_fused (s : State) (f : Sage → Sage) : (s.modSage f).fused = s.fused := rfl
@[simp] theorem modSage_macros (s : State) (f : Sage → Sage) : (s.modSage f).macros = s.macros := rfl
@[simp] theorem modSage_groups (s : State) (f : Sage → Sage) : (s.modSage f).groups = s.groups := rfl
@[simp] theorem modSage_scratch (s : State) (f : Sage → Sage) : (s.modSage f).scratch = s.scratch := rfl
@[simp] theorem modSage_cim (s : State) (f : Sage → Sage) : (s.modSage f).cim = s.cim := rfl
@[simp] theorem modSage_scales (s : State) (f : Sage → Sage) : (s.modSage f).scales = s.scales := rfl
@[simp] theorem modSage_parity (s : State) (f : Sage → Sage) : (s.modSage f).parity = s.parity := rfl
@[simp] theorem modSage_scaleParity (s : State) (f : Sage → Sage) : (s.modSage f).scaleParity = s.scaleParity := rfl
@[simp] theorem modSage_pages (s : State) (f : Sage → Sage) : (s.modSage f).pages = s.pages := rfl
@[simp] theorem modSage_stack (s : State) (f : Sage → Sage) : (s.modSage f).stack = s.stack := rfl
@[simp] theorem modSage_snaps (s : State) (f : Sage → Sage) : (s.modSage f).snaps = s.snaps := rfl
@[simp] theorem modSage_lines (s : State) (f : Sage → Sage) : (s.modSage f).lines = s.lines := rfl
@[simp] theorem modSage_cacheBytes (s : State) (f : Sage → Sage) : (s.modSage f).cacheBytes = s.cacheBytes := rfl
@[simp] theorem modSage_useCtr (s : State) (f : Sage → Sage) : (s.modSage f).useCtr = s.useCtr := rfl
@[simp] theorem modSage_mem (s : State) (f : Sage → Sage) : (s.modSage f).mem = s.mem := rfl
@[simp] theorem modSage_parts (s : State) (f : Sage → Sage) : (s.modSage f).parts = s.parts := rfl
@[simp] theorem modSage_commit (s : State) (f : Sage → Sage) : (s.modSage f).commit = s.commit := rfl
@[simp] theorem modSage_ctxs (s : State) (f : Sage → Sage) : (s.modSage f).ctxs = s.ctxs := rfl
@[simp] theorem modSage_ctxSel (s : State) (f : Sage → Sage) : (s.modSage f).ctxSel = s.ctxSel := rfl
@[simp] theorem modSage_sage (s : State) (f : Sage → Sage) : (s.modSage f).sage = f s.sage := rfl
@[simp] theorem modSage_mboxes (s : State) (f : Sage → Sage) : (s.modSage f).mboxes = s.mboxes := rfl
@[simp] theorem modSage_bayViol (s : State) (f : Sage → Sage) : (s.modSage f).bayViol = s.bayViol := rfl
@[simp] theorem modSage_cxl (s : State) (f : Sage → Sage) : (s.modSage f).cxl = s.cxl := rfl
@[simp] theorem modSage_ports (s : State) (f : Sage → Sage) : (s.modSage f).ports = s.ports := rfl
@[simp] theorem modSage_fnlMode (s : State) (f : Sage → Sage) : (s.modSage f).fnlMode = s.fnlMode := rfl
@[simp] theorem modSage_pwr (s : State) (f : Sage → Sage) : (s.modSage f).pwr = s.pwr := rfl
@[simp] theorem modSage_sys (s : State) (f : Sage → Sage) : (s.modSage f).sys = s.sys := rfl
@[simp] theorem modSage_err (s : State) (f : Sage → Sage) : (s.modSage f).err = s.err := rfl
@[simp] theorem modSage_core (s : State) (f : Sage → Sage) (x : Nat) : (s.modSage f).core x = s.core x := rfl
@[simp] theorem modSage_macro1 (s : State) (f : Sage → Sage) (x : Nat) : (s.modSage f).macro1 x = s.macro1 x := rfl
@[simp] theorem modSage_group (s : State) (f : Sage → Sage) (x : Nat) : (s.modSage f).group x = s.group x := rfl
@[simp] theorem modSage_page (s : State) (f : Sage → Sage) (x : Nat) : (s.modSage f).page x = s.page x := rfl
@[simp] theorem modSage_part (s : State) (f : Sage → Sage) (x : Nat) : (s.modSage f).part x = s.part x := rfl
@[simp] theorem modSage_ctx (s : State) (f : Sage → Sage) (x : Nat) : (s.modSage f).ctx x = s.ctx x := rfl
@[simp] theorem modSage_mbox (s : State) (f : Sage → Sage) (x : Nat) : (s.modSage f).mbox x = s.mbox x := rfl
@[simp] theorem modSage_port (s : State) (f : Sage → Sage) (x : Nat) : (s.modSage f).port x = s.port x := rfl
@[simp] theorem modSage_qp (s : State) (f : Sage → Sage) (x y : Nat) : (s.modSage f).qp x y = s.qp x y := rfl
@[simp] theorem modSage_govPart (s : State) (f : Sage → Sage) (x : Nat) : (s.modSage f).govPart x = s.govPart x := rfl
@[simp] theorem modSage_tick (s : State) (f : Sage → Sage) : (s.modSage f).tick = s.tick := rfl
@[simp] theorem modSage_tick64 (s : State) (f : Sage → Sage) : (s.modSage f).tick64 = s.tick64 := rfl
@[simp] theorem modSage_ready (s : State) (f : Sage → Sage) : (s.modSage f).ready = s.ready := rfl
@[simp] theorem modSage_parsley (s : State) (f : Sage → Sage) : (s.modSage f).parsley = s.parsley := rfl

/-! `modErr` -/

@[simp] theorem modErr_pending (s : State) (f : Err → Err) : (s.modErr f).pending = s.pending := rfl
@[simp] theorem modErr_freeCtr (s : State) (f : Err → Err) : (s.modErr f).freeCtr = s.freeCtr := rfl
@[simp] theorem modErr_readData (s : State) (f : Err → Err) : (s.modErr f).readData = s.readData := rfl
@[simp] theorem modErr_readPoison (s : State) (f : Err → Err) : (s.modErr f).readPoison = s.readPoison := rfl
@[simp] theorem modErr_gov (s : State) (f : Err → Err) : (s.modErr f).gov = s.gov := rfl
@[simp] theorem modErr_cores (s : State) (f : Err → Err) : (s.modErr f).cores = s.cores := rfl
@[simp] theorem modErr_fused (s : State) (f : Err → Err) : (s.modErr f).fused = s.fused := rfl
@[simp] theorem modErr_macros (s : State) (f : Err → Err) : (s.modErr f).macros = s.macros := rfl
@[simp] theorem modErr_groups (s : State) (f : Err → Err) : (s.modErr f).groups = s.groups := rfl
@[simp] theorem modErr_scratch (s : State) (f : Err → Err) : (s.modErr f).scratch = s.scratch := rfl
@[simp] theorem modErr_cim (s : State) (f : Err → Err) : (s.modErr f).cim = s.cim := rfl
@[simp] theorem modErr_scales (s : State) (f : Err → Err) : (s.modErr f).scales = s.scales := rfl
@[simp] theorem modErr_parity (s : State) (f : Err → Err) : (s.modErr f).parity = s.parity := rfl
@[simp] theorem modErr_scaleParity (s : State) (f : Err → Err) : (s.modErr f).scaleParity = s.scaleParity := rfl
@[simp] theorem modErr_pages (s : State) (f : Err → Err) : (s.modErr f).pages = s.pages := rfl
@[simp] theorem modErr_stack (s : State) (f : Err → Err) : (s.modErr f).stack = s.stack := rfl
@[simp] theorem modErr_snaps (s : State) (f : Err → Err) : (s.modErr f).snaps = s.snaps := rfl
@[simp] theorem modErr_lines (s : State) (f : Err → Err) : (s.modErr f).lines = s.lines := rfl
@[simp] theorem modErr_cacheBytes (s : State) (f : Err → Err) : (s.modErr f).cacheBytes = s.cacheBytes := rfl
@[simp] theorem modErr_useCtr (s : State) (f : Err → Err) : (s.modErr f).useCtr = s.useCtr := rfl
@[simp] theorem modErr_mem (s : State) (f : Err → Err) : (s.modErr f).mem = s.mem := rfl
@[simp] theorem modErr_parts (s : State) (f : Err → Err) : (s.modErr f).parts = s.parts := rfl
@[simp] theorem modErr_commit (s : State) (f : Err → Err) : (s.modErr f).commit = s.commit := rfl
@[simp] theorem modErr_ctxs (s : State) (f : Err → Err) : (s.modErr f).ctxs = s.ctxs := rfl
@[simp] theorem modErr_ctxSel (s : State) (f : Err → Err) : (s.modErr f).ctxSel = s.ctxSel := rfl
@[simp] theorem modErr_sage (s : State) (f : Err → Err) : (s.modErr f).sage = s.sage := rfl
@[simp] theorem modErr_mboxes (s : State) (f : Err → Err) : (s.modErr f).mboxes = s.mboxes := rfl
@[simp] theorem modErr_bayViol (s : State) (f : Err → Err) : (s.modErr f).bayViol = s.bayViol := rfl
@[simp] theorem modErr_cxl (s : State) (f : Err → Err) : (s.modErr f).cxl = s.cxl := rfl
@[simp] theorem modErr_ports (s : State) (f : Err → Err) : (s.modErr f).ports = s.ports := rfl
@[simp] theorem modErr_fnlMode (s : State) (f : Err → Err) : (s.modErr f).fnlMode = s.fnlMode := rfl
@[simp] theorem modErr_pwr (s : State) (f : Err → Err) : (s.modErr f).pwr = s.pwr := rfl
@[simp] theorem modErr_sys (s : State) (f : Err → Err) : (s.modErr f).sys = s.sys := rfl
@[simp] theorem modErr_err (s : State) (f : Err → Err) : (s.modErr f).err = f s.err := rfl
@[simp] theorem modErr_core (s : State) (f : Err → Err) (x : Nat) : (s.modErr f).core x = s.core x := rfl
@[simp] theorem modErr_macro1 (s : State) (f : Err → Err) (x : Nat) : (s.modErr f).macro1 x = s.macro1 x := rfl
@[simp] theorem modErr_group (s : State) (f : Err → Err) (x : Nat) : (s.modErr f).group x = s.group x := rfl
@[simp] theorem modErr_page (s : State) (f : Err → Err) (x : Nat) : (s.modErr f).page x = s.page x := rfl
@[simp] theorem modErr_part (s : State) (f : Err → Err) (x : Nat) : (s.modErr f).part x = s.part x := rfl
@[simp] theorem modErr_ctx (s : State) (f : Err → Err) (x : Nat) : (s.modErr f).ctx x = s.ctx x := rfl
@[simp] theorem modErr_mbox (s : State) (f : Err → Err) (x : Nat) : (s.modErr f).mbox x = s.mbox x := rfl
@[simp] theorem modErr_port (s : State) (f : Err → Err) (x : Nat) : (s.modErr f).port x = s.port x := rfl
@[simp] theorem modErr_qp (s : State) (f : Err → Err) (x y : Nat) : (s.modErr f).qp x y = s.qp x y := rfl
@[simp] theorem modErr_govPart (s : State) (f : Err → Err) (x : Nat) : (s.modErr f).govPart x = s.govPart x := rfl
@[simp] theorem modErr_tick (s : State) (f : Err → Err) : (s.modErr f).tick = s.tick := rfl
@[simp] theorem modErr_tick64 (s : State) (f : Err → Err) : (s.modErr f).tick64 = s.tick64 := rfl
@[simp] theorem modErr_ready (s : State) (f : Err → Err) : (s.modErr f).ready = s.ready := rfl
@[simp] theorem modErr_parsley (s : State) (f : Err → Err) : (s.modErr f).parsley = s.parsley := rfl

/-! `modSys` -/

@[simp] theorem modSys_pending (s : State) (f : Sys → Sys) : (s.modSys f).pending = s.pending := rfl
@[simp] theorem modSys_freeCtr (s : State) (f : Sys → Sys) : (s.modSys f).freeCtr = s.freeCtr := rfl
@[simp] theorem modSys_readData (s : State) (f : Sys → Sys) : (s.modSys f).readData = s.readData := rfl
@[simp] theorem modSys_readPoison (s : State) (f : Sys → Sys) : (s.modSys f).readPoison = s.readPoison := rfl
@[simp] theorem modSys_gov (s : State) (f : Sys → Sys) : (s.modSys f).gov = s.gov := rfl
@[simp] theorem modSys_cores (s : State) (f : Sys → Sys) : (s.modSys f).cores = s.cores := rfl
@[simp] theorem modSys_fused (s : State) (f : Sys → Sys) : (s.modSys f).fused = s.fused := rfl
@[simp] theorem modSys_macros (s : State) (f : Sys → Sys) : (s.modSys f).macros = s.macros := rfl
@[simp] theorem modSys_groups (s : State) (f : Sys → Sys) : (s.modSys f).groups = s.groups := rfl
@[simp] theorem modSys_scratch (s : State) (f : Sys → Sys) : (s.modSys f).scratch = s.scratch := rfl
@[simp] theorem modSys_cim (s : State) (f : Sys → Sys) : (s.modSys f).cim = s.cim := rfl
@[simp] theorem modSys_scales (s : State) (f : Sys → Sys) : (s.modSys f).scales = s.scales := rfl
@[simp] theorem modSys_parity (s : State) (f : Sys → Sys) : (s.modSys f).parity = s.parity := rfl
@[simp] theorem modSys_scaleParity (s : State) (f : Sys → Sys) : (s.modSys f).scaleParity = s.scaleParity := rfl
@[simp] theorem modSys_pages (s : State) (f : Sys → Sys) : (s.modSys f).pages = s.pages := rfl
@[simp] theorem modSys_stack (s : State) (f : Sys → Sys) : (s.modSys f).stack = s.stack := rfl
@[simp] theorem modSys_snaps (s : State) (f : Sys → Sys) : (s.modSys f).snaps = s.snaps := rfl
@[simp] theorem modSys_lines (s : State) (f : Sys → Sys) : (s.modSys f).lines = s.lines := rfl
@[simp] theorem modSys_cacheBytes (s : State) (f : Sys → Sys) : (s.modSys f).cacheBytes = s.cacheBytes := rfl
@[simp] theorem modSys_useCtr (s : State) (f : Sys → Sys) : (s.modSys f).useCtr = s.useCtr := rfl
@[simp] theorem modSys_mem (s : State) (f : Sys → Sys) : (s.modSys f).mem = s.mem := rfl
@[simp] theorem modSys_parts (s : State) (f : Sys → Sys) : (s.modSys f).parts = s.parts := rfl
@[simp] theorem modSys_commit (s : State) (f : Sys → Sys) : (s.modSys f).commit = s.commit := rfl
@[simp] theorem modSys_ctxs (s : State) (f : Sys → Sys) : (s.modSys f).ctxs = s.ctxs := rfl
@[simp] theorem modSys_ctxSel (s : State) (f : Sys → Sys) : (s.modSys f).ctxSel = s.ctxSel := rfl
@[simp] theorem modSys_sage (s : State) (f : Sys → Sys) : (s.modSys f).sage = s.sage := rfl
@[simp] theorem modSys_mboxes (s : State) (f : Sys → Sys) : (s.modSys f).mboxes = s.mboxes := rfl
@[simp] theorem modSys_bayViol (s : State) (f : Sys → Sys) : (s.modSys f).bayViol = s.bayViol := rfl
@[simp] theorem modSys_cxl (s : State) (f : Sys → Sys) : (s.modSys f).cxl = s.cxl := rfl
@[simp] theorem modSys_ports (s : State) (f : Sys → Sys) : (s.modSys f).ports = s.ports := rfl
@[simp] theorem modSys_fnlMode (s : State) (f : Sys → Sys) : (s.modSys f).fnlMode = s.fnlMode := rfl
@[simp] theorem modSys_pwr (s : State) (f : Sys → Sys) : (s.modSys f).pwr = s.pwr := rfl
@[simp] theorem modSys_sys (s : State) (f : Sys → Sys) : (s.modSys f).sys = f s.sys := rfl
@[simp] theorem modSys_err (s : State) (f : Sys → Sys) : (s.modSys f).err = s.err := rfl
@[simp] theorem modSys_core (s : State) (f : Sys → Sys) (x : Nat) : (s.modSys f).core x = s.core x := rfl
@[simp] theorem modSys_macro1 (s : State) (f : Sys → Sys) (x : Nat) : (s.modSys f).macro1 x = s.macro1 x := rfl
@[simp] theorem modSys_group (s : State) (f : Sys → Sys) (x : Nat) : (s.modSys f).group x = s.group x := rfl
@[simp] theorem modSys_page (s : State) (f : Sys → Sys) (x : Nat) : (s.modSys f).page x = s.page x := rfl
@[simp] theorem modSys_part (s : State) (f : Sys → Sys) (x : Nat) : (s.modSys f).part x = s.part x := rfl
@[simp] theorem modSys_ctx (s : State) (f : Sys → Sys) (x : Nat) : (s.modSys f).ctx x = s.ctx x := rfl
@[simp] theorem modSys_mbox (s : State) (f : Sys → Sys) (x : Nat) : (s.modSys f).mbox x = s.mbox x := rfl
@[simp] theorem modSys_port (s : State) (f : Sys → Sys) (x : Nat) : (s.modSys f).port x = s.port x := rfl
@[simp] theorem modSys_qp (s : State) (f : Sys → Sys) (x y : Nat) : (s.modSys f).qp x y = s.qp x y := rfl
@[simp] theorem modSys_govPart (s : State) (f : Sys → Sys) (x : Nat) : (s.modSys f).govPart x = s.govPart x := rfl
@[simp] theorem modSys_tick (s : State) (f : Sys → Sys) : (s.modSys f).tick = s.tick := rfl
@[simp] theorem modSys_tick64 (s : State) (f : Sys → Sys) : (s.modSys f).tick64 = s.tick64 := rfl

/-! `modPwr` -/

@[simp] theorem modPwr_pending (s : State) (f : Pwr → Pwr) : (s.modPwr f).pending = s.pending := rfl
@[simp] theorem modPwr_freeCtr (s : State) (f : Pwr → Pwr) : (s.modPwr f).freeCtr = s.freeCtr := rfl
@[simp] theorem modPwr_readData (s : State) (f : Pwr → Pwr) : (s.modPwr f).readData = s.readData := rfl
@[simp] theorem modPwr_readPoison (s : State) (f : Pwr → Pwr) : (s.modPwr f).readPoison = s.readPoison := rfl
@[simp] theorem modPwr_gov (s : State) (f : Pwr → Pwr) : (s.modPwr f).gov = s.gov := rfl
@[simp] theorem modPwr_cores (s : State) (f : Pwr → Pwr) : (s.modPwr f).cores = s.cores := rfl
@[simp] theorem modPwr_fused (s : State) (f : Pwr → Pwr) : (s.modPwr f).fused = s.fused := rfl
@[simp] theorem modPwr_macros (s : State) (f : Pwr → Pwr) : (s.modPwr f).macros = s.macros := rfl
@[simp] theorem modPwr_groups (s : State) (f : Pwr → Pwr) : (s.modPwr f).groups = s.groups := rfl
@[simp] theorem modPwr_scratch (s : State) (f : Pwr → Pwr) : (s.modPwr f).scratch = s.scratch := rfl
@[simp] theorem modPwr_cim (s : State) (f : Pwr → Pwr) : (s.modPwr f).cim = s.cim := rfl
@[simp] theorem modPwr_scales (s : State) (f : Pwr → Pwr) : (s.modPwr f).scales = s.scales := rfl
@[simp] theorem modPwr_parity (s : State) (f : Pwr → Pwr) : (s.modPwr f).parity = s.parity := rfl
@[simp] theorem modPwr_scaleParity (s : State) (f : Pwr → Pwr) : (s.modPwr f).scaleParity = s.scaleParity := rfl
@[simp] theorem modPwr_pages (s : State) (f : Pwr → Pwr) : (s.modPwr f).pages = s.pages := rfl
@[simp] theorem modPwr_stack (s : State) (f : Pwr → Pwr) : (s.modPwr f).stack = s.stack := rfl
@[simp] theorem modPwr_snaps (s : State) (f : Pwr → Pwr) : (s.modPwr f).snaps = s.snaps := rfl
@[simp] theorem modPwr_lines (s : State) (f : Pwr → Pwr) : (s.modPwr f).lines = s.lines := rfl
@[simp] theorem modPwr_cacheBytes (s : State) (f : Pwr → Pwr) : (s.modPwr f).cacheBytes = s.cacheBytes := rfl
@[simp] theorem modPwr_useCtr (s : State) (f : Pwr → Pwr) : (s.modPwr f).useCtr = s.useCtr := rfl
@[simp] theorem modPwr_mem (s : State) (f : Pwr → Pwr) : (s.modPwr f).mem = s.mem := rfl
@[simp] theorem modPwr_parts (s : State) (f : Pwr → Pwr) : (s.modPwr f).parts = s.parts := rfl
@[simp] theorem modPwr_commit (s : State) (f : Pwr → Pwr) : (s.modPwr f).commit = s.commit := rfl
@[simp] theorem modPwr_ctxs (s : State) (f : Pwr → Pwr) : (s.modPwr f).ctxs = s.ctxs := rfl
@[simp] theorem modPwr_ctxSel (s : State) (f : Pwr → Pwr) : (s.modPwr f).ctxSel = s.ctxSel := rfl
@[simp] theorem modPwr_sage (s : State) (f : Pwr → Pwr) : (s.modPwr f).sage = s.sage := rfl
@[simp] theorem modPwr_mboxes (s : State) (f : Pwr → Pwr) : (s.modPwr f).mboxes = s.mboxes := rfl
@[simp] theorem modPwr_bayViol (s : State) (f : Pwr → Pwr) : (s.modPwr f).bayViol = s.bayViol := rfl
@[simp] theorem modPwr_cxl (s : State) (f : Pwr → Pwr) : (s.modPwr f).cxl = s.cxl := rfl
@[simp] theorem modPwr_ports (s : State) (f : Pwr → Pwr) : (s.modPwr f).ports = s.ports := rfl
@[simp] theorem modPwr_fnlMode (s : State) (f : Pwr → Pwr) : (s.modPwr f).fnlMode = s.fnlMode := rfl
@[simp] theorem modPwr_pwr (s : State) (f : Pwr → Pwr) : (s.modPwr f).pwr = f s.pwr := rfl
@[simp] theorem modPwr_sys (s : State) (f : Pwr → Pwr) : (s.modPwr f).sys = s.sys := rfl
@[simp] theorem modPwr_err (s : State) (f : Pwr → Pwr) : (s.modPwr f).err = s.err := rfl
@[simp] theorem modPwr_core (s : State) (f : Pwr → Pwr) (x : Nat) : (s.modPwr f).core x = s.core x := rfl
@[simp] theorem modPwr_macro1 (s : State) (f : Pwr → Pwr) (x : Nat) : (s.modPwr f).macro1 x = s.macro1 x := rfl
@[simp] theorem modPwr_group (s : State) (f : Pwr → Pwr) (x : Nat) : (s.modPwr f).group x = s.group x := rfl
@[simp] theorem modPwr_page (s : State) (f : Pwr → Pwr) (x : Nat) : (s.modPwr f).page x = s.page x := rfl
@[simp] theorem modPwr_part (s : State) (f : Pwr → Pwr) (x : Nat) : (s.modPwr f).part x = s.part x := rfl
@[simp] theorem modPwr_ctx (s : State) (f : Pwr → Pwr) (x : Nat) : (s.modPwr f).ctx x = s.ctx x := rfl
@[simp] theorem modPwr_mbox (s : State) (f : Pwr → Pwr) (x : Nat) : (s.modPwr f).mbox x = s.mbox x := rfl
@[simp] theorem modPwr_port (s : State) (f : Pwr → Pwr) (x : Nat) : (s.modPwr f).port x = s.port x := rfl
@[simp] theorem modPwr_qp (s : State) (f : Pwr → Pwr) (x y : Nat) : (s.modPwr f).qp x y = s.qp x y := rfl
@[simp] theorem modPwr_govPart (s : State) (f : Pwr → Pwr) (x : Nat) : (s.modPwr f).govPart x = s.govPart x := rfl
@[simp] theorem modPwr_tick (s : State) (f : Pwr → Pwr) : (s.modPwr f).tick = s.tick := rfl
@[simp] theorem modPwr_tick64 (s : State) (f : Pwr → Pwr) : (s.modPwr f).tick64 = s.tick64 := rfl
@[simp] theorem modPwr_ready (s : State) (f : Pwr → Pwr) : (s.modPwr f).ready = s.ready := rfl
@[simp] theorem modPwr_parsley (s : State) (f : Pwr → Pwr) : (s.modPwr f).parsley = s.parsley := rfl

/-! `modMem` -/

@[simp] theorem modMem_pending (s : State) (f : MemRegs → MemRegs) : (s.modMem f).pending = s.pending := rfl
@[simp] theorem modMem_freeCtr (s : State) (f : MemRegs → MemRegs) : (s.modMem f).freeCtr = s.freeCtr := rfl
@[simp] theorem modMem_readData (s : State) (f : MemRegs → MemRegs) : (s.modMem f).readData = s.readData := rfl
@[simp] theorem modMem_readPoison (s : State) (f : MemRegs → MemRegs) : (s.modMem f).readPoison = s.readPoison := rfl
@[simp] theorem modMem_gov (s : State) (f : MemRegs → MemRegs) : (s.modMem f).gov = s.gov := rfl
@[simp] theorem modMem_cores (s : State) (f : MemRegs → MemRegs) : (s.modMem f).cores = s.cores := rfl
@[simp] theorem modMem_fused (s : State) (f : MemRegs → MemRegs) : (s.modMem f).fused = s.fused := rfl
@[simp] theorem modMem_macros (s : State) (f : MemRegs → MemRegs) : (s.modMem f).macros = s.macros := rfl
@[simp] theorem modMem_groups (s : State) (f : MemRegs → MemRegs) : (s.modMem f).groups = s.groups := rfl
@[simp] theorem modMem_scratch (s : State) (f : MemRegs → MemRegs) : (s.modMem f).scratch = s.scratch := rfl
@[simp] theorem modMem_cim (s : State) (f : MemRegs → MemRegs) : (s.modMem f).cim = s.cim := rfl
@[simp] theorem modMem_scales (s : State) (f : MemRegs → MemRegs) : (s.modMem f).scales = s.scales := rfl
@[simp] theorem modMem_parity (s : State) (f : MemRegs → MemRegs) : (s.modMem f).parity = s.parity := rfl
@[simp] theorem modMem_scaleParity (s : State) (f : MemRegs → MemRegs) : (s.modMem f).scaleParity = s.scaleParity := rfl
@[simp] theorem modMem_pages (s : State) (f : MemRegs → MemRegs) : (s.modMem f).pages = s.pages := rfl
@[simp] theorem modMem_stack (s : State) (f : MemRegs → MemRegs) : (s.modMem f).stack = s.stack := rfl
@[simp] theorem modMem_snaps (s : State) (f : MemRegs → MemRegs) : (s.modMem f).snaps = s.snaps := rfl
@[simp] theorem modMem_lines (s : State) (f : MemRegs → MemRegs) : (s.modMem f).lines = s.lines := rfl
@[simp] theorem modMem_cacheBytes (s : State) (f : MemRegs → MemRegs) : (s.modMem f).cacheBytes = s.cacheBytes := rfl
@[simp] theorem modMem_useCtr (s : State) (f : MemRegs → MemRegs) : (s.modMem f).useCtr = s.useCtr := rfl
@[simp] theorem modMem_mem (s : State) (f : MemRegs → MemRegs) : (s.modMem f).mem = f s.mem := rfl
@[simp] theorem modMem_parts (s : State) (f : MemRegs → MemRegs) : (s.modMem f).parts = s.parts := rfl
@[simp] theorem modMem_commit (s : State) (f : MemRegs → MemRegs) : (s.modMem f).commit = s.commit := rfl
@[simp] theorem modMem_ctxs (s : State) (f : MemRegs → MemRegs) : (s.modMem f).ctxs = s.ctxs := rfl
@[simp] theorem modMem_ctxSel (s : State) (f : MemRegs → MemRegs) : (s.modMem f).ctxSel = s.ctxSel := rfl
@[simp] theorem modMem_sage (s : State) (f : MemRegs → MemRegs) : (s.modMem f).sage = s.sage := rfl
@[simp] theorem modMem_mboxes (s : State) (f : MemRegs → MemRegs) : (s.modMem f).mboxes = s.mboxes := rfl
@[simp] theorem modMem_bayViol (s : State) (f : MemRegs → MemRegs) : (s.modMem f).bayViol = s.bayViol := rfl
@[simp] theorem modMem_cxl (s : State) (f : MemRegs → MemRegs) : (s.modMem f).cxl = s.cxl := rfl
@[simp] theorem modMem_ports (s : State) (f : MemRegs → MemRegs) : (s.modMem f).ports = s.ports := rfl
@[simp] theorem modMem_fnlMode (s : State) (f : MemRegs → MemRegs) : (s.modMem f).fnlMode = s.fnlMode := rfl
@[simp] theorem modMem_pwr (s : State) (f : MemRegs → MemRegs) : (s.modMem f).pwr = s.pwr := rfl
@[simp] theorem modMem_sys (s : State) (f : MemRegs → MemRegs) : (s.modMem f).sys = s.sys := rfl
@[simp] theorem modMem_err (s : State) (f : MemRegs → MemRegs) : (s.modMem f).err = s.err := rfl
@[simp] theorem modMem_core (s : State) (f : MemRegs → MemRegs) (x : Nat) : (s.modMem f).core x = s.core x := rfl
@[simp] theorem modMem_macro1 (s : State) (f : MemRegs → MemRegs) (x : Nat) : (s.modMem f).macro1 x = s.macro1 x := rfl
@[simp] theorem modMem_group (s : State) (f : MemRegs → MemRegs) (x : Nat) : (s.modMem f).group x = s.group x := rfl
@[simp] theorem modMem_page (s : State) (f : MemRegs → MemRegs) (x : Nat) : (s.modMem f).page x = s.page x := rfl
@[simp] theorem modMem_part (s : State) (f : MemRegs → MemRegs) (x : Nat) : (s.modMem f).part x = s.part x := rfl
@[simp] theorem modMem_ctx (s : State) (f : MemRegs → MemRegs) (x : Nat) : (s.modMem f).ctx x = s.ctx x := rfl
@[simp] theorem modMem_mbox (s : State) (f : MemRegs → MemRegs) (x : Nat) : (s.modMem f).mbox x = s.mbox x := rfl
@[simp] theorem modMem_port (s : State) (f : MemRegs → MemRegs) (x : Nat) : (s.modMem f).port x = s.port x := rfl
@[simp] theorem modMem_qp (s : State) (f : MemRegs → MemRegs) (x y : Nat) : (s.modMem f).qp x y = s.qp x y := rfl
@[simp] theorem modMem_govPart (s : State) (f : MemRegs → MemRegs) (x : Nat) : (s.modMem f).govPart x = s.govPart x := rfl
@[simp] theorem modMem_tick (s : State) (f : MemRegs → MemRegs) : (s.modMem f).tick = s.tick := rfl
@[simp] theorem modMem_tick64 (s : State) (f : MemRegs → MemRegs) : (s.modMem f).tick64 = s.tick64 := rfl
@[simp] theorem modMem_ready (s : State) (f : MemRegs → MemRegs) : (s.modMem f).ready = s.ready := rfl
@[simp] theorem modMem_parsley (s : State) (f : MemRegs → MemRegs) : (s.modMem f).parsley = s.parsley := rfl

/-! `modCxl` -/

@[simp] theorem modCxl_pending (s : State) (f : Cxl → Cxl) : (s.modCxl f).pending = s.pending := rfl
@[simp] theorem modCxl_freeCtr (s : State) (f : Cxl → Cxl) : (s.modCxl f).freeCtr = s.freeCtr := rfl
@[simp] theorem modCxl_readData (s : State) (f : Cxl → Cxl) : (s.modCxl f).readData = s.readData := rfl
@[simp] theorem modCxl_readPoison (s : State) (f : Cxl → Cxl) : (s.modCxl f).readPoison = s.readPoison := rfl
@[simp] theorem modCxl_gov (s : State) (f : Cxl → Cxl) : (s.modCxl f).gov = s.gov := rfl
@[simp] theorem modCxl_cores (s : State) (f : Cxl → Cxl) : (s.modCxl f).cores = s.cores := rfl
@[simp] theorem modCxl_fused (s : State) (f : Cxl → Cxl) : (s.modCxl f).fused = s.fused := rfl
@[simp] theorem modCxl_macros (s : State) (f : Cxl → Cxl) : (s.modCxl f).macros = s.macros := rfl
@[simp] theorem modCxl_groups (s : State) (f : Cxl → Cxl) : (s.modCxl f).groups = s.groups := rfl
@[simp] theorem modCxl_scratch (s : State) (f : Cxl → Cxl) : (s.modCxl f).scratch = s.scratch := rfl
@[simp] theorem modCxl_cim (s : State) (f : Cxl → Cxl) : (s.modCxl f).cim = s.cim := rfl
@[simp] theorem modCxl_scales (s : State) (f : Cxl → Cxl) : (s.modCxl f).scales = s.scales := rfl
@[simp] theorem modCxl_parity (s : State) (f : Cxl → Cxl) : (s.modCxl f).parity = s.parity := rfl
@[simp] theorem modCxl_scaleParity (s : State) (f : Cxl → Cxl) : (s.modCxl f).scaleParity = s.scaleParity := rfl
@[simp] theorem modCxl_pages (s : State) (f : Cxl → Cxl) : (s.modCxl f).pages = s.pages := rfl
@[simp] theorem modCxl_stack (s : State) (f : Cxl → Cxl) : (s.modCxl f).stack = s.stack := rfl
@[simp] theorem modCxl_snaps (s : State) (f : Cxl → Cxl) : (s.modCxl f).snaps = s.snaps := rfl
@[simp] theorem modCxl_lines (s : State) (f : Cxl → Cxl) : (s.modCxl f).lines = s.lines := rfl
@[simp] theorem modCxl_cacheBytes (s : State) (f : Cxl → Cxl) : (s.modCxl f).cacheBytes = s.cacheBytes := rfl
@[simp] theorem modCxl_useCtr (s : State) (f : Cxl → Cxl) : (s.modCxl f).useCtr = s.useCtr := rfl
@[simp] theorem modCxl_mem (s : State) (f : Cxl → Cxl) : (s.modCxl f).mem = s.mem := rfl
@[simp] theorem modCxl_parts (s : State) (f : Cxl → Cxl) : (s.modCxl f).parts = s.parts := rfl
@[simp] theorem modCxl_commit (s : State) (f : Cxl → Cxl) : (s.modCxl f).commit = s.commit := rfl
@[simp] theorem modCxl_ctxs (s : State) (f : Cxl → Cxl) : (s.modCxl f).ctxs = s.ctxs := rfl
@[simp] theorem modCxl_ctxSel (s : State) (f : Cxl → Cxl) : (s.modCxl f).ctxSel = s.ctxSel := rfl
@[simp] theorem modCxl_sage (s : State) (f : Cxl → Cxl) : (s.modCxl f).sage = s.sage := rfl
@[simp] theorem modCxl_mboxes (s : State) (f : Cxl → Cxl) : (s.modCxl f).mboxes = s.mboxes := rfl
@[simp] theorem modCxl_bayViol (s : State) (f : Cxl → Cxl) : (s.modCxl f).bayViol = s.bayViol := rfl
@[simp] theorem modCxl_cxl (s : State) (f : Cxl → Cxl) : (s.modCxl f).cxl = f s.cxl := rfl
@[simp] theorem modCxl_ports (s : State) (f : Cxl → Cxl) : (s.modCxl f).ports = s.ports := rfl
@[simp] theorem modCxl_fnlMode (s : State) (f : Cxl → Cxl) : (s.modCxl f).fnlMode = s.fnlMode := rfl
@[simp] theorem modCxl_pwr (s : State) (f : Cxl → Cxl) : (s.modCxl f).pwr = s.pwr := rfl
@[simp] theorem modCxl_sys (s : State) (f : Cxl → Cxl) : (s.modCxl f).sys = s.sys := rfl
@[simp] theorem modCxl_err (s : State) (f : Cxl → Cxl) : (s.modCxl f).err = s.err := rfl
@[simp] theorem modCxl_core (s : State) (f : Cxl → Cxl) (x : Nat) : (s.modCxl f).core x = s.core x := rfl
@[simp] theorem modCxl_macro1 (s : State) (f : Cxl → Cxl) (x : Nat) : (s.modCxl f).macro1 x = s.macro1 x := rfl
@[simp] theorem modCxl_group (s : State) (f : Cxl → Cxl) (x : Nat) : (s.modCxl f).group x = s.group x := rfl
@[simp] theorem modCxl_page (s : State) (f : Cxl → Cxl) (x : Nat) : (s.modCxl f).page x = s.page x := rfl
@[simp] theorem modCxl_part (s : State) (f : Cxl → Cxl) (x : Nat) : (s.modCxl f).part x = s.part x := rfl
@[simp] theorem modCxl_ctx (s : State) (f : Cxl → Cxl) (x : Nat) : (s.modCxl f).ctx x = s.ctx x := rfl
@[simp] theorem modCxl_mbox (s : State) (f : Cxl → Cxl) (x : Nat) : (s.modCxl f).mbox x = s.mbox x := rfl
@[simp] theorem modCxl_port (s : State) (f : Cxl → Cxl) (x : Nat) : (s.modCxl f).port x = s.port x := rfl
@[simp] theorem modCxl_govPart (s : State) (f : Cxl → Cxl) (x : Nat) : (s.modCxl f).govPart x = s.govPart x := rfl
@[simp] theorem modCxl_tick (s : State) (f : Cxl → Cxl) : (s.modCxl f).tick = s.tick := rfl
@[simp] theorem modCxl_tick64 (s : State) (f : Cxl → Cxl) : (s.modCxl f).tick64 = s.tick64 := rfl
@[simp] theorem modCxl_ready (s : State) (f : Cxl → Cxl) : (s.modCxl f).ready = s.ready := rfl
@[simp] theorem modCxl_parsley (s : State) (f : Cxl → Cxl) : (s.modCxl f).parsley = s.parsley := rfl

/-! `advance` -/

@[simp] theorem advance_pending (s : State) (t : Nat) : (s.advance t).pending = s.pending := rfl
@[simp] theorem advance_freeCtr (s : State) (t : Nat) : (s.advance t).freeCtr = s.freeCtr := rfl
@[simp] theorem advance_readData (s : State) (t : Nat) : (s.advance t).readData = s.readData := rfl
@[simp] theorem advance_readPoison (s : State) (t : Nat) : (s.advance t).readPoison = s.readPoison := rfl
@[simp] theorem advance_gov (s : State) (t : Nat) : (s.advance t).gov = { s.gov with now := max s.gov.now t } := rfl
@[simp] theorem advance_cores (s : State) (t : Nat) : (s.advance t).cores = s.cores := rfl
@[simp] theorem advance_fused (s : State) (t : Nat) : (s.advance t).fused = s.fused := rfl
@[simp] theorem advance_macros (s : State) (t : Nat) : (s.advance t).macros = s.macros := rfl
@[simp] theorem advance_groups (s : State) (t : Nat) : (s.advance t).groups = s.groups := rfl
@[simp] theorem advance_scratch (s : State) (t : Nat) : (s.advance t).scratch = s.scratch := rfl
@[simp] theorem advance_cim (s : State) (t : Nat) : (s.advance t).cim = s.cim := rfl
@[simp] theorem advance_scales (s : State) (t : Nat) : (s.advance t).scales = s.scales := rfl
@[simp] theorem advance_parity (s : State) (t : Nat) : (s.advance t).parity = s.parity := rfl
@[simp] theorem advance_scaleParity (s : State) (t : Nat) : (s.advance t).scaleParity = s.scaleParity := rfl
@[simp] theorem advance_pages (s : State) (t : Nat) : (s.advance t).pages = s.pages := rfl
@[simp] theorem advance_stack (s : State) (t : Nat) : (s.advance t).stack = s.stack := rfl
@[simp] theorem advance_snaps (s : State) (t : Nat) : (s.advance t).snaps = s.snaps := rfl
@[simp] theorem advance_lines (s : State) (t : Nat) : (s.advance t).lines = s.lines := rfl
@[simp] theorem advance_cacheBytes (s : State) (t : Nat) : (s.advance t).cacheBytes = s.cacheBytes := rfl
@[simp] theorem advance_useCtr (s : State) (t : Nat) : (s.advance t).useCtr = s.useCtr := rfl
@[simp] theorem advance_mem (s : State) (t : Nat) : (s.advance t).mem = s.mem := rfl
@[simp] theorem advance_parts (s : State) (t : Nat) : (s.advance t).parts = s.parts := rfl
@[simp] theorem advance_commit (s : State) (t : Nat) : (s.advance t).commit = s.commit := rfl
@[simp] theorem advance_ctxs (s : State) (t : Nat) : (s.advance t).ctxs = s.ctxs := rfl
@[simp] theorem advance_ctxSel (s : State) (t : Nat) : (s.advance t).ctxSel = s.ctxSel := rfl
@[simp] theorem advance_sage (s : State) (t : Nat) : (s.advance t).sage = s.sage := rfl
@[simp] theorem advance_mboxes (s : State) (t : Nat) : (s.advance t).mboxes = s.mboxes := rfl
@[simp] theorem advance_bayViol (s : State) (t : Nat) : (s.advance t).bayViol = s.bayViol := rfl
@[simp] theorem advance_cxl (s : State) (t : Nat) : (s.advance t).cxl = s.cxl := rfl
@[simp] theorem advance_ports (s : State) (t : Nat) : (s.advance t).ports = s.ports := rfl
@[simp] theorem advance_fnlMode (s : State) (t : Nat) : (s.advance t).fnlMode = s.fnlMode := rfl
@[simp] theorem advance_pwr (s : State) (t : Nat) : (s.advance t).pwr = s.pwr := rfl
@[simp] theorem advance_sys (s : State) (t : Nat) : (s.advance t).sys = s.sys := rfl
@[simp] theorem advance_err (s : State) (t : Nat) : (s.advance t).err = s.err := rfl
@[simp] theorem advance_core (s : State) (t : Nat) (x : Nat) : (s.advance t).core x = s.core x := rfl
@[simp] theorem advance_macro1 (s : State) (t : Nat) (x : Nat) : (s.advance t).macro1 x = s.macro1 x := rfl
@[simp] theorem advance_group (s : State) (t : Nat) (x : Nat) : (s.advance t).group x = s.group x := rfl
@[simp] theorem advance_page (s : State) (t : Nat) (x : Nat) : (s.advance t).page x = s.page x := rfl
@[simp] theorem advance_part (s : State) (t : Nat) (x : Nat) : (s.advance t).part x = s.part x := rfl
@[simp] theorem advance_ctx (s : State) (t : Nat) (x : Nat) : (s.advance t).ctx x = s.ctx x := rfl
@[simp] theorem advance_mbox (s : State) (t : Nat) (x : Nat) : (s.advance t).mbox x = s.mbox x := rfl
@[simp] theorem advance_port (s : State) (t : Nat) (x : Nat) : (s.advance t).port x = s.port x := rfl
@[simp] theorem advance_qp (s : State) (t : Nat) (x y : Nat) : (s.advance t).qp x y = s.qp x y := rfl
@[simp] theorem advance_govPart (s : State) (t : Nat) (x : Nat) : (s.advance t).govPart x = s.govPart x := rfl
@[simp] theorem advance_ready (s : State) (t : Nat) : (s.advance t).ready = s.ready := rfl
@[simp] theorem advance_parsley (s : State) (t : Nat) : (s.advance t).parsley = s.parsley := rfl

end Sys2Proof.Machine.State
end

