-- ==== Sys2Proof/Laws/Ops.lean ====
section
/-! SUPPORT. What the shared operations of faults, alerts and answers can change. -/

namespace Sys2Proof.Machine

/-- An alert changes the error block and the interrupt counts of the CXL block. -/
theorem fireV1_eq (s : State) : fireV1 s = { s with err := (fireV1 s).err, cxl := (fireV1 s).cxl } := by
  unfold fireV1; split <;> rfl
theorem raiseAlert_eq (s : State) (b : Nat) : raiseAlert s b = { s with err := (raiseAlert s b).err, cxl := (raiseAlert s b).cxl } := by
  unfold raiseAlert
  split
  · rfl
  · rw [fireV1_eq]
/-- A fault record changes the error block and the interrupt counts of the CXL block. -/
theorem recordAt_eq (s : State) (t : Nat) (e : FaultEv) :
    recordAt s t e = { s with err := (recordAt s t e).err, cxl := (recordAt s t e).cxl } := by
  have h : ∀ (c : Prop) [Decidable c] (a b : State), (∃ x y, a = { s with err := x, cxl := y }) → (∃ x y, b = { s with err := x, cxl := y }) →
      ∃ x y, (if c then a else b) = { s with err := x, cxl := y } := fun c _ a b ha hb => by split <;> assumption
  have hr : ∀ (a : State) b, (∃ x y, a = { s with err := x, cxl := y }) → ∃ x y, raiseAlert a b = { s with err := x, cxl := y } := by
    rintro a b ⟨x, y, rfl⟩; exact ⟨_, _, raiseAlert_eq _ b⟩
  have hf : ∀ (a : State), (∃ x y, a = { s with err := x, cxl := y }) → ∃ x y, fireV1 a = { s with err := x, cxl := y } := by
    rintro a ⟨x, y, rfl⟩; exact ⟨_, _, fireV1_eq _⟩
  obtain ⟨x, y, e1⟩ : ∃ x y, recordAt s t e = { s with err := x, cxl := y } := by
    unfold recordAt
    dsimp only
    refine hf _ (hr _ _ (h _ _ _ (hr _ _ (h _ _ _ (hr _ _ (h _ _ _ ?_ ?_)) (h _ _ _ ?_ ?_))) (h _ _ _ (hr _ _ (h _ _ _ ?_ ?_)) (h _ _ _ ?_ ?_))))
    all_goals exact ⟨_, _, rfl⟩
  rw [e1]

@[simp] theorem fireV1_pending (s : State) : (fireV1 s).pending = s.pending := by rw [fireV1_eq]
@[simp] theorem fireV1_freeCtr (s : State) : (fireV1 s).freeCtr = s.freeCtr := by rw [fireV1_eq]
@[simp] theorem fireV1_readData (s : State) : (fireV1 s).readData = s.readData := by rw [fireV1_eq]
@[simp] theorem fireV1_readPoison (s : State) : (fireV1 s).readPoison = s.readPoison := by rw [fireV1_eq]
@[simp] theorem fireV1_gov (s : State) : (fireV1 s).gov = s.gov := by rw [fireV1_eq]
@[simp] theorem fireV1_cores (s : State) : (fireV1 s).cores = s.cores := by rw [fireV1_eq]
@[simp] theorem fireV1_fused (s : State) : (fireV1 s).fused = s.fused := by rw [fireV1_eq]
@[simp] theorem fireV1_macros (s : State) : (fireV1 s).macros = s.macros := by rw [fireV1_eq]
@[simp] theorem fireV1_groups (s : State) : (fireV1 s).groups = s.groups := by rw [fireV1_eq]
@[simp] theorem fireV1_scratch (s : State) : (fireV1 s).scratch = s.scratch := by rw [fireV1_eq]
@[simp] theorem fireV1_cim (s : State) : (fireV1 s).cim = s.cim := by rw [fireV1_eq]
@[simp] theorem fireV1_scales (s : State) : (fireV1 s).scales = s.scales := by rw [fireV1_eq]
@[simp] theorem fireV1_parity (s : State) : (fireV1 s).parity = s.parity := by rw [fireV1_eq]
@[simp] theorem fireV1_scaleParity (s : State) : (fireV1 s).scaleParity = s.scaleParity := by rw [fireV1_eq]
@[simp] theorem fireV1_pages (s : State) : (fireV1 s).pages = s.pages := by rw [fireV1_eq]
@[simp] theorem fireV1_stack (s : State) : (fireV1 s).stack = s.stack := by rw [fireV1_eq]
@[simp] theorem fireV1_snaps (s : State) : (fireV1 s).snaps = s.snaps := by rw [fireV1_eq]
@[simp] theorem fireV1_lines (s : State) : (fireV1 s).lines = s.lines := by rw [fireV1_eq]
@[simp] theorem fireV1_cacheBytes (s : State) : (fireV1 s).cacheBytes = s.cacheBytes := by rw [fireV1_eq]
@[simp] theorem fireV1_useCtr (s : State) : (fireV1 s).useCtr = s.useCtr := by rw [fireV1_eq]
@[simp] theorem fireV1_mem (s : State) : (fireV1 s).mem = s.mem := by rw [fireV1_eq]
@[simp] theorem fireV1_parts (s : State) : (fireV1 s).parts = s.parts := by rw [fireV1_eq]
@[simp] theorem fireV1_commit (s : State) : (fireV1 s).commit = s.commit := by rw [fireV1_eq]
@[simp] theorem fireV1_ctxs (s : State) : (fireV1 s).ctxs = s.ctxs := by rw [fireV1_eq]
@[simp] theorem fireV1_ctxSel (s : State) : (fireV1 s).ctxSel = s.ctxSel := by rw [fireV1_eq]
@[simp] theorem fireV1_sage (s : State) : (fireV1 s).sage = s.sage := by rw [fireV1_eq]
@[simp] theorem fireV1_mboxes (s : State) : (fireV1 s).mboxes = s.mboxes := by rw [fireV1_eq]
@[simp] theorem fireV1_bayViol (s : State) : (fireV1 s).bayViol = s.bayViol := by rw [fireV1_eq]
@[simp] theorem fireV1_ports (s : State) : (fireV1 s).ports = s.ports := by rw [fireV1_eq]
@[simp] theorem fireV1_fnlMode (s : State) : (fireV1 s).fnlMode = s.fnlMode := by rw [fireV1_eq]
@[simp] theorem fireV1_pwr (s : State) : (fireV1 s).pwr = s.pwr := by rw [fireV1_eq]
@[simp] theorem fireV1_sys (s : State) : (fireV1 s).sys = s.sys := by rw [fireV1_eq]
@[simp] theorem fireV1_core (s : State) (x : Nat) : (fireV1 s).core x = s.core x := by unfold State.core; rw [fireV1_cores]
@[simp] theorem fireV1_macro1 (s : State) (x : Nat) : (fireV1 s).macro1 x = s.macro1 x := by unfold State.macro1; rw [fireV1_macros]
@[simp] theorem fireV1_group (s : State) (x : Nat) : (fireV1 s).group x = s.group x := by unfold State.group; rw [fireV1_groups]
@[simp] theorem fireV1_page (s : State) (x : Nat) : (fireV1 s).page x = s.page x := by unfold State.page; rw [fireV1_pages]
@[simp] theorem fireV1_part (s : State) (x : Nat) : (fireV1 s).part x = s.part x := by unfold State.part; rw [fireV1_parts]
@[simp] theorem fireV1_ctx (s : State) (x : Nat) : (fireV1 s).ctx x = s.ctx x := by unfold State.ctx; rw [fireV1_ctxs]
@[simp] theorem fireV1_mbox (s : State) (x : Nat) : (fireV1 s).mbox x = s.mbox x := by unfold State.mbox; rw [fireV1_mboxes]
@[simp] theorem fireV1_port (s : State) (x : Nat) : (fireV1 s).port x = s.port x := by unfold State.port; rw [fireV1_ports]
@[simp] theorem fireV1_govPart (s : State) (x : Nat) : (fireV1 s).govPart x = s.govPart x := by unfold State.govPart; rw [fireV1_gov]
@[simp] theorem fireV1_tick (s : State) : (fireV1 s).tick = s.tick := by unfold State.tick; rw [fireV1_gov]
@[simp] theorem fireV1_tick64 (s : State) : (fireV1 s).tick64 = s.tick64 := by unfold State.tick64 State.tick; rw [fireV1_gov]
@[simp] theorem fireV1_ready (s : State) : (fireV1 s).ready = s.ready := by unfold State.ready; rw [fireV1_sys]
@[simp] theorem fireV1_parsley (s : State) : (fireV1 s).parsley = s.parsley := by unfold State.parsley; rw [fireV1_sys]
@[simp] theorem raiseAlert_pending (s : State) (b : Nat) : (raiseAlert s b).pending = s.pending := by rw [raiseAlert_eq]
@[simp] theorem raiseAlert_freeCtr (s : State) (b : Nat) : (raiseAlert s b).freeCtr = s.freeCtr := by rw [raiseAlert_eq]
@[simp] theorem raiseAlert_readData (s : State) (b : Nat) : (raiseAlert s b).readData = s.readData := by rw [raiseAlert_eq]
@[simp] theorem raiseAlert_readPoison (s : State) (b : Nat) : (raiseAlert s b).readPoison = s.readPoison := by rw [raiseAlert_eq]
@[simp] theorem raiseAlert_gov (s : State) (b : Nat) : (raiseAlert s b).gov = s.gov := by rw [raiseAlert_eq]
@[simp] theorem raiseAlert_cores (s : State) (b : Nat) : (raiseAlert s b).cores = s.cores := by rw [raiseAlert_eq]
@[simp] theorem raiseAlert_fused (s : State) (b : Nat) : (raiseAlert s b).fused = s.fused := by rw [raiseAlert_eq]
@[simp] theorem raiseAlert_macros (s : State) (b : Nat) : (raiseAlert s b).macros = s.macros := by rw [raiseAlert_eq]
@[simp] theorem raiseAlert_groups (s : State) (b : Nat) : (raiseAlert s b).groups = s.groups := by rw [raiseAlert_eq]
@[simp] theorem raiseAlert_scratch (s : State) (b : Nat) : (raiseAlert s b).scratch = s.scratch := by rw [raiseAlert_eq]
@[simp] theorem raiseAlert_cim (s : State) (b : Nat) : (raiseAlert s b).cim = s.cim := by rw [raiseAlert_eq]
@[simp] theorem raiseAlert_scales (s : State) (b : Nat) : (raiseAlert s b).scales = s.scales := by rw [raiseAlert_eq]
@[simp] theorem raiseAlert_parity (s : State) (b : Nat) : (raiseAlert s b).parity = s.parity := by rw [raiseAlert_eq]
@[simp] theorem raiseAlert_scaleParity (s : State) (b : Nat) : (raiseAlert s b).scaleParity = s.scaleParity := by rw [raiseAlert_eq]
@[simp] theorem raiseAlert_pages (s : State) (b : Nat) : (raiseAlert s b).pages = s.pages := by rw [raiseAlert_eq]
@[simp] theorem raiseAlert_stack (s : State) (b : Nat) : (raiseAlert s b).stack = s.stack := by rw [raiseAlert_eq]
@[simp] theorem raiseAlert_snaps (s : State) (b : Nat) : (raiseAlert s b).snaps = s.snaps := by rw [raiseAlert_eq]
@[simp] theorem raiseAlert_lines (s : State) (b : Nat) : (raiseAlert s b).lines = s.lines := by rw [raiseAlert_eq]
@[simp] theorem raiseAlert_cacheBytes (s : State) (b : Nat) : (raiseAlert s b).cacheBytes = s.cacheBytes := by rw [raiseAlert_eq]
@[simp] theorem raiseAlert_useCtr (s : State) (b : Nat) : (raiseAlert s b).useCtr = s.useCtr := by rw [raiseAlert_eq]
@[simp] theorem raiseAlert_mem (s : State) (b : Nat) : (raiseAlert s b).mem = s.mem := by rw [raiseAlert_eq]
@[simp] theorem raiseAlert_parts (s : State) (b : Nat) : (raiseAlert s b).parts = s.parts := by rw [raiseAlert_eq]
@[simp] theorem raiseAlert_commit (s : State) (b : Nat) : (raiseAlert s b).commit = s.commit := by rw [raiseAlert_eq]
@[simp] theorem raiseAlert_ctxs (s : State) (b : Nat) : (raiseAlert s b).ctxs = s.ctxs := by rw [raiseAlert_eq]
@[simp] theorem raiseAlert_ctxSel (s : State) (b : Nat) : (raiseAlert s b).ctxSel = s.ctxSel := by rw [raiseAlert_eq]
@[simp] theorem raiseAlert_sage (s : State) (b : Nat) : (raiseAlert s b).sage = s.sage := by rw [raiseAlert_eq]
@[simp] theorem raiseAlert_mboxes (s : State) (b : Nat) : (raiseAlert s b).mboxes = s.mboxes := by rw [raiseAlert_eq]
@[simp] theorem raiseAlert_bayViol (s : State) (b : Nat) : (raiseAlert s b).bayViol = s.bayViol := by rw [raiseAlert_eq]
@[simp] theorem raiseAlert_ports (s : State) (b : Nat) : (raiseAlert s b).ports = s.ports := by rw [raiseAlert_eq]
@[simp] theorem raiseAlert_fnlMode (s : State) (b : Nat) : (raiseAlert s b).fnlMode = s.fnlMode := by rw [raiseAlert_eq]
@[simp] theorem raiseAlert_pwr (s : State) (b : Nat) : (raiseAlert s b).pwr = s.pwr := by rw [raiseAlert_eq]
@[simp] theorem raiseAlert_sys (s : State) (b : Nat) : (raiseAlert s b).sys = s.sys := by rw [raiseAlert_eq]
@[simp] theorem raiseAlert_core (s : State) (b : Nat) (x : Nat) : (raiseAlert s b).core x = s.core x := by unfold State.core; rw [raiseAlert_cores]
@[simp] theorem raiseAlert_macro1 (s : State) (b : Nat) (x : Nat) : (raiseAlert s b).macro1 x = s.macro1 x := by unfold State.macro1; rw [raiseAlert_macros]
@[simp] theorem raiseAlert_group (s : State) (b : Nat) (x : Nat) : (raiseAlert s b).group x = s.group x := by unfold State.group; rw [raiseAlert_groups]
@[simp] theorem raiseAlert_page (s : State) (b : Nat) (x : Nat) : (raiseAlert s b).page x = s.page x := by unfold State.page; rw [raiseAlert_pages]
@[simp] theorem raiseAlert_part (s : State) (b : Nat) (x : Nat) : (raiseAlert s b).part x = s.part x := by unfold State.part; rw [raiseAlert_parts]
@[simp] theorem raiseAlert_ctx (s : State) (b : Nat) (x : Nat) : (raiseAlert s b).ctx x = s.ctx x := by unfold State.ctx; rw [raiseAlert_ctxs]
@[simp] theorem raiseAlert_mbox (s : State) (b : Nat) (x : Nat) : (raiseAlert s b).mbox x = s.mbox x := by unfold State.mbox; rw [raiseAlert_mboxes]
@[simp] theorem raiseAlert_port (s : State) (b : Nat) (x : Nat) : (raiseAlert s b).port x = s.port x := by unfold State.port; rw [raiseAlert_ports]
@[simp] theorem raiseAlert_govPart (s : State) (b : Nat) (x : Nat) : (raiseAlert s b).govPart x = s.govPart x := by unfold State.govPart; rw [raiseAlert_gov]
@[simp] theorem raiseAlert_tick (s : State) (b : Nat) : (raiseAlert s b).tick = s.tick := by unfold State.tick; rw [raiseAlert_gov]
@[simp] theorem raiseAlert_tick64 (s : State) (b : Nat) : (raiseAlert s b).tick64 = s.tick64 := by unfold State.tick64 State.tick; rw [raiseAlert_gov]
@[simp] theorem raiseAlert_ready (s : State) (b : Nat) : (raiseAlert s b).ready = s.ready := by unfold State.ready; rw [raiseAlert_sys]
@[simp] theorem raiseAlert_parsley (s : State) (b : Nat) : (raiseAlert s b).parsley = s.parsley := by unfold State.parsley; rw [raiseAlert_sys]
@[simp] theorem recordAt_pending (s : State) (t : Nat) (e : FaultEv) : (recordAt s t e).pending = s.pending := by rw [recordAt_eq]
@[simp] theorem recordAt_freeCtr (s : State) (t : Nat) (e : FaultEv) : (recordAt s t e).freeCtr = s.freeCtr := by rw [recordAt_eq]
@[simp] theorem recordAt_readData (s : State) (t : Nat) (e : FaultEv) : (recordAt s t e).readData = s.readData := by rw [recordAt_eq]
@[simp] theorem recordAt_readPoison (s : State) (t : Nat) (e : FaultEv) : (recordAt s t e).readPoison = s.readPoison := by rw [recordAt_eq]
@[simp] theorem recordAt_gov (s : State) (t : Nat) (e : FaultEv) : (recordAt s t e).gov = s.gov := by rw [recordAt_eq]
@[simp] theorem recordAt_cores (s : State) (t : Nat) (e : FaultEv) : (recordAt s t e).cores = s.cores := by rw [recordAt_eq]
@[simp] theorem recordAt_fused (s : State) (t : Nat) (e : FaultEv) : (recordAt s t e).fused = s.fused := by rw [recordAt_eq]
@[simp] theorem recordAt_macros (s : State) (t : Nat) (e : FaultEv) : (recordAt s t e).macros = s.macros := by rw [recordAt_eq]
@[simp] theorem recordAt_groups (s : State) (t : Nat) (e : FaultEv) : (recordAt s t e).groups = s.groups := by rw [recordAt_eq]
@[simp] theorem recordAt_scratch (s : State) (t : Nat) (e : FaultEv) : (recordAt s t e).scratch = s.scratch := by rw [recordAt_eq]
@[simp] theorem recordAt_cim (s : State) (t : Nat) (e : FaultEv) : (recordAt s t e).cim = s.cim := by rw [recordAt_eq]
@[simp] theorem recordAt_scales (s : State) (t : Nat) (e : FaultEv) : (recordAt s t e).scales = s.scales := by rw [recordAt_eq]
@[simp] theorem recordAt_parity (s : State) (t : Nat) (e : FaultEv) : (recordAt s t e).parity = s.parity := by rw [recordAt_eq]
@[simp] theorem recordAt_scaleParity (s : State) (t : Nat) (e : FaultEv) : (recordAt s t e).scaleParity = s.scaleParity := by rw [recordAt_eq]
@[simp] theorem recordAt_pages (s : State) (t : Nat) (e : FaultEv) : (recordAt s t e).pages = s.pages := by rw [recordAt_eq]
@[simp] theorem recordAt_stack (s : State) (t : Nat) (e : FaultEv) : (recordAt s t e).stack = s.stack := by rw [recordAt_eq]
@[simp] theorem recordAt_snaps (s : State) (t : Nat) (e : FaultEv) : (recordAt s t e).snaps = s.snaps := by rw [recordAt_eq]
@[simp] theorem recordAt_lines (s : State) (t : Nat) (e : FaultEv) : (recordAt s t e).lines = s.lines := by rw [recordAt_eq]
@[simp] theorem recordAt_cacheBytes (s : State) (t : Nat) (e : FaultEv) : (recordAt s t e).cacheBytes = s.cacheBytes := by rw [recordAt_eq]
@[simp] theorem recordAt_useCtr (s : State) (t : Nat) (e : FaultEv) : (recordAt s t e).useCtr = s.useCtr := by rw [recordAt_eq]
@[simp] theorem recordAt_mem (s : State) (t : Nat) (e : FaultEv) : (recordAt s t e).mem = s.mem := by rw [recordAt_eq]
@[simp] theorem recordAt_parts (s : State) (t : Nat) (e : FaultEv) : (recordAt s t e).parts = s.parts := by rw [recordAt_eq]
@[simp] theorem recordAt_commit (s : State) (t : Nat) (e : FaultEv) : (recordAt s t e).commit = s.commit := by rw [recordAt_eq]
@[simp] theorem recordAt_ctxs (s : State) (t : Nat) (e : FaultEv) : (recordAt s t e).ctxs = s.ctxs := by rw [recordAt_eq]
@[simp] theorem recordAt_ctxSel (s : State) (t : Nat) (e : FaultEv) : (recordAt s t e).ctxSel = s.ctxSel := by rw [recordAt_eq]
@[simp] theorem recordAt_sage (s : State) (t : Nat) (e : FaultEv) : (recordAt s t e).sage = s.sage := by rw [recordAt_eq]
@[simp] theorem recordAt_mboxes (s : State) (t : Nat) (e : FaultEv) : (recordAt s t e).mboxes = s.mboxes := by rw [recordAt_eq]
@[simp] theorem recordAt_bayViol (s : State) (t : Nat) (e : FaultEv) : (recordAt s t e).bayViol = s.bayViol := by rw [recordAt_eq]
@[simp] theorem recordAt_ports (s : State) (t : Nat) (e : FaultEv) : (recordAt s t e).ports = s.ports := by rw [recordAt_eq]
@[simp] theorem recordAt_fnlMode (s : State) (t : Nat) (e : FaultEv) : (recordAt s t e).fnlMode = s.fnlMode := by rw [recordAt_eq]
@[simp] theorem recordAt_pwr (s : State) (t : Nat) (e : FaultEv) : (recordAt s t e).pwr = s.pwr := by rw [recordAt_eq]
@[simp] theorem recordAt_sys (s : State) (t : Nat) (e : FaultEv) : (recordAt s t e).sys = s.sys := by rw [recordAt_eq]
@[simp] theorem recordAt_core (s : State) (t : Nat) (e : FaultEv) (x : Nat) : (recordAt s t e).core x = s.core x := by unfold State.core; rw [recordAt_cores]
@[simp] theorem recordAt_macro1 (s : State) (t : Nat) (e : FaultEv) (x : Nat) : (recordAt s t e).macro1 x = s.macro1 x := by unfold State.macro1; rw [recordAt_macros]
@[simp] theorem recordAt_group (s : State) (t : Nat) (e : FaultEv) (x : Nat) : (recordAt s t e).group x = s.group x := by unfold State.group; rw [recordAt_groups]
@[simp] theorem recordAt_page (s : State) (t : Nat) (e : FaultEv) (x : Nat) : (recordAt s t e).page x = s.page x := by unfold State.page; rw [recordAt_pages]
@[simp] theorem recordAt_part (s : State) (t : Nat) (e : FaultEv) (x : Nat) : (recordAt s t e).part x = s.part x := by unfold State.part; rw [recordAt_parts]
@[simp] theorem recordAt_ctx (s : State) (t : Nat) (e : FaultEv) (x : Nat) : (recordAt s t e).ctx x = s.ctx x := by unfold State.ctx; rw [recordAt_ctxs]
@[simp] theorem recordAt_mbox (s : State) (t : Nat) (e : FaultEv) (x : Nat) : (recordAt s t e).mbox x = s.mbox x := by unfold State.mbox; rw [recordAt_mboxes]
@[simp] theorem recordAt_port (s : State) (t : Nat) (e : FaultEv) (x : Nat) : (recordAt s t e).port x = s.port x := by unfold State.port; rw [recordAt_ports]
@[simp] theorem recordAt_govPart (s : State) (t : Nat) (e : FaultEv) (x : Nat) : (recordAt s t e).govPart x = s.govPart x := by unfold State.govPart; rw [recordAt_gov]
@[simp] theorem recordAt_tick (s : State) (t : Nat) (e : FaultEv) : (recordAt s t e).tick = s.tick := by unfold State.tick; rw [recordAt_gov]
@[simp] theorem recordAt_tick64 (s : State) (t : Nat) (e : FaultEv) : (recordAt s t e).tick64 = s.tick64 := by unfold State.tick64 State.tick; rw [recordAt_gov]
@[simp] theorem recordAt_ready (s : State) (t : Nat) (e : FaultEv) : (recordAt s t e).ready = s.ready := by unfold State.ready; rw [recordAt_sys]
@[simp] theorem recordAt_parsley (s : State) (t : Nat) (e : FaultEv) : (recordAt s t e).parsley = s.parsley := by unfold State.parsley; rw [recordAt_sys]
@[simp] theorem recordNext_pending (s : State) (e : FaultEv) : (recordNext s e).pending = s.pending := recordAt_pending s _ e
@[simp] theorem recordNext_freeCtr (s : State) (e : FaultEv) : (recordNext s e).freeCtr = s.freeCtr := recordAt_freeCtr s _ e
@[simp] theorem recordNext_readData (s : State) (e : FaultEv) : (recordNext s e).readData = s.readData := recordAt_readData s _ e
@[simp] theorem recordNext_readPoison (s : State) (e : FaultEv) : (recordNext s e).readPoison = s.readPoison := recordAt_readPoison s _ e
@[simp] theorem recordNext_gov (s : State) (e : FaultEv) : (recordNext s e).gov = s.gov := recordAt_gov s _ e
@[simp] theorem recordNext_cores (s : State) (e : FaultEv) : (recordNext s e).cores = s.cores := recordAt_cores s _ e
@[simp] theorem recordNext_fused (s : State) (e : FaultEv) : (recordNext s e).fused = s.fused := recordAt_fused s _ e
@[simp] theorem recordNext_macros (s : State) (e : FaultEv) : (recordNext s e).macros = s.macros := recordAt_macros s _ e
@[simp] theorem recordNext_groups (s : State) (e : FaultEv) : (recordNext s e).groups = s.groups := recordAt_groups s _ e
@[simp] theorem recordNext_scratch (s : State) (e : FaultEv) : (recordNext s e).scratch = s.scratch := recordAt_scratch s _ e
@[simp] theorem recordNext_cim (s : State) (e : FaultEv) : (recordNext s e).cim = s.cim := recordAt_cim s _ e
@[simp] theorem recordNext_scales (s : State) (e : FaultEv) : (recordNext s e).scales = s.scales := recordAt_scales s _ e
@[simp] theorem recordNext_parity (s : State) (e : FaultEv) : (recordNext s e).parity = s.parity := recordAt_parity s _ e
@[simp] theorem recordNext_scaleParity (s : State) (e : FaultEv) : (recordNext s e).scaleParity = s.scaleParity := recordAt_scaleParity s _ e
@[simp] theorem recordNext_pages (s : State) (e : FaultEv) : (recordNext s e).pages = s.pages := recordAt_pages s _ e
@[simp] theorem recordNext_stack (s : State) (e : FaultEv) : (recordNext s e).stack = s.stack := recordAt_stack s _ e
@[simp] theorem recordNext_snaps (s : State) (e : FaultEv) : (recordNext s e).snaps = s.snaps := recordAt_snaps s _ e
@[simp] theorem recordNext_lines (s : State) (e : FaultEv) : (recordNext s e).lines = s.lines := recordAt_lines s _ e
@[simp] theorem recordNext_cacheBytes (s : State) (e : FaultEv) : (recordNext s e).cacheBytes = s.cacheBytes := recordAt_cacheBytes s _ e
@[simp] theorem recordNext_useCtr (s : State) (e : FaultEv) : (recordNext s e).useCtr = s.useCtr := recordAt_useCtr s _ e
@[simp] theorem recordNext_mem (s : State) (e : FaultEv) : (recordNext s e).mem = s.mem := recordAt_mem s _ e
@[simp] theorem recordNext_parts (s : State) (e : FaultEv) : (recordNext s e).parts = s.parts := recordAt_parts s _ e
@[simp] theorem recordNext_commit (s : State) (e : FaultEv) : (recordNext s e).commit = s.commit := recordAt_commit s _ e
@[simp] theorem recordNext_ctxs (s : State) (e : FaultEv) : (recordNext s e).ctxs = s.ctxs := recordAt_ctxs s _ e
@[simp] theorem recordNext_ctxSel (s : State) (e : FaultEv) : (recordNext s e).ctxSel = s.ctxSel := recordAt_ctxSel s _ e
@[simp] theorem recordNext_sage (s : State) (e : FaultEv) : (recordNext s e).sage = s.sage := recordAt_sage s _ e
@[simp] theorem recordNext_mboxes (s : State) (e : FaultEv) : (recordNext s e).mboxes = s.mboxes := recordAt_mboxes s _ e
@[simp] theorem recordNext_bayViol (s : State) (e : FaultEv) : (recordNext s e).bayViol = s.bayViol := recordAt_bayViol s _ e
@[simp] theorem recordNext_ports (s : State) (e : FaultEv) : (recordNext s e).ports = s.ports := recordAt_ports s _ e
@[simp] theorem recordNext_fnlMode (s : State) (e : FaultEv) : (recordNext s e).fnlMode = s.fnlMode := recordAt_fnlMode s _ e
@[simp] theorem recordNext_pwr (s : State) (e : FaultEv) : (recordNext s e).pwr = s.pwr := recordAt_pwr s _ e
@[simp] theorem recordNext_sys (s : State) (e : FaultEv) : (recordNext s e).sys = s.sys := recordAt_sys s _ e
@[simp] theorem recordNext_core (s : State) (e : FaultEv) (x : Nat) : (recordNext s e).core x = s.core x := by unfold State.core; rw [recordNext_cores]
@[simp] theorem recordNext_macro1 (s : State) (e : FaultEv) (x : Nat) : (recordNext s e).macro1 x = s.macro1 x := by unfold State.macro1; rw [recordNext_macros]
@[simp] theorem recordNext_group (s : State) (e : FaultEv) (x : Nat) : (recordNext s e).group x = s.group x := by unfold State.group; rw [recordNext_groups]
@[simp] theorem recordNext_page (s : State) (e : FaultEv) (x : Nat) : (recordNext s e).page x = s.page x := by unfold State.page; rw [recordNext_pages]
@[simp] theorem recordNext_part (s : State) (e : FaultEv) (x : Nat) : (recordNext s e).part x = s.part x := by unfold State.part; rw [recordNext_parts]
@[simp] theorem recordNext_ctx (s : State) (e : FaultEv) (x : Nat) : (recordNext s e).ctx x = s.ctx x := by unfold State.ctx; rw [recordNext_ctxs]
@[simp] theorem recordNext_mbox (s : State) (e : FaultEv) (x : Nat) : (recordNext s e).mbox x = s.mbox x := by unfold State.mbox; rw [recordNext_mboxes]
@[simp] theorem recordNext_port (s : State) (e : FaultEv) (x : Nat) : (recordNext s e).port x = s.port x := by unfold State.port; rw [recordNext_ports]
@[simp] theorem recordNext_govPart (s : State) (e : FaultEv) (x : Nat) : (recordNext s e).govPart x = s.govPart x := by unfold State.govPart; rw [recordNext_gov]
@[simp] theorem recordNext_tick (s : State) (e : FaultEv) : (recordNext s e).tick = s.tick := by unfold State.tick; rw [recordNext_gov]
@[simp] theorem recordNext_tick64 (s : State) (e : FaultEv) : (recordNext s e).tick64 = s.tick64 := by unfold State.tick64 State.tick; rw [recordNext_gov]
@[simp] theorem recordNext_ready (s : State) (e : FaultEv) : (recordNext s e).ready = s.ready := by unfold State.ready; rw [recordNext_sys]
@[simp] theorem recordNext_parsley (s : State) (e : FaultEv) : (recordNext s e).parsley = s.parsley := by unfold State.parsley; rw [recordNext_sys]
@[simp] theorem recordNow_pending (s : State) (e : FaultEv) : (recordNow s e).pending = s.pending := recordAt_pending s _ e
@[simp] theorem recordNow_freeCtr (s : State) (e : FaultEv) : (recordNow s e).freeCtr = s.freeCtr := recordAt_freeCtr s _ e
@[simp] theorem recordNow_readData (s : State) (e : FaultEv) : (recordNow s e).readData = s.readData := recordAt_readData s _ e
@[simp] theorem recordNow_readPoison (s : State) (e : FaultEv) : (recordNow s e).readPoison = s.readPoison := recordAt_readPoison s _ e
@[simp] theorem recordNow_gov (s : State) (e : FaultEv) : (recordNow s e).gov = s.gov := recordAt_gov s _ e
@[simp] theorem recordNow_cores (s : State) (e : FaultEv) : (recordNow s e).cores = s.cores := recordAt_cores s _ e
@[simp] theorem recordNow_fused (s : State) (e : FaultEv) : (recordNow s e).fused = s.fused := recordAt_fused s _ e
@[simp] theorem recordNow_macros (s : State) (e : FaultEv) : (recordNow s e).macros = s.macros := recordAt_macros s _ e
@[simp] theorem recordNow_groups (s : State) (e : FaultEv) : (recordNow s e).groups = s.groups := recordAt_groups s _ e
@[simp] theorem recordNow_scratch (s : State) (e : FaultEv) : (recordNow s e).scratch = s.scratch := recordAt_scratch s _ e
@[simp] theorem recordNow_cim (s : State) (e : FaultEv) : (recordNow s e).cim = s.cim := recordAt_cim s _ e
@[simp] theorem recordNow_scales (s : State) (e : FaultEv) : (recordNow s e).scales = s.scales := recordAt_scales s _ e
@[simp] theorem recordNow_parity (s : State) (e : FaultEv) : (recordNow s e).parity = s.parity := recordAt_parity s _ e
@[simp] theorem recordNow_scaleParity (s : State) (e : FaultEv) : (recordNow s e).scaleParity = s.scaleParity := recordAt_scaleParity s _ e
@[simp] theorem recordNow_pages (s : State) (e : FaultEv) : (recordNow s e).pages = s.pages := recordAt_pages s _ e
@[simp] theorem recordNow_stack (s : State) (e : FaultEv) : (recordNow s e).stack = s.stack := recordAt_stack s _ e
@[simp] theorem recordNow_snaps (s : State) (e : FaultEv) : (recordNow s e).snaps = s.snaps := recordAt_snaps s _ e
@[simp] theorem recordNow_lines (s : State) (e : FaultEv) : (recordNow s e).lines = s.lines := recordAt_lines s _ e
@[simp] theorem recordNow_cacheBytes (s : State) (e : FaultEv) : (recordNow s e).cacheBytes = s.cacheBytes := recordAt_cacheBytes s _ e
@[simp] theorem recordNow_useCtr (s : State) (e : FaultEv) : (recordNow s e).useCtr = s.useCtr := recordAt_useCtr s _ e
@[simp] theorem recordNow_mem (s : State) (e : FaultEv) : (recordNow s e).mem = s.mem := recordAt_mem s _ e
@[simp] theorem recordNow_parts (s : State) (e : FaultEv) : (recordNow s e).parts = s.parts := recordAt_parts s _ e
@[simp] theorem recordNow_commit (s : State) (e : FaultEv) : (recordNow s e).commit = s.commit := recordAt_commit s _ e
@[simp] theorem recordNow_ctxs (s : State) (e : FaultEv) : (recordNow s e).ctxs = s.ctxs := recordAt_ctxs s _ e
@[simp] theorem recordNow_ctxSel (s : State) (e : FaultEv) : (recordNow s e).ctxSel = s.ctxSel := recordAt_ctxSel s _ e
@[simp] theorem recordNow_sage (s : State) (e : FaultEv) : (recordNow s e).sage = s.sage := recordAt_sage s _ e
@[simp] theorem recordNow_mboxes (s : State) (e : FaultEv) : (recordNow s e).mboxes = s.mboxes := recordAt_mboxes s _ e
@[simp] theorem recordNow_bayViol (s : State) (e : FaultEv) : (recordNow s e).bayViol = s.bayViol := recordAt_bayViol s _ e
@[simp] theorem recordNow_ports (s : State) (e : FaultEv) : (recordNow s e).ports = s.ports := recordAt_ports s _ e
@[simp] theorem recordNow_fnlMode (s : State) (e : FaultEv) : (recordNow s e).fnlMode = s.fnlMode := recordAt_fnlMode s _ e
@[simp] theorem recordNow_pwr (s : State) (e : FaultEv) : (recordNow s e).pwr = s.pwr := recordAt_pwr s _ e
@[simp] theorem recordNow_sys (s : State) (e : FaultEv) : (recordNow s e).sys = s.sys := recordAt_sys s _ e
@[simp] theorem recordNow_core (s : State) (e : FaultEv) (x : Nat) : (recordNow s e).core x = s.core x := by unfold State.core; rw [recordNow_cores]
@[simp] theorem recordNow_macro1 (s : State) (e : FaultEv) (x : Nat) : (recordNow s e).macro1 x = s.macro1 x := by unfold State.macro1; rw [recordNow_macros]
@[simp] theorem recordNow_group (s : State) (e : FaultEv) (x : Nat) : (recordNow s e).group x = s.group x := by unfold State.group; rw [recordNow_groups]
@[simp] theorem recordNow_page (s : State) (e : FaultEv) (x : Nat) : (recordNow s e).page x = s.page x := by unfold State.page; rw [recordNow_pages]
@[simp] theorem recordNow_part (s : State) (e : FaultEv) (x : Nat) : (recordNow s e).part x = s.part x := by unfold State.part; rw [recordNow_parts]
@[simp] theorem recordNow_ctx (s : State) (e : FaultEv) (x : Nat) : (recordNow s e).ctx x = s.ctx x := by unfold State.ctx; rw [recordNow_ctxs]
@[simp] theorem recordNow_mbox (s : State) (e : FaultEv) (x : Nat) : (recordNow s e).mbox x = s.mbox x := by unfold State.mbox; rw [recordNow_mboxes]
@[simp] theorem recordNow_port (s : State) (e : FaultEv) (x : Nat) : (recordNow s e).port x = s.port x := by unfold State.port; rw [recordNow_ports]
@[simp] theorem recordNow_govPart (s : State) (e : FaultEv) (x : Nat) : (recordNow s e).govPart x = s.govPart x := by unfold State.govPart; rw [recordNow_gov]
@[simp] theorem recordNow_tick (s : State) (e : FaultEv) : (recordNow s e).tick = s.tick := by unfold State.tick; rw [recordNow_gov]
@[simp] theorem recordNow_tick64 (s : State) (e : FaultEv) : (recordNow s e).tick64 = s.tick64 := by unfold State.tick64 State.tick; rw [recordNow_gov]
@[simp] theorem recordNow_ready (s : State) (e : FaultEv) : (recordNow s e).ready = s.ready := by unfold State.ready; rw [recordNow_sys]
@[simp] theorem recordNow_parsley (s : State) (e : FaultEv) : (recordNow s e).parsley = s.parsley := by unfold State.parsley; rw [recordNow_sys]

/-! ### Core faults -/

theorem markStop_eq (s : State) (p : Nat) (st : Status) : markStop s p st = { s with parts := (markStop s p st).parts } := rfl
@[simp] theorem markStop_core (s : State) (p : Nat) (st : Status) (x : Nat) : (markStop s p st).core x = s.core x := rfl

/-- A core fault changes the core's fault registers, the marks of the job, and the error block. -/
theorem coreFault_eq (s : State) (c pc : Nat) (st : Status) (cause : BitVec 3) (ex ac : Nat) :
    coreFault s c pc st cause ex ac = { s with
      cores := sput Core.fresh s.cores c ((s.core c).fault1 pc st cause ex ac)
      parts := (coreFault s c pc st cause ex ac).parts
      err := (coreFault s c pc st cause ex ac).err
      cxl := (coreFault s c pc st cause ex ac).cxl } := by
  unfold coreFault
  dsimp only
  split
  · rfl
  · next p hp =>
    split
    · rfl
    · unfold recordNext
      rw [recordAt_eq]; rfl

theorem coreFault_core (s : State) (c pc : Nat) (st : Status) (cause : BitVec 3) (ex ac x : Nat) :
    (coreFault s c pc st cause ex ac).core x = if x = c then (s.core c).fault1 pc st cause ex ac else s.core x := by
  rw [coreFault_eq]; exact sget_sput _ _ _ _ _

/-! ### Issue -/

theorem advance_issueTime (s : State) (c : Nat) : s.advance (issueTime s c) = { s with gov := { s.gov with now := issueTime s c } } := by
  simp [State.advance, issueTime]

/-- An issue on a core that may issue. -/
theorem issue_of {s : State} {c : Nat} (f : Core → Core) (h : (s.core c).canIssue = true) :
    issue s c f = ({ s with gov := { s.gov with now := issueTime s c } } : State).setCore c
      (f { s.core c with pc := (s.core c).pc + 1, lastIssue := issueTime s c + 1 }) := by
  simp only [issue, h, if_true, ← advance_issueTime]

/-- An issue on a core that may not issue. -/
theorem issue_not {s : State} {c : Nat} (f : Core → Core) (h : (s.core c).canIssue = false) : issue s c f = s := by
  simp [issue, h]

theorem issue_core {s : State} {c : Nat} {f : Core → Core} (h : (s.core c).canIssue = true) :
    (issue s c f).core c = f { s.core c with pc := (s.core c).pc + 1, lastIssue := issueTime s c + 1 } := by
  rw [issue_of f h, State.setCore_core, if_pos rfl]

theorem issue_core_ne {s : State} {c x : Nat} {f : Core → Core} (hx : x ≠ c) : (issue s c f).core x = s.core x := by
  unfold issue
  split
  · rw [State.setCore_core, if_neg hx]; rfl
  · rfl

theorem issued_issue {s : State} {c : Nat} {f : Core → Core} (h : (s.core c).canIssue = true)
    (hf : ∀ k, (f k).lastIssue = k.lastIssue) : Issued s (issue s c f) c :=
  ⟨by rw [issue_of f h]; rfl, fun x hx => issue_core_ne hx, by rw [issue_core h, hf]⟩

theorem Core.setReg_lastIssue (k : Core) (r : SReg) (v : W32) : (k.setReg r v).lastIssue = k.lastIssue := by
  unfold Core.setReg; split <;> rfl

/-- Reading a scalar register after a write: s0 reads 0 and keeps no write (R218). -/
theorem Core.setReg_reg (k : Core) (d : SReg) (v : W32) (r : SReg) :
    (k.setReg d v).reg r = if r = d ∧ d ≠ 0 then v else k.reg r := by
  unfold Core.setReg Core.reg
  by_cases hd : d = 0
  · simp [hd]
  · rw [if_neg hd]
    by_cases hr : r = 0
    · rw [if_pos hr, if_pos hr, if_neg (fun (x : r = d ∧ d ≠ 0) => hd (x.1 ▸ hr))]
    · rw [if_neg hr, if_neg hr, sget_sput]
      by_cases h : r = d
      · rw [if_pos (by rw [h]), if_pos ⟨h, hd⟩]
      · rw [if_neg (fun x => h (BitVec.eq_of_toNat_eq x)), if_neg (fun (x : r = d ∧ d ≠ 0) => h x.1)]

/-- A scalar instruction writes its destination. -/
theorem scalar_writes {s : State} {c : Nat} {d : SReg} {f : Core → W32} {v : W32} (h : (s.core c).canIssue = true)
    (hv : f { s.core c with pc := (s.core c).pc + 1, lastIssue := issueTime s c + 1 } = v) : WritesReg s (scalar s c d f) c d v := by
  refine ⟨issued_issue h fun k => Core.setReg_lastIssue _ _ _, ?_, ?_⟩
  · rw [scalar, issue_core h, hv]; unfold Core.setReg; split <;> rfl
  · intro r; rw [scalar, issue_core h, hv, Core.setReg_reg]; rfl

/-- Reading a queue after an entry is appended. -/
theorem Core.enqueue_queue (k : Core) (e : QEntry) (n : Nat) :
    (k.enqueue e).queue n = if n = opQueue e.op then k.queue (opQueue e.op) ++ [e] else k.queue n := by
  unfold Core.enqueue Core.setQueue Core.queue
  exact sget_sput _ _ _ _ _

end Sys2Proof.Machine
end

