-- ==== Sys2Proof/WellFormed.lean ====
section
/-! DEFINITION. What makes a command well formed: operands inside the ranges the spec gives them, where their type does not say
so already. A command that the block would refuse is not ill formed for that; one that no sender can form is. -/

namespace Sys2Proof

/-- A page of the stacks: 192 channels of 61,027 pages (R183, R184). -/
def pageNumberOk (g : Nat) : Bool := decide (g / 65536 < 192) && decide (g % 65536 < 61027)

/-- An error event names a page of the stacks, or a line of the 512 sets of 32 ways (R190, R193, R544). -/
def memEventOk : MemEvent → Bool
  | .retried g => pageNumberOk g
  | .uncorrected g burst bytes | .dieError g burst bytes =>
    pageNumberOk g && decide (burst < 1024) && decide (bytes.length = 64)
  | .corrected => true
  | .doubleCore _ => true
  | .doubleLine set way => decide (set < 512) && decide (way < 32)

/-- An entry of 128 bytes, header, ciphertext and tag, with the records that RECORDS counts, each at most a page and a tag long
(R482, R483). -/
def entryOk (e : SqEntry) : Bool :=
  decide (e.hdr.length = 16) && decide (e.cipher.length = 96) && decide (e.tag.length = 16) &&
  decide (e.recs.length = e.records.toNat) && e.recs.all fun r => decide (r.length ≤ 4112)

/-- A packet of at most 32 cells, with a tag in protected mode alone (R498, Table 16-1). -/
def packetOk (k : Packet) : Bool :=
  decide (k.cipher.length ≤ 8192) && decide (k.tag.length = if k.protectedMode then 16 else 0)

/-- A link as Table 15-1 supports it: 16, 8 or 4 lanes at 16, 32 or 64 GT/s. -/
def linkOk (c : LinkCfg) : Bool := (c.width == 4 || c.width == 8 || c.width == 16) && (c.rate == 1 || c.rate == 2 || c.rate == 3)

/-- Macros and ports that exist, and a link of Table 15-1. -/
def envOk (e : StartEnv) : Bool :=
  e.badMacros.all (fun m => decide (m < 1310720)) && decide (e.ports.length ≤ 7) &&
  (match e.cxl with | none => true | some c => linkOk c)

/-- Is the command well formed? -/
def WellFormed (i : Instr) : Bool :=
  match i with
  | .nop _ => true
  | .endJob _ => true
  | .loop _ _ _ _ _ => true
  | .tile _ _ _ _ => true
  | .budget _ _ _ _ => true
  | .waitq _ queue _ => decide (queue.toNat ≤ 4)
  | .dstep _ => true
  | .sli _ _ _ => true
  | .sadd _ _ _ _ => true
  | .saddi _ _ _ _ => true
  | .ssub _ _ _ _ => true
  | .smul _ _ _ _ => true
  | .sand _ _ _ _ => true
  | .sor _ _ _ _ => true
  | .sxor _ _ _ _ => true
  | .sshl _ _ _ _ => true
  | .sshr _ _ _ _ => true
  | .smin _ _ _ _ => true
  | .smax _ _ _ _ => true
  | .sld _ _ _ _ => true
  | .sst _ _ _ _ => true
  | .sidx _ _ _ => true
  | .sfeat _ _ _ => true
  | .reservedOpcode _ => true
  | .cbuf _ _ _ => true
  | .cfwd _ _ _ => true
  | .ctrn _ _ _ => true
  | .cload _ _ _ => true
  | .amm _ _ _ => true
  | .varith _ _ _ => true
  | .vfunc _ _ _ => true
  | .vlogic _ _ _ => true
  | .vcvt _ _ _ => true
  | .vred _ _ _ => true
  | .vtopk _ _ _ => true
  | .vsplit _ _ _ => true
  | .vupd _ _ _ => true
  | .copy _ _ _ => true
  | .gather _ _ _ => true
  | .scatter _ _ _ => true
  | .prefetch _ _ _ => true
  | .commit _ _ _ => true
  | .xsend _ _ _ => true
  | .xlate _ _ _ => true
  | .instructionLaunch _ _ mem => mem.all memEventOk
  | .instructionComplete _ _ => true
  | .loopIterationStart _ => true
  | .tileBoundary _ => true
  | .dstepResume _ => true
  | .commitComplete _ _ => true
  | .cacheFill w gpage => pageNumberOk gpage && w.mem.all memEventOk
  | .scrubRead _ => true
  | .reloadWindow w => w.mem.all memEventOk
  | .auditStart _ => true
  | .auditPeriodExpiry _ => true
  | .mintEvaluation _ => true
  | .committedCurrentUpdate _ => true
  | .lendingEnable _ _ => true
  | .loanGrantEnd _ => true
  | .throttleStep _ => true
  | .thermalTrip _ => true
  | .throttleFloorWrite _ => true
  | .throttleLevelApply => true
  | .tickRealign _ _ _ => true
  | .tickMasterSettleTimeout => true
  | .load _ _ _ _ first len _ => pageNumberOk first && decide (0 < len)
  | .loadComplete _ => true
  | .loadWindow w => w.mem.all memEventOk
  | .partitionCommitRequest _ _ => true
  | .commitTick => true
  | .release _ _ => true
  | .releaseComplete _ => true
  | .jobStart _ _ _ => true
  | .jobSuspend _ _ _ => true
  | .jobSwitch _ _ _ => true
  | .jobStop _ _ _ => true
  | .jobUnload _ _ _ => true
  | .jobYield _ => true
  | .jobResume _ => true
  | .resumeTick _ => true
  | .ctxCreate _ _ _ _ _ _ _ => true
  | .ctxBind _ _ _ _ => true
  | .ctxAdopt _ _ _ _ => true
  | .ctxReleaseSnap _ _ _ => true
  | .ctxCompose _ _ _ => true
  | .ctxSeed _ _ _ _ => true
  | .ctxSetkey _ _ _ => true
  | .ctxImport _ _ image => decide (144 ≤ image.length)
  | .ctxExport _ _ _ _ _ => true
  | .ctxQuery _ _ => true
  | .ctxRebase _ _ => true
  | .ctxWithdraw _ _ => true
  | .ctxDelete _ _ => true
  | .ctxDeleteComplete ctx => decide (ctx.toNat < 49152)
  | .stepPosting _ => true
  | .stepEnd _ outs => outs.all fun o => decide (o.queue < 4096)
  | .adapterStaging _ => true
  | .stagingComplete _ => true
  | .baseStage _ _ pages => decide (pages ≤ 1048576)
  | .baseInstall _ _ first _ => pageNumberOk first
  | .baseReplace _ _ => true
  | .pipePairingWrite _ _ _ => true
  | .pipePairingApply _ => true
  | .buddyConfig _ _ _ => true
  | .dpConfig _ _ _ _ _ => true
  | .train _ _ => true
  | .trainData _ _ _ _ tokens => decide (0 < tokens.length)
  | .dillTrainingSwitch _ => true
  | .trainingSegmentPosting _ => true
  | .checkpointPageCopy w => w.mem.all memEventOk
  | .checkpointClose _ => true
  | .presenceDecision _ => true
  | .rankLeaveDeadline _ => true
  | .getVersion _ => true
  | .getCapabilities _ => true
  | .negotiateAlgorithms _ _ _ _ _ => true
  | .getDigests _ => true
  | .getCertificate _ _ => true
  | .challenge _ _ _ => true
  | .keyExchange _ encapKey => decide (encapKey.length = 1568)
  | .finish _ _ => true
  | .endSession _ => true
  | .keyUpdate _ => true
  | .heartbeat _ => true
  | .heartbeatMissed _ => true
  | .tenantClaim _ _ => true
  | .tenantProve _ _ => true
  | .qrekey _ _ => true
  | .attest _ _ _ firstCtx _ => decide (firstCtx.toNat < 49152)
  | .tenantSet _ tenant _ _ => decide (tenant.toNat ≤ 4095)
  | .tenantRevoke _ _ => true
  | .vfAssign _ _ _ => true
  | .debugChallenge _ => true
  | .debugUnlock _ _ sig => decide (sig.length = 4500)
  | .debugNonceExpiry => true
  | .signingToken => true
  | .perBootTreeCertify => true
  | .successorTreeReady => true
  | .drbgReseed => true
  | .sageSensorEvent _ => true
  | .bayLockRead _ _ => true
  | .bayRelease _ _ => true
  | .bayDoorbell _ _ => true
  | .bayAck _ _ _ _ => true
  | .bayTimeoutExpiry _ => true
  | .bayWakeComplete _ => true
  | .bayLockBreak _ => true
  | .zeroise _ => true
  | .powerOff _ => true
  | .fwUpdate _ first _ => pageNumberOk first
  | .fwProgramComplete _ => true
  | .telemetry _ _ => true
  | .exportCmd _ _ _ => true
  | .exportComplete _ => true
  | .exportRelease _ _ => true
  | .sqDoorbell _ _ _ entries => entries.all entryOk && decide (entries.length ≤ 4096)
  | .generate _ _ total _ _ params prompt => decide (params.length = 80) && decide (total = 4 * prompt.length)
  | .cancel _ _ => true
  | .cqHeadWrite _ _ _ => true
  | .d2hHeadWrite _ _ _ => true
  | .interruptDelayExpiry _ _ => true
  | .queuePairEnable _ _ _ => true
  | .atsInvalidation _ _ => true
  | .windowRead _ _ => true
  | .windowWrite _ off data => decide (0 < data.length) && decide (off.toNat + data.length ≤ 65536)
  | .cxlLinkDown => true
  | .pf0Flr => true
  | .vfFlr _ => true
  | .dataPacket _ pkt => packetOk pkt
  | .pipePacket _ pkt => packetOk pkt
  | .ckptPacket _ pkt => packetOk pkt
  | .bayPacket _ _ off _ => decide (off.toNat % 4 = 0) && decide (off.toNat < 0x5C)
  | .packetNak _ _ => true
  | .ident _ _ _ _ _ _ sig => decide (0 < sig.length)
  | .kemKey _ key => decide (key.length = 1568)
  | .kemCt _ ct => decide (ct.length = 1568)
  | .keyAt _ _ => true
  | .linkKeySwitch _ => true
  | .modePropose _ _ _ => true
  | .modeAccept _ => true
  | .modeReject _ => true
  | .linkModeSwitch _ => true
  | .modeProposeRetry _ => true
  | .pipeBind _ _ => true
  | .pipeUnbind _ _ => true
  | .leave _ _ _ => true
  | .alignReq _ _ _ => true
  | .alignRsp _ _ _ _ => true
  | .levelReq _ _ => true
  | .levelSet _ _ _ => true
  | .reject _ _ => true
  | .fennelPortDown _ _ => true
  | .portRetrainTimer _ => true
  | .portTrainingComplete _ => true
  | .fnlRetrain _ => true
  | .fnlRekey _ => true
  | .linkCounterRekey _ => true
  | .fnlModeWrite _ _ => true
  | .fennelShareWrite _ _ _ => true
  | .powerGoodRise env => envOk env
  | .powerGoodLoss => true
  | .perstAssert env => envOk env
  | .perstDeassert c => (match c with | none => true | some c => linkOk c)
  | .rstModuleRequest _ _ env => envOk env
  -- R13: a status of Table 0-3
  | .partitionReset _ st => decide (st.toNat ≤ 0x15) || st == 0xFF
  | .railFault _ => true
  | .rootPllLockLoss => true
  | .referenceLoss => true
  | .powerDomainSwitch _ => true
  | .zeroisationComplete => true
  | .sysRecoveryCommit => true
  | .sysRecoveryData _ => true
  | .recoveryProgramComplete _ env => envOk env
  | .dillWatchdogExpiry _ => true
  | .rosemaryWatchdogExpiry => true
  | .lifeHourUpdate _ => true
  | .pairLatchTimeout => true
  | .loHalfRead _ off => decide (off.toNat % 4 = 0)
  | .rcRead _ off => decide (off.toNat % 4 = 0)
  | .registerWrite _ _ data env => decide (data.length ≤ 256) && envOk env
  | .ctxImportComplete ctx => decide (ctx.toNat < 49152)
  | .ctxExportComplete ctx => decide (ctx.toNat < 49152)
  | .wayZeroisationComplete _ => true
  | .groupZeroisationComplete _ => true
  | .thermtripDeassert _ => true
  | .referenceRestored => true
  | .cxlLinkTrained c => linkOk c
  | .hostSnoop _ => true
  | .ideKm _ => true
  | .configurationRequest _ => true
  | .refusedRead _ _ width => decide (0 < width)

end Sys2Proof
end

