-- ==== Sys2Proof/Tests/Slice0.lean ====
section
/-! SUPPORT. The row's own tests: for every statement with hypotheses a state that meets them, the manual's own numbers, and the
terms that WellFormed refuses. -/

set_option maxRecDepth 100000
set_option exponentiation.threshold 1024

namespace Sys2Proof.Tests
open Sys2Proof.Machine

/-! ### States that the witnesses stand on -/

/-- A module that runs commands: READY, its tick network running, PD0 to PD23 powered as after start-up, tick 100. -/
def ready : State :=
  { State.reset with
    fused := []
    sys := { Sys.fresh with state := 1 }
    pwr := { Pwr.fresh with on := 0xFC0007, rootLock := true, refOk := true, pwrgd := true }
    gov := { Gov.fresh with running := true, locked := true, master := true, settled := some 0, now := 3200 } }

/-- A core that runs its job. -/
def runCore : Core := { Core.fresh with st := .running }
/-- Core 0 as `k`. -/
def withCore (k : Core) : State := { ready with cores := [(0, k)] }
/-- Partition 0, READY, with group 0, channel 0 and way 0. -/
def part0 : Part :=
  { Part.fresh with
    st := 1
    live := ⟨.of 1, .of 1, .of 1, .of 16, .of 0⟩
    shadow := ⟨.of 1, .of 1, .of 1, .of 16, .of 0⟩ }
/-- Partition 0 as `q` and core 0 as `k`. -/
def withPart (q : Part) (k : Core) : State := { ready with cores := [(0, k)], parts := [(0, q)] }
/-- An entry of an engine queue. -/
def entryOf (op : EngineOp) (l : Option Launched) : QEntry := ⟨1, op, 3, 0, none, [], [], 0, l⟩
/-- A launched entry's results: nothing yet. -/
def landing : Launched := ⟨0, 10, 10, [], [], [], [], none, [], false, false, [], (0, 0), false, []⟩
/-- An image of core 0, with its instructions from 4 on. -/
def info0 : ImgInfo := { ImgInfo.blank with cores := [0], imemFirst := 4, imemCount := 8 }
/-- Its instruction fields, all 0. -/
def nopElem : ElemF := ⟨0, 0, 0, 0, 0, 0, 0, 0, 0, false⟩

/-! ### Hypotheses over all pages, contexts and queues, from what the lists of the state hold -/

/-- What holds of the default and of every entry holds at every key. -/
theorem sget_all {α : Type} (P : α → Prop) (d : α) (h : P d) : ∀ (l : SMap α), (∀ e ∈ l, P e.2) → ∀ k, P (sget d l k)
  | [], _, _ => h
  | (n, x) :: r, hl, k => by
    unfold sget
    split
    · exact hl (n, x) (by simp)
    · exact sget_all P d h r (fun e he => hl e (by simp [he])) k

theorem pagesOk_of_entries (s : State) (h : s.pages.all (fun e => e.2.ok) = true) : PagesOk s :=
  sget_all (fun e : PageE => e.ok = true) PageE.free (by decide) s.pages (List.all_eq_true.mp h)

theorem contextsOk_of_entries (s : State) (h : s.ctxs.all (fun e => e.2.ok) = true) : ContextsOk s :=
  sget_all (fun e : Ctx => e.ok = true) Ctx.fresh (by decide) s.ctxs (List.all_eq_true.mp h)

theorem nothingDue_of_queues (k : Core) (h : k.queues.all (fun q => q.2.all fun e => e.launched.all fun l => l.todo == []) = true) : NothingDue k := by
  intro q hq e he l hl
  have := List.all_eq_true.mp (List.all_eq_true.mp h q hq) e he
  simpa [hl] using this

theorem goesOn_of_image (s : State) (p c i : Nat) (x : ImgInfo) (h : (s.part p).running = some i)
    (hx : ((s.part p).img.getD i Img.fresh).info = some x) (hc : c ∈ x.cores) (he : (s.core c).ended = false) : GoesOn s p c := by
  intro j y hj hy
  rw [h] at hj
  cases hj
  rw [hx] at hy
  cases hy
  exact ⟨hc, he⟩

theorem noneInFlight_of_queues (s : State) (p : Nat) (h : s.cores.all (fun e => e.2.queues.isEmpty) = true) : NoneInFlight s p := by
  intro c _ q _ e he
  have hq : ∀ c, (s.core c).queues = [] := sget_all (fun k : Core => k.queues = []) Core.fresh rfl s.cores
    (by simpa [List.all_eq_true, List.isEmpty_iff] using h)
  simp [Core.queue, hq c, sget] at he

theorem witness_ScalarInstructionsCompute : ((withCore runCore).core 0).canIssue = true := by decide

theorem witness_WaitsHoldIssue :
    ((withCore runCore).core 0).depth 7 ≤ 0 ∧
    (let k := { runCore with queues := [(0, [entryOf (.cload ⟨0, 0, 0, 0, 0, 0⟩) none])] }
     0 < ((withCore k).core 0).depth 0) ∧
    ((withCore { runCore with wait := .posted 120 }).core 0).wait = .posted 120 := by decide

theorem witness_LoopsRunTheirCounts :
    (((withCore runCore).core 0).canIssue = true ∧ ((withCore runCore).core 0).loops.length < 4) ∧
    (let l : LoopLvl := ⟨2, 5, 3, 2, 0, 0⟩
     let k := { runCore with loops := [l], pc := 6 }
     k.loops = [] ++ [l] ∧ k.pc = l.last + 1 ∧ k.st = .running ∧ k.ended = false ∧ k.halted = false ∧ k.wait = .none) := by decide

theorem witness_BudgetReservedAndEnd :
    (issueTime (withCore runCore) 0 / 32 + 2 ≤ regionBase [] 0 + (102#15).toNat) ∧
    runCore.fault.valid = false ∧
    (let k := { runCore with loops := List.replicate 4 ⟨2, 5, 3, 2, 0, 0⟩ }
     k.canIssue = true ∧ 4 ≤ k.loops.length) ∧
    (let q := { part0 with running := some 0, img := [⟨.running, St.ok, some { info0 with cores := [0, 1] }⟩, .fresh] }
     let s := { withPart q runCore with cores := [(0, runCore), (1, runCore)] }
     partOfCore s 0 = some 0 ∧ (s.part 0).running = some 0 ∧
       ((s.part 0).img.getD 0 Img.fresh).info = some { info0 with cores := [0, 1] } ∧ (s.core 1).ended = false) ∧
    (let q := { part0 with running := some 0, img := [⟨.running, St.ok, some info0⟩, .fresh] }
     let s := withPart q runCore
     partOfCore s 0 = some 0 ∧ (s.part 0).running = some 0 ∧ ((s.part 0).img.getD 0 Img.fresh).info = some info0 ∧
       (s.core 0).drained = true ∧ (s.part 0).saving = false ∧ s.cores.all (fun e => e.2.queues.isEmpty) = true) := by decide

theorem witness_EngineInstructionsEnterTheirQueues :
    (∀ q, q < 5 → ((withCore runCore).core 0).depth q < 16) ∧
    (let k := { runCore with queues := [(4, List.replicate 16 (entryOf (.xlate ⟨0, 0, false⟩) none))] }
     16 ≤ ((withCore k).core 0).depth 4) := by decide

/-- Macro 2 loaded with a source in the base, its image mode W8. -/
def macro0 : MacroSt := { MacroSt.fresh with mode := some .w4, src := some ⟨65536, 131072, 0⟩, rows := 1 }

theorem witness_ParityErrorsAreFoundAndReloaded :
    (let s := { ready with groups := [(0, { GroupSt.fresh with rescrub := [257 * 2 + 255] })], macros := [(2, { macro0 with rows := BitVec.allOnes 256 })] }
     s.pwr.on.getLsbD 2 = true ∧ (s.group 0).rescrub = 769 :: [] ∧ (s.macro1 (769 / 257)).loaded = true ∧ 769 % 257 < 256 ∧
       rowDiff s (769 / 257) (769 % 257) = 0 ∧ rowDiff { s with cim := [(16384 * 2 + 64 * 255, 1)] } (769 / 257) (769 % 257) ≠ 0) ∧
    (let s := { withPart part0 .fresh with macros := [(2, { macro0 with suspect := some .parity })] }
     (s.part 0).st ≠ 0 ∧ (s.part 0).running = none ∧ suspects s 0 = [2] ∧ (s.macro1 2).src = some ⟨65536, 131072, 0⟩ ∧
       (s.macro1 2).mode = some .w4 ∧ (s.part 0).integ.guardOn = false ∧ s.pages.all (fun e => e.2.ok) = true) := by decide

theorem witness_AuditsAndMintEvaluate :
    (let s := withPart { part0 with basePages := [0], baseLeaves := [0] } .fresh
     auditBusy s 0 = false ∧ (s.part 0).st ≠ 0 ∧ (s.part 0).basePages = [0] ∧ (s.part 0).baseLeaves = [0] ∧ (s.part 0).layout = [] ∧
       (s.page 0).ok = true ∧ s.sys.state = 1 ∧ 0 < (s.part 0).integ.auditMin.toNat) ∧
    (let m : MintTile := ⟨.bf16, 0, 0, [0], [0], [0], 1, []⟩
     let s := { withPart part0 .fresh with groups := [(0, { GroupSt.fresh with mint := some (0, m) })] }
     (s.group 0).mint = some (0, m) ∧ partOfGroup s 0 = some 0) := by decide

theorem witness_CommittedCurrentsAndLoans :
    (ready.gov.running = true ∧ ready.gov.diverge = 0) ∧
    (let v : W32 := 1
     let c : W32 := 0xFFFFFFFE
     ready.sys.state = 1 ∧ v.getLsbD 0 ≠ c.getLsbD 0) ∧
    (let g : Grant := ⟨0, [1], [(1, [1])], 90, 120⟩
     let s := { ready with gov := { ready.gov with grants := [g] } }
     s.gov.grants.find? (fun x => x.borrower == 0) = some g) := by decide

theorem witness_ThrottleFollowsTheSensor :
    (min ((12#32).extractLsb' 0 4).toNat 12 ≤ { ready.gov with level := 12 }.level ∧ ready.gov.level < min ((15#32).extractLsb' 0 4).toNat 12) ∧
    (ready.gov.trip = false ∧ discarded ready .module = false ∧ ready.sys.state = 1) ∧
    (let s := { ready with gov := { ready.gov with trip := true, pendingLevels := [(3, 108)] } }
     s.gov.trip = true ∧ s.gov.pendingLevels = (3, 108) :: []) := by decide

/-- Partition 0 running an image of core 0. -/
def running0 : Part := { part0 with running := some 0, img := [⟨.running, St.ok, some info0⟩, .fresh] }
/-- What `nothingDue_of_queues`, `goesOn_of_image` and `pagesOk_of_entries` ask. -/
def plainRun (s : State) : Bool :=
  s.pages.all (fun e => e.2.ok) && (s.core 0).queues.all (fun q => q.2.all fun e => e.launched.all fun l => l.todo == []) &&
  (s.part 0).running == some 0 && ((s.part 0).img.getD 0 Img.fresh).info == some info0 && info0.cores.contains 0 && !(s.core 0).ended

theorem witness_LaunchMovesNothingCompletionLands :
    (let e := entryOf (.varith nopElem) none
     let s := withPart running0 { runCore with queues := [(2, [e])] }
     nextLaunch (s.core 0) 2 = some e ∧ partOfCore s 0 = some 0 ∧ e ∈ (s.core 0).queue (opQueue e.op) ∧ plainRun s = true) ∧
    (let l := { landing with dead := true }
     let e := entryOf (.varith nopElem) (some l)
     let s := withPart running0 { runCore with queues := [(2, [e])] }
     nextLanding (s.core 0) 2 = some (e, l) ∧ partOfCore s 0 = some 0 ∧ l.dead = true ∧ plainRun s = true) ∧
    (let d : SlotDone := ⟨0, 5, 4, .set, 10, [], none⟩
     let l := { landing with writes := [⟨.scratch 0, 256, [1, 2]⟩], slots := [d] }
     let e := entryOf (.varith nopElem) (some l)
     let s := withPart running0 { runCore with queues := [(2, [e])] }
     nextLanding (s.core 0) 2 = some (e, l) ∧ partOfCore s 0 = some 0 ∧ plainRun s = true ∧ (s.core 0).acts = [] ∧ (s.core 0).banks = [] ∧ l.dead = false ∧ l.poison = false ∧ l.early = l.land ∧
       l.tiles = [] ∧ l.mint = none ∧ l.sregs = [] ∧ d.kind = .set) := by decide

theorem witness_PagesAgree : ∀ g, (ready.page g).ok = true := fun _ => (by decide : PageE.free.ok = true)

theorem witness_CacheFillChecksThePage :
    (let st : Staging := ⟨5, [], [7], [7]⟩
     let s := withPart { part0 with dill := { Dill.fresh with staging := some st } } .fresh
     (s.part 0).dill.staging = some st ∧ 7 ∈ st.pages ∧ fillWay s 0 7 = some 0 ∧ (s.page 7).ok = true) := by decide

/-- The staging of page 2, which stands in a snapshot whose manifest is page 3; `b` is the first byte of its leaf. -/
def staging2 (b : Byte) : State :=
  { withPart { part0 with dill := { Dill.fresh with staging := some ⟨5, [7], [2], [2]⟩ } } .fresh with
    snaps := [⟨7, 0, [2], [3], 0, 1⟩], stack := if b = 0 then [] else [(3 * 65536 + 20, b)] }

/-- Of two manifests with different leaves one does not agree with the page's bytes, which are the same in both. -/
theorem witness_CacheFillMismatch : ∃ b h, leafOf (staging2 b) [7] 2 = some h ∧ Config.sha256 (bread (staging2 b).stack (2 * 65536) 65536) ≠ h ∧
    ((staging2 b).part 0).dill.staging = some ⟨5, [7], [2], [2]⟩ ∧ fillWay (staging2 b) 0 2 = some 0 ∧ ((staging2 b).page 2).ok = true := by
  have same : bread (staging2 1).stack (2 * 65536) 65536 = bread (staging2 0).stack (2 * 65536) 65536 := by
    apply List.ext_getElem
    · simp [bread]
    · intro i h1 _
      have hi : i < 65536 := by simpa [bread] using h1
      have : 2 * 65536 + i ≠ 3 * 65536 + 20 := by omega
      simp only [bread, List.getElem_map, List.getElem_range]
      unfold bget
      show sget 0 [(3 * 65536 + 20, (1 : Byte))] (2 * 65536 + i) = sget 0 [] (2 * 65536 + i)
      simp [sget, Ne.symm this]
  by_cases h : Config.sha256 (bread (staging2 0).stack (2 * 65536) 65536) = 0
  · exact ⟨1, 1, by decide, by rw [same, h]; decide, by decide, by decide, by decide⟩
  · exact ⟨0, 0, by decide, h, by decide, by decide, by decide⟩

theorem witness_TileBoundaryPassesOrStops :
    (let q := { part0 with running := some 0, img := [⟨.running, St.ok, some info0⟩, .fresh] }
     let s := withPart q { runCore with wait := .tile 4000 0 0 3 }
     (boundaryCores s 0).1 ≠ [] ∧ (s.part 0).running.isSome ∧ (s.part 0).resume = none ∧ (s.part 0).saving = false ∧
       (s.part 0).pauseFrom = none ∧ (s.part 0).yield_ = none ∧ (s.part 0).replacing = none ∧ (s.part 0).reshape = none ∧
       (∀ c ∈ (boundaryCores s 0).1, (s.core c).depth0 = true ∧ (s.core c).lastIssue ≤ (boundaryCores s 0).2 + 1) ∧
       windowsDue s 0 = false ∧ (s.part 0).mint.since ≤ (boundaryCores s 0).2 / 32 ∧ (100 : Nat) ≤ (boundaryCores s 0).2 / 32) := by decide

theorem witness_CommitFormsOneSnapshot :
    (let e := entryOf (.commit ⟨0, 0, 1⟩) (some landing)
     let s := { withPart part0 { runCore with queues := [(3, [e])], desc := [(1, 0x0000000100000001000000010000000100000001 * 2 ^ 64 + 2)] } with
       ctxs := [(0, { Ctx.fresh with state := 2 })] }
     let n := commitEnv s 0 0 e landing
     commitsOn (s.core 0) 0 = (e, landing, ⟨0, 0, 1⟩) :: [] ∧ partOfCore s 0 = some 0 ∧ (n.view 1).d.ctx.toNat = 0 ∧
       ((commitBytes n ⟨0, 0, 1⟩).length + 65535) / 65536 = 1 ∧ (n.view 1).d.tier = 2 ∧ (n.view 1).pages = [0] ∧
       commitCause n.s 0 0 1 landing.poison [0] = none ∧
       allocPages n.s (n.s.part 0).live.chans.v (1 + manifestPages 1) = some [0, 1] ∧ s.pages.all (fun e => e.2.ok) = true) := by decide

/-- Partition 0 with image 0 in a state, the job running or not. -/
def jobPart (st : ImgState) (r : Bool) : Part :=
  { part0 with running := if r then some 0 else none, img := [⟨st, St.ok, some info0⟩, ⟨.ready, St.ok, some info0⟩] }
/-- A message that waits in mailbox n. -/
def boxed (s : State) (n : Nat) : State := { s with mboxes := [(n, { Mbox.fresh with pending := true })] }
/-- A staging area of partition 0 with pages 0 and 1. -/
def staged (s : State) : State :=
  { s with
    cxl := { s.cxl with areas := [(0, ⟨0, 0, false, true, [0, 1], 2⟩)] }
    pages := [(0, Paired.of (pageWord .staging (some 0) 0xFFFF)), (1, Paired.of (pageWord .staging (some 0) 0xFFFF))] }
/-- A load of image 0, with one table word to write. -/
def load0 (w : Bool) : LoadJob :=
  ⟨.mailbox 0 9, 0, 0, false, ⟨info0, [.imem 0 4 7], [], St.ok, 0, 0, 0, 0, 0, 0⟩, false, 0, w, false⟩

theorem witness_LoadsWriteTablesInTheirWindow :
    (let s := staged (boxed (withPart part0 .fresh) 0)
     Ready s ∧ Waits s 0 ∧ (s.part 0).st = 1 ∧ (s.part 0).load = none ∧ (s.part 0).running ≠ some 0 ∧ stagedRun s 0 0 ((70000 + 65535) / 65536) = some [0, 1] ∧
       s.pages.all (fun e => e.2.ok) = true) ∧
    (let s := withPart { part0 with load := some (load0 false) } .fresh
     (s.part 0).load = some (load0 false) ∧ (load0 false).written = false ∧ (s.part 0).running = none ∧ suspects s 0 = [] ∧
       (load0 false).res.tables = [.imem 0 4 7] ∧ (load0 false).res.info.pages = [] ∧ (load0 false).newLayout = false) ∧
    (let l := { load0 false with res := { (load0 false).res with info := { (load0 false).res.info with cores := [0], imemFirst := 4, imemCount := 1 } } }
     let s := staged (withPart { part0 with load := some l } .fresh)
     (s.part 0).load = some l ∧ l.written = false ∧ (s.part 0).running = none ∧ suspects s 0 = [] ∧ l.res.tables = [.imem 0 4 7] ∧
       l.res.info.pages = [] ∧ l.newLayout = false ∧ ((s.part 0).image l.image).info = none ∧ 0 ∈ l.res.info.cores ∧
       l.res.info.imemFirst ≤ 4 ∧ 4 < l.res.info.imemFirst + l.res.info.imemCount ∧ isStaging s l.reply = true ∧
       s.pages.all (fun e => e.2.ok) = true) ∧
    (let s := withPart { part0 with load := some (load0 true) } .fresh
     (s.part 0).load = some (load0 true) ∧ (load0 true).written = true ∧ s.pages.all (fun e => e.2.ok) = true) := by unfold Ready Waits; decide

theorem witness_JobActionsOfTable105 :
    (let s := withPart (jobPart .ready false) .fresh
     Ready s ∧ (s.part 0).st ≠ 0 ∧ ((s.part 0).image 0).st = .ready ∧ (s.part 0).running = none ∧ (s.part 0).integ.refused = false ∧
       (s.part 0).yield_ = none ∧ drawnUntil s 0 ≤ s.tick + 1 ∧ ((s.part 0).image 0).info = some info0) ∧
    (let s := withPart (jobPart .running true) runCore
     Ready s ∧ ((s.part 0).image 0).st = .running ∧ (s.part 0).yield_ = none ∧ (s.part 0).running.isSome ∧ (s.part 0).stop = none ∧
       allAtDstep s 0 = false ∧ ((s.part 0).image 1).st = .ready ∧ ((s.part 0).image (1 - 1)).st = .running ∧ (s.part 0).integ.refused = false ∧
       discarded s (.partition 0) = false ∧ discarded (discardIn s (.partition 0)) (.partition 0) = true) ∧
    ((withPart (jobPart .suspended false) .fresh).part 0 |>.image 0).st = .suspended := by unfold Ready; decide

theorem witness_YieldSwitchAndResume :
    (let s := withPart { jobPart .running true with yield_ := some (⟨some 1, some 99, none⟩, 98) } { runCore with st := .quiesced }
     ((s.part 0).image 0).info = some info0 ∧ (s.part 0).running = some 0 ∧ (s.part 0).yield_ = some (⟨some 1, some 99, none⟩, 98) ∧
       (s.part 0).saving = false ∧ ∀ c ∈ info0.cores, (s.core c).tileSave = 0) ∧
    (let s := withPart { jobPart .suspended false with yield_ := some (⟨some 1, some 99, some 100⟩, 98) } .fresh
     (s.part 0).running = none ∧ windowsDue s 0 = false ∧ ((s.part 0).image 1).st = .ready ∧ (s.part 0).integ.refused = false) ∧
    (let s := withPart { jobPart .running true with resume := some ⟨0, 50, 51⟩ } { runCore with wait := .tile 4000 0 0 3 }
     (s.part 0).resume = some ⟨0, 50, 51⟩ ∧ (s.part 0).stop = none ∧ (boundaryCores s 0).1.length = info0.cores.length ∧ info0.cores.Nodup) := by decide

theorem witness_PairsOfPartitionsAgree : ∀ q, (ready.part q).live.ok = true ∧ (ready.part q).shadow.ok = true ∧ (ready.part q).reshape = none :=
  fun _ => (by decide : Part.fresh.live.ok = true ∧ Part.fresh.shadow.ok = true ∧ Part.fresh.reshape = none)

theorem witness_CommitsTakeTheShadowSets :
    (let v : W32 := 1
     let c : W32 := 0xFFFFFFFE
     ready.commit.busy = false ∧ v.extractLsb' 0 9 = ~~~(c.extractLsb' 0 9) ∧ v.getLsbD 8 = false) ∧
    commitChecks ready 0 false = none ∧
    (let q := { Part.fresh with shadow := part0.shadow }
     let s := { ready with parts := [(0, { q with st := 3 })] }
     commitChecks s 1 false = some (St.busy, 0)) ∧
    { ready with commit := { ready.commit with pending := some (1, false) } }.commit.pending = some (1, false) := by decide

theorem witness_ReleasedResourcesAreZero :
    (let s := boxed (withPart part0 .fresh) 3
     Ready s ∧ Waits s 3 ∧ (s.part 0).st = 1 ∧ (s.part 0).load = none) ∧
    (let q := { part0 with st := 3, releasing := some (.mailbox 3 9), live := { part0.live with share := .of 0 } }
     let s := { ready with parts := [(0, q), (1, { Part.fresh with live := { ResSet.fresh with share := .of 3584 } })] }
     (s.part 0).releasing = some (.mailbox 3 9) ∧ (s.part 0).running = none ∧ releaseWaits s 0 = true) ∧
    (let q := { part0 with st := 3, releasing := some (.mailbox 3 9) }
     let s := withPart q .fresh
     (s.part 0).releasing = some (.mailbox 3 9) ∧ (s.part 0).running = none ∧ releaseWaits s 0 = false) ∧
    ({ ready with groups := [(15, { GroupSt.fresh with zeroing := true })] }.group 15).zeroing = true := by unfold Ready Waits; decide

/-- VF 0 of tenant 1 with queue pair 0 on and keyed, and partition 0 with a base of one page in epoch 1. -/
def tenancy (xs : SMap Ctx) : State :=
  { ready with
    sage := { Sage.fresh with vfTenant := [(0, .of 1)], tenants := [(1, ⟨true, 8, .of 1, none⟩)], ctxKeys := [(0, some 5)], leaves := 32768 }
    cxl := { Cxl.fresh with qps := [(0, { Qp.fresh with ctrl := 1, keyed := true })] }
    parts := [(0, { part0 with basePages := [0], baseEpoch := .of 1 })]
    ctxs := xs }
/-- A context of tenant 1 in a state. -/
def ctxIn (st : BitVec 3) : Ctx := { Ctx.fresh with state := st, tenant := .of 1, epoch := .of 1, rank := 1, proj := 1 }
/-- A snapshot of context 0 in epoch 1. -/
def snap0 : Snapshot := ⟨7, 0, [2], [3], 0, 1⟩

theorem witness_ContextsAreMadeBoundAndAdopted :
    (let s := tenancy []
     Serves s 0 0 ∧ (tenantRec s (tenantOf s 0).v.toNat).mask.ok = true ∧ (s.part 0).baseEpoch.ok = true ∧
       (tenantRec s (tenantOf s 0).v.toNat).mask.v.getLsbD 0 = true ∧ (s.part 0).st = 1 ∧ holdsBase (s.part 0) = true ∧
       shapeOk 0 128 0x7F = true ∧ shapeOk 0 1 1 = true ∧ shapeOk 2 0 0 = true ∧ ctxRoom s (tenantOf s 0).v = true) ∧
    (let s := tenancy [(0, ctxIn 2)]
     Names s 0 0 0 ∧ (s.ctx 0).state ≠ 5 ∧ (tenantOf s 0).v = (s.ctx 0).tenant.v ∧ (s.ctx 0).importing = [] ∧
       (s.ctx 0).exporting = [] ∧ s.cxl.exports.any (fun e => e.2.1 == 0) = false) ∧
    (let s := { tenancy [(0, { ctxIn 1 with serve := 1 })] with snaps := [snap0] }
     Names s 0 0 0 ∧ (s.part (s.ctx 0).part.toNat).baseEpoch.ok = true ∧ (s.ctx 0).kind ≠ 3 ∧
       (ownedSnaps s 0).find? (fun y => y.handle == 7) = some snap0 ∧ snap0.epoch = (s.part (s.ctx 0).part.toNat).baseEpoch.v ∧
       (ownedSnaps s 0).any (fun y => y.handle == 7) = true ∧ 7 ≠ (s.ctx 0).serve ∧ 7 ≠ (s.ctx 0).stateSnap ∧
       (s.snaps.map fun y => y.handle).Nodup ∧ headerPage s 7 = [2] ∧ (s.page 2).ok = true) ∧
    ((tenancy [(0, ctxIn 3)]).ctx 0).state = 3 := by unfold Names Serves; decide

theorem witness_ContextsComposeReportAndEnd :
    (let s := tenancy [(0, ctxIn 2), (1, ctxIn 2)]
     Serves s 0 0 ∧ mayName (s.ctx 0) 0 0 (tenantOf s 0).v = true ∧ mayName (s.ctx 1) 0 0 (tenantOf s 0).v = true ∧ (s.ctx 0).kind ≠ 3 ∧
       (s.ctx 0).part = (s.ctx 1).part ∧ (s.ctx 0).ok = true ∧ (s.ctx 1).ok = true ∧
       claimClash (headerOf s (s.ctx 0).serve) (headerOf s (s.ctx 1).serve) = false ∧ ctxRoom s (tenantOf s 0).v = true ∧
       headerPage s (s.ctx 0).serve ++ headerPage s (s.ctx 1).serve = []) ∧
    (let s := tenancy [(0, { ctxIn 2 with bound := true, vf := 0, qmask := 1 })]
     Names s 0 0 0 ∧ (s.ctx 0).bound = true ∧ isMember s 0 = false) ∧
    (let s := boxed (tenancy [(0, ctxIn 2)]) 24
     Ready s ∧ Waits s 24 ∧ (s.ctx 0).ok = true ∧ (s.ctx 0).state ≠ 0 ∧ (s.ctx 0).state ≠ 6 ∧ (s.ctx 0).part.toNat = 24 - 24) ∧
    (let s := tenancy [(0, ctxIn 6)]
     (s.ctx 0).state = 6 ∧ inStepOf s (s.ctx 0).part.toNat 0 = false) := by unfold Names Serves Ready Waits; decide

theorem witness_SealedImagesComeAndGo :
    (let s := tenancy [(0, { ctxIn 2 with serve := 7, importing := [(.queue 0 0 4, [8, 9], [])], exporting := [(.queue 0 0 4, 4096, [1])] })]
     let s := { s with snaps := [snap0] }
     Names s 0 0 0 ∧ (s.qp 0 0).keyed = true ∧ (s.ctx 0).importing = (.queue 0 0 4, [8, 9], []) :: [] ∧ sealKey s 0 = some 5 ∧
       (ownedSnaps s 0).length < 8 ∧ roleSnap s 0 false = some snap0 ∧ 144 + 65552 * (snap0.pages ++ snap0.manifest).length ≤ (131248 : BitVec 64).toNat ∧
       (s.ctx 0).exporting = (.queue 0 0 4, 4096, [1]) :: [] ∧ s.pages.all (fun e => e.2.ok) = true) := by unfold Names Serves; decide

/-- Bytes within a run of bytes are read from memory directly. -/
theorem fieldAt_bread (m : List Host.Cell) (a n o k : Nat) (h : o + k ≤ n) :
    fieldAt (bread m a n) o k = ofLeBytes (bread m (a + o) k) := by
  unfold fieldAt
  congr 1
  apply List.ext_getElem
  · simp [bread]; omega
  · intro i h1 h2
    simp [bread, Nat.add_assoc]

/-- A header of kind 0, rank 1, PROJ 1 and one layer. -/
def headerCells : List Host.Cell := [(131073, 1), (131074, 1), (131076, 1)]

theorem witness_HeaderOfAServingSnapshot :
    headerOf { tenancy [(0, { ctxIn 1 with serve := 1 })] with snaps := [snap0], stack := headerCells } 7 = bread headerCells 131072 65536 ∧
    headerValid (bread headerCells 131072 65536) = true ∧
    (bread headerCells 131072 65536).take 3 = (shapeBytes (ctxIn 1)).take 3 ∧ partners (tenancy [(0, ctxIn 1)]) 0 = [] := by
  have f0 : fieldAt (bread headerCells 131072 65536) 0 1 = 0 := (fieldAt_bread _ _ _ _ _ (by omega)).trans (by decide)
  have f3 : fieldAt (bread headerCells 131072 65536) 3 1 = 0 := (fieldAt_bread _ _ _ _ _ (by omega)).trans (by decide)
  have f4 : fieldAt (bread headerCells 131072 65536) 4 2 = 1 := (fieldAt_bread _ _ _ _ _ (by omega)).trans (by decide)
  have f6 : fieldAt (bread headerCells 131072 65536) 6 2 = 0 := (fieldAt_bread _ _ _ _ _ (by omega)).trans (by decide)
  have f8 : fieldAt (bread headerCells 131072 65536) 8 8 = 0 := (fieldAt_bread _ _ _ _ _ (by omega)).trans (by decide)
  have l : (bread headerCells 131072 65536).length = 65536 := by simp [bread]
  refine ⟨rfl, by simp [headerValid, claimsOf, claimsRise, f0, f3, f4, f6, f8, l], ?_, by decide⟩
  have h : (bread headerCells 131072 65536).take 3 = bread headerCells 131072 3 := by
    apply List.ext_getElem
    · simp [bread]
    · intro i h1 h2; simp [bread]
  rw [h]; decide

/-- A serving image of core 0 with room for every bound. -/
def serving0 : ImgInfo :=
  { info0 with serve := { info0.serve with maxSub := 4, maxRows := 4, maxDec := 4, maxKv := 256, kvPages := 4, tpp := 16, reserve := 1, stepLen := 4096 } }
/-- A training image of core 0. -/
def training0 : ImgInfo := { serving0 with training := true, maxStep := 200 }
/-- A request of queue pair 0, staged or not. -/
def req0 (staged : Bool) (rows : Nat) : Req :=
  { Req.new 0x0101 0 0 4 0 [1, 2] 2 3 0xFFFFFFFF [] with staged := staged, rows := rows }
/-- A training request of context 0 at a segment. -/
def trainJob0 (seg : Nat) : TrainJob :=
  { TrainJob.new 0 0 4 ⟨0, 0xFFFF, 5, 1, 0, 0, false, 9⟩ with segment := seg, begun := true }
/-- The tenancy with partition 0 as `f` makes it, and core 0. -/
def tenancyPart (x : Ctx) (f : Part → Part) (k : Core) : State :=
  { tenancy [(0, x)] with parts := [(0, f { part0 with basePages := [0], baseEpoch := .of 1 })], cores := [(0, k)] }
/-- A core that waits at a DSTEP. -/
def stepCore : Core := { runCore with wait := .dstep 0 0 }
/-- Partition 0 running image `x`. -/
def runs (x : ImgInfo) (q : Part) : Part := { q with running := some 0, img := [⟨.running, St.ok, some x⟩, .fresh] }

theorem witness_RequestsQueueStageAndCancel :
    (let s := tenancyPart (ctxIn 2) (fun q => { q with img := [⟨.ready, St.ok, some serving0⟩, .fresh] }) .fresh
     Names s 0 0 0 ∧ (s.ctx 0).state ≠ 5 ∧ serveStatus s 0 = none ∧ servingImage (s.part (s.ctx 0).part.toNat) = some serving0 ∧
       kvNeed serving0 (8 / 4 + (62#32).toNat) ≤ serving0.serve.kvPages ∧ partsOf s 0 = [0] ∧ (s.ctx 0).ok = true) := by unfold Names Serves; decide

/-- A queue pair with a request in a step and one outside it. -/
theorem witness_RequestsOfAQueuePair :
    (let s := tenancyPart (ctxIn 2) (fun q => { q with dill := { Dill.fresh with reqs := [req0 true 1, req0 true 0] } }) .fresh
     Serves s 0 0 ∧ (List.range 8).find? (fun p => (s.part p).dill.reqs.any fun r => r.isOf 0 0 4) = some 0 ∧
       ∀ p, p < 8 → (s.part p).dill.reqs.any (fun r => r.isOf 0 0 5) = false ∧
         ((s.part p).train.toList ++ (s.part p).trainQ).any (fun u => u.isOf 0 0 5) = false) := by unfold Serves; decide

/-- The oldest request with pages to stage, and one whose pages are in. -/
theorem witness_StagingStarts :
    (let s := tenancyPart { ctxIn 2 with serve := 7 } (fun q => { q with dill := { Dill.fresh with reqs := [req0 false 0] } }) .fresh
     let s := { s with snaps := [snap0] }
     (s.part 0).dill.staging = none ∧
       (s.part 0).dill.reqs.find? (fun r => !r.staged && (serveStatus s r.ctx).isNone) = some (req0 false 0) ∧
       (snapPages s (servingSnaps s 0)).filter (fun g => !resident s 0 g) = [2, 3] ∧
       neverFits s 0 (snapPages s (servingSnaps s 0)) = false ∧ s.ctxs.all (fun e => e.2.ok) = true) ∧
    (let s := tenancyPart (ctxIn 2) (fun q => { q with dill := { Dill.fresh with reqs := [req0 false 0], staging := some ⟨0, [0], [], []⟩ } }) .fresh
     (snapPages s (servingSnaps s 0)).filter (fun g => !resident s 0 g) = [] ∧
       (s.part 0).dill.staging = some ⟨0, [0], [], []⟩ ∧ serveStatus s 0 = none ∧ servingSnaps s 0 = [0]) := by decide

/-- A staging whose page stands in a line. -/
theorem witness_StagingOfAResidentPage :
    (let s := tenancyPart (ctxIn 2) (fun q => { q with dill := { Dill.fresh with reqs := [req0 false 0], staging := some ⟨0, [0], [], [7]⟩ } }) .fresh
     let s := { s with lines := [(lineIx (setOf 7) 0, some ⟨7, 1⟩)] }
     (s.part 0).dill.staging = some ⟨0, [0], [], [7]⟩ ∧ (∀ g ∈ [7], resident s 0 g = true) ∧ serveStatus s 0 = none ∧ servingSnaps s 0 = [0]) := by decide

theorem witness_ServingStepsPostAndEnd :
    (let s := tenancyPart (ctxIn 2) (fun q => runs serving0 { q with dill := { Dill.fresh with reqs := [req0 true 0] } }) stepCore
     serveInfo s 0 = some serving0 ∧ serving0.training = false ∧ (s.part 0).dill.inStep = false ∧ mayPost s 0 = true ∧
       (s.part 0).baseEpoch.ok = true ∧ s.ctxs.all (fun e => e.2.ok) = true ∧ (admitReqs (sweepReqs s 0) 0 serving0).isEmpty = false) ∧
    (let s := tenancyPart (ctxIn 2) (fun q => runs serving0 { q with dill := { Dill.fresh with reqs := [req0 true 2], inStep := true } }) stepCore
     (serveInfo s 0).all (fun x => !x.training) ∧ (s.part 0).dill.inStep = true ∧ allAtDstep s 0 = true) := by decide

theorem witness_BasesAreStagedInstalledReplaced :
    (let s := boxed (withPart part0 .fresh) 0
     Ready s ∧ Waits s 0 ∧ (s.part 0).st = 1 ∧ stagingArea s 0 = none ∧ (makeArea s 0 2 false).map (fun x => (x.1, x.2.1)) = some (0, [0, 1])) ∧
    (let s := staged (boxed (withPart part0 .fresh) 0)
     (s.part 0).baseEpoch.ok = true ∧ holdsBase (s.part 0) = false ∧ stagingArea s 0 = some (0, ⟨0, 0, false, true, [0, 1], 2⟩) ∧
       stagedRun s 0 0 1 = some [0]) ∧
    (let s := boxed (tenancy []) 0
     Ready s ∧ Waits s 0 ∧ (s.part 0).st = 1 ∧ (s.part 0).replacing = none ∧ (s.part 0).running = none ∧ holdsBase (s.part 0) = true ∧
       (s.part 0).load = none) := by unfold Ready Waits; decide

/-- Partition `q` running an image of core 0. -/
def runs0 (q : Part) : Part := { q with running := some 0, img := [⟨.running, St.ok, some info0⟩, .fresh] }

theorem witness_SettingPairsOfAPartition :
    ready.sys.state = 1 ∧ (0x80#32).extractLsb' 0 8 = ~~~((0xFFFFFF7F#32).extractLsb' 0 8) ∧
    (0x80#32).extractLsb' 0 8 ≠ ~~~((0#32).extractLsb' 0 8) ∧ (1#32).extractLsb' 0 15 = ~~~((0xFFFFFFFE#32).extractLsb' 0 15) ∧
    (0x41#32).extractLsb' 0 7 = ~~~((0xFFFFFFBE#32).extractLsb' 0 7) ∧ (8#32).extractLsb' 0 24 = ~~~((0xFFFFFFF7#32).extractLsb' 0 24) ∧
    (let s := withPart { part0 with pipe := .of 0x80 } .fresh
     (s.part 0).pipe.ok = true ∧ (s.part 0).pipe.v ≠ (s.part 0).pipeOn ∧ atStep s 0 = true) ∧
    (let s := withPart part0 .fresh
     (s.part 0).pipe.ok = true ∧ (s.part 0).pipe.v = (s.part 0).pipeOn) ∧
    (let s := withPart (runs0 { part0 with pipe := .of 0x80 }) runCore
     (s.part 0).pipe.ok = true ∧ atStep s 0 = false) ∧
    (let s := { ready with cores := [(0, runCore)], parts := [(0, { part0 with pipe := .of 0x81 }), (1, runs0 part0)] }
     (s.part 0).pipe.ok = true ∧ (s.part 0).pipe.v.getLsbD 7 = true ∧ (s.part 0).pipe.v.getLsbD 6 = false ∧
       atStep s ((s.part 0).pipe.v.extractLsb' 0 3).toNat = false) := by decide

theorem witness_EveryPartitionIsAtAStep : ∀ k, atStep (withPart { part0 with pipe := .of 0x80 } .fresh) k = true := by
  intro k
  simp only [atStep, State.part, withPart, sget]
  split <;> rfl

theorem witness_TrainingRequestsArrive :
    (let s := tenancyPart { ctxIn 2 with stateSnap := 7 } (fun q => { q with img := [⟨.ready, St.ok, some training0⟩, .fresh], train := some (trainJob0 0) }) .fresh
     Names s 0 0 0 ∧ (s.ctx 0).state = 2 ∧ (s.ctx 0).stateSnap ≠ 0 ∧ trainImage (s.part 0) = some 0 ∧ ((s.part 0).image 0).st = .ready ∧
       1 ≤ (256#16).toNat ∧ (256#16).toNat ≤ 256 ∧ (s.part 0).train = some (trainJob0 0) ∧ (trainJob0 0).ctx = 0 ∧ (trainJob0 0).jobTag = 9 ∧
       (0#16).toNat < (trainJob0 0).globalMb ∧ Ready s ∧ (s.part 0).running = none ∧ (s.part 0).yield_ = none ∧
       servingLoad (s.part 0) ≤ (s.part 0).idleRows.toNat ∧ (s.part 0).integ.refused = false ∧ (s.part 0).st ≠ 0 ∧ drawnUntil s 0 ≤ s.tick + 1) := by unfold Names Serves Ready; decide

theorem witness_TrainingSegmentsRanksAndLeave :
    (let u := { trainJob0 0 with batches := [⟨0, 0, 6, 0, [1]⟩] }
     let s := tenancyPart (ctxIn 2) (fun q => runs training0 { q with train := some u }) stepCore
     serveInfo s 0 = some training0 ∧ mayPost s 0 = true ∧ (s.part 0).baseEpoch.ok = true ∧ s.ctxs.all (fun e => e.2.ok) = true ∧
       (s.part 0).dp.buddy.ok = true ∧ (s.part 0).dp.dp.ok = true ∧
       (s.part 0).dp.ports.ok = true ∧ trainStatus s 0 u = none ∧ (s.part 0).dp.dp.v.getLsbD 6 = false ∧ u.teacher = 0xFFFF ∧
       (∀ j, j < u.globalMb → u.batches.any (fun b => b.j.toNat == j) = true)) ∧
    (let s := tenancyPart (ctxIn 2) (fun q => runs training0 { q with train := some (trainJob0 1), dp := { q.dp with dpOn := 0x48, live := 3 } }) stepCore
     isDp (s.part 0) = true ∧ isLead (s.part 0) = true ∧ (trainJob0 1).decided = false ∧ (trainJob0 1).segment = 1 ∧
       serveInfo s 0 = some training0) := by decide

theorem witness_CheckpointsCopyAndClose :
    (let k : Ckpt := { Ckpt.fresh with state := 1, openPages := [4], left := 1 }
     let s := tenancyPart (ctxIn 2) (fun q => runs training0 { q with train := some (trainJob0 0), ckpt := k, dp := { q.dp with buddyOn := 1 } }) stepCore
     let s := { s with pages := [(4, Paired.of (pageWord .state (some 0) 0xFFFF ||| 0x80)), (5, Paired.of (pageWord .buddy (some 0) 0xFFFF))] }
     trainImage (s.part 0) = some 0 ∧ statePages s 0 = [4] ∧ buddyPages s 0 = [5] ∧
       (s.part 0).ckpt.openPages.find? (fun g => (s.page g).v.getLsbD 7 && !(s.page g).v.getLsbD 8) = some 4 ∧ buddyRemote s 0 = false ∧
       (buddyPages s 0)[targetGen (s.part 0).ckpt * genSize (statePages s 0).length + (statePages s 0).findIdx (· == 4)]? = some 5 ∧
       (s.part 0).running = some 0 ∧ (s.part 0).pauseFrom = none ∧ (s.part 0).saving = false ∧ s.pages.all (fun e => e.2.ok) = true) ∧
    (let k : Ckpt := { Ckpt.fresh with state := 1, openPages := [4] }
     let s := tenancyPart (ctxIn 2) (fun q => runs training0 { q with train := some (trainJob0 0), ckpt := k, dp := { q.dp with buddyOn := 1 } }) stepCore
     let s := { s with pages := [(4, Paired.of (pageWord .state (some 0) 0xFFFF ||| 0x180)), (5, Paired.of (pageWord .buddy (some 0) 0xFFFF))] }
     (s.part 0).train = some (trainJob0 0) ∧ (s.part 0).ckpt.state = 1 ∧ (∀ g ∈ (s.part 0).ckpt.openPages, (s.page g).v.getLsbD 8 = true) ∧
       s.pages.all (fun e => e.2.ok) = true) := by decide

/-- PF0's DOE instance with a session in some state. -/
def withSession (ix : Nat) (x : Session) : State :=
  { ready with sage := { Sage.fresh with treeCertified := true, leaves := 9, tokens := 3, topNext := 1, sessions := [(ix, x)] } }

theorem witness_SpdmIdentityAndSignatures :
    (let s := withSession 128 { Session.fresh with version := true, caps := true, algs := true }
     s.sys.state = 1 ∧ (sessionOf s (doeIx none)).version = true ∧ (sessionOf s (doeIx none)).caps = true ∧
       (sessionOf s (doeIx none)).algs = true ∧ s.sage.treeCertified = true ∧ s.sage.leaves ≠ 0 ∧ s.sage.tokens ≠ 0 ∧
       (sessionOf s (doeIx none)).up = false ∧ s.sage.debug = 0 ∧ (List.replicate 1568 (0 : Byte)).length = 1568) ∧
    Sage.fresh.tokens = 0 ∧
    (let s := withSession 128 { Session.fresh with kex := [(1, 2, 3)] }
     (sessionOf s (doeIx none)).up = false ∧ (sessionOf s (doeIx none)).kex ≠ []) := by decide

theorem witness_VerifyDataOfAnExchange :
    [((1 : BitVec 384), (2 : BitVec 384), 3)].find? (fun h => Config.hmac384 (leBytes 48 h.1.toNat) (leBytes 48 h.2.1.toNat) ==
      Config.hmac384 (leBytes 48 (1 : BitVec 384).toNat) (leBytes 48 (2 : BitVec 384).toNat)) = some (1, 2, 3) ∧
    ∀ v : BitVec 384, v ≠ ~~~v := by
  refine ⟨by simp, fun v h => ?_⟩
  have := congrArg (fun x => x.getLsbD 0) h
  simp at this

theorem witness_SessionsAndTheirQueueKeys :
    (let s := { tenancy [] with sage := { (tenancy []).sage with sessions := [(0, { Session.fresh with up := true })] } }
     s.sys.state = 1 ∧ (sessionOf s (doeIx (some 0))).up = true ∧ (tenantOf s 0).ok = true ∧
       (tenantRec s (tenantOf s 0).v.toNat).present = true ∧ (tenantRec s (tenantOf s 0).v.toNat).cred = none ∧
       (s.qp 0 0).keyed = true ∧ outstanding s 0 0 = false) ∧
    ({ (⟨true, 8, .of 1, none⟩ : Tenant) with cred := some 5 }).cred = some 5 := by decide

theorem witness_TenantRecordsAndBindings :
    (let s := boxed (tenancy [(0, ctxIn 2)]) 0
     Ready s ∧ Waits s 0 ∧ otherQuotas s (4095#16).toNat + (49144#16).toNat ≤ 49152 ∧ (tenantRec s (1#16).toNat).present = true ∧
       0 ∈ vfsOf s 1 ∧ (s.ctx 0).state ≠ 0 ∧ (s.ctx 0).tenant.v = 1) := by unfold Ready Waits; decide

theorem witness_SageTreesTokensAndSensors :
    (4096#13).toNat ≤ 4096 ∧ Sage.fresh.treeCertified = false ∧ Sage.fresh.topNext.toNat < 2 ^ 20 ∧
    Sage.fresh.flashGood = true ∧
    (withSession 0 .fresh).sage.treeCertified = true ∧ (withSession 0 .fresh).sage.topNext.toNat < 2 ^ 20 ∧ ready.sys.state = 1 := by decide

/-- A flash record that is not that of the top index. -/
theorem witness_FlashRecordOfAnotherIndex :
    { Sage.fresh with topTag := some (Sage.fresh.flashTag 0 + 1) }.flashGood = false ∧ Sage.fresh.treeCertified = false := by
  refine ⟨?_, by decide⟩
  show (Sage.fresh.flashTag 0 + 1 == Sage.fresh.flashTag 0) = false
  simp

theorem witness_ManagementCommandsAndDebug :
    Ready (withSession 0 .fresh) ∧ (withSession 0 .fresh).sage.leaves ≠ 0 ∧
    (let s := staged (withPart part0 .fresh)
     Ready s ∧ s.sys.fwUpdate ≠ 1 ∧ stagedPages s 0 3 = some [0] ∧ s.pages.all (fun e => e.2.ok) = true) ∧
    (let s := withPart (jobPart .running true) runCore
     Ready s ∧ (s.part 0).running.isSome ∧ (s.part 0).stop = none) ∧
    { Sage.fresh with debugNonce := some (5, 90) }.debugNonce = some (5, 90) := by unfold Ready; decide

theorem witness_LockReadsAcquireFreeLocks :
    (ready.mbox 63).owner.ok = true ∧ ¬((3 : BitVec 5) = 1 ∧ 32 ≤ 63) ∧ maySend 3 63 = true ∧ (ready.mbox 63).owner.v = 0 ∧
    (ready.mbox 32).owner.ok = true ∧
    ((ready.mbox 48).owner.v = 0 ∧ ([2] : List (BitVec 5)).all (fun e => maySend e.toNat 48 && decide (e ≠ 9)) = true ∧
      ([9, 2] : List (BitVec 5)).all (fun x => decide ((2 : BitVec 5).toNat ≤ x.toNat)) = true) ∧
    maySend 2 16 = true ∧ maySend 3 0 = false ∧
    (let s := { ready with mboxes := [(50, { Mbox.fresh with owner := .of 9 })] }
     (s.mbox 50).owner.ok = true ∧ maySend 9 50 = true ∧ maySend 2 50 = true ∧ (s.mbox 50).owner.v = 9 ∧ (s.mbox 50).owner.v ≠ 2) := by decide

theorem test_lock_lowest_endpoint_wins :
    (lockReads ready 9 [2, 15] 48).readData = 2 ∧ ((lockReads ready 9 [2, 15] 48).mbox 48).owner.v = 2 ∧
    (lockReads ready 2 [9] 48).readData = 0 := by decide
theorem test_bay_viol_cleared_by_a_secure_endpoint :
    (endpointWrite { ready with bayViol := 3 } 2 0x404008 1).bayViol = 2 ∧
    (endpointWrite { ready with bayViol := 3 } 1 0x404008 1).bayViol = 3 := by decide

theorem witness_ReleasesFreeTheLock :
    (let s := { ready with mboxes := [(16, { Mbox.fresh with owner := .of 2, pending := true }), (63, { Mbox.fresh with owner := .of 3 })] }
     (s.mbox 16).owner.ok = true ∧ (s.mbox 16).owner.v = 2 ∧ s.sys.owedMsgs = [] ∧ (s.mbox 63).owner.v = 3 ∧ (s.mbox 63).owner.v ≠ 2) := by decide

theorem witness_DoorbellsWakesAndBreaks :
    (let m := { Mbox.fresh with owner := .of 1, payload := [(0, 0x90001)] }
     let s := { ready with mboxes := [(0, m), (40, { Mbox.fresh with owner := .of 8, pending := true, timeout := true })] }
     discarded s .module = false ∧ (s.mbox 0).owner.ok = true ∧ (s.mbox 0).pending = false ∧ boxDisabled s 0 = false ∧ wakesPd1 s 0 = false ∧
       (boxCodes 0).contains ((sget 0 (s.mbox 0).payload 0).toNat % 65536) = true ∧ (s.mbox 40).pending = true ∧
       (2 : BitVec 5).toNat = receiverOf 40 ∧ (s.mbox 40).timeout = true ∧ (8 : BitVec 5).toNat ≠ receiverOf 40) ∧
    (let m := { Mbox.fresh with owner := .of 1, payload := [(0, 0x20)] }
     let s := { ready with mboxes := [(24, m)], pwr := { ready.pwr with on := 0xFC0001 } }
     (s.mbox 24).owner.ok = true ∧ (s.mbox 24).owner.v = 1 ∧ (s.mbox 24).pending = false ∧ s.pwr.on.getLsbD 1 = false ∧
       boxDisabled s 24 = false ∧ discarded s .module = false) ∧
    (let m := { Mbox.fresh with owner := .of 1, payload := [(0, 0x20)], waking := true, pending := true }
     let s := { ready with mboxes := [(31, m)], pwr := { ready.pwr with wake := true } }
     s.pwr.wake = true ∧ (s.mbox 31).waking = true ∧ (s.mbox 31).pending = true ∧
       (boxCodes 31).contains ((sget 0 (s.mbox 31).payload 0).toNat % 65536) = true) ∧
    (let s := { ready with mboxes := [(62, { Mbox.fresh with owner := .of 22 })] }
     (62 : Nat) ≠ 63 ∧ ownerReset s (s.mbox 62).owner.v.toNat = true) := by decide

theorem witness_SubmittedEntriesAreTaken :
    (let s := tenancy []
     discarded s (.vf 0) = false ∧ (s.qp 0 0).sqSize ≤ (16#12).toNat ∧ (s.qp 0 0).on = true ∧ (s.qp 0 0).keyed = true ∧
       (1#12).toNat < (s.qp 0 0).sqSize ∧ (s.qp 0 0).tagFails < 15 ∧ (s.qp 0 0).cntIn.toNat < counterEnd ∧
       ((1#12).toNat + (s.qp 0 0).sqSize - (s.qp 0 0).sqHead.toNat) % (s.qp 0 0).sqSize = 1 ∧ s.cxl.unmapped = [] ∧
       (∀ p, p < 8 → (s.part p).train = none ∧ (s.part p).trainQ = []) ∧
       (s.modCxl fun x => { x with unmapped := [(0, 0)] }).atsFails 0 ((s.qp 0 0).sqBase + 128 * (s.qp 0 0).sqHead.setWidth 64) = true) := by decide

theorem witness_RingsInterruptsAndTranslations :
    (let c : Completion := ⟨4, 0x101, 0, 0, 0, 0, [], false, false, false, 0, 0, 0, [], []⟩
     let s := { ready with cxl := { Cxl.fresh with qps := [(0, { Qp.fresh with ctrl := 3, waiting := [c], cqUsed := 16, irqPending := 1 })] } }
     (s.qp 0 0).waiting = [c] ∧ (s.qp 0 0).d2hUsed + c.recs ≤ (s.qp 0 0).d2hSlots ∧ (s.qp 0 0).irqPending ≠ 0 ∧ (s.qp 0 0).irqCount ≠ 0 ∧
       (s.qp 0 0).ctrl.getLsbD 0 = true ∧ ((s.qp 0 0).slotsOf c).any (s.atsFails 0) = false ∧
       ((s.qp 0 0).slotsOf c).any ((s.modCxl fun x => { x with unmapped := [(0, 0)] }).atsFails 0) = true) ∧
    (ready.qp 127 31).waiting = [] ∧ (ready.qp 127 31).ctrl.getLsbD 0 = false := by decide

/-- R481: after an invalidation of an unmapped page the entry behind the doorbell is not read, the pair is DISABLED and the fault is recorded (Table 18-1). -/
theorem test_failed_translation_disables_the_pair :
    (match exec (.atsInvalidation 0 ⟨0, false⟩) (tenancy []) with
     | .next s => (match exec (.sqDoorbell 0 0 1 [⟨0, 0, 0, List.replicate 16 0, List.replicate 96 0, List.replicate 16 0, []⟩]) s with
       | .next t => ((t.qp 0 0).on, (t.qp 0 0).status, (t.qp 0 0).sqHead, (sget FaultRec.none t.err.ring 0).kind)
       | _ => (true, 0, 1, 0))
     | _ => (true, 0, 1, 0)) = (false, St.disabled, 0, 0x0E) := by decide

theorem witness_MemoryWindowReachesAreas :
    (let s := staged ready
     (∀ e ∈ s.cxl.areas, e.2.valid = true → (2#20).toNat < e.2.first.toNat ∨ e.2.first.toNat + e.2.len ≤ (2#20).toNat) ∧
       frameOf s 1 = some (⟨0, 0, false, true, [0, 1], 2⟩, 1) ∧ (s.page 1).ok = true ∧ (0xFFF8#16).toNat + 8 ≤ 65536) ∧
    (let s := { ready with cxl := { Cxl.fresh with areas := [(3, ⟨7, 0, true, true, [9], 1⟩)] } }
     frameOf s 7 = some (⟨7, 0, true, true, [9], 1⟩, 9) ∧ (s.page 9).ok = true) := by decide

theorem witness_LinkAndFunctionResets :
    { Cxl.fresh with up := true }.up = true ∧ ready.pwr.on.getLsbD 22 = true ∧ ready.pwr.perst = false ∧ discarded ready .host = false ∧
    discarded ready (.vf 0) = false ∧ discarded (discardIn ready .host) .host = true ∧ discarded (discardIn ready (.vf 127)) (.vf 127) = true := by decide

theorem witness_ExportAreasComeAndGo :
    (let s := { boxed (tenancy [(0, { ctxIn 2 with serve := 7 })]) 0 with snaps := [snap0] }
     Ready s ∧ Waits s 0 ∧ (s.ctx 0).state ≠ 0 ∧ (s.ctx 0).ok = true ∧ sealKey s 0 = some 5 ∧ roleSnap s 0 false = some snap0 ∧
       (∀ g ∈ snap0.pages ++ snap0.manifest, (s.page g).ok = true)) ∧
    (let s := { ready with cxl := { Cxl.fresh with exports := [(3, 0, .mailbox 0 9)], areas := [(4, ⟨7, 0, true, true, [9], 1⟩)] } }
     s.cxl.exports.find? (fun e => e.1 == 3) = some (3, 0, .mailbox 0 9) ∧ (s.mbox 16).owner.v = 0 ∧ s.pwr.perst = false ∧
       (sget Area.fresh s.cxl.areas 4).valid = true ∧ (sget Area.fresh s.cxl.areas 4).exportA = true ∧
       s.cxl.exports.any (fun e => e.1 == 4) = false) := by unfold Ready Waits; decide

/-- Pages for the export area of that snapshot are free. -/
theorem witness_ExportArea :
    (makeArea (drawNonce { boxed (tenancy [(0, { ctxIn 2 with serve := 7 })]) 0 with snaps := [snap0] }).2 0
      ((144 + 65552 * (snap0.pages ++ snap0.manifest).length + 65535) / 65536) true).isSome = true := by decide

/-- Port 0 as `p`. -/
def portAs (p : Port) : State := { ready with ports := [(0, p)] }
/-- A port that is up in plain mode with the module of board slot 1. -/
def up0 : Port := { Port.fresh with state := 2, live := 1, peer := 1, identOk := true }
/-- A packet for slot 5 of core 0 of partition 0. -/
def pkt0 : Packet := ⟨0, 0, false, false, true, 0, 0, 0, 0, 5, 0, 0, 0, [1, 2], [], true, 0, 0⟩
/-- Partition 0 with core 0, and port 0 up. -/
def portPart (f : Part → Part) : State := { withPart (f part0) runCore with ports := [(0, up0)] }
/-- What a start-up that nothing fails is answered. -/
def env0 : StartEnv :=
  { selfTestOk := true, fuseOk := true, image := 0, imageSvn := 0, imageVersion := 1, loaderVersion := 1, romDigest := 0, fwDigest := 0,
    rosemaryOk := true, pllOk := true, badChannel := none, badMacros := [], cacheOk := true, ports := [], perstHigh := true, slot := 0,
    cxl := some ⟨16, 3, 127⟩, svnOk := true }
/-- What a port's training that nothing fails is answered. -/
def peer1 : PortInfo := ⟨0, true, true, false, 1, 7, none, 3, 0, 0, 0⟩

theorem witness_PacketsDeliverTheirPayload :
    (let s := portPart fun q => { q with dp := { q.dp with dp := .of 0x40 } }
     (s.port 0).state = 2 ∧ (s.port 0).nak = [] ∧ (s.port 0).waiting = [] ∧ pkt0.intact = true ∧ pkt0.badWords = 0 ∧ { pkt0 with intact := false }.intact = false ∧ 0 < { pkt0 with badWords := 2 }.badWords ∧
       pkt0.protectedMode = false ∧ (s.port 0).live = 1 ∧ (s.part 0).train = none ∧ (s.part 0).dp.dp.ok = true ∧ (s.part 0).dp.ports.ok = true ∧
       (s.part 0).dp.buddy.ok = true ∧ boundTo s 0 1 pkt0 = true ∧ partOfCore s pkt0.dcore.toNat = some 0 ∧ pkt0.dcore.toNat < 1280) ∧
    boundTo (portPart id) 0 1 pkt0 = false ∧
    (let s := { portPart (runs { info0 with lanes := [(0, 0, 6)] }) with ports := [(0, { up0 with binds := [(0, 0)] })] }
     boundTo s 0 2 pkt0 = true ∧ serveInfo s 0 = some { info0 with lanes := [(0, 0, 6)] } ∧
       ([(0, 0, 6)] : List (Nat × Nat × Nat)).find? (fun l => l.1 == pkt0.dcore.toNat) = some (pkt0.dcore.toNat, 0, 6)) ∧
    (let s := { portPart fun q => { q with dp := { q.dp with buddy := .of 0x100 } } with
       pages := [(5, Paired.of (pageWord .buddy (some 0) 0xFFFF))] }
     let k := { pkt0 with dslot := 0 }
     boundTo s 0 3 k = true ∧ (s.page 5).ok = true ∧ (buddyPages s 0)[(k.doff.toNat + 8192 * (k.dslot.toNat + 512 * k.dcore.toNat)) / 1024]? = some 5) := by decide

theorem witness_ReplayRejectAndRemoteMailbox :
    (let p := { up0 with unacked := [(3, ⟨1, 0, [0, 0, 5, 0, 0], [1], []⟩, 2), (4, ⟨1, 0, [0, 0, 5, 0, 0], [1], []⟩, 5)] }
     p.unacked.find? (fun (e : Nat × OutPkt × Nat) => e.1 == (3#16).toNat) = some (3, ⟨1, 0, [0, 0, 5, 0, 0], [1], []⟩, 2) ∧
       p.unacked.find? (fun (e : Nat × OutPkt × Nat) => e.1 == (4#16).toNat) = some (4, ⟨1, 0, [0, 0, 5, 0, 0], [1], []⟩, 5) ∧
       (⟨3, 0, [7, 0, 5, 0, 0], [1], []⟩ : OutPkt).type = 3 ∧ (⟨3, 0, [7, 0, 5, 0, 0], [1], []⟩ : OutPkt).args.getD 0 0 < 8) ∧
    (let s := { portAs up0 with mboxes := [(56, { Mbox.fresh with owner := .of 16 })] }
     (s.port 0).state = 2 ∧ (s.port 0).waiting = [] ∧ (63#8).toNat < 64 ∧ (s.mbox 56).owner.v.toNat = 16 ∧ (s.port 0).live = 1) := by decide

theorem witness_LinkKeysAreExchanged :
    (let s := portAs { up0 with state := 1 }
     s.sys.state = 1 ∧ (s.port 0).state = 1 ∧ (s.port 0).waiting = [] ∧ duplicatePeer s 0 1 7 = false ∧ (List.replicate 1568 (0 : Byte)).length = 1568) ∧
    (let p := { up0 with kemDk := some 3, newTx := some 1, newRx := some 2, switchTick := some 116 }
     p.kemDk = some 3 ∧ p.newTx.isSome ∧ p.newRx = some 2 ∧ p.switchTick = some 116 ∧ configured (portAs p) 0 = p.live ∧ p.waiting = []) ∧
    (let p := { up0 with oldUntil := some 118, ctrTx := 0x100000000 }
     p.switchTick = none ∧ p.oldUntil = some 118 ∧ (portAs p).gov.slot.toNat < p.peer.toNat ∧ p.state = 2 ∧ 2 ^ 32 ≤ p.ctrTx.toNat ∧
       p.modeDue = none ∧ p.waiting = []) := by simp only [List.length_replicate]; decide

theorem witness_LinkModesAreAgreed :
    (let s := portAs { up0 with live := 2, pending := true }
     (s.port 0).state = 2 ∧ (s.port 0).proposal = none ∧ s.fnlMode.ok = true ∧ modeBlocked s 0 = false ∧ s.tick + 16 ≤ (116#64).toNat ∧
       configured s 0 = 1 ∧ (s.port 0).live ≠ 1 ∧ (s.port 0).pending = true ∧ s.sys.state = 1 ∧ (s.port 0).waiting = []) ∧
    { up0 with proposal := some (1, 164) }.proposal = some (1, 164) ∧
    { up0 with live := 2, modeDue := some (1, 164) }.modeDue = some (1, 164) ∧
    (0x2AAA#32).extractLsb' 0 14 = ~~~((0xFFFFD555#32).extractLsb' 0 14) ∧ (1#32).extractLsb' 0 14 ≠ ~~~((1#32).extractLsb' 0 14) := by decide

theorem witness_AlignmentAndThrottleMessages :
    (let s := portAs { up0 with toMaster := true }
     masterPort s = some 0 ∧ (32#16).toInt.natAbs ≤ 32 ∧ 32 < (33#16).toInt.natAbs ∧ (s.port 0).waiting = [] ∧ (s.port 0).state ≠ 0 ∧ (s.port 0).toMaster = true ∧
       (BitVec.ofInt 16 (((3000#64).toNat : Int) + (s.gov.now - 3000 - 0) / 2 - (3100#64).toNat)).toInt.natAbs ≤ 32) ∧
    isFollower (portAs up0) = false ∧
    (let s := { ready with sys := { Sys.fresh with step := 7 }, pwr := { ready.pwr with resetAfter := some env0 } }
     settling s = some env0) := by decide

theorem witness_PortsTrainBindAndGoDown :
    (let s := { portAs { up0 with state := 1 } with sage := { Sage.fresh with treeCertified := true } }
     peer1.port = 0 ∧ (s.port 0).state = 1 ∧ peer1.linkOk = true ∧ s.sage.treeCertified = true ∧ peer1.authOk = true ∧
       peer1.engChain = s.sage.es ∧ duplicatePeer s 0 peer1.peerSlot peer1.serial = false ∧ peer1.peerMaster = none) ∧
    (let s := { portAs { Port.fresh with downKind := 7 } with pwr := { ready.pwr with on := 0xFC0007 } }
     (s.port 0).state = 0 ∧ portPowered s 0 = true ∧ (s.port 0).downKind = 7 ∧ s.sys.state = 1) ∧
    discarded (portAs up0) (.port 0) = false ∧
    (let v : W32 := 0x04040404
     let new (k : Nat) : Nat := if false = decide (4 ≤ k) then (v.extractLsb' (8 * (k % 4)) 5).toNat else ((portAs up0).port 0).share k
     new 0 + new 1 + new 2 + new 3 + new 4 + new 5 + new 6 + new 7 ≤ 16 ∧ ∀ k, k < 8 → shareNeed ((portAs up0).part k) 0 ≤ new k) ∧
    (let v : W32 := 0x05040404
     let new (k : Nat) : Nat := if false = decide (4 ≤ k) then (v.extractLsb' (8 * (k % 4)) 5).toNat else ((portAs up0).port 0).share k
     16 < new 0 + new 1 + new 2 + new 3 + new 4 + new 5 + new 6 + new 7) := by decide

theorem witness_StartUpReachesReady :
    (let s := { State.reset with fused := [] }
     s.pwr.pwrgd = false ∧ s.sys.flashBad = false ∧ s.sys.fwUpdate ≠ 1 ∧ s.sys.recBusy = false ∧ GoodStart env0 ∧ s.sage.flashGood = true ∧
      MacrosSuffice s) ∧
    { env0 with selfTestOk := false }.selfTestOk = false ∧ { env0 with image := 2 }.image ≠ 0 ∧ ready.pwr.pwrgd = true := by unfold GoodStart MacrosSuffice; decide

theorem witness_ModuleResetsRestart :
    (ready.sys.state = 1 ∧ ready.pwr.pwrgd = true ∧ ready.sys.fwUpdate ≠ 1 ∧ ready.pwr.perst = false ∧ (1#32).getLsbD 0 = true ∧
      (0xFFFFFFFE#32).getLsbD 0 = false) ∧
    (let s := { ready with sys := { Sys.fresh with step := 8 }, pwr := { ready.pwr with resetAfter := some env0 } }
     s.sys.state = 0 ∧ s.sys.step = 8 ∧ s.sage.zeroising = none ∧ s.pwr.resetAfter = some env0 ∧ env0.svnOk = true ∧ s.sage.debug = 0) ∧
    (let s := { ready with
       sys := Sys.fresh, pwr := { ready.pwr with resetAfter := some env0 }, sage := { Sage.fresh with zeroising := some 4 } }
     s.sage.zeroising = some 4 ∧ s.pwr.resetAfter = some env0 ∧ GoodStart env0 ∧ s.pwr.perst = false ∧ s.sage.debug = 0 ∧
       s.sys.flashBad = false ∧ s.sys.fwUpdate ≠ 1 ∧ s.sys.recBusy = false ∧ s.sage.flashGood = true ∧ MacrosSuffice s) ∧
    (let s := { ready with sage := { Sage.fresh with zeroising := some 2, zeroVia := some (.mgmt, 7) } }
     s.sage.zeroising = some 2 ∧ s.pwr.resetAfter = none ∧ s.sage.zeroVia = some (.mgmt, 7)) ∧
    (let s := { ready with sage := { Sage.fresh with zeroising := some 5, zeroVia := some (.mgmt, 8) } }
     s.sage.zeroising = some 5 ∧ s.pwr.resetAfter = none ∧ s.sage.zeroVia = some (.mgmt, 8) ∧ ∀ p, p < 8 → (s.part p).running = none) := by
  unfold GoodStart MacrosSuffice; decide

theorem witness_PartitionResetsAndRails :
    ((withPart part0 .fresh).part 0).st ≠ 0 ∧ (withPart part0 .fresh).pages.all (fun e => e.2.ok) = true ∧ ready.pwr.on.getLsbD 1 = true ∧ ready.pwr.on.getLsbD (3 : Fin 24) = false ∧
    (∀ d ∈ [1, 2, 18, 19, 20], ready.pwr.on.getLsbD d = true) ∧ partOfGroup (withPart part0 .fresh) (2 - 2) = some 0 ∧
    discarded (withPart part0 .fresh) (.partition 0) = false ∧ ((withPart part0 .fresh).part 0).st ≠ 3 ∧ (0 < 4 → ((portAs up0).port 0).state ≠ 0) := by decide

theorem witness_ClocksDomainsAndLife :
    (ready.sys.state = 1 ∧ ready.gov.running = true ∧ ready.pwr.rootLock = true ∧ ready.pwr.refOk = true ∧ ready.pwr.pwrgd = true) ∧
    { ready with pwr := { ready.pwr with refOk := false } }.pwr.refOk = false ∧
    (let w := { ready.pwr with pd1 := true, pd20 := true, pd21 := true, pd23 := true }
     ((15#32).getLsbD 0 = w.pd1 ∧ (15#32).getLsbD 1 = w.pd20 ∧ (15#32).getLsbD 2 = w.pd21 ∧ (15#32).getLsbD 3 = w.pd23 ∧ (7#32).getLsbD 3 = false) ∧
     { w with pd23 := false }.pd23 = false ∧ ({ ready with pwr := w }.part 0).live.ways.v = 0 ∧ ((withPart part0 .fresh).part 0).live.ways.v ≠ 0) ∧
    87660 ≤ (87658 + 4 : Nat) := by decide

theorem witness_FirmwareRecoveryAndOrphans :
    (let y := { ready.sys with fwUpdate := 1, fwVia := some .mgmt }
     y.fwUpdate = 1 ∧ y.fwVia = some .mgmt ∧ ready.pwr.resetAfter = none) ∧
    (let y := { ready.sys with state := 3, recLen := 4, recBusy := true }
     y.state = 3 ∧ y.recPos < 8388608 ∧ y.recLen ≠ 0 ∧ y.recLen.toNat ≤ 33554432 ∧ y.recBusy = true ∧ { y with recBusy := false }.recBusy = false) ∧
    { ready.sys with latches := [(0x101008, false, 1, 90)] }.latches = [(0x101008, false, 1, 90)] ∧ ready.sys.pairValid = false := by decide

theorem witness_RegisterReadsLatchClearAndRefuse :
    (ready.sys.state = 1 ∧ ready.sys.accValid = false) ∧
    sget none (sput none ready.sys.hi (latchIx .pf0 0x100000) (some 9)) (latchIx .pf0 0x100000) = some 9 ∧
    mapped ready .pf0 0x3F00000 = false ∧ 0x3F00000 % 4 = 0 ∧ readAligned 0x100000 3 = false ∧ readAligned 0x100002 4 = false := by decide

theorem witness_RegisterWritesTakeTheirFields :
    ready.sys.state = 1 ∧ ready.sys.accValid = false ∧ mapped ready .mgmt (0x3F00000#28).toNat = false ∧ ([1, 2, 3] : List Byte).length < 4 ∧
    (∀ l ∈ [((0x101008 : Nat), true, (3 : W32), ready.tick)], ready.tick < l.2.2.2 + 1024) ∧ (ready.qp 0 0).ctrl.getLsbD 0 = false ∧
    ({ ready with cxl := { Cxl.fresh with qps := [(0, { Qp.fresh with ctrl := 3 })] } }.qp 0 0).ctrl.getLsbD 0 = true := by decide

theorem witness_StepRunsTheFrontCommand :
    { ready with pending := [.tickMasterSettleTimeout] }.pending = .tickMasterSettleTimeout :: [] ∧ ready.pending = [] := by decide

theorem witness_ScalarWordsIndicesFeatures :
    (let k := { runCore with loops := [⟨2, 5, 3, 2, 0, 0⟩] }
     ((withCore k).core 0).canIssue = true ∧ (0#2).toNat < k.loops.length ∧ ¬(1#2).toNat < k.loops.length ∧ 27 ≤ (27#6).toNat) := by decide

theorem witness_EveryStepKeepsTheInvariant : Inv { ready with pending := [.powerGoodLoss] } ∧ ∃ t, step { ready with pending := [.powerGoodLoss] } = .next t :=
  ⟨⟨by decide, by decide, by decide, by decide, by decide, fun _ => (by decide : PageE.free.ok = true), by decide, by decide⟩, _, rfl⟩

theorem witness_FusesAndTopLeavesOnlyAdvance : Inv ready ∧ ∃ t, step ready = .next t :=
  ⟨⟨by decide, by decide, by decide, by decide, by decide, fun _ => (by decide : PageE.free.ok = true), by decide, by decide⟩, _, rfl⟩

/-! ### The manual's own numbers -/

/-- What scalar register `r` of core 0 holds after command `i`. -/
def regAfter (i : Instr) (k : Core) (r : SReg) : Option W32 :=
  match exec i (withCore k) with
  | .next t => some ((t.core 0).reg r)
  | _ => none
/-- s1 = 2^32 - 1 and s2 = 33. -/
def regs12 : Core := { runCore with regs := [(1, 0xFFFFFFFF), (2, 33)] }

/-- R234: sums wrap modulo 2^32. -/
theorem test_sadd_wraps : regAfter (.sadd 0 3 1 2) regs12 3 = some 32 := by decide
/-- R218: s0 stays 0. -/
theorem test_s0_ignores_writes : regAfter (.sadd 0 0 1 2) regs12 0 = some 0 := by decide
/-- Table 7-4: the low 5 bits of the second operand are the shift. -/
theorem test_sshl_amount : regAfter (.sshl 0 3 1 2) regs12 3 = some 0xFFFFFFFE := by decide

/-- 5.3125 into E4M3 under SR with r = 0x6000 and 0x5FFF, and under RNE (example under R45). -/
theorem test_e4m3_rounding :
    (convert .e4m3 ⟨false, true⟩ 0x6000 (f32 0x40AA0000)).1 = 0x4B ∧ (convert .e4m3 ⟨false, true⟩ 0x5FFF (f32 0x40AA0000)).1 = 0x4A ∧
    (convert .e4m3 Cvt.rne 0 (f32 0x40AA0000)).1 = 0x4B := by decide
/-- 470 into E4M3 in both overflow modes, and the tie 464 (example under Table 2-6). -/
theorem test_e4m3_overflow :
    convert .e4m3 Cvt.rne 0 (f32 0x43EB0000) = (0x7E, false) ∧ convert .e4m3 ⟨true, false⟩ 0 (f32 0x43EB0000) = (0x7F, true) ∧
    convert .e4m3 ⟨true, false⟩ 0 (f32 0x43E80000) = (0x7E, false) := by decide
/-- A block with MAXABS 13.0 into E2M1: scale 0x81, 13.0 and 7.0 as 0x5 and 0x4, dequantised 12.0 and 8.0 (example under R51). -/
theorem test_e2m1_block :
    deriveScale .e2m1 (f32 0x41500000) = (0x81, false) ∧ (quantise .e2m1 Cvt.rne 0 0x41500000 0x81).1 = 0x5 ∧
    (quantise .e2m1 Cvt.rne 0 0x40E00000 0x81).1 = 0x4 ∧ (dequantise .e2m1 0x5 0x81).1 = 0x41400000 ∧ (dequantise .e2m1 0x4 0x81).1 = 0x41000000 := by
  decide

/-- R390: the window of a lane slot is (0, 0) at LEVEL 4, start and length as the loader chose. -/
theorem test_lane_slot_window :
    (let e := SlotE.ofLoaded (slotWord ⟨[], [], [], [], { info0 with lanes := [(0, 7, 3)] }⟩ 7 (3, 0x1FFFFF_001FFFFF_00070205#128))
     (e.start, e.lenM1, e.level, e.earlyCyc, e.earlyTick, e.lateCyc, e.lateTick)) = (5, 1, 4, 0, 0, 0, 0) := by decide

/-! ### Words of instruction memory, written out from Tables 7-3 to 7-14 -/

/-- One word of each class: SADDI s3 = s1 + 7; CFWD of chain 163 to descriptor 5, ACODE 1, at stamp 2:5; VTOPK, k = 8. -/
theorem test_decodeWord :
    decodeWord 0 (0x0A#128 ||| 3#128 <<< 32 ||| 1#128 <<< 37 ||| 7#128 <<< 64) = .saddi 0 3 1 7 ∧
    decodeWord 0 (0x21#128 ||| 1#128 <<< 11 ||| 5#128 <<< 12 ||| 2#128 <<< 17 ||| 1#128 <<< 34 ||| 163#128 <<< 36 ||| 5#128 <<< 45) =
      .cfwd 0 ⟨true, 5, 2⟩ ⟨1, 163, 5⟩ ∧
    decodeWord 0 (0x65#128 ||| 7#128 <<< 34 ||| 9#128 <<< 42 ||| 10#128 <<< 54 ||| 11#128 <<< 66 ||| 4#128 <<< 78) =
      .vtopk 0 ⟨false, 0, 0⟩ ⟨7, 9, 10, 11, 4⟩ ∧
    decodeWord 0 (0x84#128 ||| 2#128 <<< 32 ||| 31#128 <<< 34 ||| 77#128 <<< 39) = .commit 0 ⟨false, 0, 0⟩ ⟨2, 31, 77⟩ ∧
    decodeWord 0 (0xA1#128 ||| 6#128 <<< 32 ||| 2#128 <<< 41 ||| 1#128 <<< 49) = .xlate 0 ⟨false, 0, 0⟩ ⟨6, 2, true⟩ ∧
    decodeWord 0 (0x07#128) = .reservedOpcode 0 := by decide

/-- R233: the loader refuses a reserved opcode and a reserved bit; R235: a scalar instruction with a stamp. -/
theorem test_wordOk :
    wordOk (0x0A#128 ||| 3#128 <<< 32 ||| 1#128 <<< 37 ||| 7#128 <<< 64) = true ∧ wordOk 0x07 = false ∧ wordOk (0x00#128 ||| 1#128 <<< 8) = false ∧
    wordOk (0x0A#128 ||| 1#128 <<< 11) = false := by decide

/-! ### WellFormed refuses -/
theorem test_wf_accepts : WellFormed (.waitq 0 4 9) = true ∧ WellFormed (.powerGoodRise env0) = true ∧ WellFormed (.dataPacket 0 pkt0) = true := by decide

theorem test_wf_waitq : WellFormed (.waitq 0 5 0) = false := by decide

theorem test_wf_instructionLaunch : WellFormed (.instructionLaunch 0 0 [.doubleLine 512 0]) = false ∧
    WellFormed (.instructionLaunch 0 0 [.doubleLine 0 32]) = false ∧ WellFormed (.instructionLaunch 0 0 [.retried (192 * 65536)]) = false := by decide

theorem test_wf_cacheFill : WellFormed (.cacheFill ⟨0, []⟩ 61027) = false := by decide

theorem test_wf_load : WellFormed (.load .pf0 0 0 false 0 0 0) = false ∧ WellFormed (.load .pf0 0 0 false 65535 1 0) = false := by decide

theorem test_wf_ctxImport : WellFormed (.ctxImport .pf0 0 [0]) = false := by decide

theorem test_wf_contexts : WellFormed (.ctxDeleteComplete 49152) = false ∧ WellFormed (.ctxImportComplete 49152) = false ∧
    WellFormed (.ctxExportComplete 49152) = false ∧ WellFormed (.attest .pf0 false 0 49152 0) = false := by decide

theorem test_wf_stepEnd : WellFormed (.stepEnd 0 [⟨0, 4096, []⟩]) = false := by decide

theorem test_wf_bases : WellFormed (.baseStage .pf0 0 1048577) = false ∧ WellFormed (.baseInstall .pf0 0 65000 1) = false := by decide

theorem test_wf_links : WellFormed (.cxlLinkTrained ⟨2, 3, 0⟩) = false ∧ WellFormed (.perstDeassert (some ⟨16, 0, 0⟩)) = false := by decide

theorem test_wf_trainData : WellFormed (.trainData .pf0 0 0 0 []) = false := by decide

theorem test_wf_keyExchange : WellFormed (.keyExchange none [1]) = false := by decide

theorem test_wf_tenantSet : WellFormed (.tenantSet .pf0 4096 0 0) = false := by decide

theorem test_wf_debugUnlock : WellFormed (.debugUnlock .test 1 []) = false := by decide

theorem test_wf_fwUpdate : WellFormed (.fwUpdate .pf0 (200 * 65536) 1) = false := by decide

theorem test_wf_sqDoorbell : WellFormed (.sqDoorbell 0 0 1 [⟨1, 0, 0, List.replicate 16 0, List.replicate 96 0, List.replicate 16 0, []⟩]) = false ∧
    WellFormed (.sqDoorbell 0 0 1 [⟨0, 0, 0, [], List.replicate 96 0, List.replicate 16 0, []⟩]) = false := by decide

theorem test_wf_generate : WellFormed (.generate .pf0 0 4 0 0 [] [7]) = false ∧ WellFormed (.generate .pf0 0 5 0 0 (List.replicate 80 0) [7]) = false := by decide

theorem test_wf_windowWrite : WellFormed (.windowWrite 0 0 []) = false ∧ WellFormed (.windowWrite 0 0xFFFF [1, 2]) = false := by decide

theorem test_wf_packets : WellFormed (.dataPacket 0 { pkt0 with tag := [1] }) = false ∧ WellFormed (.pipePacket 0 { pkt0 with protectedMode := true }) = false ∧
    WellFormed (.ckptPacket 0 { pkt0 with tag := [1] }) = false := by decide

theorem test_wf_bayPacket : WellFormed (.bayPacket 0 true 0x5C 0) = false ∧ WellFormed (.bayPacket 0 true 6 0) = false := by decide

theorem test_wf_keys : WellFormed (.kemKey 0 []) = false ∧ WellFormed (.kemCt 0 []) = false ∧ WellFormed (.ident 0 0 0 none false [] []) = false := by decide
/-- A start-up that reports a macro that no module has. -/
def badEnv : StartEnv := { env0 with badMacros := [1310720] }

theorem test_wf_startUps : WellFormed (.powerGoodRise badEnv) = false ∧ WellFormed (.perstAssert badEnv) = false ∧
    WellFormed (.rstModuleRequest 0 0 badEnv) = false ∧ WellFormed (.recoveryProgramComplete true badEnv) = false ∧
    WellFormed (.registerWrite .pf0 0 [0] badEnv) = false ∧ WellFormed (.powerGoodRise { env0 with cxl := some ⟨3, 3, 0⟩ }) = false := by decide

theorem test_wf_reads : WellFormed (.loHalfRead .pf0 2) = false ∧ WellFormed (.rcRead .pf0 1) = false ∧ WellFormed (.refusedRead .pf0 0 0) = false := by decide

end Sys2Proof.Tests
end

section
/-! SUPPORT. Operations that leave the bytes of the block alone: fault records, advisories, accesses to pages that agree. -/

namespace Sys2Proof.Machine

/-! ### Bytes that stay -/

/-- Memories that are the same lists read the same bytes. -/
theorem sameBytes_of_eq {s t : State} (hscratch : t.scratch = s.scratch) (hcim : t.cim = s.cim) (hscales : t.scales = s.scales)
    (hstack : t.stack = s.stack) (hcache : t.cacheBytes = s.cacheBytes) : SameBytes s t := by
  intro a
  simp only [hscratch, hcim, hscales, hstack, hcache, and_self]

/-! ### Operations that change the error block alone -/

/-- From `s` to `t` only the error block and the interrupt counts of the CXL block change, as at a fault record (R546, R552). -/
def ErrOnly (s t : State) : Prop := ∃ e x, t = { s with err := e, cxl := x }

theorem ErrOnly.refl (s : State) : ErrOnly s s := ⟨s.err, s.cxl, rfl⟩

theorem ErrOnly.recordNext {s t : State} (h : ErrOnly s t) (e : FaultEv) : ErrOnly s (recordNext t e) := by
  obtain ⟨_, _, rfl⟩ := h
  exact ⟨_, _, recordAt_eq _ _ e⟩

theorem ErrOnly.modErr {s t : State} (h : ErrOnly s t) (f : Err → Err) : ErrOnly s (t.modErr f) := by
  obtain ⟨_, _, rfl⟩ := h
  exact ⟨_, _, rfl⟩

theorem ErrOnly.core {s t : State} (h : ErrOnly s t) (c : Nat) : t.core c = s.core c := by
  obtain ⟨_, _, rfl⟩ := h
  rfl

theorem ErrOnly.macro1 {s t : State} (h : ErrOnly s t) (m : Nat) : t.macro1 m = s.macro1 m := by
  obtain ⟨_, _, rfl⟩ := h
  rfl

theorem ErrOnly.sameBytes {s t : State} (h : ErrOnly s t) : SameBytes s t := by
  obtain ⟨_, _, rfl⟩ := h
  exact sameBytes_of_eq rfl rfl rfl rfl rfl

/-! ### Advisories (R348) -/

/-- Advisories for any number of contexts change the contexts alone. -/
theorem foldl_giveAdvisory_eq {α : Type} (c : α → Nat) (w : BitVec 192) (l : List α) (s : State) :
    ∃ cs, l.foldl (fun s a => giveAdvisory s (c a) w) s = { s with ctxs := cs } := by
  induction l generalizing s with
  | nil => exact ⟨s.ctxs, rfl⟩
  | cons a l ih =>
    obtain ⟨cs, h⟩ := ih (giveAdvisory s (c a) w)
    exact ⟨cs, h⟩

/-! ### Accesses to pages (R185) -/

/-- An access to pages whose entries agree with their complements goes on. -/
theorem onPages_of_ok {s : State} {gs : List Nat} (f : State → State) (h : ∀ g ∈ gs, (s.page g).ok = true) :
    onPages s gs f = f s := by
  have hnone : (gs.find? fun g => !(s.page g).ok) = none := by
    simpa [List.find?_eq_none] using h
  simp only [onPages, hnone]

end Sys2Proof.Machine
end

section
/-! SUPPORT. Scrub reads (R90, R94). -/

namespace Sys2Proof.Machine

/-- The parity log of a core after one more parity error: counted, and kept as the first one where the log holds none (R94). -/
def ParityLog.hit (l : ParityLog) (m row quarter : Nat) (scale : Bool) : ParityLog :=
  if l.valid then { l with parity := satAdd l.parity 1 }
  else { l with parity := satAdd l.parity 1, macroIx := BitVec.ofNat 10 m, row := BitVec.ofNat 8 row,
                quarter := BitVec.ofNat 2 quarter, scale := scale, guard := false, valid := true }

/-- What a parity error leaves in its macro and in the log of its core. -/
def markParity (s : State) (m row quarter : Nat) (scale : Bool) : State :=
  (s.modMacro m fun x => { x.suspectAs .parity (s.tick + 1) with parityHit := true }).modCore (m / 1024)
    fun k => { k with par := k.par.hit m row quarter scale }

@[simp] theorem ParityLog.hit_parity (l : ParityLog) (m row quarter : Nat) (scale : Bool) :
    (l.hit m row quarter scale).parity = satAdd l.parity 1 := by
  unfold ParityLog.hit; split <;> rfl

@[simp] theorem ParityLog.hit_valid (l : ParityLog) (m row quarter : Nat) (scale : Bool) :
    (l.hit m row quarter scale).valid = true := by
  unfold ParityLog.hit
  split
  · next h => exact h
  · rfl

/-- An empty log takes macro and row. -/
theorem ParityLog.hit_first {l : ParityLog} (h : l.valid = false) (m row quarter : Nat) (scale : Bool) :
    l.hit m row quarter scale = ⟨BitVec.ofNat 10 m, BitVec.ofNat 8 row, BitVec.ofNat 2 quarter, scale, false, true,
      satAdd l.parity 1, l.guardN⟩ := by
  simp [ParityLog.hit, h]

@[simp] theorem MacroSt.suspectAs_isSome (x : MacroSt) (k : AdvKind) (t : Nat) : (x.suspectAs k t).suspect.isSome = true := by
  unfold MacroSt.suspectAs
  split
  · next h => simp [h]
  · rfl

/-- A parity error changes its macro, the log of its core, and the error block. -/
theorem parityError_errOnly (s : State) (m row quarter : Nat) (scale : Bool) :
    ErrOnly (markParity s m row quarter scale) (parityError s m row quarter scale) := by
  have hlogged : (s.modMacro m fun x => { x.suspectAs .parity (s.tick + 1) with parityHit := true }).modCore (m / 1024)
      (fun k => { k with par :=
        let l := { k.par with parity := satAdd k.par.parity 1 }
        if (s.core (m / 1024)).par.valid then l
        else { l with macroIx := BitVec.ofNat 10 m, row := BitVec.ofNat 8 row, quarter := BitVec.ofNat 2 quarter,
                      scale := scale, guard := false, valid := true } }) = markParity s m row quarter scale := rfl
  unfold parityError
  dsimp only at hlogged ⊢
  rw [hlogged]
  have hrec (e : FaultEv) : ErrOnly (markParity s m row quarter scale)
      (if (s.core (m / 1024)).par.valid = true then markParity s m row quarter scale
       else recordNext (markParity s m row quarter scale) e) := by
    split
    · exact .refl _
    · exact (ErrOnly.refl _).recordNext e
  generalize hlog : (if (s.core (m / 1024)).par.valid = true then markParity s m row quarter scale else recordNext _ _) = t
  have ht : ErrOnly (markParity s m row quarter scale) t := hlog ▸ hrec _
  split
  · exact ht
  · split
    · exact (ht.modErr _).recordNext _
    · exact ht

theorem markParity_macro1 (s : State) (m row quarter : Nat) (scale : Bool) (x : Nat) :
    (markParity s m row quarter scale).macro1 x =
      if x = m then { (s.macro1 m).suspectAs .parity (s.tick + 1) with parityHit := true } else s.macro1 x := by
  simp [markParity]

theorem markParity_core (s : State) (m row quarter : Nat) (scale : Bool) (x : Nat) :
    (markParity s m row quarter scale).core x =
      if x = m / 1024 then { s.core (m / 1024) with par := (s.core (m / 1024)).par.hit m row quarter scale } else s.core x :=
  State.modCore_core _ _ _ _

/-- A scrub read of a macro's row: nothing where its parity holds, one parity error where it does not. -/
theorem scrubAt_row {s : State} {n : Nat} (hrow : n % 257 < 256) :
    scrubAt s n = s ∧ rowDiff s (n / 257) (n % 257) = 0 ∨
    rowDiff s (n / 257) (n % 257) ≠ 0 ∧ ∃ quarter, scrubAt s n = parityError s (n / 257) (n % 257) quarter false := by
  unfold scrubAt
  dsimp only
  rw [if_neg (Nat.ne_of_lt hrow)]
  by_cases hd : rowDiff s (n / 257) (n % 257) = 0
  · exact .inl ⟨if_pos hd, hd⟩
  · exact .inr ⟨hd, _, if_neg hd⟩

/-- A scrub read takes the head of the group's order off it. -/
theorem scrubRead_head {s : State} {g n : Nat} {rest : List Nat} (hon : s.pwr.on.getLsbD (2 + g) = true)
    (hhead : (s.group g).rescrub = n :: rest) (hloaded : (s.macro1 (n / 257)).loaded = true) :
    scrubRead s g = scrubAt (s.modGroup g fun y => { y with rescrub := rest }) n := by
  simp only [scrubRead, hon, hhead]
  exact if_pos hloaded

end Sys2Proof.Machine
end

section
/-! SUPPORT. Rows written from a source copy, and reload windows (R81, R95). -/

namespace Sys2Proof.Machine

/-! ### Bytes written 64 at a time -/

/-- Bytes of a list of values, read where the list was written 64 values at a time: the next write adds its 64. -/
theorem bget_bwrite_next {mem base : List Host.Cell} {b n : Nat} {vs : List Nat} (hlen : 64 * (n + 1) ≤ vs.length)
    (h : ∀ x, bget mem x = if b ≤ x ∧ x < b + 64 * n then BitVec.ofNat 8 (vs.getD (x - b) 0) else bget base x) (x : Nat) :
    bget (bwrite mem (b + 64 * n) (((vs.drop (64 * n)).take 64).map (BitVec.ofNat 8))) x =
      if b ≤ x ∧ x < b + 64 * (n + 1) then BitVec.ofNat 8 (vs.getD (x - b) 0) else bget base x := by
  have hslice : (((vs.drop (64 * n)).take 64).map (BitVec.ofNat 8)).length = 64 := by
    rw [List.length_map, List.length_take, List.length_drop]; omega
  rw [bget_bwrite, hslice]
  by_cases hin : b + 64 * n ≤ x ∧ x < b + 64 * n + 64
  · rw [if_pos hin, if_pos (by omega)]
    obtain ⟨i, rfl⟩ := Nat.exists_eq_add_of_le hin.1
    have hi : i < 64 := by omega
    have hsub : b + 64 * n + i - b = 64 * n + i := by omega
    have hbound : 64 * n + i < vs.length := by omega
    simp [hsub, List.getD, hi, hbound]
  · rw [if_neg hin, h]
    exact if_congr (by omega) rfl rfl

/-! ### Rows of a macro -/

/-- The first `n` rows of a macro written from an image and its scale codes, GUARD off. -/
def fillRows (s : State) (m : Nat) (mode : WMode) (image codes : List Nat) (n : Nat) : State :=
  (List.range n).foldl (fun s r => writeRow s m r mode false ((image.drop (64 * r)).take 64) (some codes) s.tick) s

/-- A row write changes cells, scale codes, their parity, and the macro's record. -/
theorem writeRow_eq (s : State) (m r : Nat) (mode : WMode) (guard : Bool) (row : List Nat) (scl : Option (List Nat)) (tick : Nat) :
    ∃ cim par sc spar, writeRow s m r mode guard row scl tick =
      { s with cim := cim, parity := par, scales := sc, scaleParity := spar }.modMacro m
        fun x => { x with rows := x.rows ||| (1#256 <<< r), lastWrite := tick } := by
  unfold writeRow
  dsimp only
  split
  · split
    · exact ⟨_, _, _, _, rfl⟩
    · exact ⟨_, _, _, _, rfl⟩
  · exact ⟨_, _, _, _, rfl⟩

theorem writeRow_macro1 (s : State) (m r : Nat) (mode : WMode) (guard : Bool) (row : List Nat) (scl : Option (List Nat))
    (tick x : Nat) : (writeRow s m r mode guard row scl tick).macro1 x =
      if x = m then { s.macro1 m with rows := (s.macro1 m).rows ||| (1#256 <<< r), lastWrite := tick } else s.macro1 x := by
  obtain ⟨_, _, _, _, h⟩ := writeRow_eq s m r mode guard row scl tick
  rw [h, State.modMacro_macro1]
  rfl

theorem writeRow_cim (s : State) (m r : Nat) (mode : WMode) (row : List Nat) (scl : Option (List Nat)) (tick : Nat) :
    (writeRow s m r mode false row scl tick).cim = bwrite s.cim (16384 * m + 64 * r) (row.map (BitVec.ofNat 8)) := by
  unfold writeRow
  dsimp only
  split
  · split <;> rfl
  · rfl

theorem writeRow_scales (s : State) (m r : Nat) (mode : WMode) (guard : Bool) (row codes : List Nat) (tick : Nat) :
    (writeRow s m r mode guard row (some codes) tick).scales =
      if r < 4 then bwrite s.scales (256 * m + 64 * r) (((codes.drop (64 * r)).take 64).map (BitVec.ofNat 8)) else s.scales := by
  unfold writeRow
  dsimp only
  split <;> rfl

theorem fillRows_succ (s : State) (m : Nat) (mode : WMode) (image codes : List Nat) (n : Nat) :
    fillRows s m mode image codes (n + 1) = writeRow (fillRows s m mode image codes n) m n mode false
      ((image.drop (64 * n)).take 64) (some codes) (fillRows s m mode image codes n).tick := by
  simp only [fillRows, List.range_succ, List.foldl_append, List.foldl_cons, List.foldl_nil]

/-- Writing rows changes cells, scale codes, their parity, and the macros' records. -/
theorem fillRows_eq (s : State) (m : Nat) (mode : WMode) (image codes : List Nat) (n : Nat) :
    ∃ cim par sc spar ms, fillRows s m mode image codes n =
      { s with cim := cim, parity := par, scales := sc, scaleParity := spar, macros := ms } := by
  induction n with
  | zero => exact ⟨_, _, _, _, _, rfl⟩
  | succ n ih =>
    obtain ⟨_, _, _, _, _, h⟩ := ih
    obtain ⟨_, _, _, _, hrow⟩ := writeRow_eq (fillRows s m mode image codes n) m n mode false
      ((image.drop (64 * n)).take 64) (some codes) (fillRows s m mode image codes n).tick
    rw [fillRows_succ, hrow, h]
    exact ⟨_, _, _, _, _, rfl⟩

theorem fillRows_macro1_ne (s : State) {m x : Nat} (mode : WMode) (image codes : List Nat) (n : Nat) (hx : x ≠ m) :
    (fillRows s m mode image codes n).macro1 x = s.macro1 x := by
  induction n with
  | zero => rfl
  | succ n ih => rw [fillRows_succ, writeRow_macro1, if_neg hx, ih]

/-- Writing its rows leaves whether a macro is suspect. -/
theorem fillRows_suspect (s : State) (m : Nat) (mode : WMode) (image codes : List Nat) (n : Nat) :
    ((fillRows s m mode image codes n).macro1 m).suspect = (s.macro1 m).suspect := by
  induction n with
  | zero => rfl
  | succ n ih => rw [fillRows_succ, writeRow_macro1, if_pos rfl, ih]

theorem bget_fillRows_cim (s : State) (m : Nat) (mode : WMode) {image : List Nat} (codes : List Nat) (n : Nat)
    (hlen : 64 * n ≤ image.length) (x : Nat) :
    bget (fillRows s m mode image codes n).cim x =
      if 16384 * m ≤ x ∧ x < 16384 * m + 64 * n then BitVec.ofNat 8 (image.getD (x - 16384 * m) 0) else bget s.cim x := by
  induction n generalizing x with
  | zero => rw [if_neg (by omega)]; rfl
  | succ n ih =>
    rw [fillRows_succ, writeRow_cim]
    exact bget_bwrite_next hlen (ih (by omega)) x

/-- Rows 0 to 3 bring a quarter of the scale codes each, the other rows none (R89). -/
theorem bget_fillRows_scales (s : State) (m : Nat) (mode : WMode) (image : List Nat) {codes : List Nat} (n : Nat)
    (hlen : 256 ≤ codes.length) (x : Nat) :
    bget (fillRows s m mode image codes n).scales x =
      if 256 * m ≤ x ∧ x < 256 * m + 64 * min n 4 then BitVec.ofNat 8 (codes.getD (x - 256 * m) 0) else bget s.scales x := by
  induction n generalizing x with
  | zero => rw [if_neg (by omega)]; rfl
  | succ n ih =>
    rw [fillRows_succ, writeRow_scales]
    by_cases hn : n < 4
    · rw [Nat.min_eq_left (by omega)] at ih ⊢
      rw [if_pos hn]
      exact bget_bwrite_next (by omega) ih x
    · rw [if_neg hn, ih, Nat.min_eq_right (by omega), Nat.min_eq_right (by omega)]

/-- Bytes read from a memory as values, byte `i` of them. -/
theorem ofNat_getD_bread {mem : List Host.Cell} {a n i : Nat} (h : i < n) :
    BitVec.ofNat 8 (((bread mem a n).map (·.toNat)).getD i 0) = bget mem (a + i) := by
  simp [bread, List.getD, h]

/-! ### The reload of a macro -/

/-- A macro filled from its source with no burst delivered as received: all its rows, and nothing suspect from them. -/
theorem fillMacro_clean (s : State) (m : Nat) (mode : WMode) (src : MacroSrc) :
    fillMacro s m mode false src [] =
      fillRows s m mode ((bread s.stack src.image 16384).map (·.toNat)) ((bread s.stack src.scale 256).map (·.toNat)) 256 :=
  rfl

/-- The record of a macro whose reload begins: no longer suspect (R95). -/
def MacroSt.mended (x : MacroSt) (sweep : Nat) : MacroSt :=
  { x with suspect := none, parityHit := false, reloadSweep := if x.parityHit then some sweep else x.reloadSweep }

/-- The reload of a macro with a recorded source, GUARD off. -/
theorem reloadMacro_of_src {s : State} {p m : Nat} {src : MacroSrc} {mode : WMode} (hsrc : (s.macro1 m).src = some src)
    (hmode : (s.macro1 m).mode = some mode) (hguard : (s.part p).integ.guardOn = false) :
    reloadMacro s p m [] = fillMacro (s.modMacro m fun x => x.mended (s.group (m / 81920)).sweep) m mode false src [] := by
  simp only [reloadMacro, hsrc, hmode, State.modMacro_part, hguard]
  rfl

section Reload

variable {s : State} {p m : Nat} {src : MacroSrc} {mode : WMode}
variable (hsrc : (s.macro1 m).src = some src) (hmode : (s.macro1 m).mode = some mode) (hguard : (s.part p).integ.guardOn = false)
include hsrc hmode hguard

/-- Such a reload writes the rows and scale codes of the source. -/
theorem reloadMacro_fillRows : reloadMacro s p m [] =
    fillRows (s.modMacro m fun x => x.mended (s.group (m / 81920)).sweep) m mode
      ((bread s.stack src.image 16384).map (·.toNat)) ((bread s.stack src.scale 256).map (·.toNat)) 256 := by
  rw [reloadMacro_of_src hsrc hmode hguard]
  exact fillMacro_clean _ m mode src

/-- It leaves partitions, time, stacks and scratchpads. -/
theorem reloadMacro_frame : (reloadMacro s p m []).parts = s.parts ∧ (reloadMacro s p m []).gov = s.gov ∧
    (reloadMacro s p m []).stack = s.stack ∧ (reloadMacro s p m []).scratch = s.scratch := by
  rw [reloadMacro_fillRows hsrc hmode hguard]
  obtain ⟨_, _, _, _, _, h⟩ := fillRows_eq (s.modMacro m fun x => x.mended (s.group (m / 81920)).sweep) m mode
    ((bread s.stack src.image 16384).map (·.toNat)) ((bread s.stack src.scale 256).map (·.toNat)) 256
  rw [h]
  exact ⟨rfl, rfl, rfl, rfl⟩

theorem bget_reloadMacro_cim (a : Nat) : bget (reloadMacro s p m []).cim a =
    if 16384 * m ≤ a ∧ a < 16384 * (m + 1) then bget s.stack (src.image + (a - 16384 * m)) else bget s.cim a := by
  rw [reloadMacro_fillRows hsrc hmode hguard, bget_fillRows_cim _ _ _ _ _ (by simp [bread])]
  exact ite_congr (by simp only [eq_iff_iff]; omega) (fun h => ofNat_getD_bread (by omega)) fun _ => rfl

theorem bget_reloadMacro_scales (a : Nat) : bget (reloadMacro s p m []).scales a =
    if 256 * m ≤ a ∧ a < 256 * (m + 1) then bget s.stack (src.scale + (a - 256 * m)) else bget s.scales a := by
  rw [reloadMacro_fillRows hsrc hmode hguard, bget_fillRows_scales _ _ _ _ _ (by simp [bread])]
  exact ite_congr (by simp only [eq_iff_iff]; omega) (fun h => ofNat_getD_bread (by omega)) fun _ => rfl

theorem reloadMacro_suspect : ((reloadMacro s p m []).macro1 m).suspect = none := by
  rw [reloadMacro_fillRows hsrc hmode hguard, fillRows_suspect, State.modMacro_macro1, if_pos rfl]
  rfl

theorem reloadMacro_macro1_ne {x : Nat} (hx : x ≠ m) : (reloadMacro s p m []).macro1 x = s.macro1 x := by
  rw [reloadMacro_fillRows hsrc hmode hguard, fillRows_macro1_ne _ _ _ _ _ hx, State.modMacro_macro1, if_neg hx]

end Reload

/-! ### The window -/

/-- The state in which a window of 64 ticks writes its macros: time has passed, the governor's figures are as given. -/
def windowEnd (s : State) (gps : SMap GovPart) : State :=
  { s with gov := { s.gov with parts := gps, now := 32 * (s.gov.now / 32 + 64) } }

/-- The charge of a window's row writes changes the governor's figures alone; 64 ticks pass (R95). -/
theorem chargeReloads_advance (s : State) (p : Nat) (ms : List Nat) :
    ∃ gps, (chargeReloads s p ms).advance (32 * ((chargeReloads s p ms).tick + 64)) = windowEnd s gps := by
  have hmax : max s.gov.now (32 * (s.gov.now / 32 + 64)) = 32 * (s.gov.now / 32 + 64) := by omega
  exact ⟨(chargeReloads s p ms).gov.parts, congrArg (fun n => { windowEnd s _ with gov.now := n }) hmax⟩

/-- What follows the reload of a partition without a job changes contexts and partitions alone. -/
theorem endPause_suspectAdvisory_eq {s : State} {p : Nat} (m : Nat) (k : AdvKind) (lastWrite : Nat) (hidle : (s.part p).running = none) :
    ∃ cs ps, endPause (suspectAdvisory s p m k lastWrite) p = { s with ctxs := cs, parts := ps } := by
  obtain ⟨cs, hadv⟩ : ∃ cs, suspectAdvisory s p m k lastWrite = { s with ctxs := cs } := foldl_giveAdvisory_eq id _ _ s
  rw [hadv]
  generalize ht : ({ s with ctxs := cs } : State) = t
  have hidle' : (t.part p).running = none := by rw [← ht]; exact hidle
  unfold endPause
  simp only [hidle']
  split
  · contradiction
  · split
    · exact ⟨cs, t.parts, by rw [← ht]⟩
    · exact ⟨cs, _, by rw [← ht]; rfl⟩
  · exact ⟨cs, t.parts, by rw [← ht]⟩

/-- A reload window without a job for one suspect macro, GUARD off: 64 ticks pass, the macro is reloaded, and beside that only the
governor's figures, contexts and partitions change. -/
theorem reloadWindow_one {s : State} {p m : Nat} {src : MacroSrc} {mode : WMode} (hst : (s.part p).st ≠ 0)
    (hidle : (s.part p).running = none) (hsus : suspects s p = [m]) (hsrc : (s.macro1 m).src = some src)
    (hmode : (s.macro1 m).mode = some mode) (hguard : (s.part p).integ.guardOn = false) (hpages : PagesOk s) :
    ∃ gps cs ps, reloadWindow s p [] = { reloadMacro (windowEnd s gps) p m [] with ctxs := cs, parts := ps } := by
  obtain ⟨gps, hend⟩ := chargeReloads_advance s p [m]
  have hms : windowMacros (suspects s p) = [m] := by rw [hsus]; rfl
  have hgoes : ¬((s.part p).st = 0 ∨ [m] = [] ∨ ((s.part p).running.isSome ∧ (s.part p).pauseFrom.isNone)) := by
    rintro (h | h | ⟨h, -⟩)
    · exact hst h
    · contradiction
    · rw [hidle] at h; contradiction
  obtain ⟨hparts, -⟩ := reloadMacro_frame (s := windowEnd s gps) hsrc hmode hguard
  obtain ⟨cs, ps, hafter⟩ := endPause_suspectAdvisory_eq (s := reloadMacro (windowEnd s gps) p m []) (p := p) m
    ((s.macro1 m).suspect.getD .parity) (s.macro1 m).lastWrite (by unfold State.part; rw [hparts]; exact hidle)
  refine ⟨gps, cs, ps, Eq.trans ?_ hafter⟩
  unfold reloadWindow
  dsimp only
  rw [hms, if_neg hgoes, onPages_of_ok _ fun g _ => hpages g, ← hend]
  rfl

end Sys2Proof.Machine
end

section
/-! PROOFS. O7: parity errors (R90, R94, R95). -/

namespace Sys2Proof.Machine

/-- A scrub read of a row whose parity holds moves the group on in its order, and does nothing else. -/
theorem scrubRead_rowHolds {s : State} {g n : Nat} {rest : List Nat} (hon : s.pwr.on.getLsbD (2 + g) = true)
    (hhead : (s.group g).rescrub = n :: rest) (hloaded : (s.macro1 (n / 257)).loaded = true) (hrow : n % 257 < 256)
    (hholds : rowDiff s (n / 257) (n % 257) = 0) :
    scrubRead s g = s.modGroup g fun y => { y with rescrub := rest } := by
  rw [scrubRead_head hon hhead hloaded]
  obtain ⟨h, -⟩ | ⟨hfails, -⟩ := scrubAt_row (s := s.modGroup g fun y => { y with rescrub := rest }) hrow
  · exact h
  · exact absurd hholds hfails

/-- A scrub read of a row whose parity fails marks its macro and the log of its core. -/
theorem scrubRead_rowFails {s : State} {g n : Nat} {rest : List Nat} (hon : s.pwr.on.getLsbD (2 + g) = true)
    (hhead : (s.group g).rescrub = n :: rest) (hloaded : (s.macro1 (n / 257)).loaded = true) (hrow : n % 257 < 256)
    (hfails : rowDiff s (n / 257) (n % 257) ≠ 0) :
    ∃ quarter, ErrOnly (markParity (s.modGroup g fun y => { y with rescrub := rest }) (n / 257) (n % 257) quarter false)
      (scrubRead s g) := by
  rw [scrubRead_head hon hhead hloaded]
  obtain ⟨-, hholds⟩ | ⟨-, quarter, h⟩ := scrubAt_row (s := s.modGroup g fun y => { y with rescrub := rest }) hrow
  · exact absurd hholds hfails
  · exact ⟨quarter, h ▸ parityError_errOnly _ _ _ _ _⟩

end Sys2Proof.Machine

namespace Sys2Proof.Proofs
open Sys2Proof Sys2Proof.Machine

/-- Settles O7: a scrub read that fails is `markParity` beside the error block, and the rows that a window writes are those of
`fillRows`, which reads the source copy. -/
theorem parityErrorsAreFoundAndReloaded : Obligations.ParityErrorsAreFoundAndReloaded := by
  unfold Obligations.ParityErrorsAreFoundAndReloaded
  refine ⟨fun s g n rest hon hhead hloaded hrow => ⟨fun hholds => ?_, fun hfails => ?_⟩,
    fun s p m src mode hst hidle hsus hsrc hmode hguard hpages => ?_⟩
  · refine ⟨scrubRead s g, rfl, ?_⟩
    rw [scrubRead_rowHolds hon hhead hloaded hrow hholds]
    exact ⟨rfl, State.modGroup_group s g _⟩
  · obtain ⟨quarter, h⟩ := scrubRead_rowFails hon hhead hloaded hrow hfails
    refine ⟨scrubRead s g, rfl, ?_, fun x hx => ?_, fun x hx => ?_, ?_, ?_, fun hempty => ?_, fun a => h.sameBytes a⟩
    · simp [h.macro1, markParity_macro1]
    · simp [h.macro1, markParity_macro1, hx]
    · simp [h.core, markParity_core, hx]
    · simp [h.core, markParity_core]
    · simp [h.core, markParity_core]
    · simp [h.core, markParity_core, ParityLog.hit_first hempty]
  · obtain ⟨gps, cs, ps, h⟩ := reloadWindow_one hst hidle hsus hsrc hmode hguard hpages
    obtain ⟨-, hgov, hstack, hscratch⟩ := reloadMacro_frame (s := windowEnd s gps) hsrc hmode hguard
    have hcim := bget_reloadMacro_cim (s := windowEnd s gps) hsrc hmode hguard
    have hscales := bget_reloadMacro_scales (s := windowEnd s gps) hsrc hmode hguard
    refine ⟨reloadWindow s p [], rfl, ?_⟩
    rw [h]
    refine ⟨congrArg Gov.now hgov, fun i hi => ?_, fun i hi => ?_, fun a ha => ?_, fun a ha => ?_,
      reloadMacro_suspect (s := windowEnd s gps) hsrc hmode hguard,
      fun x hx => reloadMacro_macro1_ne (s := windowEnd s gps) hsrc hmode hguard hx,
      hstack, hscratch⟩
    · refine (hcim _).trans ?_
      rw [if_pos (by omega), Nat.add_sub_cancel_left]
      rfl
    · refine (hscales _).trans ?_
      rw [if_pos (by omega), Nat.add_sub_cancel_left]
      rfl
    · exact (hcim a).trans (if_neg (by omega))
    · exact (hscales a).trans (if_neg (by omega))

end Sys2Proof.Proofs
end

section
/-! SUPPORT. Writes to the registers of a partition (R562, R570). -/

namespace Sys2Proof.Machine

/-- The registers of partition p stand at 0x200000 + 0x1000 p (Table 19-1). -/
theorem regValue_ptnOff (s : State) {p r : Nat} (hp : p < 8) (hr : r < 0x1000) : regValue s (ptnOff p r) = ptnReg s p r := by
  have hpart : (ptnOff p r - 0x200000) / 0x1000 = p := by unfold ptnOff; omega
  have hoff : ptnOff p r % 0x1000 = r := by unfold ptnOff; omega
  have hlo : 0x200000 ≤ ptnOff p r := by unfold ptnOff; omega
  have hhi : ptnOff p r < 0x208000 := by unfold ptnOff; omega
  unfold regValue
  rw [if_neg (by omega), if_neg (by omega), if_neg (by omega), if_neg (by omega), if_neg (by omega), if_neg (by omega),
    if_pos ⟨hlo, hhi⟩, hpart, hoff]

/-- In READY, PF0 may write every register of a partition that stands in the map (R570). -/
theorem refusal_ptnOff {s : State} {p r : Nat} (hready : s.sys.state = 1) (hp : p < 8) (hr : r < 0x1000)
    (hreg : (ptnReg s p r).isSome = true) : refusal s .pf0 (ptnOff p r) true = none := by
  have hlo : 0x200000 ≤ ptnOff p r := by unfold ptnOff; omega
  have hhi : ptnOff p r < 0x208000 := by unfold ptnOff; omega
  have hmapped : mapped s .pf0 (ptnOff p r) = true := by
    simp [mapped, hready, regValue_ptnOff s hp hr, hreg]
  have horigin : originMay .pf0 (ptnOff p r) true = true := by
    have hwindow : ¬ptnOff p r = 0x18 := by omega
    have hmgmt : ¬ptnOff p r < 0x4000 := by omega
    simp [originMay, inMgmt, hwindow, hmgmt]
  simp [refusal, hmapped, horigin, stateMay, hready]

/-- In READY, a write of PF0 to such a register takes its effect. -/
theorem gate_ptnOff {s : State} {p r : Nat} (f : State → State) (hready : s.sys.state = 1) (hp : p < 8) (hr : r < 0x1000)
    (hreg : (ptnReg s p r).isSome = true) : gate s .pf0 (ptnOff p r) f = f s := by
  simp [gate, reaches, hready, refusal_ptnOff hready hp hr hreg]

end Sys2Proof.Machine
end

section
/-! SUPPORT. Audit passes (R105, R108). -/

namespace Sys2Proof.Machine

/-- A stop mark changes the partitions' marks alone: integrity stays. -/
@[simp] theorem markStop_integ (s : State) (p : Nat) (st : Status) (x : Nat) :
    ((markStop s p st).part x).integ = (s.part x).integ := by
  unfold markStop
  rw [State.modPart_part]
  split
  · next h =>
    subst h
    split
    · rfl
    · rfl
    · split <;> rfl
  · rfl

/-- A page of a base without a layout is compared with its leaf: one that agrees changes nothing. -/
theorem auditPage_agrees {s : State} {p g : Nat} {leaf : BitVec 256} (hok : (s.page g).ok = true) (hlayout : (s.part p).layout = [])
    (hagree : Config.sha256 (bread s.stack (g * 65536) 65536) = leaf) : auditPage s p g leaf = s := by
  unfold auditPage
  rw [onPages_of_ok _ (by simpa using hok)]
  simp [hlayout, auditScrub, hagree]

/-- A partition whose job is marked to stop for a damaged source page, with the page's record (R108). -/
def sourceRecorded (s : State) (p g : Nat) : State :=
  auditRecord (markStop s p St.integrityFault) p g 0x05 St.integrityFault

theorem sourceRecorded_errOnly (s : State) (p g : Nat) : ErrOnly (markStop s p St.integrityFault) (sourceRecorded s p g) :=
  (ErrOnly.refl _).recordNext _

/-- One that differs refuses further jobs (R108); the stop mark, the record and the advisories beside that change neither bytes nor
time. -/
theorem auditPage_differs {s : State} {p g : Nat} {leaf : BitVec 256} (hok : (s.page g).ok = true) (hlayout : (s.part p).layout = [])
    (hdiffer : Config.sha256 (bread s.stack (g * 65536) 65536) ≠ leaf) :
    ((auditPage s p g leaf).part p).integ = { (s.part p).integ with srcMis := true, refused := true } ∧
    (auditPage s p g leaf).gov = s.gov ∧ SameBytes s (auditPage s p g leaf) := by
  unfold auditPage
  rw [onPages_of_ok _ (by simpa using hok)]
  simp only [hlayout, List.filter_nil, auditScrub, List.foldl_nil, if_neg hdiffer, true_or, if_true]
  rw [← sourceRecorded]
  obtain ⟨_, _, hrec⟩ := sourceRecorded_errOnly s p g
  obtain ⟨_, hadv⟩ := foldl_giveAdvisory_eq id
    (advisoryWord AdvKind.source.code 0 0 (BitVec.ofNat 64 (s.part p).integ.loadDone) (sourceRecorded s p g).tick64)
    (contextsOf (sourceRecorded s p g) p) (sourceRecorded s p g)
  simp only [id] at hadv
  rw [hadv, hrec]
  refine ⟨?_, rfl, sameBytes_of_eq rfl rfl rfl rfl rfl⟩
  rw [State.modPart_part, if_pos rfl, ← markStop_integ s p St.integrityFault p]
  rfl

/-- A partition whose pass begins. -/
def beginPass (s : State) (p : Nat) : State :=
  s.modPart p fun q => { q with integ := { q.integ with
    auditBusy := true, passStart := s.tick
    lastPass := if (s.part p).integ.auditBusy then some (s.part p).integ.passStart else (s.part p).integ.lastPass } }

/-- A pass over a base of one page audits that page. -/
theorem auditPass_onePage {s : State} {p g : Nat} {leaf : BitVec 256} (hbusy : auditBusy s p = false) (hst : (s.part p).st ≠ 0)
    (hpages : (s.part p).basePages = [g]) (hleaves : (s.part p).baseLeaves = [leaf]) :
    auditPass s p = auditPage (beginPass s p) p g leaf := by
  unfold auditPass
  rw [if_neg (by simpa [hbusy, hpages] using hst)]
  have hq : ((beginPass s p).part p).basePages.zip ((beginPass s p).part p).baseLeaves = [(g, leaf)] := by
    simp [beginPass, hpages, hleaves]
  exact congrArg (List.foldl (fun s x => auditPage s p x.1 x.2) (beginPass s p)) hq

/-- What a pass over a base of one page, without a layout, leaves (R105, R108). -/
theorem auditPass_effect {s : State} {p g : Nat} {leaf : BitVec 256} (hbusy : auditBusy s p = false) (hst : (s.part p).st ≠ 0)
    (hpages : (s.part p).basePages = [g]) (hleaves : (s.part p).baseLeaves = [leaf]) (hlayout : (s.part p).layout = [])
    (hok : (s.page g).ok = true) :
    (auditPass s p).gov = s.gov ∧ SameBytes s (auditPass s p) ∧ ((auditPass s p).part p).integ.auditBusy = true ∧
    ((auditPass s p).part p).integ.passStart = s.tick ∧
    if Config.sha256 (bread s.stack (g * 65536) 65536) = leaf then
      ((auditPass s p).part p).integ.refused = (s.part p).integ.refused ∧
        ((auditPass s p).part p).integ.srcMis = (s.part p).integ.srcMis
    else ((auditPass s p).part p).integ.refused = true ∧ ((auditPass s p).part p).integ.srcMis = true := by
  have hlayout' : ((beginPass s p).part p).layout = [] := by simp [beginPass, hlayout]
  rw [auditPass_onePage hbusy hst hpages hleaves]
  by_cases hsha : Config.sha256 (bread s.stack (g * 65536) 65536) = leaf
  · rw [auditPage_agrees (s := beginPass s p) hok hlayout' hsha, if_pos hsha]
    refine ⟨rfl, sameBytes_of_eq rfl rfl rfl rfl rfl, ?_⟩
    simp [beginPass]
  · obtain ⟨hinteg, hgov, hbytes⟩ := auditPage_differs (s := beginPass s p) hok hlayout' hsha
    rw [if_neg hsha, hinteg]
    refine ⟨hgov, hbytes, ?_⟩
    simp [beginPass]

/-- As time goes on, a pass that has ended stays ended. -/
theorem auditBusy_advance {s : State} {p : Nat} (h : auditBusy s p = false) (n : Nat) : auditBusy (s.advance n) p = false := by
  have hmono : s.tick ≤ (s.advance n).tick := Nat.div_le_div_right (Nat.le_max_left _ _)
  unfold auditBusy at h ⊢
  rw [State.advance_part]
  rw [Bool.and_eq_false_imp] at h ⊢
  exact fun hb => decide_eq_false fun hlt => of_decide_eq_false (h hb) (hmono.trans_lt hlt)

end Sys2Proof.Machine
end

section
/-! SUPPORT. Mint evaluations (R172, R173). -/

namespace Sys2Proof.Machine

/-- The Mint counters of a partition after one more sample. -/
def countSample (disagrees : Bool) (q : Part) : Part :=
  { q with mint := { q.mint with
    samples := satAdd q.mint.samples 1
    disagree := if disagrees then satAdd q.mint.disagree 1 else q.mint.disagree } }

/-- The actions of a core with the vector-engine cycles of the evaluation of a sample that ends now (R172). -/
def mintActs (s : State) (t : MintTile) (k : Core) : Core :=
  { k with acts := k.acts ++ [⟨0, .mint, 0, s.gov.now - (4 * ((t.xs.length + 255) / 256) + 35), s.gov.now⟩] }

/-- What an evaluation of a group's sample leaves beside the contexts: the buffer free, the core's actions and the counters. -/
def mintCounted (s : State) (g c p : Nat) (t : MintTile) (disagrees : Bool) : State :=
  ((s.modGroup g fun x => { x with mint := none }).modCore c (mintActs s t)).modPart p (countSample disagrees)

theorem mintCounted_group (s : State) (g c p : Nat) (t : MintTile) (disagrees : Bool) (x : Nat) :
    (mintCounted s g c p t disagrees).group x = if x = g then { s.group g with mint := none } else s.group x := by
  simp [mintCounted]

theorem mintCounted_core (s : State) (g c p : Nat) (t : MintTile) (disagrees : Bool) (x : Nat) :
    (mintCounted s g c p t disagrees).core x = if x = c then mintActs s t (s.core c) else s.core x := by
  simp [mintCounted]

theorem mintCounted_part (s : State) (g c p : Nat) (t : MintTile) (disagrees : Bool) (x : Nat) :
    (mintCounted s g c p t disagrees).part x = if x = p then countSample disagrees (s.part p) else s.part x := by
  simp [mintCounted]

/-- An evaluation releases the buffer, counts the sample and charges the core; the advisories of a disagreement change the contexts
alone (R174). -/
theorem mintEvaluation_eq {s : State} {g c p : Nat} {t : MintTile} {disagrees : Bool} (hmint : (s.group g).mint = some (c, t))
    (hpart : partOfGroup s g = some p)
    (hverdict : (mintDisagree t.xs t.ds (mintThreshold (s.part p).mint.threshOn t.fmt)).2.2 = disagrees) :
    ∃ cs, mintEvaluation s g = { mintCounted s g c p t disagrees with ctxs := cs } := by
  unfold mintEvaluation
  rw [hmint, hpart]
  dsimp only [State.modCore_part, State.modGroup_part]
  simp only [hverdict]
  cases disagrees with
  | false => exact ⟨s.ctxs, rfl⟩
  | true => exact foldl_giveAdvisory_eq BitVec.toNat _ t.owners (mintCounted s g c p t true)

end Sys2Proof.Machine
end

section
/-! PROOFS. O8: audits and Mint evaluations (R105, R108, R172, R173). -/

namespace Sys2Proof.Proofs
open Sys2Proof Sys2Proof.Machine

/-- Settles O8: START reaches the audit pass through the write of PTN_AUDIT, the end of the period through time alone; the page is
compared by `auditPass_effect`, and an evaluation is `mintEvaluation_eq`. -/
theorem auditsAndMintEvaluate : Obligations.AuditsAndMintEvaluate := by
  unfold Obligations.AuditsAndMintEvaluate
  refine ⟨fun s p g leaf hbusy hst hpages hleaves hlayout hok => ⟨fun hready => ?_, fun _ => ?_⟩, fun s g c p m hmint hpart => ?_⟩
  · have hwrite : gate s .pf0 (ptnOff p 0x208) (fun s => if s.parsley then s else auditPass s p) = auditPass s p := by
      rw [gate_ptnOff _ hready p.isLt (by decide) rfl]
      simp [State.parsley, hready]
    obtain ⟨hgov, hbytes, hb, hstart, hverdict⟩ := auditPass_effect hbusy hst hpages hleaves hlayout hok
    exact ⟨auditPass s p, congrArg Host.Outcome.next hwrite, hgov, hb, hstart, hbytes, hverdict⟩
  · obtain ⟨hgov, hbytes, -, hstart, hverdict⟩ := auditPass_effect
      (auditBusy_advance hbusy (32 * ((s.part p).integ.passStart + 60 * secondTicks * (s.part p).integ.auditMin.toNat)))
      hst hpages hleaves hlayout hok
    refine ⟨auditPeriodExpiry s p, rfl, hbytes, congrArg Gov.now hgov, hstart.trans (congrArg (·.now / 32) hgov.symm),
      fun hdiffer => ?_⟩
    exact ((if_neg hdiffer).mp hverdict).1
  · generalize hverdict : (mintDisagree m.xs m.ds (mintThreshold (s.part p).mint.threshOn m.fmt)).2.2 = disagrees
    obtain ⟨cs, h⟩ := mintEvaluation_eq hmint hpart hverdict
    have hcounted := (mintCounted_part s g c p m disagrees p).trans (if_pos rfl)
    have hcore := (mintCounted_core s g c p m disagrees c).trans (if_pos rfl)
    refine ⟨mintEvaluation s g, rfl, ?_⟩
    rw [h]
    refine ⟨rfl, fun x => ?_, mintCounted_group s g c p m disagrees,
      fun x hx => (mintCounted_part s g c p m disagrees x).trans (if_neg hx),
      congrArg (·.mint.samples) hcounted, congrArg (·.mint.skipped) hcounted, congrArg (·.mint.disagree) hcounted⟩
    refine (mintCounted_core s g c p m disagrees x).trans ?_
    split
    · exact congrArg (fun k => { s.core c with acts := k.acts }) hcore.symm
    · rfl

end Sys2Proof.Proofs
end

section
/-! SUPPORT. What every command keeps: the lemmas of the single commands, gathered. -/

namespace Sys2Proof.Machine

/-- Every command answers a next state, which keeps what its lemma says. -/
theorem exec_kept {r s : State} (i : Instr) (h : Kept r s) : ∃ t, exec i s = .next t ∧ Kept r t :=
  match i with
  | .nop _ => execNop_kept h
  | .endJob _ => execEndJob_kept h
  | .loop _ _ _ _ _ => execLoop_kept h
  | .tile _ _ _ _ => execTile_kept h
  | .budget _ _ _ _ => execBudget_kept h
  | .waitq _ _ _ => execWaitq_kept h
  | .dstep _ => execDstep_kept h
  | .sli _ _ _ => execSli_kept h
  | .sadd _ _ _ _ => execSadd_kept h
  | .saddi _ _ _ _ => execSaddi_kept h
  | .ssub _ _ _ _ => execSsub_kept h
  | .smul _ _ _ _ => execSmul_kept h
  | .sand _ _ _ _ => execSand_kept h
  | .sor _ _ _ _ => execSor_kept h
  | .sxor _ _ _ _ => execSxor_kept h
  | .sshl _ _ _ _ => execSshl_kept h
  | .sshr _ _ _ _ => execSshr_kept h
  | .smin _ _ _ _ => execSmin_kept h
  | .smax _ _ _ _ => execSmax_kept h
  | .sld _ _ _ _ => execSld_kept h
  | .sst _ _ _ _ => execSst_kept h
  | .sidx _ _ _ => execSidx_kept h
  | .sfeat _ _ _ => execSfeat_kept h
  | .reservedOpcode _ => execReservedOpcode_kept h
  | .cbuf _ _ _ => execCbuf_kept h
  | .cfwd _ _ _ => execCfwd_kept h
  | .ctrn _ _ _ => execCtrn_kept h
  | .cload _ _ _ => execCload_kept h
  | .amm _ _ _ => execAmm_kept h
  | .varith _ _ _ => execVarith_kept h
  | .vfunc _ _ _ => execVfunc_kept h
  | .vlogic _ _ _ => execVlogic_kept h
  | .vcvt _ _ _ => execVcvt_kept h
  | .vred _ _ _ => execVred_kept h
  | .vtopk _ _ _ => execVtopk_kept h
  | .vsplit _ _ _ => execVsplit_kept h
  | .vupd _ _ _ => execVupd_kept h
  | .copy _ _ _ => execCopy_kept h
  | .gather _ _ _ => execGather_kept h
  | .scatter _ _ _ => execScatter_kept h
  | .prefetch _ _ _ => execPrefetch_kept h
  | .commit _ _ _ => execCommit_kept h
  | .xsend _ _ _ => execXsend_kept h
  | .xlate _ _ _ => execXlate_kept h
  | .instructionLaunch _ _ _ => execInstructionLaunch_kept h
  | .instructionComplete _ _ => execInstructionComplete_kept h
  | .loopIterationStart _ => execLoopIterationStart_kept h
  | .tileBoundary _ => execTileBoundary_kept h
  | .dstepResume _ => execDstepResume_kept h
  | .commitComplete _ _ => execCommitComplete_kept h
  | .cacheFill _ _ => execCacheFill_kept h
  | .scrubRead _ => execScrubRead_kept h
  | .reloadWindow _ => execReloadWindow_kept h
  | .auditStart _ => execAuditStart_kept h
  | .auditPeriodExpiry _ => execAuditPeriodExpiry_kept h
  | .mintEvaluation _ => execMintEvaluation_kept h
  | .committedCurrentUpdate _ => execCommittedCurrentUpdate_kept h
  | .lendingEnable _ _ => execLendingEnable_kept h
  | .loanGrantEnd _ => execLoanGrantEnd_kept h
  | .throttleStep _ => execThrottleStep_kept h
  | .thermalTrip _ => execThermalTrip_kept h
  | .throttleFloorWrite _ => execThrottleFloorWrite_kept h
  | .throttleLevelApply => execThrottleLevelApply_kept h
  | .tickRealign _ _ _ => execTickRealign_kept h
  | .tickMasterSettleTimeout => execTickMasterSettleTimeout_kept h
  | .load _ _ _ _ _ _ _ => execLoad_kept h
  | .loadComplete _ => execLoadComplete_kept h
  | .loadWindow _ => execLoadWindow_kept h
  | .partitionCommitRequest _ _ => execPartitionCommitRequest_kept h
  | .commitTick => execCommitTick_kept h
  | .release _ _ => execRelease_kept h
  | .releaseComplete _ => execReleaseComplete_kept h
  | .jobStart _ _ _ => execJobStart_kept h
  | .jobSuspend _ _ _ => execJobSuspend_kept h
  | .jobSwitch _ _ _ => execJobSwitch_kept h
  | .jobStop _ _ _ => execJobStop_kept h
  | .jobUnload _ _ _ => execJobUnload_kept h
  | .jobYield _ => execJobYield_kept h
  | .jobResume _ => execJobResume_kept h
  | .resumeTick _ => execResumeTick_kept h
  | .ctxCreate _ _ _ _ _ _ _ => execCtxCreate_kept h
  | .ctxBind _ _ _ _ => execCtxBind_kept h
  | .ctxAdopt _ _ _ _ => execCtxAdopt_kept h
  | .ctxReleaseSnap _ _ _ => execCtxReleaseSnap_kept h
  | .ctxCompose _ _ _ => execCtxCompose_kept h
  | .ctxSeed _ _ _ _ => execCtxSeed_kept h
  | .ctxSetkey _ _ _ => execCtxSetkey_kept h
  | .ctxImport _ _ _ => execCtxImport_kept h
  | .ctxExport _ _ _ _ _ => execCtxExport_kept h
  | .ctxQuery _ _ => execCtxQuery_kept h
  | .ctxRebase _ _ => execCtxRebase_kept h
  | .ctxWithdraw _ _ => execCtxWithdraw_kept h
  | .ctxDelete _ _ => execCtxDelete_kept h
  | .ctxDeleteComplete _ => execCtxDeleteComplete_kept h
  | .stepPosting _ => execStepPosting_kept h
  | .stepEnd _ _ => execStepEnd_kept h
  | .adapterStaging _ => execAdapterStaging_kept h
  | .stagingComplete _ => execStagingComplete_kept h
  | .baseStage _ _ _ => execBaseStage_kept h
  | .baseInstall _ _ _ _ => execBaseInstall_kept h
  | .baseReplace _ _ => execBaseReplace_kept h
  | .pipePairingWrite _ _ _ => execPipePairingWrite_kept h
  | .pipePairingApply _ => execPipePairingApply_kept h
  | .buddyConfig _ _ _ => execBuddyConfig_kept h
  | .dpConfig _ _ _ _ _ => execDpConfig_kept h
  | .train _ _ => execTrain_kept h
  | .trainData _ _ _ _ _ => execTrainData_kept h
  | .dillTrainingSwitch _ => execDillTrainingSwitch_kept h
  | .trainingSegmentPosting _ => execTrainingSegmentPosting_kept h
  | .checkpointPageCopy _ => execCheckpointPageCopy_kept h
  | .checkpointClose _ => execCheckpointClose_kept h
  | .presenceDecision _ => execPresenceDecision_kept h
  | .rankLeaveDeadline _ => execRankLeaveDeadline_kept h
  | .getVersion _ => execGetVersion_kept h
  | .getCapabilities _ => execGetCapabilities_kept h
  | .negotiateAlgorithms _ _ _ _ _ => execNegotiateAlgorithms_kept h
  | .getDigests _ => execGetDigests_kept h
  | .getCertificate _ _ => execGetCertificate_kept h
  | .challenge _ _ _ => execChallenge_kept h
  | .keyExchange _ _ => execKeyExchange_kept h
  | .finish _ _ => execFinish_kept h
  | .endSession _ => execEndSession_kept h
  | .keyUpdate _ => execKeyUpdate_kept h
  | .heartbeat _ => execHeartbeat_kept h
  | .heartbeatMissed _ => execHeartbeatMissed_kept h
  | .tenantClaim _ _ => execTenantClaim_kept h
  | .tenantProve _ _ => execTenantProve_kept h
  | .qrekey _ _ => execQrekey_kept h
  | .attest _ _ _ _ _ => execAttest_kept h
  | .tenantSet _ _ _ _ => execTenantSet_kept h
  | .tenantRevoke _ _ => execTenantRevoke_kept h
  | .vfAssign _ _ _ => execVfAssign_kept h
  | .debugChallenge _ => execDebugChallenge_kept h
  | .debugUnlock _ _ _ => execDebugUnlock_kept h
  | .debugNonceExpiry => execDebugNonceExpiry_kept h
  | .signingToken => execSigningToken_kept h
  | .perBootTreeCertify => execPerBootTreeCertify_kept h
  | .successorTreeReady => execSuccessorTreeReady_kept h
  | .drbgReseed => execDrbgReseed_kept h
  | .sageSensorEvent _ => execSageSensorEvent_kept h
  | .bayLockRead _ _ => execBayLockRead_kept h
  | .bayRelease _ _ => execBayRelease_kept h
  | .bayDoorbell _ _ => execBayDoorbell_kept h
  | .bayAck _ _ _ _ => execBayAck_kept h
  | .bayTimeoutExpiry _ => execBayTimeoutExpiry_kept h
  | .bayWakeComplete _ => execBayWakeComplete_kept h
  | .bayLockBreak _ => execBayLockBreak_kept h
  | .zeroise _ => execZeroise_kept h
  | .powerOff _ => execPowerOff_kept h
  | .fwUpdate _ _ _ => execFwUpdate_kept h
  | .fwProgramComplete _ => execFwProgramComplete_kept h
  | .telemetry _ _ => execTelemetry_kept h
  | .exportCmd _ _ _ => execExportCmd_kept h
  | .exportComplete _ => execExportComplete_kept h
  | .exportRelease _ _ => execExportRelease_kept h
  | .sqDoorbell _ _ _ _ => execSqDoorbell_kept h
  | .generate _ _ _ _ _ _ _ => execGenerate_kept h
  | .cancel _ _ => execCancel_kept h
  | .cqHeadWrite _ _ _ => execCqHeadWrite_kept h
  | .d2hHeadWrite _ _ _ => execD2hHeadWrite_kept h
  | .interruptDelayExpiry _ _ => execInterruptDelayExpiry_kept h
  | .queuePairEnable _ _ _ => execQueuePairEnable_kept h
  | .atsInvalidation _ _ => execAtsInvalidation_kept h
  | .windowRead _ _ => execWindowRead_kept h
  | .windowWrite _ _ _ => execWindowWrite_kept h
  | .cxlLinkDown => execCxlLinkDown_kept h
  | .pf0Flr => execPf0Flr_kept h
  | .vfFlr _ => execVfFlr_kept h
  | .dataPacket _ _ => execDataPacket_kept h
  | .pipePacket _ _ => execPipePacket_kept h
  | .ckptPacket _ _ => execCkptPacket_kept h
  | .bayPacket _ _ _ _ => execBayPacket_kept h
  | .packetNak _ _ => execPacketNak_kept h
  | .ident _ _ _ _ _ _ _ => execIdent_kept h
  | .kemKey _ _ => execKemKey_kept h
  | .kemCt _ _ => execKemCt_kept h
  | .keyAt _ _ => execKeyAt_kept h
  | .linkKeySwitch _ => execLinkKeySwitch_kept h
  | .modePropose _ _ _ => execModePropose_kept h
  | .modeAccept _ => execModeAccept_kept h
  | .modeReject _ => execModeReject_kept h
  | .linkModeSwitch _ => execLinkModeSwitch_kept h
  | .modeProposeRetry _ => execModeProposeRetry_kept h
  | .pipeBind _ _ => execPipeBind_kept h
  | .pipeUnbind _ _ => execPipeUnbind_kept h
  | .leave _ _ _ => execLeave_kept h
  | .alignReq _ _ _ => execAlignReq_kept h
  | .alignRsp _ _ _ _ => execAlignRsp_kept h
  | .levelReq _ _ => execLevelReq_kept h
  | .levelSet _ _ _ => execLevelSet_kept h
  | .reject _ _ => execReject_kept h
  | .fennelPortDown _ _ => execFennelPortDown_kept h
  | .portRetrainTimer _ => execPortRetrainTimer_kept h
  | .portTrainingComplete _ => execPortTrainingComplete_kept h
  | .fnlRetrain _ => execFnlRetrain_kept h
  | .fnlRekey _ => execFnlRekey_kept h
  | .linkCounterRekey _ => execLinkCounterRekey_kept h
  | .fnlModeWrite _ _ => execFnlModeWrite_kept h
  | .fennelShareWrite _ _ _ => execFennelShareWrite_kept h
  | .powerGoodRise _ => execPowerGoodRise_kept h
  | .powerGoodLoss => execPowerGoodLoss_kept h
  | .perstAssert _ => execPerstAssert_kept h
  | .perstDeassert _ => execPerstDeassert_kept h
  | .rstModuleRequest _ _ _ => execRstModuleRequest_kept h
  | .partitionReset _ _ => execPartitionReset_kept h
  | .railFault _ => execRailFault_kept h
  | .rootPllLockLoss => execRootPllLockLoss_kept h
  | .referenceLoss => execReferenceLoss_kept h
  | .powerDomainSwitch _ => execPowerDomainSwitch_kept h
  | .zeroisationComplete => execZeroisationComplete_kept h
  | .sysRecoveryCommit => execSysRecoveryCommit_kept h
  | .sysRecoveryData _ => execSysRecoveryData_kept h
  | .recoveryProgramComplete _ _ => execRecoveryProgramComplete_kept h
  | .dillWatchdogExpiry _ => execDillWatchdogExpiry_kept h
  | .rosemaryWatchdogExpiry => execRosemaryWatchdogExpiry_kept h
  | .lifeHourUpdate _ => execLifeHourUpdate_kept h
  | .pairLatchTimeout => execPairLatchTimeout_kept h
  | .loHalfRead _ _ => execLoHalfRead_kept h
  | .rcRead _ _ => execRcRead_kept h
  | .registerWrite _ _ _ _ => execRegisterWrite_kept h
  | .ctxImportComplete _ => execCtxImportComplete_kept h
  | .ctxExportComplete _ => execCtxExportComplete_kept h
  | .wayZeroisationComplete _ => execWayZeroisationComplete_kept h
  | .groupZeroisationComplete _ => execGroupZeroisationComplete_kept h
  | .thermtripDeassert _ => execThermtripDeassert_kept h
  | .referenceRestored => execReferenceRestored_kept h
  | .cxlLinkTrained _ => execCxlLinkTrained_kept h
  | .hostSnoop addr => execHostSnoop_kept (_addr := addr) h
  | .ideKm _ => execIdeKm_kept h
  | .configurationRequest fn => execConfigurationRequest_kept (_fn := fn) h
  | .refusedRead _ _ _ => execRefusedRead_kept h

/-- A command reaches no other state than the one it keeps. -/
theorem kept_of_exec {r s t : State} {i : Instr} (h : Kept r s) (he : exec i s = .next t) : Kept r t := by
  obtain ⟨u, hu, hkept⟩ := exec_kept i h
  obtain rfl : u = t := Host.Outcome.next.inj (hu.symm.trans he)
  exact hkept

/-- The invariant does not speak of the queue. -/
theorem Inv.withPending {s : State} (h : Inv s) (q : List Instr) : Inv { s with pending := q } :=
  ⟨h.scratch, h.cim, h.scales, h.stack, h.cache, h.pages, h.mode, h.state⟩

end Sys2Proof.Machine
end

section
/-! PROOFS. O59: every step keeps the invariant (R185, R444). -/

namespace Sys2Proof.Proofs
open Sys2Proof Sys2Proof.Machine

/-- Settles O59: a step on an empty queue idles; otherwise it runs the front command, which keeps `Kept` by `exec_kept`. -/
theorem everyStepKeepsTheInvariant : Obligations.EveryStepKeepsTheInvariant := by
  unfold Obligations.EveryStepKeepsTheInvariant
  intro s t hinv hstep
  unfold step at hstep
  split at hstep
  · obtain rfl : s = t := Host.Outcome.next.inj hstep
    exact hinv
  · exact (kept_of_exec (hinv.withPending _).kept hstep).inv

end Sys2Proof.Proofs
end

section
/-! SUPPORT. What reset leaves in every entry of a family: the family is empty, so each entry reads its default. -/

namespace Sys2Proof.Machine.State

@[simp] theorem reset_page (g : Nat) : reset.page g = PageE.free := rfl
@[simp] theorem reset_part (p : Nat) : reset.part p = Part.fresh := rfl
@[simp] theorem reset_ctx (c : Nat) : reset.ctx c = Ctx.fresh := rfl
@[simp] theorem reset_mbox (n : Nat) : reset.mbox n = Mbox.fresh := rfl
@[simp] theorem reset_core (c : Nat) : reset.core c = Core.fresh := rfl
@[simp] theorem reset_port (n : Nat) : reset.port n = Port.fresh := rfl
@[simp] theorem reset_qp (vf q : Nat) : reset.qp vf q = Qp.fresh := rfl

end Sys2Proof.Machine.State

namespace Sys2Proof.Machine

/-- A slot of a core after reset has the invalid stamp (R275). -/
@[simp] theorem Core.fresh_slot (k : Nat) : Core.fresh.slot k = SlotE.fresh := rfl

end Sys2Proof.Machine
end

section
/-! PROOFS. O57 and O58: the state after reset (R185, R186, R275, R444). -/

namespace Sys2Proof.Proofs
open Sys2Proof Sys2Proof.Machine

/-- Settles O57: single registers by evaluation, families entry by entry through the default that each entry reads. -/
theorem resetValuesOfTheTables : Obligations.ResetValuesOfTheTables := by
  unfold Obligations.ResetValuesOfTheTables
  refine ⟨rfl, rfl, rfl, by decide, rfl, fun g => ?page, fun p => ?part, fun c => ?ctx, fun n => ?mbox, fun c k => ?slot,
    fun n => ?port, fun vf q => ?pair, fun a => ?bytes⟩
  case page =>
    rw [State.reset_page]
    decide
  case part =>
    rw [State.reset_part]
    exact ⟨rfl, rfl, rfl, rfl, rfl, rfl⟩
  case ctx => exact congrArg Ctx.state (State.reset_ctx c)
  case mbox =>
    rw [State.reset_mbox]
    exact ⟨rfl, rfl⟩
  case slot =>
    rw [State.reset_core, Core.fresh_slot]
    exact ⟨rfl, rfl⟩
  case port => exact congrArg Port.state (State.reset_port n)
  case pair =>
    rw [State.reset_qp]
    decide
  case bytes => exact ⟨bget_nil a, bget_nil a⟩

/-- Settles O58: every memory is empty, every page entry is that of a FREE page, and FNL_MODE and SYS_STATE have their values of O57. -/
theorem resetMeetsTheInvariant : Obligations.ResetMeetsTheInvariant := by
  unfold Obligations.ResetMeetsTheInvariant
  have hmode : State.reset.fnlMode.ok = true := by decide
  exact {
    scratch := Memory.wf_nil
    cim := Memory.wf_nil
    scales := Memory.wf_nil
    stack := Memory.wf_nil
    cache := Memory.wf_nil
    pages := fun g => State.reset_page g ▸ Paired.of_ok _
    mode := hmode
    state := Nat.zero_le 5 }

end Sys2Proof.Proofs
end

section
/-! SUPPORT. Operations around a completion: the cycles counted up to it, pages written and taken, and the job's end that it may bring. -/

namespace Sys2Proof.Machine

/-! ### Cycles counted (R289) -/

/-- From `s` to `t` only free values, governor, cores, partitions, the error block and the interrupt counts of the CXL block change, as
where cycles of a core are counted. -/
def Counted (s t : State) : Prop :=
  ∃ fc g cs ps e x, t = { s with freeCtr := fc, gov := g, cores := cs, parts := ps, err := e, cxl := x }

theorem Counted.refl (s : State) : Counted s s := ⟨_, _, _, _, _, _, rfl⟩

theorem Counted.trans {s t u : State} (h : Counted s t) (h' : Counted t u) : Counted s u := by
  obtain ⟨_, _, _, _, _, _, rfl⟩ := h
  obtain ⟨_, _, _, _, _, _, rfl⟩ := h'
  exact ⟨_, _, _, _, _, _, rfl⟩

theorem Counted.snaps {s t : State} (h : Counted s t) : t.snaps = s.snaps := by
  obtain ⟨_, _, _, _, _, _, rfl⟩ := h
  rfl

theorem Counted.page {s t : State} (h : Counted s t) (g : Nat) : t.page g = s.page g := by
  obtain ⟨_, _, _, _, _, _, rfl⟩ := h
  rfl

theorem ErrOnly.counted {s t : State} (h : ErrOnly s t) : Counted s t := by
  obtain ⟨_, _, rfl⟩ := h
  exact ⟨_, _, _, _, _, _, rfl⟩

theorem advance_counted (s : State) (n : Nat) : Counted s (s.advance n) := ⟨_, _, _, _, _, _, rfl⟩
theorem modCore_counted (s : State) (c : Nat) (f : Core → Core) : Counted s (s.modCore c f) := ⟨_, _, _, _, _, _, rfl⟩

theorem markStop_counted (s : State) (p : Nat) (st : Status) : Counted s (markStop s p st) := ⟨_, _, _, _, _, _, rfl⟩
theorem draw_counted (s : State) : Counted s (draw s).2 := ⟨_, _, _, _, _, _, rfl⟩
theorem recordNext_counted (s : State) (e : FaultEv) : Counted s (recordNext s e) := ((ErrOnly.refl s).recordNext e).counted

theorem coreFault_counted (s : State) (c : Nat) (pc : BitVec 14) (st : Status) (cause : BitVec 3) (ex ac : Nat) :
    Counted s (coreFault s c pc st cause ex ac) := by
  have hlogged : Counted s (s.modCore c fun k => k.fault1 pc st cause ex ac) := modCore_counted _ _ _
  unfold coreFault
  dsimp only
  split
  · exact hlogged
  · split
    · exact hlogged.trans (markStop_counted _ _ _)
    · exact hlogged.trans ((recordNext_counted _ _).trans (markStop_counted _ _ _))

theorem coreFaultFree_counted (s : State) (c : Nat) (pc : BitVec 14) (st : Status) (cause : BitVec 3) :
    Counted s (coreFaultFree s c pc st cause) :=
  (draw_counted s).trans ((draw_counted _).trans (coreFault_counted _ _ _ _ _ _ _))

theorem govFault_counted (s : State) (c p k cause tick : Nat) : Counted s (govFault s c p k cause tick) := by
  unfold govFault
  dsimp only
  split
  · exact markStop_counted _ _ _
  · exact .trans ⟨_, _, _, _, _, _, rfl⟩ ((recordNext_counted _ _).trans (markStop_counted _ _ _))

theorem ite_counted {s t u : State} {b : Prop} [Decidable b] (ht : Counted s t) (hu : Counted s u) :
    Counted s (if b then t else u) := by
  split
  · exact ht
  · exact hu

theorem countCycle_counted (c p : Nat) (s : State) (cyc : Nat) : Counted s (countCycle c p s cyc) := by
  have hclamp (f : GovPart → GovPart) : Counted s (govFault (s.modGovPart p f) c p 0 0 (cyc / 32)) :=
    .trans ⟨_, _, _, _, _, _, rfl⟩ (govFault_counted _ _ _ _ _ _)
  unfold countCycle
  dsimp only
  split
  · exact ite_counted (hclamp _) (.refl s)
  · exact (ite_counted (hclamp _) (.refl s)).trans (coreFaultFree_counted _ _ _ _ _)

theorem foldl_countCycle_counted (c p : Nat) (cycs : List Nat) (s : State) : Counted s (cycs.foldl (countCycle c p) s) := by
  induction cycs generalizing s with
  | nil => exact .refl s
  | cons cyc cycs ih => exact (countCycle_counted c p s cyc).trans (ih _)

theorem countTo_counted (s : State) (c p hi : Nat) : Counted s (countTo s c p hi) := by
  unfold countTo
  exact (foldl_countCycle_counted c p _ s).trans (modCore_counted _ _ _)

/-! ### Pages written and taken -/

/-- Pages filled with bytes change the stacks alone. -/
theorem fillPages_eq (gs : List Nat) (bs : List Byte) (s : State) : ∃ m, fillPages s gs bs = { s with stack := m } := by
  induction gs generalizing s bs with
  | nil => exact ⟨_, rfl⟩
  | cons g gs ih =>
    obtain ⟨m, h⟩ := ih (bs.drop 65536) (writePage s g (bs.take 65536))
    exact ⟨m, h⟩

/-- Setting ATTR of a page changes its entry, and its bytes where it becomes FREE (R188). -/
theorem setAttr_eq (s : State) (a : Attr) (owner : Option Nat) (ctx : BitVec 16) (g : Nat) :
    ∃ m, setAttr s a owner ctx g = { s.setPage g (Paired.of (pageWord a owner ctx)) with stack := m } := by
  cases a
  all_goals exact ⟨_, rfl⟩

theorem takePages_eq (a : Attr) (owner : Option Nat) (ctx : BitVec 16) (gs : List Nat) (s : State) :
    ∃ ps m, takePages s a owner ctx gs = { s with pages := ps, stack := m } := by
  induction gs generalizing s with
  | nil => exact ⟨_, _, rfl⟩
  | cons g gs ih =>
    obtain ⟨_, hset⟩ := setAttr_eq s a owner ctx g
    obtain ⟨ps, m, h⟩ := ih (setAttr s a owner ctx g)
    rw [hset] at h
    exact ⟨ps, m, (congrArg (takePages · a owner ctx gs) hset).trans h⟩

/-! ### A job's end (R213, R334) -/

/-- From `s` to `t` no snapshot changes and no queue of a core gains an entry, as where a job ends. -/
structure QueuesDrain (s t : State) : Prop where
  snaps : t.snaps = s.snaps
  queues : ∀ c q, (t.core c).queue q ⊆ (s.core c).queue q

namespace QueuesDrain

theorem refl (s : State) : QueuesDrain s s := ⟨rfl, fun _ _ => List.Subset.refl _⟩

theorem trans {s t u : State} (h : QueuesDrain s t) (h' : QueuesDrain t u) : QueuesDrain s u :=
  ⟨h'.snaps.trans h.snaps, fun c q => List.Subset.trans (h'.queues c q) (h.queues c q)⟩

theorem of_eq {s t : State} (hsnaps : t.snaps = s.snaps) (hcores : t.cores = s.cores) : QueuesDrain s t :=
  ⟨hsnaps, fun c q => by simp only [State.core, hcores, List.Subset.refl]⟩

theorem foldl {α : Type} {f : State → α → State} (hf : ∀ s a, QueuesDrain s (f s a)) (l : List α) (s : State) :
    QueuesDrain s (l.foldl f s) := by
  induction l generalizing s with
  | nil => exact refl s
  | cons a l ih => exact (hf s a).trans (ih (f s a))

theorem modCore (s : State) (c : Nat) {f : Core → Core} (hf : ∀ k q, (f k).queue q ⊆ k.queue q) : QueuesDrain s (s.modCore c f) := by
  refine ⟨rfl, fun x q => ?_⟩
  rw [State.modCore_core]
  split
  · next h => exact h ▸ hf _ q
  · exact List.Subset.refl _

/-- Changes of a core that leave its queues. -/
theorem modCore_queues (s : State) (c : Nat) {f : Core → Core} (hf : ∀ k, (f k).queues = k.queues) : QueuesDrain s (s.modCore c f) :=
  modCore s c fun k q => by simp only [Core.queue, hf, List.Subset.refl]

theorem landWrite (s : State) (w : Write) : QueuesDrain s (landWrite s w) := by
  have happly : QueuesDrain s (applyWrite s w) := by
    unfold applyWrite
    split
    · exact of_eq rfl rfl
    · exact of_eq rfl rfl
  unfold Machine.landWrite
  split
  · split
    · exact refl s
    · exact happly
  · exact happly

theorem chvFault (s : State) (c : Nat) (op : EngineOp) (st : Status) : QueuesDrain s (chvFault s c op st) := by
  unfold Machine.chvFault
  dsimp only
  split
  · exact refl s
  · exact of_eq rfl rfl

theorem invalidateSlot (s : State) (c slot : Nat) : QueuesDrain s (invalidateSlot s c slot) :=
  modCore_queues s c fun _ => rfl

theorem cutTransfer (s : State) (c : Nat) (op : EngineOp) (l : Launched) : QueuesDrain s (cutTransfer s c op l) := by
  unfold Machine.cutTransfer
  dsimp only
  refine .trans ?_ (chvFault _ _ _ _)
  refine .trans ?_ (foldl (fun u (d : SlotDone) => invalidateSlot u d.core d.slot) _ _)
  refine .trans ?_ (foldl (fun u g => ?_) _ _)
  · exact .trans (t := (draw s).2) (of_eq rfl rfl) (foldl landWrite _ _)
  · split
    · exact refl u
    · exact of_eq rfl rfl

theorem cutPart (s : State) (p : Nat) : QueuesDrain s (cutPart s p) := by
  refine foldl (fun u c => foldl (fun u e => ?_) _ u) _ s
  split
  · split
    · exact refl u
    · exact cutTransfer u _ _ _
  · exact refl u

theorem endJobNow (s : State) (p : Nat) (img : ImgState) (st : Status) (seq : SeqState) : QueuesDrain s (endJobNow s p img st seq) := by
  have hidle (u : State) : QueuesDrain u (modCores u p fun k => k.endJob seq) :=
    foldl (fun u c => modCore u c fun _ q => List.nil_subset _) _ u
  unfold Machine.endJobNow
  split
  · exact refl s
  · dsimp only
    refine .trans (cutPart s p) ?_
    refine .trans ?_ (.trans (hidle _) (of_eq rfl rfl))
    refine foldl (fun u c => ?_) _ _
    exact modCore_queues u c fun _ => rfl

theorem checkEnd (s : State) (c : Nat) : QueuesDrain s (checkEnd s c) := by
  unfold Machine.checkEnd
  split
  · exact refl s
  · split
    · exact .trans (t := leaveStep s _) (of_eq rfl rfl) (endJobNow _ _ _ _ _)
    · exact refl s

end QueuesDrain

end Sys2Proof.Machine
end

section
/-! SUPPORT. The completion of a COMMIT (R211, R212). -/

namespace Sys2Proof.Machine

/-- The handle that a new snapshot takes depends on the snapshots alone. -/
theorem freshHandle_congr {s t : State} (h : t.snaps = s.snaps) : freshHandle t = freshHandle s := by
  simp only [freshHandle, h]

/-- A snapshot that forms is one more, with the lowest handle that none has. -/
theorem formSnapshot_snaps (s : State) (p c : Nat) (pages manifest : List Nat) (leaves : List (BitVec 256)) (epoch : W32) :
    (formSnapshot s p c pages manifest leaves epoch).snaps =
      s.snaps ++ [⟨freshHandle s, BitVec.ofNat 16 c, pages, manifest, digestRoot leaves, epoch⟩] := by
  obtain ⟨_, _, h⟩ := takePages_eq .snapshot (some p) (BitVec.ofNat 16 c) (pages ++ manifest) s
  unfold formSnapshot
  rw [h]
  rfl

/-- Bytes that find pages become a snapshot over them: the first hold the bytes, the rest the manifest. -/
theorem commitPages_snaps {s : State} {p c n : Nat} {bytes : List Byte} {gs : List Nat} (hpages : PagesOk s)
    (hn : (bytes.length + 65535) / 65536 = n) (halloc : allocPages s (s.part p).live.chans.v (n + manifestPages n) = some gs) :
    ∃ d, (commitPages s p c bytes).snaps =
      s.snaps ++ [⟨freshHandle s, BitVec.ofNat 16 c, gs.take n, gs.drop n, d, (s.part p).baseEpoch.v⟩] := by
  subst hn
  unfold commitPages
  dsimp only
  rw [halloc]
  dsimp only
  rw [onPages_of_ok _ fun g _ => hpages g]
  obtain ⟨_, hdata⟩ := fillPages_eq (gs.take ((bytes.length + 65535) / 65536)) bytes s
  rw [hdata]
  generalize hleaves : List.map (pageLeaf _) _ = leaves
  obtain ⟨_, hmanifest⟩ := fillPages_eq (gs.drop ((bytes.length + 65535) / 65536))
    (manifestBytes ((gs.take ((bytes.length + 65535) / 65536)).zip leaves)) { s with stack := _ }
  rw [hmanifest, formSnapshot_snaps]
  exact ⟨_, rfl⟩

/-- An entry that leaves its queue takes the entries of its serial number along, and no other. -/
theorem Core.leave_queue (k : Core) (e : QEntry) :
    (k.leave e).queue (opQueue e.op) = (k.queue (opQueue e.op)).filter fun x => x.serial != e.serial :=
  (sget_sput _ _ _ _ _).trans (if_pos rfl)

/-- The state in which a COMMIT completes: time at most 64 cycles after its last burst (R211), the cycles of its core counted. -/
def commitState (s : State) (c p : Nat) (l : Launched) : State :=
  let s := s.advance (max l.land (min s.gov.now (l.land + 64)))
  countTo s c p s.gov.now

/-- Its bytes are read in that state, where bursts delivered as received stand over the stacks (R190). -/
theorem commitEnv_s (s : State) (c p : Nat) (e : QEntry) (l : Launched) :
    (commitEnv s c p e l).s = overlay (commitState s c p l) l.recv := rfl

theorem commitState_counted (s : State) (c p : Nat) (l : Launched) : Counted s (commitState s c p l) :=
  (advance_counted s _).trans (countTo_counted _ _ _ _)

/-! Bytes that stand over the stacks bear neither on what pages are free nor on what stands against a COMMIT. -/

theorem findFree_overlay (s : State) (recv : List (Nat × List Byte)) (mask : BitVec 192) (fuel n g : Nat) :
    findFree (overlay s recv) mask fuel n g = findFree s mask fuel n g := by
  induction fuel generalizing n g with
  | zero => cases n <;> rfl
  | succ fuel ih =>
    cases n with
    | zero => rfl
    | succ n => simp only [findFree, ih]; rfl

theorem freeInMask_overlay (s : State) (recv : List (Nat × List Byte)) (mask : BitVec 192) :
    freeInMask (overlay s recv) mask = freeInMask s mask := rfl

theorem allocPages_overlay (s : State) (recv : List (Nat × List Byte)) (mask : BitVec 192) (n : Nat) :
    allocPages (overlay s recv) mask n = allocPages s mask n := by
  simp only [allocPages, freeInMask_overlay, findFree_overlay]

theorem commitCause_overlay (s : State) (recv : List (Nat × List Byte)) (p c n : Nat) (poison : Bool) (src : List Nat) :
    commitCause (overlay s recv) p c n poison src = commitCause s p c n poison src := by
  unfold commitCause
  rw [freeInMask_overlay]
  rfl

/-- A COMMIT that nothing stands against forms its snapshot, leaves its queue, and may end the job. -/
theorem commitDone_of_no_cause {s : State} {c ch p : Nat} {e : QEntry} {l : Launched} {f : CommitF}
    {rest : List (QEntry × Launched × CommitF)} (hcommits : commitsOn (s.core c) ch = (e, l, f) :: rest)
    (hpart : partOfCore s c = some p) (hpages : PagesOk (commitState s c p l)) {v : View} (hview : (commitEnv s c p e l).view f.src = v)
    {bytes : List Byte} (hbytes : commitBytes (commitEnv s c p e l) f = bytes)
    (hcause : commitCause (commitState s c p l) p v.d.ctx.toNat ((bytes.length + 65535) / 65536) l.poison
      (if v.d.tier = 2 then v.pages else []) = none) :
    commitDone s c ch =
      checkEnd ((commitPages (commitState s c p l) p v.d.ctx.toNat bytes).modCore c fun k => k.leave e) c := by
  subst hview hbytes
  unfold commitDone
  rw [hcommits, hpart]
  refine (onPages_of_ok (s := commitState s c p l) _ fun g _ => hpages g).trans ?_
  dsimp only
  unfold commitEnv commitState at *
  dsimp only at *
  rw [hcause]

end Sys2Proof.Machine
end

section
/-! PROOFS. O12: a COMMIT completes as one more snapshot (R211, R212). -/

namespace Sys2Proof.Proofs
open Sys2Proof Sys2Proof.Machine

/-- Settles O12: `commitDone_of_no_cause` takes the completion apart, `commitPages_snaps` says which snapshot forms, and the job's end
that may follow changes no snapshot and adds to no queue. -/
theorem commitFormsOneSnapshot : Obligations.CommitFormsOneSnapshot := by
  unfold Obligations.CommitFormsOneSnapshot
  intro s c ch e l f rest p gs hcommits hpart hpages
  dsimp only
  rw [commitEnv_s, commitCause_overlay, allocPages_overlay]
  intro hcause halloc
  have hcounted : Counted s (commitState s c p l) := commitState_counted s c p l
  have hok : PagesOk (commitState s c p l) := fun g => (hcounted.page g).symm ▸ hpages g
  generalize hview : (commitEnv s c p e l).view f.src = v at *
  generalize hbytes : commitBytes (commitEnv s c p e l) f = bytes at *
  obtain ⟨d, hform⟩ := commitPages_snaps (c := v.d.ctx.toNat) hok rfl halloc
  rw [hcounted.snaps, freshHandle_congr hcounted.snaps] at hform
  have hdrain := QueuesDrain.checkEnd ((commitPages (commitState s c p l) p v.d.ctx.toNat bytes).modCore c fun k => k.leave e) c
  rw [← commitDone_of_no_cause hcommits hpart hok hview hbytes hcause] at hdrain
  refine ⟨commitDone s c ch, d, rfl, hdrain.snaps.trans hform, fun y hy => ?_⟩
  have hleft := hdrain.queues c _ hy
  rw [State.modCore_core, if_pos rfl, Core.leave_queue] at hleft
  simpa using (List.mem_filter.mp hleft).2

end Sys2Proof.Proofs
end

section
/-! SUPPORT. A cache fill whose page fails its leaf, and the snapshots that its failure gives back (R188, R193, R355). -/

namespace Sys2Proof.Machine

/-! ### Pages given back -/

/-- Pages that become FREE read 0, the others as before (R188). -/
theorem bget_freePages (gs : List Nat) (s : State) (a : Nat) :
    bget (freePages s gs).stack a = if a / 65536 ∈ gs then 0 else bget s.stack a := by
  induction gs generalizing s with
  | nil => rfl
  | cons g gs ih =>
    have hset : bget (setAttr s .free none 0xFFFF g).stack a = if a / 65536 = g then 0 else bget s.stack a :=
      (bget_bzero _ _ _ _).trans (if_congr (by omega) rfl rfl)
    refine (ih (setAttr s .free none 0xFFFF g)).trans ?_
    rw [hset]
    by_cases hg : a / 65536 = g
    · simp [hg]
    · simp [hg]

/-- The pages of a snapshot without owner and without pin read 0 once it is swept (R355). -/
theorem bget_sweepSnaps {s : State} {x : Snapshot} (hx : x ∈ s.snaps) (howner : x.ctx = 0xFFFF)
    (hpins : ∀ p, x.handle ∉ pinnedSnaps s p) {a : Nat} (ha : a / 65536 ∈ x.pages ++ x.manifest) : bget (sweepSnaps s).stack a = 0 := by
  unfold sweepSnaps
  dsimp only
  rw [bget_freePages, if_pos]
  refine List.mem_flatMap.mpr ⟨x, List.mem_filter.mpr ⟨hx, ?_⟩, ha⟩
  simp [howner, hpins]

theorem freeKv_nil (s : State) (p : Nat) : freeKv s p [] = s := by
  unfold freeKv
  split <;> rfl

/-- Where a partition holds no request, ending some sweeps the snapshots and does nothing else. -/
theorem endSome_of_no_reqs {s : State} {p : Nat} (h : (s.part p).dill.reqs = []) (f : Req → Bool) (st : Status) :
    endSome s p f st = sweepSnaps (s.modPart p fun q => { q with dill := { q.dill with reqs := q.dill.reqs.filter fun r => !f r } }) := by
  unfold endSome
  simp only [h, List.filter_nil, List.foldl_nil, List.flatMap_nil, freeKv_nil]

/-! ### The fill -/

/-- A module whose fill of page `g` into way `w` of its set has failed: the line dropped, the failure counted and recorded, the contexts
advised, and the staging ended (R193). -/
def failedFill (s : State) (p g w : Nat) : State :=
  let ix := lineIx (setOf g) w
  let s := { s with lines := sput none s.lines ix none, cacheBytes := bzero s.cacheBytes (ix * 65536) ((ix + 1) * 65536) }
  let s := s.modMem fun m => { m with achFail := smod (0, 0) m.achFail p fun x => (satAdd x.1 1, x.2) }
  let s := recordNow s { kind := 0x07, cls := 4, status := St.integrityFault, scope := .partition p,
                         source := 1480 + setOf g % 4, detail := g, detail2 := w, parsley := false, reset := false }
  (sourceAdvisory s p g).modPart p fun q => { q with dill := { q.dill with staging := none } }

/-- A page that fails its leaf also ends the requests that wait on its adaptation. -/
theorem cacheFill_of_mismatch {s : State} {p g w : Nat} {st : Staging} {h : BitVec 256} (hst : (s.part p).dill.staging = some st)
    (hg : g ∈ st.pages) (hok : (s.page g).ok = true) (hway : fillWay s p g = some w) (hleaf : leafOf s st.snaps g = some h)
    (hbad : Config.sha256 (bread s.stack (g * 65536) 65536) ≠ h) :
    cacheFill s p g [] = endSome (failedFill s p g w) p (fun r => r.ctx == st.ctx && !r.staged) St.integrityFault := by
  have hway' : fillWay (burstEvents s p []) p g = some w := hway
  unfold cacheFill
  simp only [hst, List.contains_eq_mem, hg, decide_true, Bool.not_true, Bool.false_eq_true, if_false]
  rw [onPages_of_ok _ (by simpa using hok), hway']
  refine (if_pos ?_).trans rfl
  split
  · next hnone => exact absurd (hleaf.symm.trans hnone) (by simp)
  · next l hl =>
    obtain rfl : h = l := Option.some.inj (hleaf.symm.trans hl)
    exact bne_iff_ne.mpr hbad

/-- Up to there neither snapshots nor stacks change, and of the partitions only the staging that ends. -/
theorem failedFill_frame (s : State) (p g w : Nat) :
    (failedFill s p g w).snaps = s.snaps ∧ (failedFill s p g w).stack = s.stack ∧
    ∀ x, (failedFill s p g w).part x =
      if x = p then { s.part p with dill := { (s.part p).dill with staging := none } } else s.part x := by
  unfold failedFill
  dsimp only
  unfold recordNow sourceAdvisory
  rw [recordAt_eq]
  obtain ⟨cs, hadv⟩ := foldl_giveAdvisory_eq id _ _ _
  simp only [id] at hadv
  rw [hadv]
  exact ⟨rfl, rfl, fun x => State.modPart_part _ _ _ _⟩

end Sys2Proof.Machine
end

section
/-! SUPPORT. A staging whose page fails its leaf, of a snapshot that its context has given up. -/

namespace Sys2Proof.Proofs
open Sys2Proof Sys2Proof.Machine

/-- The staging in progress: page 2 of snapshot 7. -/
def orphanFill : Staging := ⟨5, [7], [2], [2]⟩

/-- A READY module in which partition 0 stages page 2 of snapshot 7, which no context owns and no request pins. Page 3 is its manifest:
its page count is 1, and `b` is the first byte of its leaf. -/
def orphanStaging (b : Byte) : State :=
  { State.reset with
    sys := { Sys.fresh with state := 1 }
    parts := [(0, { Part.fresh with
      st := 1, live := { ResSet.fresh with ways := .of 1 }, dill := { Dill.fresh with staging := some orphanFill } })]
    snaps := [⟨7, 0xFFFF, [2], [3], 0, 1⟩]
    stack := [(3 * 65536, 1), (3 * 65536 + 20, b)] }

theorem orphanStaging_leaf (b : Byte) : leafOf (orphanStaging b) orphanFill.snaps 2 = some (BitVec.ofNat 256 b.toNat) := by
  have hvalue : ofLeBytes (b :: List.replicate 31 0) = b.toNat := by simp [ofLeBytes, List.replicate]
  have hleaf : leafOf (orphanStaging b) orphanFill.snaps 2 =
    some (BitVec.ofNat 256 (ofLeBytes (b :: List.replicate 31 0))) := rfl
  rw [hleaf, hvalue]

/-- The data page holds the same bytes whatever its leaf. -/
theorem orphanStaging_page (b b' : Byte) :
    bread (orphanStaging b).stack (2 * 65536) 65536 = bread (orphanStaging b').stack (2 * 65536) 65536 := by
  refine List.map_congr_left fun i hi => ?_
  have hlt : i < 65536 := List.mem_range.mp hi
  have hzero (c : Byte) : bget (orphanStaging c).stack (2 * 65536 + i) = 0 := by
    have hcount : 3 * 65536 ≠ 2 * 65536 + i := by omega
    have hfirst : 3 * 65536 + 20 ≠ 2 * 65536 + i := by omega
    exact (if_neg hcount).trans ((if_neg hfirst).trans rfl)
  rw [hzero, hzero]

/-- Of two leaves one does not agree with the page. -/
theorem orphanStaging_mismatch : ∃ b : Byte,
    Config.sha256 (bread (orphanStaging b).stack (2 * 65536) 65536) ≠ BitVec.ofNat 256 b.toNat := by
  by_cases h : Config.sha256 (bread (orphanStaging 0).stack (2 * 65536) 65536) = 0
  · refine ⟨1, ?_⟩
    rw [orphanStaging_page 1 0, h]
    decide
  · exact ⟨0, h⟩

theorem orphanStaging_way (b : Byte) : fillWay (orphanStaging b) 0 2 = some 0 := by
  have hlive : ((orphanStaging b).part 0).live.ways.v = 1 := rfl
  have hways : maskList 32 (1 : BitVec 32) = [0] := by decide
  unfold fillWay
  simp only [hlive, hways]
  rfl

/-- No request pins a snapshot, since no partition holds a request. -/
theorem orphanStaging_reqs (b : Byte) (p : Nat) : ((orphanStaging b).part p).dill.reqs = [] := by
  by_cases hp : 0 = p
  · subst hp
    rfl
  · exact congrArg (·.dill.reqs) (if_neg hp : (orphanStaging b).part p = Part.fresh)

end Sys2Proof.Proofs
end

section
/-! PROOFS. O13: a cache fill (R193, R195). -/

namespace Sys2Proof.Proofs
open Sys2Proof Sys2Proof.Machine

/-- After a failed fill of `orphanStaging` the manifest of the snapshot, which nothing holds, reads 0. -/
theorem orphanStaging_swept {b : Byte}
    (hbad : Config.sha256 (bread (orphanStaging b).stack (2 * 65536) 65536) ≠ BitVec.ofNat 256 b.toNat) :
    bget (cacheFill (orphanStaging b) 0 2 []).stack (3 * 65536) = 0 := by
  have hfill := cacheFill_of_mismatch (s := orphanStaging b) (p := 0) (st := orphanFill) rfl (by decide) (Paired.of_ok _)
    (orphanStaging_way b) (orphanStaging_leaf b) hbad
  obtain ⟨hsnaps, -, hparts⟩ := failedFill_frame (orphanStaging b) 0 2 0
  have hreqs (p : Nat) : ((failedFill (orphanStaging b) 0 2 0).part p).dill.reqs = [] := by
    rw [hparts]
    split
    · exact orphanStaging_reqs b 0
    · exact orphanStaging_reqs b p
  rw [hfill, endSome_of_no_reqs (hreqs 0)]
  refine bget_sweepSnaps (x := ⟨7, 0xFFFF, [2], [3], 0, 1⟩) ?_ rfl (fun p => ?_) (by decide)
  · rw [State.modPart_snaps, hsnaps]
    exact List.mem_singleton_self _
  · unfold pinnedSnaps
    rw [State.modPart_part]
    split
    · simp [hreqs]
    · simp [hreqs]

/-- Refutes O13 in its last clause: where a snapshot stands that no context owns and no request pins, as snapshot 7 of `orphanStaging`,
the failure of a fill gives its pages back (R355), and pages that become FREE read 0 (R188): the stacks do not stay as they were. -/
theorem not_cacheFillChecksThePage : ¬ Obligations.CacheFillChecksThePage := by
  unfold Obligations.CacheFillChecksThePage
  intro h
  obtain ⟨b, hbad⟩ := orphanStaging_mismatch
  obtain ⟨t, hexec, -, hfails⟩ := h (orphanStaging b) 0 2 orphanFill 0 rfl (by decide) (orphanStaging_way b) (Paired.of_ok _)
  obtain rfl : cacheFill (orphanStaging b) 0 2 [] = t := Host.Outcome.next.inj hexec
  obtain ⟨-, -, -, hstack⟩ := hfails _ (orphanStaging_leaf b) hbad
  have hkept : bget (cacheFill (orphanStaging b) 0 2 []).stack (3 * 65536) = 1 := by
    rw [hstack]
    rfl
  exact absurd (hkept.symm.trans (orphanStaging_swept hbad)) (by decide)

end Sys2Proof.Proofs
end

section
/-! SUPPORT. Words of the scratchpad and the values of scalar instructions (R32, R235). -/

namespace Sys2Proof.Machine

/-! ### Values of Table 7-5 -/

/-- A shift left by bits [4:0] of the amount multiplies by a power of 2, modulo 2^32. -/
theorem shiftLeft_low_five (x y : W32) : x <<< (y.toNat % 32) = BitVec.ofNat 32 (x.toNat * 2 ^ (y.extractLsb' 0 5).toNat) := by
  apply BitVec.eq_of_toNat_eq
  simp [Nat.shiftLeft_eq]

/-- A shift right by bits [4:0] of the amount divides by a power of 2. -/
theorem ushiftRight_low_five (x y : W32) : x >>> (y.toNat % 32) = BitVec.ofNat 32 (x.toNat / 2 ^ (y.extractLsb' 0 5).toNat) := by
  apply BitVec.eq_of_toNat_eq
  have hlt : x.toNat / 2 ^ (y.toNat % 32) < 4294967296 := Nat.lt_of_le_of_lt (Nat.div_le_self _ _) x.isLt
  simp [Nat.shiftRight_eq_div_pow, Nat.mod_eq_of_lt hlt]

/-- The lesser of two words by `ult` is the minimum of their values. -/
theorem min_by_ult (x y : W32) : (if y.ult x then y else x) = BitVec.ofNat 32 (min x.toNat y.toNat) := by
  by_cases h : y.toNat < x.toNat
  · simp [BitVec.ult, h, Nat.min_eq_right (Nat.le_of_lt h)]
  · simp [BitVec.ult, h, Nat.min_eq_left (Nat.le_of_not_lt h)]

/-- The greater of two words by `ult` is the maximum of their values. -/
theorem max_by_ult (x y : W32) : (if x.ult y then y else x) = BitVec.ofNat 32 (max x.toNat y.toNat) := by
  by_cases h : x.toNat < y.toNat
  · simp [BitVec.ult, h, Nat.max_eq_right (Nat.le_of_lt h)]
  · simp [BitVec.ult, h, Nat.max_eq_left (Nat.le_of_not_lt h)]

/-! ### Words and their bytes -/

/-- A byte appended to a number becomes its low 8 bits. -/
theorem toNat_append_byte {w : Nat} (x : BitVec w) (b : Byte) : (x ++ b).toNat = b.toNat + 256 * x.toNat := by
  rw [BitVec.toNat_append, ← Nat.shiftLeft_add_eq_or_of_lt b.isLt, Nat.shiftLeft_eq]
  omega

/-- Four little-endian bytes spell the word that they make up. -/
theorem ofLeBytes_word (b0 b1 b2 b3 : Byte) : BitVec.ofNat 32 (ofLeBytes [b0, b1, b2, b3]) = b3 ++ b2 ++ b1 ++ b0 := by
  have hval : ofLeBytes [b0, b1, b2, b3] = (b3 ++ b2 ++ b1 ++ b0 : BitVec 32).toNat := by
    rw [toNat_append_byte (b3 ++ b2 ++ b1), toNat_append_byte (b3 ++ b2), toNat_append_byte b3]
    simp only [ofLeBytes, List.foldr_cons, List.foldr_nil]
    omega
  rw [hval, BitVec.ofNat_toNat, BitVec.setWidth_eq]

theorem scrWord_eq (s : State) (c a : Nat) : scrWord s c a =
    bget s.scratch (scrAddr c a + 3) ++ bget s.scratch (scrAddr c a + 2) ++ bget s.scratch (scrAddr c a + 1) ++ bget s.scratch (scrAddr c a) := by
  unfold scrWord
  generalize scrAddr c a = x
  exact ofLeBytes_word _ _ _ _

theorem leBytes_getD_word (w : W32) {i : Nat} (h : i < 4) : (leBytes 4 w.toNat).getD i 0 = w.extractLsb' (8 * i) 8 := by
  apply BitVec.eq_of_toNat_eq
  have hpow : 256 ^ i = 2 ^ (8 * i) := by rw [Nat.pow_mul]
  simp [leBytes, List.getD, h, hpow, Nat.shiftRight_eq_div_pow]

/-- Memory with a word written: its four bytes read the word's, every other byte as before. -/
theorem bget_bwrite_word (m : List Host.Cell) (a x : Nat) (w : W32) :
    bget (bwrite m a (leBytes 4 w.toNat)) x = if a ≤ x ∧ x < a + 4 then w.extractLsb' (8 * (x - a)) 8 else bget m x := by
  have hlen : (leBytes 4 w.toNat).length = 4 := by simp [leBytes]
  rw [bget_bwrite, hlen]
  exact ite_congr rfl (fun h => leBytes_getD_word w (by omega)) fun _ => rfl

/-- SLD and SST name the aligned word that holds the sum, modulo the size of the scratchpad. -/
theorem wordAddr_eq (k : Core) (a : SReg) (imm : W32) : wordAddr k a imm = ((k.reg a).toNat + imm.toNat) % 2 ^ 21 / 4 * 4 := by
  have hmod : ((k.reg a).toNat + imm.toNat) % 2 ^ 32 % 2 ^ 21 = ((k.reg a).toNat + imm.toNat) % 2 ^ 21 :=
    Nat.mod_mod_of_dvd _ (by decide)
  rw [wordAddr, BitVec.toNat_add, hmod]

/-- SST on a core that may issue: its word is written, and nothing else than the issue happens. -/
theorem exec_sst {s : State} {c : CoreN} (d a : SReg) (imm : W32) (h : (s.core c).canIssue = true) :
    exec (.sst c d a imm) s = .next { issue s c id with
      scratch := bwrite s.scratch (scrAddr c (wordAddr (s.core c) a imm)) (leBytes 4 ((s.core c).reg d).toNat) } := by
  have hscratch : (issue s c id).scratch = s.scratch := by rw [issue_of id h]; rfl
  have hexec : exec (.sst c d a imm) s = execSst c d a imm s := rfl
  rw [hexec, execSst, ← hscratch]
  exact congrArg Host.Outcome.next (if_pos h)

end Sys2Proof.Machine
end

section
/-! SUPPORT. What an issue leaves in its core: instructions that wait, loops, and engine instructions in their queues (R219 to R227). -/

namespace Sys2Proof.Machine

/-! ### One issue -/

/-- An issue whose effect keeps the cycle of the next one. -/
theorem issued_of_lastIssue {s : State} {c : Nat} {f : Core → Core} (h : (s.core c).canIssue = true)
    (hlast : ((issue s c f).core c).lastIssue = issueTime s c + 1) : Issued s (issue s c f) c :=
  ⟨by rw [issue_of f h]; rfl, fun _ hx => issue_core_ne hx, hlast⟩

/-- An issue whose effect makes the core `k`. -/
theorem issuedAs_issue {s : State} {c : Nat} {f : Core → Core} {k : Core} (h : (s.core c).canIssue = true)
    (hf : f { s.core c with pc := (s.core c).pc + 1, lastIssue := issueTime s c + 1 } = { k with lastIssue := issueTime s c + 1 }) :
    IssuedAs s (issue s c f) c k := by
  have hcore : (issue s c f).core c = { k with lastIssue := issueTime s c + 1 } := (issue_core h).trans hf
  exact ⟨issued_of_lastIssue h (by rw [hcore]), hcore⟩

/-- An issue leaves the partitions. -/
theorem issue_parts (s : State) (c : Nat) (f : Core → Core) : (issue s c f).parts = s.parts := by
  unfold issue
  split <;> rfl

theorem issue_part (s : State) (c : Nat) (f : Core → Core) (p : Nat) : (issue s c f).part p = s.part p := by
  unfold State.part
  rw [issue_parts]

/-- An issue changes time and its core. -/
theorem issue_counted (s : State) (c : Nat) (f : Core → Core) : Counted s (issue s c f) := by
  unfold issue
  split
  · exact ⟨_, _, _, _, _, _, rfl⟩
  · exact .refl s

/-- A core that waits does not issue. -/
theorem Core.canIssue_of_wait {k : Core} (h : k.wait ≠ .none) : k.canIssue = false := by
  simp [Core.canIssue, h]

/-- A stamp resolves to the tick of its region base and its own, and to its cycle within that. -/
theorem Core.stamp_div (k : Core) (h : Hdr) : k.stamp h / 32 = regionBase k.loops k.segBase + h.tick.toNat + h.cyc.toNat / 32 := by
  unfold Core.stamp
  omega

/-- What a DSTEP that core `k` issues waits with: SAVE and RESUME of the TILE that it directly follows (R335). -/
def Core.dstepWait (k : Core) : Wait :=
  if k.lastTile.1 + 1 = k.pc then .dstep k.lastTile.2.1 k.lastTile.2.2 else .dstep 0 0

theorem Core.dstepWait_eq (k : Core) : ∃ a b, k.dstepWait = .dstep a b ∧ (k.lastTile.1 + 1 = k.pc → (a, b) = k.lastTile.2) := by
  unfold Core.dstepWait
  split
  · exact ⟨_, _, rfl, fun _ => rfl⟩
  · next h => exact ⟨0, 0, rfl, fun h' => absurd h' h⟩

theorem exec_dstep {s : State} {c : CoreN} :
    exec (.dstep c) s = .next (issue s c fun k => { k with wait := (s.core c).dstepWait }) := by
  have hpc (k : Core) : k.lastTile.1 + 2 = k.pc + 1 ↔ k.lastTile.1 + 1 = k.pc := by
    constructor
    all_goals bv_omega
  by_cases hi : (s.core c).canIssue = true
  · refine congrArg Host.Outcome.next ?_
    rw [issue_of _ hi, issue_of _ hi]
    simp only [Core.dstepWait, hpc]
  · rw [Bool.not_eq_true] at hi
    exact congrArg Host.Outcome.next ((issue_not _ hi).trans (issue_not _ hi).symm)

/-- DSTEP_RESUME of a core with a posted tick (R238). -/
theorem exec_dstepResume {s : State} {c : CoreN} {t : Nat} (h : (s.core c).wait = .posted t) :
    exec (.dstepResume c) s = .next ((s.advance (32 * t)).modCore c fun k =>
      { k with wait := .none, segBase := t, lastIssue := max k.lastIssue (32 * t) }) := by
  have hexec : exec (.dstepResume c) s = execDstepResume c s := rfl
  rw [hexec, execDstepResume, h]

/-! ### Loops (R227) -/

/-- Fetches of rings enter queues and take serial numbers. -/
theorem ringFetches_eq (k : Core) (lvl : Nat) (l : LoopLvl) (t : Nat) :
    ∃ qs n, ringFetches k lvl l t = { k with queues := qs, serial := n } := by
  unfold ringFetches
  refine List.foldlRecOn (motive := fun x : Core => ∃ qs n, x = { k with queues := qs, serial := n }) k.rings _ ⟨_, _, rfl⟩ ?_
  rintro x ⟨qs, n, rfl⟩ r -
  dsimp only
  split
  · exact ⟨_, _, rfl⟩
  · exact ⟨qs, n, rfl⟩

@[simp] theorem ringFetches_pc (k : Core) (lvl : Nat) (l : LoopLvl) (t : Nat) : (ringFetches k lvl l t).pc = k.pc := by
  obtain ⟨_, _, h⟩ := ringFetches_eq k lvl l t
  rw [h]
@[simp] theorem ringFetches_regs (k : Core) (lvl : Nat) (l : LoopLvl) (t : Nat) : (ringFetches k lvl l t).regs = k.regs := by
  obtain ⟨_, _, h⟩ := ringFetches_eq k lvl l t
  rw [h]
@[simp] theorem ringFetches_loops (k : Core) (lvl : Nat) (l : LoopLvl) (t : Nat) : (ringFetches k lvl l t).loops = k.loops := by
  obtain ⟨_, _, h⟩ := ringFetches_eq k lvl l t
  rw [h]
@[simp] theorem ringFetches_st (k : Core) (lvl : Nat) (l : LoopLvl) (t : Nat) : (ringFetches k lvl l t).st = k.st := by
  obtain ⟨_, _, h⟩ := ringFetches_eq k lvl l t
  rw [h]
@[simp] theorem ringFetches_lastIssue (k : Core) (lvl : Nat) (l : LoopLvl) (t : Nat) : (ringFetches k lvl l t).lastIssue = k.lastIssue := by
  obtain ⟨_, _, h⟩ := ringFetches_eq k lvl l t
  rw [h]

/-- A core that opens the level `l` under the levels `outer`: the rings named before the LOOP bind to it and fetch. -/
def Core.openLevel (k : Core) (outer : List LoopLvl) (l : LoopLvl) (pc : BitVec 14) (t : Nat) : Core :=
  ringFetches (bindRings { k with loops := outer ++ [l] } pc outer.length) outer.length l t

@[simp] theorem bindRings_pc (k : Core) (pc : BitVec 14) (lvl : Nat) : (bindRings k pc lvl).pc = k.pc := rfl
@[simp] theorem bindRings_regs (k : Core) (pc : BitVec 14) (lvl : Nat) : (bindRings k pc lvl).regs = k.regs := rfl
@[simp] theorem bindRings_loops (k : Core) (pc : BitVec 14) (lvl : Nat) : (bindRings k pc lvl).loops = k.loops := rfl
@[simp] theorem bindRings_st (k : Core) (pc : BitVec 14) (lvl : Nat) : (bindRings k pc lvl).st = k.st := rfl
@[simp] theorem bindRings_lastIssue (k : Core) (pc : BitVec 14) (lvl : Nat) : (bindRings k pc lvl).lastIssue = k.lastIssue := rfl

/-- LOOP with count 0 below the fifth level. -/
theorem loopAt_of_zero {s : State} {c : Nat} {cnt : SReg} (h : Hdr) (last : BitVec 14) (period : BitVec 16)
    (hlvl : (s.core c).loops.length < 4) (hcnt : (s.core c).reg cnt = 0) :
    loopAt s c h cnt last period = issue s c fun k => { bindRings k (s.core c).pc 5 with pc := last + 1 } := by
  unfold loopAt
  simp only [Nat.not_le.mpr hlvl, hcnt, if_false]
  rfl

/-- LOOP with any other count below the fifth level. -/
theorem loopAt_of_ne_zero {s : State} {c : Nat} {cnt : SReg} (h : Hdr) (last : BitVec 14) (period : BitVec 16)
    (hlvl : (s.core c).loops.length < 4) (hcnt : (s.core c).reg cnt ≠ 0) :
    loopAt s c h cnt last period = issue s c fun k =>
      k.openLevel (s.core c).loops
        ⟨(s.core c).pc + 1, last, ((s.core c).reg cnt).toNat, 0, (s.core c).stamp h / 32, period.toNat⟩ (s.core c).pc (issueTime s c) := by
  have hne : ((s.core c).reg cnt).toNat ≠ 0 := fun h0 => hcnt (BitVec.eq_of_toNat_eq h0)
  unfold loopAt
  simp only [Nat.not_le.mpr hlvl, hne, if_false]
  rfl

section BodyEnd

variable {s : State} {c : Nat} {outer : List LoopLvl} {l : LoopLvl}
variable (hloops : (s.core c).loops = outer ++ [l]) (hpc : (s.core c).pc = l.last + 1) (hst : (s.core c).st = .running)
variable (hended : (s.core c).ended = false) (hhalted : (s.core c).halted = false) (hwait : (s.core c).wait = .none)
include hloops hpc hst hended hhalted hwait

/-- The innermost level decides at its body end: it returns to the body start, or closes. -/
theorem iterate_of_bodyEnd : iterate s c =
    if l.idx + 1 < l.count then
      s.setCore c (ringFetches { s.core c with loops := outer ++ [{ l with idx := l.idx + 1 }], pc := l.body }
        ((s.core c).loops.length - 1) { l with idx := l.idx + 1 } (issueTime s c))
    else s.setCore c { s.core c with loops := outer, rings := (s.core c).rings.filter fun r => r.level + 1 != (s.core c).loops.length } := by
  have hlast : (s.core c).loops.getLast? = some l := by rw [hloops, List.getLast?_concat]
  have hinit : (s.core c).loops.dropLast = outer := by rw [hloops, List.dropLast_concat]
  have hend : (s.core c).atBodyEnd = true := by simp [Core.atBodyEnd, hlast, hpc]
  unfold iterate
  simp only [hend, hst, hended, hhalted, hwait, hlast, hinit, beq_self_eq_true, Bool.not_false, Bool.and_true, if_true]

end BodyEnd

/-! ### Engine instructions (R219, R220) -/

/-- The entry that an engine instruction issued by core `c` leaves in its queue. -/
def entryAt (s : State) (c : Nat) (h : Hdr) (op : EngineOp) : QEntry :=
  mkEntry (s.core c) op (s.core c).pc (issueTime s c) (if h.s then some ((s.core c).stamp h) else none)

theorem issueEngine_of_room {s : State} {c : Nat} (h : Hdr) {op : EngineOp}
    (hroom : (s.core c).depth (opQueue op) < queueCap (opQueue op)) :
    issueEngine s c h op = issue s c fun k => k.enqueue (entryAt s c h op) :=
  if_pos hroom

/-- An engine instruction whose queue is full does not issue. -/
theorem issueEngine_of_full {s : State} {c : Nat} (h : Hdr) {op : EngineOp}
    (hfull : queueCap (opQueue op) ≤ (s.core c).depth (opQueue op)) : issueEngine s c h op = s :=
  if_neg (Nat.not_lt.mpr hfull)

/-- An engine instruction enters its queue while that is below its depth. -/
theorem issueEngine_enqueued {s : State} {c : Nat} (h : Hdr) {op : EngineOp} (hi : (s.core c).canIssue = true)
    (hroom : (s.core c).depth (opQueue op) < queueCap (opQueue op)) : Enqueued s (issueEngine s c h op) c h op := by
  rw [issueEngine_of_room h hroom]
  have hqueue (n : Nat) : ((issue s c fun k => k.enqueue (entryAt s c h op)).core c).queue n =
      if n = opQueue op then (s.core c).queue (opQueue op) ++ [entryAt s c h op] else (s.core c).queue n := by
    rw [issue_core hi]
    exact Core.enqueue_queue _ _ n
  refine ⟨issued_issue hi fun _ => rfl, by rw [issue_core hi]; rfl, by rw [issue_core hi]; rfl, fun n hn => ?_,
    entryAt s c h op, ?_, rfl, rfl, rfl, fun r hr => ?_, rfl, rfl⟩
  · rw [hqueue, if_neg hn]
  · rw [hqueue, if_pos rfl]
  · exact List.mem_map.mpr ⟨r, hr, rfl⟩

/-- Rings that a core names beside bear on nothing that the entry of a queue says. -/
theorem Enqueued.modRings {s t : State} {c : Nat} {h : Hdr} {op : EngineOp} (henq : Enqueued s t c h op) (f : Core → List Ring) :
    Enqueued s (t.modCore c fun k => { k with rings := f k }) c h op := by
  obtain ⟨⟨hframe, hcores, hlast⟩, hpc, hregs, hqueues, hentry⟩ := henq
  have hcore : (t.modCore c fun k => { k with rings := f k }).core c = { t.core c with rings := f (t.core c) } := by
    rw [State.modCore_core, if_pos rfl]
  unfold Enqueued Issued
  rw [hcore]
  refine ⟨⟨?_, fun x hx => ?_, hlast⟩, hpc, hregs, hqueues, hentry⟩
  · rw [hframe]
    rfl
  · rw [State.modCore_core, if_neg hx, hcores x hx]

/-- PREFETCH also names a ring, not bound yet (R254). -/
theorem execPrefetch_of_room {s : State} {c : CoreN} (h : Hdr) (f : PrefF) (hi : (s.core c).canIssue = true) (hroom : (s.core c).depth 3 < 64) :
    exec (.prefetch c h f) s = .next ((issueEngine s c h (.prefetch f)).modCore c fun k =>
      { k with rings := k.rings ++ [⟨f, 4, (s.core c).loops, (s.core c).pc⟩] }) :=
  congrArg Host.Outcome.next (if_pos (by rw [hi, Bool.true_and]; exact decide_eq_true hroom))

theorem execPrefetch_of_full {s : State} {c : CoreN} (h : Hdr) (f : PrefF) (hfull : 64 ≤ (s.core c).depth 3) :
    exec (.prefetch c h f) s = .next s :=
  congrArg Host.Outcome.next (if_neg (by simp only [queueCap, Bool.and_eq_true, decide_eq_true_eq]; omega))

end Sys2Proof.Machine
end

section
/-! PROOFS. O1 to O4 and O6: scalar instructions, waits, loops, and entry into the queues (R219, R227, R235, R236, R238). -/

namespace Sys2Proof.Proofs
open Sys2Proof Sys2Proof.Machine

/-- Settles O1: `scalar_writes` says what a scalar instruction changes; what is left is the value of each. -/
theorem scalarInstructionsCompute : Obligations.ScalarInstructionsCompute := by
  unfold Obligations.ScalarInstructionsCompute
  refine ⟨fun s c d a b imm h => ?_, fun s c d a b h => ?_⟩
  · exact ⟨⟨_, rfl, scalar_writes h rfl⟩, ⟨_, rfl, scalar_writes h rfl⟩, ⟨_, rfl, scalar_writes h rfl⟩, ⟨_, rfl, scalar_writes h rfl⟩,
      ⟨_, rfl, scalar_writes h rfl⟩, ⟨_, rfl, scalar_writes h rfl⟩, ⟨_, rfl, scalar_writes h rfl⟩, ⟨_, rfl, scalar_writes h rfl⟩⟩
  · exact ⟨⟨_, rfl, scalar_writes h (shiftLeft_low_five _ _)⟩, ⟨_, rfl, scalar_writes h (ushiftRight_low_five _ _)⟩,
      ⟨_, rfl, scalar_writes h (min_by_ult _ _)⟩, ⟨_, rfl, scalar_writes h (max_by_ult _ _)⟩⟩

/-- Settles O2: words by `scrWord_eq` and `bget_bwrite_word` at the address of `wordAddr_eq`, features row by row of Table 7-17. -/
theorem scalarWordsIndicesFeatures : Obligations.ScalarWordsIndicesFeatures := by
  unfold Obligations.ScalarWordsIndicesFeatures
  intro s c d a imm level index h
  refine ⟨⟨_, rfl, scalar_writes h ?_⟩, ⟨_, exec_sst d a imm h, ?_, fun x => ?_, fun x => ?_⟩, ⟨_, rfl, scalar_writes h ?_⟩,
    ⟨_, rfl, scalar_writes h ?_⟩⟩
  · rw [scrWord_eq, wordAddr_eq]
    rfl
  · rw [issue_of id h]
    rfl
  · rw [issue_of id h]
    exact State.setCore_core _ _ _ _
  · rw [wordAddr_eq]
    exact bget_bwrite_word _ _ _ _
  · by_cases hopen : level.toNat < (s.core c).loops.length
    · simp [hopen]
    · simp [hopen]
  · generalize index.toNat = i
    by_cases hi : 27 ≤ i
    · obtain ⟨n, rfl⟩ := Nat.exists_eq_add_of_le' hi
      rfl
    · have hticks : tickLen s.gov.level * 2 ^ 8 = 256 * ((512 + (16 - s.gov.level) - 1) / (16 - s.gov.level)) := Nat.mul_comm _ _
      unfold featReg
      rw [hticks]
      interval_cases i
      all_goals rfl

/-- Settles O3: each wait is one issue whose effect on the core is its wait; a posted tick ends it. -/
theorem waitsHoldIssue : Obligations.WaitsHoldIssue := by
  unfold Obligations.WaitsHoldIssue
  intro s c h save resume queue depth tick
  refine ⟨fun hi => ⟨⟨_, rfl, issuedAs_issue hi rfl⟩, fun hmet => ?_, ?_, ?_⟩, fun hunmet hqueue => ?_, fun hposted => ?_⟩
  · exact ⟨_, congrArg Host.Outcome.next (if_pos hmet.symm), issuedAs_issue hi rfl⟩
  · exact ⟨_, rfl, issuedAs_issue hi rfl, Core.canIssue_of_wait (by rw [issue_core hi]; simp)⟩
  · obtain ⟨a, b, hwait, htile⟩ := (s.core c).dstepWait_eq
    refine ⟨_, exec_dstep, ⟨a, b, issuedAs_issue hi (by rw [hwait]), htile⟩, Core.canIssue_of_wait ?_⟩
    rw [issue_core hi, hwait]
    simp
  · exact congrArg Host.Outcome.next (if_neg (by omega))
  · rw [exec_dstepResume hposted]
    exact ⟨_, rfl, rfl, fun x => State.modCore_core _ _ _ _⟩

/-- Settles O4: a LOOP is an issue that skips the body or opens a level, and neither binding nor fetching of rings touches more. -/
theorem loopsRunTheirCounts : Obligations.LoopsRunTheirCounts := by
  unfold Obligations.LoopsRunTheirCounts
  intro s c h cnt last period l outer
  refine ⟨fun hi hlvl => ⟨_, rfl, ?_⟩, fun hloops hpc hst hended hhalted hwait => ⟨_, rfl, ?_⟩⟩
  · by_cases hcnt : (s.core c).reg cnt = 0
    · rw [if_pos hcnt, loopAt_of_zero h last period hlvl hcnt]
      refine ⟨issued_issue hi fun _ => rfl, ?_⟩
      rw [issue_core hi]
      exact ⟨⟨rfl, rfl⟩, rfl, rfl⟩
    · rw [if_neg hcnt, loopAt_of_ne_zero h last period hlvl hcnt, Core.stamp_div]
      refine ⟨issued_issue hi fun _ => by simp [Core.openLevel], ?_⟩
      rw [issue_core hi]
      simp [Core.openLevel]
  · rw [iterate_of_bodyEnd hloops hpc hst hended hhalted hwait]
    by_cases hmore : l.idx + 1 < l.count
    · rw [if_pos hmore, if_pos hmore]
      refine ⟨rfl, fun x hx => (State.setCore_core _ _ _ _).trans (if_neg hx), ?_⟩
      simp
    · rw [if_neg hmore, if_neg hmore]
      refine ⟨rfl, fun x hx => (State.setCore_core _ _ _ _).trans (if_neg hx), ?_⟩
      simp

/-- Settles O6: `issueEngine_enqueued` for every instruction whose queue has room, `issueEngine_of_full` for the others. -/
theorem engineInstructionsEnterTheirQueues : Obligations.EngineInstructionsEnterTheirQueues := by
  unfold Obligations.EngineInstructionsEnterTheirQueues
  refine ⟨fun s c h hi => ⟨fun h0 => ?_, fun h1 f => ⟨_, rfl, issueEngine_enqueued h hi h1⟩, fun h2 => ?_, fun h3 => ?_, fun h4 => ?_⟩,
    fun s c h => ⟨fun h0 f => congrArg Host.Outcome.next (issueEngine_of_full h h0),
      fun h1 f => congrArg Host.Outcome.next (issueEngine_of_full h h1), fun h2 f => congrArg Host.Outcome.next (issueEngine_of_full h h2),
      fun h3 f => execPrefetch_of_full h f h3, fun h4 f => congrArg Host.Outcome.next (issueEngine_of_full h h4)⟩⟩
  · exact ⟨fun f => ⟨_, rfl, issueEngine_enqueued h hi h0⟩, fun f => ⟨_, rfl, issueEngine_enqueued h hi h0⟩,
      fun f => ⟨_, rfl, issueEngine_enqueued h hi h0⟩, fun f => ⟨_, rfl, issueEngine_enqueued h hi h0⟩⟩
  · exact ⟨fun f => ⟨_, rfl, issueEngine_enqueued h hi h2⟩, fun f => ⟨_, rfl, issueEngine_enqueued h hi h2⟩,
      fun f => ⟨_, rfl, issueEngine_enqueued h hi h2⟩, fun f => ⟨_, rfl, issueEngine_enqueued h hi h2⟩,
      fun f => ⟨_, rfl, issueEngine_enqueued h hi h2⟩, fun f => ⟨_, rfl, issueEngine_enqueued h hi h2⟩,
      fun f => ⟨_, rfl, issueEngine_enqueued h hi h2⟩, fun f => ⟨_, rfl, issueEngine_enqueued h hi h2⟩⟩
  · refine ⟨fun f => ⟨_, rfl, issueEngine_enqueued h hi h3⟩, fun f => ⟨_, rfl, issueEngine_enqueued h hi h3⟩,
      fun f => ⟨_, rfl, issueEngine_enqueued h hi h3⟩, fun f => ⟨_, execPrefetch_of_room h f hi h3, ?_, ?_⟩,
      fun f => ⟨_, rfl, issueEngine_enqueued h hi h3⟩⟩
    · exact (issueEngine_enqueued (op := .prefetch f) h hi h3).modRings _
    · rw [State.modCore_core, if_pos rfl, issueEngine_of_room (op := .prefetch f) h h3, issue_core hi]
      rfl
  · exact ⟨fun f => ⟨_, rfl, issueEngine_enqueued h hi h4⟩, fun f => ⟨_, rfl, issueEngine_enqueued h hi h4⟩⟩

end Sys2Proof.Proofs
end

section
/-! SUPPORT. A core that halts, a BUDGET in time, and the end of a job (R228, R235, R283, R334). -/

namespace Sys2Proof.Machine

/-! ### Core faults (R228, R259) -/

theorem Counted.sameBytes {s t : State} (h : Counted s t) : SameBytes s t := by
  obtain ⟨_, _, _, _, _, _, rfl⟩ := h
  exact sameBytes_of_eq rfl rfl rfl rfl rfl

/-- CORE_FAULT that holds no fault takes the one that comes. -/
theorem Core.fault1_of_none {k : Core} (h : k.fault.valid = false) (pc : BitVec 14) (st : Status) (cause : BitVec 3) (ex ac : Nat) :
    ∃ f, k.fault1 pc st cause ex ac = { k with fault := f } ∧ f.valid = true ∧ f.pc = pc ∧ f.status = st ∧ f.cause = cause := by
  unfold Core.fault1
  rw [h]
  exact ⟨_, rfl, rfl, rfl, rfl, rfl⟩

theorem coreFaultFree_core_same (s : State) (c : Nat) (pc : BitVec 14) (st : Status) (cause : BitVec 3) :
    ∃ ex ac, (coreFaultFree s c pc st cause).core c = (s.core c).fault1 pc st cause ex ac := by
  have hpc : ((pc.toNat : Nat) : BitVec 14) = pc := by simp
  have hlog (u : State) (ex ac : Nat) : (coreFault u c pc st cause ex ac).core c = (u.core c).fault1 pc st cause ex ac := by
    have h := coreFault_core u c pc.toNat st cause ex ac c
    rwa [hpc, if_pos rfl] at h
  exact ⟨_, _, hlog _ _ _⟩

theorem haltCore_counted (s : State) (c : Nat) : Counted s (haltCore s c) := by
  unfold haltCore
  split
  · exact (advance_counted s _).trans ((modCore_counted _ _ _).trans (coreFaultFree_counted _ _ _ _ _))
  · exact .refl s

/-- A core halts at an instruction that it does not execute, and its empty CORE_FAULT records CAUSE 3 and BAD_FORMAT. -/
theorem haltCore_core {s : State} {c : Nat} (hi : (s.core c).canIssue = true) (hfault : (s.core c).fault.valid = false) :
    ∃ n st f, (haltCore s c).core c = { s.core c with halted := true, lastIssue := n, st := st, fault := f } ∧
      f.valid = true ∧ f.pc = (s.core c).pc ∧ f.status = St.badFormat ∧ f.cause = 3 := by
  unfold haltCore
  rw [if_pos hi]
  obtain ⟨ex, ac, h⟩ := coreFaultFree_core_same ((s.advance (issueTime s c)).modCore c fun k =>
    { k with halted := true, lastIssue := issueTime s c + 1, st := if k.drained then .stopped else k.st }) c (s.core c).pc St.badFormat 3
  rw [State.modCore_core, if_pos rfl] at h
  obtain ⟨f, hf, hrest⟩ := Core.fault1_of_none (k := { s.core c with
    halted := true, lastIssue := issueTime s c + 1, st := if (s.core c).drained then .stopped else (s.core c).st }) hfault
    (s.core c).pc St.badFormat 3 ex ac
  exact ⟨_, _, f, h.trans hf, hrest⟩

/-! ### BUDGET (R283) -/

/-- A BUDGET that issues two ticks or more before its tick declares from that tick on. -/
theorem budgetAt_in_time {s : State} {c : Nat} {h : Hdr} {from_ : Nat} (q : BitVec 8) (span : BitVec 16) (hi : (s.core c).canIssue = true)
    (hfrom : (s.core c).stamp h / 32 = from_) (htime : issueTime s c / 32 + 2 ≤ from_) :
    budgetAt s c h q span = issue s c fun k => { k with budget := ⟨from_, span.toNat, q.toNat, from_⟩ :: k.budget } := by
  unfold budgetAt
  simp only [hi, if_true, hfrom, Nat.max_eq_left htime, Nat.lt_irrefl, if_false]

/-! ### The end of a job (R213, R334) -/

theorem partOfCore_congr {s t : State} (h : t.parts = s.parts) (c : Nat) : partOfCore t c = partOfCore s c := by
  unfold partOfCore partOfGroup State.part
  rw [h]

/-- A job has ended when each core of its image has, with empty queues. -/
theorem jobEnded_eq {s : State} {p i : Nat} {x : ImgInfo} (hrun : (s.part p).running = some i)
    (hinfo : ((s.part p).img.getD i Img.fresh).info = some x) :
    jobEnded s p = x.cores.all fun c => (s.core c).ended && (s.core c).drained := by
  simp only [jobEnded, hrun, hinfo]

theorem checkEnd_of_not_ended {s : State} {c : Nat} (h : ∀ p, partOfCore s c = some p → jobEnded s p = false) : checkEnd s c = s := by
  unfold checkEnd
  split
  · rfl
  · next p hp =>
    rw [h p hp]
    rfl

theorem checkEnd_of_ended {s : State} {c p : Nat} (hp : partOfCore s c = some p) (hended : jobEnded s p = true)
    (hsaving : (s.part p).saving = false) : checkEnd s c = endJobNow (leaveStep s p) p .ready St.ok .idle := by
  simp only [checkEnd, hp, hended, hsaving, Bool.not_false, Bool.and_true, if_true]

theorem NoneInFlight.congr {s t : State} {p : Nat} (h : NoneInFlight s p) (hlive : (t.part p).live = (s.part p).live)
    (hqueues : ∀ c, (t.core c).queues = (s.core c).queues) : NoneInFlight t p := by
  intro c hc q hq e he l hl
  have hcores : coresOf t p = coresOf s p := by simp only [coresOf, hlive]
  have hqueue : (t.core c).queue q = (s.core c).queue q := by simp only [Core.queue, hqueues]
  exact h c (hcores ▸ hc) q hq e (hqueue ▸ he) l hl

/-- Where no Chive transfer is in flight, a job's end cuts none off. -/
theorem cutPart_of_noneInFlight {s : State} {p : Nat} (h : NoneInFlight s p) : cutPart s p = s := by
  unfold cutPart
  refine List.foldlRecOn (motive := fun u : State => u = s) (coresOf s p) _ rfl ?_
  rintro u rfl c hc
  refine List.foldlRecOn (motive := fun v : State => v = u) _ _ rfl ?_
  rintro v rfl e he
  have hqueue : ∃ q, (q = 3 ∨ q = 5) ∧ e ∈ (v.core c).queue q := by
    rcases List.mem_append.mp he with he | he
    · exact ⟨3, .inl rfl, he⟩
    · exact ⟨5, .inr rfl, he⟩
  obtain ⟨q, hq, he⟩ := hqueue
  split
  · next l hl => rw [h c hc q hq e he l hl, if_pos rfl]
  · rfl

/-- Cores changed one after another: nothing but cores changes. -/
theorem foldl_modCore_eq (f : Nat → Core → Core) (cs : List Nat) (s : State) :
    ∃ ks, cs.foldl (fun s c => s.modCore c (f c)) s = { s with cores := ks } := by
  refine List.foldlRecOn (motive := fun u : State => ∃ ks, u = { s with cores := ks }) cs _ ⟨_, rfl⟩ ?_
  rintro u ⟨ks, rfl⟩ c -
  exact ⟨_, rfl⟩

/-- A running job ends: its image takes state and status, and nothing runs. -/
def Part.endRun (q : Part) (i : Nat) (img : ImgState) (st : Status) (now : Nat) : Part :=
  { (q.modImg i fun g => { g with st := img, last := st }) with
    running := none, stop := none, yield_ := none, saving := false, resume := none, releaseFrom := now }

theorem endJobNow_of_noneInFlight {s : State} {p i : Nat} (img : ImgState) (st : Status) (seq : SeqState)
    (hrun : (s.part p).running = some i) (hnone : NoneInFlight s p) :
    (endJobNow s p img st seq).part p = (s.part p).endRun i img st s.gov.now ∧ Counted s (endJobNow s p img st seq) := by
  unfold endJobNow
  simp only [hrun, cutPart_of_noneInFlight hnone]
  obtain ⟨ks, h⟩ := foldl_modCore_eq (fun _ k => { k with saved := smod SeqCtx.fresh k.saved i fun x => { x with mint := k.mintCount } })
    (imageCores (s.part p) i) s
  obtain ⟨ks', h'⟩ := foldl_modCore_eq (fun _ k => k.endJob seq) (coresOf { s with cores := ks } p) { s with cores := ks }
  rw [h]
  unfold modCores
  rw [h']
  exact ⟨by rw [State.modPart_part, if_pos rfl]; rfl, ⟨_, _, _, _, _, _, rfl⟩⟩

/-- After its end no job of the partition runs. -/
theorem endJobNow_running (s : State) (p : Nat) (img : ImgState) (st : Status) (seq : SeqState) :
    ((endJobNow s p img st seq).part p).running = none := by
  unfold endJobNow
  split
  · assumption
  · dsimp only
    rw [State.modPart_part, if_pos rfl]

/-- An image that is loaded takes a change. -/
theorem Part.modImg_getD {q : Part} {i : Nat} {x : ImgInfo} (h : (q.img.getD i Img.fresh).info = some x) (f : Img → Img) :
    (q.modImg i f).img.getD i Img.fresh = f (q.img.getD i Img.fresh) := by
  have hlt : i < q.img.length := by
    by_contra hout
    rw [List.getD_eq_default _ _ (Nat.le_of_not_lt hout)] at h
    contradiction
  simp [Part.modImg, List.getD, hlt]

/-! ### END (R235) -/

/-- END issued. -/
def issueEnd (s : State) (c : Nat) : State := issue s c fun k => { k with ended := true }

theorem issueEnd_ended {s : State} {c : Nat} (hi : (s.core c).canIssue = true) (y : Nat) :
    ((issueEnd s c).core y).ended = true ↔ y = c ∨ (s.core y).ended = true := by
  unfold issueEnd
  by_cases hy : y = c
  · subst hy
    rw [issue_core hi]
    simp
  · rw [issue_core_ne hy]
    simp [hy]

theorem issueEnd_queues (s : State) (c y : Nat) : ((issueEnd s c).core y).queues = (s.core y).queues := by
  unfold issueEnd issue
  split
  · rw [State.setCore_core]
    split
    · next hy => rw [hy]
    · rfl
  · rfl

theorem partOfCore_issueEnd (s : State) (c x : Nat) : partOfCore (issueEnd s c) x = partOfCore s x :=
  partOfCore_congr (issue_parts s c _) x

section Ends

variable {s : State} {c p i : Nat} {x : ImgInfo} (hi : (s.core c).canIssue = true) (hp : partOfCore s c = some p)
variable (hrun : (s.part p).running = some i) (hinfo : ((s.part p).img.getD i Img.fresh).info = some x)
include hi hrun hinfo

/-- The job has ended with an END when every core of it is at its END or ends now, with empty queues. -/
theorem jobEnded_issueEnd : jobEnded (issueEnd s c) p = true ↔ ∀ y ∈ x.cores, (y = c ∨ (s.core y).ended = true) ∧ (s.core y).drained = true := by
  have hpart : (issueEnd s c).part p = s.part p := issue_part s c _ p
  rw [jobEnded_eq (hpart ▸ hrun) (hpart ▸ hinfo)]
  simp only [List.all_eq_true, Bool.and_eq_true, issueEnd_ended hi, Core.drained, Core.queue, issueEnd_queues]

include hp

/-- An END with which the last core of the job ends: the job is over, its image READY with OK, and no byte has changed. -/
theorem checkEnd_issueEnd (hlast : ∀ y ∈ x.cores, (s.core y).drained = true ∧ (y = c ∨ (s.core y).ended = true))
    (hsaving : (s.part p).saving = false) (hnone : NoneInFlight s p) :
    (∃ d n, (checkEnd (issueEnd s c) c).part p = ({ s.part p with dill := d } : Part).endRun i .ready St.ok n) ∧
      Counted s (checkEnd (issueEnd s c) c) := by
  have hpart : (issueEnd s c).part p = s.part p := issue_part s c _ p
  have hended := (jobEnded_issueEnd hi hrun hinfo).mpr fun y hy => (hlast y hy).symm
  rw [checkEnd_of_ended ((partOfCore_issueEnd s c c).trans hp) hended (by rw [hpart, hsaving])]
  have hleft : ∃ d, (leaveStep (issueEnd s c) p).part p = { s.part p with dill := d } := by
    unfold leaveStep
    rw [State.modPart_part, if_pos rfl, hpart]
    exact ⟨_, rfl⟩
  obtain ⟨d, hleft⟩ := hleft
  have hquiet : NoneInFlight (leaveStep (issueEnd s c) p) p := hnone.congr (by rw [hleft]) fun y => issueEnd_queues s c y
  obtain ⟨hend, hcounted⟩ := endJobNow_of_noneInFlight .ready St.ok .idle (by rw [hleft]; exact hrun) hquiet
  have hissued : Counted s (leaveStep (issueEnd s c) p) := (issue_counted s c _).trans ⟨_, _, _, _, _, _, rfl⟩
  exact ⟨⟨d, _, by rw [hend, hleft]⟩, hissued.trans hcounted⟩

end Ends

end Sys2Proof.Machine
end

section
/-! PROOFS. O5: BUDGET, instructions that halt a core, and END (R228, R235, R237, R283). -/

namespace Sys2Proof.Proofs
open Sys2Proof Sys2Proof.Machine

/-- Settles O5: `budgetAt_in_time`, `haltCore_core`, and for END `jobEnded_issueEnd`, which decides whether `checkEnd` ends the job. -/
theorem budgetReservedAndEnd : Obligations.BudgetReservedAndEnd := by
  unfold Obligations.BudgetReservedAndEnd
  intro s c h q span cnt last period hi
  refine ⟨fun htime hcyc => ⟨_, rfl, ?_⟩, fun hfault => ?_, fun hother => ⟨issueEnd s c, ?_, issuedAs_issue hi rfl⟩,
    fun p i x hp hrun hinfo hlast hsaving hnone => ⟨checkEnd (issueEnd s c) c, rfl, ?_⟩⟩
  · have hfrom : (s.core c).stamp h / 32 = regionBase (s.core c).loops (s.core c).segBase + h.tick.toNat := by
      rw [Core.stamp_div, hcyc]
      rfl
    rw [budgetAt_in_time q span hi hfrom htime]
    exact issuedAs_issue hi rfl
  · obtain ⟨n, st, f, hcore, hvalid, hpc, hstatus, hcause⟩ := haltCore_core hi hfault
    have hbytes := (haltCore_counted s c).sameBytes
    refine ⟨⟨_, rfl, ?_⟩, fun hlvl => ⟨_, congrArg Host.Outcome.next (if_pos hlvl), ?_⟩⟩
    · rw [hcore]
      exact ⟨rfl, by simp [Core.canIssue], rfl, hvalid, hcause, hstatus, hpc, hbytes⟩
    · rw [hcore]
      exact ⟨rfl, hcause, rfl, hbytes⟩
  · refine congrArg Host.Outcome.next (checkEnd_of_not_ended (s := issueEnd s c) fun p hp => ?_)
    rw [partOfCore_issueEnd] at hp
    obtain ⟨i, x, y, hrun, hinfo, hy, hne, hgoes⟩ := hother p hp
    rw [Bool.eq_false_iff]
    intro hended
    rcases ((jobEnded_issueEnd hi hrun hinfo).mp hended y hy).1 with heq | hend
    · exact hne heq
    · exact absurd (hend.symm.trans hgoes) (by decide)
  · obtain ⟨⟨d, n, hpart⟩, hcounted⟩ := checkEnd_issueEnd hi hp hrun hinfo hlast hsaving hnone
    have himg : ((({ s.part p with dill := d } : Part).endRun i .ready St.ok n).img.getD i Img.fresh) =
      { (s.part p).img.getD i Img.fresh with st := .ready, last := St.ok } := Part.modImg_getD (q := { s.part p with dill := d }) hinfo _
    rw [hpart, himg]
    exact ⟨rfl, rfl, rfl, hcounted.sameBytes⟩

end Sys2Proof.Proofs
end

section
/-! SUPPORT. Tile boundaries of a job that nothing holds (R236, R267, R329). -/

namespace Sys2Proof.Machine

/-! ### Cores changed by a function -/

/-- A core of the list is changed once for each time that the list names it. -/
theorem modList_core (s : State) (cs : List Nat) (f : Core → Core) (x : Nat) :
    (modList s cs f).core x = f^[cs.count x] (s.core x) := by
  unfold modList
  induction cs generalizing s with
  | nil => rfl
  | cons c cs ih =>
    rw [List.foldl_cons, ih, State.modCore_core]
    by_cases hx : c = x
    · subst hx
      rw [if_pos rfl, List.count_cons_self, Function.iterate_succ_apply]
    · rw [if_neg (Ne.symm hx), List.count_cons_of_ne hx]

theorem modList_core_of_not_mem {cs : List Nat} {x : Nat} (h : x ∉ cs) (s : State) (f : Core → Core) :
    (modList s cs f).core x = s.core x := by
  rw [modList_core, List.count_eq_zero_of_not_mem h]
  rfl

/-- A change that leaves what it has changed already. -/
theorem modList_core_of_mem {cs : List Nat} {x : Nat} (h : x ∈ cs) {f : Core → Core} (hf : ∀ k, f (f k) = f k) (s : State) :
    (modList s cs f).core x = f (s.core x) := by
  have hiter (n : Nat) (k : Core) : f^[n + 1] k = f k := by
    induction n with
    | zero => rfl
    | succ n ih => rw [Function.iterate_succ_apply', ih, hf]
  obtain ⟨n, hn⟩ := Nat.exists_eq_succ_of_ne_zero (Nat.ne_of_gt (List.count_pos_iff.mpr h))
  rw [modList_core, hn, hiter]

theorem modList_eq (s : State) (cs : List Nat) (f : Core → Core) : ∃ ks, modList s cs f = { s with cores := ks } :=
  foldl_modCore_eq (fun _ => f) cs s

/-! ### The boundary (R236) -/

/-- The cores of a boundary wait at its stamp. -/
theorem tileStamp_of_mem_boundaryCores {s : State} {p c : Nat} (h : c ∈ (boundaryCores s p).1) :
    (s.core c).tileStamp = some (boundaryCores s p).2 := by
  unfold boundaryCores at h ⊢
  dsimp only at h ⊢
  generalize List.foldl (min : Nat → Nat → Nat) _ _ = t at *
  simp only [List.mem_map, List.mem_filter, List.mem_filterMap, Option.map_eq_some_iff, beq_iff_eq] at h
  obtain ⟨x, ⟨⟨c', -, t', hstamp, rfl⟩, rfl⟩, rfl⟩ := h
  exact hstamp

/-- A core that reached its TILE in time with empty queues passes the checks of the boundary. -/
theorem tileQueueCheck_of_quiet {s : State} {c t : Nat} (hstamp : (s.core c).tileStamp = some t) (hempty : (s.core c).depth0 = true)
    (hlast : (s.core c).lastIssue ≤ t + 1) : tileQueueCheck s c = s := by
  unfold tileQueueCheck
  split
  · next t' _ _ _ hwait =>
    have ht : t' = t := by simpa [Core.tileStamp, hwait] using hstamp
    subst ht
    simp only [Nat.not_lt.mpr hlast, if_false, hempty, if_true]
  · rfl

/-- The module at the boundary of tick `t / 32`: time has reached the stamp, seeds and Mint settings written before it are in force. -/
def atBoundary (s : State) (p t : Nat) : State := applyMint (applySeeds (s.advance t) p (t / 32)) p (t / 32)

theorem atBoundary_core (s : State) (p t c : Nat) : (atBoundary s p t).core c = s.core c := rfl
theorem atBoundary_now (s : State) (p t : Nat) : (atBoundary s p t).gov.now = max s.gov.now t := rfl
theorem atBoundary_sameBytes (s : State) (p t : Nat) : SameBytes s (atBoundary s p t) := sameBytes_of_eq rfl rfl rfl rfl rfl

/-- The partition at the boundary: of its registers only Mint's in force may change, and the rate written before is. -/
theorem atBoundary_part (s : State) (p t : Nat) : ∃ m, (atBoundary s p t).part p = { s.part p with mint := m } ∧
    ((s.part p).mint.since ≤ t / 32 → m.rateOn = (s.part p).mint.rate) := by
  unfold atBoundary applyMint
  rw [State.modPart_part, if_pos rfl]
  split
  · exact ⟨_, rfl, fun _ => rfl⟩
  · next h => exact ⟨_, rfl, fun h' => absurd h' h⟩

section Quiet

variable {s : State} {p : Nat} (hcores : (boundaryCores s p).1 ≠ []) (hrun : (s.part p).running.isSome) (hresume : (s.part p).resume = none)
variable (hsaving : (s.part p).saving = false) (hpause : (s.part p).pauseFrom = none) (hyield : (s.part p).yield_ = none)
variable (hquiet : ∀ c ∈ (boundaryCores s p).1, (s.core c).depth0 = true ∧ (s.core c).lastIssue ≤ (boundaryCores s p).2 + 1)
include hcores hrun hresume hsaving hpause hyield hquiet

/-- A boundary that finds the queues empty comes to what happens at it. -/
theorem tileBoundary_of_quiet :
    tileBoundary s p = boundaryAct (atBoundary s p (boundaryCores s p).2) p (boundaryCores s p).1 (boundaryCores s p).2 := by
  have hchecks : (boundaryCores s p).1.foldl tileQueueCheck (s.advance (boundaryCores s p).2) = s.advance (boundaryCores s p).2 := by
    refine List.foldlRecOn (motive := fun u : State => u = s.advance (boundaryCores s p).2) _ _ rfl ?_
    rintro u rfl c hc
    obtain ⟨hempty, hlast⟩ := hquiet c hc
    exact tileQueueCheck_of_quiet (tileStamp_of_mem_boundaryCores hc) hempty hlast
  obtain ⟨i, hrun⟩ := Option.isSome_iff_exists.mp hrun
  unfold tileBoundary
  simp only [hchecks, hrun, hresume, hsaving, hpause, hyield, List.isEmpty_eq_false_iff.mpr hcores, Option.isNone_some, Option.isSome_none,
    Bool.false_and, Bool.or_false, Bool.false_eq_true, if_false]
  rfl

end Quiet

/-! ### What happens at it (R278, R329) -/

theorem windowsSeen_of_not_due {s : State} {p : Nat} (h : windowsDue s p = false) (b : Nat) : windowsSeen s p b = false := by
  unfold windowsDue at h
  unfold windowsSeen
  rw [Bool.or_eq_false_iff] at h
  obtain ⟨hsuspects, hload⟩ := h
  have hnil : suspects s p = [] := by simpa using hsuspects
  rw [hnil]
  split
  · rfl
  · next l hl =>
    rw [hl] at hload
    simp only at hload
    rw [hload]
    rfl

theorem windowsDue_atBoundary (s : State) (p t : Nat) : windowsDue (atBoundary s p t) p = windowsDue s p := by
  obtain ⟨m, hpart, -⟩ := atBoundary_part s p t
  have hmacros : (atBoundary s p t).macros = s.macros := rfl
  unfold windowsDue suspects
  rw [hpart, hmacros]

/-- A core at which issue goes on at the boundary's time. -/
def Core.goOn (k : Core) (t : Nat) : Core := { k with wait := .none, st := .running, lastIssue := max k.lastIssue t }

theorem passBoundary_core_of_mem {cs : List Nat} {c : Nat} (h : c ∈ cs) (s : State) (t : Nat) :
    (passBoundary s cs t).core c = (s.core c).goOn t := by
  refine modList_core_of_mem h (fun k => ?_) s
  simp only [Nat.max_assoc, Nat.max_self]

/-- A boundary with nothing to stop, yield, reshape or reload: issue goes on. -/
theorem boundaryAct_passes {s : State} {p t : Nat} (cs : List Nat) (hstop : (s.part p).stop = none) (hyield : (s.part p).yield_ = none)
    (hreshape : (s.part p).reshape = none) (hdue : windowsDue s p = false) : boundaryAct s p cs t = passBoundary s cs t := by
  unfold boundaryAct
  simp only [hstop, hyield, hreshape, Option.isSome_none, Bool.false_and, windowsSeen_of_not_due hdue, Bool.false_eq_true, if_false]

/-- A stop that has reached the boundary ends the job there. -/
theorem boundaryAct_stops {s : State} {p t from_ : Nat} {st : Status} (cs : List Nat) (hstop : (s.part p).stop = some (st, from_))
    (hfrom : from_ ≤ t / 32) (hreplacing : (s.part p).replacing = none) : ((boundaryAct s p cs t).part p).running = none := by
  have hended : ((stopJob s p st).part p).running = none := endJobNow_running _ _ _ _ _
  have hyielded (y : Option (Preempt × Nat)) : (((stopJob s p st).modPart p fun x => { x with yield_ := y }).part p).running = none := by
    rw [State.modPart_part, if_pos rfl]
    exact hended
  unfold boundaryAct
  simp only [hstop, hfrom, if_true, hreplacing, Option.isSome_none, Bool.false_eq_true, if_false]
  split
  · split
    · exact hyielded _
    · split
      · exact hyielded _
      · exact hended
  · exact hended

end Sys2Proof.Machine
end

section
/-! PROOFS. O14: tile boundaries (R236, R329, R334). -/

namespace Sys2Proof.Proofs
open Sys2Proof Sys2Proof.Machine

/-- Settles O14: `tileBoundary_of_quiet` reduces the boundary to what happens at it, `boundaryAct_passes` or `boundaryAct_stops`. -/
theorem tileBoundaryPassesOrStops : Obligations.TileBoundaryPassesOrStops := by
  unfold Obligations.TileBoundaryPassesOrStops
  intro s p hcores hrun hresume hsaving hpause hyield hreplacing hreshape hquiet
  have hact := tileBoundary_of_quiet hcores hrun hresume hsaving hpause hyield hquiet
  generalize (boundaryCores s p).1 = cs at *
  generalize (boundaryCores s p).2 = t at *
  obtain ⟨m, hpart, hrate⟩ := atBoundary_part s p t
  refine ⟨fun hstop hdue => ⟨passBoundary (atBoundary s p t) cs t, ?_, ?_⟩, fun st from_ hstop hfrom => ⟨_, congrArg Host.Outcome.next hact, ?_⟩⟩
  · exact congrArg Host.Outcome.next (hact.trans (boundaryAct_passes cs (by rw [hpart, hstop]) (by rw [hpart, hyield]) (by rw [hpart, hreshape])
      ((windowsDue_atBoundary s p t).trans hdue)))
  · have hin (c : Nat) (hc : c ∈ cs) : (passBoundary (atBoundary s p t) cs t).core c = (s.core c).goOn t :=
      passBoundary_core_of_mem hc (atBoundary s p t) t
    have hout (c : Nat) (hc : c ∉ cs) : (passBoundary (atBoundary s p t) cs t).core c = s.core c :=
      modList_core_of_not_mem hc (atBoundary s p t) _
    obtain ⟨ks, hpass⟩ : ∃ ks, passBoundary (atBoundary s p t) cs t = { atBoundary s p t with cores := ks } := modList_eq _ _ _
    have hpart' : (passBoundary (atBoundary s p t) cs t).part p = { s.part p with mint := m } := by
      rw [hpass]
      exact hpart
    refine ⟨?_, ?_, hin, hout, fun hsince => ?_, ?_⟩
    · rw [hpass]
      exact atBoundary_sameBytes s p t
    · rw [hpass]
      exact atBoundary_now s p t
    · rw [hpart']
      exact hrate hsince
    · rw [hpart']
  · exact boundaryAct_stops cs (by rw [hpart, hstop]) hfrom (by rw [hpart, hreplacing])

end Sys2Proof.Proofs
end

section
/-! SUPPORT. What serving changes: completions, requests that end, and the posting and the end of a step (R238, R359, R360, R485). -/

namespace Sys2Proof.Machine

/-! ### Completions -/

theorem ErrOnly.recordNow {s t : State} (h : ErrOnly s t) (e : FaultEv) : ErrOnly s (recordNow t e) := by
  obtain ⟨_, _, rfl⟩ := h
  exact ⟨_, _, recordAt_eq _ _ e⟩

theorem ErrOnly.modQp {s t : State} (h : ErrOnly s t) (vf q : Nat) (f : Qp → Qp) : ErrOnly s (t.modQp vf q f) := by
  obtain ⟨_, _, rfl⟩ := h
  exact ⟨_, _, rfl⟩

theorem touchAts_errOnly (s : State) (vf : Nat) (addr : BitVec 64) : ErrOnly s (touchAts s vf addr) := ⟨_, _, rfl⟩

theorem modPair_errOnly (s : State) (vf q : Nat) (f : Qp → Qp) : ErrOnly s (modPair s vf q f) := by
  have hpair : ErrOnly s (s.modQp vf q f) := (ErrOnly.refl s).modQp vf q f
  unfold modPair
  dsimp only
  split
  · exact hpair
  · exact hpair.recordNow _

/-- A completion changes its queue pair, and records a fault where the pair is disabled in it (R481). -/
theorem complete_errOnly (s : State) (vf q : Nat) (c : Completion) : ErrOnly s (complete s vf q c) := by
  unfold complete
  extract_lets pair c
  split
  · exact modPair_errOnly _ _ _ _
  · exact (touchAts_errOnly _ _ _).modQp _ _ _

theorem completeReq_errOnly (s : State) (r : Req) (st : Status) : ErrOnly s (completeReq s r st) := by
  unfold completeReq
  split
  · exact .refl s
  · exact complete_errOnly _ _ _ _

theorem freePages_eq (s : State) (gs : List Nat) : ∃ ps m, freePages s gs = { s with pages := ps, stack := m } :=
  takePages_eq .free none 0xFFFF gs s

/-- Snapshots that are swept leave the partitions. -/
theorem sweepSnaps_parts (s : State) : (sweepSnaps s).parts = s.parts := by
  unfold sweepSnaps
  dsimp only
  obtain ⟨_, _, h⟩ := freePages_eq (dropPageLines s _) _
  rw [h]
  rfl

/-! ### Requests served and ended -/

/-- A partition whose requests change, and what Dill keeps of the contexts that it served (R98). -/
def Part.withReqs (q : Part) (reqs : List Req) (served : SMap Nat) : Part := { q with dill := { q.dill with reqs := reqs, served := served } }

/-- From `s` to `t` requests are served or ended: cores, cells, power and time stay, and of a partition only its
requests and the contexts served. -/
structure Served (s t : State) : Prop where
  cores : t.cores = s.cores
  cim : t.cim = s.cim
  pwr : t.pwr = s.pwr
  now : t.gov.now = s.gov.now
  part : ∀ p, ∃ reqs served, t.part p = (s.part p).withReqs reqs served

namespace Served

theorem of_eq {s t : State} (hcores : t.cores = s.cores) (hcim : t.cim = s.cim) (hpwr : t.pwr = s.pwr) (hnow : t.gov.now = s.gov.now)
    (hparts : t.parts = s.parts) : Served s t :=
  ⟨hcores, hcim, hpwr, hnow, fun p => ⟨_, _, by unfold State.part; rw [hparts]; rfl⟩⟩

theorem refl (s : State) : Served s s := of_eq rfl rfl rfl rfl rfl

theorem trans {s t u : State} (h : Served s t) (h' : Served t u) : Served s u := by
  refine ⟨h'.cores.trans h.cores, h'.cim.trans h.cim, h'.pwr.trans h.pwr, h'.now.trans h.now, fun p => ?_⟩
  obtain ⟨_, _, hp⟩ := h.part p
  obtain ⟨_, _, hp'⟩ := h'.part p
  rw [hp', hp]
  exact ⟨_, _, rfl⟩

theorem of_errOnly {s t : State} (h : ErrOnly s t) : Served s t := by
  obtain ⟨_, _, rfl⟩ := h
  exact of_eq rfl rfl rfl rfl rfl

theorem foldl {α : Type} {f : State → α → State} (hf : ∀ s a, Served s (f s a)) (l : List α) (s : State) : Served s (l.foldl f s) :=
  List.foldlRecOn (motive := fun u : State => Served s u) l f (refl s) fun u h a _ => h.trans (hf u a)

theorem modReqs (s : State) (p : Nat) (reqs : Part → List Req) (served : Part → SMap Nat) :
    Served s (s.modPart p fun q => q.withReqs (reqs q) (served q)) := by
  refine ⟨rfl, rfl, rfl, rfl, fun x => ?_⟩
  rw [State.modPart_part]
  split
  · next h => exact h ▸ ⟨_, _, rfl⟩
  · exact ⟨_, _, rfl⟩

theorem noteServed (s : State) (p : Nat) (cs : List (BitVec 16)) : Served s (noteServed s p cs) :=
  modReqs s p (fun q => q.dill.reqs) fun _ => _

theorem freeKv (s : State) (p : Nat) (ns : List Nat) : Served s (freeKv s p ns) := by
  unfold Machine.freeKv
  split
  · exact refl s
  · exact of_eq rfl rfl rfl rfl rfl

theorem freePages (s : State) (gs : List Nat) : Served s (freePages s gs) := by
  obtain ⟨_, _, h⟩ := freePages_eq s gs
  rw [h]
  exact of_eq rfl rfl rfl rfl rfl

theorem sweepSnaps (s : State) : Served s (sweepSnaps s) := by
  unfold Machine.sweepSnaps
  exact .trans (.trans (t := dropPageLines s _) (of_eq rfl rfl rfl rfl rfl) (freePages _ _)) (of_eq rfl rfl rfl rfl rfl)

theorem endSome (s : State) (p : Nat) (f : Req → Bool) (st : Status) : Served s (endSome s p f st) := by
  unfold Machine.endSome
  refine .trans ?_ (sweepSnaps _)
  refine .trans ?_ (modReqs _ p (fun q => q.dill.reqs.filter fun r => !f r) fun q => q.dill.served)
  exact .trans (foldl (fun u r => of_errOnly (completeReq_errOnly u r st)) _ s) (freeKv _ _ _)

theorem markStale (s : State) (c : BitVec 16) : Served s (markStale s c) := by
  refine foldl (fun u n => ?_) _ s
  dsimp only
  split
  · exact of_eq rfl rfl rfl rfl rfl
  · exact refl u

theorem sweepReqs (s : State) (p : Nat) : Served s (sweepReqs s p) := by
  unfold Machine.sweepReqs
  dsimp only
  refine .trans (.trans (endSome _ _ _ _) (foldl markStale _ _)) (foldl (fun u c => ?_) _ _)
  split
  · exact refl u
  · exact endSome _ _ _ _

theorem writeTables (s : State) (p base : Nat) (bs : List Byte) : Served s (writeTables s p base bs) :=
  foldl (f := fun s c => { s with scratch := bwrite s.scratch (scrAddr c base) bs }) (fun _ _ => of_eq rfl rfl rfl rfl rfl) _ s

theorem askGrant (s : State) (p : Nat) (x : ImgInfo) (t : Nat) : Served s (askGrant s p x t).2 := by
  unfold Machine.askGrant
  split
  · exact refl s
  · split
    · exact refl s
    · exact of_eq rfl rfl rfl rfl rfl

end Served

/-! ### Posting (R238, R359) -/

/-- Dill's use of contexts whose bindings agree with their complements goes on. -/
theorem onCtxs_of_ok {s : State} (h : ContextsOk s) (cs : List (BitVec 16)) (f : State → State) : onCtxs s cs f = f s := by
  have hok (c : BitVec 16) : (s.ctx c.toNat).ok = true := h _
  have hnone : ((cs.flatMap fun c => c :: partsOf s c).find? fun c => decide (c.toNat < 49152) && !(s.ctx c.toNat).ok) = none := by
    simp [List.find?_eq_none, hok]
  simp only [onCtxs, hnone]

/-- The named tick lies ahead. -/
theorem lt_postTick (s : State) (p b : Nat) : s.gov.now / 32 < postTick s p b := by
  unfold postTick
  dsimp only
  generalize List.foldl (max : Nat → Nat → Nat) _ _ = last
  omega

@[simp] theorem Core.setReg_pc (k : Core) (r : SReg) (v : W32) : (k.setReg r v).pc = k.pc := by
  unfold Core.setReg
  split <;> rfl

/-- A core to which Dill posts: the registers s24 on are written, and it waits for the named tick (R238). -/
def Core.posted (t : Nat) (vs : List Nat) (k : Core) : Core :=
  { vs.zipIdx.foldl (fun k (v : Nat × Nat) => k.setReg (BitVec.ofNat 5 (24 + v.2)) (BitVec.ofNat 32 v.1)) k with wait := .posted t }

theorem Core.posted_pc (t : Nat) (vs : List Nat) (k : Core) : (k.posted t vs).pc = k.pc :=
  List.foldlRecOn (motive := fun u : Core => u.pc = k.pc) vs.zipIdx _ rfl fun u h _ _ => (u.setReg_pc _ _).trans h

/-- Of up to eight values the first stands in s24 and the others above it. -/
theorem Core.posted_reg24 (t v : Nat) {vs : List Nat} (hlen : vs.length ≤ 7) (k : Core) :
    (k.posted t (v :: vs)).reg 24 = BitVec.ofNat 32 v := by
  have hfirst : (k.setReg 24 (BitVec.ofNat 32 v)).reg 24 = BitVec.ofNat 32 v := by rw [Core.setReg_reg, if_pos (by decide)]
  refine List.foldlRecOn (motive := fun u : Core => u.reg 24 = BitVec.ofNat 32 v) (vs.zipIdx 1) _ hfirst fun u h w hw => ?_
  obtain ⟨hlow, hhigh, -⟩ := List.mem_zipIdx hw
  rw [Core.setReg_reg, if_neg, h]
  rintro ⟨heq, -⟩
  have hval := congrArg BitVec.toNat heq
  rw [BitVec.toNat_ofNat, Nat.mod_eq_of_lt (by omega)] at hval
  change 24 = 24 + w.2 at hval
  omega

theorem postRegs_core (s : State) (p t : Nat) (vs : List Nat) (x : Nat) :
    (postRegs s p t vs).core x = (Core.posted t vs)^[(jobCores (s.part p)).count x] (s.core x) :=
  modList_core s _ _ x

/-- Every core of the job waits for the tick, with the first value in s24 and its program counter as it was. -/
theorem postRegs_core_of_mem {s : State} {p x : Nat} (h : x ∈ jobCores (s.part p)) (t v : Nat) {vs : List Nat} (hlen : vs.length ≤ 7) :
    ((postRegs s p t (v :: vs)).core x).wait = .posted t ∧ ((postRegs s p t (v :: vs)).core x).reg 24 = BitVec.ofNat 32 v ∧
      ((postRegs s p t (v :: vs)).core x).pc = (s.core x).pc := by
  have hpc (n : Nat) : ((Core.posted t (v :: vs))^[n] (s.core x)).pc = (s.core x).pc := by
    induction n with
    | zero => rfl
    | succ n ih => rw [Function.iterate_succ_apply', Core.posted_pc, ih]
  rw [postRegs_core]
  refine ⟨?_, ?_, hpc _⟩
  all_goals
    obtain ⟨n, hn⟩ := Nat.exists_eq_succ_of_ne_zero (Nat.ne_of_gt (List.count_pos_iff.mpr h))
    rw [hn, Function.iterate_succ_apply']
  · rfl
  · exact Core.posted_reg24 t v hlen _

/-- A step posted: its number and the values `vs` written from s24 on, the contexts of its rows noted, and Dill's record of the step. -/
def postStep (s : State) (p t : Nat) (vs : List Nat) (rows : List (BitVec 16)) (reqs : Part → List Req) : State :=
  (noteServed (postRegs s p t ((s.part p).dill.step.toNat :: vs)) p rows.eraseDups).modPart p fun q =>
    { q with dill := { q.dill with step := q.dill.step + 1, inStep := true, rowCtx := rows, reqs := reqs q } }

theorem postStep_core (s : State) (p t : Nat) (vs : List Nat) (rows : List (BitVec 16)) (reqs : Part → List Req) (c : Nat) :
    (postStep s p t vs rows reqs).core c = (postRegs s p t ((s.part p).dill.step.toNat :: vs)).core c := rfl

/-- A posting leaves cells and power, and counts the step. -/
theorem postStep_frame (s : State) (p t : Nat) (vs : List Nat) (rows : List (BitVec 16)) (reqs : Part → List Req) :
    (postStep s p t vs rows reqs).cim = s.cim ∧ (postStep s p t vs rows reqs).pwr = s.pwr ∧
    ((postStep s p t vs rows reqs).part p).dill.inStep = true ∧ ((postStep s p t vs rows reqs).part p).dill.step = (s.part p).dill.step + 1 := by
  obtain ⟨ks, hposted⟩ : ∃ ks, postRegs s p t ((s.part p).dill.step.toNat :: vs) = { s with cores := ks } := modList_eq _ _ _
  unfold postStep
  rw [hposted, State.modPart_part, if_pos rfl]
  unfold noteServed
  dsimp only
  rw [State.modPart_part, if_pos rfl]
  exact ⟨rfl, rfl, rfl, rfl⟩

theorem jobCores_of_serveInfo {s : State} {p : Nat} {x : ImgInfo} (h : serveInfo s p = some x) : jobCores (s.part p) = x.cores := by
  obtain ⟨i, hrun, hinfo⟩ := Option.bind_eq_some_iff.mp h
  simp only [jobCores, hrun, imageCores, hinfo]

/-- A posting with rows to run: requests are served up to it, and its tick lies ahead. -/
theorem stepPosting_of_rows {s : State} {p : Nat} {x : ImgInfo} (hserve : serveInfo s p = some x) (htraining : x.training = false)
    (hidle : (s.part p).dill.inStep = false) (hmay : mayPost s p = true) (hepoch : (s.part p).baseEpoch.ok = true) (hctx : ContextsOk s)
    (hrows : (admitReqs (sweepReqs s p) p x).isEmpty = false) :
    ∃ u t vs rows reqs, stepPosting s p = postStep u p t vs rows reqs ∧ Served s u ∧ vs.length ≤ 7 ∧
      s.gov.now / 32 < t := by
  have hswept : Served s (sweepReqs s p) := .sweepReqs s p
  unfold stepPosting
  simp only [hserve, htraining, hidle, hmay, hepoch, onCtxs_of_ok hctx, hrows, Bool.or_false, Bool.not_true, Bool.false_eq_true, if_false]
  refine ⟨_, _, _, _, _, rfl, ?_, ?_, ?_⟩
  · exact .trans (.trans hswept (.writeTables _ _ _ _)) (.askGrant _ _ _ _)
  · simp
  · rw [← hswept.now]
    exact lt_postTick _ _ _

/-! ### The end of a step (R360) -/

/-- The end of a step for one request: it holds no rows of the step any more. -/
theorem stepReq_served (s : State) (p : Nat) (outs : List StepOut) (r : Req) :
    Served s (stepReq s p outs r).1 ∧ ∀ r' ∈ (stepReq s p outs r).2, r'.rows = 0 := by
  unfold stepReq
  split
  · next h => exact ⟨.refl s, by simpa using h⟩
  · extract_lets ts r' ended final cs s'
    have hrows : r'.rows = 0 := rfl
    split
    · split
      · exact ⟨.freeKv _ _ _, by simp⟩
      · exact ⟨.refl s, by simpa using hrows⟩
    · have hcompleted : Served s s' := .foldl (fun u c => .of_errOnly (complete_errOnly u _ _ c)) _ _
      split
      · exact ⟨hcompleted.trans (.freeKv _ _ _), by simp⟩
      · split
        · exact ⟨.trans hcompleted (.trans (.of_errOnly (completeReq_errOnly _ _ _)) (.freeKv _ _ _)), by simp⟩
        · exact ⟨hcompleted, by simpa using hrows⟩

/-- A partition whose serving step is over. -/
def Part.stepOver (q : Part) (reqs : List Req) (served : SMap Nat) : Part :=
  { q with dill := { q.dill with reqs := reqs, served := served, inStep := false, rowCtx := [] } }

/-- The requests of a step after it, one after another: none holds rows of it. -/
theorem foldl_stepReq_served (s : State) (p : Nat) (outs : List StepOut) (rs : List Req) :
    Served s (rs.foldl (fun (st : State × List Req) r => ((stepReq st.1 p outs r).1, st.2 ++ (stepReq st.1 p outs r).2.toList)) (s, [])).1 ∧
    ∀ r ∈ (rs.foldl (fun (st : State × List Req) r => ((stepReq st.1 p outs r).1, st.2 ++ (stepReq st.1 p outs r).2.toList)) (s, [])).2,
      r.rows = 0 := by
  refine List.foldlRecOn (motive := fun st : State × List Req => Served s st.1 ∧ ∀ r ∈ st.2, r.rows = 0) rs _ ⟨.refl s, by simp⟩ ?_
  rintro st ⟨hserved, hrows⟩ r -
  obtain ⟨hserved', hrows'⟩ := stepReq_served st.1 p outs r
  refine ⟨hserved.trans hserved', fun r' hr' => ?_⟩
  rcases List.mem_append.mp hr' with hold | hnew
  · exact hrows r' hold
  · exact hrows' r' (Option.mem_toList.mp hnew)

/-- A serving step whose cores are at their next DSTEP is over. -/
theorem serveEnd_of_step {s : State} {p : Nat} (outs : List StepOut) (hstep : (s.part p).dill.inStep = true) (hcores : allAtDstep s p = true) :
    (serveEnd s p outs).cores = s.cores ∧
    ∃ reqs served, (∀ r ∈ reqs, r.rows = 0) ∧ (serveEnd s p outs).part p = (s.part p).stepOver reqs served := by
  obtain ⟨hserved, hrows⟩ := foldl_stepReq_served (noteServed s p (s.part p).dill.rowCtx.eraseDups) p outs (s.part p).dill.reqs
  unfold serveEnd
  simp only [hstep, hcores, Bool.not_true, Bool.or_self, Bool.false_eq_true, if_false]
  generalize List.foldl _ _ _ = st at *
  have hnoted := (Served.noteServed s p (s.part p).dill.rowCtx.eraseDups).trans hserved
  obtain ⟨reqs, served, hpart⟩ := hnoted.part p
  refine ⟨(Served.sweepSnaps _).cores.trans hnoted.cores, st.2, served, hrows, ?_⟩
  unfold State.part
  rw [sweepSnaps_parts]
  refine (State.modPart_part _ _ _ _).trans ((if_pos rfl).trans ?_)
  rw [hpart]
  rfl

theorem stepEnd_of_serving {s : State} {p : Nat} (outs : List StepOut) (h : ∀ x, serveInfo s p = some x → x.training = false) :
    stepEnd s p outs = serveEnd s p outs := by
  unfold stepEnd
  split
  · next x _ hx _ =>
    rw [h x hx]
    rfl
  · rfl

end Sys2Proof.Machine
end

section
/-! PROOFS. O24: the steps of a serving job (R238, R359, R360). -/

namespace Sys2Proof.Proofs
open Sys2Proof Sys2Proof.Machine

/-- Settles O24: `stepPosting_of_rows` and `serveEnd_of_step` say what a posting and the end of a step come to; on the way to either,
requests are only `Served`. -/
theorem servingStepsPostAndEnd : Obligations.ServingStepsPostAndEnd := by
  unfold Obligations.ServingStepsPostAndEnd
  refine ⟨fun s p x hserve htraining hidle hmay hepoch hctx hrows => ?_, fun s p outs hserving hstep hcores => ?_⟩
  · obtain ⟨u, t, vs, rows, reqs, heq, hserved, hlen, hahead⟩ := stepPosting_of_rows hserve htraining hidle hmay hepoch hctx hrows
    obtain ⟨_, _, hpart⟩ := hserved.part p
    have hstep : (u.part p).dill.step = (s.part p).dill.step := by
      rw [hpart]
      rfl
    have hjob : jobCores (u.part p) = x.cores := by
      rw [hpart]
      exact jobCores_of_serveInfo hserve
    have hcore (c : Nat) : u.core c = s.core c := by
      unfold State.core
      rw [hserved.cores]
    obtain ⟨hcim, hpwr, hin, hnext⟩ := postStep_frame u p t vs rows reqs
    refine ⟨_, congrArg Host.Outcome.next heq, hin, hnext.trans (by rw [hstep]), fun c hc => ?_, fun c hc => ?_,
      hcim.trans hserved.cim, hpwr.trans hserved.pwr⟩
    · obtain ⟨hwait, hreg, hpc⟩ := postRegs_core_of_mem (hjob ▸ hc : c ∈ jobCores (u.part p)) t (u.part p).dill.step.toNat hlen
      rw [postStep_core]
      refine ⟨⟨t, hwait, hahead⟩, ?_, hpc.trans (by rw [hcore])⟩
      rw [hreg, hstep, BitVec.ofNat_toNat, BitVec.setWidth_eq]
    · rw [postStep_core]
      exact (modList_core_of_not_mem (hjob ▸ hc) u _).trans (hcore c)
  · obtain ⟨hframe, reqs, served, hrows, hpart⟩ := serveEnd_of_step outs hstep hcores
    refine ⟨_, congrArg Host.Outcome.next (stepEnd_of_serving outs hserving), ?_⟩
    rw [hpart]
    exact ⟨rfl, rfl, hrows, rfl, hframe⟩

end Sys2Proof.Proofs
end

section
/-! SUPPORT. Work that ends: transfers cut short, jobs, requests, loads and answers leave the governor, the ports and the power of the
module as they are; what entry into Parsley and the loss of a port change of these (R213, R278, R514, R532). -/

namespace Sys2Proof.Machine

theorem SameBytes.trans {s t u : State} (h : SameBytes s t) (h' : SameBytes t u) : SameBytes s u := by
  intro a
  obtain ⟨h1, h2, h3, h4, h5⟩ := h a
  obtain ⟨h1', h2', h3', h4', h5'⟩ := h' a
  exact ⟨h1'.trans h1, h2'.trans h2, h3'.trans h3, h4'.trans h4, h5'.trans h5⟩

/-- From `s` to `t` work of cores, partitions, queues and mailboxes changes: governor, ports and power stay, and of the system block
everything but the answers on MGMT and the completion messages that wait. -/
structure WorkOnly (s t : State) : Prop where
  gov : t.gov = s.gov
  ports : t.ports = s.ports
  pwr : t.pwr = s.pwr
  sys : ∃ st busy msgs, t.sys = { s.sys with mgmtStatus := st, mgmtBusy := busy, owedMsgs := msgs }

namespace WorkOnly

theorem of_eq {s t : State} (hgov : t.gov = s.gov) (hports : t.ports = s.ports) (hpwr : t.pwr = s.pwr) (hsys : t.sys = s.sys) :
    WorkOnly s t := ⟨hgov, hports, hpwr, _, _, _, hsys⟩

theorem refl (s : State) : WorkOnly s s := of_eq rfl rfl rfl rfl

theorem trans {s t u : State} (h : WorkOnly s t) (h' : WorkOnly t u) : WorkOnly s u := by
  obtain ⟨_, _, _, hsys⟩ := h.sys
  obtain ⟨_, _, _, hsys'⟩ := h'.sys
  exact ⟨h'.gov.trans h.gov, h'.ports.trans h.ports, h'.pwr.trans h.pwr, _, _, _, by rw [hsys', hsys]⟩

theorem of_errOnly {s t : State} (h : ErrOnly s t) : WorkOnly s t := by
  obtain ⟨_, _, rfl⟩ := h
  exact of_eq rfl rfl rfl rfl

theorem ite {s t u : State} {b : Prop} [Decidable b] (ht : WorkOnly s t) (hu : WorkOnly s u) : WorkOnly s (if b then t else u) := by
  split
  · exact ht
  · exact hu

theorem foldl {α : Type} {f : State → α → State} (hf : ∀ s a, WorkOnly s (f s a)) (l : List α) (s : State) : WorkOnly s (l.foldl f s) :=
  List.foldlRecOn (motive := fun u : State => WorkOnly s u) l f (refl s) fun u h a _ => h.trans (hf u a)

theorem modCore (s : State) (c : Nat) (f : Core → Core) : WorkOnly s (s.modCore c f) := of_eq rfl rfl rfl rfl
theorem modPart (s : State) (p : Nat) (f : Part → Part) : WorkOnly s (s.modPart p f) := of_eq rfl rfl rfl rfl
theorem modMbox (s : State) (n : Nat) (f : Mbox → Mbox) : WorkOnly s (s.modMbox n f) := of_eq rfl rfl rfl rfl
theorem setPage (s : State) (g : Nat) (v : PageE) : WorkOnly s (s.setPage g v) := of_eq rfl rfl rfl rfl
theorem recordNow (s : State) (e : FaultEv) : WorkOnly s (recordNow s e) := of_errOnly ((ErrOnly.refl s).recordNow e)
theorem raiseAlert (s : State) (b : Nat) : WorkOnly s (raiseAlert s b) := of_errOnly ⟨_, _, raiseAlert_eq s b⟩

/-! ### Transfers and jobs (R213) -/

theorem landWrite (s : State) (w : Write) : WorkOnly s (landWrite s w) := by
  have happly : WorkOnly s (applyWrite s w) := by
    unfold applyWrite
    split <;> exact of_eq rfl rfl rfl rfl
  unfold Machine.landWrite
  split
  · exact ite (refl s) happly
  · exact happly

theorem chvFault (s : State) (c : Nat) (op : EngineOp) (st : Status) : WorkOnly s (chvFault s c op st) := by
  unfold Machine.chvFault
  dsimp only
  split
  · exact refl s
  · exact of_eq rfl rfl rfl rfl

theorem cutTransfer (s : State) (c : Nat) (op : EngineOp) (l : Launched) : WorkOnly s (cutTransfer s c op l) := by
  unfold Machine.cutTransfer
  dsimp only
  refine .trans ?_ (chvFault _ _ _ _)
  refine .trans ?_ (foldl (fun u (d : SlotDone) => modCore u d.core _) _ _)
  refine .trans ?_ (foldl (fun u g => ite (refl u) (setPage u g _)) _ _)
  exact .trans (t := (draw s).2) (of_eq rfl rfl rfl rfl) (foldl landWrite _ _)

theorem cutPart (s : State) (p : Nat) : WorkOnly s (cutPart s p) := by
  refine foldl (fun u c => foldl (fun u e => ?_) _ u) _ s
  split
  · exact ite (refl u) (cutTransfer u _ _ _)
  · exact refl u

theorem endJobNow (s : State) (p : Nat) (img : ImgState) (st : Status) (seq : SeqState) : WorkOnly s (endJobNow s p img st seq) := by
  unfold Machine.endJobNow
  split
  · exact refl s
  · refine .trans (cutPart s p) (.trans ?_ (modPart _ _ _))
    exact .trans (foldl (fun u c => modCore u c _) _ _) (foldl (fun u c => modCore u c _) _ _)

theorem killXsends (s : State) (f : Nat → XsendF → Bool) : WorkOnly s (killXsends s f) := of_eq rfl rfl rfl rfl

theorem cutPeer (s : State) (n : Nat) : WorkOnly s (cutPeer s n) := by
  refine foldl (fun u c => foldl (fun u e => ?_) _ u) _ s
  split
  · refine ite (refl u) ?_
    split
    · exact refl u
    · exact ite ((cutTransfer u _ _ _).trans (modCore _ _ _)) (refl u)
  · exact refl u

/-! ### Requests (R278, R343) -/

theorem complete (s : State) (vf q : Nat) (c : Completion) : WorkOnly s (complete s vf q c) := of_errOnly (complete_errOnly s vf q c)

theorem freeKv (s : State) (p : Nat) (ns : List Nat) : WorkOnly s (freeKv s p ns) := by
  unfold Machine.freeKv
  split <;> exact of_eq rfl rfl rfl rfl

theorem sweepSnaps (s : State) : WorkOnly s (sweepSnaps s) := by
  unfold Machine.sweepSnaps
  dsimp only
  obtain ⟨_, _, h⟩ := freePages_eq (dropPageLines s _) _
  rw [h]
  exact of_eq rfl rfl rfl rfl

theorem noteServed (s : State) (p : Nat) (cs : List (BitVec 16)) : WorkOnly s (noteServed s p cs) := by
  unfold Machine.noteServed
  exact modPart s p _

theorem endReqs (s : State) (p : Nat) (st : Status) : WorkOnly s (endReqs s p st) := by
  unfold Machine.endReqs
  refine .trans ?_ (sweepSnaps _)
  refine .trans (.trans ?_ (freeKv _ _ _)) (modPart _ _ _)
  exact .trans (ite (noteServed s p _) (refl s)) (foldl (fun u r => of_errOnly (completeReq_errOnly u r st)) _ _)

theorem endTrain (s : State) (p : Nat) (st : Status) : WorkOnly s (endTrain s p st) := by
  have hfinish (u : State) (t : TrainJob) : WorkOnly u (finishTrain u t st) := by
    unfold finishTrain
    exact .trans (foldl (fun _ _ => complete _ _ _ _) _ u) (complete _ _ _ _)
  unfold Machine.endTrain endTrains
  refine .trans ?_ (modPart _ _ _)
  exact .trans (noteServed s p _) (foldl (fun u t => hfinish u t) _ _)

theorem endAllReqs (s : State) (st : Status) : WorkOnly s (endAllReqs s st) :=
  foldl (fun u p => (endReqs u p st).trans (endTrain _ p st)) _ s

/-! ### Answers (R464, R465, R470) -/

theorem disableBox (s : State) (n : Nat) : WorkOnly s (disableBox s n) := modMbox s n _

theorem disableBoxes (s : State) (first n : Nat) : WorkOnly s (disableBoxes s first n) :=
  foldl (fun u i => disableBox u (first + i)) _ s

theorem breakLock (s : State) (n : Nat) : WorkOnly s (breakLock s n) := by
  unfold Machine.breakLock
  exact .trans (.trans (modMbox s n _) (recordNow _ _)) (modMbox _ 63 _)

theorem completionMessage (s : State) (tag : BitVec 16) (st : Status) (value : Nat) : WorkOnly s (completionMessage s tag st value) := by
  unfold Machine.completionMessage
  split
  · exact ⟨rfl, rfl, rfl, _, _, _, rfl⟩
  · exact .trans (modMbox s _ _) (ite (disableBox _ _) (of_eq rfl rfl rfl rfl))

theorem answer (s : State) (via : Via) (cmd ctx : BitVec 16) (st : Status) (value : Nat) (data : List Byte) :
    WorkOnly s (answer s via cmd ctx st value data) := by
  unfold Machine.answer
  cases via
  case mailbox => exact modMbox s _ _
  case mgmt => exact ⟨rfl, rfl, rfl, _, _, _, rfl⟩
  case queue => exact complete s _ _ _
  all_goals exact of_eq rfl rfl rfl rfl

theorem finish (s : State) (via : Via) (cmd ctx : BitVec 16) (st : Status) (value : Nat) (data : List Byte) :
    WorkOnly s (finish s via cmd ctx st value data) := by
  unfold Machine.finish
  split
  · exact completionMessage _ _ _ _
  · exact answer _ _ _ _ _ _ _

theorem endLoads (s : State) (st : Status) : WorkOnly s (endLoads s st) := by
  unfold Machine.endLoads
  extract_lets out idle unbound
  have hidle : WorkOnly s idle := foldl (fun _ _ => modPart _ _ _) _ s
  clear_value out idle
  have hunbound : WorkOnly idle (unbound.modCxl fun x => { x with exports := [] }) := of_eq rfl rfl rfl rfl
  exact (hidle.trans hunbound).trans (foldl (fun _ _ => finish _ _ _ _ _ _ _) out _)

/-! ### A partition whose peer is lost (R398, R409, R514) -/

theorem releaseBatches (s : State) (t : TrainJob) : WorkOnly s (releaseBatches s t).1 := by
  unfold Machine.releaseBatches
  exact foldl (fun _ _ => complete _ _ _ _) _ s

theorem voidStep (s : State) (p : Nat) : WorkOnly s (voidStep s p) := by
  unfold Machine.voidStep
  split
  · exact ite (refl s) ((releaseBatches s _).trans (modPart _ _ _))
  · exact refl s

theorem abandonCkpt (s : State) (p : Nat) (cause : Status) : WorkOnly s (abandonCkpt s p cause) := by
  unfold Machine.abandonCkpt
  refine ite (refl s) (.trans ?_ (modPart _ _ _))
  exact foldl (fun u g => setPage u g _) _ s

theorem portLostFor (n : Nat) (s : State) (p : Nat) : WorkOnly s (portLostFor n s p) := by
  unfold Machine.portLostFor
  dsimp only
  refine ite (refl s) ?_
  refine .trans ?_ (ite (modPart _ _ _) (refl _))
  refine .trans ?_ (ite (abandonCkpt _ _ _) (refl _))
  exact .trans (ite (voidStep s p) (refl s)) (modPart _ _ _)

end WorkOnly

end Sys2Proof.Machine
end

section
/-! SUPPORT. What entry into Parsley, the loss of a port and the end of start-up leave in the governor, the ports, the power and the
system block (R270, R514, R525, R532). -/

namespace Sys2Proof.Machine

/-! ### Parsley (R532, R533) -/

/-- The registers of a module that has just entered Parsley, its work not yet ended; `env` is what is left of a start-up. -/
def enteredParsley (s : State) (env : Option StartEnv) (cause source : Nat) : State :=
  { s with
    pwr := { s.pwr with resetAfter := env }
    sys := { s.sys with state := 2, step := 0, parCause := BitVec.ofNat 4 cause, parSource := BitVec.ofNat 12 source, parTick := s.tick64 } }

theorem WorkOnly.withCxl (s : State) (x : Cxl) : WorkOnly s { s with cxl := x } := of_eq rfl rfl rfl rfl

/-- Entry into Parsley sets its registers, ends all work and begins the zeroisation. -/
theorem enterParsley_eq {s : State} (hopen : parsleyOpen s = true) (cause source : Nat) :
    ∃ env u, WorkOnly (enteredParsley s env cause source) u ∧ enterParsley s cause source = zeroise u 1 := by
  obtain ⟨env, hstart⟩ : ∃ env, (if s.sys.state = 0 then s.modPwr fun w => { w with resetAfter := none } else s) =
      { s with pwr := { s.pwr with resetAfter := env } } := by
    split
    · exact ⟨none, rfl⟩
    · exact ⟨s.pwr.resetAfter, rfl⟩
  refine ⟨env, _, ?_, by
    unfold enterParsley
    rw [hopen, hstart]
    rfl⟩
  refine .trans ?_ (.disableBoxes _ 24 24)
  refine .trans ?_ (.withCxl _ _)
  refine .trans ?_ (.endLoads _ _)
  refine .trans ?_ (.endAllReqs _ _)
  refine .trans ?_ (.withCxl _ _)
  refine .trans ?_ (.foldl (fun _ _ => .endJobNow _ _ _ _ _) _ _)
  exact .raiseAlert (enteredParsley s env cause source) 2

/-- Governor `h` is `g` but for the currents of the partitions and the grants, which a zeroisation clears (R446). -/
def Gov.AfterZeroise (g h : Gov) : Prop := ∃ gps gs, h = { g with parts := gps, grants := gs }

/-- In the governor, entry into Parsley changes only what the zeroisation clears. -/
theorem enterParsley_gov (s : State) (cause source : Nat) : s.gov.AfterZeroise (enterParsley s cause source).gov := by
  by_cases hopen : parsleyOpen s = true
  · obtain ⟨_, u, hu, h⟩ := enterParsley_eq hopen cause source
    rw [h]
    exact ⟨[], [], congrArg (fun g : Gov => { g with parts := [], grants := [] }) hu.gov⟩
  · unfold enterParsley
    rw [if_pos (by simpa using hopen)]
    exact ⟨_, _, rfl⟩

/-- SYS_STATE and SYS_PARSLEY after entry; of the power block only the start-up in progress ends. -/
theorem enterParsley_registers {s : State} (hopen : parsleyOpen s = true) (cause source : Nat) :
    (enterParsley s cause source).sys.state = 2 ∧ (enterParsley s cause source).sys.parCause = BitVec.ofNat 4 cause ∧
      ∃ env, (enterParsley s cause source).pwr = { s.pwr with resetAfter := env } := by
  obtain ⟨env, u, hu, h⟩ := enterParsley_eq hopen cause source
  obtain ⟨_, _, _, hsys⟩ := hu.sys
  have hzeroise : (zeroise u 1).sys = u.sys ∧ (zeroise u 1).pwr = u.pwr := ⟨rfl, rfl⟩
  rw [h, hzeroise.1, hzeroise.2, hsys]
  exact ⟨rfl, rfl, env, hu.pwr⟩

/-! ### Messages and ports (R502, R514) -/

/-- A packet that leaves changes the ports alone. -/
theorem serveOne_eq (s : State) (n t : Nat) (w : Waiting) : ∃ ps, serveOne s n t w = { s with ports := ps } := ⟨_, rfl⟩

/-- Service of a port changes the ports alone. -/
theorem serveWaiting_eq (n lim fuel : Nat) (s : State) : ∃ ps, serveWaiting n lim fuel s = { s with ports := ps } := by
  induction fuel generalizing s with
  | zero => exact ⟨_, rfl⟩
  | succ fuel ih =>
    rw [serveWaiting]
    split
    · exact ⟨_, rfl⟩
    · split
      · exact ⟨_, rfl⟩
      · next w _ =>
        obtain ⟨_, hone⟩ := serveOne_eq s n (nextStart (s.port n)) w
        obtain ⟨ps, hrest⟩ := ih (serveOne s n (nextStart (s.port n)) w)
        rw [hone] at hrest
        exact ⟨ps, (congrArg _ hone).trans hrest⟩

theorem servePort_eq (s : State) (n : Nat) : ∃ ps, servePort s n = { s with ports := ps } := by
  unfold servePort serveTo
  split
  · exact serveWaiting_eq _ _ _ _
  · exact ⟨_, rfl⟩

/-- A LINK message changes the ports alone. -/
theorem sendLink_eq (s : State) (n kind : Nat) (args : List Nat) (bytes : List Byte) :
    ∃ ps, sendLink s n kind args bytes = { s with ports := ps } := by
  obtain ⟨_, h⟩ := servePort_eq s n
  unfold sendLink sendFirst
  rw [h]
  exact ⟨_, rfl⟩

/-- Where nothing waits to leave a port, its service does nothing (R502). -/
theorem servePort_of_lineFree {s : State} {n : Nat} (h : LineFree s n) : servePort s n = s := by
  unfold servePort serveTo
  split
  · rw [show (s.port n).waiting = [] from h]
    rfl
  · rfl

/-- Where nothing waits to leave a port, a LINK message leaves at once (R502). -/
theorem sent_sendLink {s : State} {n : Nat} (h : LineFree s n) (kind : Nat) (args : List Nat) (bytes : List Byte) :
    Sent s (sendLink s n kind args bytes) n 5 kind args := by
  unfold sendLink sendFirst
  rw [servePort_of_lineFree h]
  refine ⟨_, (congrArg Port.out (State.setPort_port _ _ _ _)).trans (congrArg Port.out (if_pos rfl)), ?_⟩
  split <;> exact ⟨rfl, rfl, rfl⟩

/-- A port that goes down ends up at its reset state with the kind of its loss, and only the alignment of the governor can be lost
with it (R273, R514). -/
theorem portDown_effect {s : State} {n : Nat} (hup : (s.port n).state ≠ 0) (kind : Nat) :
    (∃ p cause, (portDown s n kind).port n = Port.downed p (BitVec.ofNat 3 kind) cause) ∧
      ∃ a, (a = true → s.gov.aligned = true) ∧ (portDown s n kind).gov = { s.gov with aligned := a } := by
  unfold portDown
  extract_lets p cause served recorded alerted lostMaster killed cut voided downed unaligned lost boxed
  have hserved : served.gov = s.gov := by
    obtain ⟨_, h⟩ := servePort_eq s n
    exact (congrArg State.gov h : (servePort s n).gov = _)
  have hvoided : WorkOnly served voided := by
    refine .trans ?_ (.foldl (fun u l => .modCore u _ _) _ _)
    refine .trans ?_ (.cutPeer _ n)
    refine .trans ?_ (.killXsends _ _)
    exact .trans (.recordNow _ _) (.raiseAlert _ 5)
  have hlost : WorkOnly unaligned (if (boxed.mbox (56 + n)).owner.v.toNat = 16 + n then breakLock boxed (56 + n) else boxed) := by
    refine .trans ?_ (.ite (.breakLock _ _) (.refl _))
    exact .trans (.foldl (WorkOnly.portLostFor n) _ _) (.disableBox _ _)
  have hunaligned : ∃ a, (a = true → s.gov.aligned = true) ∧ unaligned = { downed with gov := { s.gov with aligned := a } } := by
    have hdowned : downed.gov = s.gov := hvoided.gov.trans hserved
    by_cases hm : lostMaster = true
    · exact ⟨false, by simp, by simp only [unaligned, if_pos hm, State.modGov, hdowned]⟩
    · exact ⟨s.gov.aligned, id, by simp only [unaligned, if_neg hm, ← hdowned]⟩
  have hport : downed.port n = (voided.port n).downed (BitVec.ofNat 3 kind) cause :=
    (State.modPort_port _ _ _ _).trans (if_pos rfl)
  obtain ⟨a, hloses, heq⟩ := hunaligned
  rw [heq] at hlost
  rw [if_neg hup]
  refine ⟨⟨voided.port n, cause, ?_⟩, a, hloses, hlost.gov⟩
  rw [← hport]
  unfold State.port
  rw [hlost.ports]

/-! ### The end of start-up (R270, Table 17-3) -/

theorem startFail_gov (s : State) (step unit cause : Nat) : s.gov.AfterZeroise (startFail s step unit cause).gov := by
  unfold startFail
  extract_lets recorded
  have h := enterParsley_gov recorded cause unit
  rwa [show recorded.gov = s.gov from recordNow_gov s _] at h

theorem step9_gov (s : State) (env : StartEnv) : s.gov.AfterZeroise (step9 s env).gov := by
  unfold step9
  extract_lets stepped blown
  split
  · exact startFail_gov stepped 9 1493 8
  · exact ⟨s.gov.parts, s.gov.grants, rfl⟩

/-- Step 8 and, where PERST# is deasserted, step 9 leave the tick master as it was settled. -/
theorem step8_gov (s : State) (env : StartEnv) : s.gov.AfterZeroise (step8 s env).gov := by
  unfold step8
  extract_lets powered linked
  have hlinked : linked.gov = s.gov := by
    simp only [linked]
    split <;> rfl
  split
  · exact ⟨s.gov.parts, s.gov.grants, rfl⟩
  · exact hlinked ▸ step9_gov linked env

/-- The role that the governor holds once the tick master is settled (R270). -/
theorem settleAs_role (s : State) (m : BitVec 3) (env : StartEnv) :
    (settleAs s m env).gov.settled = some m ∧ (settleAs s m env).gov.master = (m == s.gov.slot) := by
  unfold settleAs
  extract_lets own settled loaded ported
  have hloaded : loaded.gov.settled = some m ∧ loaded.gov.master = (m == s.gov.slot) := by
    simp only [loaded]
    split <;> exact ⟨rfl, rfl⟩
  have hported : ported.gov.settled = some m ∧ ported.gov.master = (m == s.gov.slot) := by
    refine List.foldlRecOn (motive := fun u : State => u.gov.settled = some m ∧ u.gov.master = (m == s.gov.slot)) _ _ hloaded
      fun u hu n _ => ?_
    split
    · exact hu
    · split
      · next hpeer =>
        obtain ⟨hup, -⟩ := hpeer
        have hstate : (u.port n).state ≠ 0 := by
          rw [hup]
          decide
        obtain ⟨_, _, _, hgov⟩ := portDown_effect hstate 7
        rw [hgov]
        exact hu
      · exact hu
  obtain ⟨_, _, hgov⟩ := step8_gov ported env
  rw [hgov]
  exact hported

end Sys2Proof.Machine
end

section
/-! SUPPORT. Register writes of PF0 in READY (R562, R569, R570). -/

namespace Sys2Proof.Machine

/-- In READY, PF0 may write a register that stands in the map and that Table 19-2 lets it write. -/
theorem refusal_pf0 {s : State} {off : Nat} (hready : s.sys.state = 1) (hreg : (regValue s off).isSome = true)
    (horigin : originMay .pf0 off true = true) : refusal s .pf0 off true = none := by
  have hmapped : mapped s .pf0 off = true := by simp [mapped, hready, hreg]
  simp [refusal, hmapped, horigin, stateMay, hready]

theorem gate_pf0 {s : State} {off : Nat} (f : State → State) (hready : s.sys.state = 1) (hreg : (regValue s off).isSome = true)
    (horigin : originMay .pf0 off true = true) : gate s .pf0 off f = f s := by
  simp [gate, reaches, hready, refusal_pf0 hready hreg horigin]

theorem gatePair_pf0 {s : State} {off : Nat} (comp : Nat) (f : State → State) (hready : s.sys.state = 1)
    (hreg : (regValue s off).isSome = true) (horigin : originMay .pf0 off true = true) :
    gatePair s off comp f = f (clearLatch s off) := by
  simp [gatePair, reaches, hready, refusal_pf0 hready hreg horigin]

/-- Where the halves of a pair disagree, that alone is counted and logged (R569). -/
theorem pairCounted_pairBad (s : State) (off : Nat) : PairCounted s (pairBad s off) := by
  unfold PairCounted pairBad
  cases hvalid : s.sys.pairValid
  all_goals simp [State.modSys, hvalid]

end Sys2Proof.Machine
end

section
/-! SUPPORT. Throttle levels: what is requested, decided and in force (R296, R297), and a follower's measurement of its delay (R273,
R512). -/

namespace Sys2Proof.Machine

/-! ### Levels asked for and decided (R297) -/

/-- The level that will be in force once every decided change has come: the last one decided, else the present one. -/
def Gov.decided (g : Gov) : Nat := match g.pendingLevels.getLast? with | none => g.level | some x => x.1
/-- The highest level that a module requested. -/
def Gov.highest (g : Gov) : Nat := (g.peerLevels.map (·.2)).foldl max 0

/-- Messages on several ports change the ports alone. -/
theorem foldl_sendLink_eq (ns : List Nat) (kind : Nat) (args : List Nat) (s : State) :
    ∃ ps, ns.foldl (fun s n => if (s.port n).up then sendLink s n kind args [] else s) s = { s with ports := ps } := by
  refine List.foldlRecOn (motive := fun u : State => ∃ ps, u = { s with ports := ps }) ns _ ⟨_, rfl⟩ fun u hu n _ => ?_
  obtain ⟨_, rfl⟩ := hu
  split
  · obtain ⟨ps, h⟩ := sendLink_eq _ n kind args []
    exact ⟨ps, h⟩
  · exact ⟨_, rfl⟩

/-- The master's decision: the highest requested level is decided, by a change that is added for tick N + 8 where another level was. -/
theorem decideLevel_spec (s : State) :
    ∃ ps pending, decideLevel s = { s with ports := ps, gov := { s.gov with pendingLevels := pending } } ∧
      (decideLevel s).gov.decided = s.gov.highest ∧
      (pending = s.gov.pendingLevels ∨ ∃ l, pending = s.gov.pendingLevels ++ [(l, s.tick + 8)]) := by
  unfold decideLevel
  extract_lets l target at' added
  split
  · next h => exact ⟨_, _, rfl, h.symm, .inl rfl⟩
  · obtain ⟨ps, h⟩ := foldl_sendLink_eq (List.range 7) 8 [1, l, at'] added
    rw [h]
    refine ⟨ps, _, rfl, ?_, .inr ⟨l, rfl⟩⟩
    simp [Gov.decided, Gov.highest, added, l]

/-- A request of this module stands in `peerLevels` at its own strap; beyond that a decision and messages follow. -/
theorem requestLevel_spec (s : State) (l : Nat) :
    ∃ ps pending, requestLevel s l =
      { s with ports := ps, gov := { s.gov with peerLevels := sput 0 s.gov.peerLevels (ownSlot s) l, pendingLevels := pending } } := by
  unfold requestLevel
  extract_lets asked
  split
  · split
    · exact ⟨_, _, rfl⟩
    · obtain ⟨ps, h⟩ := sendLink_eq asked _ 8 [0, l] []
      exact ⟨ps, _, h⟩
  · obtain ⟨ps, pending, h, -, -⟩ := decideLevel_spec asked
    exact ⟨ps, pending, h⟩

/-- This module's request is the level that it asked for last. -/
theorem ownLevel_of_asked {s t : State} {l : Nat} (hslot : t.gov.slot = s.gov.slot)
    (hpeer : t.gov.peerLevels = sput 0 s.gov.peerLevels (ownSlot s) l) : ownLevel t = l := by
  unfold ownLevel
  rw [hpeer, show ownSlot t = ownSlot s from congrArg BitVec.toNat hslot]
  exact sget_sput_same _ _ _ _

/-! ### Measurements (R273, R512) -/

/-- A residual of one tick at most: the delay is taken, and the module is aligned. -/
theorem measured_aligned (s : State) (n delay : Nat) {resid : BitVec 16} (h : resid.toInt.natAbs ≤ 32) :
    measured s n delay resid =
      (s.modPort n fun p => { p with delay := BitVec.ofNat 16 delay }).modGov fun g => { g with residC := resid, aligned := true } := by
  unfold measured
  rw [if_neg (by omega)]

/-- What a follower keeps of a measurement within one tick: the residual, and the delay at its port. -/
theorem measured_taken (s : State) (n delay : Nat) {resid : BitVec 16} (h : resid.toInt.natAbs ≤ 32) :
    ∃ t, measured s n delay resid = t ∧
      t = { s with gov := { s.gov with residC := resid, aligned := true }, ports := t.ports } ∧
      t.port n = { s.port n with delay := BitVec.ofNat 16 delay } ∧ ∀ m, m ≠ n → t.port m = s.port m := by
  refine ⟨_, measured_aligned s n delay h, rfl, ?_, fun m hm => ?_⟩
  · rw [State.modGov_port, State.modPort_port, if_pos rfl]
  · rw [State.modGov_port, State.modPort_port, if_neg hm]

theorem killXsends_port (s : State) (f : Nat → XsendF → Bool) (n : Nat) : (killXsends s f).port n = s.port n := rfl

/-- A residual beyond one tick: the alignment is lost and the port goes down with kind 7. -/
theorem measured_lost {s : State} {n : Nat} (hup : (s.port n).state ≠ 0) (delay : Nat) {resid : BitVec 16} (h : 32 < resid.toInt.natAbs) :
    (measured s n delay resid).gov.aligned = false ∧ ((measured s n delay resid).port n).state = 0 ∧
      ((measured s n delay resid).port n).downKind = 7 := by
  obtain ⟨u, heq, hstate, hlost⟩ : ∃ u, measured s n delay resid = portDown u n 7 ∧ (u.port n).state ≠ 0 ∧ u.gov.aligned = false := by
    refine ⟨_, by
      unfold measured
      rw [if_pos h], ?_, rfl⟩
    rw [State.modGov_port, killXsends_port, State.modGov_port, State.modPort_port, if_pos rfl]
    exact hup
  obtain ⟨⟨_, _, hport⟩, a, hkeeps, hgov⟩ := portDown_effect hstate 7
  rw [heq, hport, hgov]
  refine ⟨?_, rfl, rfl⟩
  cases a
  case false => rfl
  case true => exact absurd (hkeeps rfl) (by simp [hlost])

/-- The port to the master is up. -/
theorem up_of_masterPort {s : State} {n : Nat} (h : masterPort s = some n) : (s.port n).state = 2 := by
  have hfound := List.find?_some h
  simp only [Port.up, Bool.and_eq_true, beq_iff_eq] at hfound
  exact hfound.2

end Sys2Proof.Machine
end

section
/-! PROOFS. O47: alignment measurements and throttle-level messages (R270 to R273, R297, R512). -/

namespace Sys2Proof.Proofs
open Sys2Proof Sys2Proof.Machine

/-- Settles O47: a measurement is taken or the port is lost (`measured_taken`, `measured_lost`), a request leaves the highest level decided
(`decideLevel_spec`), and neither the ports lost nor the rest of start-up touch the settled role (`settleAs_role`). -/
theorem alignmentAndThrottleMessages : Obligations.AlignmentAndThrottleMessages := by
  unfold Obligations.AlignmentAndThrottleMessages
  intro s n
  refine ⟨fun roundTrip turnaround resid hmaster => ⟨fun hres => ?_, fun hres => ?_⟩, fun u cyc hstate hfree => ?_,
    fun sent received turnaround hmaster hstate => ?_, fun level hstate hlead => ?_, fun level u hmaster => ?_, fun env hsettling => ?_⟩
  · obtain ⟨t, heq, ht⟩ := measured_taken s n ((roundTrip - turnaround) / 2) hres
    refine ⟨t, congrArg Host.Outcome.next ?_, ht⟩
    rw [tickRealign, hmaster]
    exact heq
  · have hup : (s.port n).state ≠ 0 := by
      rw [up_of_masterPort hmaster]
      decide
    refine ⟨_, congrArg Host.Outcome.next ?_, measured_lost hup ((roundTrip - turnaround) / 2) hres⟩
    rw [tickRealign, hmaster]
  · refine ⟨_, congrArg Host.Outcome.next (if_neg hstate), ?_, sent_sendLink hfree _ _ _⟩
    obtain ⟨_, h⟩ := sendLink_eq s n 7 [1, 32 * u.toNat + cyc.toNat, s.gov.now, 0] []
    rw [h]
  · intro d hres
    obtain ⟨t, heq, ht⟩ := measured_taken s n d hres
    refine ⟨t, congrArg Host.Outcome.next ?_, ht⟩
    rw [alignRsp, if_neg (by simp [hmaster, hstate])]
    exact heq
  · obtain ⟨ps, pending, heq, hdecided, hpending⟩ :=
      decideLevel_spec (s.modGov fun g => { g with peerLevels := sput 0 g.peerLevels (s.port n).peer.toNat level.toNat })
    refine ⟨_, congrArg Host.Outcome.next (if_neg (by simp [hstate, hlead])), ?_⟩
    rw [heq] at hdecided ⊢
    exact ⟨rfl, sget_sput_same _ _ _ _, hdecided, hpending⟩
  · exact congrArg Host.Outcome.next (if_pos hmaster)
  · obtain ⟨hsettled, hrole⟩ := settleAs_role (s.modPwr fun w => { w with resetAfter := none }) s.gov.slot env
    refine ⟨_, congrArg Host.Outcome.next ?_, hsettled, hrole.trans (beq_self_eq_true _)⟩
    rw [settleTimeout, hsettling]

end Sys2Proof.Proofs
end

section
/-! SUPPORT. Steps, floor and trips of the throttle level (R296, R297, R586). -/

namespace Sys2Proof.Machine

/-! ### Steps (R296) -/

/-- A reading of the sensor that has been recorded, with the alarm of the first one above 97 °C (Table 18-1). -/
def sensed (s : State) (celsius : Nat) : State :=
  (if 97 < celsius ∧ s.gov.celsius ≤ 97 then
      recordNow s { kind := 0x12, cls := 5, status := St.ok, scope := .module, source := 1494, detail := celsius,
                    detail2 := s.gov.level, parsley := false, reset := false }
    else s).modGov fun g => { g with celsius := celsius }

theorem sensed_gov (s : State) (celsius : Nat) : (sensed s celsius).gov = { s.gov with celsius := celsius } := by
  unfold sensed
  split
  · rw [State.modGov_gov, recordNow_gov]
  · rfl

theorem sameBytes_sensed (s : State) (celsius : Nat) : SameBytes s (sensed s celsius) := by
  unfold sensed
  split
  · exact ((ErrOnly.refl s).recordNow _).sameBytes
  · exact (ErrOnly.refl s).sameBytes

theorem ownLevel_sensed (s : State) (celsius : Nat) : ownLevel (sensed s celsius) = ownLevel s := by
  unfold ownLevel ownSlot
  rw [sensed_gov]

/-- Above 97 °C the module asks for one level more while that is at most 12; at 92 °C or below for one less while that is not below
FLOOR; between the two it asks for nothing. -/
theorem throttleStep_eq (s : State) (celsius : Nat) :
    throttleStep s celsius =
      if 97 < celsius ∧ ownLevel s < 12 then requestLevel (sensed s celsius) (ownLevel s + 1)
      else if celsius ≤ 92 ∧ s.gov.floor.toNat < ownLevel s then requestLevel (sensed s celsius) (ownLevel s - 1)
      else sensed s celsius := by
  have hstep : throttleStep s celsius =
      if 97 < celsius then (if ownLevel s < 12 then requestLevel (sensed s celsius) (ownLevel s + 1) else sensed s celsius)
      else if celsius ≤ 92 then
        (if s.gov.floor.toNat < ownLevel s then requestLevel (sensed s celsius) (ownLevel s - 1) else sensed s celsius)
      else sensed s celsius := by
    have hfloor : (sensed s celsius).gov.floor = s.gov.floor := by rw [sensed_gov]
    rw [← ownLevel_sensed s celsius, ← hfloor]
    rfl
  rw [hstep]
  by_cases hhot : 97 < celsius
  · have hcool : ¬celsius ≤ 92 := by omega
    simp only [hhot, hcool, true_and, false_and, if_true, if_false]
  · by_cases hcool : celsius ≤ 92
    · simp only [hhot, hcool, true_and, false_and, if_true, if_false]
    · simp only [hhot, hcool, false_and, if_false]

/-- What a request leaves: the level in force, the sensor's reading, FLOOR and every byte; this module has asked for the level. -/
theorem requestLevel_effect (s : State) (l : Nat) :
    (requestLevel s l).gov.level = s.gov.level ∧ (requestLevel s l).gov.celsius = s.gov.celsius ∧
      (requestLevel s l).gov.floor = s.gov.floor ∧ ownLevel (requestLevel s l) = l ∧ SameBytes s (requestLevel s l) := by
  obtain ⟨ps, pending, h⟩ := requestLevel_spec s l
  rw [h]
  exact ⟨rfl, rfl, rfl, ownLevel_of_asked (s := s) rfl rfl, sameBytes_of_eq rfl rfl rfl rfl rfl⟩

/-- A write of GOV_FLOOR in READY: values above 12 are written as 12, and a floor above the level in force asks for itself (R296). -/
theorem gate_throttleFloor {s : State} (v : W32) (hready : s.sys.state = 1) :
    gate s .pf0 0x101004 (fun s => throttleFloor s v) =
      if s.gov.level < min (v.extractLsb' 0 4).toNat 12 then
        requestLevel (s.modGov fun g => { g with floor := BitVec.ofNat 4 (min (v.extractLsb' 0 4).toNat 12) })
          (max (min (v.extractLsb' 0 4).toNat 12) (ownLevel s))
      else s.modGov fun g => { g with floor := BitVec.ofNat 4 (min (v.extractLsb' 0 4).toNat 12) } := by
  rw [gate_pf0 _ hready rfl rfl]
  rfl

/-- A request that follows a reading of the sensor. -/
theorem requestLevel_sensed (s : State) (celsius l : Nat) :
    (requestLevel (sensed s celsius) l).gov.celsius = celsius ∧ (requestLevel (sensed s celsius) l).gov.level = s.gov.level ∧
      SameBytes s (requestLevel (sensed s celsius) l) ∧ ownLevel (requestLevel (sensed s celsius) l) = l := by
  obtain ⟨hlevel, hcelsius, -, hown, hbytes⟩ := requestLevel_effect (sensed s celsius) l
  rw [hlevel, hcelsius, sensed_gov]
  exact ⟨rfl, rfl, (sameBytes_sensed s celsius).trans hbytes, hown⟩

/-! ### Trips and levels applied (R296, R297, R586) -/

/-- A module at 110 °C before the trip is recorded: THERMTRIP# and TRIP assert, the trip is counted, and level 12 is in force. -/
theorem thermalTrip_eq {s : State} {celsius : Nat} (hhot : 110 ≤ celsius) (htrip : s.gov.trip = false)
    (hkept : discarded s .module = false) :
    ∃ u e e', (u.gov.level = 12 ∧ u.gov.trip = true ∧ u.gov.trips = s.gov.trips + 1 ∧ u.pwr.thermtrip = true ∧ u.sys = s.sys) ∧
      thermalTrip s celsius = if 1 ≤ s.gov.trips then enterParsley (recordNow u e) 5 1494 else recordNow u e' := by
  unfold thermalTrip
  rw [if_neg (by simpa [htrip, hkept] using hhot)]
  extract_lets second alerted asked tripped
  obtain ⟨ps, pending, hasked⟩ := requestLevel_spec (alerted.modPwr fun w => { w with thermtrip := true }) 12
  have hgov : alerted.gov = s.gov ∧ alerted.sys = s.sys := by
    simp only [alerted, raiseAlert_gov, raiseAlert_sys]
    split <;> simp only [raiseAlert_gov, raiseAlert_sys, and_self]
  refine ⟨tripped, _, _, ?_, by
    simp only [second, decide_eq_true_eq]
    rfl⟩
  simp only [tripped, asked, hasked, State.modGov, State.modPwr, hgov, and_self]

/-- ERR_ALERT bit `b` is set once it is raised. -/
theorem raiseAlert_getLsbD (s : State) {b : Nat} (hb : b < 8) : (raiseAlert s b).err.alert.getLsbD b = true := by
  unfold raiseAlert
  split
  · assumption
  · have hfire (u : State) : (fireV1 u).err.alert = u.err.alert := by
      unfold fireV1
      split <;> rfl
    rw [hfire]
    simp [hb]

/-- A decided level comes into force at its tick; where it is the first above 0, the throttle alert is raised. -/
theorem throttleApply_eq {s : State} {l n : Nat} {rest : List (Nat × Nat)} (h : s.gov.pendingLevels = (l, n) :: rest) :
    ∃ e x, throttleApply s = { s with
        gov := { s.gov with now := max s.gov.now (32 * n), level := l, pendingLevels := rest }, err := e, cxl := x } ∧
      (s.gov.level = 0 → 0 < l → e.alert.getLsbD 3 = true) := by
  unfold throttleApply
  rw [h]
  dsimp only
  split
  · rw [raiseAlert_eq]
    exact ⟨_, _, rfl, fun _ _ => raiseAlert_getLsbD s (by decide)⟩
  · next hnone => exact ⟨_, _, rfl, fun h0 hl => absurd ⟨h0, hl⟩ hnone⟩

end Sys2Proof.Machine
end

section
/-! PROOFS. O10: the throttle level follows the sensor (R296, R297, R586). -/

namespace Sys2Proof.Proofs
open Sys2Proof Sys2Proof.Machine

/-- Settles O10: a step is what the module asks for (`throttleStep_eq`), and a request leaves the level in force alone; a trip sets it,
and entry into Parsley keeps the governor's registers. -/
theorem throttleFollowsTheSensor : Obligations.ThrottleFollowsTheSensor := by
  unfold Obligations.ThrottleFollowsTheSensor
  refine ⟨⟨fun s celsius => ?_, fun s v hready => ⟨fun hle => ?_, fun hlt => ?_⟩⟩,
    fun s celsius hhot htrip hkept hready => ?_, fun s celsius htrip hcool => ?_, fun s l n rest hpending => ?_⟩
  · refine ⟨_, congrArg Host.Outcome.next (throttleStep_eq s celsius), ?_⟩
    split
    · exact requestLevel_sensed s celsius _
    · split
      · exact requestLevel_sensed s celsius _
      · rw [sensed_gov]
        exact ⟨rfl, rfl, sameBytes_sensed s celsius, ownLevel_sensed s celsius⟩
  · exact congrArg Host.Outcome.next ((gate_throttleFloor v hready).trans (if_neg hle.not_gt))
  · refine ⟨_, congrArg Host.Outcome.next ((gate_throttleFloor v hready).trans (if_pos hlt)), ?_⟩
    obtain ⟨hlevel, -, hfloor, hown, -⟩ := requestLevel_effect _ _
    exact ⟨hfloor, (le_max_left _ _).trans hown.ge, hlevel⟩
  · obtain ⟨u, e, e', ⟨hlevel, htripped, htrips, hpin, hsys⟩, heq⟩ := thermalTrip_eq hhot htrip hkept
    refine ⟨_, congrArg Host.Outcome.next heq, ?_⟩
    by_cases hfirst : s.gov.trips = 0
    · rw [if_neg (by omega), recordNow_gov, recordNow_pwr, recordNow_sys, if_pos hfirst, hsys]
      exact ⟨hlevel, htripped, htrips, hpin, hready, fun h => absurd hfirst h⟩
    · have hopen : parsleyOpen (recordNow u e) = true := by simp [parsleyOpen, hsys, hready]
      obtain ⟨_, _, hgov⟩ := enterParsley_gov (recordNow u e) 5 1494
      obtain ⟨hstate, hcause, _, hpwr⟩ := enterParsley_registers hopen 5 1494
      rw [if_pos (by omega), hgov, hpwr, hstate, hcause, recordNow_gov, recordNow_pwr, if_neg hfirst]
      exact ⟨hlevel, htripped, htrips, hpin, rfl, fun _ => rfl⟩
  · exact congrArg Host.Outcome.next (if_pos ⟨htrip, hcool⟩)
  · obtain ⟨e, x, heq, halert⟩ := throttleApply_eq hpending
    refine ⟨_, congrArg Host.Outcome.next heq, rfl, halert⟩

end Sys2Proof.Proofs
end

section
/-! SUPPORT. The tick edge of the governor: committed currents and the array-rail monitor (R285, R287, R289, R532). -/

namespace Sys2Proof.Machine

/-- From `s` to `t` the governor handles a tick edge: its currents and its fault log change, and of a partition only the mark to
stop (R289). -/
structure EdgeOnly (s t : State) : Prop where
  rest : ∃ gps core part k cause valid tick ps e x, t = { s with
    gov := { s.gov with parts := gps, faultCore := core, faultPart := part, faultK := k, faultCause := cause, faultValid := valid,
                        faultTick := tick }
    parts := ps, err := e, cxl := x }
  part : ∀ p, ∃ stop, t.part p = { s.part p with stop := stop }

namespace EdgeOnly

theorem of_parts {s t : State} (hparts : t.parts = s.parts) (hrest : ∃ gps core part k cause valid tick e x, t = { s with
    gov := { s.gov with parts := gps, faultCore := core, faultPart := part, faultK := k, faultCause := cause, faultValid := valid,
                        faultTick := tick }
    err := e, cxl := x }) : EdgeOnly s t := by
  obtain ⟨gps, core, part, k, cause, valid, tick, e, x, rfl⟩ := hrest
  exact ⟨⟨gps, core, part, k, cause, valid, tick, s.parts, e, x, rfl⟩, fun p => ⟨(s.part p).stop, rfl⟩⟩

theorem refl (s : State) : EdgeOnly s s := of_parts rfl ⟨_, _, _, _, _, _, _, _, _, rfl⟩

theorem trans {s t u : State} (h : EdgeOnly s t) (h' : EdgeOnly t u) : EdgeOnly s u := by
  refine ⟨?_, fun p => ?_⟩
  · obtain ⟨_, _, _, _, _, _, _, _, _, _, rfl⟩ := h.rest
    obtain ⟨_, _, _, _, _, _, _, _, _, _, h'⟩ := h'.rest
    exact ⟨_, _, _, _, _, _, _, _, _, _, h'⟩
  · obtain ⟨_, hp⟩ := h.part p
    obtain ⟨stop, hp'⟩ := h'.part p
    exact ⟨stop, by rw [hp', hp]⟩

theorem modGovPart (s : State) (p : Nat) (f : GovPart → GovPart) : EdgeOnly s (s.modGovPart p f) :=
  of_parts rfl ⟨_, _, _, _, _, _, _, _, _, rfl⟩

theorem recordNext (s : State) (e : FaultEv) : EdgeOnly s (recordNext s e) :=
  of_parts (recordNext_parts s e) ⟨_, _, _, _, _, _, _, _, _, recordAt_eq s _ e⟩

theorem markStop (s : State) (p : Nat) (st : Status) : EdgeOnly s (markStop s p st) := by
  refine ⟨⟨_, _, _, _, _, _, _, _, _, _, markStop_eq s p st⟩, fun x => ?_⟩
  unfold Machine.markStop
  rw [State.modPart_part]
  split
  · next h =>
    subst h
    split
    · exact ⟨_, rfl⟩
    · exact ⟨_, rfl⟩
    · split <;> exact ⟨_, rfl⟩
  · exact ⟨_, rfl⟩

theorem govFault (s : State) (c p k cause tick : Nat) : EdgeOnly s (govFault s c p k cause tick) := by
  unfold Machine.govFault
  extract_lets held logged recorded
  have hlogged : EdgeOnly s logged := by
    simp only [logged]
    split
    · exact refl s
    · exact of_parts rfl ⟨_, _, _, _, _, _, _, _, _, rfl⟩
  have hrecorded : EdgeOnly logged recorded := by
    simp only [recorded]
    split
    · exact refl logged
    · exact recordNext logged _
  exact (hlogged.trans hrecorded).trans (markStop recorded p _)

theorem commitPart (s : State) (p t : Nat) : EdgeOnly s (commitPart s p t) := by
  unfold Machine.commitPart
  split
  · exact refl s
  · dsimp only
    split
    · exact .trans (modGovPart s p _) (.trans (modGovPart _ p _) (govFault _ _ _ _ _ _))
    · exact modGovPart s p _

/-! ### What a tick edge leaves -/

variable {s t : State} (h : EdgeOnly s t)
include h

theorem cores : t.cores = s.cores := by
  obtain ⟨_, _, _, _, _, _, _, _, _, _, rfl⟩ := h.rest
  rfl

theorem sys : t.sys = s.sys := by
  obtain ⟨_, _, _, _, _, _, _, _, _, _, rfl⟩ := h.rest
  rfl

theorem sameBytes : SameBytes s t := by
  obtain ⟨_, _, _, _, _, _, _, _, _, _, rfl⟩ := h.rest
  exact sameBytes_of_eq rfl rfl rfl rfl rfl

theorem now : t.gov.now = s.gov.now := by
  obtain ⟨_, _, _, _, _, _, _, _, _, _, rfl⟩ := h.rest
  rfl

theorem discard : t.gov.discard = s.gov.discard := by
  obtain ⟨_, _, _, _, _, _, _, _, _, _, rfl⟩ := h.rest
  rfl

theorem diverge : t.gov.diverge = s.gov.diverge := by
  obtain ⟨_, _, _, _, _, _, _, _, _, _, rfl⟩ := h.rest
  rfl

theorem part_st (p : Nat) : (t.part p).st = (s.part p).st := by
  obtain ⟨_, hp⟩ := h.part p
  rw [hp]

theorem slewOf_eq (p : Nat) : slewOf t p = slewOf s p := by
  obtain ⟨_, hp⟩ := h.part p
  unfold slewOf
  rw [hp]

theorem declaredCores_eq (p n : Nat) : declaredCores t p n = declaredCores s p n := by
  obtain ⟨_, hp⟩ := h.part p
  unfold declaredCores coresOf State.core
  rw [hp, h.cores]

/-- A partition whose currents were not handled draws what it drew. -/
theorem partCurrent_eq {p : Nat} (hgov : t.govPart p = s.govPart p) (k : Nat) (ds : List (Nat × Nat)) :
    partCurrent t p k ds = partCurrent s p k ds := by
  obtain ⟨_, hp⟩ := h.part p
  unfold partCurrent fieldCurrent mintAllowance reloadCharge State.tick
  rw [hp, hgov, h.now]

end EdgeOnly

/-! ### Committed currents (R285) -/

theorem markStop_govPart (s : State) (p : Nat) (st : Status) (x : Nat) : (markStop s p st).govPart x = s.govPart x := rfl

theorem govFault_govPart (s : State) (c p k cause tick x : Nat) : (govFault s c p k cause tick).govPart x = s.govPart x := by
  unfold govFault
  dsimp only
  rw [markStop_govPart]
  split
  · rfl
  · exact recordNext_govPart _ _ _

theorem commitPart_of_none {s : State} {p : Nat} (h : (s.part p).st = 0) (t : Nat) : commitPart s p t = s := if_pos h

/-- The currents of other partitions stay. -/
theorem commitPart_govPart_ne (s : State) {p x : Nat} (t : Nat) (hx : x ≠ p) : (commitPart s p t).govPart x = s.govPart x := by
  unfold commitPart
  dsimp only
  split
  · rfl
  · split
    · rw [govFault_govPart, State.modGovPart_govPart, if_neg hx, State.modGovPart_govPart, if_neg hx]
    · rw [State.modGovPart_govPart, if_neg hx]

/-- A created partition's committed and held current are those of R285; a scaling is logged beside them (R287). -/
theorem commitPart_govPart_same {s : State} {p : Nat} (hst : (s.part p).st ≠ 0) (t : Nat) :
    ∃ scales scaled, (commitPart s p t).govPart p =
      { (s.govPart p).settle (partCurrent s p 16 (declaredCores s p t)) (slewOf s p) with scales := scales, scaled := scaled } := by
  unfold commitPart
  rw [if_neg hst]
  dsimp only
  split
  · rw [govFault_govPart, State.modGovPart_govPart, if_pos rfl, State.modGovPart_govPart, if_pos rfl]
    exact ⟨_, _, rfl⟩
  · rw [State.modGovPart_govPart, if_pos rfl]
    exact ⟨_, _, rfl⟩

/-- In `t` partition `p` has the currents that it takes at an edge from `s` to tick `n` (R285). -/
def Commits (s t : State) (p n : Nat) : Prop :=
  if (s.part p).st = 0 then t.govPart p = s.govPart p
  else ∃ scales scaled, t.govPart p =
    { (s.govPart p).settle (partCurrent s p 16 (declaredCores s p n)) (slewOf s p) with scales := scales, scaled := scaled }

theorem Commits.of_none {s t : State} {p n : Nat} (h : Commits s t p n) (hst : (s.part p).st = 0) : t.govPart p = s.govPart p := by
  rwa [Commits, if_pos hst] at h

theorem Commits.of_created {s t : State} {p n : Nat} (h : Commits s t p n) (hst : (s.part p).st ≠ 0) :
    ∃ scales scaled, t.govPart p =
      { (s.govPart p).settle (partCurrent s p 16 (declaredCores s p n)) (slewOf s p) with scales := scales, scaled := scaled } := by
  rwa [Commits, if_neg hst] at h

/-- The partitions below `k` commit one after another: each takes its currents by what stood before the edge, and the others keep theirs. -/
theorem foldl_commitPart (s : State) (n k : Nat) :
    let t := (List.range k).foldl (fun s p => commitPart s p n) s
    EdgeOnly s t ∧ (∀ p, p < k → Commits s t p n) ∧ ∀ p, k ≤ p → t.govPart p = s.govPart p := by
  induction k with
  | zero => exact ⟨.refl s, fun p hp => absurd hp (Nat.not_lt_zero p), fun _ _ => rfl⟩
  | succ k ih =>
    obtain ⟨hedge, hdone, hleft⟩ := ih
    rw [List.range_succ, List.foldl_append]
    generalize (List.range k).foldl (fun s p => commitPart s p n) s = u at hedge hdone hleft
    refine ⟨hedge.trans (.commitPart u k n), fun p hp => ?_, fun p hp => ?_⟩
    · change Commits s (commitPart u k n) p n
      by_cases hpk : p = k
      · subst hpk
        have hgov := hleft p le_rfl
        unfold Commits
        split
        · next hst => rw [commitPart_of_none ((hedge.part_st p).trans hst), hgov]
        · next hst =>
          obtain ⟨scales, scaled, heq⟩ := commitPart_govPart_same (s := u) (p := p) (by rwa [hedge.part_st]) n
          rw [hgov, hedge.partCurrent_eq hgov, hedge.declaredCores_eq, hedge.slewOf_eq] at heq
          exact ⟨scales, scaled, heq⟩
      · have hbefore := hdone p (by omega)
        unfold Commits at hbefore ⊢
        rwa [commitPart_govPart_ne u n hpk]
    · exact (commitPart_govPart_ne u n (by omega)).trans (hleft p (by omega))

/-- The first edge at which the array-rail monitor diverges is counted, and nothing else follows from it (R532). -/
theorem railCheck_of_agreed {s : State} (h : s.gov.diverge = 0) (rail : Nat) :
    ∃ n, railCheck s rail = s.modGov fun g => { g with diverge := n } := by
  unfold railCheck
  dsimp only
  rw [if_pos h]
  split <;> exact ⟨_, rfl⟩

/-- The state in which the partitions commit: the next tick has begun, what was discarded in the old one counts again, and the lending
setting is in force (R268, R290). -/
def atEdge (s : State) : State := (s.advance (32 * (s.tick + 1))).modGov fun g => { g with discard := [], lending := g.lend.v == 1 }

theorem atEdge_now (s : State) : (atEdge s).gov.now = 32 * (s.gov.now / 32 + 1) := by
  change max s.gov.now (32 * (s.gov.now / 32 + 1)) = _
  omega

/-- A tick edge of a governor that runs and whose monitor agreed. -/
theorem committedUpdate_of_agreed {s : State} (hrun : s.gov.running = true) (hagreed : s.gov.diverge = 0) (rail : Nat) :
    ∃ t n, EdgeOnly (atEdge s) t ∧ (∀ p, p < 8 → Commits (atEdge s) t p (s.tick + 1)) ∧
      committedUpdate s rail = t.modGov fun g => { g with diverge := n } := by
  obtain ⟨hedge, hcommits, -⟩ := foldl_commitPart (atEdge s) (s.tick + 1) 8
  obtain ⟨n, hrail⟩ := railCheck_of_agreed (hedge.diverge.trans hagreed) rail
  refine ⟨_, n, hedge, hcommits, ?_⟩
  rw [← hrail]
  unfold committedUpdate
  rw [if_neg (by simp [hrun])]
  rfl

/-- The committed current follows the declared one within the slew share, and never moves by more (R285). -/
theorem GovPart.settle_within (g : GovPart) (d slew : Nat) :
    (g.settle d slew).committed ≤ g.committed + slew ∧ g.committed ≤ (g.settle d slew).committed + slew := by
  unfold GovPart.settle
  dsimp only
  split <;> omega

end Sys2Proof.Machine
end

section
/-! PROOFS. O9: committed currents, GOV_LEND and the end of loans (R285, R290, R293, R569). -/

namespace Sys2Proof.Proofs
open Sys2Proof Sys2Proof.Machine

/-- Settles O9: the partitions commit one after another, each by what stood before the edge (`foldl_commitPart`); the pair and the loan are
the branches of their definitions. -/
theorem committedCurrentsAndLoans : Obligations.CommittedCurrentsAndLoans := by
  unfold Obligations.CommittedCurrentsAndLoans
  refine ⟨fun s rail hrun hagreed => ?_, fun s v c hready => ⟨fun hagree => ?_, fun hdiffer => ?_⟩, fun s p g hgrant => ?_⟩
  · obtain ⟨t, n, hedge, hcommits, heq⟩ := committedUpdate_of_agreed hrun hagreed rail
    refine ⟨_, congrArg Host.Outcome.next heq, hedge.now.trans (atEdge_now s), ?_, hedge.discard, hedge.sys, hedge.cores, fun p hp => ?_⟩
    · exact hedge.sameBytes
    · intro d c
      split
      · next hst => exact congrArg GovPart.committed ((hcommits p hp).of_none hst)
      · next hst =>
        obtain ⟨scales, scaled, hset⟩ := (hcommits p hp).of_created hst
        have hcurrent : (t.modGov fun g => { g with diverge := n }).govPart p =
            { (s.govPart p).settle d (slewOf s p) with scales := scales, scaled := scaled } := hset
        rw [hcurrent]
        exact ⟨rfl, rfl, (s.govPart p).settle_within d (slewOf s p)⟩
  · refine congrArg Host.Outcome.next ((gatePair_pf0 _ _ hready rfl rfl).trans ?_)
    exact if_pos hagree
  · refine ⟨_, congrArg Host.Outcome.next ((gatePair_pf0 _ _ hready rfl rfl).trans (if_neg (not_not.mpr hdiffer))), ?_⟩
    exact pairCounted_pairBad _ _
  · refine congrArg Host.Outcome.next ?_
    unfold loanGrantEnd
    rw [hgrant]
    dsimp only
    split <;> rfl

end Sys2Proof.Proofs
end

section
/-! SUPPORT. Images of a partition, the start of a job, and its end by STOP and UNLOAD (R213, R218, R334, R343). -/

namespace Sys2Proof.Machine

/-! ### Images -/

theorem Part.image_modImg_same {q : Part} {i : Nat} (h : i < q.img.length) (f : Img → Img) : (q.modImg i f).image i = f (q.image i) := by
  simp [Part.image, Part.modImg, List.getD, h]

theorem Part.image_modImg_ne (q : Part) {i j : Nat} (h : j ≠ i) (f : Img → Img) : (q.modImg i f).image j = q.image j := by
  simp [Part.image, Part.modImg, List.getD, Ne.symm h]

/-- A loaded image is one of the partition's. -/
theorem Part.lt_of_image_info {q : Part} {i : Nat} {x : ImgInfo} (h : (q.image i).info = some x) : i < q.img.length := by
  by_contra hout
  rw [Part.image, List.getD_eq_default _ _ (Nat.le_of_not_lt hout)] at h
  contradiction

/-- A change of an image that leaves what the loader recorded of it leaves the cores of every image. -/
theorem imageCores_modImg (q : Part) (i j : Nat) {f : Img → Img} (hf : ∀ g, (f g).info = g.info) :
    imageCores (q.modImg i f) j = imageCores q j := by
  have hinfo : ((q.modImg i f).image j).info = (q.image j).info := by
    by_cases hj : j = i
    · subst hj
      by_cases hlt : j < q.img.length
      · rw [Part.image_modImg_same hlt, hf]
      · simp [Part.image, Part.modImg, List.getD, hlt]
    · rw [Part.image_modImg_ne q hj]
  unfold imageCores
  rw [hinfo]

theorem imageCores_of_info {q : Part} {i : Nat} {x : ImgInfo} (h : (q.image i).info = some x) : imageCores q i = x.cores := by
  unfold imageCores
  rw [h]

/-! ### Actions (R334) -/

/-- A command that its port permits and whose code its mailbox takes, while the module runs commands. -/
theorem permitted_of_ready {s : State} {via : Via} {cmd : BitVec 16} (hready : Ready s) (hbox : boxAccepts via cmd = true) (ctx : BitVec 16)
    (f : State → State) : permitted s via cmd ctx true f = f s := by
  obtain ⟨hstate, hzero⟩ := hready
  have hidle : idleStatus s = none := by simp [idleStatus, hstate, hzero]
  unfold permitted whenReady
  simp only [hbox, hidle]
  rfl

/-- A job action that PF0 writes while the module runs commands, of a partition that exists. -/
theorem jobAction_pf0 {s : State} {p : Nat} (hready : Ready s) (hst : (s.part p).st ≠ 0) (ok : Bool) (i : Nat) (f : State → State) :
    jobAction s .pf0 p ok i f = if ok then f s else refuseAction s p i := by
  have hexists : ((s.part p).st != 0) = true := bne_iff_ne.mpr hst
  refine (permitted_of_ready hready rfl 0 _).trans ?_
  simp only [hexists, Bool.and_true]

theorem okAction_part (s : State) (p i : Nat) : (okAction s p i).part p = (s.part p).modImg i fun g => { g with last := St.ok } := by
  simp [okAction]

/-- A pre-emption that none is under way for: the yield is asked for from the next tick on. -/
theorem requestYield_okAction {s : State} {p i : Nat} (h : (s.part p).yield_ = none) (next : Option Nat) :
    (requestYield (okAction s p i) p next).part p =
      { (s.part p).modImg i fun g => { g with last := St.ok } with yield_ := some (⟨next, none, none⟩, s.tick + 1) } := by
  have hyield : ((s.part p).modImg i fun g => { g with last := St.ok }).yield_ = none := h
  unfold requestYield
  rw [State.modPart_part, if_pos rfl, okAction_part]
  simp only [hyield]
  rfl

/-! ### The start of a job (R218, R241, R334) -/

/-- A core at the start of an image's job in tick `t`. -/
def Core.started (k : Core) (i t : Nat) (x : ImgInfo) : Core :=
  { k with pc := BitVec.ofNat 14 x.imemFirst, regs := [], loops := [], segBase := t, st := .running, wait := .none, ended := false,
           halted := false, lastIssue := 32 * t, budget := [], bufs := [], rings := [], mintCount := (sget SeqCtx.fresh k.saved i).mint }

/-- A partition at the start of its image's job. -/
def Part.started (q : Part) (i t : Nat) : Part :=
  { (q.modImg i fun g => { g with st := .running, last := St.ok }) with
    running := some i, jobStart := t, stop := none, saving := false, resume := none,
    dill := if ((q.image i).info.map (·.training)).getD true then q.dill else { q.dill with step := 0 } }

theorem startImage_eq {s : State} {p i : Nat} {x : ImgInfo} (h : ((s.part p).image i).info = some x) (t : Nat) :
    startImage s p i t = (modList s x.cores fun k => k.started i t x).modPart p fun q => q.started i t := by
  unfold startImage
  simp only [imageCores_of_info h, h]
  rfl

theorem startImage_frame {s : State} {p i : Nat} {x : ImgInfo} (h : ((s.part p).image i).info = some x) (t : Nat) :
    ∃ ks ps, startImage s p i t = { s with cores := ks, parts := ps } := by
  rw [startImage_eq h]
  obtain ⟨ks, hks⟩ := modList_eq s x.cores fun k => k.started i t x
  rw [hks]
  exact ⟨_, _, rfl⟩

theorem startImage_core_of_mem {s : State} {p i c : Nat} {x : ImgInfo} (h : ((s.part p).image i).info = some x) (t : Nat) (hc : c ∈ x.cores) :
    (startImage s p i t).core c = (s.core c).started i t x := by
  rw [startImage_eq h, State.modPart_core]
  exact modList_core_of_mem (f := fun k => k.started i t x) hc (fun _ => rfl) s

theorem startImage_core_of_not_mem {s : State} {p i c : Nat} {x : ImgInfo} (h : ((s.part p).image i).info = some x) (t : Nat)
    (hc : c ∉ x.cores) : (startImage s p i t).core c = s.core c := by
  rw [startImage_eq h, State.modPart_core]
  exact modList_core_of_not_mem hc s _

theorem startImage_part {s : State} {p i : Nat} {x : ImgInfo} (h : ((s.part p).image i).info = some x) (t : Nat) :
    (startImage s p i t).part p = (s.part p).started i t := by
  rw [startImage_eq h, State.modPart_part, if_pos rfl]
  obtain ⟨ks, hks⟩ := modList_eq s x.cores fun k => k.started i t x
  rw [hks]
  rfl

/-- START of a READY image with no job in the way runs it from the next tick on. -/
theorem jobStart_of_ready {s : State} {p i : Nat} (hready : Ready s) (hst : (s.part p).st ≠ 0) (himage : ((s.part p).image i).st = .ready)
    (hrun : (s.part p).running = none) (hint : (s.part p).integ.refused = false) (hyield : (s.part p).yield_ = none)
    (hdrawn : drawnUntil s p ≤ s.tick + 1) : jobStart s .pf0 p i = startImage s p i (s.tick + 1) := by
  unfold jobStart
  simp only [jobAction_pf0 hready hst, himage, hrun, hint, hyield, Nat.max_eq_left hdrawn, Nat.lt_irrefl, if_false]
  rfl

/-! ### Pages given back (R188) -/

theorem freePages_page (gs : List Nat) (s : State) (g : Nat) :
    (freePages s gs).page g = if g ∈ gs then Paired.of (pageWord .free none 0xFFFF) else s.page g := by
  induction gs generalizing s with
  | nil => rfl
  | cons x gs ih =>
    have hset : (setAttr s .free none 0xFFFF x).page g = if g = x then Paired.of (pageWord .free none 0xFFFF) else s.page g :=
      State.setPage_page s x (Paired.of (pageWord .free none 0xFFFF)) g
    refine (ih (setAttr s .free none 0xFFFF x)).trans ?_
    rw [hset]
    by_cases hg : g = x
    · simp [hg]
    · simp [hg]

/-! ### Requests that end (R213, R278, R343) -/

/-- From `s` to `t` requests of a partition end, and what they held is given back: images and mailboxes stay, a page whose entry changes
becomes FREE with zeros over it, and no other byte of the stacks changes but to zero. -/
structure GivesBack (s t : State) : Prop where
  img : ∀ p, (t.part p).img = (s.part p).img
  mboxes : t.mboxes = s.mboxes
  page : ∀ g, t.page g = s.page g ∨ attrOf (t.page g).v = .free ∧ ∀ i, i < 65536 → bget t.stack (g * 65536 + i) = 0
  byte : ∀ a, bget t.stack a = bget s.stack a ∨ bget t.stack a = 0

namespace GivesBack

theorem of_eq {s t : State} (hparts : t.parts = s.parts) (hmboxes : t.mboxes = s.mboxes) (hpages : t.pages = s.pages)
    (hstack : t.stack = s.stack) : GivesBack s t :=
  ⟨fun p => by simp only [State.part, hparts], hmboxes, fun g => .inl (by simp only [State.page, hpages]), fun a => .inl (by rw [hstack])⟩

theorem refl (s : State) : GivesBack s s := of_eq rfl rfl rfl rfl

theorem trans {s t u : State} (h : GivesBack s t) (h' : GivesBack t u) : GivesBack s u := by
  refine ⟨fun p => (h'.img p).trans (h.img p), h'.mboxes.trans h.mboxes, fun g => ?_, fun a => ?_⟩
  · rcases h'.page g with hsame | hfree
    · rcases h.page g with hsame' | ⟨hattr, hzero⟩
      · exact .inl (hsame.trans hsame')
      · exact .inr ⟨hsame ▸ hattr, fun i hi => (h'.byte _).elim (·.trans (hzero i hi)) id⟩
    · exact .inr hfree
  · rcases h'.byte a with hsame | hzero
    · exact (h.byte a).imp hsame.trans hsame.trans
    · exact .inr hzero

theorem ite {s t u : State} {b : Prop} [Decidable b] (ht : GivesBack s t) (hu : GivesBack s u) : GivesBack s (if b then t else u) := by
  split
  · exact ht
  · exact hu

theorem of_errOnly {s t : State} (h : ErrOnly s t) : GivesBack s t := by
  obtain ⟨_, _, rfl⟩ := h
  exact of_eq rfl rfl rfl rfl

theorem foldl {α : Type} {f : State → α → State} (hf : ∀ s a, GivesBack s (f s a)) (l : List α) (s : State) : GivesBack s (l.foldl f s) :=
  List.foldlRecOn (motive := fun u : State => GivesBack s u) l f (refl s) fun u h a _ => h.trans (hf u a)

/-- Changes of a partition that leave its images. -/
theorem modPart (s : State) (p : Nat) {f : Part → Part} (hf : (f (s.part p)).img = (s.part p).img) : GivesBack s (s.modPart p f) := by
  refine ⟨fun x => ?_, rfl, fun _ => .inl rfl, fun _ => .inl rfl⟩
  rw [State.modPart_part]
  split
  · next h => exact h ▸ hf
  · rfl

theorem noteServed (s : State) (p : Nat) (cs : List (BitVec 16)) : GivesBack s (noteServed s p cs) := by
  unfold Machine.noteServed
  exact modPart s p rfl

theorem complete (s : State) (vf q : Nat) (c : Completion) : GivesBack s (complete s vf q c) := of_errOnly (complete_errOnly s vf q c)

theorem freePages (s : State) (gs : List Nat) : GivesBack s (freePages s gs) := by
  refine ⟨fun p => ?_, ?_, fun g => ?_, fun a => ?_⟩
  · obtain ⟨_, _, h⟩ := freePages_eq s gs
    rw [h]
    rfl
  · obtain ⟨_, _, h⟩ := freePages_eq s gs
    rw [h]
  · rw [freePages_page]
    split
    · next hg =>
      refine .inr ⟨by decide, fun i hi => ?_⟩
      rw [bget_freePages, if_pos (by rwa [show (g * 65536 + i) / 65536 = g by omega])]
    · exact .inl rfl
  · rw [bget_freePages]
    split
    · exact .inr rfl
    · exact .inl rfl

theorem freeKv (s : State) (p : Nat) (ns : List Nat) : GivesBack s (freeKv s p ns) := by
  unfold Machine.freeKv
  split
  · exact refl s
  · refine ⟨fun _ => rfl, rfl, fun _ => .inl rfl, fun a => ?_⟩
    refine List.foldlRecOn (motive := fun m : List Host.Cell => bget m a = bget s.stack a ∨ bget m a = 0) _ _ (.inl rfl) fun m hm g _ => ?_
    rw [bget_bzero]
    split
    · exact .inr rfl
    · exact hm

theorem sweepSnaps (s : State) : GivesBack s (sweepSnaps s) := by
  unfold Machine.sweepSnaps
  exact .trans (.trans (t := dropPageLines s _) (of_eq rfl rfl rfl rfl) (freePages _ _)) (of_eq rfl rfl rfl rfl)

theorem endReqs (s : State) (p : Nat) (st : Status) : GivesBack s (endReqs s p st) := by
  unfold Machine.endReqs
  refine .trans ?_ (sweepSnaps _)
  refine .trans (.trans ?_ (freeKv _ _ _)) (modPart _ _ rfl)
  exact .trans (ite (noteServed s p _) (refl s)) (foldl (fun u r => of_errOnly (completeReq_errOnly u r st)) _ _)

theorem endTrain (s : State) (p : Nat) (st : Status) : GivesBack s (endTrain s p st) := by
  have hfinish (u : State) (t : TrainJob) : GivesBack u (finishTrain u t st) := by
    unfold finishTrain
    exact .trans (foldl (fun _ _ => complete _ _ _ _) _ u) (complete _ _ _ _)
  unfold Machine.endTrain endTrains
  refine .trans ?_ (modPart _ _ rfl)
  exact .trans (noteServed s p _) (foldl (fun u t => hfinish u t) _ _)

theorem endWork (s : State) (p i : Nat) (st : Status) : GivesBack s (endWork s p i st) := by
  unfold Machine.endWork
  split
  · exact ite (endTrain s p st) (endReqs s p st)
  · exact endReqs s p st

end GivesBack

/-! ### STOP and UNLOAD (R334, R335) -/

theorem markStop_part_of_running {s : State} {p : Nat} (hrun : (s.part p).running.isSome) (hstop : (s.part p).stop = none) (st : Status) :
    (markStop s p st).part p = { s.part p with stop := some (st, s.tick + 1) } := by
  obtain ⟨i, hrun⟩ := Option.isSome_iff_exists.mp hrun
  unfold markStop
  rw [State.modPart_part, if_pos rfl]
  simp only [hrun, hstop]

theorem allAtDstep_congr {s t : State} {p : Nat} (hcores : t.cores = s.cores) (hjob : jobCores (t.part p) = jobCores (s.part p)) :
    allAtDstep t p = allAtDstep s p := by
  unfold allAtDstep State.core
  rw [hcores, hjob]

/-- STOP of a running job that no stop has reached marks it to end. -/
theorem jobStop_of_running {s : State} {p i : Nat} (hready : Ready s) (hst : (s.part p).st ≠ 0) (himage : ((s.part p).image i).st = .running)
    (hrun : (s.part p).running.isSome) (hstop : (s.part p).stop = none) (hdstep : allAtDstep s p = false) :
    jobStop s .pf0 p i = markStop (okAction s p i) p St.disabled ∧
      (markStop (okAction s p i) p St.disabled).part p =
        { (s.part p).modImg i fun g => { g with last := St.ok } with stop := some (St.disabled, s.tick + 1) } := by
  have hpart : (markStop (okAction s p i) p St.disabled).part p =
      { (s.part p).modImg i fun g => { g with last := St.ok } with stop := some (St.disabled, s.tick + 1) } := by
    have hok := okAction_part s p i
    rw [markStop_part_of_running (by rw [hok]; exact hrun) (by rw [hok]; exact hstop), hok]
    rfl
  have hjob : jobCores ((markStop (okAction s p i) p St.disabled).part p) = jobCores (s.part p) := by
    rw [hpart]
    unfold jobCores
    have hcores (j : Nat) := imageCores_modImg (s.part p) i j (f := fun g => { g with last := St.ok }) fun _ => rfl
    exact congrArg (fun f : Nat → List Nat => match (s.part p).running with | none => [] | some j => f j) (funext hcores)
  have hgoes : allAtDstep (markStop (okAction s p i) p St.disabled) p = false := by
    have hcores : (markStop (okAction s p i) p St.disabled).cores = s.cores := rfl
    rw [allAtDstep_congr hcores hjob, hdstep]
  refine ⟨?_, hpart⟩
  unfold jobStop
  simp only [jobAction_pf0 hready hst, himage, hgoes]
  rfl

/-- STOP of a suspended image leaves it READY. -/
theorem jobStop_of_suspended {s : State} {p i : Nat} (hready : Ready s) (hst : (s.part p).st ≠ 0) (hlt : i < (s.part p).img.length)
    (himage : ((s.part p).image i).st = .suspended) :
    ((jobStop s .pf0 p i).part p).image i = { (s.part p).image i with st := .ready, last := St.disabled } := by
  have himg := (GivesBack.endWork s p i St.disabled).img p
  have hstop : jobStop s .pf0 p i = (endWork s p i St.disabled).modPart p fun q =>
      { (q.modImg i fun g => { g with st := .ready, last := St.disabled }) with resumes := q.resumes.filter fun r => r.image != i } := by
    unfold jobStop
    simp only [jobAction_pf0 hready hst, himage]
    rfl
  rw [hstop, State.modPart_part, if_pos rfl]
  refine (Part.image_modImg_same (himg.symm ▸ hlt) _).trans ?_
  unfold Part.image
  rw [himg]

theorem clearRanges_eq (s : State) (info : ImgInfo) : ∃ ks, clearRanges s info = { s with cores := ks } := modList_eq _ _ _

/-- An image that becomes EMPTY leaves the other images. -/
theorem dropImage_img (s : State) (p i : Nat) (last : Status) :
    ((dropImage s p i last).part p).img = ((s.part p).modImg i fun _ => { Img.fresh with last := last }).img := by
  have hcleared (info : ImgInfo) (gs : List Nat) : (freePages (clearRanges s info) gs).parts = s.parts := by
    obtain ⟨_, _, hfree⟩ := freePages_eq (clearRanges s info) gs
    obtain ⟨_, hcores⟩ := clearRanges_eq s info
    rw [hfree, hcores]
  unfold dropImage
  dsimp only
  rw [State.modPart_part, if_pos rfl]
  refine congrArg (fun q : Part => (q.modImg i fun _ => { Img.fresh with last := last }).img) ?_
  unfold State.part
  refine congrArg (sget Part.fresh · p) ?_
  split
  · rfl
  · exact hcleared _ _

/-- UNLOAD of an image whose job does not run. -/
theorem jobUnload_of_idle {s : State} {p i : Nat} (hready : Ready s) (hst : (s.part p).st ≠ 0) (hrun : ((s.part p).image i).st ≠ .running)
    (hload : ((s.part p).image i).st ≠ .loading) : jobUnload s .pf0 p i = dropImage s p i St.ok := by
  unfold jobUnload
  simp only [jobAction_pf0 hready hst, bne_iff_ne.mpr hrun, bne_iff_ne.mpr hload]
  rfl

end Sys2Proof.Machine
end

section
/-! PROOFS. O16: the job actions (R268, R334, R335, Table 10-5). -/

namespace Sys2Proof.Proofs
open Sys2Proof Sys2Proof.Machine

/-- Settles O16: each action that PF0 writes is the branch of its definition that the state decides (`jobAction_pf0`), and each branch has
its lemma. -/
theorem jobActionsOfTable105 : Obligations.JobActionsOfTable105 := by
  unfold Obligations.JobActionsOfTable105
  intro s p i hready hst hlt
  refine ⟨fun himage hrun hint hyield hdrawn x hinfo => ?start, fun hdisc => ?discarded, fun himage hyield hdisc => ?suspend,
    fun himage hother hint hyield hdisc => ?switch, fun himage hrun hstop hdstep => ?stop, fun himage => ?stopSuspended,
    fun hrun hload => ?unload⟩
  case start =>
    have hpart := startImage_part hinfo (s.tick + 1)
    refine ⟨_, congrArg Host.Outcome.next (jobStart_of_ready hready hst himage hrun hint hyield hdrawn), ?_, ?_, ?_, ?_, fun c hc => ?_,
      fun c hc => startImage_core_of_not_mem hinfo _ hc⟩
    · obtain ⟨ks, ps, hframe⟩ := startImage_frame hinfo (s.tick + 1)
      rw [hframe]
    · rw [hpart]
      rfl
    · rw [hpart]
      rfl
    · rw [hpart]
      exact congrArg Img.st (Part.image_modImg_same hlt _)
    · rw [startImage_core_of_mem hinfo _ hc]
      exact ⟨rfl, rfl, rfl, rfl, rfl⟩
  case discarded =>
    exact ⟨congrArg Host.Outcome.next (if_pos hdisc), congrArg Host.Outcome.next (if_pos hdisc)⟩
  case suspend =>
    refine ⟨requestYield (okAction s p i) p none, congrArg Host.Outcome.next ?_, rfl, ?_⟩
    · rw [unlessDiscarded, hdisc, jobSuspend, jobAction_pf0 hready hst, himage]
      rfl
    · rw [requestYield_okAction hyield]
      exact ⟨rfl, rfl⟩
  case switch =>
    refine ⟨requestYield (okAction s p i) p (some i), congrArg Host.Outcome.next ?_, rfl, ?_⟩
    · rw [unlessDiscarded, hdisc, jobSwitch, jobAction_pf0 hready hst, himage, hother, hint]
      rfl
    · rw [requestYield_okAction hyield]
      exact ⟨rfl, rfl⟩
  case stop =>
    obtain ⟨heq, hpart⟩ := jobStop_of_running hready hst himage hrun hstop hdstep
    refine ⟨_, congrArg Host.Outcome.next heq, rfl, ?_⟩
    rw [hpart]
    exact ⟨rfl, rfl⟩
  case stopSuspended =>
    refine ⟨_, rfl, ?_⟩
    rw [jobStop_of_suspended hready hst hlt himage]
    exact ⟨rfl, rfl⟩
  case unload =>
    have hne : 1 - i.val ≠ i.val := by omega
    refine ⟨_, congrArg Host.Outcome.next (jobUnload_of_idle hready hst hrun hload), ?_, ?_⟩
    · unfold Part.image
      rw [dropImage_img]
      exact Part.image_modImg_same hlt _
    · unfold Part.image
      rw [dropImage_img]
      exact Part.image_modImg_ne _ hne _

end Sys2Proof.Proofs
end

section
/-! SUPPORT. Yield at a boundary, the switch tick, and the resume of a kept context (R335 to R338). -/

namespace Sys2Proof.Machine

/-! ### Entries set twice -/

theorem sins_sins_same {α : Type} (m : SMap α) (n : Nat) (v : α) : sins (sins m n v) n v = sins m n v := by
  induction m with
  | nil => simp [sins]
  | cons e rest ih =>
    obtain ⟨k, w⟩ := e
    by_cases hlt : n < k
    · simp [sins, hlt]
    · by_cases heq : k = n
      · simp [sins, heq]
      · simp [sins, hlt, heq, ih]

theorem sput_sput_same {α : Type} [DecidableEq α] (d : α) (m : SMap α) (n : Nat) (v : α) : sput d (sput d m n v) n v = sput d m n v := by
  unfold sput
  split
  · rw [List.filter_filter]
    simp
  · exact sins_sins_same m n v

/-! ### Yield (R335 to R337) -/

theorem sameBytes_modList (s : State) (cs : List Nat) (f : Core → Core) : SameBytes s (modList s cs f) := by
  obtain ⟨_, h⟩ := modList_eq s cs f
  rw [h]
  exact sameBytes_of_eq rfl rfl rfl rfl rfl

theorem modList_part (s : State) (cs : List Nat) (f : Core → Core) (p : Nat) : (modList s cs f).part p = s.part p := by
  obtain ⟨_, h⟩ := modList_eq s cs f
  rw [h]
  rfl

/-- A core whose context is kept for image `i`. -/
def Core.keepContext (k : Core) (i : Nat) : Core := { k with saved := sput SeqCtx.fresh k.saved i k.ctxOf }

/-- A core of a job that has yielded. -/
def Core.yieldedJob (k : Core) : Core :=
  { k with st := .idle, wait := .none, ended := false, budget := [], acts := [], rings := [],
           queues := k.queues.filter fun q => q.1 == 5 }

theorem Core.yieldedJob_yieldedJob (k : Core) : k.yieldedJob.yieldedJob = k.yieldedJob := by
  simp [Core.yieldedJob, List.filter_filter]

/-- The module at the boundary of tick `b`, with the contexts of the job's cores kept. -/
def keptAt (s : State) (i b : Nat) (x : ImgInfo) : State := modList (s.advance (32 * b)) x.cores fun k => k.keepContext i

theorem keptAt_core_of_mem {s : State} {i c : Nat} {x : ImgInfo} (b : Nat) (hc : c ∈ x.cores) :
    (keptAt s i b x).core c = (s.core c).keepContext i :=
  modList_core_of_mem (f := fun k => k.keepContext i) hc (fun k => congrArg (fun m => { k with saved := m }) (sput_sput_same _ _ _ _)) _

theorem keptAt_core_of_not_mem {s : State} {i c : Nat} {x : ImgInfo} (b : Nat) (hc : c ∉ x.cores) :
    (keptAt s i b x).core c = s.core c := modList_core_of_not_mem hc _ _

/-- A partition whose job of image `i` has yielded at the boundary of tick `b`, with the next tick as its switch tick. -/
def Part.yieldedAt (q : Part) (i b : Nat) (pre : Preempt) (r : Nat) : Part :=
  { (q.modImg i fun g => { g with st := .suspended }) with
    running := none, saving := false, resumes := q.resumes.filter (fun x => x.image != i) ++ [⟨i, b, b + 1⟩],
    yield_ := match pre.next with
      | none => none
      | some _ => some ({ pre with boundary := some b, switchTick := some (b + 1) }, r) }

/-- A job without a save sequence is suspended at its boundary, its contexts kept. -/
theorem jobYield_of_no_save {s : State} {p i b r : Nat} {x : ImgInfo} {pre : Preempt} (hinfo : ((s.part p).image i).info = some x)
    (hrun : (s.part p).running = some i) (hyield : (s.part p).yield_ = some (pre, r)) (hsaving : (s.part p).saving = false)
    (hb : pre.boundary = some b) (hsave : ∀ c ∈ x.cores, (s.core c).tileSave = 0) :
    jobYield s p = (modList (keptAt s i b x) x.cores Core.yieldedJob).modPart p fun q => q.yieldedAt i b pre r := by
  have hkept : saveContexts (s.advance (32 * b)) p i = keptAt s i b x := by
    unfold saveContexts
    rw [imageCores_of_info (q := (s.advance (32 * b)).part p) hinfo]
    rfl
  have hcores : imageCores ((keptAt s i b x).part p) i = x.cores := by
    unfold keptAt
    rw [modList_part]
    exact imageCores_of_info hinfo
  have hnone : (x.cores.all fun c => ((keptAt s i b x).core c).tileSave == 0) = true := by
    rw [List.all_eq_true]
    intro c hc
    rw [keptAt_core_of_mem b hc, beq_iff_eq]
    exact hsave c hc
  unfold jobYield
  simp only [hrun, hyield, hsaving, hb, hkept, imageCores_of_info hinfo, hnone]
  unfold yielded
  rw [hcores]
  rfl

/-! ### The switch tick (R338) -/

/-- A READY incoming image starts at the switch tick. -/
theorem jobResume_of_ready {s : State} {p i w r : Nat} {bd : Option Nat} (hrun : (s.part p).running = none)
    (hyield : (s.part p).yield_ = some (⟨some i, bd, some w⟩, r)) (hdue : windowsDue s p = false) (himage : ((s.part p).image i).st = .ready)
    (hint : (s.part p).integ.refused = false) :
    jobResume s p = startImage ((s.advance (32 * max w s.tick)).modPart p fun x => { x with yield_ := none, pauseFrom := none }) p i
      (max w s.tick) := by
  unfold jobResume
  simp only [hrun, hyield, hdue, hint, himage]
  rfl

/-! ### The end of a restore sequence (R338) -/

/-- A core on which the kept context of image `i` goes on in tick `r`, of a job that yielded at the boundary of tick `b`. -/
def Core.restored (k : Core) (i b r : Nat) (x : ImgInfo) : Core :=
  let c := sget SeqCtx.fresh k.saved i
  { ({ k with pc := c.pc, regs := c.regs, loops := c.loops, segBase := c.segBase, mintCount := c.mint, ended := c.ended, rings := c.rings,
              halted := false } : Core).shift x (r - b) with
    wait := c.wait.dstepOnly, st := .running, lastIssue := 32 * r }

/-- The TILE that ends the restore sequence on every core: the kept context goes on. -/
theorem resumeTick_of_boundary {s : State} {p i : Nat} {x : ImgInfo} {rec : Resume} (hinfo : ((s.part p).image i).info = some x)
    (hrun : (s.part p).running = some i) (hresume : (s.part p).resume = some rec) (hstop : (s.part p).stop = none)
    (hall : (boundaryCores s p).1.length = x.cores.length) :
    resumeTick s p = (modList (atBoundary s p (boundaryCores s p).2) x.cores fun k => k.restored i rec.b ((boundaryCores s p).2 / 32) x).modPart
      p fun q => { q with resume := none, resumes := q.resumes.filter fun y => y.image != i } := by
  have hthere (f : Nat → Bool) : ¬(boundaryCores s p).1.length < (x.cores.filter f).length :=
    hall ▸ Nat.not_lt.mpr (List.length_filter_le f x.cores)
  have hkept : ((((atBoundary s p (boundaryCores s p).2).part p).image i)).info = some x := by
    obtain ⟨m, hpart, -⟩ := atBoundary_part s p (boundaryCores s p).2
    rw [hpart]
    exact hinfo
  have hrestore (b r : Nat) : restoreContext (atBoundary s p (boundaryCores s p).2) p i b r =
      modList (atBoundary s p (boundaryCores s p).2) x.cores fun k => k.restored i b r x := by
    unfold restoreContext
    rw [hkept]
    rfl
  unfold resumeTick
  simp only [hresume, hrun, hstop, imageCores_of_info hinfo, hthere, if_false]
  rw [← hrestore]
  rfl

end Sys2Proof.Machine
end

section
/-! PROOFS. O17: yield, switch and resume (R335 to R338). -/

namespace Sys2Proof.Proofs
open Sys2Proof Sys2Proof.Machine

/-- Settles O17: `jobYield_of_no_save`, `jobResume_of_ready` and `resumeTick_of_boundary` say what each of the three comes to; what a core
and the partition then hold is read off it. -/
theorem yieldSwitchAndResume : Obligations.YieldSwitchAndResume := by
  unfold Obligations.YieldSwitchAndResume
  intro s p i x hinfo
  have hlt := Part.lt_of_image_info hinfo
  refine ⟨fun pre r b hrun hyield hsaving hb hsave => ?yield, fun bd w r hrun hyield hdue himage hint => ?switch,
    fun rec hrun hresume hstop hall hnodup => ?resume⟩
  case yield =>
    have hpart : ((modList (keptAt s i b x) x.cores Core.yieldedJob).modPart p fun q => q.yieldedAt i b pre r).part p =
        (s.part p).yieldedAt i b pre r := by
      rw [State.modPart_part, if_pos rfl, modList_part, keptAt, modList_part]
      rfl
    refine ⟨_, congrArg Host.Outcome.next (jobYield_of_no_save hinfo hrun hyield hsaving hb hsave), ?_, ?_, ?_, fun c hc => ?_,
      fun c hc => ?_, ?_⟩
    · rw [hpart]
      rfl
    · rw [hpart]
      exact congrArg Img.st (Part.image_modImg_same hlt _)
    · rw [hpart]
      exact List.mem_append_right _ (List.mem_singleton.mpr rfl)
    · rw [State.modPart_core, modList_core_of_mem hc Core.yieldedJob_yieldedJob, keptAt_core_of_mem b hc]
      exact sget_sput_same _ _ _ _
    · rw [State.modPart_core, modList_core_of_not_mem hc, keptAt_core_of_not_mem b hc]
    · exact SameBytes.trans (sameBytes_modList (s.advance (32 * b)) _ _) (sameBytes_modList _ _ _)
  case switch =>
    have hinfo' : ((((s.advance (32 * max w s.tick)).modPart p fun x => { x with yield_ := none, pauseFrom := none }).part p).image i).info =
        some x := by
      rw [State.modPart_part, if_pos rfl]
      exact hinfo
    have hpart := startImage_part hinfo' (max w s.tick)
    rw [State.modPart_part, if_pos rfl] at hpart
    refine ⟨_, congrArg Host.Outcome.next (jobResume_of_ready hrun hyield hdue himage hint), ?_, ?_, ?_, fun c hc => ?_, ?_⟩
    · rw [hpart]
      rfl
    · rw [hpart]
      rfl
    · rw [hpart]
      rfl
    · rw [startImage_core_of_mem hinfo' _ hc]
      exact ⟨rfl, rfl⟩
    · obtain ⟨ks, ps, hframe⟩ := startImage_frame hinfo' (max w s.tick)
      rw [hframe]
      exact sameBytes_of_eq rfl rfl rfl rfl rfl
  case resume =>
    obtain ⟨m, hbound, -⟩ := atBoundary_part s p (boundaryCores s p).2
    refine ⟨_, congrArg Host.Outcome.next (resumeTick_of_boundary hinfo hrun hresume hstop hall), ?_, ?_, fun c hc => ?_, ?_⟩
    · rw [State.modPart_part, if_pos rfl]
    · rw [State.modPart_part, if_pos rfl, modList_part, hbound]
      exact hrun
    · rw [State.modPart_core, modList_core, List.count_eq_one_of_mem hnodup hc, atBoundary_core]
      exact ⟨rfl, rfl, rfl, rfl⟩
    · exact SameBytes.trans (atBoundary_sameBytes s p _) (sameBytes_modList _ _ _)

end Sys2Proof.Proofs
end

section
/-! SUPPORT. Commit requests and commit ticks (R326, R327, R328, R331). -/

namespace Sys2Proof.Machine

/-! ### The request (R326, R327, Table 10-3) -/

/-- The checks of a commit look at none of the system block and the commit block. -/
theorem commitChecks_congr (s : State) (y : Sys) (k : CommitRegs) (mask : BitVec 8) (reshape : Bool) :
    commitChecks { s with sys := y, commit := k } mask reshape = commitChecks s mask reshape := rfl

/-- Where every pair of every set agrees with its complement, no partition stops a commit (R323). -/
theorem findDisagreeing_eq_none {s : State} (hpairs : ∀ q, (s.part q).live.ok = true ∧ (s.part q).shadow.ok = true) (mask : BitVec 8) :
    ((List.range 8).find? fun p => !(s.part p).live.ok || !(proposed s mask p).ok) = none := by
  refine List.find?_eq_none.mpr fun p _ => ?_
  obtain ⟨hlive, hshadow⟩ := hpairs p
  unfold proposed
  split
  · simp [hlive, hshadow]
  · simp [hlive]

/-- The commit block once the checks have answered a request without moves: a failing check leaves its status and partition, and where none
fails the commit is accepted for the tick 16 ticks on. -/
def CommitRegs.answered (k : CommitRegs) (req : BitVec 9) (mask : BitVec 8) (t : Nat) : Option (Status × Nat) → CommitRegs
  | none => { k with req := Paired.of req, status := St.accepted, part := 0, busy := true, tick := BitVec.ofNat 64 (t + 16),
                     pending := some (mask, false) }
  | some (st, p) => { k with req := Paired.of req, status := st, part := BitVec.ofNat 3 p }

/-- A request whose halves agree is answered as its checks say. -/
theorem commitRequest_of_agreeing {s : State} {v c : W32} (hbusy : s.commit.busy = false) (hagree : v.extractLsb' 0 9 = ~~~(c.extractLsb' 0 9))
    (hstays : v.getLsbD 8 = false) (hpairs : ∀ q, (s.part q).live.ok = true ∧ (s.part q).shadow.ok = true) :
    commitRequest s v c = { s with
      commit := s.commit.answered (v.extractLsb' 0 9) (v.extractLsb' 0 8) s.tick (commitChecks s (v.extractLsb' 0 8) false) } := by
  generalize hr : commitChecks s (v.extractLsb' 0 8) false = r
  unfold commitRequest
  rw [if_neg (not_not.mpr hagree)]
  extract_lets k u mask reshape moved
  have hreshape : reshape = false := hstays
  have hmoved : moved = [] := if_neg (by simp [hreshape])
  have hbusy' : u.commit.busy = false := hbusy
  have hnone := findDisagreeing_eq_none (s := u) hpairs mask
  have hchecks : commitChecks u mask false = r := (commitChecks_congr s s.sys u.commit mask false).trans hr
  simp only [hbusy', hnone, hreshape, hchecks, hmoved]
  cases r
  case none => rfl
  case some => rfl

/-! ### The tick (R327, R328) -/

/-- From `s` to `t` shadow sets of partitions come into force: bytes of scratchpads, cells and stacks stay, time, the
commit block, and of each partition its shadow set and its reshape. -/
structure SharesMove (s t : State) : Prop where
  scratch : t.scratch = s.scratch
  cim : t.cim = s.cim
  stack : t.stack = s.stack
  now : t.gov.now = s.gov.now
  commit : t.commit = s.commit
  shadow : ∀ p, (t.part p).shadow = (s.part p).shadow
  reshape : ∀ p, (t.part p).reshape = (s.part p).reshape

namespace SharesMove

theorem of_eq {s t : State} (hscratch : t.scratch = s.scratch) (hcim : t.cim = s.cim) (hstack : t.stack = s.stack)
    (hnow : t.gov.now = s.gov.now) (hcommit : t.commit = s.commit) (hparts : t.parts = s.parts) : SharesMove s t :=
  ⟨hscratch, hcim, hstack, hnow, hcommit, fun p => by simp only [State.part, hparts], fun p => by simp only [State.part, hparts]⟩

theorem refl (s : State) : SharesMove s s := of_eq rfl rfl rfl rfl rfl rfl

theorem trans {s t u : State} (h : SharesMove s t) (h' : SharesMove t u) : SharesMove s u :=
  ⟨h'.scratch.trans h.scratch, h'.cim.trans h.cim, h'.stack.trans h.stack, h'.now.trans h.now, h'.commit.trans h.commit,
    fun p => (h'.shadow p).trans (h.shadow p), fun p => (h'.reshape p).trans (h.reshape p)⟩

end SharesMove

theorem foldl_modGroup_eq (f : GroupSt → GroupSt) (gs : List Nat) (s : State) :
    ∃ m, gs.foldl (fun s g => s.modGroup g f) s = { s with groups := m } := by
  refine List.foldlRecOn (motive := fun u : State => ∃ m, u = { s with groups := m }) gs _ ⟨_, rfl⟩ ?_
  rintro u ⟨_, rfl⟩ g -
  exact ⟨_, rfl⟩

/-- A named partition at the commit tick: its shadow set is in force. -/
def Part.committed (x : Part) (lost : BitVec 32) : Part :=
  { x with live := x.shadow, waysZeroing := x.waysZeroing ||| lost,
           st := if x.st = 0 then (if x.shadow.groups.v = 0 then 0 else 1) else x.st }

/-- What the commit tick changes of a named partition outside the partition itself: lines of ways that it loses, power of groups that it
gains, groups that it loses, and the governor's account of one that is created. -/
theorem applyShares_eq (s : State) (p : Nat) : ∃ (u : State) (lost : BitVec 32), u.parts = s.parts ∧ SharesMove s u ∧
    applyShares s p = u.modPart p fun x => x.committed lost := by
  unfold applyShares
  extract_lets q added gone lost dropped powered removed created
  have hremoved : ∃ m, removed = { powered with groups := m } := foldl_modGroup_eq _ _ _
  have hmove : SharesMove s removed ∧ removed.parts = s.parts := by
    obtain ⟨m, hm⟩ := hremoved
    rw [hm]
    exact ⟨.of_eq rfl rfl rfl rfl rfl rfl, rfl⟩
  obtain ⟨hmove, hparts⟩ := hmove
  have hcreated : SharesMove removed created ∧ created.parts = removed.parts := by
    by_cases hst : q.st = 0
    · rw [show created = removed.modGovPart p fun _ => GovPart.fresh from if_pos hst]
      exact ⟨.of_eq rfl rfl rfl rfl rfl rfl, rfl⟩
    · rw [show created = removed from if_neg hst]
      exact ⟨.refl _, rfl⟩
  exact ⟨created, lost, hcreated.2.trans hparts, hmove.trans hcreated.1, rfl⟩

theorem applyShares_move (s : State) (p : Nat) : SharesMove s (applyShares s p) := by
  obtain ⟨u, lost, hparts, hmove, heq⟩ := applyShares_eq s p
  rw [heq]
  refine hmove.trans ⟨rfl, rfl, rfl, rfl, rfl, fun x => ?_, fun x => ?_⟩
  all_goals
    rw [State.modPart_part]
    split
    · next h => rw [h]; rfl
    · rfl

theorem applyShares_live (s : State) (p q : Nat) :
    ((applyShares s p).part q).live = if q = p then (s.part q).shadow else (s.part q).live := by
  obtain ⟨u, lost, hparts, -, heq⟩ := applyShares_eq s p
  have hpart : u.part = s.part := by
    unfold State.part
    rw [hparts]
  rw [heq, State.modPart_part, hpart]
  split
  · next h => rw [h]; rfl
  · rfl

/-- Shadow sets of the named partitions come into force, one after another. -/
theorem foldl_applyShares (named : List Nat) (s : State) : SharesMove s (named.foldl applyShares s) ∧
    ∀ q, ((named.foldl applyShares s).part q).live = if q ∈ named then (s.part q).shadow else (s.part q).live := by
  induction named generalizing s with
  | nil => exact ⟨.refl s, fun _ => rfl⟩
  | cons p named ih =>
    obtain ⟨hmove, hlive⟩ := ih (applyShares s p)
    have hfirst := applyShares_move s p
    refine ⟨hfirst.trans hmove, fun q => ?_⟩
    rw [List.foldl_cons, hlive, hfirst.shadow, applyShares_live]
    by_cases hq : q = p
    · simp [hq]
    · simp [hq]

theorem mem_maskList {n w q : Nat} (m : BitVec w) (h : q < n) : q ∈ maskList n m ↔ m.getLsbD q = true := by
  simp [maskList, h]

/-- The commit block once the commit tick has come. -/
def CommitRegs.taken (k : CommitRegs) (t : Nat) : CommitRegs :=
  { k with status := St.ok, busy := false, pending := none, tick := BitVec.ofNat 64 t }

/-- The commit tick of a commit that moves no job. -/
theorem commitTick_of_pending {s : State} {mask : BitVec 8} (hpending : s.commit.pending = some (mask, false))
    (hreshape : ∀ q, (s.part q).reshape = none) (hpairs : ∀ q, (s.part q).live.ok = true ∧ (s.part q).shadow.ok = true) :
    commitTick s =
      let t := max s.commit.tick.toNat s.tick
      let u := (maskList 8 mask).foldl applyShares (s.advance (32 * t))
      { u with commit := u.commit.taken t } := by
  have hdrains : ((maskList 8 mask).any fun p =>
      (s.part p).reshape.isSome && (s.part p).running.isSome && (s.part p).pauseFrom.isNone) = false := by
    simp [hreshape]
  unfold commitTick
  simp only [hpending, hdrains, findDisagreeing_eq_none hpairs mask]
  refine List.foldlRecOn (motive := fun v : State => v = _) _ _ rfl ?_
  rintro v hv p -
  have hstays : (v.part p).reshape = none := by
    rw [hv]
    exact ((foldl_applyShares (maskList 8 mask) (s.advance (32 * max s.commit.tick.toNat s.tick))).1.reshape p).trans (hreshape p)
  simp only [hstays]
  exact hv

end Sys2Proof.Machine
end

section
/-! PROOFS. O18: commits (R326, R327, R569). -/

namespace Sys2Proof.Proofs
open Sys2Proof Sys2Proof.Machine

/-- Settles O18: `commitRequest_of_agreeing` for the request; for the tick, `foldl_applyShares` over the named partitions. -/
theorem commitsTakeTheShadowSets : Obligations.CommitsTakeTheShadowSets := by
  unfold Obligations.CommitsTakeTheShadowSets
  refine ⟨fun s v c hready hbusy hagree hstays hpairs => ?_, fun s mask hpending hreshape hpairs => ?_⟩
  · have hrequest : exec (.partitionCommitRequest v c) s = .next { clearLatch s 0x208000 with
        commit := s.commit.answered (v.extractLsb' 0 9) (v.extractLsb' 0 8) s.tick (commitChecks s (v.extractLsb' 0 8) false) } := by
      refine congrArg Host.Outcome.next ((gatePair_pf0 _ _ hready rfl rfl).trans ?_)
      refine (commitRequest_of_agreeing (s := clearLatch s 0x208000) hbusy hagree hstays hpairs).trans ?_
      rw [show commitChecks (clearLatch s 0x208000) (v.extractLsb' 0 8) false = commitChecks s (v.extractLsb' 0 8) false from
        commitChecks_congr s _ s.commit _ _]
      rfl
    refine ⟨fun hpass => ⟨_, hrequest, ?_⟩, fun st q hfail => ⟨_, hrequest, ?_⟩⟩
    · rw [hpass]
      exact ⟨rfl, rfl, rfl, rfl, rfl⟩
    · rw [hfail]
      exact ⟨rfl, rfl, rfl, hbusy, rfl⟩
  · obtain ⟨hmove, hlive⟩ := foldl_applyShares (maskList 8 mask) (s.advance (32 * max s.commit.tick.toNat s.tick))
    refine ⟨_, congrArg Host.Outcome.next (commitTick_of_pending hpending hreshape hpairs), rfl, rfl, rfl, hmove.now, fun q hq => ?_,
      fun q _ => hmove.shadow q, hmove.scratch, hmove.cim, hmove.stack⟩
    refine (hlive q).trans (if_congr ?_ rfl rfl)
    exact mem_maskList mask hq

end Sys2Proof.Proofs
end

section
/-! SUPPORT. RELEASE and its end, and the zeroisation of removed groups (R328, R333): what each leaves of mailboxes, pages, stacks and
power. -/

namespace Sys2Proof.Machine

/-! ### Answers (R464, R465) -/

theorem modMbox_high (s : State) {k : Nat} (hk : 16 ≤ k) (f : Mbox → Mbox) (n : Nat) (hn : n < 16) : (s.modMbox k f).mbox n = s.mbox n := by
  rw [State.modMbox_mbox, if_neg (by omega)]

/-- A completion message stands in one of the mailboxes 16 to 23, or waits. -/
theorem completionMessage_eq (s : State) (tag : BitVec 16) (st : Status) (value : Nat) : ∃ bs y x,
    completionMessage s tag st value = { s with mboxes := bs, sys := y, cxl := x } ∧ ∀ n, n < 16 → sget Mbox.fresh bs n = s.mbox n := by
  unfold completionMessage
  split
  · exact ⟨_, _, _, rfl, fun _ _ => rfl⟩
  · next i _ =>
    have hlow (u : State) (f : Mbox → Mbox) := modMbox_high u (Nat.le_add_right 16 i) f
    dsimp only
    split
    · exact ⟨_, _, _, rfl, fun n hn => (hlow (s.modMbox (16 + i) _) _ n hn).trans (hlow s _ n hn)⟩
    · exact ⟨_, _, _, rfl, hlow s _⟩

/-- The completion of accepted work leaves the mailboxes in which commands come, and all that the work was done on. -/
theorem finish_eq (s : State) (via : Via) (cmd ctx : BitVec 16) (st : Status) (value : Nat) (data : List Byte) : ∃ rd bs y x e,
    finish s via cmd ctx st value data = { s with readData := rd, mboxes := bs, sys := y, cxl := x, err := e } ∧
      ∀ n, n < 16 → sget Mbox.fresh bs n = s.mbox n := by
  cases via
  case mailbox n tag =>
    obtain ⟨bs, y, x, heq, hlow⟩ := completionMessage_eq s tag st value
    exact ⟨_, bs, y, x, _, heq, hlow⟩
  case queue vf q htag =>
    obtain ⟨_, _, heq⟩ := complete_errOnly s vf q { Completion.of htag cmd ctx st with value := BitVec.ofNat 32 value, data := data }
    exact ⟨_, _, _, _, _, heq, fun _ _ => rfl⟩
  all_goals exact ⟨_, _, _, _, _, rfl, fun _ _ => rfl⟩

/-! ### RELEASE (R333) -/

/-- From `s` to `t` no mailbox in which operator commands come changes. -/
def KeepsBoxes (s t : State) : Prop := ∀ n, n < 16 → t.mbox n = s.mbox n

namespace KeepsBoxes

theorem of_eq {s t : State} (h : t.mboxes = s.mboxes) : KeepsBoxes s t := fun n _ => by simp only [State.mbox, h]

theorem refl (s : State) : KeepsBoxes s s := of_eq rfl

theorem trans {s t u : State} (h : KeepsBoxes s t) (h' : KeepsBoxes t u) : KeepsBoxes s u := fun n hn => (h' n hn).trans (h n hn)

theorem ite {s t u : State} {b : Prop} [Decidable b] (ht : KeepsBoxes s t) (hu : KeepsBoxes s u) : KeepsBoxes s (if b then t else u) := by
  split
  · exact ht
  · exact hu

theorem foldl {α : Type} {f : State → α → State} (hf : ∀ s a, KeepsBoxes s (f s a)) (l : List α) (s : State) : KeepsBoxes s (l.foldl f s) :=
  List.foldlRecOn (motive := fun u : State => KeepsBoxes s u) l f (refl s) fun u h a _ => h.trans (hf u a)

theorem modCore (s : State) (c : Nat) (f : Core → Core) : KeepsBoxes s (s.modCore c f) := of_eq rfl
theorem modPart (s : State) (p : Nat) (f : Part → Part) : KeepsBoxes s (s.modPart p f) := of_eq rfl
theorem setPage (s : State) (g : Nat) (v : PageE) : KeepsBoxes s (s.setPage g v) := of_eq rfl

theorem givesBack {s t : State} (h : GivesBack s t) : KeepsBoxes s t := of_eq h.mboxes

theorem finish (s : State) (via : Via) (cmd ctx : BitVec 16) (st : Status) (value : Nat) (data : List Byte) :
    KeepsBoxes s (finish s via cmd ctx st value data) := by
  obtain ⟨_, _, _, _, _, heq, hlow⟩ := finish_eq s via cmd ctx st value data
  rw [heq]
  exact hlow

/-! Transfers and jobs (R213) -/

theorem landWrite (s : State) (w : Write) : KeepsBoxes s (landWrite s w) := by
  have happly : KeepsBoxes s (applyWrite s w) := by
    unfold applyWrite
    split
    · exact of_eq rfl
    · exact of_eq rfl
  unfold Machine.landWrite
  split
  · exact ite (refl s) happly
  · exact happly

theorem chvFault (s : State) (c : Nat) (op : EngineOp) (st : Status) : KeepsBoxes s (chvFault s c op st) := by
  unfold Machine.chvFault
  dsimp only
  split
  · exact refl s
  · exact of_eq rfl

theorem cutTransfer (s : State) (c : Nat) (op : EngineOp) (l : Launched) : KeepsBoxes s (cutTransfer s c op l) := by
  unfold Machine.cutTransfer
  dsimp only
  refine .trans ?_ (chvFault _ _ _ _)
  refine .trans ?_ (foldl (fun u (d : SlotDone) => modCore u d.core _) _ _)
  refine .trans ?_ (foldl (fun u g => ite (refl u) (setPage u g _)) _ _)
  exact .trans (t := (draw s).2) (of_eq rfl) (foldl landWrite _ _)

theorem cutPart (s : State) (p : Nat) : KeepsBoxes s (cutPart s p) := by
  refine foldl (fun u c => foldl (fun u e => ?_) _ u) _ s
  split
  · exact ite (refl u) (cutTransfer u _ _ _)
  · exact refl u

theorem endJobNow (s : State) (p : Nat) (img : ImgState) (st : Status) (seq : SeqState) : KeepsBoxes s (endJobNow s p img st seq) := by
  unfold Machine.endJobNow
  split
  · exact refl s
  · refine .trans (cutPart s p) (.trans ?_ (modPart _ _ _))
    exact .trans (foldl (fun u c => modCore u c _) _ _) (foldl (fun u c => modCore u c _) _ _)

theorem abandonCkpt (s : State) (p : Nat) (cause : Status) : KeepsBoxes s (abandonCkpt s p cause) := by
  unfold Machine.abandonCkpt
  exact ite (refl s) (.trans (foldl (fun u g => setPage u g _) _ s) (modPart _ _ _))

theorem stopJob (s : State) (p : Nat) (st : Status) : KeepsBoxes s (stopJob s p st) := by
  have hwork : KeepsBoxes s (match (s.part p).running with | none => s | some i => endWork s p i st) := by
    split
    · exact refl s
    · exact givesBack (.endWork _ _ _ _)
  exact hwork.trans ((abandonCkpt _ _ _).trans (endJobNow _ _ _ _ _))

/-! Loads and work of contexts (R212, R311, R480) -/

theorem putReply {s : State} (h : PagesOk s) (g : Nat) (bs : List Byte) : KeepsBoxes s (putReply s g bs) := by
  unfold Machine.putReply
  refine ite ?_ (refl s)
  rw [onPages_of_ok _ fun x _ => h x]
  exact of_eq rfl

/-- What a load's window has written is given back at its end (R311): mailboxes stay, and page entries still agree. -/
theorem clearLoad {s : State} (h : PagesOk s) (info : ImgInfo) (gs : List Nat) :
    KeepsBoxes s (freePages (clearRanges s info) gs) ∧ PagesOk (freePages (clearRanges s info) gs) := by
  have hcleared : KeepsBoxes s (clearRanges s info) ∧ PagesOk (clearRanges s info) := by
    obtain ⟨_, hcores⟩ := clearRanges_eq s info
    rw [hcores]
    exact ⟨of_eq rfl, h⟩
  refine ⟨hcleared.1.trans (givesBack (.freePages _ gs)), fun g => ?_⟩
  rw [freePages_page]
  split
  · exact Paired.of_ok _
  · exact hcleared.2 g

theorem endLoad {s : State} {p : Nat} (h : LoadEnds s p) (st : Status) : KeepsBoxes s (endLoad s p st) := by
  unfold Machine.endLoad
  split
  · exact refl s
  · next l hl =>
    have hpages : PagesOk s := h.resolve_left (by simp [hl])
    extract_lets base ended
    have hbase : KeepsBoxes s base ∧ PagesOk base := by
      by_cases hw : l.written = true
      · rw [show base = freePages (clearRanges s l.res.info) _ from if_pos hw]
        exact clearLoad hpages _ _
      · rw [show base = s from if_neg hw]
        exact ⟨refl s, hpages⟩
    have hended : PagesOk ended := hbase.2
    exact (hbase.1.trans (modPart _ _ _)).trans ((putReply hended _ _).trans (finish _ _ _ _ _ _ _))

theorem endCtxWork (s : State) (p : Nat) (st : Status) : KeepsBoxes s (endCtxWork s p st) := by
  unfold Machine.endCtxWork
  dsimp only
  refine .trans (foldl (fun u e => ?_) _ _) (foldl (fun u c => ?_) _ _)
  · exact .trans (.trans (t := freePages u _) (givesBack (.freePages _ _)) (of_eq rfl)) (finish _ _ _ _ _ _ _)
  · refine .trans ?_ (of_eq rfl)
    refine .trans (foldl (fun v e => ?_) _ _) (foldl (fun v e => finish _ _ _ _ _ _ _) _ _)
    exact .trans (givesBack (.freePages _ _)) (finish _ _ _ _ _ _ _)

end KeepsBoxes

/-- What RELEASE does before it answers: the load and the work of contexts end, the job ends or is marked to, and where none runs its requests
end too. -/
def releaseBegun (s : State) (p : Nat) : State :=
  let q := s.part p
  let s := endCtxWork (endLoad s p St.disabled) p St.disabled
  let s := if q.saving || allAtDstep s p then stopJob s p St.disabled else markStop s p St.disabled
  if (s.part p).running.isNone then endTrain (endReqs s p St.disabled) p St.disabled else s

theorem keepsBoxes_releaseBegun {s : State} {p : Nat} (h : LoadEnds s p) : KeepsBoxes s (releaseBegun s p) := by
  unfold releaseBegun
  extract_lets q ended stopped
  have hended : KeepsBoxes s ended := (KeepsBoxes.endLoad h _).trans (.endCtxWork _ _ _)
  have hstopped : KeepsBoxes ended stopped := .ite (.stopJob _ _ _) (.modPart _ _ _)
  exact (hended.trans hstopped).trans (.ite (.givesBack ((GivesBack.endReqs _ _ _).trans (.endTrain _ _ _))) (.refl _))

/-- RELEASE of a created partition, in a mailbox of PF0. -/
theorem releaseCmd_of_created {s : State} {n : MboxN} {p : Nat} (tag : BitVec 16) (hready : Ready s) (hn : n.val < 16)
    (hst : (s.part p).st = 1) :
    releaseCmd s (.mailbox n tag) p = (accept (releaseBegun s p) (.mailbox n tag)).modPart p fun x =>
      { x with st := 3, releasing := some (.mailbox n tag), releaseFrom := (releaseBegun s p).gov.now, yield_ := none } := by
  have hpf0 : Via.isPf0 (.mailbox n tag) = true := Bool.or_eq_true_iff.mpr (.inl (decide_eq_true hn))
  have hbox : boxAccepts (.mailbox n tag) 2 = true := if_pos hn
  have hfree : ¬((s.part p).st = 2 ∨ (s.part p).st = 3) := by rw [hst]; decide
  have hcreated : ¬(s.part p).st = 0 := by rw [hst]; decide
  unfold releaseCmd
  rw [hpf0, permitted_of_ready hready hbox, if_neg hfree, if_neg hcreated]
  rfl

theorem ack_of_waits {s : State} {n : Nat} (h : Waits s n) (st : Status) (value : BitVec 24) :
    (s.mbox n).ack st value = { s.mbox n with pending := false, done := true, status := st, value := value } := by
  obtain ⟨hpending, htime⟩ := h
  simp [Mbox.ack, hpending, htime]

/-! ### The end of a release (R333) -/

/-- An entry that differs from the default is listed. -/
theorem mem_keys_of_sget_ne {α : Type} {d : α} {m : SMap α} {n : Nat} (h : sget d m n ≠ d) : n ∈ m.map (·.1) := by
  induction m with
  | nil => exact absurd rfl h
  | cons e rest ih =>
    obtain ⟨k, v⟩ := e
    by_cases hk : k = n
    · simp [hk]
    · rw [sget, if_neg hk] at h
      exact List.mem_cons_of_mem _ (ih h)

theorem mem_ownedPages {s : State} {p g : Nat} : g ∈ ownedPages s p ↔ ownerOf (s.page g).v = some p := by
  simp only [ownedPages, usedPages, List.mem_filter, beq_iff_eq, and_iff_right_iff_imp]
  intro howner
  refine mem_keys_of_sget_ne (d := PageE.free) fun hfree => ?_
  have hnone : ownerOf PageE.free.v = none := by decide
  rw [State.page, hfree, hnone] at howner
  contradiction

/-- Pages of a partition, of which some may have been given back before, are FREE with zeros over them once all that it still owns are
given back. -/
theorem freePages_owned {s t : State} {p g : Nat} (h : GivesBack s t) (hg : g ∈ ownedPages s p) :
    attrOf ((freePages t (ownedPages t p)).page g).v = .free ∧
      ∀ i, i < 65536 → bget (freePages t (ownedPages t p)).stack (g * 65536 + i) = 0 := by
  have hpage (i : Nat) (hi : i < 65536) : (g * 65536 + i) / 65536 = g := by omega
  by_cases howned : g ∈ ownedPages t p
  · refine ⟨?_, fun i hi => ?_⟩
    · rw [freePages_page, if_pos howned]
      decide
    · rw [bget_freePages, if_pos (by rwa [hpage i hi])]
  · have hfree := (h.page g).resolve_left fun hsame => howned (mem_ownedPages.mpr (hsame ▸ mem_ownedPages.mp hg))
    refine ⟨?_, fun i hi => ?_⟩
    · rw [freePages_page, if_neg howned]
      exact hfree.1
    · rw [bget_freePages, if_neg (by rwa [hpage i hi])]
      exact hfree.2 i hi

theorem zeroGroup_eq (s : State) (g : Nat) : ∃ cim scales par spar macros, zeroGroup s g = { s with
    cim := cim, scales := scales, parity := par, scaleParity := spar, macros := macros
    scratch := bzero s.scratch (80 * g * 2 ^ 21) (80 * (g + 1) * 2 ^ 21) } := ⟨_, _, _, _, _, rfl⟩

theorem foldl_zeroGroup_eq (gs : List Nat) (s : State) : ∃ cim scales par spar macros scratch, gs.foldl zeroGroup s = { s with
    cim := cim, scales := scales, parity := par, scaleParity := spar, macros := macros, scratch := scratch } := by
  refine List.foldlRecOn (motive := fun u : State => ∃ cim scales par spar macros scratch, u = { s with
    cim := cim, scales := scales, parity := par, scaleParity := spar, macros := macros, scratch := scratch }) gs _ ⟨_, _, _, _, _, _, rfl⟩ ?_
  rintro u ⟨_, _, _, _, _, _, rfl⟩ g -
  exact ⟨_, _, _, _, _, _, rfl⟩

theorem getLsbD_clearBit (m : BitVec 24) (k i : Nat) (hi : i < 24) :
    (m &&& ~~~(1#24 <<< k)).getLsbD i = (m.getLsbD i && decide (i ≠ k)) := by
  by_cases hik : i = k
  · subst hik
    simp [hi]
  · rcases Nat.lt_or_gt_of_ne hik with hlt | hgt
    · simp [hi, hik, hlt]
    · have hpos : i - k ≠ 0 := by omega
      simp [hi, hik, hpos, Nat.not_lt.mpr (Nat.le_of_lt hgt)]

/-- Groups whose power domains are switched off are off. -/
theorem getLsbD_clearGroups (gs : List Nat) (w : BitVec 24) (g : Nat) (hg : g < 16) :
    (gs.foldl (fun m g => m &&& ~~~(1#24 <<< (2 + g))) w).getLsbD (2 + g) = (w.getLsbD (2 + g) && decide (g ∉ gs)) := by
  induction gs generalizing w with
  | nil => simp
  | cons x gs ih =>
    rw [List.foldl_cons, ih, getLsbD_clearBit _ _ _ (by omega), Bool.and_assoc]
    by_cases hx : g = x
    · simp [hx]
    · simp [hx]

/-- The module at the end of a release, before the partition's pages are given back: its requests have ended, and its ways hold nothing. -/
def releaseIdle (s : State) (p : Nat) : State :=
  dropLines (endTrain (endReqs (nextReleases (s.advance (releaseEnd s p)) p) p St.disabled) p St.disabled) (s.part p).live.ways.v

/-- Does a snapshot of this handle stand on one of the pages? -/
def snapOver (s : State) (own : List Nat) (h : W32) : Bool :=
  s.snaps.any fun x => x.handle == h && (x.pages ++ x.manifest).any fun g => own.contains g

/-- Snapshots over the pages are gone, and no context names one. -/
def dropSnapsOver (s : State) (own : List Nat) : State :=
  { s with
    snaps := s.snaps.filter fun x => !snapOver s own x.handle
    ctxs := s.ctxs.map fun e => (e.1, { e.2 with serve := if snapOver s own e.2.serve then 0 else e.2.serve,
                                                 stateSnap := if snapOver s own e.2.stateSnap then 0 else e.2.stateSnap }) }

/-- The pages of the partition given back. -/
def releaseFreed (s : State) (p : Nat) : State :=
  freePages (dropSnapsOver (releaseIdle s p) (ownedPages (releaseIdle s p) p)) (ownedPages (releaseIdle s p) p)

/-- Areas, groups, cores, sets and registers of a partition given up. -/
def releaseCleared (s : State) (p : Nat) (groups : List Nat) : State :=
  let s := s.modCxl fun x => { x with areas := x.areas.filter fun e => !(e.2.valid && e.2.part.toNat == p) }
  let s := modCores (groups.foldl zeroGroup s) p Core.cleared
  let s := groups.foldl (fun s g => s.modGroup g fun x => { GroupSt.fresh with railOff := x.railOff }) s
  let s := s.modPwr fun w => { w with on := groups.foldl (fun m g => m &&& ~~~(1#24 <<< (2 + g))) w.on }
  let s := (s.setPart p Part.fresh).modGovPart p fun _ => GovPart.fresh
  dropLatches (s.modMem fun m => { m with achFail := sput (0, 0) m.achFail p (0, 0) }) p

theorem releaseComplete_of_ready {s : State} {p : Nat} {via : Via} (hrel : (s.part p).releasing = some via)
    (hrun : (s.part p).running = none) (hwaits : releaseWaits s p = false) :
    releaseComplete s p = finish (releaseCleared (releaseFreed s p) p (maskList 16 (s.part p).live.groups.v)) via 2 0 St.ok 0 [] := by
  unfold releaseComplete
  extract_lets q
  rw [show q.releasing = some via from hrel]
  exact if_neg (by simp [q, hrun, hwaits])

/-- The end of a release does nothing while its zeroisation waits for current. -/
theorem releaseComplete_of_waits {s : State} {p : Nat} (hwaits : releaseWaits s p = true) : releaseComplete s p = s := by
  unfold releaseComplete
  extract_lets q
  split
  · rfl
  · exact if_pos (by simp [hwaits])

theorem givesBack_releaseIdle (s : State) (p : Nat) : GivesBack s (releaseIdle s p) := by
  have hnext (u : State) : GivesBack u (nextReleases u p) := by
    refine .foldl (fun v q => ?_) _ u
    exact .ite (.modPart v q rfl) (.refl v)
  have htimed : GivesBack s (s.advance (releaseEnd s p)) := .of_eq rfl rfl rfl rfl
  have hlines (u : State) (ways : BitVec 32) : GivesBack u (dropLines u ways) := .of_eq rfl rfl rfl rfl
  exact ((htimed.trans (hnext _)).trans ((GivesBack.endReqs _ _ _).trans (.endTrain _ _ _))).trans (hlines _ _)

/-- The pages that the partition owned before the end of its release are FREE, with zeros over them. -/
theorem releaseFreed_owned {s : State} {p g : Nat} (hg : g ∈ ownedPages s p) :
    attrOf ((releaseFreed s p).page g).v = .free ∧ ∀ i, i < 65536 → bget (releaseFreed s p).stack (g * 65536 + i) = 0 := by
  have howned (u : State) (own : List Nat) : ownedPages (dropSnapsOver u own) p = ownedPages u p := rfl
  have hdropped (u : State) (own : List Nat) : GivesBack u (dropSnapsOver u own) := .of_eq rfl rfl rfl rfl
  have hfree := freePages_owned ((givesBack_releaseIdle s p).trans (hdropped _ (ownedPages (releaseIdle s p) p))) hg
  rwa [howned] at hfree

theorem releaseCleared_effect (s : State) (p : Nat) (groups : List Nat) :
    (releaseCleared s p groups).part p = Part.fresh ∧ (releaseCleared s p groups).pages = s.pages ∧
      (releaseCleared s p groups).stack = s.stack ∧
      (releaseCleared s p groups).pwr.on = groups.foldl (fun m g => m &&& ~~~(1#24 <<< (2 + g))) s.pwr.on := by
  unfold releaseCleared
  extract_lets shut zeroed fresh idle off
  have hzeroed : zeroed.pages = s.pages ∧ zeroed.stack = s.stack ∧ zeroed.pwr = s.pwr := by
    obtain ⟨_, _, _, _, _, _, hgroups⟩ := foldl_zeroGroup_eq groups shut
    obtain ⟨_, hcores⟩ := foldl_modCore_eq (fun _ => Core.cleared) (coresOf (groups.foldl zeroGroup shut) p) (groups.foldl zeroGroup shut)
    unfold zeroed modCores
    rw [hcores, hgroups]
    exact ⟨rfl, rfl, rfl⟩
  have hidle : idle.pages = zeroed.pages ∧ idle.stack = zeroed.stack ∧ idle.pwr = zeroed.pwr := by
    obtain ⟨_, hgroups⟩ := foldl_modGroup_eq (fun x => { GroupSt.fresh with railOff := x.railOff }) groups zeroed
    rw [show idle = _ from hgroups]
    exact ⟨rfl, rfl, rfl⟩
  unfold dropLatches
  refine ⟨?_, ?_, ?_, ?_⟩
  · rw [State.modSys_part, State.modMem_part, State.modGovPart_part, State.setPart_part, if_pos rfl]
  · rw [State.modSys_pages, State.modMem_pages, State.modGovPart_pages, State.setPart_pages, State.modPwr_pages, hidle.1, hzeroed.1]
  · rw [State.modSys_stack, State.modMem_stack, State.modGovPart_stack, State.setPart_stack, State.modPwr_stack, hidle.2.1, hzeroed.2.1]
  · rw [State.modSys_pwr, State.modMem_pwr, State.modGovPart_pwr, State.setPart_pwr, State.modPwr_pwr, hidle.2.2, hzeroed.2.2]

/-- What is left of a partition once its release has ended. -/
theorem releaseComplete_effect {s : State} {p : Nat} {via : Via} (hrel : (s.part p).releasing = some via)
    (hrun : (s.part p).running = none) (hwaits : releaseWaits s p = false) :
    (releaseComplete s p).part p = Part.fresh ∧ (releaseComplete s p).pages = (releaseFreed s p).pages ∧
      (releaseComplete s p).stack = (releaseFreed s p).stack ∧
      ∀ g, g < 16 → (s.part p).live.groups.v.getLsbD g = true → (releaseComplete s p).pwr.on.getLsbD (2 + g) = false := by
  obtain ⟨hpart, hpages, hstack, hpwr⟩ := releaseCleared_effect (releaseFreed s p) p (maskList 16 (s.part p).live.groups.v)
  obtain ⟨_, _, _, _, _, heq, -⟩ := finish_eq (releaseCleared (releaseFreed s p) p (maskList 16 (s.part p).live.groups.v)) via 2 0 St.ok 0 []
  rw [releaseComplete_of_ready hrel hrun hwaits, heq]
  refine ⟨hpart, hpages, hstack, fun g hg hin => ?_⟩
  rw [hpwr, getLsbD_clearGroups _ _ g hg]
  simp [(mem_maskList _ hg).mpr hin]

/-! ### Removed groups (R328, R333) -/

/-- A removed group whose zeroisation has ended. -/
theorem groupZeroised_eq {s : State} {g : Nat} (h : (s.group g).zeroing = true) :
    groupZeroised s g = ((modList (zeroGroup s g) ((List.range 80).map (80 * g + ·)) Core.cleared).modGroup g fun x =>
      { GroupSt.fresh with railOff := x.railOff }).modPwr fun w => { w with on := w.on &&& ~~~(1#24 <<< (2 + g)) } := by
  unfold groupZeroised
  rw [if_neg (by simp [h])]
  rfl

theorem mem_coresOfGroup {g c : Nat} (hlo : 80 * g ≤ c) (hhi : c < 80 * (g + 1)) : c ∈ (List.range 80).map (80 * g + ·) :=
  List.mem_map.mpr ⟨c - 80 * g, List.mem_range.mpr (by omega), by omega⟩

/-- The group is free and off, its scratchpads read zero, its cores are cleared, and the stacks stay. -/
theorem groupZeroised_effect {s : State} {g : GroupN} (h : (s.group g).zeroing = true) :
    ((groupZeroised s g).group g).zeroing = false ∧ (groupZeroised s g).pwr.on.getLsbD (2 + g) = false ∧
      (∀ c a, 80 * g.val ≤ c → c < 80 * (g.val + 1) → a < 2 ^ 21 → bget (groupZeroised s g).scratch (c * 2 ^ 21 + a) = 0) ∧
      (groupZeroised s g).stack = s.stack ∧
      ∀ c, 80 * g.val ≤ c → c < 80 * (g.val + 1) → (groupZeroised s g).core c = (s.core c).cleared := by
  obtain ⟨_, _, _, _, _, hzero⟩ := zeroGroup_eq s g
  obtain ⟨_, hcores⟩ := modList_eq (zeroGroup s g) ((List.range 80).map (80 * g.val + ·)) Core.cleared
  rw [groupZeroised_eq h]
  refine ⟨?_, ?_, fun c a hlo hhi ha => ?_, ?_, fun c hlo hhi => ?_⟩
  · rw [State.modPwr_group, State.modGroup_group, if_pos rfl]
    rfl
  · rw [State.modPwr_pwr, State.modGroup_pwr, hcores, hzero]
    exact (getLsbD_clearBit s.pwr.on (2 + g) (2 + g) (by omega)).trans (by simp)
  · rw [State.modPwr_scratch, State.modGroup_scratch, hcores, hzero]
    refine (bget_bzero _ _ _ _).trans (if_pos ?_)
    omega
  · rw [State.modPwr_stack, State.modGroup_stack, hcores, hzero]
  · rw [State.modPwr_core, State.modGroup_core, modList_core_of_mem (f := Core.cleared) (mem_coresOfGroup hlo hhi) (fun _ => rfl), hzero]
    rfl

end Sys2Proof.Machine
end

section
/-! PROOFS. O19: releases and zeroised groups and ways (R328, R333). -/

namespace Sys2Proof.Proofs
open Sys2Proof Sys2Proof.Machine

/-- Settles O19: `keepsBoxes_releaseBegun` for the answer of RELEASE; `releaseFreed_owned` and `releaseComplete_effect` for its end; the
zeroised group is `groupZeroised_effect`. -/
theorem releasedResourcesAreZero : Obligations.ReleasedResourcesAreZero := by
  unfold Obligations.ReleasedResourcesAreZero
  refine ⟨fun s n tag p hready hn hbox hst hload => ?_, fun s p hwaits => ?_, fun s p via hrel hrun hwaits => ?_, fun s p => ?_,
    fun s g hzeroing => ?_⟩
  · refine ⟨_, congrArg Host.Outcome.next (releaseCmd_of_created tag hready hn hst), ?_, ?_, ?_⟩
    · rw [State.modPart_part, if_pos rfl]
    · rw [State.modPart_part, if_pos rfl]
    · have hkept := keepsBoxes_releaseBegun hload n hn
      have hack : (accept (releaseBegun s p) (.mailbox n tag)).mbox n = (s.mbox n).ack St.accepted (BitVec.ofNat 24 tag.toNat) := by
        unfold accept
        rw [State.modMbox_mbox, if_pos rfl, hkept]
      exact hack.trans (ack_of_waits hbox _ _)
  · exact congrArg Host.Outcome.next (releaseComplete_of_waits hwaits)
  · obtain ⟨hpart, hpages, hstack, hpwr⟩ := releaseComplete_effect hrel hrun hwaits
    refine ⟨_, rfl, hpart, fun g hg => ?_, fun g hg => ?_, hpwr⟩
    · unfold State.page
      rw [hpages]
      exact (releaseFreed_owned hg).1
    · rw [hstack]
      exact (releaseFreed_owned hg).2
  · refine ⟨_, rfl, rfl, ?_, ?_, fun q hq => ?_⟩
    · rw [State.modPart_part, if_pos rfl]
    · rw [State.modPart_part, if_pos rfl]
    · rw [State.modPart_part, if_neg hq]
  · exact ⟨_, rfl, groupZeroised_effect hzeroing⟩

end Sys2Proof.Proofs
end

section
/-! SUPPORT. Commands of tenant queues: who is answered, and what an answer changes and reports (R354, R431, R481, R484). -/

namespace Sys2Proof.Machine

/-! ### Answers on a queue pair (R481, R484) -/

/-- Where the host maps every page of a VF, no translation of its addresses fails. -/
theorem atsFails_of_mapped {s : State} {vf : Nat} (h : s.cxl.unmapped.all (fun e => e.1 != vf) = true) (addr : BitVec 64) :
    s.atsFails vf addr = false := by
  simp only [State.atsFails, List.contains_eq_mem, decide_eq_false_iff_not]
  exact fun hmem => by simpa using List.all_eq_true.mp h _ hmem

/-- A completion as a pair with a key takes it: data beyond the 80 bytes of an entry goes into records (R483). -/
def Completion.counted (c : Completion) : Completion :=
  { c with total := if 80 < c.data.length then BitVec.ofNat 32 c.data.length else 0 }

theorem touchAts_eq (s : State) (vf : Nat) (addr : BitVec 64) : ∃ l, touchAts s vf addr = { s with cxl := { s.cxl with ats := l } } :=
  ⟨_, rfl⟩

/-- A completion on a pair that holds a key, of a VF whose addresses translate, changes the CXL block alone and reaches the pair with its
fields. -/
theorem complete_of_keyed {s : State} {vf q : Nat} (hkeyed : (s.qp vf q).keyed = true) (hmapped : ∀ addr, s.atsFails vf addr = false)
    (c : Completion) : ∃ x, complete s vf q c = { s with cxl := x } ∧
      State.qp { s with cxl := x } vf q = (s.qp vf q).push (vf * 32 + q) s.gov.now c.counted := by
  have hnone (l : List (BitVec 64)) : l.any (s.atsFails vf) = false := by simp [hmapped]
  obtain ⟨l, htouch⟩ := touchAts_eq s vf ((s.qp vf q).cqBase + 128 * (s.qp vf q).cqTail.setWidth 64)
  unfold complete
  simp only [hkeyed, hnone, Bool.and_false, if_true, Bool.false_eq_true, if_false, htouch]
  refine ⟨{ s.cxl with ats := l, qps := smod Qp.fresh s.cxl.qps (vf * 32 + q) fun p => p.push (vf * 32 + q) s.gov.now c.counted }, rfl, ?_⟩
  simp only [State.qp, sget_smod, if_true]

/-- An answer on a queue pair that serves its VF, given in a state whose queues and time are those of `s`: it changes the CXL block alone,
and the pair takes one completion with its fields. -/
theorem answer_queue {s u : State} {vf : VfN} {q : QpN} (h : Serves s vf q) (hcxl : u.cxl = s.cxl) (hnow : u.gov.now = s.gov.now)
    (htag : W32) (cmd ctx : BitVec 16) (st : Status) (value : Nat) (data : List Byte) :
    ∃ x, answer u (.queue vf q htag) cmd ctx st value data = { u with cxl := x } ∧
      Reported s { u with cxl := x } vf q htag cmd ctx st value data := by
  obtain ⟨_, hkeyed, _, hmapped⟩ := h
  have hqp : u.qp vf q = s.qp vf q := by simp only [State.qp, hcxl]
  have hats (addr : BitVec 64) : u.atsFails vf addr = false := atsFails_of_mapped (hcxl ▸ hmapped) addr
  obtain ⟨x, heq, hpush⟩ := complete_of_keyed (hqp ▸ hkeyed) hats
    { Completion.of htag cmd ctx st with value := BitVec.ofNat 32 value, data := data }
  rw [hqp, hnow] at hpush
  exact ⟨x, heq, _, hpush, rfl, rfl, rfl, rfl, rfl, rfl, rfl⟩

theorem ctx_congr {s t : State} (h : t.ctxs = s.ctxs) (c : Nat) : t.ctx c = s.ctx c := by simp only [State.ctx, h]

theorem ctxBecomes_of_setCtx {s t : State} {c : Nat} {x : Ctx} (h : t.ctxs = (s.setCtx c x).ctxs) : CtxBecomes s t c x := by
  intro k
  rw [ctx_congr h, State.setCtx_ctx]

/-- An answer after the contexts alone have changed: a report of `s`, in a state that keeps all but contexts and queues. -/
theorem ctxs_reported {s u : State} {vf : VfN} {q : QpN} (h : Serves s vf q) (hu : u = { s with ctxs := u.ctxs })
    (htag : W32) (cmd ctx : BitVec 16) (st : Status) (value : Nat) (data : List Byte) :
    ∃ t, answer u (.queue vf q htag) cmd ctx st value data = t ∧ t = { s with ctxs := t.ctxs, cxl := t.cxl } ∧ t.ctxs = u.ctxs ∧
      Reported s t vf q htag cmd ctx st value data := by
  obtain ⟨x, heq, hrep⟩ := answer_queue (u := u) h (by rw [hu]) (by rw [hu]) htag cmd ctx st value data
  refine ⟨_, heq, ?_, rfl, hrep⟩
  rw [hu]

theorem setCtx_reported {s : State} {vf : VfN} {q : QpN} (h : Serves s vf q) (c : Nat) (x : Ctx)
    (htag : W32) (cmd ctx : BitVec 16) (st : Status) (value : Nat) (data : List Byte) :
    ∃ t, answer (s.setCtx c x) (.queue vf q htag) cmd ctx st value data = t ∧ t = { s with ctxs := t.ctxs, cxl := t.cxl } ∧
      CtxBecomes s t c x ∧ Reported s t vf q htag cmd ctx st value data := by
  obtain ⟨t, hanswer, heq, hctxs, hrep⟩ := ctxs_reported (u := s.setCtx c x) h rfl htag cmd ctx st value data
  exact ⟨t, hanswer, heq, ctxBecomes_of_setCtx hctxs, hrep⟩

/-! ### Who is heard (R354, R431) -/

theorem tenantCmd_of_serves {s : State} {vf : VfN} {q : QpN} (h : Serves s vf q) (htag : W32) (cmd ctx : BitVec 16)
    (f : Nat → Nat → BitVec 16 → State) : tenantCmd s (.queue vf q htag) cmd ctx f = f vf q (tenantOf s vf).v := by
  obtain ⟨hon, hkeyed, htenant, _⟩ := h
  simp [tenantCmd, hon, hkeyed, htenant]

theorem Names.serves {s : State} {vf : VfN} {q : QpN} {c : BitVec 16} (h : Names s vf q c) : Serves s vf q := h.1

/-- A command that names a context goes on where the pair may name it; on a withdrawn context only CTX_QUERY and CTX_DELETE do (R371). -/
theorem ctxCmd_of_names {s : State} {vf : VfN} {q : QpN} {c cmd : BitVec 16} (h : Names s vf q c)
    (hstate : (s.ctx c.toNat).state ≠ 5 ∨ cmd = 0x0129 ∨ cmd = 0x012B) (htag : W32) (f : State) :
    ctxCmd s (.queue vf q htag) cmd c f = f := by
  obtain ⟨hserves, hlt, hname, hok, hdeleting⟩ := h
  have hheard : ¬((s.ctx c.toNat).state = 5 ∧ cmd ≠ 0x0129 ∧ cmd ≠ 0x012B) := by
    rintro ⟨hwithdrawn, hquery, hdelete⟩
    rcases hstate with h | h | h <;> contradiction
  unfold ctxCmd
  rw [tenantCmd_of_serves hserves]
  dsimp only
  rw [if_neg (by simp [hname, hlt]), if_neg (by simp [hok]), if_neg hdeleting, if_neg hheard]

end Sys2Proof.Machine
end

section
/-! SUPPORT. What the commands of a context do to it (R55, R56, R353, R354, R355, R438). -/

namespace Sys2Proof.Machine

/-! ### CTX_CREATE, CTX_BIND, CTX_SETKEY, CTX_REBASE (R354, R438) -/

section
variable {s : State} {vf : VfN} {q : QpN} (htag : W32)

/-- CTX_CREATE by a tenant that the partition serves, with room for one more context. -/
theorem ctxCreate_of_room {p : PartN} {kind : BitVec 2} {rank : BitVec 8} {proj : BitVec 7} (h : Serves s vf q)
    (hmask : (tenantRec s (tenantOf s vf).v.toNat).mask.ok = true) (hepoch : (s.part p).baseEpoch.ok = true)
    (hmine : (tenantRec s (tenantOf s vf).v.toNat).mask.v.getLsbD p = true) (hst : (s.part p).st = 1) (hbase : holdsBase (s.part p) = true)
    (hshape : shapeOk kind rank proj = true) (hroom : ctxRoom s (tenantOf s vf).v = true) (seed : Option (BitVec 64)) (stream : Option W32) :
    ctxCreate s (.queue vf q htag) p kind rank proj seed stream =
      answer (makeCtx s (tenantOf s vf).v (BitVec.ofNat 3 p) kind rank proj 1 (seed.getD 0) stream 0xFFFF 0xFFFF) (.queue vf q htag) 0x0120 0xFFFF
        St.ok (freeCtx s) [] := by
  unfold ctxCreate
  rw [tenantCmd_of_serves h]
  simp [hmask, hepoch, hmine, hst, hbase, hshape, hroom]

theorem ctxBind_of_tenant {c : BitVec 16} {w : BitVec 7} (h : Names s vf q c) (hstate : (s.ctx c.toNat).state ≠ 5)
    (htenant : (tenantOf s w.toNat).v = (s.ctx c.toNat).tenant.v) (qmask : W32) :
    ctxBind s (.queue vf q htag) c w qmask =
      answer (s.setCtx c.toNat { s.ctx c.toNat with vf := w, qmask := qmask, bound := true }) (.queue vf q htag) 0x0121 c St.ok 0 [] := by
  unfold ctxBind
  rw [ctxCmd_of_names h (.inl hstate), if_neg (not_not.mpr htenant)]
  rfl

/-- A module whose context `c` has a sealing key (R438). -/
def withSealKey (s : State) (c : Nat) (key : BitVec 256) : State :=
  s.modSage fun g => { g with ctxKeys := sput none g.ctxKeys (s.ctx c).keySlot.v.toNat (some key) }

theorem sealKey_withSealKey {s t : State} {c : Nat} {key : BitVec 256} (hsage : t.sage = (withSealKey s c key).sage) (hctxs : t.ctxs = s.ctxs) :
    sealKey t c = some key := by
  unfold sealKey
  rw [ctx_congr hctxs, hsage]
  exact sget_sput_same none s.sage.ctxKeys _ (some key)

theorem ctxSetkey_of_idle {c : BitVec 16} (h : Names s vf q c) (hstate : (s.ctx c.toNat).state ≠ 5) (himport : (s.ctx c.toNat).importing = [])
    (hexport : (s.ctx c.toNat).exporting = []) (harea : s.cxl.exports.any (fun e => e.2.1 == c) = false) (key : BitVec 256) :
    ctxSetkey s (.queue vf q htag) c key = answer (withSealKey s c.toNat key) (.queue vf q htag) 0x0126 c St.ok 0 [] := by
  unfold ctxSetkey
  rw [ctxCmd_of_names h (.inl hstate)]
  simp [himport, hexport, harea, withSealKey]

theorem ctxRebase_of_stale {c : BitVec 16} (h : Names s vf q c) (hstale : (s.ctx c.toNat).state = 3) :
    ctxRebase s (.queue vf q htag) c =
      answer (s.setCtx c.toNat { s.ctx c.toNat with state := 4 }) (.queue vf q htag) 0x012A c St.ok 0 [] := by
  unfold ctxRebase
  rw [ctxCmd_of_names h (.inl (by rw [hstale]; decide)), if_neg (not_not.mpr hstale)]
  rfl

end

/-! ### CTX_SEED (R56) -/

/-- A context of which a tile boundary of partition `p` in tick `b` sees the seed written before it. -/
def Ctx.seeded (x : Ctx) (p b : Nat) : Ctx :=
  match x.newSeed with
  | some (sd, st, t) => if x.part.toNat = p ∧ t ≤ b then { x with seed := sd, stream := st, newSeed := none } else x
  | none => x

/-- A boundary acts on each context by itself. -/
theorem applySeeds_ctx (s : State) (p b c : Nat) : (applySeeds s p b).ctx c = (s.ctx c).seeded p b := by
  have hsget (m : SMap Ctx) : sget Ctx.fresh (m.map fun e => (e.1, e.2.seeded p b)) c = (sget Ctx.fresh m c).seeded p b := by
    induction m with
    | nil => rfl
    | cons e rest ih =>
      simp only [List.map_cons, sget, ih]
      split <;> rfl
  have hmap : (applySeeds s p b).ctxs = s.ctxs.map fun e => (e.1, e.2.seeded p b) := by
    refine List.map_congr_left fun e _ => ?_
    unfold Ctx.seeded
    rcases e.2.newSeed with _ | ⟨sd, st, t⟩
    · rfl
    · dsimp only
      split <;> rfl
  unfold State.ctx
  rw [hmap, hsget]

/-- A module whose context `c` has taken a new seed, which a boundary in the present tick sees. -/
def withNewSeed (s : State) (c : Nat) (seed : BitVec 64) (stream : W32) : State :=
  s.setCtx c { s.ctx c with newSeed := some (seed, stream, s.tick + 1) }

/-- A module in which such a boundary of the context's partition has put the new seed in force. -/
def seededNow (s : State) (c : Nat) (seed : BitVec 64) (stream : W32) : State :=
  applySeeds (withNewSeed s c seed stream) (s.ctx c).part.toNat (s.tick + 1)

theorem seededNow_eq (s : State) (c : Nat) (seed : BitVec 64) (stream : W32) :
    seededNow s c seed stream = { s with ctxs := (seededNow s c seed stream).ctxs } := rfl

theorem seededNow_ctx (s : State) (c : Nat) (seed : BitVec 64) (stream : W32) :
    (seededNow s c seed stream).ctx c = { s.ctx c with seed := seed, stream := stream, newSeed := none } := by
  unfold seededNow withNewSeed
  rw [applySeeds_ctx, State.setCtx_ctx, if_pos rfl]
  exact if_pos ⟨rfl, Nat.le_refl _⟩

theorem ctxSeed_of_names {s : State} {vf : VfN} {q : QpN} {c : BitVec 16} (h : Names s vf q c) (hstate : (s.ctx c.toNat).state ≠ 5) (htag : W32)
    (seed : BitVec 64) (stream : W32) :
    ctxSeed s (.queue vf q htag) c seed stream =
      answer (if (s.part (s.ctx c.toNat).part.toNat).running.isSome then withNewSeed s c.toNat seed stream else seededNow s c.toNat seed stream)
        (.queue vf q htag) 0x0125 c St.ok 0 [] := by
  have hpart : ((s.modCtx c.toNat fun x => { x with newSeed := some (seed, stream, s.tick + 1) }).ctx c.toNat).part = (s.ctx c.toNat).part := by
    rw [State.modCtx_ctx, if_pos rfl]
  unfold ctxSeed
  rw [ctxCmd_of_names h (.inl hstate)]
  simp only [hpart]
  rfl

/-! ### Snapshots given up (R355) -/

/-- From `s` to `t` snapshots are given up and swept: their records, pages and lines change. -/
def SnapsOnly (s t : State) : Prop := ∃ sn ls cb ps m, t = { s with snaps := sn, lines := ls, cacheBytes := cb, pages := ps, stack := m }

theorem SnapsOnly.refl (s : State) : SnapsOnly s s := ⟨_, _, _, _, _, rfl⟩

theorem sweepSnaps_snapsOnly (s : State) : SnapsOnly s (sweepSnaps s) := by
  unfold sweepSnaps
  dsimp only
  obtain ⟨_, _, h⟩ := freePages_eq (dropPageLines s _) _
  rw [h]
  exact ⟨_, _, _, _, _, rfl⟩

theorem sweep_dropSnap_snapsOnly (s : State) (h : W32) : SnapsOnly s (sweepSnaps (dropSnap s h)) := by
  obtain ⟨sn, ls, cb, ps, m, heq⟩ := sweepSnaps_snapsOnly (dropSnap s h)
  exact ⟨sn, ls, cb, ps, m, heq⟩

theorem unhold_snapsOnly (s : State) (c : Nat) (old : W32) : SnapsOnly s (unhold s c old) := by
  unfold unhold
  split
  · exact .refl s
  · exact sweep_dropSnap_snapsOnly s old

/-- An answer after snapshots were given up: contexts stand as they did before it, and the report is one of `s`. -/
theorem SnapsOnly.reported {s u v : State} {vf : VfN} {q : QpN} (h : SnapsOnly u v) (hserves : Serves s vf q) (hcxl : u.cxl = s.cxl)
    (hnow : u.gov.now = s.gov.now) (htag : W32) (cmd ctx : BitVec 16) (st : Status) (value : Nat) (data : List Byte) :
    (answer v (.queue vf q htag) cmd ctx st value data).ctxs = u.ctxs ∧ (answer v (.queue vf q htag) cmd ctx st value data).snaps = v.snaps ∧
      Reported s (answer v (.queue vf q htag) cmd ctx st value data) vf q htag cmd ctx st value data := by
  obtain ⟨_, _, _, _, _, hv⟩ := h
  have hctxs : v.ctxs = u.ctxs := by rw [hv]
  have hqueues : v.cxl = s.cxl := by rw [hv, hcxl]
  have htime : v.gov.now = s.gov.now := by rw [hv, hnow]
  obtain ⟨x, heq, hrep⟩ := answer_queue hserves hqueues htime htag cmd ctx st value data
  rw [heq]
  exact ⟨hctxs, rfl, hrep⟩

/-- A snapshot after the owner of the one with handle `h` has given that up. -/
def Snapshot.dropped (h : W32) (x : Snapshot) : Snapshot := if x.handle == h then { x with ctx := 0xFFFF } else x

theorem Snapshot.dropped_handle (h : W32) (x : Snapshot) : (x.dropped h).handle = x.handle := by
  unfold dropped
  split <;> rfl

theorem Snapshot.dropped_ctx_of_eq {h : W32} {x : Snapshot} (hx : x.handle = h) : (x.dropped h).ctx = 0xFFFF := by
  simp [dropped, hx]

theorem Snapshot.dropped_of_ne {h : W32} {x : Snapshot} (hx : x.handle ≠ h) : x.dropped h = x := by
  simp [dropped, hx]

theorem mem_dropSnap {s : State} {h : W32} {y : Snapshot} :
    y ∈ (dropSnap s h).snaps ↔ ∃ z ∈ s.snaps, z.dropped h = y := List.mem_map

/-- What stands after a sweep stood before it. -/
theorem mem_of_mem_sweepSnaps {s : State} {y : Snapshot} (h : y ∈ (sweepSnaps s).snaps) : y ∈ s.snaps := by
  unfold sweepSnaps at h
  dsimp only at h
  obtain ⟨_, _, hfree⟩ := freePages_eq (dropPageLines s _) _
  rw [hfree] at h
  exact (List.mem_filter.mp h).1

/-- A snapshot whose handle none without owner has stays (R355). -/
theorem mem_sweepSnaps_of_owned {s : State} {y : Snapshot} (hy : y ∈ s.snaps) (howned : ∀ z ∈ s.snaps, z.handle = y.handle → z.ctx ≠ 0xFFFF) :
    y ∈ (sweepSnaps s).snaps := by
  unfold sweepSnaps
  dsimp only
  obtain ⟨_, _, hfree⟩ := freePages_eq (dropPageLines s _) _
  rw [hfree]
  refine List.mem_filter.mpr ⟨hy, ?_⟩
  simp only [Bool.not_eq_true', List.contains_eq_mem, decide_eq_false_iff_not, List.mem_map, List.mem_filter, not_exists, not_and]
  rintro z ⟨hz, hgone⟩ hsame
  exact howned z hz hsame (by simpa using (Bool.and_eq_true_iff.mp hgone).1)

/-- A snapshot given up has no owner, and no other changes. -/
theorem sweep_dropSnap_snaps (s : State) (h : W32) :
    (∀ y ∈ (sweepSnaps (dropSnap s h)).snaps, y.handle = h → y.ctx = 0xFFFF) ∧
    ((s.snaps.map fun y => y.handle).Nodup → ∀ y ∈ s.snaps, y.handle ≠ h → y.ctx ≠ 0xFFFF → y ∈ (sweepSnaps (dropSnap s h)).snaps) := by
  refine ⟨fun y hy hhandle => ?_, fun hnodup y hy hother howned => ?_⟩
  · obtain ⟨z, _, rfl⟩ := mem_dropSnap.mp (mem_of_mem_sweepSnaps hy)
    exact Snapshot.dropped_ctx_of_eq ((Snapshot.dropped_handle h z).symm.trans hhandle)
  · refine mem_sweepSnaps_of_owned (mem_dropSnap.mpr ⟨y, hy, Snapshot.dropped_of_ne hother⟩) fun z hz hsame => ?_
    obtain ⟨x, hx, rfl⟩ := mem_dropSnap.mp hz
    have hxy : x = y := List.inj_on_of_nodup_map hnodup hx hy ((Snapshot.dropped_handle h x).symm.trans hsame)
    rw [hxy, Snapshot.dropped_of_ne hother]
    exact howned

/-! ### CTX_ADOPT, CTX_RELEASE_SNAP (R355) -/

section
variable {s : State} {vf : VfN} {q : QpN} {c : BitVec 16} {h : W32} (htag : W32)

theorem ctxAdopt_state {y : Snapshot} (hnames : Names s vf q c) (hstate : (s.ctx c.toNat).state ≠ 5)
    (hepoch : (s.part (s.ctx c.toNat).part.toNat).baseEpoch.ok = true) (hkind : (s.ctx c.toNat).kind ≠ 3)
    (hown : (ownedSnaps s c.toNat).find? (fun y => y.handle == h) = some y) (hbase : y.epoch = (s.part (s.ctx c.toNat).part.toNat).baseEpoch.v) :
    ctxAdopt s (.queue vf q htag) c true h =
      answer (unhold (s.setCtx c.toNat { s.ctx c.toNat with stateSnap := h }) c.toNat (s.ctx c.toNat).stateSnap) (.queue vf q htag) 0x0122 c
        St.ok 0 [] := by
  unfold ctxAdopt
  rw [ctxCmd_of_names hnames (.inl hstate)]
  simp only [hepoch, hkind, hown, hbase, Bool.not_true, Bool.false_eq_true, ne_eq, not_true_eq_false, false_and, if_false, if_true]
  rfl

/-- A context that serves from snapshot `h` in the base that its partition holds (R351, R355). -/
def Ctx.servesFrom (x : Ctx) (q : Part) (h : W32) : Ctx :=
  { x with serve := h, state := 2, epoch := Paired.of q.baseEpoch.v, baseDigest := q.baseDigest }

theorem ctxAdopt_serve {y : Snapshot} (hnames : Names s vf q c) (hstate : (s.ctx c.toNat).state ≠ 5)
    (hepoch : (s.part (s.ctx c.toNat).part.toNat).baseEpoch.ok = true) (hkind : (s.ctx c.toNat).kind ≠ 3)
    (hown : (ownedSnaps s c.toNat).find? (fun y => y.handle == h) = some y) (hbase : y.epoch = (s.part (s.ctx c.toNat).part.toNat).baseEpoch.v)
    (hvalid : headerValid (headerOf s h) = true) (hshape : (headerOf s h).take 3 = (shapeBytes (s.ctx c.toNat)).take 3)
    (hclaims : ∀ o ∈ partners s c, claimClash (headerOf s h) (headerOf s o) = false) (hpages : ∀ g ∈ headerPage s h, (s.page g).ok = true) :
    ctxAdopt s (.queue vf q htag) c false h =
      answer (unhold (s.setCtx c.toNat ((s.ctx c.toNat).servesFrom (s.part (s.ctx c.toNat).part.toNat) h)) c.toNat (s.ctx c.toNat).serve)
        (.queue vf q htag) 0x0122 c St.ok 0 [] := by
  have hclash : (partners s c).any (fun o => claimClash (headerOf s h) (headerOf s o)) = false := by simpa using hclaims
  unfold ctxAdopt
  rw [ctxCmd_of_names hnames (.inl hstate)]
  simp only [hepoch, hkind, hown, hbase, onPages_of_ok _ hpages, hvalid, hshape, hclash, Bool.not_true, Bool.false_or, Bool.false_eq_true,
    bne_self_eq_false, ne_eq, not_true_eq_false, false_and, if_false]
  rfl

theorem ctxReleaseSnap_of_owned (hnames : Names s vf q c) (hstate : (s.ctx c.toNat).state ≠ 5)
    (hown : (ownedSnaps s c.toNat).any (fun y => y.handle == h) = true) (hserve : h ≠ (s.ctx c.toNat).serve)
    (hsnap : h ≠ (s.ctx c.toNat).stateSnap) :
    ctxReleaseSnap s (.queue vf q htag) c h = answer (sweepSnaps (dropSnap s h)) (.queue vf q htag) 0x0123 c St.ok 0 [] := by
  unfold ctxReleaseSnap
  rw [ctxCmd_of_names hnames (.inl hstate)]
  simp [hown, hserve, hsnap]

end

end Sys2Proof.Machine
end

section
/-! PROOFS. O20: contexts made, bound, seeded, keyed and adopted (R354, R355, R353). -/

namespace Sys2Proof.Proofs
open Sys2Proof Sys2Proof.Machine

/-- Settles O20: what each command answers and leaves is said by its lemma (`ctxCreate_of_room` to `ctxReleaseSnap_of_owned`); the effect and
the report follow from `setCtx_reported`, and from `SnapsOnly.reported` where snapshots are given up. -/
theorem contextsAreMadeBoundAndAdopted : Obligations.ContextsAreMadeBoundAndAdopted := by
  unfold Obligations.ContextsAreMadeBoundAndAdopted
  refine ⟨fun s vf q htag => ⟨fun p kind rank proj seed stream hserves hmask hepoch hmine hst hbase hshape hroom => ?create,
    fun c hnames hstate => ⟨fun w qmask htenant => ?bind, fun seed stream => ?seed, fun key himport hexport harea => ?setkey⟩⟩,
    fun s vf q htag c hnames hstate => ⟨fun h y hepoch hkind hown hbase => ⟨?adoptState, fun hvalid hshape hclaims hpages => ?adoptServe⟩,
      fun h hown hserve hsnap => ?releaseSnap, fun hstale => ?rebase⟩⟩
  case create =>
    have hpart : (BitVec.ofNat 3 p.val).toNat = p.val := by simp
    obtain ⟨t, hanswer, heq, hctx, hrep⟩ := setCtx_reported hserves (freeCtx s) _ htag 0x0120 0xFFFF St.ok (freeCtx s) []
    have hexec := (ctxCreate_of_room htag hserves hmask hepoch hmine hst hbase hshape hroom seed stream).trans hanswer
    refine ⟨t, congrArg Host.Outcome.next hexec, heq, ⟨_, hctx, rfl, rfl, rfl, rfl, rfl, rfl, ?_, rfl, rfl, rfl, rfl, rfl⟩, hrep⟩
    rw [hpart]
  case bind =>
    obtain ⟨t, hanswer, hrest⟩ := setCtx_reported hnames.serves c.toNat _ htag 0x0121 c St.ok 0 []
    exact ⟨t, congrArg Host.Outcome.next ((ctxBind_of_tenant htag hnames hstate htenant qmask).trans hanswer), hrest⟩
  case seed =>
    have hseed := ctxSeed_of_names hnames hstate htag seed stream
    by_cases hrun : (s.part (s.ctx c.toNat).part.toNat).running.isSome
    · rw [if_pos hrun] at hseed
      obtain ⟨t, hanswer, heq, hctx, hrep⟩ := setCtx_reported hnames.serves c.toNat _ htag 0x0125 c St.ok 0 []
      exact ⟨t, congrArg Host.Outcome.next (hseed.trans hanswer), heq, by rwa [if_pos hrun], hrep⟩
    · rw [if_neg hrun] at hseed
      obtain ⟨t, hanswer, heq, hctxs, hrep⟩ := ctxs_reported hnames.serves (seededNow_eq s c.toNat seed stream) htag 0x0125 c St.ok 0 []
      have hctx := (ctx_congr hctxs c.toNat).trans (seededNow_ctx s c.toNat seed stream)
      exact ⟨t, congrArg Host.Outcome.next (hseed.trans hanswer), heq, by simp only [if_neg hrun, hctx, and_self], hrep⟩
  case setkey =>
    obtain ⟨x, hanswer, hrep⟩ := answer_queue (u := withSealKey s c.toNat key) hnames.serves rfl rfl htag 0x0126 c St.ok 0 []
    have hexec := (ctxSetkey_of_idle htag hnames hstate himport hexport harea key).trans hanswer
    exact ⟨_, congrArg Host.Outcome.next hexec, rfl, sealKey_withSealKey rfl rfl, hrep⟩
  case adoptState =>
    obtain ⟨hctxs, _, hrep⟩ := (unhold_snapsOnly (s.setCtx c.toNat { s.ctx c.toNat with stateSnap := h }) c.toNat
      (s.ctx c.toNat).stateSnap).reported hnames.serves rfl rfl htag 0x0122 c St.ok 0 []
    exact ⟨_, congrArg Host.Outcome.next (ctxAdopt_state htag hnames hstate hepoch hkind hown hbase), ctxBecomes_of_setCtx hctxs, hrep⟩
  case adoptServe =>
    obtain ⟨hctxs, _, hrep⟩ := (unhold_snapsOnly (s.setCtx c.toNat ((s.ctx c.toNat).servesFrom (s.part (s.ctx c.toNat).part.toNat) h)) c.toNat
      (s.ctx c.toNat).serve).reported hnames.serves rfl rfl htag 0x0122 c St.ok 0 []
    exact ⟨_, congrArg Host.Outcome.next (ctxAdopt_serve htag hnames hstate hepoch hkind hown hbase hvalid hshape hclaims hpages),
      ctxBecomes_of_setCtx hctxs, hrep⟩
  case releaseSnap =>
    obtain ⟨hctxs, hsnaps, hrep⟩ := (sweep_dropSnap_snapsOnly s h).reported hnames.serves rfl rfl htag 0x0123 c St.ok 0 []
    obtain ⟨hgone, hkept⟩ := sweep_dropSnap_snaps s h
    exact ⟨_, congrArg Host.Outcome.next (ctxReleaseSnap_of_owned htag hnames hstate hown hserve hsnap), hctxs, hsnaps ▸ hgone,
      hsnaps ▸ hkept, hrep⟩
  case rebase =>
    obtain ⟨t, hanswer, hrest⟩ := setCtx_reported hnames.serves c.toNat _ htag 0x012A c St.ok 0 []
    exact ⟨t, congrArg Host.Outcome.next ((ctxRebase_of_stale htag hnames hstale).trans hanswer), hrest⟩

end Sys2Proof.Proofs
end

section
/-! SUPPORT. Contexts composed, queried, withdrawn and deleted (R349, R356, R371, R372). -/

namespace Sys2Proof.Machine

/-! ### CTX_COMPOSE, CTX_QUERY, CTX_WITHDRAW (R349, R356, R371) -/

/-- CTX_COMPOSE of two READY contexts of one partition that claim no slot twice, with room for one more context. -/
theorem ctxCompose_of_room {s : State} {vf : VfN} {q : QpN} {a b : BitVec 16} (h : Serves s vf q) (ha : a.toNat < 49152) (hb : b.toNat < 49152)
    (hnameA : mayName (s.ctx a.toNat) vf q (tenantOf s vf).v = true) (hnameB : mayName (s.ctx b.toNat) vf q (tenantOf s vf).v = true)
    (hreadyA : (s.ctx a.toNat).state = 2) (hreadyB : (s.ctx b.toNat).state = 2) (hkindA : (s.ctx a.toNat).kind ≠ 3)
    (hkindB : (s.ctx b.toNat).kind ≠ 3) (hpart : (s.ctx a.toNat).part = (s.ctx b.toNat).part) (hokA : (s.ctx a.toNat).ok = true)
    (hokB : (s.ctx b.toNat).ok = true) (hclaims : claimClash (headerOf s (s.ctx a.toNat).serve) (headerOf s (s.ctx b.toNat).serve) = false)
    (hroom : ctxRoom s (tenantOf s vf).v = true)
    (hpages : ∀ g ∈ headerPage s (s.ctx a.toNat).serve ++ headerPage s (s.ctx b.toNat).serve, (s.page g).ok = true) (htag : W32) :
    ctxCompose s (.queue vf q htag) a b =
      answer (makeCtx s (tenantOf s vf).v (s.ctx a.toNat).part 3 0 0 2 0 none a b) (.queue vf q htag) 0x0124 0xFFFF St.ok (freeCtx s) [] := by
  have hmemberA : (decide (a.toNat < 49152) && mayName (s.ctx a.toNat) vf q (tenantOf s vf).v && (s.ctx a.toNat).state == 2 &&
      (s.ctx a.toNat).kind != 3) = true := by simpa [ha, hnameA, hreadyA] using hkindA
  have hmemberB : (decide (b.toNat < 49152) && mayName (s.ctx b.toNat) vf q (tenantOf s vf).v && (s.ctx b.toNat).state == 2 &&
      (s.ctx b.toNat).kind != 3) = true := by simpa [hb, hnameB, hreadyB] using hkindB
  unfold ctxCompose
  rw [tenantCmd_of_serves h]
  dsimp only
  rw [if_neg (by rw [hmemberA, hmemberB]; simp [hpart]), if_neg (by simp [hokA]), if_neg (by simp [hokB]),
    onPages_of_ok _ hpages]
  simp [hclaims, hroom]

/-- A context whose records have been read (R349). -/
def Ctx.queried (x : Ctx) : Ctx := { x with numeric := 0, advisory := 0, numPending := false, advPending := false }

theorem ctxQuery_of_bound {s : State} {vf : VfN} {q : QpN} {c : BitVec 16} (h : Names s vf q c) (hbound : (s.ctx c.toNat).bound = true)
    (htag : W32) : ctxQuery s (.queue vf q htag) c =
      answer (s.setCtx c.toNat (s.ctx c.toNat).queried) (.queue vf q htag) 0x0129 c St.ok 0 (queryBytes s c) := by
  unfold ctxQuery
  rw [ctxCmd_of_names h (.inr (.inl rfl)), if_neg (by simp [hbound])]
  rfl

/-- CTX_WITHDRAW in the Dill mailbox of the context's partition. -/
theorem ctxWithdraw_of_box {s : State} {n : MboxN} {c : BitVec 16} (hready : Ready s) (hlo : 24 ≤ n.val) (hhi : n.val < 32)
    (hlt : c.toNat < 49152) (hok : (s.ctx c.toNat).ok = true) (hfree : (s.ctx c.toNat).state ≠ 0) (hdeleting : (s.ctx c.toNat).state ≠ 6)
    (hpart : (s.ctx c.toNat).part.toNat = n.val - 24) (tag : BitVec 16) :
    ctxWithdraw s (.mailbox n tag) c =
      answer (s.setCtx c.toNat { s.ctx c.toNat with state := 5 }) (.mailbox n tag) 0x0020 c St.ok 0 [] := by
  have hpf0 : Via.isPf0 (.mailbox n tag) = true :=
    Bool.or_eq_true_iff.mpr (.inr (Bool.and_eq_true_iff.mpr ⟨decide_eq_true hlo, decide_eq_true hhi⟩))
  have hbox : boxAccepts (.mailbox n tag) 0x0020 = true := (if_neg (by omega)).trans ((if_pos ⟨hlo, hhi⟩).trans (by decide))
  have hmine : ofBox s (.mailbox n tag) c = true := by
    simp only [ofBox, boxPart, decide_eq_true hlt, bne_iff_ne.mpr hfree, bne_iff_ne.mpr hdeleting, if_pos (And.intro hlo hhi), hpart,
      beq_self_eq_true, Bool.and_self]
  unfold ctxWithdraw
  rw [hpf0, permitted_of_ready hready hbox, if_neg (by simp [hmine]), if_neg (by simp [hok])]
  rfl

/-! ### What the end of work leaves of the contexts -/

theorem ErrOnly.ctxs {s t : State} (h : ErrOnly s t) : t.ctxs = s.ctxs := by
  obtain ⟨_, _, rfl⟩ := h
  rfl

theorem SnapsOnly.ctxs {s t : State} (h : SnapsOnly s t) : t.ctxs = s.ctxs := by
  obtain ⟨_, _, _, _, _, rfl⟩ := h
  rfl

theorem foldl_ctxs {α : Type} {f : State → α → State} (hf : ∀ s a, (f s a).ctxs = s.ctxs) (l : List α) (s : State) :
    (l.foldl f s).ctxs = s.ctxs :=
  List.foldlRecOn (motive := fun u : State => u.ctxs = s.ctxs) l f rfl fun u h a _ => (hf u a).trans h

theorem freePages_ctxs (s : State) (gs : List Nat) : (freePages s gs).ctxs = s.ctxs := by
  obtain ⟨_, _, h⟩ := freePages_eq s gs
  rw [h]

theorem finish_ctxs (s : State) (via : Via) (cmd ctx : BitVec 16) (st : Status) (value : Nat) (data : List Byte) :
    (finish s via cmd ctx st value data).ctxs = s.ctxs := by
  obtain ⟨_, _, _, _, _, h, _⟩ := finish_eq s via cmd ctx st value data
  rw [h]

theorem freeKv_ctxs (s : State) (p : Nat) (ns : List Nat) : (freeKv s p ns).ctxs = s.ctxs := by
  unfold freeKv
  split <;> rfl

theorem endSome_ctxs (s : State) (p : Nat) (f : Req → Bool) (st : Status) : (endSome s p f st).ctxs = s.ctxs := by
  unfold endSome
  refine (sweepSnaps_snapsOnly _).ctxs.trans ((State.modPart_ctxs _ _ _).trans ((freeKv_ctxs _ _ _).trans ?_))
  exact foldl_ctxs (fun u r => (completeReq_errOnly u r st).ctxs) _ s

theorem finishTrain_ctxs (s : State) (t : TrainJob) (st : Status) : (finishTrain s t st).ctxs = s.ctxs := by
  unfold finishTrain
  exact (complete_errOnly _ _ _ _).ctxs.trans (foldl_ctxs (fun u _ => (complete_errOnly u _ _ _).ctxs) _ s)

theorem endTrains_ctxs (s : State) (p : Nat) (f : TrainJob → Bool) (st : Status) : (endTrains s p f st).ctxs = s.ctxs := by
  unfold endTrains
  exact (State.modPart_ctxs _ _ _).trans (foldl_ctxs (fun u t => finishTrain_ctxs u t st) _ _)

theorem abandonCkpt_ctxs (s : State) (p : Nat) (cause : Status) : (abandonCkpt s p cause).ctxs = s.ctxs := by
  unfold abandonCkpt
  dsimp only
  split
  · rfl
  · exact (State.modPart_ctxs _ _ _).trans (foldl_ctxs (fun u g => State.setPage_ctxs u g _) _ s)

/-! ### CTX_DELETE (R372) -/

/-- A context whose deletion is owed on a path (R372). -/
def Ctx.deleting (x : Ctx) (via : Option Via) : Ctx := { x with state := 6, owed := via, importing := [], exporting := [] }

/-- Imports and exports end with the context's deletion, and no other context changes. -/
theorem beginDelete_ctxs (s : State) (via : Option Via) (c : BitVec 16) :
    (beginDelete s via c).ctxs = (s.setCtx c.toNat ((s.ctx c.toNat).deleting via)).ctxs := by
  unfold beginDelete
  extract_lets x imported exported closed
  have hclosed : closed.ctxs = s.ctxs := by
    refine (foldl_ctxs (fun u e => ?_) _ _).trans ((foldl_ctxs (fun u e => ?_) _ _).trans (foldl_ctxs (fun u e => ?_) _ s))
    · exact (finish_ctxs _ _ _ _ _ _ _).trans (freePages_ctxs _ _)
    · exact finish_ctxs _ _ _ _ _ _ _
    · exact (finish_ctxs _ _ _ _ _ _ _).trans (freePages_ctxs _ _)
  rw [State.modCtx_ctxs, State.setCtx_ctxs, hclosed, ctx_congr hclosed]
  rfl

theorem ctxDelete_of_names {s : State} {vf : VfN} {q : QpN} {c : BitVec 16} (h : Names s vf q c) (hmember : isMember s c = false) (htag : W32) :
    ctxDelete s (.queue vf q htag) c = beginDelete s (some (.queue vf q htag)) c := by
  unfold ctxDelete
  dsimp only
  rw [ctxCmd_of_names h (.inr (.inr rfl)), if_neg (by simp [hmember])]

/-! ### The end of a deletion (R372) -/

/-- Every request of context `c` in partition `p` ended. -/
def requestsOver (s : State) (p : Nat) (c : BitVec 16) : State :=
  let s := endSome s p (fun r => r.ctx == c) St.disabled
  let s := if (s.part p).train.any (fun t => t.ctx == c) then abandonCkpt s p St.disabled else s
  endTrains s p (fun t => t.ctx == c) St.disabled

/-- Every snapshot of context `c` given up. -/
def snapsOver (s : State) (c : BitVec 16) : State :=
  sweepSnaps ((ownedSnaps s c.toNat).foldl (fun s y => dropSnap s y.handle) s)

/-- A module of which context `c` is gone, its entry FREE and its key written over. -/
def ctxGone (s : State) (c : BitVec 16) : State :=
  ((snapsOver (requestsOver s (s.ctx c.toNat).part.toNat c) c).modSage fun g =>
    { g with ctxKeys := sput none g.ctxKeys (s.ctx c.toNat).keySlot.v.toNat none }).setCtx c.toNat Ctx.fresh

theorem requestsOver_ctxs (s : State) (p : Nat) (c : BitVec 16) : (requestsOver s p c).ctxs = s.ctxs := by
  unfold requestsOver
  extract_lets ended abandoned
  refine (endTrains_ctxs _ _ _ _).trans ?_
  have hended : ended.ctxs = s.ctxs := endSome_ctxs _ _ _ _
  unfold abandoned
  split
  · exact (abandonCkpt_ctxs _ _ _).trans hended
  · exact hended

theorem snapsOver_ctxs (s : State) (c : BitVec 16) : (snapsOver s c).ctxs = s.ctxs :=
  (sweepSnaps_snapsOnly _).ctxs.trans (foldl_ctxs (f := fun s (y : Snapshot) => dropSnap s y.handle) (fun _ _ => rfl) _ s)

/-- Of the snapshots given up in turn, those that still have an owner are none of them. -/
theorem mem_foldl_dropSnap {l : List Snapshot} {s : State} {y : Snapshot} (h : y ∈ (l.foldl (fun s x => dropSnap s x.handle) s).snaps) :
    y.ctx = 0xFFFF ∨ y ∈ s.snaps ∧ ∀ x ∈ l, y.handle ≠ x.handle := by
  induction l generalizing s with
  | nil => exact .inr ⟨h, by simp⟩
  | cons x l ih =>
    rcases ih h with hgone | ⟨hy, hrest⟩
    · exact .inl hgone
    · obtain ⟨z, hz, rfl⟩ := mem_dropSnap.mp hy
      by_cases hx : z.handle = x.handle
      · exact .inl (Snapshot.dropped_ctx_of_eq hx)
      · rw [Snapshot.dropped_of_ne hx] at hrest ⊢
        exact .inr ⟨hz, List.forall_mem_cons.mpr ⟨hx, hrest⟩⟩

/-- No snapshot of the context is left. -/
theorem snapsOver_snaps {s : State} {c : BitVec 16} (hc : c.toNat < 49152) {y : Snapshot} (hy : y ∈ (snapsOver s c).snaps) : y.ctx ≠ c := by
  have hfree : c ≠ 0xFFFF := by
    rintro rfl
    exact absurd hc (by decide)
  rcases mem_foldl_dropSnap (mem_of_mem_sweepSnaps hy) with hgone | ⟨hmem, hother⟩
  · exact hgone ▸ hfree.symm
  · rintro rfl
    exact hother y (List.mem_filter.mpr ⟨hmem, by simpa using hfree⟩) rfl

/-- The answer that a deletion owed is given, if it owed one. -/
def answerOwed (s : State) (c : BitVec 16) : Option Via → State
  | none => s
  | some via => finish s via (if Via.isQueue via then 0x012B else 0x0021) c St.ok 0 []

/-- Such an answer leaves contexts, snapshots and keys. -/
theorem answerOwed_frame (s : State) (c : BitVec 16) (owed : Option Via) :
    (answerOwed s c owed).ctxs = s.ctxs ∧ (answerOwed s c owed).snaps = s.snaps ∧ (answerOwed s c owed).sage = s.sage := by
  cases owed with
  | none => exact ⟨rfl, rfl, rfl⟩
  | some via =>
    obtain ⟨_, _, _, _, _, h, _⟩ := finish_eq s via (if Via.isQueue via then 0x012B else 0x0021) c St.ok 0 []
    rw [show answerOwed s c (some via) = _ from h]
    exact ⟨rfl, rfl, rfl⟩

/-- The end of a deletion, once no step in progress holds rows of the context. -/
theorem ctxDeleteComplete_of_idle {s : State} {c : BitVec 16} (hdeleting : (s.ctx c.toNat).state = 6)
    (hidle : inStepOf s (s.ctx c.toNat).part.toNat c = false) :
    ctxDeleteComplete s c = answerOwed (ctxGone s c) c (s.ctx c.toNat).owed := by
  unfold ctxDeleteComplete
  extract_lets x p ended abandoned closed dropped cleared gone
  rw [if_neg (by simp [x, p, hdeleting, hidle])]
  unfold x
  cases (s.ctx c.toNat).owed with
  | none => rfl
  | some via => rfl

theorem ctxGone_ctxs (s : State) (c : BitVec 16) : (ctxGone s c).ctxs = (s.setCtx c.toNat Ctx.fresh).ctxs := by
  unfold ctxGone
  rw [State.setCtx_ctxs, State.setCtx_ctxs, State.modSage_ctxs, snapsOver_ctxs, requestsOver_ctxs]

theorem ctxGone_snaps {s : State} {c : BitVec 16} (hc : c.toNat < 49152) {y : Snapshot} (hy : y ∈ (ctxGone s c).snaps) : y.ctx ≠ c := by
  rw [ctxGone, State.setCtx_snaps, State.modSage_snaps] at hy
  exact snapsOver_snaps hc hy

theorem ctxGone_key (s : State) (c : BitVec 16) : sget none (ctxGone s c).sage.ctxKeys (s.ctx c.toNat).keySlot.v.toNat = none := by
  simp only [ctxGone, State.setCtx_sage, State.modSage_sage, sget_sput, if_true]

end Sys2Proof.Machine
end

section
/-! PROOFS. O21: contexts composed, queried, withdrawn and deleted (R349, R356, R371, R372). -/

namespace Sys2Proof.Proofs
open Sys2Proof Sys2Proof.Machine

/-- Settles O21: what each command answers is said by its lemma (`ctxCompose_of_room` to `ctxDelete_of_names`), with `setCtx_reported` for its
effect and report; the end of a deletion is `ctxDeleteComplete_of_idle`, and what is then gone is said by the lemmas about `ctxGone`. -/
theorem contextsComposeReportAndEnd : Obligations.ContextsComposeReportAndEnd := by
  unfold Obligations.ContextsComposeReportAndEnd
  refine ⟨fun s vf q htag hserves => ⟨fun a b ha hb hnameA hnameB hreadyA hreadyB hkindA hkindB hpart hokA hokB hclaims hroom hpages => ?compose,
    fun c hnames hbound => ?query⟩,
    fun s n tag c hready hlo hhi hwaits hlt hok hfree hdeleting hpart => ?withdraw, fun s vf q htag c hnames hmember => ?delete,
    fun s c hlt hdeleting hidle => ?deleted⟩
  case compose =>
    have hexec := ctxCompose_of_room hserves ha hb hnameA hnameB hreadyA hreadyB hkindA hkindB hpart hokA hokB hclaims hroom hpages htag
    obtain ⟨t, hanswer, heq, hctx, hrep⟩ := setCtx_reported hserves (freeCtx s) _ htag 0x0124 0xFFFF St.ok (freeCtx s) []
    exact ⟨t, congrArg Host.Outcome.next (hexec.trans hanswer), heq, ⟨_, hctx, rfl, rfl, rfl, rfl, rfl⟩, hrep⟩
  case query =>
    obtain ⟨t, hanswer, hrest⟩ := setCtx_reported hserves c.toNat (s.ctx c.toNat).queried htag 0x0129 c St.ok 0 (queryBytes s c)
    exact ⟨t, congrArg Host.Outcome.next ((ctxQuery_of_bound hnames hbound htag).trans hanswer), hrest⟩
  case withdraw =>
    refine ⟨_, congrArg Host.Outcome.next (ctxWithdraw_of_box hready hlo hhi hlt hok hfree hdeleting hpart tag), rfl,
      ctxBecomes_of_setCtx rfl, ?_⟩
    exact (State.modMbox_mbox _ _ _ _).trans ((if_pos rfl).trans (ack_of_waits hwaits _ _))
  case delete =>
    exact ⟨_, congrArg Host.Outcome.next (ctxDelete_of_names hnames hmember htag), ctxBecomes_of_setCtx (beginDelete_ctxs s _ c)⟩
  case deleted =>
    obtain ⟨hctxs, hsnaps, hsage⟩ := answerOwed_frame (ctxGone s c) c (s.ctx c.toNat).owed
    refine ⟨_, congrArg Host.Outcome.next (ctxDeleteComplete_of_idle hdeleting hidle), ctxBecomes_of_setCtx (hctxs.trans (ctxGone_ctxs s c)),
      fun y hy => ctxGone_snaps hlt (hsnaps ▸ hy), ?_⟩
    rw [hsage, ctxGone_key]

end Sys2Proof.Proofs
end

section
/-! SUPPORT. Requests queued, cancelled and staged (R342, R364, R368, R369, R491). -/

namespace Sys2Proof.Machine

/-! ### GENERATE (R364) -/

/-- Dill's use of some contexts goes on where their bindings and those of their members agree with their complements (R345). -/
theorem onCtxs_of_members {s : State} {cs : List (BitVec 16)} (f : State → State)
    (h : ∀ c ∈ cs, (s.ctx c.toNat).ok = true ∧ ∀ m ∈ partsOf s c, (s.ctx m.toNat).ok = true) : onCtxs s cs f = f s := by
  have hok : ∀ m ∈ cs.flatMap (fun c => c :: partsOf s c), (s.ctx m.toNat).ok = true := by
    intro m hm
    obtain ⟨c, hc, hm⟩ := List.mem_flatMap.mp hm
    obtain ⟨hself, hmembers⟩ := h c hc
    exact (List.mem_cons.mp hm).elim (fun heq => heq ▸ hself) (hmembers m)
  have hnone : ((cs.flatMap fun c => c :: partsOf s c).find? fun c => decide (c.toNat < 49152) && !(s.ctx c.toNat).ok) = none :=
    List.find?_eq_none.mpr fun m hm => by simp [hok m hm]
  simp only [onCtxs, hnone]

/-- A partition with one more request, the last in order of arrival. -/
def Part.queued (q : Part) (r : Req) : Part := { q with dill := { q.dill with reqs := q.dill.reqs ++ [r] } }

/-- GENERATE of a context that may be served, whose tokens the KV pool can hold. -/
theorem generate_of_served {s : State} {vf : VfN} {q : QpN} {c : BitVec 16} {total : Nat} {maxNew : W32} (h : Names s vf q c)
    (hstate : (s.ctx c.toNat).state ≠ 5) (htotal : total ≠ 0) (hwords : total % 4 = 0) (hserve : serveStatus s c = none)
    (hmembers : ∀ m ∈ partsOf s c, (s.ctx m.toNat).ok = true)
    (hfits : ∀ x, servingImage (s.part (s.ctx c.toNat).part.toNat) = some x → kvNeed x (total / 4 + maxNew.toNat) ≤ x.serve.kvPages)
    (htag stop : W32) (params : List Byte) (prompt : List W32) :
    generate s (.queue vf q htag) c total maxNew stop params prompt = s.modPart (s.ctx c.toNat).part.toNat fun x =>
      x.queued (Req.new 0x0101 vf q htag c prompt (total / 4) maxNew.toNat stop params) := by
  obtain ⟨_, _, _, hok, _⟩ := id h
  have hcontexts : ∀ m ∈ [c], (s.ctx m.toNat).ok = true ∧ ∀ n ∈ partsOf s m, (s.ctx n.toNat).ok = true := by
    simpa using ⟨hok, hmembers⟩
  unfold generate
  rw [ctxCmd_of_names h (.inl hstate), onCtxs_of_members _ hcontexts]
  dsimp only
  rw [if_neg (by simp [htotal, hwords])]
  simp only [hserve]
  cases himage : servingImage (s.part (s.ctx c.toNat).part.toNat) with
  | none => rfl
  | some x => exact if_neg (by simpa using hfits x himage)

/-! ### CANCEL (R342, R491) -/

theorem ErrOnly.part {s t : State} (h : ErrOnly s t) (p : Nat) : t.part p = s.part p := by
  obtain ⟨_, _, rfl⟩ := h
  rfl

/-- Requests that end leave the partition's list, and nothing else of the partitions changes. -/
theorem endSome_parts (s : State) (p : Nat) (f : Req → Bool) (st : Status) :
    (endSome s p f st).parts = (s.modPart p fun q => q.withReqs (q.dill.reqs.filter fun r => !f r) q.dill.served).parts := by
  have hcompleted (l : List Req) : (l.foldl (fun s r => completeReq s r st) s).parts = s.parts :=
    List.foldlRecOn (motive := fun u : State => u.parts = s.parts) l _ rfl fun u h r _ => by
      obtain ⟨_, _, heq⟩ := completeReq_errOnly u r st
      rw [heq, h]
  have hfreed (u : State) (ns : List Nat) : (freeKv u p ns).parts = u.parts := by
    unfold freeKv
    split <;> rfl
  unfold endSome
  rw [sweepSnaps_parts]
  simp only [State.modPart_parts, State.part, hfreed, hcompleted]
  rfl

/-- A request as its cancellation leaves it: one with rows in the step in progress takes the status (R342). -/
def Req.disabledBy (f : Req → Bool) (st : Status) (r : Req) : Req := if f r && r.rows != 0 then { r with status := st } else r

theorem disableReqs_reqs (s : State) (p : Nat) (f : Req → Bool) (st : Status) : ((disableReqs s p f st).part p).dill.reqs =
    ((s.part p).dill.reqs.map (Req.disabledBy f st)).filter fun r => !(f r && r.rows == 0) := by
  unfold disableReqs State.part
  rw [endSome_parts]
  simp only [State.modPart_parts, State.modPart_part, sget_sput, if_true]
  rfl

/-- What is left of the requests that were cancelled has rows in the step in progress, and ends with it. -/
theorem cancelled_in_step {s : State} {p vf q : Nat} {h : W32} {r : Req}
    (hr : r ∈ ((disableReqs s p (fun r => r.isOf vf q h) St.disabled).part p).dill.reqs) (hof : r.isOf vf q h = true) :
    r.rows ≠ 0 ∧ r.status = St.disabled := by
  rw [disableReqs_reqs] at hr
  obtain ⟨hmem, hleft⟩ := List.mem_filter.mp hr
  have hrows : r.rows ≠ 0 := by simpa [hof] using hleft
  obtain ⟨x, _, rfl⟩ := List.mem_map.mp hmem
  unfold Req.disabledBy at hof hrows ⊢
  by_cases hx : (x.isOf vf q h && x.rows != 0) = true
  · rw [if_pos hx] at hrows ⊢
    exact ⟨hrows, rfl⟩
  · rw [if_neg hx] at hof hrows
    exact absurd (by simp [hof, hrows]) hx

section
variable {s : State} {vf : VfN} {q : QpN} {h : W32} (htag : W32)

theorem cancel_of_request {p : Nat} (hserves : Serves s vf q)
    (hfind : (List.range 8).find? (fun p => (s.part p).dill.reqs.any fun r => r.isOf vf q h) = some p) :
    cancel s (.queue vf q htag) h =
      answer (disableReqs s p (fun r => r.isOf vf q h) St.disabled) (.queue vf q htag) 0x0102 0xFFFF St.ok 0 [] := by
  unfold cancel
  rw [tenantCmd_of_serves hserves]
  simp only [hfind]

theorem cancel_of_none (hserves : Serves s vf q) (hnone : ∀ p, p < 8 → (s.part p).dill.reqs.any (fun r => r.isOf vf q h) = false ∧
      ((s.part p).train.toList ++ (s.part p).trainQ).any (fun u => u.isOf vf q h) = false) :
    cancel s (.queue vf q htag) h = answer s (.queue vf q htag) 0x0102 0xFFFF St.badHandle 0 [] := by
  have hreqs : (List.range 8).find? (fun p => (s.part p).dill.reqs.any fun r => r.isOf vf q h) = none :=
    List.find?_eq_none.mpr fun p hp => by simpa using (hnone p (List.mem_range.mp hp)).1
  have htrains : (List.range 8).find? (fun p => ((s.part p).train.toList ++ (s.part p).trainQ).any fun u => u.isOf vf q h) = none :=
    List.find?_eq_none.mpr fun p hp => by simpa using (hnone p (List.mem_range.mp hp)).2
  unfold cancel
  rw [tenantCmd_of_serves hserves]
  simp only [hreqs, htrains]

end

/-! ### Staging (R368, R369) -/

/-- A partition with a staging in progress, or with none. -/
def Part.withStaging (q : Part) (st : Option Staging) : Part := { q with dill := { q.dill with staging := st } }

/-- A request that takes the pins of an adaptation if it waits for them. -/
def Req.pinned (c : BitVec 16) (snaps : List W32) (r : Req) : Req :=
  if r.ctx == c && !r.staged then { r with staged := true, snaps := snaps } else r

theorem Req.pinned_staged {c : BitVec 16} {snaps : List W32} {r : Req} (h : (r.pinned c snaps).ctx = c) : (r.pinned c snaps).staged = true := by
  unfold pinned at h ⊢
  by_cases hwaits : (r.ctx == c && !r.staged) = true
  · rw [if_pos hwaits]
  · rw [if_neg hwaits] at h ⊢
    simpa [h] using hwaits

theorem pinReqs_eq (s : State) (p : Nat) (c : BitVec 16) (snaps : List W32) :
    pinReqs s p c snaps = s.modPart p fun q => q.withReqs (q.dill.reqs.map (Req.pinned c snaps)) q.dill.served := rfl

/-- Whether a context may be served does not depend on the stagings. -/
theorem serveStatus_withStaging (s : State) (p : Nat) (st : Option Staging) (c : BitVec 16) :
    serveStatus (s.modPart p fun q => q.withStaging st) c = serveStatus s c := by
  have hepoch (x : Nat) : ((s.modPart p fun q => q.withStaging st).part x).baseEpoch = (s.part x).baseEpoch := by
    rw [State.modPart_part]
    split
    · next h => exact h ▸ rfl
    · rfl
  have hepochs : epochOk (s.modPart p fun q => q.withStaging st) = epochOk s :=
    funext fun n => by simp only [epochOk, State.modPart_ctx, hepoch]
  unfold serveStatus
  rw [hepochs]
  rfl

section
variable {s : State} {p : Nat} {r : Req}

/-- The oldest request whose adaptation is not staged starts its staging where pages are missing that the ways can take. -/
theorem adapterStaging_of_missing (hfree : (s.part p).dill.staging = none) (hok : ContextsOk s)
    (hfind : (s.part p).dill.reqs.find? (fun r => !r.staged && (serveStatus s r.ctx).isNone) = some r)
    (hmissing : (snapPages s (servingSnaps s r.ctx)).filter (fun g => !resident s p g) ≠ [])
    (hways : ∀ x, servingImage (s.part p) = some x → x.serve.reserve ≠ 0) (hfits : neverFits s p (snapPages s (servingSnaps s r.ctx)) = false) :
    adapterStaging s p = s.modPart p fun q => q.withStaging (some ⟨r.ctx, servingSnaps s r.ctx,
      (snapPages s (servingSnaps s r.ctx)).filter fun g => !resident s p g, snapPages s (servingSnaps s r.ctx)⟩) := by
  unfold adapterStaging
  simp only [hfree, onCtxs_of_ok hok, hfind, List.isEmpty_iff, hmissing, hfits, Bool.or_false]
  split
  · contradiction
  · rw [if_neg (by decide), if_neg]
    · rfl
    · split
      · decide
      · next x hx => simpa using hways x hx

/-- Where no page is missing, the requests of the adaptation take its pins at once. -/
theorem adapterStaging_of_resident (hfree : (s.part p).dill.staging = none) (hok : ContextsOk s)
    (hfind : (s.part p).dill.reqs.find? (fun r => !r.staged && (serveStatus s r.ctx).isNone) = some r)
    (hresident : (snapPages s (servingSnaps s r.ctx)).filter (fun g => !resident s p g) = []) :
    adapterStaging s p = pinReqs s p r.ctx (servingSnaps s r.ctx) := by
  unfold adapterStaging
  simp only [hfree, onCtxs_of_ok hok, hfind, hresident]
  rfl

/-- The end of a staging whose pages are all resident and whose adaptation may still be served. -/
theorem stagingComplete_of_resident {st : Staging} (hstaging : (s.part p).dill.staging = some st) (hpages : st.pages = [])
    (hresident : ∀ g ∈ st.all, resident s p g = true) (hserve : serveStatus s st.ctx = none) (hsnaps : servingSnaps s st.ctx = st.snaps) :
    stagingComplete s p = pinReqs (s.modPart p fun q => q.withStaging none) p st.ctx st.snaps := by
  have hlost : st.all.filter (fun g => !resident s p g) = [] := by simpa [List.filter_eq_nil_iff] using hresident
  have hserve' : serveStatus (s.modPart p fun q => q.withStaging none) st.ctx = none := by rw [serveStatus_withStaging, hserve]
  have hsnaps' : servingSnaps (s.modPart p fun q => q.withStaging none) st.ctx = st.snaps := hsnaps
  have hgo : ¬((serveStatus (s.modPart p fun q => q.withStaging none) st.ctx).isSome ||
      servingSnaps (s.modPart p fun q => q.withStaging none) st.ctx != st.snaps) = true := by simp [hserve', hsnaps']
  unfold stagingComplete
  simp only [hstaging, hpages, hlost]
  rw [if_neg (by decide), if_neg (by decide)]
  exact if_neg hgo

end

end Sys2Proof.Machine
end

section
/-! PROOFS. O23: requests queued, cancelled and staged (R342, R364, R368, R369, R491). -/

namespace Sys2Proof.Proofs
open Sys2Proof Sys2Proof.Machine

/-- Settles O23: what each command does is said by its lemma (`generate_of_served` to `stagingComplete_of_resident`); what a cancellation
leaves in a step is `cancelled_in_step`. -/
theorem requestsQueueStageAndCancel : Obligations.RequestsQueueStageAndCancel := by
  unfold Obligations.RequestsQueueStageAndCancel
  refine ⟨fun s vf q htag => ⟨fun c total maxNew stop params prompt hnames hstate htotal hwords hserve hmembers hfits => ?generate,
    fun h p hserves hfind => ?cancel, fun h hserves hnone => ?cancelNone⟩,
    fun s p => ⟨fun r hfree hok hfind => ⟨fun hmissing hways hfits => ?start, fun hresident => ?pin⟩,
      fun st hstaging hpages hresident hserve hsnaps => ?complete⟩⟩
  case generate =>
    refine ⟨_, congrArg Host.Outcome.next (generate_of_served hnames hstate htotal hwords hserve hmembers hfits htag stop params prompt), rfl,
      fun p hp => ?_, ?_⟩
    · rw [State.modPart_part, if_neg hp]
    · rw [State.modPart_part, if_pos rfl]
      rfl
  case cancel =>
    have hanswer : ErrOnly (disableReqs s p (fun r => r.isOf vf q h) St.disabled)
        (answer (disableReqs s p (fun r => r.isOf vf q h) St.disabled) (.queue vf q htag) 0x0102 0xFFFF St.ok 0 []) := complete_errOnly _ _ _ _
    refine ⟨_, congrArg Host.Outcome.next (cancel_of_request htag hserves hfind), fun r hr hof => ?_⟩
    rw [hanswer.part] at hr
    exact cancelled_in_step hr hof
  case cancelNone =>
    obtain ⟨x, hanswer, hrep⟩ := answer_queue hserves rfl rfl htag 0x0102 0xFFFF St.badHandle 0 []
    exact ⟨_, congrArg Host.Outcome.next ((cancel_of_none htag hserves hnone).trans hanswer), rfl, hrep⟩
  case start =>
    refine ⟨_, congrArg Host.Outcome.next (adapterStaging_of_missing hfree hok hfind hmissing hways hfits), rfl, ?_⟩
    rw [State.modPart_part, if_pos rfl]
    rfl
  case pin =>
    have hexec := (adapterStaging_of_resident hfree hok hfind hresident).trans (pinReqs_eq s p r.ctx (servingSnaps s r.ctx))
    refine ⟨_, congrArg Host.Outcome.next hexec, rfl, ?_, fun x hx hctx => ?_⟩
    · rw [State.modPart_part, if_pos rfl]
      exact hfree
    · rw [State.modPart_part, if_pos rfl] at hx
      obtain ⟨y, _, rfl⟩ := List.mem_map.mp hx
      exact Req.pinned_staged hctx
  case complete =>
    have hexec := (stagingComplete_of_resident hstaging hpages hresident hserve hsnaps).trans (pinReqs_eq _ p st.ctx st.snaps)
    refine ⟨_, congrArg Host.Outcome.next hexec, ?_, ?_, ?_⟩
    · rfl
    · rw [State.modPart_part, if_pos rfl, State.modPart_part, if_pos rfl]
      rfl
    · rw [State.modPart_part, if_pos rfl, State.modPart_part, if_pos rfl]
      rfl

end Sys2Proof.Proofs
end

section
/-! SUPPORT. Training requests that arrive, and Dill's start of the training image (R382, R383, R385, R387). -/

namespace Sys2Proof.Machine

/-! ### TRAIN, TRAIN_DATA (R382, R383, R387) -/

/-- A partition with one more training request: the one in progress where there is none, else the last that waits (R383). -/
def Part.withTrain (q : Part) (t : TrainJob) : Part :=
  if q.train.isNone then { q with train := some t } else { q with trainQ := q.trainQ ++ [t] }

theorem Part.withTrain_of_none {q : Part} (h : q.train = none) (t : TrainJob) : q.withTrain t = { q with train := some t } :=
  if_pos (by simp [h])

theorem Part.withTrain_of_some {q : Part} {u : TrainJob} (h : q.train = some u) (t : TrainJob) :
    q.withTrain t = { q with trainQ := q.trainQ ++ [t] } :=
  if_neg (by simp [h])

section
variable {s : State} {vf : VfN} {q : QpN} (htag : W32)

/-- TRAIN of a context that may train, on a READY training image. -/
theorem train_of_names {f : TrainF} {i : Nat} (h : Names s vf q f.context)
    (hstate : (s.ctx f.context.toNat).state = 1 ∨ (s.ctx f.context.toNat).state = 2 ∨ (s.ctx f.context.toNat).state = 4)
    (hsnap : (s.ctx f.context.toNat).stateSnap ≠ 0 ∨ f.resume = true) (himage : trainImage (s.part (s.ctx f.context.toNat).part.toNat) = some i)
    (hready : ((s.part (s.ctx f.context.toNat).part.toNat).image i).st = .ready) (hmin : 1 ≤ f.globalMb.toNat) (hmax : f.globalMb.toNat ≤ 256)
    (hsteps : f.steps ≠ 0) :
    train s (.queue vf q htag) f = s.modPart (s.ctx f.context.toNat).part.toNat fun y => y.withTrain (TrainJob.new vf q htag f) := by
  have hnot : (s.ctx f.context.toNat).state ≠ 5 := by
    rcases hstate with h | h | h <;> rw [h] <;> decide
  have hmay : ¬((s.ctx f.context.toNat).state ≠ 1 ∧ (s.ctx f.context.toNat).state ≠ 2 ∧ (s.ctx f.context.toNat).state ≠ 4) := by tauto
  have hsource : ¬((s.ctx f.context.toNat).stateSnap = 0 ∧ (!f.resume) = true) := by
    rintro ⟨hzero, hfresh⟩
    rcases hsnap with h | h
    · exact h hzero
    · simp [h] at hfresh
  have hshape : ¬(f.globalMb.toNat < 1 ∨ 256 < f.globalMb.toNat ∨ f.steps = 0) := by
    rintro (h | h | h)
    · omega
    · omega
    · exact hsteps h
  unfold train
  rw [ctxCmd_of_names h (.inl hnot)]
  dsimp only
  rw [if_neg hmay, if_neg hsource]
  simp only [himage, hready, if_neg hshape]
  rfl

/-- TRAIN_DATA for the request in progress adds its micro-batch to it. -/
theorem trainData_of_job {c : BitVec 16} {tag : W32} {j : BitVec 16} {u : TrainJob} (h : Names s vf q c) (hstate : (s.ctx c.toNat).state ≠ 5)
    (htrain : (s.part (s.ctx c.toNat).part.toNat).train = some u) (hctx : u.ctx = c) (htagged : u.jobTag = tag) (hj : j.toNat < u.globalMb)
    (tokens : List W32) : ∃ waiting, trainData s (.queue vf q htag) c tag j tokens = s.modPart (s.ctx c.toNat).part.toNat fun y =>
      { y with train := some { u with batches := u.batches ++ [⟨vf, q, htag, j, tokens⟩] }, trainQ := waiting } := by
  subst hctx htagged
  have hfind (rest : List TrainJob) : ((some u).toList ++ rest).find? (fun t => t.ctx == u.ctx && t.jobTag == u.jobTag) = some u := by simp
  unfold trainData
  rw [ctxCmd_of_names h (.inl hstate)]
  simp only [htrain, hfind, if_neg (Nat.not_le.mpr hj)]
  unfold State.modPart
  simp only [htrain, Option.map_some, beq_self_eq_true, Bool.and_self, if_true]
  exact ⟨_, rfl⟩

end

/-! ### Dill's switch between the images (R385) -/

/-- Dill acts on the jobs of its own partition as PF0 does (R334). -/
theorem jobAction_dill {s : State} {p : Nat} {d : Fin 8} (hready : Ready s) (hd : d.val = p) (ok : Bool) (i : Nat) (f : State → State) :
    jobAction s (.dill d) p ok i f = jobAction s .pf0 p ok i f := by
  have hown : jobVia (.dill d) p = true := beq_iff_eq.mpr hd
  have hpf0 : jobVia .pf0 p = true := rfl
  unfold jobAction
  rw [hown, hpf0, permitted_of_ready hready rfl, permitted_of_ready hready rfl]

/-- With a request, no job, and no more serving requests than the idle mark, Dill starts the READY training image. -/
theorem trainingSwitch_of_idle {s : State} {p : PartN} {i : Nat} (himage : trainImage (s.part p) = some i) (htrain : (s.part p).train.isSome)
    (hrun : (s.part p).running = none) (hyield : (s.part p).yield_ = none) (hload : servingLoad (s.part p) ≤ (s.part p).idleRows.toNat)
    (hst : ((s.part p).image i).st = .ready) (hready : Ready s) : trainingSwitch s p = jobStart s .pf0 p i := by
  have hstart (d : Fin 8) (hd : d.val = p.val) : jobStart s (.dill d) p i = jobStart s .pf0 p i := jobAction_dill hready hd _ i _
  unfold trainingSwitch
  simp only [himage, htrain, hrun, hyield, hload, hst]
  exact hstart _ (Nat.mod_eq_of_lt p.isLt)

/-- The training image is one that the loader has recorded. -/
theorem info_of_trainImage {q : Part} {i : Nat} (h : trainImage q = some i) : ∃ x, (q.image i).info = some x := by
  have htraining := List.find?_some h
  cases hinfo : (q.image i).info with
  | none => simp [hinfo] at htraining
  | some x => exact ⟨x, rfl⟩

end Sys2Proof.Machine
end

section
/-! PROOFS. O27: training requests and Dill's start of their image (R382, R383, R385, R387). -/

namespace Sys2Proof.Proofs
open Sys2Proof Sys2Proof.Machine

/-- Settles O27: the place of a new request is that of `Part.withTrain`; Dill's switch comes to a START (`trainingSwitch_of_idle`,
`jobStart_of_ready`). -/
theorem trainingRequestsArrive : Obligations.TrainingRequestsArrive := by
  unfold Obligations.TrainingRequestsArrive
  refine fun s vf q htag => ⟨fun f i hnames hstate hsnap himage hready hmin hmax hsteps => ?train,
    fun c tag j tokens u hnames hstate htrain hctx htagged hj => ?data,
    fun p i hready himage htrain hrun hyield hload hst hint hcreated hdrawn => ?switch⟩
  case train =>
    refine ⟨_, congrArg Host.Outcome.next (train_of_names htag hnames hstate hsnap himage hready hmin hmax hsteps), rfl, ?_⟩
    rw [State.modPart_part, if_pos rfl]
    cases htrain : (s.part (s.ctx f.context.toNat).part.toNat).train with
    | none =>
      rw [Part.withTrain_of_none htrain]
      rfl
    | some u =>
      rw [Part.withTrain_of_some htrain, htrain]
      rfl
  case data =>
    obtain ⟨waiting, hexec⟩ := trainData_of_job htag hnames hstate htrain hctx htagged hj tokens
    refine ⟨_, congrArg Host.Outcome.next hexec, rfl, ?_⟩
    rw [State.modPart_part, if_pos rfl]
  case switch =>
    obtain ⟨x, hinfo⟩ := info_of_trainImage himage
    have hstart := jobStart_of_ready hready hcreated hst hrun hint hyield hdrawn
    obtain ⟨cores, parts, hframe⟩ := startImage_frame hinfo (s.tick + 1)
    refine ⟨_, congrArg Host.Outcome.next ((trainingSwitch_of_idle himage htrain hrun hyield hload hst hready).trans hstart), ?_, ?_⟩
    · rw [hframe]
    · rw [startImage_part hinfo]
      exact ⟨rfl, rfl⟩

end Sys2Proof.Proofs
end

section
/-! SUPPORT. Segments of a training job posted to its cores (R386, R387, R411). -/

namespace Sys2Proof.Machine

/-! ### Registers that a posting writes (R238) -/

theorem toNat_postedReg {i : Nat} (h : i < 8) : (BitVec.ofNat 5 (24 + i)).toNat = 24 + i := by
  rw [BitVec.toNat_ofNat]
  exact Nat.mod_eq_of_lt (by omega)

/-- The last value posted stands in the register after those of the others, which it leaves as they are. -/
theorem Core.posted_append_reg (t v : Nat) (vs : List Nat) (k : Core) (r : SReg) : (k.posted t (vs ++ [v])).reg r =
    if r = BitVec.ofNat 5 (24 + vs.length) ∧ BitVec.ofNat 5 (24 + vs.length) ≠ 0 then BitVec.ofNat 32 v else (k.posted t vs).reg r := by
  unfold posted
  rw [List.zipIdx_append, Nat.zero_add, List.foldl_append]
  exact Core.setReg_reg _ _ _ r

/-- Of up to eight values posted, value `i` stands in s24 + `i`. -/
theorem Core.posted_reg (t : Nat) (k : Core) (vs : List Nat) (hlen : vs.length ≤ 8) {i : Nat} (hi : i < vs.length) :
    (k.posted t vs).reg (BitVec.ofNat 5 (24 + i)) = BitVec.ofNat 32 vs[i] := by
  induction vs using List.reverseRecOn with
  | nil => exact absurd hi (Nat.not_lt_zero i)
  | append_singleton vs v ih =>
    rw [List.length_append, List.length_singleton] at hlen hi
    have hregs : BitVec.ofNat 5 (24 + i) = BitVec.ofNat 5 (24 + vs.length) ↔ i = vs.length := by
      rw [← BitVec.toNat_inj, toNat_postedReg (by omega), toNat_postedReg (by omega)]
      omega
    have hwritten : BitVec.ofNat 5 (24 + vs.length) ≠ 0 := fun h => by
      have hzero := congrArg BitVec.toNat h
      rw [toNat_postedReg (by omega)] at hzero
      simp at hzero
    rw [Core.posted_append_reg]
    by_cases hlast : i = vs.length
    · rw [if_pos ⟨hregs.mpr hlast, hwritten⟩]
      simp [hlast]
    · have hlt : i < vs.length := by omega
      rw [if_neg fun h => hlast (hregs.mp h.1), ih (by omega) hlt, List.getElem_append_left hlt]

/-- A core to which segment `seg` of step `n` is posted at time `now`: it waits for a tick that lies ahead (R238, R386). -/
def Core.PostedSegment (k : Core) (now n seg : Nat) : Prop :=
  (∃ t, k.wait = .posted t ∧ now / 32 < t) ∧ k.reg 24 = BitVec.ofNat 32 n ∧ k.reg 25 = BitVec.ofNat 32 seg

theorem Core.PostedSegment.congr {k l : Core} {now n seg : Nat} (h : k.PostedSegment now n seg) (hwait : l.wait = k.wait)
    (hregs : l.regs = k.regs) : l.PostedSegment now n seg := by
  unfold PostedSegment Core.reg at h ⊢
  rw [hwait, hregs]
  exact h

theorem Core.posted_segment {now t : Nat} (hahead : now / 32 < t) (k : Core) (n seg : Nat) {vs : List Nat} (hlen : vs.length ≤ 6) :
    (k.posted t (n :: seg :: vs)).PostedSegment now n seg := by
  have hcount : (n :: seg :: vs).length ≤ 8 := by simp only [List.length_cons]; omega
  exact ⟨⟨t, rfl, hahead⟩, k.posted_reg t _ hcount (i := 0) (by simp), k.posted_reg t _ hcount (i := 1) (by simp)⟩

theorem postRegs_segment {s : State} {p c now t : Nat} (hc : c ∈ jobCores (s.part p)) (hahead : now / 32 < t) (n seg : Nat) {vs : List Nat}
    (hlen : vs.length ≤ 6) : ((postRegs s p t (n :: seg :: vs)).core c).PostedSegment now n seg := by
  obtain ⟨m, hm⟩ := Nat.exists_eq_succ_of_ne_zero (Nat.ne_of_gt (List.count_pos_iff.mpr hc))
  rw [postRegs_core, hm, Function.iterate_succ_apply']
  exact Core.posted_segment hahead _ n seg hlen

/-! ### A segment (Table 12-2) -/

theorem Served.jobCores {s t : State} (h : Served s t) (p : Nat) : jobCores (t.part p) = jobCores (s.part p) := by
  obtain ⟨_, _, hp⟩ := h.part p
  rw [hp]
  rfl

/-- Every core of the job takes the posting of a segment. -/
theorem postSegment_core (s : State) {p c : Nat} (hc : c ∈ jobCores (s.part p)) (x : ImgInfo) (j : TrainJob) (seg at_ : Nat) :
    ((postSegment s p x j seg at_).1.core c).PostedSegment s.gov.now j.sNo seg := by
  have hserved (base n : Nat) (bs : List Byte) (cs : List (BitVec 16)) :
      Served s (noteServed (askGrant (writeTables s p base bs) p x n).2 p cs) :=
    .trans (.trans (.writeTables _ _ _ _) (.askGrant _ _ _ _)) (.noteServed _ _ _)
  unfold postSegment
  extract_lets q bs rows tabs t
  refine postRegs_segment ((hserved _ _ _ _).jobCores p ▸ hc) ?_ _ _ (by simp)
  exact Nat.lt_of_lt_of_le (lt_postTick _ _ _) (Nat.le_max_left _ _)

/-! ### Segment 1 (R386, R387, R411) -/

/-- The settings of a partition in force from the next segment 1 on (R411): those of its registers. -/
theorem applyDp_part (s : State) (p : Nat) : ∃ d, (applyDp s p).part p = { s.part p with dp := d } ∧ d.dpOn = (s.part p).dp.dp.v := by
  unfold applyDp
  rw [State.modPart_part, if_pos rfl]
  refine ⟨_, rfl, ?_⟩
  dsimp only
  split <;> rfl

/-- A job on one module takes every micro-batch of the step for its own. -/
theorem ownShare_alone {q : Part} (h : isDp q = false) (t : TrainJob) : ownShare q t = List.range t.globalMb := by
  have hlive : liveRanks q = [0] := by simp [liveRanks, h]
  have horder : liveOrder q = 0 := by simp [liveOrder, h]
  simp [ownShare, hlive, horder, Nat.mod_one]

theorem stepEntries_held {t : TrainJob} (h : ∀ j, j < t.globalMb → t.batches.any (fun b => b.j.toNat == j) = true) :
    (stepEntries t (List.range t.globalMb)).all (fun b => b.isSome) = true := by
  simpa [stepEntries, List.find?_isSome] using h

theorem stampSlots_core (s : State) (ls : List (Nat × Nat)) (t c : Nat) :
    ((stampSlots s ls t).core c).wait = (s.core c).wait ∧ ((stampSlots s ls t).core c).regs = (s.core c).regs := by
  refine List.foldlRecOn (motive := fun u : State => (u.core c).wait = (s.core c).wait ∧ (u.core c).regs = (s.core c).regs) ls _
    ⟨rfl, rfl⟩ fun u h l _ => ?_
  rw [State.modCore_core]
  split
  · next hl => exact hl ▸ h
  · exact h

theorem foldl_setPage_cores (f : State → Nat → PageE) (gs : List Nat) (s : State) :
    (gs.foldl (fun s g => s.setPage g (f s g)) s).cores = s.cores :=
  List.foldlRecOn (motive := fun u : State => u.cores = s.cores) gs _ rfl fun _ h _ _ => h

theorem openCkpt_core (s : State) (p c : Nat) : (openCkpt s p).core c = s.core c := by
  unfold openCkpt
  extract_lets ps k small
  split
  · rfl
  · exact congrArg (sget Core.fresh · c) (foldl_setPage_cores (fun s g => Paired.of (setBit32 (setBit32 (s.page g).v 7 true) 8 false)) ps s)

/-- Whether a checkpoint opens makes no difference to the cores. -/
theorem ite_openCkpt_core (b : Prop) [Decidable b] (s : State) (p c : Nat) : (if b then openCkpt s p else s).core c = s.core c := by
  split
  · exact openCkpt_core s p c
  · rfl

/-- Segment 1 of a job on one module without a teacher, whose micro-batches are all held. -/
theorem postSeg1_alone {s : State} {p : Nat} {t : TrainJob} (x : ImgInfo) (hdp : isDp (s.part p) = false) (hteacher : t.teacher = 0xFFFF)
    (hbegun : t.begun = true) (hheld : ∀ j, j < t.globalMb → t.batches.any (fun b => b.j.toNat == j) = true) :
    ∃ (u : State) (v : TrainJob), postSeg1 s p x t = u.modPart p (fun y => { y with train := some v }) ∧
      v.segment = 1 ∧ v.sNo = t.sNo ∧ v.htag = t.htag ∧
      ∀ c ∈ jobCores (s.part p), (u.core c).PostedSegment s.gov.now t.sNo 1 := by
  unfold postSeg1
  extract_lets q have_ asking asked waiting
  have hall : have_ = true := by
    unfold have_
    rw [ownShare_alone hdp]
    exact stepEntries_held hheld
  have hasking : asking = s := if_pos (.inl hteacher)
  have hpipe : pipeReady waiting x asked = true := Bool.or_eq_true_iff.mpr (.inl (beq_iff_eq.mpr hteacher))
  have hstarted : asked.begun = true := hbegun
  have halone : isDp q = false := hdp
  have hself : asked.teacher = 0xFFFF := hteacher
  have hjob : jobCores (waiting.part p) = jobCores (s.part p) := by
    unfold waiting
    rw [State.modPart_part, if_pos rfl, hasking]
    rfl
  have hnow : waiting.gov.now = s.gov.now := congrArg (·.gov.now) hasking
  rw [if_neg (by simp [hall]), if_neg (by simp [hpipe]), onPages_of_ok _ (by simp [hstarted]), if_pos hstarted]
  dsimp only
  rw [if_neg (by simp [halone])]
  refine ⟨_, _, if_pos hself, rfl, rfl, rfl, fun c hc => ?_⟩
  have hposted (at_ : Nat) (ls : List (Nat × Nat)) (tk : Nat) :
      ((stampSlots (postSegment (draw waiting).2 p x asked 1 at_).1 ls tk).core c).PostedSegment s.gov.now t.sNo 1 := by
    obtain ⟨hwait, hregs⟩ := stampSlots_core (postSegment (draw waiting).2 p x asked 1 at_).1 ls tk c
    rw [← hnow]
    exact (postSegment_core (draw waiting).2 (hjob ▸ hc) x asked 1 at_).congr hwait hregs
  rw [ite_openCkpt_core]
  exact hposted _ _ _

/-! ### The posting of a segment -/

/-- Segment 2 of a job on one module. -/
theorem postSeg2_alone {s : State} {p : Nat} (x : ImgInfo) (t : TrainJob) (h : isDp (s.part p) = false) :
    ∃ w : State, postSeg2 s p x t = w.modPart p (fun y => { y with train := some { t with segment := 2 } }) ∧
      ∀ c ∈ jobCores (s.part p), (w.core c).PostedSegment s.gov.now t.sNo 2 := by
  refine ⟨(postSegment s p x t 2 0).1, ?_, fun c hc => postSegment_core s hc x t 2 0⟩
  unfold postSeg2
  simp only [h]
  rfl

section
variable {s : State} {p : Nat} {x : ImgInfo} {u : TrainJob} (hserve : serveInfo s p = some x) (htraining : x.training = true)
variable (hmay : mayPost s p = true) (htrain : (s.part p).train = some u) (hepoch : (s.part p).baseEpoch.ok = true)
variable (hbuddy : (s.part p).dp.buddy.ok = true) (hdp : (s.part p).dp.dp.ok = true) (hports : (s.part p).dp.ports.ok = true)
include hserve htraining hmay htrain hepoch hbuddy hdp hports

/-- Between steps Dill posts segment 1, with the settings of the partition in force, unless the request ends. -/
theorem segmentPosting_between (hctx : ContextsOk s) (hseg : u.segment = 0) (hgoes : trainStatus s p u = none) :
    segmentPosting s p = postSeg1 (applyDp s p) p x u := by
  unfold segmentPosting
  simp only [hserve, htrain, htraining, hmay, hepoch, hbuddy, hdp, hports, hseg, onCtxs_of_ok hctx, hgoes]
  rfl

theorem segmentPosting_after1 (hseg : u.segment = 1) : segmentPosting s p = postSeg2 s p x u := by
  unfold segmentPosting
  simp only [hserve, htrain, htraining, hmay, hepoch, hbuddy, hdp, hports, hseg]
  rfl

end

end Sys2Proof.Machine
end

section
/-! SUPPORT. Ranks of a data-parallel job: the leader's decision, and a rank that leaves (R404, R408). -/

namespace Sys2Proof.Machine

/-! ### The leader's decision (R404) -/

/-- The mask of a list of ranks. -/
theorem getLsbD_foldl_rankBit (rs : List Nat) (m : BitVec 8) {r : Nat} (hr : r < 8) :
    (rs.foldl (fun m k => m ||| (1#8 <<< k)) m).getLsbD r = (m.getLsbD r || rs.contains r) := by
  induction rs generalizing m with
  | nil => simp
  | cons k rs ih =>
    have hbit : (1#8 <<< k).getLsbD r = (r == k) := by
      rw [show 1#8 <<< k = BitVec.twoPow 8 k from rfl, BitVec.getLsbD_twoPow, Bool.eq_iff_iff]
      simp only [Bool.and_eq_true, decide_eq_true_eq, beq_iff_eq]
      omega
    rw [List.foldl_cons, ih, BitVec.getLsbD_or, hbit, List.contains_cons, Bool.or_assoc]

/-- The leader that has not decided does so at the end of tick `S_s + X`. -/
theorem presence_of_lead {s : State} {p : Nat} {x : ImgInfo} {u : TrainJob} (hserve : serveInfo s p = some x)
    (htrain : (s.part p).train = some u) (hdp : isDp (s.part p) = true) (hseg : u.segment = 1) (htraining : x.training = true)
    (hlead : isLead (s.part p) = true) (hopen : u.decided = false) :
    ∃ (v : TrainJob) (d : DpRegs), presence s p = (s.advance (32 * (u.s0.getD 0 + u.sNo * x.maxStep + x.serve.exchange) + 31)).modPart p
        (fun y => { y with train := some v, dp := d }) ∧ v.decided = true ∧
      ∀ r, r < 8 → v.present.getLsbD r = ((liveRanks (s.part p)).contains r && exLanded s x u.sNo r u.seg1) := by
  unfold presence
  simp only [hserve, htrain, hdp, htraining, hlead, hseg, hopen]
  refine ⟨_, _, rfl, rfl, fun r hr => ?_⟩
  refine (getLsbD_foldl_rankBit _ 0#8 hr).trans ?_
  rw [BitVec.getLsbD_zero, Bool.false_or, Bool.eq_iff_iff]
  simp only [List.contains_iff_mem, List.mem_filter, Bool.and_eq_true]
  rfl

/-! ### A rank that leaves (R408) -/

theorem ErrOnly.trans {s t u : State} (h : ErrOnly s t) (h' : ErrOnly t u) : ErrOnly s u := by
  obtain ⟨_, _, rfl⟩ := h
  obtain ⟨_, _, rfl⟩ := h'
  exact ⟨_, _, rfl⟩

theorem finishTrain_errOnly (s : State) (t : TrainJob) (st : Status) : ErrOnly s (finishTrain s t st) := by
  refine .trans ?_ (complete_errOnly _ _ _ _)
  exact List.foldlRecOn (motive := fun u : State => ErrOnly s u) t.batches _ (.refl s) fun u h b _ => h.trans (complete_errOnly u _ _ _)

/-- A partition without the training requests that `f` names, and what Dill keeps of the contexts that it served (R98). -/
def Part.withoutTrains (q : Part) (f : TrainJob → Bool) (served : SMap Nat) : Part :=
  let rest := (q.train.toList ++ q.trainQ).filter fun t => !f t
  { q with train := rest.head?, trainQ := rest.drop 1, dill := { q.dill with served := served } }

theorem Part.not_of_mem_withoutTrains {q : Part} {f : TrainJob → Bool} {served : SMap Nat} {v : TrainJob}
    (h : v ∈ (q.withoutTrains f served).train.toList ++ (q.withoutTrains f served).trainQ) : f v = false := by
  have hlist (l : List TrainJob) : l.head?.toList ++ l.drop 1 = l := by cases l <;> rfl
  have hrest := (hlist ((q.train.toList ++ q.trainQ).filter fun t => !f t)).symm ▸ h
  simpa using (List.mem_filter.mp hrest).2

/-- Training requests that end leave the partition's list; time stays. -/
theorem endTrains_effect (s : State) (p : Nat) (f : TrainJob → Bool) (st : Status) : (endTrains s p f st).gov = s.gov ∧
    ∃ served, (endTrains s p f st).part p = (s.part p).withoutTrains f served := by
  have hfinished (l : List TrainJob) (u : State) : ErrOnly u (l.foldl (fun s t => finishTrain s t st) u) :=
    List.foldlRecOn (motive := fun v : State => ErrOnly u v) l _ (.refl u) fun v h t _ => h.trans (finishTrain_errOnly v t st)
  unfold endTrains
  extract_lets q out noted finished
  have hend : ErrOnly noted finished := hfinished _ _
  have hgov : finished.gov = noted.gov := by
    obtain ⟨_, _, h⟩ := hend
    rw [h]
  have hnoted : noted.part p = (s.part p).withReqs q.dill.reqs (noted.part p).dill.served := by
    unfold noted noteServed
    rw [State.modPart_part, if_pos rfl]
    rfl
  refine ⟨hgov, (noted.part p).dill.served, ?_⟩
  rw [State.modPart_part, if_pos rfl, hend.part p, hnoted]
  rfl

/-- Messages on any number of ports change the ports alone. -/
theorem foldl_sendLink_ports (port : Nat → Nat) (kind : Nat) (args : List Nat) (rs : List Nat) (s : State) :
    ∃ ps, rs.foldl (fun s r => sendLink s (port r) kind args []) s = { s with ports := ps } := by
  refine List.foldlRecOn (motive := fun u : State => ∃ ps, u = { s with ports := ps }) rs _ ⟨_, rfl⟩ fun u hu r _ => ?_
  obtain ⟨_, rfl⟩ := hu
  exact sendLink_eq _ (port r) kind args []

/-- A rank that leaves its job: its request ends, whatever its notices to the peers come to. -/
theorem leaveJob_effect (s : State) (p : Nat) (t : TrainJob) : (leaveJob s p t).gov = s.gov ∧ ((leaveJob s p t).part p).dp.left = true ∧
    ∀ v ∈ ((leaveJob s p t).part p).train.toList ++ ((leaveJob s p t).part p).trainQ, v.isOf t.vf t.qp t.htag = false := by
  unfold leaveJob
  extract_lets q sent marked
  obtain ⟨ps, hsent⟩ : ∃ ps, sent = { s with ports := ps } := foldl_sendLink_ports (dpPort q) _ _ _ s
  obtain ⟨hgov, served, hpart⟩ := endTrains_effect marked p (fun u => u.isOf t.vf t.qp t.htag) St.disabled
  refine ⟨hgov.trans (congrArg (·.gov) hsent), ?_, fun v hv => ?_⟩
  · rw [hpart]
    unfold marked
    rw [State.modPart_part, if_pos rfl]
    rfl
  · rw [hpart] at hv
    exact Part.not_of_mem_withoutTrains hv

theorem leaveDeadline_of_segment1 {s : State} {p : Nat} {x : ImgInfo} {u : TrainJob} (hserve : serveInfo s p = some x)
    (htrain : (s.part p).train = some u) (hdp : isDp (s.part p) = true) (hseg : u.segment = 1) :
    leaveDeadline s p = leaveJob (s.advance (32 * (u.s0.getD 0 + (u.sNo + 2) * x.maxStep))) p u := by
  unfold leaveDeadline
  simp only [hserve, htrain, hdp, hseg]
  rfl

end Sys2Proof.Machine
end

section
/-! PROOFS. O28: segments, the leader's decision, and ranks that leave (R386, R404, R408). -/

namespace Sys2Proof.Proofs
open Sys2Proof Sys2Proof.Machine

/-- Settles O28: Dill's posting comes to `postSeg1` between steps and to `postSeg2` after segment 1, whose effects on a job on one
module are those of `postSeg1_alone` and `postSeg2_alone`; decision and leave are said by `presence_of_lead` and `leaveJob_effect`. -/
theorem trainingSegmentsRanksAndLeave : Obligations.TrainingSegmentsRanksAndLeave := by
  unfold Obligations.TrainingSegmentsRanksAndLeave
  refine ⟨fun s p x u hserve htraining hmay htrain hepoch hctx hbuddy hdp hports =>
      ⟨fun hseg hgoes halone hteacher hbegun hheld => ?segment1, fun hseg halone => ?segment2⟩,
    fun s p x u hserve htrain hdp hseg => ⟨fun htraining hlead hopen => ?decision, ?leave⟩⟩
  case segment1 =>
    obtain ⟨d, hpart, hon⟩ := applyDp_part s p
    have hsingle : isDp ((applyDp s p).part p) = false := by
      rw [hpart]
      exact (congrArg (·.getLsbD 6) hon).trans halone
    have hjob : jobCores ((applyDp s p).part p) = x.cores := by
      rw [hpart]
      exact jobCores_of_serveInfo hserve
    obtain ⟨w, v, hpost, hseg1, hno, htag, hcores⟩ := postSeg1_alone x hsingle hteacher hbegun hheld
    refine ⟨_, congrArg Host.Outcome.next
      ((segmentPosting_between hserve htraining hmay htrain hepoch hbuddy hdp hports hctx hseg hgoes).trans hpost), ?_, fun c hc => ?_⟩
    · rw [State.modPart_part, if_pos rfl]
      simp only [Option.map_some, hseg1, hno, htag]
    · exact hcores c (hjob ▸ hc)
  case segment2 =>
    obtain ⟨w, hpost, hcores⟩ := postSeg2_alone x u halone
    refine ⟨_, congrArg Host.Outcome.next
      ((segmentPosting_after1 hserve htraining hmay htrain hepoch hbuddy hdp hports hseg).trans hpost), ?_, fun c hc => ?_⟩
    · rw [State.modPart_part, if_pos rfl]
    · exact hcores c (jobCores_of_serveInfo hserve ▸ hc)
  case decision =>
    obtain ⟨v, d, hexec, hdecided, hpresent⟩ := presence_of_lead hserve htrain hdp hseg htraining hlead hopen
    refine ⟨_, v, congrArg Host.Outcome.next hexec, rfl, ?_, rfl, hdecided, hpresent⟩
    rw [State.modPart_part, if_pos rfl]
  case leave =>
    obtain ⟨hgov, hleft, hrest⟩ := leaveJob_effect (s.advance (32 * (u.s0.getD 0 + (u.sNo + 2) * x.maxStep))) p u
    exact ⟨_, congrArg Host.Outcome.next (leaveDeadline_of_segment1 hserve htrain hdp hseg), hleft, congrArg (·.now) hgov, hrest⟩

end Sys2Proof.Proofs
end

section
/-! SUPPORT. An open checkpoint that holds a page which is no STATE page. -/

namespace Sys2Proof.Proofs
open Sys2Proof Sys2Proof.Machine

/-- Entry of MUTABLE page 4 of partition 0, with WP set and COPIED clear. -/
def heldMutable : PageE := Paired.of (pageWord .mutable (some 0) 0xFFFF ||| 0x80)

/-- Partition 0 runs its training image, and its open checkpoint names page 4, which is MUTABLE. It owns no STATE page, and BUDDY page 5. -/
def mutableCheckpoint : State :=
  { State.reset with
    parts := [(0, { Part.fresh with
      st := 1, running := some 0, img := [⟨.running, St.ok, some { (default : ImgInfo) with training := true }⟩, .fresh]
      ckpt := { Ckpt.fresh with state := 1, openPages := [4], left := 1 } })]
    pages := [(4, heldMutable), (5, Paired.of (pageWord .buddy (some 0) 0xFFFF))] }

theorem mutableCheckpoint_pagesOk : PagesOk mutableCheckpoint := by
  intro g
  by_cases hfour : 4 = g
  · subst hfour
    exact Paired.of_ok _
  by_cases hfive : 5 = g
  · subst hfive
    exact Paired.of_ok _
  have hfree : mutableCheckpoint.page g = PageE.free := (if_neg hfour).trans (if_neg hfive)
  rw [hfree]
  exact Paired.of_ok _

/-- A page that is not a STATE page with WP set and COPIED clear is not copied (R394). -/
theorem copyPage_of_not_held {s : State} {g : Nat} (p : Nat) (recv : List (Nat × List Byte)) (h : wpHeld (s.page g).v = false) :
    copyPage s p g recv = s := by
  unfold copyPage
  simp only [h]
  rfl

theorem ckptCopy_mutableCheckpoint : ckptCopy mutableCheckpoint 0 [] = mutableCheckpoint := by
  have hnotHeld : wpHeld (mutableCheckpoint.page 4).v = false := by decide
  calc ckptCopy mutableCheckpoint 0 []
      = onPages mutableCheckpoint (copyTargets mutableCheckpoint 0 4) fun s => copyPage s 0 4 [] := rfl
    _ = copyPage mutableCheckpoint 0 4 [] := onPages_of_ok _ fun g _ => mutableCheckpoint_pagesOk g
    _ = mutableCheckpoint := copyPage_of_not_held 0 [] hnotHeld

end Sys2Proof.Proofs
end

section
/-! PROOFS. O29: checkpoints (R394, R397). -/

namespace Sys2Proof.Proofs
open Sys2Proof Sys2Proof.Machine

/-- Refutes O29 in its first clause, which asks of the page that the copier takes that the open checkpoint names it, and not that it is a
STATE page: of `mutableCheckpoint` the copier finds page 4 and, since it is MUTABLE, neither copies nor marks it. -/
theorem not_checkpointsCopyAndClose : ¬ Obligations.CheckpointsCopyAndClose := by
  unfold Obligations.CheckpointsCopyAndClose
  intro h
  obtain ⟨hcopy, -⟩ := h mutableCheckpoint 0
  obtain ⟨t, hexec, -, hcopied, -⟩ := hcopy 0 4 5 rfl rfl rfl rfl rfl rfl rfl mutableCheckpoint_pagesOk rfl
  obtain rfl : ckptCopy mutableCheckpoint 0 [] = t := Host.Outcome.next.inj hexec
  rw [ckptCopy_mutableCheckpoint] at hcopied
  exact absurd hcopied (by decide)

end Sys2Proof.Proofs
end

section
/-! PROOFS. O60: fuses, top leaves and the queue over a step (R419, R426). -/

namespace Sys2Proof.Proofs
open Sys2Proof Sys2Proof.Machine

/-- Settles O60: a step on an empty queue idles; otherwise the front command, run on the state with the queue's rest, keeps that
rest, the fuses and the top tree by `exec_kept`. -/
theorem fusesAndTopLeavesOnlyAdvance : Obligations.FusesAndTopLeavesOnlyAdvance := by
  unfold Obligations.FusesAndTopLeavesOnlyAdvance
  intro s t hinv hstep
  unfold step at hstep
  split at hstep
  · next hpending =>
    obtain rfl : s = t := Host.Outcome.next.inj hstep
    exact ⟨by rw [hpending]; rfl, Nat.le_refl _, Nat.le_refl _⟩
  · next c rest hpending =>
    have hkept : Kept { s with pending := rest } t := kept_of_exec (hinv.withPending rest).kept hstep
    exact ⟨by rw [hkept.queue, hpending]; rfl, hkept.fuses, hkept.tree⟩

end Sys2Proof.Proofs
end

section
/-! SUPPORT. A completion that would be written through a translation that fails (R481). -/

namespace Sys2Proof.Machine

/-- No completion disables the pair that takes it. -/
theorem Qp.push_disabled (q : Qp) (qn now : Nat) (c : Completion) : (q.push qn now c).disabled = q.disabled := by
  unfold Qp.push Qp.write
  split <;> rfl

/-- A pair that has been disabled has not just taken a completion. -/
theorem not_reported_of_disabled {s t : State} {vf : VfN} {q : QpN} (hs : (s.qp vf q).disabled = false) (ht : (t.qp vf q).disabled = true)
    (htag : W32) (cmd ctx : BitVec 16) (st : Status) (value : Nat) (data : List Byte) : ¬ Reported s t vf q htag cmd ctx st value data := by
  rintro ⟨c, hpush, -⟩
  rw [hpush, Qp.push_disabled, hs] at ht
  exact Bool.false_ne_true ht

end Sys2Proof.Machine
end

section
/-! SUPPORT. A sealed image whose end cannot be reported. -/

namespace Sys2Proof.Proofs
open Sys2Proof Sys2Proof.Machine

/-- With the link up and a session of VF 0, context 0 is being exported for queue pair 0 of that VF, which holds a key; the host refuses
the translation of page 0, in which the completion ring of the pair begins. -/
def unreportableExport : State :=
  { State.reset with
    ctxs := [(0, { Ctx.fresh with state := 2, exporting := [(.queue 0 0 0, 0, [])] })]
    sage := { Sage.fresh with sessions := [(0, { Session.fresh with up := true })] }
    cxl := { Cxl.fresh with up := true, unmapped := [(0, 0)], qps := [(0, { Qp.fresh with keyed := true })] } }

/-- The completion of CTX_EXPORT finds no translation, so it disables the pair instead. -/
theorem ctxExportComplete_unreportable_disabled : ((ctxExportComplete unreportableExport 0).qp 0 0).disabled = true := by decide

/-- With the session the work on the image ends; that its completion finds no translation is recorded after the loss of the link. -/
theorem linkDown_unreportable_head : (linkDown unreportableExport).err.head = 2 := by decide +kernel

end Sys2Proof.Proofs
end

section
/-! PROOFS. O22: sealed images (R438 to R440). -/

namespace Sys2Proof.Proofs
open Sys2Proof Sys2Proof.Machine

/-- Refutes O22 in its last clause, which asks of the queue pair that it holds a key, and not that the host maps its rings: in
`unreportableExport` the end of CTX_EXPORT disables the pair (R481), and nothing is reported. -/
theorem not_sealedImagesComeAndGo : ¬ Obligations.SealedImagesComeAndGo := by
  unfold Obligations.SealedImagesComeAndGo
  intro h
  obtain ⟨-, -, -, hcomplete⟩ := h unreportableExport 0 0 0 0
  have hkeyed : (unreportableExport.qp (0 : VfN) (0 : QpN)).keyed = true := by decide
  have hexporting : (unreportableExport.ctx (0 : BitVec 16).toNat).exporting = [(.queue 0 0 0, 0, [])] := by decide
  have henabled : (unreportableExport.qp (0 : VfN) (0 : QpN)).disabled = false := by decide
  obtain ⟨t, hexec, -, -, hreported⟩ := hcomplete 0 [] [] hkeyed hexporting
  obtain rfl : ctxExportComplete unreportableExport 0 = t := Host.Outcome.next.inj hexec
  exact not_reported_of_disabled henabled ctxExportComplete_unreportable_disabled _ _ _ _ _ _ hreported

end Sys2Proof.Proofs
end

section
/-! PROOFS. O41: the CXL link and the function resets (R437, R473, R523). -/

namespace Sys2Proof.Proofs
open Sys2Proof Sys2Proof.Machine

/-- Refutes O41 in its first clause, by which the loss of the link makes one record: in `unreportableExport` the session that ends with
the link takes a CTX_EXPORT along whose completion disables its queue pair, and that is a second record (R481, R546). -/
theorem not_linkAndFunctionResets : ¬ Obligations.LinkAndFunctionResets := by
  unfold Obligations.LinkAndFunctionResets
  intro h
  obtain ⟨hdown, -⟩ := h unreportableExport
  obtain ⟨t, hexec, -, -, -, -, -, hhead, -⟩ := hdown rfl rfl
  obtain rfl : linkDown unreportableExport = t := Host.Outcome.next.inj hexec
  rw [linkDown_unreportable_head] at hhead
  exact absurd hhead (by decide)

end Sys2Proof.Proofs
end

section
/-! SUPPORT. Programming of firmware, register writes in recovery, and a module reset (R523, R529, R531, R538, R570). -/

namespace Sys2Proof.Machine

/-- Programming asked for on MGMT, with no reset that waits for it, ends with its status on MGMT (R529). -/
theorem fwProgramComplete_of_mgmt {s : State} (hprogram : s.sys.fwUpdate = 1) (hvia : s.sys.fwVia = some .mgmt)
    (hreset : s.pwr.resetAfter = none) (ok : Bool) : fwProgramComplete s ok = { s with
      sys := { s.sys with
        fwUpdate := if ok then 2 else 0, fwStatus := if ok then St.ok else St.internal, flashBad := !ok, fwVia := none
        mgmtStatus := if ok then St.ok else St.internal, mgmtBusy := false } } := by
  unfold fwProgramComplete
  rw [if_neg (not_not_intro hprogram), hvia]
  dsimp only [finish, answer, State.modSys_pwr]
  rw [hreset, ite_self]
  rfl

/-- In recovery the registers of SYS stand in the map and may be written by the origin that Table 19-2 lets write them. -/
theorem refusal_recovery {s : State} {o : Origin} {off : Nat} (hstate : s.sys.state = 3) (hreg : (sysReg s off).isSome = true)
    (horigin : originMay o off true = true) : refusal s o off true = none := by
  have hmapped : mapped s o off = true := by simp [mapped, hstate, hreg]
  simp [refusal, hmapped, horigin, stateMay, hstate]

theorem gate_recovery {s : State} {o : Origin} {off : Nat} (f : State → State) (hstate : s.sys.state = 3)
    (hreg : (sysReg s off).isSome = true) (horigin : originMay o off true = true) : gate s o off f = f s := by
  have hreaches : reaches s o = true := by cases o <;> simp [reaches, hstate]
  simp [gate, hreaches, refusal_recovery hstate hreg horigin]

/-- A module reset outside Parsley: BOOT, the zeroisation of a reset, the start-up that follows it, and a flash that is bad where the
reset cut its programming short (R523, R538). -/
theorem moduleReset_registers {s : State} (hparsley : s.parsley = false) (env : StartEnv) (cause : BitVec 3) :
    (moduleReset s env cause).sys.state = 0 ∧ (moduleReset s env cause).sage.zeroising = some 4 ∧
      (moduleReset s env cause).pwr.rstCause = cause ∧ (moduleReset s env cause).pwr.resetAfter = some env ∧
      (moduleReset s env cause).sys.flashBad = (s.sys.flashBad || s.sys.fwUpdate == 1 || s.sys.recBusy) := by
  unfold moduleReset
  extract_lets powered cut down ended
  have hcut : cut.sys.state = s.sys.state ∧ cut.pwr = powered.pwr ∧
      cut.sys.flashBad = (s.sys.flashBad || s.sys.fwUpdate == 1 || s.sys.recBusy) := by
    by_cases hprogram : s.sys.fwUpdate = 1 ∨ s.sys.recBusy
    · rw [show cut = _ from if_pos hprogram]
      rcases hprogram with h | h <;> simp [powered, h]
    · rw [show cut = powered from if_neg hprogram]
      obtain ⟨hprogram, hbusy⟩ := not_or.mp hprogram
      refine ⟨rfl, rfl, ?_⟩
      rw [beq_false_of_ne hprogram, eq_false_of_ne_true hbusy, Bool.or_false, Bool.or_false]
      rfl
  obtain ⟨hstate, hpwr, hbad⟩ := hcut
  have hdown : down.parsley = false := by rw [← hparsley]; exact congrArg (· == 2) hstate
  have hended : WorkOnly down ended := .foldl (fun _ _ => .endJobNow _ _ _ _ _) _ down
  obtain ⟨_, _, _, hsys⟩ := hended.sys
  have hpwr' : ended.pwr = powered.pwr := hended.pwr.trans hpwr
  have hbad' : ended.sys.flashBad = (s.sys.flashBad || s.sys.fwUpdate == 1 || s.sys.recBusy) := by rw [hsys]; exact hbad
  clear_value ended
  rw [if_neg (by simp [hdown])]
  exact ⟨rfl, rfl, congrArg Pwr.rstCause hpwr', congrArg Pwr.resetAfter hpwr', hbad'⟩

/-- A half of a pair that has stood alone for 1,024 ticks is dropped, counted, and logged where the log is free (R569). -/
theorem dropOrphans_of_one {s : State} {off : Nat} {half : Bool} {w : W32} {u : Nat} (h : s.sys.latches = [(off, half, w, u)])
    (hold : u + 1024 ≤ s.tick) : dropOrphans s = s.modSys fun y =>
      { y with
        latches := [], pairOrphan := satAdd y.pairOrphan 1
        pairOff := if y.pairValid then y.pairOff else BitVec.ofNat 26 (off / 4)
        pairKind := if y.pairValid then y.pairKind else 2, pairValid := true } := by
  unfold dropOrphans
  extract_lets old gone kept
  have hgone : gone = [(off, half, w, u)] := by simp [gone, old, h, hold]
  have hkept : kept = s.modSys fun y => { y with latches := [] } := by simp [kept, old, h, hold, State.modSys]
  rw [hgone, hkept]
  cases hvalid : s.sys.pairValid
  all_goals simp [State.modSys, hvalid]

theorem latchTimeout_of_one {s : State} {off : Nat} {half : Bool} {w : W32} {u : Nat} (h : s.sys.latches = [(off, half, w, u)]) :
    latchTimeout s = dropOrphans (s.advance (32 * (u + 1024))) := by
  unfold latchTimeout
  rw [h]

theorem le_tick_advance (s : State) (n : Nat) : n ≤ (s.advance (32 * n)).tick := by
  show n ≤ max s.gov.now (32 * n) / 32
  omega

end Sys2Proof.Machine
end

section
/-! PROOFS. O53: firmware, recovery and orphaned halves (R427, R528 to R531, R569). -/

namespace Sys2Proof.Proofs
open Sys2Proof Sys2Proof.Machine

/-- Settles O53: programming ends on MGMT by `fwProgramComplete_of_mgmt`; in recovery the registers of SYS take their writes
(`gate_recovery`); a programmed image leads to a module reset (`moduleReset_registers`); a lone half goes by `latchTimeout_of_one`. -/
theorem firmwareRecoveryAndOrphans : Obligations.FirmwareRecoveryAndOrphans := by
  unfold Obligations.FirmwareRecoveryAndOrphans
  intro s
  refine ⟨?program, fun hstate => ⟨?data, ?commit, ?programmed⟩, ?orphan⟩
  case program =>
    intro ok hprogram hvia hreset
    exact congrArg Host.Outcome.next (fwProgramComplete_of_mgmt hprogram hvia hreset ok)
  case data =>
    intro w hpos
    refine ⟨recoveryData s w, congrArg Host.Outcome.next (gate_recovery _ hstate rfl (by decide)), ?_⟩
    have hnot : ¬(s.sys.state ≠ 3 ∨ 8388608 ≤ s.sys.recPos) := by simp [hstate, hpos]
    rw [recoveryData, if_neg hnot]
    exact ⟨rfl, fun i => sget_sput _ _ _ _ _⟩
  case commit =>
    intro hidle hlen hmax
    have hnot : ¬(s.sys.state ≠ 3 ∨ s.sys.recBusy = true) := by simp [hstate, hidle]
    have hfits : ¬(s.sys.recLen = 0 ∨ 33554432 < s.sys.recLen.toNat) := not_or.mpr ⟨hlen, Nat.not_lt.mpr hmax⟩
    refine congrArg Host.Outcome.next ((gate_recovery _ hstate rfl (by decide)).trans ?_)
    rw [recoveryCommit, if_neg hnot, if_neg hfits]
    rfl
  case programmed =>
    intro e hbusy
    have hnot : ¬(s.sys.state ≠ 3 ∨ (!s.sys.recBusy) = true) := by simp [hstate, hbusy]
    refine ⟨congrArg Host.Outcome.next (if_neg hnot), _, congrArg Host.Outcome.next (if_neg hnot), ?_⟩
    rw [if_pos rfl]
    have hparsley : s.parsley = false := by simp [State.parsley, hstate]
    obtain ⟨hboot, hzeroising, hcause, hafter, hbad⟩ := moduleReset_registers
      (s := s.modSys fun y => { y with recBusy := false, recStatus := St.ok, flashBad := false }) hparsley e 3
    exact ⟨hboot, hzeroising, hcause, hafter, by simpa using hbad⟩
  case orphan =>
    intro off half w u h
    have hdropped := dropOrphans_of_one (s := s.advance (32 * (u + 1024))) h (le_tick_advance s _)
    refine ⟨_, congrArg Host.Outcome.next ((latchTimeout_of_one h).trans hdropped), rfl, rfl, rfl, rfl, fun hfree => ?_⟩
    simp [hfree]

end Sys2Proof.Proofs
end

section
/-! SUPPORT. Messages on one port, and the loss of others: what each leaves of the ports (R502, R514). -/

namespace Sys2Proof.Machine

/-- A pass over a list of which one entry alone changes what `read` reads. -/
theorem foldl_read_of_only {α β : Type} {f : State → α → State} (read : State → β) {l : List α} {a : α} (hl : l.Nodup) (ha : a ∈ l)
    (hf : ∀ u b, b ≠ a → read (f u b) = read u) (s : State) : ∃ u, read u = read s ∧ read (l.foldl f s) = read (f u a) := by
  have hothers (k : List α) (hk : a ∉ k) (u : State) : read (k.foldl f u) = read u :=
    List.foldlRecOn (motive := fun v => read v = read u) k f rfl fun v hv b hb => (hf v b fun hba => hk (hba ▸ hb)).trans hv
  obtain ⟨l₁, l₂, rfl⟩ := List.append_of_mem ha
  obtain ⟨-, hl₂, hdisjoint⟩ := List.nodup_append.mp hl
  refine ⟨l₁.foldl f s, hothers l₁ (fun h => hdisjoint a h a List.mem_cons_self rfl) s, ?_⟩
  rw [List.foldl_append, List.foldl_cons]
  exact hothers l₂ (List.nodup_cons.mp hl₂).1 _

/-- A pass over a list that acts on one entry alone. -/
theorem foldl_of_only {α : Type} {f : State → α → State} {l : List α} {a : α} (hl : l.Nodup) (ha : a ∈ l)
    (hf : ∀ u b, b ≠ a → f u b = u) (s : State) : l.foldl f s = f s a := by
  obtain ⟨_, rfl, h⟩ := foldl_read_of_only id hl ha hf s
  exact h

/-- What the block sends through port `n` leaves at once: the port is not up, or nothing waits on it (R502). -/
def LeavesAtOnce (s : State) (n : Nat) : Prop := (s.port n).state ≠ 2 ∨ LineFree s n

theorem LeavesAtOnce.congr {s t : State} {n : Nat} (h : LeavesAtOnce s n) (hstate : (t.port n).state = (s.port n).state)
    (hwaiting : (t.port n).waiting = (s.port n).waiting) : LeavesAtOnce t n := by
  unfold LeavesAtOnce LineFree
  rwa [hstate, hwaiting]

theorem serveTo_of_leavesAtOnce {s : State} {n : Nat} (h : LeavesAtOnce s n) (lim : Nat) : serveTo s n lim = s := by
  rcases h with hdown | hfree
  · exact if_neg (by simpa [Port.up] using hdown)
  · unfold serveTo
    rw [show (s.port n).waiting = [] from hfree]
    exact ite_self s

theorem send1_port_ne {s : State} {n m : Nat} (hm : m ≠ n) (dpart : Nat) (k : OutPkt) : (send1 s n dpart k).port m = s.port m :=
  (State.setPort_port _ _ _ _).trans (if_neg hm)

/-- A packet that leaves takes the port's sequence number, counter and line time, and is kept for replay (R498, R501). -/
theorem send1_port (s : State) (n dpart : Nat) (k : OutPkt) : ∃ k' seq ctr free kept, (send1 s n dpart k).port n = { s.port n with
      out := (s.port n).out ++ [k'], seqTx := seq, ctrTx := ctr, lineFree := free, unacked := kept } ∧
    k'.type = k.type ∧ k'.kind = k.kind ∧ k'.args = k.args := by
  refine ⟨_, _, _, _, _, (State.setPort_port _ _ _ _).trans (if_pos rfl), ?_⟩
  split <;> exact ⟨rfl, rfl, rfl⟩

theorem serveOne_port_ne {s : State} {n m : Nat} (hm : m ≠ n) (t : Nat) (w : Waiting) : (serveOne s n t w).port m = s.port m := by
  unfold serveOne
  exact (State.modPort_port _ _ _ _).trans ((if_neg hm).trans (send1_port_ne hm _ _))

/-- Service of a port leaves the other ports. -/
theorem serveWaiting_port_ne {n m : Nat} (hm : m ≠ n) (lim fuel : Nat) (s : State) : (serveWaiting n lim fuel s).port m = s.port m := by
  induction fuel generalizing s with
  | zero => rfl
  | succ fuel ih =>
    rw [serveWaiting]
    split
    · rfl
    · split
      · rfl
      · exact (ih _).trans (serveOne_port_ne hm _ _)

theorem servePort_port_ne {s : State} {n m : Nat} (hm : m ≠ n) : (servePort s n).port m = s.port m := by
  unfold servePort serveTo
  split
  · exact serveWaiting_port_ne hm _ _ s
  · rfl

theorem sendLink_port_ne {s : State} {n m : Nat} (hm : m ≠ n) (kind : Nat) (args : List Nat) (bytes : List Byte) :
    (sendLink s n kind args bytes).port m = s.port m :=
  (send1_port_ne hm _ _).trans (servePort_port_ne hm)

/-- A LINK message that leaves at once (R502): the port sends it and keeps everything else. -/
theorem sendLink_of_leavesAtOnce {s : State} {n : Nat} (h : LeavesAtOnce s n) (kind : Nat) (args : List Nat) (bytes : List Byte) :
    Sent s (sendLink s n kind args bytes) n 5 kind args ∧ ∃ out seq ctr free kept, (sendLink s n kind args bytes).port n =
      { s.port n with out := out, seqTx := seq, ctrTx := ctr, lineFree := free, unacked := kept } := by
  obtain ⟨k, _, _, _, _, hport, htype⟩ := send1_port s n 0 ⟨5, kind, args, bytes, []⟩
  have hsent : (sendLink s n kind args bytes).port n = _ := (congrArg (fun u : State => (send1 u n 0 _).port n)
    (serveTo_of_leavesAtOnce h _)).trans hport
  rw [Sent, hsent]
  exact ⟨⟨k, rfl, htype⟩, _, _, _, _, _, rfl⟩

/-- The same of a message that leaves with a change `f` of the port's own fields; `u` is the module with what the message is made of
drawn. -/
theorem sendLink_modPort {s u : State} {n : Nat} (hu : u.ports = s.ports) (h : LeavesAtOnce s n) {f : Port → Port}
    (hstate : (f (s.port n)).state = (s.port n).state) (hwaiting : (f (s.port n)).waiting = (s.port n).waiting)
    (hout : (f (s.port n)).out = (s.port n).out) (kind : Nat) (args : List Nat) (bytes : List Byte) :
    Sent s (sendLink (u.modPort n f) n kind args bytes) n 5 kind args ∧
      (∃ out seq ctr free kept, (sendLink (u.modPort n f) n kind args bytes).port n =
        { f (s.port n) with out := out, seqTx := seq, ctrTx := ctr, lineFree := free, unacked := kept }) ∧
      ∀ m, m ≠ n → (sendLink (u.modPort n f) n kind args bytes).port m = s.port m := by
  have hport (m : Nat) : (u.modPort n f).port m = if m = n then f (s.port n) else s.port m := by
    rw [State.modPort_port]
    simp only [State.port, hu]
  have hsame : (u.modPort n f).port n = f (s.port n) := (hport n).trans (if_pos rfl)
  have hready : LeavesAtOnce (u.modPort n f) n := h.congr (by rw [hsame, hstate]) (by rw [hsame, hwaiting])
  obtain ⟨⟨k, hsent, htype⟩, hkept⟩ := sendLink_of_leavesAtOnce hready kind args bytes
  rw [hsame] at hsent hkept
  exact ⟨⟨k, hsent.trans (by rw [hout]), htype⟩, hkept, fun m hm => (sendLink_port_ne hm _ _ _).trans ((hport m).trans (if_neg hm))⟩

/-- A port that goes down takes the kind of its loss and its cause, and the other ports stay as they are, as do the module's state and
its strap (R514). -/
theorem portDown_frame {s : State} {n : Nat} (hup : (s.port n).state ≠ 0) (kind : Nat) :
    (∃ p, (portDown s n kind).port n = Port.downed p (BitVec.ofNat 3 kind) (if kind = 3 ∨ kind = 4 then St.authFail else St.disabled)) ∧
      (∀ m, m ≠ n → (portDown s n kind).port m = s.port m) ∧ (portDown s n kind).sys.state = s.sys.state ∧
      (portDown s n kind).gov.slot = s.gov.slot := by
  have hslot : (portDown s n kind).gov.slot = s.gov.slot := by
    obtain ⟨-, _, -, hgov⟩ := portDown_effect hup kind
    rw [hgov]
  suffices hrest : _ ∧ _ ∧ _ from ⟨hrest.1, hrest.2.1, hrest.2.2, hslot⟩
  unfold portDown
  extract_lets p cause served recorded alerted lostMaster killed cut voided downed unaligned lost boxed
  have hserved : served.sys = s.sys := by
    obtain ⟨_, h⟩ := servePort_eq s n
    exact (congrArg State.sys h : (servePort s n).sys = _)
  have hvoided : WorkOnly served voided := by
    refine .trans ?_ (.foldl (fun u l => .modCore u _ _) _ _)
    refine .trans ?_ (.cutPeer _ n)
    refine .trans ?_ (.killXsends _ _)
    exact .trans (.recordNow _ _) (.raiseAlert _ 5)
  have hdowned (m : Nat) : downed.port m = if m = n then (voided.port n).downed (BitVec.ofNat 3 kind) cause else voided.port m :=
    State.modPort_port _ _ _ _
  have hvoided_ne (m : Nat) (hm : m ≠ n) : voided.port m = s.port m :=
    (congrArg (sget Port.fresh · m) hvoided.ports).trans (servePort_port_ne hm)
  have hunaligned : unaligned.ports = downed.ports ∧ unaligned.sys = voided.sys := by
    simp only [unaligned]
    split <;> exact ⟨rfl, rfl⟩
  have hlost : WorkOnly unaligned (if (boxed.mbox (56 + n)).owner.v.toNat = 16 + n then breakLock boxed (56 + n) else boxed) := by
    refine .trans ?_ (.ite (.breakLock _ _) (.refl _))
    exact .trans (.foldl (WorkOnly.portLostFor n) _ _) (.disableBox _ _)
  have hport (m : Nat) : (if (boxed.mbox (56 + n)).owner.v.toNat = 16 + n then breakLock boxed (56 + n) else boxed).port m =
      downed.port m := congrArg (sget Port.fresh · m) (hlost.ports.trans hunaligned.1)
  obtain ⟨_, _, _, hsys⟩ := hvoided.sys
  obtain ⟨_, _, _, hsys'⟩ := hlost.sys
  rw [if_neg hup]
  refine ⟨⟨voided.port n, (hport n).trans ((hdowned n).trans (if_pos rfl))⟩,
    fun m hm => (hport m).trans ((hdowned m).trans ((if_neg hm).trans (hvoided_ne m hm))), ?_⟩
  rw [hsys', hunaligned.2, hsys, hserved]

end Sys2Proof.Machine
end

section
/-! SUPPORT. The peer of a port is identified and keyed (R447, R448, R507, R508). -/

namespace Sys2Proof.Machine

/-- The port with both keys of a shared secret waiting, `d` being the direction of this module's traffic (R507). -/
def Port.withNewKeys (p : Port) (secret : BitVec 256) (d : Nat) : Port :=
  { p with newTx := some (linkKey secret d), newRx := some (linkKey secret (1 - d)) }

theorem startRekey_eq {s : State} {n : Nat} (hlower : lowerEnd s n = true) : startRekey s n =
    sendLink ((drawBits s).2.modPort n fun p => { p with kemDk := some (Config.kemKeygen (drawBits s).1).2 }) n 1 [0]
      (Config.kemKeygen (drawBits s).1).1 := if_neg (by simp [hlower])

theorem startRekey_of_upper {s : State} {n : Nat} (h : lowerEnd s n = false) : startRekey s n = s := if_pos (by simp [h])

theorem startRekey_sys (s : State) (n : Nat) : (startRekey s n).sys = s.sys := by
  cases hlower : lowerEnd s n
  · rw [startRekey_of_upper hlower]
  · obtain ⟨_, hsent⟩ := sendLink_eq ((drawBits s).2.modPort n fun p => { p with kemDk := some (Config.kemKeygen (drawBits s).1).2 }) n 1
      [0] (Config.kemKeygen (drawBits s).1).1
    rw [startRekey_eq hlower, hsent]
    rfl

/-- The lower-slot end begins a key exchange: KEM_KEY leaves, the decapsulation key is kept, and the other ports stay (R507). -/
theorem startRekey_of_lower {s : State} {n : Nat} (hlower : lowerEnd s n = true) (h : LeavesAtOnce s n) :
    Sent s (startRekey s n) n 5 1 [0] ∧
      (∃ dk out seq ctr free kept, (startRekey s n).port n =
        { s.port n with kemDk := some dk, out := out, seqTx := seq, ctrTx := ctr, lineFree := free, unacked := kept }) ∧
      ∀ m, m ≠ n → (startRekey s n).port m = s.port m := by
  rw [startRekey_eq hlower]
  obtain ⟨hsent, ⟨_, _, _, _, _, hport⟩, hothers⟩ := sendLink_modPort (u := (drawBits s).2) rfl h
    (f := fun p => { p with kemDk := some (Config.kemKeygen (drawBits s).1).2 }) rfl rfl rfl 1 [0] (Config.kemKeygen (drawBits s).1).1
  exact ⟨hsent, ⟨_, _, _, _, _, _, hport⟩, hothers⟩

/-- The loss of the ports of higher number leaves port `n`, the module's state and its strap. -/
theorem dropHigher_frame (s : State) (n : Nat) (serial : BitVec 64) : (dropHigher s n serial).port n = s.port n ∧
    (dropHigher s n serial).sys.state = s.sys.state ∧ (dropHigher s n serial).gov.slot = s.gov.slot := by
  refine List.foldlRecOn (motive := fun u : State => u.port n = s.port n ∧ u.sys.state = s.sys.state ∧ u.gov.slot = s.gov.slot) _ _
    ⟨rfl, rfl, rfl⟩ fun u hu m _ => ?_
  obtain ⟨hport, hstate, hslot⟩ := hu
  split
  · next h =>
    obtain ⟨hlt, hup, -⟩ := h
    obtain ⟨-, hport', hstate', hslot'⟩ := portDown_frame hup 5
    exact ⟨(hport' n hlt.ne).trans hport, hstate'.trans hstate, hslot'.trans hslot⟩
  · exact ⟨hport, hstate, hslot⟩

theorem lowerEnd_iff (s : State) (n : Nat) : lowerEnd s n = true ↔ s.gov.slot.toNat < (s.port n).peer.toNat := by
  unfold lowerEnd txDir
  split <;> simp [*]

/-- A module that has started does not wait for a peer to settle. -/
theorem identCmd_of_started {s : State} {n : Nat} {slot : BitVec 3} {serial : BitVec 64} {settled : Option (BitVec 3)} {eng : Bool}
    {chain sig : List Byte} (h : (identIn s n slot serial settled eng chain sig).sys.state ≠ 0) :
    identCmd s n slot serial settled eng chain sig = identIn s n slot serial settled eng chain sig := by
  unfold identCmd
  extract_lets identified
  have hsettling : settling identified = none := if_neg fun h' => h h'.1
  rw [hsettling]

/-- The module once port `n` has its peer, and the ports of higher number that reach the same peer are down (R448, R496). -/
def identified (s : State) (n : Nat) (slot : BitVec 3) (serial : BitVec 64) (settled : Option (BitVec 3)) (eng : Bool) : State :=
  dropHigher (s.modPort n fun p => { p with peer := slot, serial := serial, peerMaster := settled, engChain := eng, identOk := true }) n serial

theorem identified_frame (s : State) (n : Nat) (slot : BitVec 3) (serial : BitVec 64) (settled : Option (BitVec 3)) (eng : Bool) :
    (identified s n slot serial settled eng).port n =
        { s.port n with peer := slot, serial := serial, peerMaster := settled, engChain := eng, identOk := true } ∧
      (identified s n slot serial settled eng).sys.state = s.sys.state ∧ (identified s n slot serial settled eng).gov.slot = s.gov.slot := by
  obtain ⟨hport, hstate, hslot⟩ := dropHigher_frame (s.modPort n fun p =>
    { p with peer := slot, serial := serial, peerMaster := settled, engChain := eng, identOk := true }) n serial
  exact ⟨hport.trans ((State.modPort_port _ _ _ _).trans (if_pos rfl)), hstate, hslot⟩

section
variable {s : State} {n : Nat} (htraining : (s.port n).state = 1) (slot : BitVec 3) (serial : BitVec 64) (settled : Option (BitVec 3)) (eng : Bool)
  (chain sig : List Byte)
include htraining

/-- A peer whose signature or grade is refused takes its port down (R447). -/
theorem identIn_refused (h : ¬(Config.hssVerify (if eng then 4 else 3) (leBytes 1 slot.toNat ++ leBytes 8 serial.toNat ++ chain) sig = true ∧
    eng = s.sage.es)) : identIn s n slot serial settled eng chain sig = portDown s n 4 := by
  unfold identIn
  rw [if_neg (by simp [htraining]), if_neg (by simp [htraining]), if_pos]
  simpa [imp_iff_not_or] using h

/-- A peer that no other port reaches is identified, and a key exchange with it begins (R447, R448, R507). -/
theorem identIn_accepted (h : Config.hssVerify (if eng then 4 else 3) (leBytes 1 slot.toNat ++ leBytes 8 serial.toNat ++ chain) sig = true ∧
    eng = s.sage.es) (hnew : duplicatePeer s n slot serial = false) :
    identIn s n slot serial settled eng chain sig = startRekey (identified s n slot serial settled eng) n := by
  obtain ⟨hsigned, hgrade⟩ := h
  unfold identIn
  rw [if_neg (by simp [htraining]), if_neg (by simp [htraining]), if_neg (by simp only [hsigned]; simp [hgrade]), if_neg (by simp [hnew])]
  rfl

end

end Sys2Proof.Machine
end

section
/-! PROOFS. O45: link keys (R447, R448, R496, R507, R508). -/

namespace Sys2Proof.Proofs
open Sys2Proof Sys2Proof.Machine

section
variable {s : State} {n : PortN}

/-- IDENT on a port that trains (R447, R448, R507). -/
theorem ident_training {slot : BitVec 3} {serial : BitVec 64} (settled : Option (BitVec 3)) (eng : Bool) (chain sig : List Byte)
    (hready : s.sys.state = 1) (htraining : (s.port n).state = 1) (hnew : duplicatePeer s n slot serial = false) :
    ∃ t, exec (.ident n slot serial settled eng chain sig) s = .next t ∧
      if Config.hssVerify (if eng then 4 else 3) (leBytes 1 slot.toNat ++ leBytes 8 serial.toNat ++ chain) sig = true ∧ eng = s.sage.es then
        (t.port n).identOk = true ∧ (t.port n).peer = slot ∧ (t.port n).serial = serial ∧
        (s.gov.slot.toNat < slot.toNat → (t.port n).kemDk.isSome ∧ Sent s t n 5 1 [0])
      else (t.port n).state = 0 ∧ (t.port n).downKind = 4 ∧ (t.port n).cause = St.authFail := by
  refine ⟨_, rfl, ?_⟩
  by_cases hgood : Config.hssVerify (if eng then 4 else 3) (leBytes 1 slot.toNat ++ leBytes 8 serial.toNat ++ chain) sig = true ∧
      eng = s.sage.es
  · obtain ⟨hport, hstate, hslot⟩ := identified_frame s n slot serial settled eng
    have hin := identIn_accepted htraining slot serial settled eng chain sig hgood hnew
    rw [if_pos hgood, identCmd_of_started (by rw [hin, startRekey_sys, hstate, hready]; decide), hin]
    by_cases hlower : lowerEnd (identified s n slot serial settled eng) n = true
    · have htrains : LeavesAtOnce (identified s n slot serial settled eng) n := .inl (by rw [hport]; simp [htraining])
      obtain ⟨hsent, ⟨dk, _, _, _, _, _, hrekey⟩, -⟩ := startRekey_of_lower hlower htrains
      rw [Sent, hport] at hsent
      rw [hport] at hrekey
      have hdk : ((startRekey (identified s n slot serial settled eng) n).port n).kemDk = some dk := by rw [hrekey]
      exact ⟨by rw [hrekey], by rw [hrekey], by rw [hrekey], fun _ => ⟨by rw [hdk]; rfl, hsent⟩⟩
    · rw [startRekey_of_upper (eq_false_of_ne_true hlower)]
      rw [lowerEnd_iff, hslot, hport] at hlower
      exact ⟨by rw [hport], by rw [hport], by rw [hport], fun hlt => absurd hlt hlower⟩
  · have hup : (s.port n).state ≠ 0 := by rw [htraining]; decide
    obtain ⟨⟨p, hdown⟩, -, hstate, -⟩ := portDown_frame hup 4
    have hin := identIn_refused htraining slot serial settled eng chain sig hgood
    rw [if_neg hgood, identCmd_of_started (by rw [hin, hstate, hready]; decide), hin, hdown]
    exact ⟨rfl, rfl, rfl⟩

/-- KEM_KEY is answered with KEM_CT, and both new keys wait for their tick (R507). -/
theorem kemKey_answered {key : List Byte} (hup : (s.port n).state ≠ 0) (hlen : key.length = 1568) (hfree : LineFree s n) :
    ∃ t, exec (.kemKey n key) s = .next t ∧ (t.port n).newTx.isSome ∧ (t.port n).newRx.isSome ∧ (t.port n).keyTx = (s.port n).keyTx ∧
      (t.port n).keyRx = (s.port n).keyRx ∧ Sent s t n 5 1 [1] := by
  have hnot : ¬((s.port n).state = 0 ∨ key.length ≠ 1568) := not_or.mpr ⟨hup, not_not_intro hlen⟩
  refine ⟨_, congrArg Host.Outcome.next (if_neg hnot), ?_⟩
  obtain ⟨hsent, ⟨_, _, _, _, _, hport⟩, -⟩ := sendLink_modPort (s := s) (u := (drawBits s).2) (n := n) rfl (.inr hfree)
    (f := fun p => p.withNewKeys (Config.kemEncap key (drawBits s).1).2 (txDir (drawBits s).2 n))
    rfl rfl rfl 1 [1] (Config.kemEncap key (drawBits s).1).1
  exact ⟨(congrArg (fun p : Port => p.newTx.isSome) hport).trans rfl, (congrArg (fun p : Port => p.newRx.isSome) hport).trans rfl,
    (congrArg Port.keyTx hport).trans rfl, (congrArg Port.keyRx hport).trans rfl, hsent⟩

/-- The lower-slot end's port once it has the shared secret: its keys wait for the tick that KEY_AT names (R507; log 69). -/
def keyed (s : State) (n : Nat) (secret : BitVec 256) (p : Port) : Port :=
  { p.withNewKeys secret (txDir s n) with kemDk := none, switchTick := some (BitVec.ofNat 64 (s.tick + 16)) }

/-- KEM_CT gives the lower-slot end its keys, and KEY_AT names their tick (R507; log 69). -/
theorem kemCt_named (ct : List Byte) {dk : BitVec 256} (hdk : (s.port n).kemDk = some dk) (hfree : LineFree s n) :
    ∃ t, exec (.kemCt n ct) s = .next t ∧ t = { s with ports := t.ports } ∧
      (t.port n).newTx = some (linkKey (Config.kemDecap dk ct) (txDir s n)) ∧
      (t.port n).newRx = some (linkKey (Config.kemDecap dk ct) (1 - txDir s n)) ∧ (t.port n).kemDk = none ∧
      (t.port n).switchTick = some (BitVec.ofNat 64 (s.tick + 16)) ∧ Sent s t n 5 2 [s.tick + 16] := by
  have heq : kemCtIn s n ct = sendLink (s.modPort n (keyed s n (Config.kemDecap dk ct))) n 2 [s.tick + 16] [] := by
    unfold kemCtIn
    rw [hdk]
    rfl
  refine ⟨_, congrArg Host.Outcome.next heq, ?_⟩
  obtain ⟨hsent, ⟨_, _, _, _, _, hport⟩, -⟩ := sendLink_modPort (f := keyed s n (Config.kemDecap dk ct)) rfl (.inr hfree) rfl rfl
    rfl 2 [s.tick + 16] []
  obtain ⟨_, hports⟩ := sendLink_eq (s.modPort n (keyed s n (Config.kemDecap dk ct))) n 2 [s.tick + 16] []
  exact ⟨by rw [hports]; rfl, (congrArg Port.newTx hport).trans rfl, (congrArg Port.newRx hport).trans rfl,
    (congrArg Port.kemDk hport).trans rfl, (congrArg Port.switchTick hport).trans rfl, hsent⟩

/-- At the tick of KEY_AT the new keys are in force with counters 0 (R507). -/
theorem linkKeySwitch_of_keys {u : BitVec 64} {tx rx : BitVec 256} (htick : (s.port n).switchTick = some u) (htx : (s.port n).newTx = some tx)
    (hrx : (s.port n).newRx = some rx) (hmode : configured s n = (s.port n).live) (hfree : LineFree s n) :
    linkKeySwitch s n = (s.advance (32 * u.toNat)).modPort n fun p =>
      { p with keyTx := tx, keyRx := rx, oldRx := p.keyRx, newTx := none, newRx := none, ctrTx := 0, ctrRx := 0, switchTick := none
               oldUntil := some (u + 2) } := by
  have hserved : serveTo (s.advance (32 * u.toNat)) n (lineUnits * 32 * u.toNat) = s.advance (32 * u.toNat) :=
    serveTo_of_leavesAtOnce (s := s.advance (32 * u.toNat)) (.inr hfree) _
  unfold linkKeySwitch
  simp only [htick, htx, hrx, hserved]
  refine if_neg fun h => ?_
  obtain ⟨-, -, -, hother, -⟩ := h
  refine hother (hmode.trans ?_)
  rw [State.modPort_port, if_pos rfl]
  rfl

/-- Two ticks later the old receive key is zeroised (R507). -/
theorem linkKeySwitch_of_old {u : BitVec 64} (htick : (s.port n).switchTick = none) (hold : (s.port n).oldUntil = some u) :
    linkKeySwitch s n = (s.advance (32 * u.toNat)).modPort n fun p => { p with oldRx := 0, oldUntil := none } := by
  unfold linkKeySwitch
  simp only [htick, hold]

/-- FNL_REKEY of one port that is up begins its exchange alone. -/
theorem fnlRekey_one (hup : (s.port n).state = 2) : fnlRekey s (1#7 <<< n.val) = startRekey s n := by
  have hbit : ∀ (n : PortN) (m : Fin 7), (1#7 <<< n.val).getLsbD m.val = decide (m = n) := by decide
  have hself : (1#7 <<< n.val).getLsbD n.val = true := by simp
  refine (foldl_of_only List.nodup_range (List.mem_range.mpr n.isLt) (fun u m hm => if_neg fun h => ?_) s).trans (if_pos ⟨hself, hup⟩)
  by_cases hlt : m < 7
  · have hsame := (hbit n ⟨m, hlt⟩).symm.trans h.1
    exact hm (congrArg Fin.val (of_decide_eq_true hsame))
  · exact absurd h.1 (by rw [BitVec.getLsbD_of_ge _ _ (not_lt.mp hlt)]; decide)

end

/-- Settles O45: the messages of the exchange by the lemmas above, each a message that leaves at once with a change of the port's own keys
(`sendLink_modPort`); the switch in its two moments; FNL_REKEY and the counter's limit both begin the exchange
(`startRekey_of_lower`). -/
theorem linkKeysAreExchanged : Obligations.LinkKeysAreExchanged := by
  unfold Obligations.LinkKeysAreExchanged
  intro s n
  refine ⟨fun slot serial settled eng chain sig hready htraining hnew => ident_training settled eng chain sig hready htraining hnew,
    fun key hup hlen hfree => kemKey_answered hup hlen hfree, fun ct dk hdk hfree => kemCt_named ct hdk hfree, ?named, ?switch, ?old, ?rekey⟩
  case named =>
    intro u hkeys
    have hnot : ¬(s.port n).newTx.isNone = true := by rw [Option.isNone_iff_eq_none]; exact Option.isSome_iff_ne_none.mp hkeys
    refine ⟨_, congrArg Host.Outcome.next (if_neg hnot), rfl, ?_, ?_⟩
    · exact (State.modPort_port _ _ _ _).trans (if_pos rfl)
    · exact fun m hm => (State.modPort_port _ _ _ _).trans (if_neg hm)
  case switch =>
    intro u tx rx htick htx hrx hmode hfree
    refine ⟨_, congrArg Host.Outcome.next (linkKeySwitch_of_keys htick htx hrx hmode hfree), rfl, ?_, ?_⟩
    · exact (State.modPort_port _ _ _ _).trans (if_pos rfl)
    · exact fun m hm => (State.modPort_port _ _ _ _).trans (if_neg hm)
  case old =>
    intro u htick hold
    refine ⟨_, congrArg Host.Outcome.next (linkKeySwitch_of_old htick hold), rfl, ?_, ?_⟩
    · exact (State.modPort_port _ _ _ _).trans (if_pos rfl)
    · exact fun m hm => (State.modPort_port _ _ _ _).trans (if_neg hm)
  case rekey =>
    intro hup hlt hfree
    have hlower : lowerEnd s n = true := (lowerEnd_iff s n).mpr hlt
    obtain ⟨hsent, ⟨dk, _, _, _, _, _, hport⟩, hothers⟩ := startRekey_of_lower hlower (.inr hfree)
    have hdk : ((startRekey s n).port n).kemDk.isSome := by rw [hport]; rfl
    constructor
    · intro hready
      exact ⟨_, congrArg Host.Outcome.next ((gate_pf0 _ hready rfl (by decide)).trans (fnlRekey_one hup)), hdk, hsent, hothers⟩
    · intro hcount hmode
      refine ⟨startRekey s n, congrArg Host.Outcome.next ?_, hdk, hsent⟩
      unfold counterRekey
      simp only [hmode]
      exact if_pos ⟨hup, .inl hcount, rfl⟩

end Sys2Proof.Proofs
end

section
/-! SUPPORT. SPDM sessions, responses and signatures: what each operation reads and changes (R420 to R422, R428, Table 13-5). -/

namespace Sys2Proof.Machine

/-- In READY the module serves SPDM (R526). -/
theorem spdm_of_ready {s : State} (h : s.sys.state = 1) (fn : Option VfN) (f : State → State) : spdm s fn f = f s := by
  unfold spdm
  rw [h]
  rfl

@[simp] theorem sessionOf_modSession (s : State) (ix : Nat) (f : Session → Session) (k : Nat) :
    sessionOf (modSession s ix f) k = if k = ix then f (sessionOf s ix) else sessionOf s k := sget_smod _ _ _ _ _
theorem sessionOf_modSage {f : Sage → Sage} (hf : ∀ g, (f g).sessions = g.sessions) (s : State) (k : Nat) :
    sessionOf (s.modSage f) k = sessionOf s k := congrArg (sget Session.fresh · k) (hf s.sage)
@[simp] theorem sessionOf_respond (s : State) (ix : Nat) (bs : List Byte) (k : Nat) : sessionOf (respond s ix bs) k = sessionOf s k := rfl
@[simp] theorem sessionOf_spdmError (s : State) (ix code data k : Nat) : sessionOf (spdmError s ix code data) k = sessionOf s k := rfl
@[simp] theorem sessionOf_vendorRsp (s : State) (ix : Nat) (st : Status) (data : List Byte) (k : Nat) :
    sessionOf (vendorRsp s ix st data) k = sessionOf s k := rfl

/-- What a DOE object holds after a response. -/
@[simp] theorem doe_respond (s : State) (ix : Nat) (bs : List Byte) : sget [] (respond s ix bs).sage.doe ix = bs := sget_sput_same _ _ _ _
@[simp] theorem doe_spdmError (s : State) (ix code data : Nat) : sget [] (spdmError s ix code data).sage.doe ix = spdmHdr 0x7F code data :=
  doe_respond s ix _

/-- Of a certified tree with leaves left a signature takes the next one (R421). -/
theorem signNext_of_leaf {s : State} (htree : s.sage.treeCertified = true) (hleaf : s.sage.leaves ≠ 0) (msg : List Byte) :
    ∃ sig ok, signNext s msg = some (sig, s.modSage fun g => { g with leaves := g.leaves - 1, signOk := ok }) := by
  have hsame : (if s.sage.leaves = 0 ∧ s.sage.topLeft ∧ s.sage.flashGood then s.sage.certify else s.sage) = s.sage :=
    if_neg fun h => hleaf h.1
  unfold signNext
  rw [hsame]
  exact ⟨_, _, if_neg (not_or.mpr ⟨hleaf, by simp [htree]⟩)⟩

/-- A signature takes a token of the bucket and a leaf (R421, R422). -/
theorem signFor_of_token {s : State} (htree : s.sage.treeCertified = true) (hleaf : s.sage.leaves ≠ 0) (htoken : s.sage.tokens ≠ 0)
    (msg : List Byte) : ∃ sig ok, signFor s none msg =
      (.ok sig, s.modSage fun g => { g with leaves := g.leaves - 1, signOk := ok, tokens := g.tokens - 1 }) := by
  obtain ⟨sig, ok, hsign⟩ := signNext_of_leaf htree hleaf msg
  refine ⟨sig, ok, ?_⟩
  unfold signFor
  rw [hsign]
  exact if_neg htoken

/-- Without a token nothing is signed, and that is counted (R422). -/
theorem signFor_of_no_token {s : State} (htree : s.sage.treeCertified = true) (hleaf : s.sage.leaves ≠ 0) (htoken : s.sage.tokens = 0)
    (ix : Option Nat) (msg : List Byte) :
    signFor s ix msg = (.error St.busy, s.modSage fun g => { g with busy := satAdd g.busy 1 }) := by
  obtain ⟨_, _, hsign⟩ := signNext_of_leaf htree hleaf msg
  unfold signFor
  rw [hsign]
  exact if_pos htoken

section
variable {s : State} {fn : Option VfN} (hready : s.sys.state = 1)
include hready

theorem getVersion_of_ready : getVersion s fn = respond
    (modSession s (doeIx fn) fun x => { x with version := true, caps := false, algs := false }) (doeIx fn) (spdmHdr 0x04 0 0 ++ [0, 1, 0, 0x13]) :=
  spdm_of_ready hready fn _

theorem getCapabilities_of_version (h : (sessionOf s (doeIx fn)).version = true) : getCapabilities s fn = respond
    (modSession s (doeIx fn) fun x => { x with caps := true }) (doeIx fn) (spdmHdr 0x61 0 0 ++ leBytes 4 16384) :=
  (spdm_of_ready hready fn _).trans (if_neg (by simp [h]))

theorem negotiate_of_caps (h : (sessionOf s (doeIx fn)).caps = true) : negotiate s fn true true true true = respond
    (modSession s (doeIx fn) fun x => { x with algs := true }) (doeIx fn) (spdmHdr 0x63 0 0 ++ leBytes 2 1 ++ leBytes 2 2) :=
  (spdm_of_ready hready fn _).trans ((if_neg (by simp [h])).trans (if_neg (by simp)))

theorem getDigests_of_algs (h : (sessionOf s (doeIx fn)).algs = true) : getDigests s fn = respond s (doeIx fn)
    (spdmHdr 0x01 0 1 ++ leBytes 48 (Config.sha384 (Config.certChain s.sage.serial)).toNat) :=
  (spdm_of_ready hready fn _).trans (if_neg (by simp [h]))

theorem getCertificate_of_algs (h : (sessionOf s (doeIx fn)).algs = true) : getCertificate s fn 0 = respond s (doeIx fn)
    (spdmHdr 0x02 0 0 ++ Config.certChain s.sage.serial) :=
  (spdm_of_ready hready fn _).trans ((if_neg (by simp [h])).trans (if_neg (by simp)))

/-- CHALLENGE draws the responder's nonce and signs its response with a token and a leaf (R421, R422). -/
theorem challenge_signed (halgs : (sessionOf s (doeIx fn)).algs = true) (htree : s.sage.treeCertified = true) (hleaf : s.sage.leaves ≠ 0)
    (htoken : s.sage.tokens ≠ 0) (nonce : BitVec 256) : ∃ bs ok, challenge s fn 0 nonce =
      respond ((drawBits s).2.modSage fun g => { g with leaves := g.leaves - 1, signOk := ok, tokens := g.tokens - 1 }) (doeIx fn)
        (spdmHdr 0x03 0 1 ++ bs) := by
  choose sig ok hsign using signFor_of_token (s := (drawBits s).2) htree hleaf htoken
  unfold challenge
  rw [spdm_of_ready hready, if_neg (by simp [halgs]), if_neg (by simp)]
  simp only [hsign, List.append_assoc]
  exact ⟨_, _, rfl⟩

/-- Without a token CHALLENGE is answered Busy, and that is counted (R422). -/
theorem challenge_busy (halgs : (sessionOf s (doeIx fn)).algs = true) (htree : s.sage.treeCertified = true) (hleaf : s.sage.leaves ≠ 0)
    (htoken : s.sage.tokens = 0) (nonce : BitVec 256) : challenge s fn 0 nonce =
      spdmError ((drawBits s).2.modSage fun g => { g with busy := satAdd g.busy 1 }) (doeIx fn) 3 St.busy.toNat := by
  refine (spdm_of_ready hready fn _).trans ?_
  rw [if_neg (by simp [halgs]), if_neg (by simp)]
  simp only [signFor_of_no_token (s := (drawBits s).2) htree hleaf htoken]
  rfl

/-- KEY_EXCHANGE where no session stands adds an exchange to those that wait for FINISH, with a token and a leaf (R421, R422, R428). -/
theorem keyExchange_signed (halgs : (sessionOf s (doeIx fn)).algs = true) (htree : s.sage.treeCertified = true) (hleaf : s.sage.leaves ≠ 0)
    (htoken : s.sage.tokens ≠ 0) (hup : (sessionOf s (doeIx fn)).up = false) (hdebug : s.sage.debug = 0 ∨ fn = none) {key : List Byte}
    (hlen : key.length = 1568) : ∃ h bs ok, keyExchange s fn key =
      respond (modSession ((drawBits s).2.modSage fun g => { g with leaves := g.leaves - 1, signOk := ok, tokens := g.tokens - 1 }) (doeIx fn)
        fun y => { y with kex := y.kex ++ [h] }) (doeIx fn) bs := by
  have hpermitted : ¬(s.sage.debug ≠ 0 ∧ fn.isSome = true) := by
    rintro ⟨hne, hsome⟩
    rcases hdebug with h | rfl
    · exact hne h
    · cases hsome
  choose sig ok hsign using signFor_of_token (s := (drawBits s).2) htree hleaf htoken
  unfold keyExchange
  rw [spdm_of_ready hready, if_neg (by simp [hup]), if_neg hpermitted, if_neg (by simp [halgs]), if_neg (not_not_intro hlen)]
  simp only [hsign]
  exact ⟨_, _, _, rfl⟩

/-- FINISH with the verify data of an exchange establishes the session on its secret (R428). -/
theorem finishReq_found (hup : (sessionOf s (doeIx fn)).up = false) {verify : BitVec 384} {h : BitVec 384 × BitVec 384 × Nat}
    (hfound : (sessionOf s (doeIx fn)).kex.find?
      (fun h => Config.hmac384 (leBytes 48 h.1.toNat) (leBytes 48 h.2.1.toNat) == verify) = some h) :
    finishReq s fn verify = respond (modSession s (doeIx fn) fun y =>
      { y with kex := [], up := true, secret := h.1, th := Config.sha384 (leBytes 48 h.2.1.toNat ++ leBytes 48 verify.toNat),
               sigAt := h.2.2, claimed := false, proven := false, updates := 0 }) (doeIx fn) (spdmHdr 0x65 0 0) := by
  have hkex : (sessionOf s (doeIx fn)).kex ≠ [] := List.ne_nil_of_mem (List.mem_of_find?_eq_some hfound)
  refine (spdm_of_ready hready fn _).trans ?_
  rw [if_neg (by simp [hup]), if_neg (by simpa using hkex)]
  simp only [hfound]

/-- Any other verify data gives up the oldest exchange and counts as a failed authentication. -/
theorem finishReq_unknown (hup : (sessionOf s (doeIx fn)).up = false) (hkex : (sessionOf s (doeIx fn)).kex ≠ []) {verify : BitVec 384}
    (hnone : ∀ h ∈ (sessionOf s (doeIx fn)).kex, Config.hmac384 (leBytes 48 h.1.toNat) (leBytes 48 h.2.1.toNat) ≠ verify) :
    finishReq s fn verify = spdmError ((modSession s (doeIx fn) fun y => { y with kex := y.kex.drop 1 }).modSage fun g =>
      { g with deniedAuth := satAdd g.deniedAuth 1 }) (doeIx fn) 6 0 := by
  have hfound := List.find?_eq_none
    (p := fun h : BitVec 384 × BitVec 384 × Nat => Config.hmac384 (leBytes 48 h.1.toNat) (leBytes 48 h.2.1.toNat) == verify).mpr
    (by simpa using hnone)
  refine (spdm_of_ready hready fn _).trans ?_
  rw [if_neg (by simp [hup]), if_neg (by simpa using hkex)]
  simp only [hfound]

end

end Sys2Proof.Machine
end

section
/-! PROOFS. O30: SPDM identity and signatures (R421, R422, R428, Table 13-5). -/

namespace Sys2Proof.Proofs
open Sys2Proof Sys2Proof.Machine

/-- The negotiation of Table 13-5 and the identity that it leads to. -/
theorem spdm_negotiates {s : State} (fn : Option VfN) (hready : s.sys.state = 1) :
    (∃ t, exec (.getVersion fn) s = .next t ∧ t = { s with sage := t.sage } ∧
      sessionOf t (doeIx fn) = { sessionOf s (doeIx fn) with version := true, caps := false, algs := false } ∧
      sget [] t.sage.doe (doeIx fn) = spdmHdr 0x04 0 0 ++ [0, 1, 0, 0x13]) ∧
    ((sessionOf s (doeIx fn)).version = true → ∃ t, exec (.getCapabilities fn) s = .next t ∧ t = { s with sage := t.sage } ∧
      sessionOf t (doeIx fn) = { sessionOf s (doeIx fn) with caps := true }) ∧
    ((sessionOf s (doeIx fn)).caps = true → ∃ t, exec (.negotiateAlgorithms fn true true true true) s = .next t ∧
      t = { s with sage := t.sage } ∧ sessionOf t (doeIx fn) = { sessionOf s (doeIx fn) with algs := true }) ∧
    ((sessionOf s (doeIx fn)).algs = true →
      (∃ t, exec (.getDigests fn) s = .next t ∧ t = { s with sage := { s.sage with doe := t.sage.doe } } ∧
        sget [] t.sage.doe (doeIx fn) = spdmHdr 0x01 0 1 ++ leBytes 48 (Config.sha384 (Config.certChain s.sage.serial)).toNat) ∧
      (∃ t, exec (.getCertificate fn 0) s = .next t ∧ t = { s with sage := { s.sage with doe := t.sage.doe } } ∧
        sget [] t.sage.doe (doeIx fn) = spdmHdr 0x02 0 0 ++ Config.certChain s.sage.serial)) := by
  refine ⟨?_, fun hversion => ?_, fun hcaps => ?_, fun halgs => ⟨?_, ?_⟩⟩
  · exact ⟨_, congrArg Host.Outcome.next (getVersion_of_ready hready), rfl, by simp, doe_respond _ _ _⟩
  · exact ⟨_, congrArg Host.Outcome.next (getCapabilities_of_version hready hversion), rfl, by simp⟩
  · exact ⟨_, congrArg Host.Outcome.next (negotiate_of_caps hready hcaps), rfl, by simp⟩
  · exact ⟨_, congrArg Host.Outcome.next (getDigests_of_algs hready halgs), rfl, doe_respond _ _ _⟩
  · exact ⟨_, congrArg Host.Outcome.next (getCertificate_of_algs hready halgs), rfl, doe_respond _ _ _⟩

/-- Settles O30: each request by its equation in READY; a signature by `signFor_of_token`, a refused one by `signFor_of_no_token`. -/
theorem spdmIdentityAndSignatures : Obligations.SpdmIdentityAndSignatures := by
  unfold Obligations.SpdmIdentityAndSignatures
  refine ⟨fun s fn hready => spdm_negotiates fn hready,
    fun s fn hready => ⟨fun htree hleaf halgs => ⟨?signed, ?unsigned, ?exchange⟩, ?finish⟩⟩
  case signed =>
    intro htoken nonce
    obtain ⟨bs, ok, heq⟩ := challenge_signed hready halgs htree hleaf htoken nonce
    exact ⟨_, congrArg Host.Outcome.next heq, rfl, rfl, rfl, by rw [doe_respond]; rfl⟩
  case unsigned =>
    intro htoken nonce
    exact ⟨_, congrArg Host.Outcome.next (challenge_busy hready halgs htree hleaf htoken nonce), rfl, rfl, by rw [doe_spdmError]; rfl⟩
  case exchange =>
    intro htoken key hup hdebug hlen
    obtain ⟨h, bs, ok, heq⟩ := keyExchange_signed hready halgs htree hleaf htoken hup hdebug hlen
    refine ⟨_, h, congrArg Host.Outcome.next heq, rfl, rfl, ?_⟩
    rw [sessionOf_respond, sessionOf_modSession, if_pos rfl]
    exact ⟨rfl, hup⟩
  case finish =>
    intro verify hup hkex
    refine ⟨fun h hfound => ⟨_, congrArg Host.Outcome.next (finishReq_found hready hup hfound), ?_⟩,
      fun hnone => ⟨_, congrArg Host.Outcome.next (finishReq_unknown hready hup hkex hnone), ?_, rfl⟩⟩
    · rw [sessionOf_respond, sessionOf_modSession, if_pos rfl]
      exact ⟨rfl, rfl, rfl, rfl, rfl⟩
    · rw [sessionOf_spdmError, sessionOf_modSage, sessionOf_modSession, if_pos rfl]
      · exact hup
      · exact fun _ => rfl

end Sys2Proof.Proofs
end

section
/-! SUPPORT. Commands of the module on MGMT while it runs commands (R441, R446, R449, R528, R536): what each comes to. -/

namespace Sys2Proof.Machine

/-- While the module runs commands nothing keeps an operator command from being taken (Table 17-7). -/
theorem idleStatus_of_ready {s : State} (h : Ready s) : idleStatus s = none := by
  obtain ⟨hstate, hzero⟩ := h
  simp [idleStatus, hstate, hzero]

theorem not_parsley_of_ready {s : State} (h : Ready s) : s.parsley = false := by
  obtain ⟨hstate, -⟩ := h
  simp [State.parsley, hstate]

/-- MGMT may send the commands of PF0, with any code, and needs no acknowledge (R441). -/
theorem mgmt_permitted : (!(Via.isPf0 .mgmt || Via.isMgmt .mgmt)) = false := rfl
theorem mgmt_boxAccepts (cmd : BitVec 16) : (!boxAccepts .mgmt cmd) = false := rfl
theorem accept_mgmt (s : State) : accept s .mgmt = s := rfl

/-- ATTEST on MGMT signs its report with a token and a leaf, and the report is returned in the MGMT buffer (R441). -/
theorem attest_mgmt_signed {s : State} (hready : Ready s) (htree : s.sage.treeCertified = true) (hleaf : s.sage.leaves ≠ 0)
    (htoken : s.sage.tokens ≠ 0) (nonce : BitVec 256) (first : BitVec 16) (page : Nat) : ∃ bs ok,
      attest s .mgmt false nonce first page = answerData (s.modSage fun g =>
        { g with leaves := g.leaves - 1, signOk := ok, tokens := g.tokens - 1 }) .mgmt 6 page St.ok bs := by
  have hstop : attestStop s = none := by
    unfold attestStop
    rw [hready.1]
    rfl
  obtain ⟨sig, ok, hsign⟩ := signFor_of_token htree hleaf htoken (reportBody s nonce none)
  refine ⟨reportBody s nonce none ++ sig, ok, ?_⟩
  have hreply : attest s .mgmt false nonce first page = attestReply s .mgmt page (reportBody s nonce none) := by
    unfold attest
    rw [hstop]
    rfl
  rw [hreply]
  unfold attestReply
  simp only [askSession, hsign]

/-- TELEMETRY on MGMT is answered with a free value (log 10). -/
theorem telemetry_mgmt {s : State} (hready : Ready s) (page : Nat) : telemetry s .mgmt page =
    answerData (draw s).2 .mgmt 10 page St.ok ((Config.freeTelemetry s.freeCtr).take 4096) := by
  unfold telemetry
  rw [hready.1]
  rfl

/-- FW_UPDATE on MGMT of a staged image: programming begins where it passes R424, and else its verdict is the answer. -/
theorem fwUpdate_mgmt_staged {s : State} {first len : Nat} {gs : List Nat} (hready : Ready s) (hidle : s.sys.fwUpdate ≠ 1) (hpos : 0 < len)
    (hmax : len ≤ 33554432) (hstaged : stagedPages s first len = some gs) (hok : PagesOk s) : fwUpdate s .mgmt first len =
      if fwCheck s (moduleBytes s gs len) ≠ St.ok then
        answer (s.modSys fun y => { y with fwStatus := fwCheck s (moduleBytes s gs len) }) .mgmt 9 0 (fwCheck s (moduleBytes s gs len)) 0 []
      else s.modSys fun y => { y with fwUpdate := 1, fwStatus := St.accepted, fwVia := some .mgmt } := by
  have hlen : ¬(len = 0 ∨ 33554432 < len) := by omega
  unfold fwUpdate
  simp only [mgmt_permitted, mgmt_boxAccepts, Bool.false_eq_true, if_false, not_parsley_of_ready hready, idleStatus_of_ready hready,
    if_neg hidle, if_neg hlen, hstaged]
  exact onPages_of_ok _ fun g _ => hok g

/-- What a module-wide zeroisation leaves of memories, partitions, contexts, tenants and sessions (R446). -/
def AllZero (t : State) : Prop :=
  (∀ a, bget t.stack a = 0 ∧ bget t.scratch a = 0 ∧ bget t.cim a = 0 ∧ bget t.scales a = 0 ∧ bget t.cacheBytes a = 0) ∧
    (∀ p, t.part p = Part.fresh) ∧ (∀ c, t.ctx c = Ctx.fresh) ∧ (∀ k, tenantRec t k = Tenant.fresh) ∧
    ∀ ix, sessionOf t ix = Session.fresh

theorem zeroise_allZero (s : State) (k : BitVec 3) : AllZero (zeroise s k) :=
  ⟨fun _ => ⟨rfl, rfl, rfl, rfl, rfl⟩, fun _ => rfl, fun _ => rfl, fun _ => rfl, fun _ => rfl⟩

theorem zeroise_sys (s : State) (k : BitVec 3) : (zeroise s k).sys = s.sys := rfl

/-- The module's work before a zeroisation by command, ended with DISABLED (R446). -/
def workCleared (s : State) : State :=
  endLoads (endAllReqs ((List.range 8).foldl (fun s p => endJobNow s p .empty St.disabled .idle) (endAllPairs s)) St.disabled) St.disabled

theorem workCleared_workOnly (s : State) : WorkOnly s (workCleared s) := by
  refine .trans (t := endAllPairs s) (.withCxl s _) ?_
  exact .trans (.trans (.foldl (fun _ _ => .endJobNow _ _ _ _ _) _ _) (.endAllReqs _ _)) (.endLoads _ _)

theorem clearOut_eq (s : State) (k : BitVec 3) : clearOut s k = zeroise (workCleared s) k := rfl

theorem clearOut_allZero (s : State) (k : BitVec 3) : AllZero (clearOut s k) := clearOut_eq s k ▸ zeroise_allZero _ k

theorem clearOut_sage (s : State) (k : BitVec 3) : (clearOut s k).sage.zeroising = some k ∧ (clearOut s k).sage.debugNonce = none := by
  rw [clearOut_eq]
  exact ⟨rfl, rfl⟩

theorem clearOut_state (s : State) (k : BitVec 3) : (clearOut s k).sys.state = s.sys.state := by
  obtain ⟨_, _, _, hsys⟩ := (workCleared_workOnly s).sys
  rw [clearOut_eq, zeroise_sys, hsys]

/-- ZEROISE on MGMT clears the module out (R446, R537). -/
theorem zeroiseCmd_mgmt {s : State} (hready : Ready s) :
    zeroiseCmd s .mgmt = (clearOut s 2).modSage fun g => { g with zeroVia := some (.mgmt, 7) } := by
  unfold zeroiseCmd
  simp only [mgmt_permitted, mgmt_boxAccepts, Bool.false_and, Bool.false_eq_true, if_false, not_parsley_of_ready hready,
    idleStatus_of_ready hready, accept_mgmt]

/-- The running jobs of all partitions marked to stop. -/
def allStopping (s : State) (st : Status) : State := (List.range 8).foldl (fun s p => markStop s p st) s

theorem sameBytes_modSage (s : State) (f : Sage → Sage) : SameBytes s (s.modSage f) := sameBytes_of_eq rfl rfl rfl rfl rfl

theorem sameBytes_answer_mgmt (s : State) (cmd ctx : BitVec 16) (st : Status) (value : Nat) (data : List Byte) :
    SameBytes s (answer s .mgmt cmd ctx st value data) := sameBytes_of_eq rfl rfl rfl rfl rfl

/-- The nonce of the debug challenge spent (R449). -/
def nonceSpent (s : State) : State := s.modSage fun g => { g with debugNonce := none }

/-- DEBUG_UNLOCK on MGMT spends the nonce; it opens the scope over a cleared module, or counts the refusal (R449, R450). -/
theorem debugUnlock_mgmt {s : State} (hready : Ready s) (scope : BitVec 8) (sig : List Byte) : debugUnlock s .mgmt scope sig =
    if unlockOk s scope sig = true then
      ((clearOut (nonceSpent s) 3).modSys fun y => { y with state := 4 }).modSage fun g =>
        { g with debug := scope.setWidth 2, zeroVia := some (.mgmt, 0x0031) }
    else answer ((nonceSpent s).modSage fun g => { g with deniedAuth := satAdd g.deniedAuth 1 }) .mgmt 0x0031 0 St.authFail 0 [] := by
  refine (permitted_of_ready hready rfl 0 _).trans ?_
  by_cases hopens : unlockOk s scope sig = true
  · rw [if_pos hopens]
    exact if_neg (by simp [hopens])
  · rw [if_neg hopens]
    exact if_pos (by simp [hopens])

theorem allStopping_eq (s : State) (st : Status) : ∃ ps, allStopping s st = { s with parts := ps } := by
  refine List.foldlRecOn (motive := fun u : State => ∃ ps, u = { s with parts := ps }) (List.range 8) _ ⟨_, rfl⟩ fun u h p _ => ?_
  obtain ⟨_, rfl⟩ := h
  exact ⟨_, rfl⟩

theorem allStopping_part {s : State} {p : Nat} (hp : p < 8) (hrun : (s.part p).running.isSome) (hstop : (s.part p).stop = none) (st : Status) :
    ((allStopping s st).part p).stop = some (st, s.tick + 1) := by
  have hother (u : State) (b : Nat) (hb : b ≠ p) :
      ((markStop u b st).tick, (markStop u b st).part p) = (u.tick, u.part p) := by
    unfold markStop
    rw [State.modPart_part, if_neg (Ne.symm hb)]
    rfl
  obtain ⟨u, hu, hall⟩ := foldl_read_of_only (fun u : State => (u.tick, u.part p)) List.nodup_range (List.mem_range.mpr hp) hother s
  obtain ⟨htick, hpart⟩ := Prod.mk.inj hu
  have hstopped := markStop_part_of_running (s := u) (p := p) (hpart ▸ hrun) (hpart ▸ hstop) st
  unfold allStopping
  rw [(Prod.mk.inj hall).2, hstopped, htick]

/-- POWER_OFF on MGMT marks the running jobs and begins the zeroisation that ends in OFF (R536). -/
theorem powerOff_mgmt {s : State} (hready : Ready s) : powerOff s .mgmt =
    (allStopping s St.disabled).modSage fun g => { g with zeroising := some 5, zeroVia := some (.mgmt, 8) } := by
  unfold powerOff
  simp only [mgmt_permitted, mgmt_boxAccepts, Bool.false_eq_true, if_false, not_parsley_of_ready hready, idleStatus_of_ready hready,
    accept_mgmt]
  rfl

end Sys2Proof.Machine
end

section
/-! PROOFS. O34: the management commands (R441, R446, R449, R528, R536). -/

namespace Sys2Proof.Proofs
open Sys2Proof Sys2Proof.Machine

/-- Settles O34: each command on MGMT comes to the state that its lemma gives (`attest_mgmt_signed` to `debugUnlock_mgmt`); the work that
ZEROISE and DEBUG_UNLOCK end leaves SYS_STATE (`clearOut_state`) and what the zeroisation clears is `zeroise_allZero`. -/
theorem managementCommandsAndDebug : Obligations.ManagementCommandsAndDebug := by
  unfold Obligations.ManagementCommandsAndDebug
  refine ⟨fun s hready => ⟨fun nonce first page htree hleaf htoken => ?attest, fun page => ?telemetry,
    fun first len gs hidle hpos hmax hstaged hok => ?update⟩,
    fun s hready => ⟨?zeroise, ?off⟩, fun s => ⟨fun hready => ⟨?challenge, fun scope sig => ?unlock⟩, fun n u hnonce => ?expiry⟩⟩
  case attest =>
    obtain ⟨bs, ok, heq⟩ := attest_mgmt_signed hready htree hleaf htoken nonce first page
    exact ⟨_, congrArg Host.Outcome.next heq, rfl, rfl, rfl, rfl, rfl⟩
  case telemetry => exact ⟨_, congrArg Host.Outcome.next (telemetry_mgmt hready page), rfl, rfl, rfl⟩
  case update =>
    refine ⟨_, congrArg Host.Outcome.next (fwUpdate_mgmt_staged hready hidle hpos hmax hstaged hok), ?_⟩
    by_cases hverdict : fwCheck s (moduleBytes s gs len) = St.ok
    · rw [if_pos hverdict, if_neg (not_not_intro hverdict)]
      rfl
    · rw [if_neg hverdict, if_pos hverdict]
      exact ⟨rfl, rfl, rfl⟩
  case zeroise =>
    refine ⟨_, congrArg Host.Outcome.next (zeroiseCmd_mgmt hready), ?_⟩
    have hstate := (clearOut_state s 2).trans hready.1
    obtain ⟨hzeroising, -⟩ := clearOut_sage s 2
    have hzero := clearOut_allZero s 2
    generalize clearOut s 2 = u at hstate hzeroising hzero ⊢
    exact ⟨hzeroising, hstate, hzero⟩
  case off =>
    have hstop := fun p (hp : p < 8) hrun hstop => allStopping_part (s := s) hp hrun hstop St.disabled
    obtain ⟨_, hparts⟩ := allStopping_eq s St.disabled
    refine ⟨_, congrArg Host.Outcome.next (powerOff_mgmt hready), ?_⟩
    rw [hparts] at hstop ⊢
    exact ⟨rfl, rfl, hstop⟩
  case challenge => exact ⟨_, _, congrArg Host.Outcome.next (permitted_of_ready hready rfl 0 _), rfl, rfl, rfl⟩
  case unlock =>
    refine ⟨_, congrArg Host.Outcome.next (debugUnlock_mgmt hready scope sig), ?_⟩
    by_cases hopens : unlockOk s scope sig = true
    · rw [if_pos hopens, if_pos hopens]
      obtain ⟨hzeroising, hnonce⟩ := clearOut_sage (nonceSpent s) 3
      obtain ⟨hbytes, -⟩ := clearOut_allZero (nonceSpent s) 3
      generalize clearOut (nonceSpent s) 3 = u at hzeroising hnonce hbytes ⊢
      refine ⟨hnonce, rfl, rfl, hzeroising, fun a => ?_⟩
      obtain ⟨hstack, hscratch, -⟩ := hbytes a
      exact ⟨hstack, hscratch⟩
    · rw [if_neg hopens, if_neg hopens]
      exact ⟨rfl, rfl, hready.1, rfl, rfl, ((sameBytes_modSage s _).trans (sameBytes_modSage _ _)).trans (sameBytes_answer_mgmt _ _ _ _ _ _)⟩
  case expiry =>
    refine congrArg Host.Outcome.next ?_
    unfold debugNonceExpiry
    rw [hnonce]
    rfl

end Sys2Proof.Proofs
end

section
/-! SUPPORT. Work that ends leaves Sage alone: no alert falls, no queue pair gains a key, the mailboxes in which commands come and the
states of the contexts stay (R213, R278, R342, R437). -/

namespace Sys2Proof.Machine

/-- A queue pair that holds no key (R437). -/
def Qp.Keyless (q : Qp) : Prop := q.keyed = false ∧ q.keyC2s = 0 ∧ q.keyS2c = 0

/-- No completion gives a key to the pair that takes it. -/
theorem Qp.push_keyless (q : Qp) (qn now : Nat) (c : Completion) (h : q.Keyless) : (q.push qn now c).Keyless := by
  unfold Qp.push Qp.write
  split <;> exact h

/-- Values of a family changed by a function that keeps the default. -/
theorem sget_mapValues {α : Type} {d : α} {f : α → α} (hf : f d = d) (m : SMap α) (k : Nat) :
    sget d (m.map fun e => (e.1, f e.2)) k = f (sget d m k) := by
  induction m with
  | nil => exact hf.symm
  | cons e rest ih =>
    obtain ⟨n, v⟩ := e
    rw [List.map_cons, sget, sget, ih]
    split <;> rfl

/-- From `s` to `t` work of cores, partitions and queues ends or is answered. -/
structure WorkEnds (s t : State) : Prop where
  sage : t.sage = s.sage
  alert : ∀ b, s.err.alert.getLsbD b = true → t.err.alert.getLsbD b = true
  keyless : ∀ vf q, (s.qp vf q).Keyless → (t.qp vf q).Keyless
  box : ∀ n, n < 16 → t.mbox n = s.mbox n
  ctx : ∀ c, (t.ctx c).state = (s.ctx c).state ∧ (t.ctx c).tenant = (s.ctx c).tenant

namespace WorkEnds

theorem of_eq {s t : State} (hsage : t.sage = s.sage) (herr : t.err = s.err) (hqps : t.cxl.qps = s.cxl.qps) (hboxes : t.mboxes = s.mboxes)
    (hctxs : t.ctxs = s.ctxs) : WorkEnds s t := by
  refine ⟨hsage, fun b h => herr ▸ h, fun vf q h => ?_, fun n _ => ?_, fun c => ?_⟩
  · unfold State.qp at h ⊢
    rwa [hqps]
  · unfold State.mbox
    rw [hboxes]
  · rw [ctx_congr hctxs]
    exact ⟨rfl, rfl⟩

theorem refl (s : State) : WorkEnds s s := of_eq rfl rfl rfl rfl rfl

theorem trans {s t u : State} (h : WorkEnds s t) (h' : WorkEnds t u) : WorkEnds s u :=
  ⟨h'.sage.trans h.sage, fun b hb => h'.alert b (h.alert b hb), fun vf q hq => h'.keyless vf q (h.keyless vf q hq),
    fun n hn => (h'.box n hn).trans (h.box n hn), fun c => ⟨(h'.ctx c).1.trans (h.ctx c).1, (h'.ctx c).2.trans (h.ctx c).2⟩⟩

theorem ite {s t u : State} {b : Prop} [Decidable b] (ht : WorkEnds s t) (hu : WorkEnds s u) : WorkEnds s (if b then t else u) := by
  split
  · exact ht
  · exact hu

theorem foldl {α : Type} {f : State → α → State} (hf : ∀ s a, WorkEnds s (f s a)) (l : List α) (s : State) : WorkEnds s (l.foldl f s) :=
  List.foldlRecOn (motive := fun u : State => WorkEnds s u) l f (refl s) fun u h a _ => h.trans (hf u a)

theorem modCore (s : State) (c : Nat) (f : Core → Core) : WorkEnds s (s.modCore c f) := of_eq rfl rfl rfl rfl rfl
theorem modPart (s : State) (p : Nat) (f : Part → Part) : WorkEnds s (s.modPart p f) := of_eq rfl rfl rfl rfl rfl
theorem setPage (s : State) (g : Nat) (v : PageE) : WorkEnds s (s.setPage g v) := of_eq rfl rfl rfl rfl rfl
theorem modSys (s : State) (f : Sys → Sys) : WorkEnds s (s.modSys f) := of_eq rfl rfl rfl rfl rfl

theorem modCxl (s : State) {f : Cxl → Cxl} (hf : ∀ x, (f x).qps = x.qps) : WorkEnds s (s.modCxl f) := of_eq rfl rfl (hf _) rfl rfl

theorem modMbox (s : State) {n : Nat} (hn : 16 ≤ n) (f : Mbox → Mbox) : WorkEnds s (s.modMbox n f) :=
  ⟨rfl, fun _ h => h, fun _ _ h => h, modMbox_high s hn f, fun _ => ⟨rfl, rfl⟩⟩

theorem modCtx (s : State) (c : Nat) {f : Ctx → Ctx} (hf : ∀ x, (f x).state = x.state ∧ (f x).tenant = x.tenant) :
    WorkEnds s (s.modCtx c f) := by
  refine ⟨rfl, fun _ h => h, fun _ _ h => h, fun _ _ => rfl, fun k => ?_⟩
  rw [State.modCtx_ctx]
  split
  · next h => exact h ▸ hf _
  · exact ⟨rfl, rfl⟩

/-- Pairs changed by a function that gives no key to a pair without one. -/
theorem modQp (s : State) (vf q : Nat) {f : Qp → Qp} (hf : ∀ p, p.Keyless → (f p).Keyless) : WorkEnds s (s.modQp vf q f) := by
  refine ⟨rfl, fun _ h => h, fun x y h => ?_, fun _ _ => rfl, fun _ => ⟨rfl, rfl⟩⟩
  rw [State.modQp_qp]
  split
  · next heq =>
    refine hf _ ?_
    unfold State.qp at h ⊢
    rwa [← heq]
  · exact h

theorem modErr (s : State) {f : Err → Err} (hf : ∀ b, s.err.alert.getLsbD b = true → (f s.err).alert.getLsbD b = true) :
    WorkEnds s (s.modErr f) :=
  ⟨rfl, hf, fun _ _ h => h, fun _ _ => rfl, fun _ => ⟨rfl, rfl⟩⟩

/-! ### Alerts and records (R546, R552) -/

theorem fireV1 (s : State) : WorkEnds s (fireV1 s) := by
  unfold Machine.fireV1
  split
  · exact refl s
  · exact .trans (modErr s (f := fun e => { e with v1At := s.tick + 1 }) fun _ h => h) (of_eq rfl rfl rfl rfl rfl)

theorem raiseAlert (s : State) (bit : Nat) : WorkEnds s (raiseAlert s bit) := by
  unfold Machine.raiseAlert
  split
  · exact refl s
  · refine .trans (modErr s (f := fun e => { e with alert := e.alert ||| (1#8 <<< bit) }) fun b h => ?_) (fireV1 _)
    rw [BitVec.getLsbD_or, h, Bool.true_or]

theorem recordAt (s : State) (t : Nat) (e : FaultEv) : WorkEnds s (recordAt s t e) := by
  unfold Machine.recordAt
  extract_lets r ix full err ringed err' logged lost reported
  have hringed : WorkEnds s ringed := modErr s (f := fun _ => ringed.err) fun _ h => h
  have hlogged : WorkEnds ringed logged := ite (modErr ringed (f := fun _ => { err' with svc := _, svcCount := _ }) fun _ h => h) (refl _)
  refine .trans ?_ (.trans (raiseAlert _ 0) (fireV1 _))
  refine (hringed.trans hlogged).trans ?_
  exact .trans (ite (raiseAlert _ _) (refl _)) (ite (raiseAlert _ _) (refl _))

theorem recordNow (s : State) (e : FaultEv) : WorkEnds s (recordNow s e) := recordAt s _ e

/-! ### Completions (R481, R487) -/

theorem modPair (s : State) (vf q : Nat) {f : Qp → Qp} (hf : ∀ p, p.Keyless → (f p).Keyless) : WorkEnds s (modPair s vf q f) := by
  unfold Machine.modPair
  exact ite (modQp s vf q hf) ((modQp s vf q hf).trans (recordNow _ _))

theorem touchAts (s : State) (vf : Nat) (addr : BitVec 64) : WorkEnds s (touchAts s vf addr) := by
  unfold Machine.touchAts
  exact modCxl s fun _ => rfl

theorem complete (s : State) (vf q : Nat) (c : Completion) : WorkEnds s (complete s vf q c) := by
  unfold Machine.complete
  extract_lets pair c
  exact ite (modPair s vf q fun _ h => h) ((touchAts s vf _).trans (modQp _ vf q fun p h => p.push_keyless _ _ c h))

theorem completeReq (s : State) (r : Req) (st : Status) : WorkEnds s (completeReq s r st) := by
  unfold Machine.completeReq
  exact ite (refl s) (complete s _ _ _)

theorem completionMessage (s : State) (tag : BitVec 16) (st : Status) (value : Nat) : WorkEnds s (completionMessage s tag st value) := by
  unfold Machine.completionMessage
  split
  · exact modSys s _
  · exact .trans (modMbox s (Nat.le_add_right 16 _) _) (ite (modMbox _ (Nat.le_add_right 16 _) _) (of_eq rfl rfl rfl rfl rfl))

theorem finish (s : State) (via : Via) (cmd ctx : BitVec 16) (st : Status) (value : Nat) (data : List Byte) :
    WorkEnds s (finish s via cmd ctx st value data) := by
  cases via
  case mailbox n tag => exact completionMessage s tag st value
  case queue vf q htag => exact complete s vf q _
  all_goals exact of_eq rfl rfl rfl rfl rfl

/-! ### Pages, transfers and jobs (R188, R213) -/

theorem freePages (s : State) (gs : List Nat) : WorkEnds s (freePages s gs) := by
  obtain ⟨_, _, h⟩ := freePages_eq s gs
  rw [h]
  exact of_eq rfl rfl rfl rfl rfl

theorem freeKv (s : State) (p : Nat) (ns : List Nat) : WorkEnds s (freeKv s p ns) := by
  unfold Machine.freeKv
  split <;> exact of_eq rfl rfl rfl rfl rfl

theorem sweepSnaps (s : State) : WorkEnds s (sweepSnaps s) := by
  obtain ⟨_, _, _, _, _, h⟩ := sweepSnaps_snapsOnly s
  rw [h]
  exact of_eq rfl rfl rfl rfl rfl

theorem landWrite (s : State) (w : Write) : WorkEnds s (landWrite s w) := by
  have happly : WorkEnds s (applyWrite s w) := by
    unfold applyWrite
    split <;> exact of_eq rfl rfl rfl rfl rfl
  unfold Machine.landWrite
  split
  · exact ite (refl s) happly
  · exact happly

theorem chvFault (s : State) (c : Nat) (op : EngineOp) (st : Status) : WorkEnds s (chvFault s c op st) := by
  unfold Machine.chvFault
  dsimp only
  split
  · exact refl s
  · exact of_eq rfl rfl rfl rfl rfl

theorem cutTransfer (s : State) (c : Nat) (op : EngineOp) (l : Launched) : WorkEnds s (cutTransfer s c op l) := by
  unfold Machine.cutTransfer
  dsimp only
  refine .trans ?_ (chvFault _ _ _ _)
  refine .trans ?_ (foldl (fun u (d : SlotDone) => modCore u d.core _) _ _)
  refine .trans ?_ (foldl (fun u g => ite (refl u) (setPage u g _)) _ _)
  exact .trans (t := (draw s).2) (of_eq rfl rfl rfl rfl rfl) (foldl landWrite _ _)

theorem cutPart (s : State) (p : Nat) : WorkEnds s (cutPart s p) := by
  refine foldl (fun u c => foldl (fun u e => ?_) _ u) _ s
  split
  · exact ite (refl u) (cutTransfer u _ _ _)
  · exact refl u

theorem endJobNow (s : State) (p : Nat) (img : ImgState) (st : Status) (seq : SeqState) : WorkEnds s (endJobNow s p img st seq) := by
  unfold Machine.endJobNow
  split
  · exact refl s
  · refine .trans (cutPart s p) (.trans ?_ (modPart _ _ _))
    exact .trans (foldl (fun u c => modCore u c _) _ _) (foldl (fun u c => modCore u c _) _ _)

/-! ### Requests (R278, R342, R343) -/

theorem noteServed (s : State) (p : Nat) (cs : List (BitVec 16)) : WorkEnds s (noteServed s p cs) := by
  unfold Machine.noteServed
  exact modPart s p _

theorem endReqs (s : State) (p : Nat) (st : Status) : WorkEnds s (endReqs s p st) := by
  unfold Machine.endReqs
  refine .trans ?_ (sweepSnaps _)
  refine .trans (.trans ?_ (freeKv _ _ _)) (modPart _ _ _)
  exact .trans (ite (noteServed s p _) (refl s)) (foldl (fun u r => completeReq u r st) _ _)

theorem endTrains (s : State) (p : Nat) (f : TrainJob → Bool) (st : Status) : WorkEnds s (endTrains s p f st) := by
  have hfinish (u : State) (t : TrainJob) : WorkEnds u (finishTrain u t st) :=
    .trans (foldl (fun _ _ => complete _ _ _ _) _ u) (complete _ _ _ _)
  unfold Machine.endTrains
  exact .trans (.trans (noteServed s p _) (foldl hfinish _ _)) (modPart _ _ _)

theorem endAllReqs (s : State) (st : Status) : WorkEnds s (endAllReqs s st) :=
  foldl (fun u p => (endReqs u p st).trans (endTrains _ p _ st)) _ s

theorem endSome (s : State) (p : Nat) (f : Req → Bool) (st : Status) : WorkEnds s (endSome s p f st) := by
  unfold Machine.endSome
  refine .trans ?_ (sweepSnaps _)
  exact .trans (.trans (foldl (fun u r => completeReq u r st) _ _) (freeKv _ _ _)) (modPart _ _ _)

theorem disableReqs (s : State) (p : Nat) (f : Req → Bool) (st : Status) : WorkEnds s (disableReqs s p f st) := by
  unfold Machine.disableReqs
  exact (modPart s p _).trans (endSome _ p _ _)

theorem disableTrains (s : State) (p : Nat) (f : TrainJob → Bool) (st : Status) : WorkEnds s (disableTrains s p f st) := by
  unfold Machine.disableTrains
  exact (modPart s p _).trans (endTrains _ p _ _)

theorem endVfWork (s : State) (vf : Nat) (f : Nat → Bool) : WorkEnds s (endVfWork s vf f) := by
  exact foldl (fun u p => (disableReqs u p _ _).trans (disableTrains _ p _ _)) _ s

theorem endVfCtxWork (s : State) (vf : Nat) : WorkEnds s (endVfCtxWork s vf) := by
  refine foldl (fun u e => ?_) _ s
  refine .trans ?_ (modCtx _ _ fun _ => ⟨rfl, rfl⟩)
  exact .trans (foldl (fun v _ => (freePages v _).trans (finish _ _ _ _ _ _ _)) _ _) (foldl (fun v _ => finish v _ _ _ _ _ _) _ _)

/-! ### Answers owed (R464, R470) -/

theorem disableBoxes (s : State) {first : Nat} (hfirst : 16 ≤ first) (n : Nat) : WorkEnds s (disableBoxes s first n) :=
  foldl (fun u i => modMbox u (by omega) _) _ s

/-- Every pair changed by a function that gives no key. -/
theorem mapPairs (s : State) {f : Qp → Qp} (hfresh : f Qp.fresh = Qp.fresh) (hf : ∀ p, p.Keyless → (f p).Keyless) :
    WorkEnds s { s with cxl := { s.cxl with qps := s.cxl.qps.map fun e => (e.1, f e.2) } } := by
  refine ⟨rfl, fun _ h => h, fun vf q h => ?_, fun _ _ => rfl, fun _ => ⟨rfl, rfl⟩⟩
  unfold State.qp at h ⊢
  rw [sget_mapValues hfresh]
  exact hf _ h

/-- Every context changed by a function that keeps state and tenant. -/
theorem mapCtxs (s : State) {f : Ctx → Ctx} (hfresh : f Ctx.fresh = Ctx.fresh) (hf : ∀ x, (f x).state = x.state ∧ (f x).tenant = x.tenant) :
    WorkEnds s { s with ctxs := s.ctxs.map fun e => (e.1, f e.2) } := by
  refine ⟨rfl, fun _ h => h, fun _ _ h => h, fun _ _ => rfl, fun c => ?_⟩
  unfold State.ctx
  rw [sget_mapValues hfresh]
  exact hf _

theorem endLoads (s : State) (st : Status) : WorkEnds s (endLoads s st) := by
  unfold Machine.endLoads
  extract_lets out idle unbound
  have hidle : WorkEnds s idle := foldl (fun u p => modPart u p _) _ s
  have hunbound : WorkEnds idle unbound :=
    mapCtxs idle (f := fun x => { x with importing := [], exporting := [], owed := none }) rfl fun _ => ⟨rfl, rfl⟩
  exact (hidle.trans hunbound).trans (.trans (modCxl _ (f := fun x => { x with exports := [] }) fun _ => rfl)
    (foldl (fun u _ => finish u _ _ _ _ _ _) out _))

end WorkEnds

end Sys2Proof.Machine
end

section
/-! SUPPORT. Sensor events: what entry into Parsley leaves of Sage and of the alerts (R416, R446, R532, R533). -/

namespace Sys2Proof.Machine

/-- Between the alert of entry into Parsley and the zeroisation, work only ends. -/
theorem enterParsley_workEnds {s : State} (hopen : parsleyOpen s = true) (cause source : Nat) :
    ∃ env u, WorkEnds (raiseAlert (enteredParsley s env cause source) 2) u ∧ enterParsley s cause source = zeroise u 1 := by
  obtain ⟨env, hstart⟩ : ∃ env, (if s.sys.state = 0 then s.modPwr fun w => { w with resetAfter := none } else s) =
      { s with pwr := { s.pwr with resetAfter := env } } := by
    split
    · exact ⟨none, rfl⟩
    · exact ⟨s.pwr.resetAfter, rfl⟩
  refine ⟨env, _, ?_, by
    unfold enterParsley
    rw [hopen, hstart]
    rfl⟩
  refine .trans ?_ (.disableBoxes _ (by decide) 24)
  refine .trans ?_ (.mapPairs _ (f := fun q => { q with waiting := [] }) rfl fun _ h => h)
  refine .trans ?_ (.endLoads _ _)
  refine .trans ?_ (.endAllReqs _ _)
  refine .trans ?_ (.mapPairs _ (f := fun q => { q with keyed := false }) rfl fun _ h => ⟨rfl, h.2⟩)
  exact .foldl (fun _ _ => .endJobNow _ _ _ _ _) _ _

/-- Entry into Parsley leaves the sensor registers and the top tree, and its alert stays raised. -/
theorem enterParsley_sage {s : State} (hopen : parsleyOpen s = true) (cause source : Nat) :
    (enterParsley s cause source).sage.topNext = s.sage.topNext ∧ (enterParsley s cause source).sage.lastSensor = s.sage.lastSensor ∧
      (enterParsley s cause source).sage.sensorValid = s.sage.sensorValid ∧ (enterParsley s cause source).err.alert.getLsbD 2 = true := by
  obtain ⟨env, u, hu, h⟩ := enterParsley_workEnds hopen cause source
  have hsage : u.sage = s.sage := hu.sage.trans (raiseAlert_sage _ _)
  have halert : u.err.alert.getLsbD 2 = true := hu.alert 2 (raiseAlert_getLsbD _ (by decide))
  rw [h]
  refine ⟨?_, ?_, ?_, halert⟩ <;> exact hsage ▸ rfl

theorem enterParsley_source {s : State} (hopen : parsleyOpen s = true) (cause source : Nat) :
    (enterParsley s cause source).sys.parSource = BitVec.ofNat 12 source := by
  obtain ⟨env, u, hu, h⟩ := enterParsley_eq hopen cause source
  obtain ⟨_, _, _, hsys⟩ := hu.sys
  rw [h, zeroise_sys, hsys]
  rfl

theorem enterParsley_allZero {s : State} (hopen : parsleyOpen s = true) (cause source : Nat) : AllZero (enterParsley s cause source) := by
  obtain ⟨_, _, _, h⟩ := enterParsley_eq hopen cause source
  exact h ▸ zeroise_allZero _ 1

/-- A sensor event in READY enters Parsley from a state in which Sage has named the sensor and nothing else of it has changed. -/
theorem sensorEvent_eq {s : State} (hready : s.sys.state = 1) (n : Nat) : ∃ u, sensorEvent s n = enterParsley u 3 n ∧ parsleyOpen u = true ∧
    u.sage.topNext = s.sage.topNext ∧ u.sage.lastSensor = BitVec.ofNat 4 n ∧ u.sage.sensorValid = true := by
  unfold sensorEvent
  extract_lets named recorded discarding ended
  have hsys : discarding.sys = s.sys := recordNow_sys named _
  have hsage : discarding.sage = named.sage := recordNow_sage named _
  clear_value discarding
  have hended : ended.sys.state = discarding.sys.state ∧ ended.sage = discarding.sage := by
    unfold ended
    split <;> exact ⟨rfl, rfl⟩
  clear_value ended
  have hstate : ended.sys.state = 1 := by rw [hended.1, hsys, hready]
  refine ⟨ended, rfl, by unfold parsleyOpen; rw [hstate]; rfl, ?_, ?_, ?_⟩ <;> rw [hended.2, hsage] <;> rfl

end Sys2Proof.Machine
end

section
/-! PROOFS. O33: tokens, trees, the DRBG and the sensors of Sage (R415, R416, R419 to R422). -/

namespace Sys2Proof.Proofs
open Sys2Proof Sys2Proof.Machine

/-- The bucket holds at most 4,096 tokens (R422). -/
theorem signingToken_tokens {s : State} (h : s.sage.tokens.toNat ≤ 4096) :
    (signingToken s).sage.tokens.toNat = min 4096 (s.sage.tokens.toNat + 1) := by
  show (if s.sage.tokens.toNat < 4096 then s.sage.tokens + 1 else s.sage.tokens).toNat = _
  split
  · bv_omega
  · omega

theorem topLeft_of_lt {g : Sage} (h : g.topNext.toNat < 2 ^ 20) : g.topLeft = true := decide_eq_true h

/-- Settles O33: tokens, trees and the DRBG by the cases of their definitions; a sensor event by `sensorEvent_eq`, and what entry into
Parsley leaves of registers, Sage and alerts by `enterParsley_registers` and `enterParsley_sage`. -/
theorem sageTreesTokensAndSensors : Obligations.SageTreesTokensAndSensors := by
  unfold Obligations.SageTreesTokensAndSensors
  refine ⟨fun s => ⟨⟨_, rfl, rfl, signingToken_tokens⟩, fun hcert hleft hgood => ?certify, fun hcert hleft hbad hready => ?sensor3,
    fun hcert => ?again, fun hcert hleft => ?successor, ?reseed⟩, fun s n hready => ?sensor⟩
  case certify =>
    have hopen : (s.sage.treeCertified || !s.sage.topLeft) = false := by rw [hcert, topLeft_of_lt hleft]; rfl
    have hcertify : perBootTreeCertify s = { s with sage := s.sage.certify } := by
      unfold perBootTreeCertify
      rw [hopen, hgood]
      rfl
    refine ⟨_, congrArg Host.Outcome.next hcertify, rfl, rfl, rfl, ?_⟩
    show (s.sage.topNext + 1).toNat = _
    bv_omega
  case sensor3 =>
    have hopen : (s.sage.treeCertified || !s.sage.topLeft) = false := by rw [hcert, topLeft_of_lt hleft]; rfl
    obtain ⟨u, heq, hparsley, htop, hsensor, -⟩ := sensorEvent_eq hready 3
    obtain ⟨hstate, hcause, -⟩ := enterParsley_registers hparsley 3 3
    obtain ⟨htop', hsensor', -⟩ := enterParsley_sage hparsley 3 3
    have hcertify : perBootTreeCertify s = enterParsley u 3 3 := by
      unfold perBootTreeCertify
      rw [hopen, hbad]
      exact heq
    exact ⟨_, congrArg Host.Outcome.next hcertify, hstate, hcause, hsensor'.trans hsensor, htop'.trans htop⟩
  case again =>
    refine congrArg Host.Outcome.next (if_pos ?_)
    simp [hcert]
  case successor =>
    refine congrArg Host.Outcome.next (if_congr ?_ rfl rfl)
    simp [hcert, topLeft_of_lt hleft]
  case reseed => rfl
  case sensor =>
    obtain ⟨u, heq, hparsley, -, hsensor, hvalid⟩ := sensorEvent_eq hready n
    obtain ⟨hstate, hcause, -⟩ := enterParsley_registers hparsley 3 n
    obtain ⟨-, hsensor', hvalid', halert⟩ := enterParsley_sage hparsley 3 n
    obtain ⟨hbytes, hparts, hctxs, -⟩ := enterParsley_allZero hparsley 3 n
    exact ⟨_, congrArg Host.Outcome.next heq, hstate, hcause, enterParsley_source hparsley 3 n, hsensor'.trans hsensor,
      hvalid'.trans hvalid, halert, hbytes, hparts, hctxs⟩

end Sys2Proof.Proofs
end

section
/-! SUPPORT. Ends of sessions, and the queue keys of a VF (R432, R434, R437): what each operation leaves of Sage and of the queue pairs. -/

namespace Sys2Proof.Machine

/-! ### The queue pairs of a VF -/

/-- A pass over the queue pairs of a VF changes each of them once. -/
theorem foldl_modQp_qp (g : Nat → Qp → Qp) (s : State) (vf : Nat) {q : Nat} (hq : q < 32) :
    ((List.range 32).foldl (fun s q => s.modQp vf q (g q)) s).qp vf q = g q (s.qp vf q) := by
  have hother (u : State) (b : Nat) (hb : b ≠ q) : (u.modQp vf b (g b)).qp vf q = u.qp vf q := by
    rw [State.modQp_qp, if_neg (by omega)]
  obtain ⟨u, hu, hall⟩ := foldl_read_of_only (fun u : State => u.qp vf q) List.nodup_range (List.mem_range.mpr hq) hother s
  rw [hall, State.modQp_qp, if_pos rfl, hu]

/-- It changes nothing else of the module. -/
theorem foldl_modQp_eq (g : Nat → Qp → Qp) (s : State) (vf : Nat) : ∃ qps,
    (List.range 32).foldl (fun s q => s.modQp vf q (g q)) s = { s with cxl := { s.cxl with qps := qps } } := by
  refine List.foldlRecOn (motive := fun u : State => ∃ qps, u = { s with cxl := { s.cxl with qps := qps } }) _ _ ⟨_, rfl⟩ fun u h q _ => ?_
  obtain ⟨_, rfl⟩ := h
  exact ⟨_, rfl⟩

theorem modPairs_qp (s : State) (vf : Nat) (f : Qp → Qp) {q : Nat} (hq : q < 32) : (modPairs s vf f).qp vf q = f (s.qp vf q) :=
  foldl_modQp_qp (fun _ => f) s vf hq

theorem modPairs_eq (s : State) (vf : Nat) (f : Qp → Qp) : ∃ qps, modPairs s vf f = { s with cxl := { s.cxl with qps := qps } } :=
  foldl_modQp_eq (fun _ => f) s vf

theorem keyPairs_qp (s : State) (vf : Nat) {q : Nat} (hq : q < 32) :
    (keyPairs s vf).qp vf q = (s.qp vf q).rekey (sessionOf s vf).secret vf q 0 :=
  foldl_modQp_qp (fun q p => p.rekey (sessionOf s vf).secret vf q 0) s vf hq

theorem keyPairs_eq (s : State) (vf : Nat) : ∃ qps, keyPairs s vf = { s with cxl := { s.cxl with qps := qps } } :=
  foldl_modQp_eq (fun q p => p.rekey (sessionOf s vf).secret vf q 0) s vf

theorem unkey_keyless (q : Qp) (ended : Bool) : (q.unkey ended).Keyless := ⟨rfl, rfl, rfl⟩

theorem sessionOf_congr {s t : State} (h : t.sage = s.sage) (k : Nat) : sessionOf t k = sessionOf s k := by
  unfold sessionOf
  rw [h]

@[simp] theorem qp_modSession (s : State) (ix : Nat) (f : Session → Session) (vf q : Nat) : (modSession s ix f).qp vf q = s.qp vf q := rfl
@[simp] theorem qp_vendorRsp (s : State) (ix : Nat) (st : Status) (data : List Byte) (vf q : Nat) :
    (vendorRsp s ix st data).qp vf q = s.qp vf q := rfl
@[simp] theorem tenants_vendorRsp (s : State) (ix : Nat) (st : Status) (data : List Byte) :
    (vendorRsp s ix st data).sage.tenants = s.sage.tenants := rfl

/-! ### The end of a session (R437) -/

/-- The module once the session of a DOE object is over. -/
def sessionOver (s : State) (ix : Nat) : State := modSession s ix fun _ => Session.fresh

/-- The session's secret and the keys of the VF's pairs are gone before its work ends. -/
theorem closeSession_workEnds (s : State) (ix : Nat) (ended : Bool) : ∃ qps,
    WorkEnds { sessionOver s ix with cxl := { s.cxl with qps := qps } } (closeSession s ix ended) ∧
      (ix ≠ 128 → ∀ q, q < 32 → (sget Qp.fresh qps (ix * 32 + q)).Keyless) := by
  by_cases hix : ix = 128
  · refine ⟨s.cxl.qps, ?_, fun h => absurd hix h⟩
    unfold closeSession
    rw [if_pos hix]
    exact .refl _
  · obtain ⟨qps, heq⟩ := modPairs_eq (sessionOver s ix) ix fun q => q.unkey ended
    refine ⟨qps, ?_, fun _ q hq => ?_⟩
    · unfold closeSession
      rw [if_neg hix]
      exact heq ▸ .trans (.endVfWork _ _ _) (.endVfCtxWork _ _)
    · have hpair := modPairs_qp (sessionOver s ix) ix (fun q => q.unkey ended) hq
      rw [heq] at hpair
      exact (show sget Qp.fresh qps (ix * 32 + q) = _ from hpair) ▸ unkey_keyless _ _

theorem closeSession_sage (s : State) (ix : Nat) (ended : Bool) : (closeSession s ix ended).sage = (sessionOver s ix).sage := by
  obtain ⟨_, h, -⟩ := closeSession_workEnds s ix ended
  exact h.sage

theorem closeSession_session (s : State) (ix : Nat) (ended : Bool) (k : Nat) :
    sessionOf (closeSession s ix ended) k = if k = ix then Session.fresh else sessionOf s k := by
  rw [sessionOf_congr (closeSession_sage s ix ended)]
  exact sessionOf_modSession s ix _ k

theorem closeSession_keyless (s : State) (vf : VfN) (ended : Bool) (q : QpN) : ((closeSession s vf ended).qp vf q).Keyless := by
  obtain ⟨_, h, hkeyless⟩ := closeSession_workEnds s vf ended
  exact h.keyless vf q (hkeyless (by omega) q q.isLt)

/-! ### Requests inside a session (R428, R431) -/

theorem inSession_of_up {s : State} {ix : Nat} (h : (sessionOf s ix).up = true) (f : State → Session → State) :
    inSession s ix f = f s (sessionOf s ix) := if_pos h

/-- A request of a VF session whose binding holds. -/
theorem vfRequest_of_up {s : State} {vf : VfN} (hready : s.sys.state = 1) (hup : (sessionOf s vf).up = true)
    (hok : (tenantOf s vf).ok = true) (f : State → Session → Nat → State) :
    vfRequest s vf f = f s (sessionOf s vf) (tenantOf s vf).v.toNat := by
  refine (spdm_of_ready hready _ _).trans ((inSession_of_up hup _).trans (if_neg ?_))
  simp [hok]

/-- A pair in the next generation of its keys; one that tag failures disabled is enabled (R434, R435). -/
def Qp.nextGen (p : Qp) (secret : BitVec 384) (vf q : Nat) : Qp :=
  { p.rekey secret vf q ((p.gen.toNat + 1) % 256) with tagFails := 0, disabled := p.disabled && p.status != St.authFail }

theorem qrekey_of_keyed {s : State} {vf : VfN} {q : QpN} (hready : s.sys.state = 1) (hup : (sessionOf s vf).up = true)
    (hok : (tenantOf s vf).ok = true) (hkeyed : (s.qp vf q).keyed = true) (hidle : outstanding s vf q = false) :
    qrekey s vf q = vendorRsp (s.modQp vf q fun p => p.nextGen (sessionOf s vf).secret vf q) vf St.ok [] :=
  (vfRequest_of_up hready hup hok _).trans ((if_neg (by simp [hkeyed])).trans (if_neg (by simp [hidle])))

/-- A VF's session that becomes a tenant session keys the VF's pairs in generation 0 (R431, R432). -/
theorem joinTenant_effect (s : State) (vf t : Nat) (claim : Bool) :
    sessionOf (joinTenant s vf t claim) vf = { sessionOf s vf with tenant := BitVec.ofNat 16 t, claimed := claim, proven := !claim } ∧
      (joinTenant s vf t claim).sage.tenants = s.sage.tenants ∧
      ∀ q, q < 32 → (joinTenant s vf t claim).qp vf q = (s.qp vf q).rekey (sessionOf s vf).secret vf q 0 := by
  unfold joinTenant
  extract_lets joined
  have hsession : sessionOf joined vf = { sessionOf s vf with tenant := BitVec.ofNat 16 t, claimed := claim, proven := !claim } :=
    (sessionOf_modSession s vf _ vf).trans (if_pos rfl)
  have htenants : joined.sage.tenants = s.sage.tenants := rfl
  obtain ⟨_, heq⟩ := keyPairs_eq joined vf
  have hsage : (keyPairs joined vf).sage = joined.sage := by rw [heq]
  refine ⟨?_, ?_, fun q hq => ?_⟩
  · rw [sessionOf_vendorRsp, sessionOf_congr hsage, hsession]
  · rw [tenants_vendorRsp, hsage, htenants]
  · rw [qp_vendorRsp, keyPairs_qp joined vf hq, hsession, qp_modSession]

end Sys2Proof.Machine
end

section
/-! PROOFS. O31: sessions and the keys of their queue pairs (R431, R432, R434, R435, R437). -/

namespace Sys2Proof.Proofs
open Sys2Proof Sys2Proof.Machine

/-- The end of a session as the statement words it: of the session itself and of the pairs of its VF. -/
theorem closeSession_ends (s : State) (fn : Option VfN) (ended : Bool) :
    sessionOf (closeSession s (doeIx fn) ended) (doeIx fn) = Session.fresh ∧
      ∀ vf, fn = some vf → ∀ q : QpN, ((closeSession s (doeIx fn) ended).qp vf q).Keyless := by
  refine ⟨(closeSession_session s _ ended _).trans (if_pos rfl), fun vf hvf q => ?_⟩
  subst hvf
  exact closeSession_keyless s vf ended q

/-- Settles O31: a session ends by `closeSession_ends`; the requests of a tenant session come to their case by `vfRequest_of_up`, and what
a claim or a proof leaves is `joinTenant_effect`. -/
theorem sessionsAndTheirQueueKeys : Obligations.SessionsAndTheirQueueKeys := by
  unfold Obligations.SessionsAndTheirQueueKeys
  refine ⟨fun s fn hup => ⟨fun hready => ⟨?endSession, ?update, ?heartbeat⟩, ?missed⟩,
    fun s vf hready hup hok => ⟨fun cred hpresent hnone => ?claim, fun mac cred hcred => ⟨fun hmac => ?prove, fun hmac => ?wrong⟩,
      fun q hkeyed hidle => ?rekey⟩⟩
  case endSession =>
    obtain ⟨hsession, hkeys⟩ := closeSession_ends s fn true
    refine ⟨_, congrArg Host.Outcome.next ((spdm_of_ready hready fn _).trans (inSession_of_up hup _)), ?_, hkeys⟩
    exact (sessionOf_respond _ _ _ _).trans hsession
  case update =>
    refine ⟨_, congrArg Host.Outcome.next ((spdm_of_ready hready fn _).trans (inSession_of_up hup _)), rfl, ?_⟩
    rw [sessionOf_respond, sessionOf_modSession, if_pos rfl]
  case heartbeat => exact ⟨_, congrArg Host.Outcome.next ((spdm_of_ready hready fn _).trans (inSession_of_up hup _)), rfl⟩
  case missed => exact ⟨_, congrArg Host.Outcome.next (if_pos hup), closeSession_ends s fn true⟩
  case claim =>
    have hfree : ¬(!(tenantRec s (tenantOf s vf).v.toNat).present || (tenantRec s (tenantOf s vf).v.toNat).cred.isSome) = true := by
      simp [hpresent, hnone]
    obtain ⟨hsession, htenants, hpairs⟩ := joinTenant_effect (s.modSage fun g =>
      { g with tenants := smod Tenant.fresh g.tenants (tenantOf s vf).v.toNat fun r => { r with cred := some cred } }) vf (tenantOf s vf).v.toNat true
    refine ⟨_, congrArg Host.Outcome.next ((vfRequest_of_up hready hup hok _).trans (if_neg hfree)), ?_, ?_, ?_, fun q => hpairs q q.isLt⟩
    · unfold tenantRec
      rw [htenants, State.modSage_sage, sget_smod, if_pos rfl]
    · rw [hsession]
    · rw [hsession]
      exact (BitVec.ofNat_toNat _ _).trans (BitVec.setWidth_eq _)
  case prove =>
    obtain ⟨hsession, -, hpairs⟩ := joinTenant_effect s vf (tenantOf s vf).v.toNat false
    refine ⟨_, congrArg Host.Outcome.next ((vfRequest_of_up hready hup hok _).trans (if_pos ?_)), ?_, ?_, fun q => hpairs q q.isLt⟩
    · simp [hcred, hmac]
    · rw [hsession]
      rfl
    · rw [hsession]
  case wrong =>
    refine ⟨_, congrArg Host.Outcome.next ((vfRequest_of_up hready hup hok _).trans (if_neg ?_)), rfl, rfl, rfl⟩
    simp [hcred, hmac]
  case rekey =>
    refine ⟨_, congrArg Host.Outcome.next (qrekey_of_keyed hready hup hok hkeyed hidle), ?_⟩
    rw [qp_vendorRsp, State.modQp_qp, if_pos rfl]
    refine ⟨rfl, rfl, rfl, ?_, rfl, rfl, fun k hk => ?_⟩
    · exact (BitVec.toNat_ofNat _ _).trans (Nat.mod_eq_of_lt (by omega))
    · rw [qp_vendorRsp, State.modQp_qp, if_neg (by omega)]

end Sys2Proof.Proofs
end

section
/-! SUPPORT. Tenants and their VFs (R430, R437): the commands of PF0's mailboxes, and what ends with a tenant's credential. -/

namespace Sys2Proof.Machine

/-! ### Commands in a mailbox of PF0 (R464, R465) -/

/-- A command of PF0 in one of its own mailboxes, while the module runs commands. -/
theorem permitted_of_pf0Box {s : State} {n : MboxN} {tag cmd : BitVec 16} (hready : Ready s) (hn : n.val < 16) (hcmd : cmd.toNat < 0x20)
    (ctx : BitVec 16) (f : State → State) :
    permitted s (.mailbox n tag) cmd ctx (Via.isPf0 (.mailbox n tag)) f = f s := by
  have hpf0 : Via.isPf0 (.mailbox n tag) = true := Bool.or_eq_true_iff.mpr (.inl (decide_eq_true hn))
  have hbox : boxAccepts (.mailbox n tag) cmd = true := (if_pos hn).trans (decide_eq_true hcmd)
  rw [hpf0, permitted_of_ready hready hbox]

/-- The answer to a message that waits, given by work that left its mailbox. -/
theorem answered_of_waits {s u : State} {n : MboxN} (hwaits : Waits s n) (hbox : u.mbox n = s.mbox n) (tag cmd ctx : BitVec 16) (st : Status)
    (value : Nat) (data : List Byte) : Answered s (answer u (.mailbox n tag) cmd ctx st value data) n st value := by
  unfold Answered
  exact (State.modMbox_mbox _ _ _ _).trans ((if_pos rfl).trans (by rw [hbox, ack_of_waits hwaits]))

/-- The record of a tenant changed (R430). -/
def modTenant (s : State) (t : Nat) (f : Tenant → Tenant) : State :=
  s.modSage fun g => { g with tenants := smod Tenant.fresh g.tenants t f }

theorem tenantRec_modTenant (s : State) (t : Nat) (f : Tenant → Tenant) (k : Nat) :
    tenantRec (modTenant s t f) k = if k = t then f (tenantRec s t) else tenantRec s k := sget_smod _ _ _ _ _

theorem tenantRec_answer_mailbox (s : State) (n : MboxN) (tag cmd ctx : BitVec 16) (st : Status) (value : Nat) (data : List Byte) (k : Nat) :
    tenantRec (answer s (.mailbox n tag) cmd ctx st value data) k = tenantRec s k := rfl

/-- TENANT_SET of a tenant number of Table 13-11 whose quota fits (R430). -/
theorem tenantSet_of_room {s : State} {n : MboxN} {tag tenant quota : BitVec 16} {mask : BitVec 8} (hready : Ready s) (hn : n.val < 16)
    (hpos : tenant ≠ 0) (hmax : tenant.toNat ≤ 4095) (hquota : otherQuotas s tenant.toNat + quota.toNat ≤ 49152) :
    tenantSet s (.mailbox n tag) tenant quota mask = answer (modTenant s tenant.toNat fun r =>
      { r with present := true, quota := quota, mask := Paired.of mask }) (.mailbox n tag) 0x0010 0 St.ok 0 [] :=
  (permitted_of_pf0Box hready hn (by decide) 0 _).trans
    ((if_neg (not_or.mpr ⟨hpos, Nat.not_lt.mpr hmax⟩)).trans (if_neg (Nat.not_lt.mpr hquota)))

/-! ### The sessions of several VFs (R437) -/

/-- The sessions of several DOE objects ended. -/
def sessionsOver (s : State) (l : List Nat) : State := l.foldl (fun s ix => closeSession s ix false) s

theorem sessionsOver_session (l : List Nat) (s : State) (k : Nat) :
    sessionOf (sessionsOver s l) k = if k ∈ l then Session.fresh else sessionOf s k := by
  induction l generalizing s with
  | nil => exact (if_neg List.not_mem_nil).symm
  | cons ix l ih =>
    refine (ih (closeSession s ix false)).trans ?_
    rw [closeSession_session]
    by_cases hk : k = ix <;> by_cases hl : k ∈ l <;> simp [hk, hl]

/-- The end of a session leaves the tenants' records, the mailboxes of PF0, and state and tenant of every context. -/
structure KeepsTenants (s t : State) : Prop where
  tenants : t.sage.tenants = s.sage.tenants
  box : ∀ n, n < 16 → t.mbox n = s.mbox n
  ctx : ∀ c, (t.ctx c).state = (s.ctx c).state ∧ (t.ctx c).tenant = (s.ctx c).tenant

theorem keepsTenants_closeSession (s : State) (ix : Nat) (ended : Bool) : KeepsTenants s (closeSession s ix ended) := by
  obtain ⟨_, h, -⟩ := closeSession_workEnds s ix ended
  exact ⟨(congrArg Sage.tenants (closeSession_sage s ix ended)).trans rfl, h.box, h.ctx⟩

theorem keepsTenants_sessionsOver (s : State) (l : List Nat) : KeepsTenants s (sessionsOver s l) := by
  refine List.foldlRecOn (motive := fun u : State => KeepsTenants s u) l _ ⟨rfl, fun _ _ => rfl, fun _ => ⟨rfl, rfl⟩⟩ fun u h ix _ => ?_
  have h' := keepsTenants_closeSession u ix false
  exact ⟨h'.tenants.trans h.tenants, fun n hn => (h'.box n hn).trans (h.box n hn),
    fun c => ⟨(h'.ctx c).1.trans (h.ctx c).1, (h'.ctx c).2.trans (h.ctx c).2⟩⟩

/-! ### The contexts of a tenant (R372, R430) -/

/-- A deletion that begins ends the context's work, and the context is DELETING. -/
theorem beginDelete_workEnds (s : State) (via : Option Via) (c : BitVec 16) : ∃ u, WorkEnds s u ∧
    beginDelete s via c = u.modCtx c.toNat fun x => x.deleting via := by
  unfold beginDelete
  extract_lets x imported exported closed
  refine ⟨closed, ?_, rfl⟩
  have himported : WorkEnds s imported := .foldl (fun u _ => (WorkEnds.freePages u _).trans (.finish _ _ _ _ _ _ _)) _ s
  have hexported : WorkEnds imported exported := .foldl (fun u _ => .finish u _ _ _ _ _ _) _ imported
  refine (himported.trans hexported).trans (.foldl (fun u e => ?_) _ exported)
  dsimp only
  refine .trans ?_ (.finish _ _ _ _ _ _ _)
  exact .trans (.freePages u (sget Area.fresh u.cxl.areas e.1).pages) (.modCxl _ fun _ => rfl)

/-- Deletion begun of several contexts. -/
def deletionsBegun (s : State) (l : List Nat) : State := l.foldl (fun s c => beginDelete s none (BitVec.ofNat 16 c)) s

theorem beginDelete_sage (s : State) (via : Option Via) (c : BitVec 16) : (beginDelete s via c).sage = s.sage := by
  obtain ⟨_, h, heq⟩ := beginDelete_workEnds s via c
  rw [heq]
  exact h.sage

theorem beginDelete_box (s : State) (via : Option Via) (c : BitVec 16) {n : Nat} (hn : n < 16) : (beginDelete s via c).mbox n = s.mbox n := by
  obtain ⟨_, h, heq⟩ := beginDelete_workEnds s via c
  rw [heq]
  exact h.box n hn

/-- A context named, or already DELETING, is DELETING afterwards. -/
theorem beginDelete_deleting {s : State} {via : Option Via} {c : BitVec 16} {k : Nat} (h : k = c.toNat ∨ (s.ctx k).state = 6) :
    ((beginDelete s via c).ctx k).state = 6 := by
  obtain ⟨u, hu, heq⟩ := beginDelete_workEnds s via c
  rw [heq, State.modCtx_ctx]
  split
  · rfl
  · next hk => exact (hu.ctx k).1.trans (h.resolve_left hk)

theorem deletionsBegun_frame (s : State) (l : List Nat) :
    (deletionsBegun s l).sage = s.sage ∧ ∀ n, n < 16 → (deletionsBegun s l).mbox n = s.mbox n := by
  refine List.foldlRecOn (motive := fun u : State => u.sage = s.sage ∧ ∀ n, n < 16 → u.mbox n = s.mbox n) l _ ⟨rfl, fun _ _ => rfl⟩
    fun u h c _ => ?_
  obtain ⟨hsage, hbox⟩ := h
  exact ⟨(beginDelete_sage u _ _).trans hsage, fun n hn => (beginDelete_box u _ _ hn).trans (hbox n hn)⟩

theorem deletionsBegun_deleting {l : List Nat} {s : State} {c : BitVec 16} (h : c.toNat ∈ l ∨ (s.ctx c.toNat).state = 6) :
    ((deletionsBegun s l).ctx c.toNat).state = 6 := by
  induction l generalizing s with
  | nil => exact h.resolve_left List.not_mem_nil
  | cons k l ih =>
    refine ih (s := beginDelete s none (BitVec.ofNat 16 k)) ?_
    by_cases hk : c.toNat = k
    · refine .inr (beginDelete_deleting (.inl ?_))
      rw [← hk, BitVec.ofNat_toNat, BitVec.setWidth_eq]
    · rcases h with hmem | hdeleting
      · exact .inl ((List.mem_cons.mp hmem).resolve_left hk)
      · exact .inr (beginDelete_deleting (.inr hdeleting))

/-- An entry that differs from the default is listed with its value. -/
theorem mem_of_sget_ne {α : Type} {d : α} {m : SMap α} {n : Nat} (h : sget d m n ≠ d) : (n, sget d m n) ∈ m := by
  induction m with
  | nil => exact absurd rfl h
  | cons e rest ih =>
    obtain ⟨k, v⟩ := e
    rw [sget] at h ⊢
    split
    · next hk => exact hk ▸ List.mem_cons_self
    · next hk =>
      rw [if_neg hk] at h
      exact List.mem_cons_of_mem _ (ih h)

/-- The contexts of a tenant that are in use and not yet DELETING. -/
def ownContexts (s : State) (t : BitVec 16) : List Nat :=
  (s.ctxs.filter fun e => e.2.state != 0 && e.2.state != 6 && e.2.tenant.v == t).map (·.1)

theorem mem_ownContexts {s : State} {t : BitVec 16} {c : Nat} (hstate : (s.ctx c).state ≠ 0) (hdeleting : (s.ctx c).state ≠ 6)
    (htenant : (s.ctx c).tenant.v = t) : c ∈ ownContexts s t := by
  have hmem : (c, s.ctx c) ∈ s.ctxs := mem_of_sget_ne fun h => hstate (congrArg Ctx.state h)
  exact List.mem_map.mpr ⟨_, List.mem_filter.mpr ⟨hmem, Bool.and_eq_true_iff.mpr ⟨Bool.and_eq_true_iff.mpr
    ⟨bne_iff_ne.mpr hstate, bne_iff_ne.mpr hdeleting⟩, beq_iff_eq.mpr htenant⟩⟩, rfl⟩

/-- The work of a tenant whose credential goes: its sessions, and then its contexts (R430, R437). -/
def tenantOver (s : State) (t : BitVec 16) : State :=
  deletionsBegun (sessionsOver s (vfsOf s t)) (ownContexts (sessionsOver s (vfsOf s t)) t)

/-- TENANT_REVOKE of a tenant that has a record (R430, R437). -/
theorem tenantRevoke_of_present {s : State} {n : MboxN} {tag tenant : BitVec 16} (hready : Ready s) (hn : n.val < 16)
    (hpresent : (tenantRec s tenant.toNat).present = true) : tenantRevoke s (.mailbox n tag) tenant =
      answer (modTenant (tenantOver s tenant) tenant.toNat fun r => { r with cred := none }) (.mailbox n tag) 0x0011 0 St.ok 0 [] := by
  unfold tenantRevoke
  rw [permitted_of_pf0Box hready hn (by decide), if_neg (by simp [hpresent])]
  rfl

theorem tenantOver_box (s : State) (t : BitVec 16) {n : Nat} (hn : n < 16) : (tenantOver s t).mbox n = s.mbox n :=
  ((deletionsBegun_frame _ _).2 n hn).trans ((keepsTenants_sessionsOver s _).box n hn)

theorem tenantOver_tenants (s : State) (t : BitVec 16) : (tenantOver s t).sage.tenants = s.sage.tenants :=
  (congrArg Sage.tenants (deletionsBegun_frame _ _).1).trans (keepsTenants_sessionsOver s _).tenants

theorem tenantOver_session {s : State} {t : BitVec 16} {vf : Nat} (h : vf ∈ vfsOf s t) : sessionOf (tenantOver s t) vf = Session.fresh :=
  (sessionOf_congr (deletionsBegun_frame _ _).1 vf).trans ((sessionsOver_session _ s vf).trans (if_pos h))

theorem tenantOver_ctx {s : State} {t c : BitVec 16} (hstate : (s.ctx c.toNat).state ≠ 0) (htenant : (s.ctx c.toNat).tenant.v = t) :
    ((tenantOver s t).ctx c.toNat).state = 6 := by
  obtain ⟨hstate', htenant'⟩ := (keepsTenants_sessionsOver s (vfsOf s t)).ctx c.toNat
  refine deletionsBegun_deleting ?_
  by_cases hdeleting : (s.ctx c.toNat).state = 6
  · exact .inr (hstate'.trans hdeleting)
  · refine .inl (mem_ownContexts ?_ ?_ ?_)
    · rwa [hstate']
    · rwa [hstate']
    · rwa [htenant']

/-! ### The reset of a VF (R437, R493) -/

/-- A VF bound to a tenant (R437). -/
def bindVf (s : State) (vf : Nat) (t : BitVec 16) : State :=
  s.modSage fun g => { g with vfTenant := sput (Paired.of 0) g.vfTenant vf (Paired.of t) }

section
variable (s : State) (vf : Nat) (t : BitVec 16)

theorem tenantOf_bindVf : tenantOf (bindVf s vf t) vf = Paired.of t := sget_sput_same _ _ _ _
theorem sessionOf_bindVf (k : Nat) : sessionOf (bindVf s vf t) k = sessionOf s k := rfl
theorem qp_bindVf (x q : Nat) : (bindVf s vf t).qp x q = s.qp x q := rfl
theorem mbox_bindVf (n : Nat) : (bindVf s vf t).mbox n = s.mbox n := rfl

end

section
variable (s : State) (n : MboxN) (tag cmd ctx : BitVec 16) (st : Status) (value : Nat) (data : List Byte)

theorem tenantOf_answer_mailbox (k : Nat) : tenantOf (answer s (.mailbox n tag) cmd ctx st value data) k = tenantOf s k := rfl
theorem sessionOf_answer_mailbox (k : Nat) : sessionOf (answer s (.mailbox n tag) cmd ctx st value data) k = sessionOf s k := rfl
theorem qp_answer_mailbox (x q : Nat) : (answer s (.mailbox n tag) cmd ctx st value data).qp x q = s.qp x q := rfl

end

/-- VF_ASSIGN to a tenant that has a record (R437). -/
theorem vfAssign_of_present {s : State} {n : MboxN} {tag tenant : BitVec 16} (vf : VfN) (hready : Ready s) (hn : n.val < 16)
    (hpresent : (tenantRec s tenant.toNat).present = true) : vfAssign s (.mailbox n tag) vf tenant =
      answer (bindVf (resetVf s vf) vf tenant) (.mailbox n tag) 0x0012 0 St.ok 0 [] := by
  unfold vfAssign
  rw [permitted_of_pf0Box hready hn (by decide), if_neg (by simp [hpresent])]
  rfl

/-- A VF's reset ends its session and leaves of its pairs what stands in host memory. -/
theorem resetVf_effect (s : State) (vf : Nat) : sessionOf (resetVf s vf) vf = Session.fresh ∧
    (∀ n, n < 16 → (resetVf s vf).mbox n = s.mbox n) ∧
    ∀ q, q < 32 → ∃ w m, (resetVf s vf).qp vf q = { Qp.fresh with written := w, msix := m } := by
  have hkept := keepsTenants_closeSession s vf false
  have hsession : sessionOf (closeSession s vf false) vf = Session.fresh := (closeSession_session s vf false vf).trans (if_pos rfl)
  unfold resetVf
  generalize closeSession s vf false = u at hkept hsession ⊢
  have hpair (q : Nat) (hq : q < 32) := modPairs_qp u vf (fun q => { Qp.fresh with written := q.written, msix := q.msix }) hq
  obtain ⟨qps, heq⟩ := modPairs_eq u vf fun q => { Qp.fresh with written := q.written, msix := q.msix }
  rw [heq] at hpair ⊢
  exact ⟨hsession, hkept.box, fun q hq => ⟨_, _, hpair q hq⟩⟩

end Sys2Proof.Machine
end

section
/-! PROOFS. O32: tenant records and the bindings of VFs (R430, R437). -/

namespace Sys2Proof.Proofs
open Sys2Proof Sys2Proof.Machine

/-- Settles O32: each command comes to its case in a mailbox of PF0; what ends with a credential is said by the lemmas about `tenantOver`,
what a VF's reset leaves by `resetVf_effect`. -/
theorem tenantRecordsAndBindings : Obligations.TenantRecordsAndBindings := by
  unfold Obligations.TenantRecordsAndBindings
  intro s n tag tenant hready hn hwaits
  refine ⟨fun quota mask hpos hmax hquota => ?set, fun hpresent => ⟨?revoke, fun vf => ?assign⟩⟩
  case set =>
    refine ⟨_, congrArg Host.Outcome.next (tenantSet_of_room hready hn hpos hmax hquota), rfl, ?_, fun k hk => ?_,
      answered_of_waits hwaits rfl tag 0x0010 0 St.ok 0 []⟩
    · rw [tenantRec_answer_mailbox, tenantRec_modTenant, if_pos rfl]
    · rw [tenantRec_answer_mailbox, tenantRec_modTenant, if_neg hk]
  case revoke =>
    have hexec := tenantRevoke_of_present (tag := tag) hready hn hpresent
    have hbox := tenantOver_box s tenant hn
    have hrec : tenantRec (tenantOver s tenant) tenant.toNat = tenantRec s tenant.toNat :=
      congrArg (sget Tenant.fresh · tenant.toNat) (tenantOver_tenants s tenant)
    have hsessions := fun vf => tenantOver_session (s := s) (t := tenant) (vf := vf)
    have hctxs := fun c => tenantOver_ctx (s := s) (t := tenant) (c := c)
    generalize tenantOver s tenant = u at hexec hbox hrec hsessions hctxs
    refine ⟨_, congrArg Host.Outcome.next hexec, ?_, fun vf hvf _ => hsessions vf hvf, hctxs, answered_of_waits hwaits hbox tag 0x0011 0 St.ok 0 []⟩
    rw [tenantRec_answer_mailbox, tenantRec_modTenant, if_pos rfl, hrec]
  case assign =>
    have hexec := vfAssign_of_present (tag := tag) vf hready hn hpresent
    obtain ⟨hsession, hbox, hpairs⟩ := resetVf_effect s vf
    refine ⟨_, congrArg Host.Outcome.next hexec, ?_, ?_, fun q => ?_,
      answered_of_waits hwaits ((mbox_bindVf _ _ _ _).trans (hbox n hn)) tag 0x0012 0 St.ok 0 []⟩
    · rw [tenantOf_answer_mailbox, tenantOf_bindVf]
    · rw [sessionOf_answer_mailbox, sessionOf_bindVf, hsession]
    · rw [qp_answer_mailbox, qp_bindVf]
      exact hpairs q q.isLt

end Sys2Proof.Proofs
end

section
/-! SUPPORT. Mailboxes: who accesses one, what the reads of a lock come to, and what releases, doorbells, wakes and lock breaks leave in it
(R457, R459 to R469). -/

namespace Sys2Proof.Machine

theorem State.modMbox_mbox_same (s : State) (n : Nat) (f : Mbox → Mbox) : (s.modMbox n f).mbox n = f (s.mbox n) :=
  (State.modMbox_mbox s n f n).trans (if_pos rfl)

theorem State.modMbox_mbox_ne (s : State) {n k : Nat} (f : Mbox → Mbox) (hk : k ≠ n) : (s.modMbox n f).mbox k = s.mbox k :=
  (State.modMbox_mbox s n f k).trans (if_neg hk)

/-! ### Endpoints (R457, Table 14-1) -/

theorem bayDenied_of_allowed {ep : BitVec 5} {n : Nat} (h : ¬(ep = 1 ∧ 32 ≤ n)) : bayDenied ep.toNat n = false := by
  unfold bayDenied
  rw [Bool.and_eq_false_iff, beq_eq_false_iff_ne, decide_eq_false_iff_not]
  exact (not_and_or.mp h).imp_left fun hne heq => hne (BitVec.eq_of_toNat_eq heq)

/-- PF0 sends in no secure mailbox. -/
theorem maySend_pf0_secure {n : Nat} (h : 32 ≤ n) : maySend 1 n = false := by
  have h16 : ¬n < 16 := by omega
  have h24 : ¬n < 24 := by omega
  have h32 : ¬n < 32 := by omega
  unfold maySend
  rw [if_neg h16, if_neg h24, if_neg h32]
  split_ifs <;> simp <;> omega

/-- The number 0 of a free lock is no sender's. -/
theorem maySend_zero (n : Nat) : maySend 0 n = false := by
  unfold maySend
  split_ifs <;> simp <;> omega

theorem ne_zero_of_maySend {ep : BitVec 5} {n : Nat} (h : maySend ep.toNat n = true) : ep ≠ 0 := by
  rintro rfl
  exact Bool.false_ne_true ((maySend_zero n).symm.trans h)

theorem owns_iff {s : State} {ep : BitVec 5} {n : Nat} : owns s ep.toNat n = true ↔ ep ≠ 0 ∧ (s.mbox n).owner.v = ep := by
  unfold owns
  rw [Bool.and_eq_true, bne_iff_ne, beq_iff_eq, BitVec.toNat_inj]
  exact and_congr_left' (not_congr (BitVec.toNat_inj (y := 0)))

/-! ### One read of a lock (R459) -/

/-- Mailbox `n` whose lock the endpoint has acquired by its read. -/
def acquired (s : State) (ep : BitVec 5) (n : Nat) : State :=
  { s.modMbox n fun m => { m with owner := Paired.of ep, broken := false } with readData := 0 }

theorem acquired_mbox (s : State) (ep : BitVec 5) (n k : Nat) :
    (acquired s ep n).mbox k = if k = n then { s.mbox n with owner := Paired.of ep, broken := false } else s.mbox k :=
  sget_sput _ _ _ _ _

section LockRead
variable {s : State} {ep : BitVec 5} {n : Nat} (hallow : bayDenied ep.toNat n = false) (hok : (s.mbox n).owner.ok = true)
include hallow hok

/-- A read that is not denied, of a lock whose pair holds. -/
theorem lockRead_of_allowed : lockRead s ep.toNat n =
    if !maySend ep.toNat n then
      { s with readData := BitVec.ofNat 64 (if (s.mbox n).owner.v.toNat = 0 then 31 else (s.mbox n).owner.v.toNat) }
    else if (s.mbox n).owner.v.toNat = 0 then acquired s (BitVec.ofNat 5 ep.toNat) n
    else { s with readData := if (s.mbox n).owner.v.toNat = ep.toNat then 0 else (s.mbox n).owner.v.setWidth 64 } := by
  unfold lockRead
  rw [if_neg (by simp [hallow])]
  dsimp only
  rw [if_neg (by simp [hok])]
  rfl

/-- The read by which a sender acquires a free lock. -/
theorem lockRead_of_free (hsend : maySend ep.toNat n = true) (hfree : (s.mbox n).owner.v = 0) : lockRead s ep.toNat n = acquired s ep n := by
  have hzero : (s.mbox n).owner.v.toNat = 0 := congrArg BitVec.toNat hfree
  rw [lockRead_of_allowed hallow hok, if_neg (by simp [hsend]), if_pos hzero, BitVec.ofNat_toNat, BitVec.setWidth_eq]

/-- A read of a free lock by an endpoint that may not send. -/
theorem lockRead_of_free_not_sender (hsend : maySend ep.toNat n = false) (hfree : (s.mbox n).owner.v = 0) :
    lockRead s ep.toNat n = { s with readData := 31 } := by
  have hzero : (s.mbox n).owner.v.toNat = 0 := congrArg BitVec.toNat hfree
  rw [lockRead_of_allowed hallow hok, if_pos (by simp [hsend]), if_pos hzero]
  rfl

/-- A read of a lock that is owned: it changes nothing, and the owner alone reads 0. -/
theorem lockRead_of_held (hheld : (s.mbox n).owner.v ≠ 0) : lockRead s ep.toNat n =
    { s with readData := if maySend ep.toNat n = true ∧ (s.mbox n).owner.v = ep then 0 else (s.mbox n).owner.v.setWidth 64 } := by
  have hpos : (s.mbox n).owner.v.toNat ≠ 0 := fun h => hheld (BitVec.eq_of_toNat_eq h)
  rw [lockRead_of_allowed hallow hok, if_neg hpos, if_neg hpos, BitVec.ofNat_toNat]
  by_cases hsend : maySend ep.toNat n = true
  · simp [hsend, BitVec.toNat_inj]
  · simp [hsend]

end LockRead

/-! ### Reads in one cycle (R460) -/

/-- The winner is the lowest of the endpoints that may send. -/
theorem lockWinner_eq_some_iff {n w : Nat} {eps : List Nat} :
    lockWinner n eps = some w ↔ (w ∈ eps ∧ maySend w n = true) ∧ ∀ x ∈ eps, maySend x n = true → w ≤ x := by
  unfold lockWinner
  simp only [List.min?_eq_some_iff, List.mem_filter, and_imp]

section LockReads
variable {s : State} {ep : BitVec 5} {os : List (BitVec 5)} {n : Nat}

/-- A winner among the endpoints of the reads. -/
theorem lockWinner_of_lowest {e : BitVec 5} (hmem : e ∈ ep :: os) (hsend : maySend e.toNat n = true)
    (hlow : ∀ x ∈ ep :: os, maySend x.toNat n = true → e.toNat ≤ x.toNat) :
    lockWinner n (ep.toNat :: os.map BitVec.toNat) = some e.toNat := by
  rw [← List.map_cons, lockWinner_eq_some_iff]
  exact ⟨⟨List.mem_map_of_mem hmem, hsend⟩, List.forall_mem_map.mpr hlow⟩

theorem lockWinner_mem {w : Nat} (h : lockWinner n (ep.toNat :: os.map BitVec.toNat) = some w) :
    ∃ e ∈ ep :: os, e.toNat = w ∧ maySend e.toNat n = true := by
  rw [← List.map_cons, lockWinner_eq_some_iff] at h
  obtain ⟨⟨hmem, hsend⟩, -⟩ := h
  obtain ⟨e, he, rfl⟩ := List.mem_map.mp hmem
  exact ⟨e, he, rfl, hsend⟩

/-- Where no other endpoint wins, the read stands alone. -/
theorem lockReads_of_no_rival (hothers : ∀ e ∈ os, bayDenied e.toNat n = false)
    (h : ∀ w, lockWinner n (ep.toNat :: os.map BitVec.toNat) = some w → w = ep.toNat) :
    lockReads s ep.toNat (os.map BitVec.toNat) n = lockRead s ep.toNat n := by
  have hany : (os.map BitVec.toNat).any (fun e => bayDenied e n) = false := by simpa using hothers
  unfold lockReads
  rw [hany]
  cases hwin : lockWinner n (ep.toNat :: os.map BitVec.toNat) with
  | none => rfl
  | some w => simp [h w hwin]

/-- Where another endpoint wins, its read comes first. -/
theorem lockReads_of_rival {w : Nat} (hothers : ∀ e ∈ os, bayDenied e.toNat n = false)
    (hwin : lockWinner n (ep.toNat :: os.map BitVec.toNat) = some w) (hne : w ≠ ep.toNat) (hok : (s.mbox n).owner.ok = true) :
    lockReads s ep.toNat (os.map BitVec.toNat) n = lockRead (lockRead s w n) ep.toNat n := by
  have hany : (os.map BitVec.toNat).any (fun e => bayDenied e n) = false := by simpa using hothers
  unfold lockReads
  simp [hany, hwin, hne, hok]

/-- The reads of an owned lock do not bear on one another: the winner's acquires nothing. -/
theorem lockReads_of_held (hallow : ∀ e ∈ ep :: os, bayDenied e.toNat n = false) (hok : (s.mbox n).owner.ok = true)
    (hheld : (s.mbox n).owner.v ≠ 0) : lockReads s ep.toNat (os.map BitVec.toNat) n = lockRead s ep.toNat n := by
  obtain ⟨hself, hothers⟩ := List.forall_mem_cons.mp hallow
  by_cases hrival : ∃ w, lockWinner n (ep.toNat :: os.map BitVec.toNat) = some w ∧ w ≠ ep.toNat
  · obtain ⟨w, hwin, hne⟩ := hrival
    obtain ⟨e, hmem, rfl, hsend⟩ := lockWinner_mem hwin
    rw [lockReads_of_rival hothers hwin hne hok, lockRead_of_held (hallow e hmem) hok hheld, lockRead_of_held hself hok hheld]
    exact lockRead_of_held hself hok hheld
  · push Not at hrival
    exact lockReads_of_no_rival hothers hrival

/-- PF0's read of a secure mailbox's lock is logged (R457). -/
theorem lockReads_pf0_secure (h : 32 ≤ n) : lockReads s 1 [] n = { bayViolation s n with readData := 0 } := by
  have hwin : lockWinner n [1] = none := by simp [lockWinner, maySend_pf0_secure h]
  have hdenied : bayDenied 1 n = true := by simp [bayDenied, h]
  simp [lockReads, lockRead, hwin, hdenied]

end LockReads

/-! ### Releases and acknowledges (R462, R464, R467) -/

/-- A released mailbox holds no message, so that an acknowledge of one changes nothing. -/
theorem Mbox.released_ack (m : Mbox) (st : Status) (v : BitVec 24) : m.released.ack st v = m.released := rfl

theorem nextMessage_of_none {s : State} (h : s.sys.owedMsgs = []) : nextMessage s = s := by
  unfold nextMessage
  rw [h]

/-- A release by the owner, where no completion message takes the mailbox at once. -/
theorem bayRelease_of_owner {s : State} {ep n : Nat} (hallow : bayDenied ep n = false) (hok : (s.mbox n).owner.ok = true)
    (howns : owns s ep n = true) (howed : 16 ≤ n → n < 24 → s.sys.owedMsgs = []) : bayRelease s ep n = s.modMbox n Mbox.released := by
  unfold bayRelease
  simp only [hallow, hok, howns]
  by_cases hn : 16 ≤ n ∧ n < 24
  · exact (if_pos hn).trans (nextMessage_of_none (howed hn.1 hn.2))
  · exact if_neg hn

theorem bayRelease_of_not_owner {s : State} {ep n : Nat} (hallow : bayDenied ep n = false) (hok : (s.mbox n).owner.ok = true)
    (howns : owns s ep n = false) : bayRelease s ep n = s := by
  unfold bayRelease
  simp [hallow, hok, howns]

/-- An acknowledge leaves in its mailbox what `Mbox.ack` does, or what stood there. -/
theorem bayAck_mbox (s : State) (ep n : Nat) (st : Status) (v : BitVec 24) :
    (bayAck s ep n st v).mbox n = (s.mbox n).ack st v ∨ (bayAck s ep n st v).mbox n = s.mbox n := by
  unfold bayAck
  split_ifs
  · exact .inr rfl
  · exact .inl (State.modMbox_mbox_same _ _ _)
  · exact .inr rfl

theorem bayAck_of_receiver {s : State} {ep n : Nat} (hallow : bayDenied ep n = false) (hrecv : ep = receiverOf n)
    (hnow : discarded s .module = false) (st : Status) (v : BitVec 24) : bayAck s ep n st v = s.modMbox n fun m => m.ack st v := by
  unfold bayAck
  simp [← hrecv, hallow, hnow]

theorem bayAck_of_not_receiver {s : State} {ep n : Nat} (hallow : bayDenied ep n = false) (hrecv : ep ≠ receiverOf n) (st : Status)
    (v : BitVec 24) : bayAck s ep n st v = s := by
  unfold bayAck
  simp [hallow, hrecv]

/-! ### Doorbells, time-outs and wakes (R463, R465, R466, R468) -/

/-- A mailbox whose doorbell is rung: the message is pending and its timer runs (R463, R466). -/
def Mbox.rung (m : Mbox) (now : Nat) : Mbox :=
  { m with pending := true, done := false, timeout := false, late := false, due := m.dueAt now }

/-- The state in which a doorbell is rung: PF0 is notified where it is the receiver (R463). -/
def doorbellRung (s : State) (n : Nat) : State :=
  let s := s.modMbox n fun m => m.rung s.gov.now
  if receiverOf n = 1 then s.modCxl fun x => { x with msix0 := x.msix0 + 1 } else s

theorem doorbellRung_eq (s : State) (n : Nat) : ∃ x, doorbellRung s n = { s.modMbox n fun m => m.rung s.gov.now with cxl := x } := by
  unfold doorbellRung
  split
  · exact ⟨_, rfl⟩
  · exact ⟨s.cxl, rfl⟩

theorem doorbellRung_mbox (s : State) (n k : Nat) : (doorbellRung s n).mbox k = if k = n then (s.mbox n).rung s.gov.now else s.mbox k := by
  obtain ⟨x, heq⟩ := doorbellRung_eq s n
  rw [heq]
  exact sget_sput _ _ _ _ _

theorem doorbellRung_mbox_same (s : State) (n : Nat) : (doorbellRung s n).mbox n = (s.mbox n).rung s.gov.now :=
  (doorbellRung_mbox s n n).trans (if_pos rfl)

/-- The receiver takes the code of the message: it answers nothing at once (R465). -/
theorem badCode_of_taken {s : State} {n : Nat}
    (h : ¬(n < 16 ∨ (24 ≤ n ∧ n < 32)) ∨ (boxCodes n).contains ((sget 0 (s.mbox n).payload 0).toNat % 65536) = true) : badCode s n = s :=
  if_pos (h.imp_left fun hn => by rw [decide_eq_false hn]; rfl)

/-- A doorbell of the owner, of an enabled mailbox that holds no message. -/
theorem doorbell_of_owner {s : State} {ep n : Nat} (hallow : bayDenied ep n = false) (hok : (s.mbox n).owner.ok = true)
    (howns : owns s ep n = true) (hidle : (s.mbox n).pending = false) (hnow : discarded s .module = false)
    (henabled : boxDisabled s n = false) :
    doorbell s ep n =
      if wakesPd1 s n then ((doorbellRung s n).modMbox n fun m => { m with waking := true }).modPwr fun w => { w with wake := true }
      else badCode (doorbellRung s n) n := by
  have hguard : ¬((!owns s ep n) = true ∨ (s.mbox n).pending = true ∨ discarded s .module = true) := by simp [howns, hidle, hnow]
  have hwake : wakesPd1 (doorbellRung s n) n = wakesPd1 s n := by
    obtain ⟨_, heq⟩ := doorbellRung_eq s n
    rw [heq]
    rfl
  rw [← hwake]
  unfold doorbell
  rw [if_neg (by simp [hallow]), if_neg (by simp [hok]), if_neg hguard]
  exact if_neg (Bool.eq_false_iff.mp henabled)

/-- A doorbell of another endpoint, or of a mailbox that holds a message. -/
theorem doorbell_ignored {s : State} {ep n : Nat} (hallow : bayDenied ep n = false) (hok : (s.mbox n).owner.ok = true)
    (h : (s.mbox n).pending = true ∨ owns s ep n = false) : doorbell s ep n = s := by
  have hguard : (!owns s ep n) = true ∨ (s.mbox n).pending = true ∨ discarded s .module = true := by
    rcases h with hpending | hother
    · exact .inr (.inl hpending)
    · exact .inl (by rw [hother]; rfl)
  unfold doorbell
  rw [if_neg (by simp [hallow]), if_neg (by simp [hok]), if_pos hguard]

theorem bayTimeout_of_pending {s : State} {n : Nat} (h : (s.mbox n).pending = true) :
    bayTimeout s n = (s.advance (s.mbox n).due).modMbox n fun m => { m with timeout := true, status := St.timeout, pending := false } := by
  unfold bayTimeout
  rw [if_neg (by simp [h])]

/-- The wake that a mailbox waited for is complete: PD1 is powered, and the receiver takes the message. -/
theorem wakeComplete_of_waking {s : State} {n : Nat} (hwake : s.pwr.wake = true) (hwaking : (s.mbox n).waking = true)
    (htaken : ¬(n < 16 ∨ (24 ≤ n ∧ n < 32)) ∨ (boxCodes n).contains ((sget 0 (s.mbox n).payload 0).toNat % 65536) = true) :
    wakeComplete s n = (s.modPwr fun w => { w with on := w.on ||| 2, pd1 := true, wake := false }).modMbox n fun m =>
      { m with waking := false } := by
  unfold wakeComplete
  rw [if_pos hwake]
  refine (if_neg (by rw [State.modPwr_mbox, hwaking]; simp)).trans ?_
  dsimp only
  split
  · exact badCode_of_taken (by rw [State.modMbox_mbox_same]; exact htaken)
  · rfl

/-! ### Broken locks (R469) -/

/-- A broken lock is recorded and noticed in mailbox 63; nothing but mailboxes and records changes. -/
theorem breakLock_eq (s : State) (n : Nat) : ∃ bs e x, breakLock s n = { s with mboxes := bs, err := e, cxl := x } := by
  unfold breakLock
  extract_lets owner u v
  obtain ⟨e, x, heq⟩ : ErrOnly u v := (ErrOnly.refl u).recordNow _
  rw [heq]
  exact ⟨_, e, x, rfl⟩

/-- Any mailbox but 63 after a lock break: the broken one is released and marked. -/
theorem breakLock_mbox (s : State) (n : Nat) {k : Nat} (hk : k ≠ 63) :
    (breakLock s n).mbox k = if k = n then { (s.mbox n).released with broken := true } else s.mbox k := by
  unfold breakLock
  dsimp only
  rw [State.modMbox_mbox_ne _ _ hk, recordNow_mbox, State.modMbox_mbox]

/-- The notice in mailbox 63 is a pending message of Sage. -/
theorem breakLock_notice (s : State) (n : Nat) : ((breakLock s n).mbox 63).owner = Paired.of 3 ∧ ((breakLock s n).mbox 63).pending = true := by
  unfold breakLock
  dsimp only
  rw [State.modMbox_mbox_same]
  exact ⟨rfl, rfl⟩

end Sys2Proof.Machine
end

section
/-! PROOFS. O35 to O37: the locks, doorbells, acknowledges, time-outs, wakes and lock breaks of the mailboxes (R457, R459 to R469). -/

namespace Sys2Proof.Proofs
open Sys2Proof Sys2Proof.Machine

/-- Settles O35: a free lock goes to the winner (`lockReads_of_no_rival`, `lockReads_of_rival`), and reads of an owned one stand alone
(`lockReads_of_held`). -/
theorem lockReadsAcquireFreeLocks : Obligations.LockReadsAcquireFreeLocks := by
  unfold Obligations.LockReadsAcquireFreeLocks
  intro s ep os n hok
  refine ⟨?pf0, fun hself hothers => ?_⟩
  case pf0 =>
    rintro rfl hsecure
    exact congrArg Host.Outcome.next (lockReads_pf0_secure hsecure)
  have hallow : ∀ e ∈ ep :: os, bayDenied e.toNat n = false :=
    List.forall_mem_cons.mpr ⟨bayDenied_of_allowed hself, fun e he => bayDenied_of_allowed (hothers e he)⟩
  obtain ⟨hsender, hrivals⟩ := List.forall_mem_cons.mp hallow
  have hheld := lockReads_of_held (s := s) hallow hok
  refine ⟨fun hsend hfree hlow => ?wins, fun e he hsend hne hfree hlow => ?loses, fun hsend howner hpos => ?own, fun hsend hpos hne => ?other,
    fun hsend hnone => ?reader⟩
  case wins =>
    have hwin := lockWinner_of_lowest (List.mem_cons_self ..) hsend (List.forall_mem_cons.mpr ⟨fun _ => le_rfl, hlow⟩)
    have hread := (lockReads_of_no_rival hrivals fun w hw => Option.some.inj (hw.symm.trans hwin)).trans (lockRead_of_free hsender hok hsend hfree)
    exact ⟨_, congrArg Host.Outcome.next hread, rfl, (acquired_mbox s ep n n).trans (if_pos rfl),
      fun k hk => (acquired_mbox s ep n k).trans (if_neg hk)⟩
  case loses =>
    have hmem := List.mem_cons_of_mem ep he
    have hfirst := (lockReads_of_rival hrivals (lockWinner_of_lowest hmem hsend hlow) (fun h => hne (BitVec.eq_of_toNat_eq h)) hok).trans
      (congrArg (lockRead · ep.toNat n) (lockRead_of_free (hallow e hmem) hok hsend hfree))
    have hbox : (acquired s e n).mbox n = { s.mbox n with owner := Paired.of e, broken := false } := (acquired_mbox s e n n).trans (if_pos rfl)
    have hread := hfirst.trans (lockRead_of_held hsender (by rw [hbox]; exact Paired.of_ok e) (by rw [hbox]; exact ne_zero_of_maySend hsend))
    have howner : ((acquired s e n).mbox n).owner.v = e := by rw [hbox]; rfl
    rw [howner, if_neg fun h => hne h.2] at hread
    exact ⟨_, congrArg Host.Outcome.next hread, rfl, hbox, fun k hk => (acquired_mbox s e n k).trans (if_neg hk)⟩
  case own =>
    have hread := (hheld (howner ▸ hpos)).trans (lockRead_of_held hsender hok (howner ▸ hpos))
    rw [if_pos ⟨hsend, howner⟩] at hread
    exact congrArg Host.Outcome.next hread
  case other =>
    have hread := (hheld hpos).trans (lockRead_of_held hsender hok hpos)
    rw [if_neg fun h => hne h.2] at hread
    exact congrArg Host.Outcome.next hread
  case reader =>
    refine congrArg Host.Outcome.next ?_
    by_cases hfree : (s.mbox n).owner.v = 0
    · have hsenders : ∀ e ∈ ep :: os, maySend e.toNat n = false := List.forall_mem_cons.mpr ⟨hsend, hnone hfree⟩
      rw [if_pos hfree, ← lockRead_of_free_not_sender hsender hok hsend hfree]
      refine lockReads_of_no_rival hrivals fun w hw => ?_
      obtain ⟨e, he, -, hwins⟩ := lockWinner_mem hw
      exact absurd hwins (by simp [hsenders e he])
    · rw [if_neg hfree]
      have hread := (hheld hfree).trans (lockRead_of_held hsender hok hfree)
      rwa [if_neg fun h => Bool.false_ne_true (hsend.symm.trans h.1)] at hread

/-- Settles O36: the owner's release is `Mbox.released`, whose message no acknowledge completes; any other is ignored. -/
theorem releasesFreeTheLock : Obligations.ReleasesFreeTheLock := by
  unfold Obligations.ReleasesFreeTheLock
  intro s ep n hok hself
  have hallow := bayDenied_of_allowed hself
  refine ⟨fun hpos howner howed => ?_, fun hne => ?_⟩
  · have hbox : (s.modMbox n Mbox.released).mbox n = (s.mbox n).released := State.modMbox_mbox_same _ _ _
    refine ⟨_, congrArg Host.Outcome.next (bayRelease_of_owner hallow hok (owns_iff.mpr ⟨hpos, howner⟩) howed), rfl, hbox,
      fun k hk => State.modMbox_mbox_ne _ _ hk, fun r st v => ⟨_, rfl, ?_⟩⟩
    refine (bayAck_mbox _ _ _ st v).elim (fun hack => ?_) id
    rw [hack, hbox, Mbox.released_ack]
  · exact congrArg Host.Outcome.next (bayRelease_of_not_owner hallow hok (Bool.eq_false_iff.mpr fun h => hne (owns_iff.mp h).2))

/-- Settles O37: doorbells, acknowledges, time-outs and wakes by what each leaves in its mailbox; a lock break by `breakLock_eq`,
`breakLock_mbox` and `breakLock_notice`. -/
theorem doorbellsWakesAndBreaks : Obligations.DoorbellsWakesAndBreaks := by
  unfold Obligations.DoorbellsWakesAndBreaks
  refine ⟨fun s ep n hself hnow => ?_, fun s n hok howner hlo hhi hidle hoff henabled hnow => ?wakes,
    fun s n hwake hwaking hpending htaken => ?woken, fun s n hn hreset => ?breaks⟩
  · have hallow := bayDenied_of_allowed hself
    refine ⟨fun hok hpos howner hidle henabled hawake htaken => ?rings, fun hok hignored => ?ignored,
      fun st v => ⟨fun hrecv => ⟨fun hpending htime => ?acks, fun htime => ?late⟩, fun hrecv => ?foreign⟩, fun hpending => ?timeout⟩
    case rings =>
      have hrings := doorbell_of_owner hallow hok (owns_iff.mpr ⟨hpos, howner⟩) hidle hnow henabled
      have hbox := doorbellRung_mbox_same s n
      rw [hawake, if_neg Bool.false_ne_true, badCode_of_taken (by rw [hbox]; exact htaken)] at hrings
      obtain ⟨x, heq⟩ := doorbellRung_eq s n
      exact ⟨_, congrArg Host.Outcome.next hrings, by rw [heq]; rfl, hbox, fun k hk => (doorbellRung_mbox s n k).trans (if_neg hk)⟩
    case ignored =>
      refine congrArg Host.Outcome.next (doorbell_ignored hallow hok (hignored.imp_right fun hne => ?_))
      exact Bool.eq_false_iff.mpr fun h => hne (owns_iff.mp h).2
    case acks =>
      refine ⟨_, congrArg Host.Outcome.next (bayAck_of_receiver hallow hrecv hnow st v), rfl, ?_⟩
      unfold Answered
      rw [BitVec.ofNat_toNat, BitVec.setWidth_eq]
      exact (State.modMbox_mbox_same _ _ _).trans (ack_of_waits ⟨hpending, htime⟩ st v)
    case late =>
      exact ⟨_, congrArg Host.Outcome.next (bayAck_of_receiver hallow hrecv hnow st v), rfl,
        (State.modMbox_mbox_same _ _ _).trans (if_pos htime)⟩
    case foreign => exact congrArg Host.Outcome.next (bayAck_of_not_receiver hallow hrecv st v)
    case timeout =>
      exact ⟨_, congrArg Host.Outcome.next (bayTimeout_of_pending hpending), rfl, State.modMbox_mbox_same _ _ _⟩
  case wakes =>
    have hallow : bayDenied (1 : BitVec 5).toNat n = false := bayDenied_of_allowed fun h => absurd h.2 (by omega)
    have hrings := doorbell_of_owner hallow hok (owns_iff.mpr ⟨by decide, howner⟩) hidle hnow henabled
    have hwakes : wakesPd1 s n = true := by
      unfold wakesPd1
      rw [hoff, decide_eq_true hlo, decide_eq_true (by omega : n.val < 40)]
      rfl
    rw [if_pos hwakes] at hrings
    have hbox : ((doorbellRung s n).modMbox n fun m => { m with waking := true }).mbox n = { (s.mbox n).rung s.gov.now with waking := true } := by
      rw [State.modMbox_mbox_same, doorbellRung_mbox_same]
    exact ⟨_, congrArg Host.Outcome.next hrings, congrArg Mbox.waking hbox, congrArg Mbox.pending hbox, rfl⟩
  case woken =>
    refine ⟨_, congrArg Host.Outcome.next (wakeComplete_of_waking hwake hwaking htaken), rfl, rfl, ?_, rfl,
      State.modMbox_mbox_same _ _ _⟩
    exact BitVec.getLsbD_or.trans (Bool.or_true _)
  case breaks =>
    obtain ⟨bs, e, x, hframe⟩ := breakLock_eq s n
    obtain ⟨howner, hpending⟩ := breakLock_notice s n
    refine ⟨_, congrArg Host.Outcome.next (if_pos hreset), ?_, (breakLock_mbox s n hn).trans (if_pos rfl), congrArg Paired.v howner, hpending,
      fun k hk hk63 => (breakLock_mbox s n hk63).trans (if_neg hk)⟩
    rw [hframe]

end Sys2Proof.Proofs
end

section
/-! SUPPORT. The memory window: which page stands behind a frame, and what its reads and writes come to (R479). -/

namespace Sys2Proof.Machine

/-- No page stands behind a frame that lies in no area. -/
theorem frameOf_of_outside {s : State} {f : Nat}
    (h : ∀ e ∈ s.cxl.areas, e.2.valid = true → f < e.2.first.toNat ∨ e.2.first.toNat + e.2.len ≤ f) : frameOf s f = none := by
  unfold frameOf
  refine List.findSome?_eq_none_iff.mpr fun e he => if_neg fun hin => ?_
  obtain ⟨hmem, hvalid⟩ := List.mem_filter.mp he
  have hout := h e hmem hvalid
  omega

theorem windowRead_of_outside {s : State} {f : BitVec 20} (h : frameOf s f.toNat = none) (off : Nat) :
    windowRead s f off = windowError { s with readData := 0, readPoison := true } f false := by
  unfold windowRead
  rw [h]

theorem windowWrite_of_outside {s : State} {f : BitVec 20} (h : frameOf s f.toNat = none) (off : Nat) (data : List Byte) :
    windowWrite s f off data = windowError s f true := by
  unfold windowWrite
  rw [h]

theorem windowWrite_of_export {s : State} {f : BitVec 20} {a : Area} {g : Nat} (h : frameOf s f.toNat = some (a, g)) (hexport : a.exportA = true)
    (off : Nat) (data : List Byte) : windowWrite s f off data = windowError s f true := by
  unfold windowWrite
  simp only [h, hexport, if_true]

section
variable {s : State} {f : BitVec 20} {a : Area} {g off : Nat}

theorem windowRead_of_area (h : frameOf s f.toNat = some (a, g)) (hok : (s.page g).ok = true) (hoff : off + 8 ≤ 65536) :
    windowRead s f off = { s with readPoison := false, readData := BitVec.ofNat 64 (ofLeBytes (bread s.stack (g * 65536 + off) 8)) } := by
  unfold windowRead
  simp only [h, onPages_of_ok _ (List.forall_mem_singleton.mpr hok), Nat.min_eq_left (by omega : 8 ≤ 65536 - off)]

theorem windowWrite_of_area (h : frameOf s f.toNat = some (a, g)) (hok : (s.page g).ok = true) (hexport : a.exportA = false) {data : List Byte}
    (hfits : off + data.length ≤ 65536) : windowWrite s f off data = { s with stack := bwrite s.stack (g * 65536 + off) data } := by
  unfold windowWrite
  simp only [h, hexport, onPages_of_ok _ (List.forall_mem_singleton.mpr hok), List.take_of_length_le (by omega : data.length ≤ 65536 - off)]
  rfl

end

/-- Digit `i` of a little-endian number is its byte `i`. -/
theorem ofLeBytes_digit (bs : List Byte) (i : Nat) : ofLeBytes bs / 2 ^ (8 * i) % 2 ^ 8 = (bs.getD i 0).toNat := by
  induction bs generalizing i with
  | nil => simp [ofLeBytes]
  | cons b bs ih =>
    have hcons : ofLeBytes (b :: bs) = 2 ^ 8 * ofLeBytes bs + b.toNat := by simp only [ofLeBytes, List.foldr_cons]; omega
    rw [hcons]
    cases i with
    | zero =>
      have := b.isLt
      simp only [List.getD_cons_zero]
      omega
    | succ i =>
      rw [List.getD_cons_succ, ← ih, Nat.mul_succ, Nat.add_comm (8 * i), Nat.pow_add, ← Nat.div_div_eq_div_mul,
        Nat.mul_add_div (by decide), Nat.div_eq_of_lt b.isLt, Nat.add_zero]

/-- Byte `i` of a little-endian number in a word. -/
theorem extractLsb'_ofLeBytes {w i : Nat} (bs : List Byte) (hi : 8 * i + 8 ≤ w) :
    (BitVec.ofNat w (ofLeBytes bs)).extractLsb' (8 * i) 8 = bs.getD i 0 := by
  refine BitVec.eq_of_getLsbD_eq fun j hj => ?_
  have hin : 8 * i + j < w := by omega
  rw [BitVec.getLsbD_extractLsb', BitVec.getLsbD_ofNat, ← BitVec.testBit_toNat (bs.getD i 0), ← ofLeBytes_digit, Nat.testBit_mod_two_pow,
    Nat.testBit_div_two_pow, Nat.add_comm j]
  simp only [hj, hin, decide_true, Bool.true_and]

end Sys2Proof.Machine
end

section
/-! PROOFS. O40: the memory window (R479). -/

namespace Sys2Proof.Proofs
open Sys2Proof Sys2Proof.Machine

/-- Settles O40: `frameOf_of_outside` for frames in no area; within one, `bget_bwrite` and `extractLsb'_ofLeBytes` say which bytes are
written and read. -/
theorem memoryWindowReachesAreas : Obligations.MemoryWindowReachesAreas := by
  unfold Obligations.MemoryWindowReachesAreas
  refine fun s f off data => ⟨fun hout => ?outside, fun a g hframe hok => ⟨fun hexport => ?exported, fun hexport hfits => ?written, fun hoff => ?read⟩⟩
  case outside =>
    have hnone := frameOf_of_outside hout
    exact ⟨congrArg Host.Outcome.next (windowRead_of_outside hnone _), congrArg Host.Outcome.next (windowWrite_of_outside hnone _ _)⟩
  case exported => exact congrArg Host.Outcome.next (windowWrite_of_export hframe hexport _ _)
  case written => exact ⟨_, congrArg Host.Outcome.next (windowWrite_of_area hframe hok hexport hfits), rfl, fun x => bget_bwrite _ _ _ x⟩
  case read =>
    refine ⟨_, congrArg Host.Outcome.next (windowRead_of_area hframe hok hoff), rfl, fun i hi => ?_⟩
    refine (extractLsb'_ofLeBytes _ (by omega)).trans ?_
    simp [bread, hi]

end Sys2Proof.Proofs
end

section
/-! SUPPORT. Areas of STAGING pages, and the base of a partition frozen, given up, and what its replacement leaves (R373, R478). -/

namespace Sys2Proof.Machine

/-! ### Pages taken (R186, R188) -/

theorem attrOf_pageWord (a : Attr) (owner : Option Nat) (ctx : BitVec 16) : attrOf (pageWord a owner ctx) = a := by
  have hcode : ((pageWord a owner ctx).extractLsb' 0 3).toNat = a.code % 8 := by
    rw [BitVec.extractLsb'_toNat, Nat.shiftRight_zero]
    unfold pageWord
    rw [BitVec.toNat_ofNat]
    split <;> omega
  unfold attrOf
  rw [hcode]
  cases a <;> rfl

theorem takePages_page (a : Attr) (owner : Option Nat) (ctx : BitVec 16) (gs : List Nat) (s : State) (g : Nat) :
    (takePages s a owner ctx gs).page g = if g ∈ gs then Paired.of (pageWord a owner ctx) else s.page g := by
  induction gs generalizing s with
  | nil => rfl
  | cons x gs ih =>
    have hset : (setAttr s a owner ctx x).page g = if g = x then Paired.of (pageWord a owner ctx) else s.page g := by
      obtain ⟨_, heq⟩ := setAttr_eq s a owner ctx x
      rw [heq]
      exact State.setPage_page s x _ g
    refine (ih (setAttr s a owner ctx x)).trans ?_
    rw [hset]
    by_cases hg : g = x
    · simp [hg]
    · simp [hg]

/-- Pages taken for another use than FREE keep their bytes. -/
theorem takePages_stack {a : Attr} (ha : a ≠ .free) (owner : Option Nat) (ctx : BitVec 16) (gs : List Nat) (s : State) :
    (takePages s a owner ctx gs).stack = s.stack := by
  refine List.foldlRecOn (motive := fun u : State => u.stack = s.stack) gs _ rfl fun u h g _ => ?_
  rw [← h]
  cases a
  case free => contradiction
  all_goals rfl

/-! ### BASE_STAGE (R478) -/

/-- A new area over pages that were FREE. -/
theorem makeArea_eq {s u : State} {p n a : Nat} {exportA : Bool} {gs : List Nat} (h : makeArea s p n exportA = some (a, gs, u)) :
    ∃ f, u = (takePages s .staging (some p) 0xFFFF gs).modCxl fun x =>
      { x with areas := sput Area.fresh x.areas a ⟨f, BitVec.ofNat 3 p, exportA, true, gs, n⟩ } := by
  unfold makeArea at h
  split at h
  · next f _ _ _ _ =>
    obtain ⟨rfl, rfl, rfl⟩ : _ ∧ _ ∧ _ := by simpa using h
    exact ⟨BitVec.ofNat 20 f, rfl⟩
  · contradiction

/-! ### BASE_INSTALL (R478) -/

/-- Pages of a staging area frozen for its partition; the others are given back, and the area is gone. -/
def areaFrozen (s : State) (p a : Nat) (area : Area) (ps : List Nat) : State :=
  (freePages (takePages s .frozen (some p) 0xFFFF ps) (area.pages.filter fun g => !ps.contains g)).modCxl fun x =>
    { x with areas := sput Area.fresh x.areas a Area.fresh }

/-- A partition that takes a base with these leaves. -/
def Part.withBase (q : Part) (ps : List Nat) (leaves : List (BitVec 256)) : Part :=
  { q with basePages := ps, baseLeaves := leaves, baseDigest := digestRoot leaves,
           baseEpoch := if q.baseEpoch.v = 0 then Paired.of 1 else q.baseEpoch, integ := { q.integ with refused := false } }

/-! The commands (R464) -/

section
variable {s : State} {n : MboxN} {p : Nat} (tag : BitVec 16) (hready : Ready s) (hn : n.val < 16) (hst : (s.part p).st = 1)
include hready hn hst

theorem baseStage_of_area {k a : Nat} {gs : List Nat} {u : State} (hk : k ≠ 0) (hnone : stagingArea s p = none)
    (hmake : makeArea s p k false = some (a, gs, u)) :
    baseStage s (.mailbox n tag) p k = answer u (.mailbox n tag) 3 0 St.ok (gs.headD 0) [] := by
  unfold baseStage
  rw [permitted_of_pf0Box hready hn (by decide), if_neg (by rw [hst]; decide), if_neg (not_not_intro hst)]
  simp only [hnone, hk, hmake, if_false]

theorem baseInstall_of_staged {first count a : Nat} {area : Area} {ps : List Nat} (hepoch : (s.part p).baseEpoch.ok = true)
    (hbase : holdsBase (s.part p) = false) (harea : stagingArea s p = some (a, area)) (hrun : stagedRun s p first count = some ps)
    (hcount : count ≠ 0) :
    baseInstall s (.mailbox n tag) p first count =
      answer ((areaFrozen s p a area ps).modPart p fun q => q.withBase ps (ps.map (pageLeaf s))) (.mailbox n tag) 4 0 St.ok 0 [] := by
  unfold baseInstall
  rw [permitted_of_pf0Box hready hn (by decide)]
  dsimp only
  rw [if_neg (by rw [hst]; decide), if_neg (not_not_intro hst), if_neg (by simp [hepoch]), if_neg (by simp [hbase])]
  simp only [harea, hrun, hcount, if_false]
  rfl

end

theorem areaFrozen_page {g : Nat} {ps : List Nat} (hg : g ∈ ps) (s : State) (p a : Nat) (area : Area) :
    attrOf ((areaFrozen s p a area ps).page g).v = .frozen := by
  have hstays : g ∉ area.pages.filter fun g => !ps.contains g := by simp [hg]
  unfold areaFrozen
  rw [State.modCxl_page, freePages_page, if_neg hstays, takePages_page, if_pos hg]
  exact attrOf_pageWord .frozen (some p) 0xFFFF

/-- Frozen pages and given-up areas leave partitions, mailboxes and the other areas. -/
theorem areaFrozen_eq (s : State) (p a : Nat) (area : Area) (ps : List Nat) : ∃ es m, areaFrozen s p a area ps =
    ({ s with pages := es, stack := m } : State).modCxl fun x => { x with areas := sput Area.fresh x.areas a Area.fresh } := by
  obtain ⟨_, _, htaken⟩ := takePages_eq .frozen (some p) 0xFFFF ps s
  obtain ⟨_, _, hfreed⟩ := freePages_eq (takePages s .frozen (some p) 0xFFFF ps) (area.pages.filter fun g => !ps.contains g)
  unfold areaFrozen
  rw [hfreed, htaken]
  exact ⟨_, _, rfl⟩

/-! ### BASE_REPLACE (R373) -/

/-- From `s` to `t` work of a partition ends: the mailboxes in which commands come stay, and of the partition the base epoch,
what runs and what waits to replace the base. -/
structure BaseStays (p : Nat) (s t : State) : Prop where
  boxes : KeepsBoxes s t
  epoch : (t.part p).baseEpoch = (s.part p).baseEpoch
  running : (t.part p).running = (s.part p).running
  replacing : (t.part p).replacing = (s.part p).replacing

theorem sweepSnaps_part (s : State) (p : Nat) : (sweepSnaps s).part p = s.part p := by
  unfold State.part
  rw [sweepSnaps_parts]

theorem part_answer_mailbox (s : State) (n : MboxN) (tag cmd ctx : BitVec 16) (st : Status) (value : Nat) (data : List Byte) (p : Nat) :
    (answer s (.mailbox n tag) cmd ctx st value data).part p = s.part p := rfl

/-- A partition whose requests and staging change. -/
def Part.withDill (q : Part) (d : Dill) : Part := { q with dill := d }

theorem endReqs_part (s : State) (p : Nat) (st : Status) : ∃ d, (endReqs s p st).part p = (s.part p).withDill d := by
  unfold endReqs
  extract_lets rs noted completed freed
  have hnoted : Served s noted := by
    unfold noted
    split
    · exact .noteServed s p _
    · exact .refl s
  have hcompleted : Served noted completed := .foldl (fun u r => .of_errOnly (completeReq_errOnly u r st)) rs noted
  have hserved : Served s freed := (hnoted.trans hcompleted).trans (.freeKv completed p _)
  obtain ⟨_, _, hfreed⟩ := hserved.part p
  rw [sweepSnaps_part, State.modPart_part, if_pos rfl, hfreed]
  exact ⟨_, rfl⟩

theorem endTrain_part (s : State) (p : Nat) (st : Status) :
    ∃ served, (endTrain s p st).part p = (s.part p).withoutTrains (fun _ => true) served := (endTrains_effect s p _ st).2

namespace BaseStays

variable {p : Nat} {s t u : State}

theorem refl (p : Nat) (s : State) : BaseStays p s s := ⟨.refl s, rfl, rfl, rfl⟩

theorem trans (h : BaseStays p s t) (h' : BaseStays p t u) : BaseStays p s u :=
  ⟨h.boxes.trans h'.boxes, h'.epoch.trans h.epoch, h'.running.trans h.running, h'.replacing.trans h.replacing⟩

theorem of_part (hboxes : KeepsBoxes s t) (hpart : t.part p = s.part p) : BaseStays p s t :=
  ⟨hboxes, by rw [hpart], by rw [hpart], by rw [hpart]⟩

theorem foldl {α : Type} {f : State → α → State} (hf : ∀ s a, BaseStays p s (f s a)) (l : List α) (s : State) : BaseStays p s (l.foldl f s) :=
  List.foldlRecOn (motive := fun u : State => BaseStays p s u) l f (refl p s) fun u h a _ => h.trans (hf u a)

theorem modPart (s : State) (p : Nat) {f : Part → Part} (hepoch : ∀ q, (f q).baseEpoch = q.baseEpoch) (hrun : ∀ q, (f q).running = q.running)
    (hreplacing : ∀ q, (f q).replacing = q.replacing) : BaseStays p s (s.modPart p f) := by
  have hpart : (s.modPart p f).part p = f (s.part p) := (State.modPart_part s p f p).trans (if_pos rfl)
  exact ⟨.modPart s p f, hpart ▸ hepoch _, hpart ▸ hrun _, hpart ▸ hreplacing _⟩

theorem freePages (s : State) (gs : List Nat) : BaseStays p s (freePages s gs) := by
  refine of_part (.givesBack (.freePages s gs)) ?_
  obtain ⟨_, _, h⟩ := freePages_eq s gs
  rw [h]
  rfl

theorem finish (s : State) (via : Via) (cmd ctx : BitVec 16) (st : Status) (value : Nat) (data : List Byte) :
    BaseStays p s (finish s via cmd ctx st value data) := by
  refine of_part (.finish s via cmd ctx st value data) ?_
  obtain ⟨_, _, _, _, _, h, -⟩ := finish_eq s via cmd ctx st value data
  rw [h]
  rfl

/-! Requests and loads (R311, R343) -/

theorem endReqs (s : State) (p : Nat) (st : Status) : BaseStays p s (endReqs s p st) := by
  obtain ⟨_, hpart⟩ := endReqs_part s p st
  exact ⟨.givesBack (.endReqs s p st), by rw [hpart]; rfl, by rw [hpart]; rfl, by rw [hpart]; rfl⟩

theorem endTrain (s : State) (p : Nat) (st : Status) : BaseStays p s (endTrain s p st) := by
  obtain ⟨_, hpart⟩ := endTrain_part s p st
  exact ⟨.givesBack (.endTrain s p st), by rw [hpart]; rfl, by rw [hpart]; rfl, by rw [hpart]; rfl⟩

theorem putReply {s : State} (h : PagesOk s) (g : Nat) (bs : List Byte) : BaseStays p s (putReply s g bs) := by
  refine of_part (.putReply h g bs) ?_
  unfold Machine.putReply
  split
  · rw [onPages_of_ok _ fun x _ => h x]
    rfl
  · rfl

theorem clearRanges (s : State) (info : ImgInfo) : BaseStays p s (clearRanges s info) := by
  obtain ⟨_, h⟩ := clearRanges_eq s info
  rw [h]
  exact of_part (.of_eq rfl) rfl

theorem endLoad {s : State} (h : LoadEnds s p) (st : Status) : BaseStays p s (endLoad s p st) := by
  unfold Machine.endLoad
  split
  · exact refl p s
  · next l hl =>
    have hpages : PagesOk s := h.resolve_left (by simp [hl])
    extract_lets base ended
    have hbase : BaseStays p s base ∧ PagesOk base := by
      by_cases hw : l.written = true
      · rw [show base = Machine.freePages (Machine.clearRanges s l.res.info) _ from if_pos hw]
        exact ⟨(clearRanges _ _).trans (freePages _ _), (KeepsBoxes.clearLoad hpages _ _).2⟩
      · rw [show base = s from if_neg hw]
        exact ⟨refl p s, hpages⟩
    have hended : PagesOk ended := hbase.2
    have hunloaded : BaseStays p base ended := modPart _ _ (fun _ => rfl) (fun _ => rfl) fun _ => rfl
    exact (hbase.1.trans hunloaded).trans ((putReply hended _ _).trans (finish _ _ _ _ _ _ _))

/-! The job, its images and the base (R213, R373, R398) -/

theorem abandonCkpt (s : State) (p : Nat) (cause : Status) : BaseStays p s (abandonCkpt s p cause) := by
  unfold Machine.abandonCkpt
  dsimp only
  split
  · exact refl p s
  · exact .trans (foldl (fun u g => of_part (.setPage u g _) rfl) _ s) (modPart _ _ (fun _ => rfl) (fun _ => rfl) fun _ => rfl)

theorem stopJob {s : State} (h : (s.part p).running = none) (st : Status) : BaseStays p s (stopJob s p st) := by
  have hidle := (abandonCkpt s p st).running.trans h
  unfold Machine.stopJob Machine.endJobNow
  simp only [h, hidle]
  exact abandonCkpt s p st

theorem dropImage (s : State) (p i : Nat) (last : Status) : BaseStays p s (dropImage s p i last) := by
  unfold Machine.dropImage
  refine .trans ?_ (modPart _ _ (fun _ => rfl) (fun _ => rfl) fun _ => rfl)
  split
  · exact refl p s
  · exact (clearRanges _ _).trans (freePages _ _)

theorem zeroMacros (s : State) (lo hi : Nat) : BaseStays p s (zeroMacros s lo hi) := of_part (.of_eq rfl) rfl

end BaseStays

theorem PagesOk.of_pages {s t : State} (h : PagesOk s) (hpages : t.pages = s.pages) : PagesOk t := by
  unfold PagesOk State.page at h ⊢
  rwa [hpages]

theorem PagesOk.sweepSnaps {s : State} (h : PagesOk s) : PagesOk (sweepSnaps s) := by
  intro g
  unfold Machine.sweepSnaps
  refine (congrArg Paired.ok (freePages_page _ _ g)).trans ?_
  split
  · exact Paired.of_ok _
  · exact h g

theorem ErrOnly.pages {s t : State} (h : ErrOnly s t) : t.pages = s.pages := by
  obtain ⟨_, _, rfl⟩ := h
  rfl

theorem foldl_pages {α : Type} {f : State → α → State} (hf : ∀ s a, ErrOnly s (f s a)) (l : List α) (s : State) : (l.foldl f s).pages = s.pages :=
  List.foldlRecOn (motive := fun u : State => u.pages = s.pages) l f rfl fun u h a _ => (hf u a).pages.trans h

theorem PagesOk.endReqs {s : State} (h : PagesOk s) (p : Nat) (st : Status) : PagesOk (endReqs s p st) := by
  unfold Machine.endReqs
  extract_lets rs noted completed freed
  have hnoted : noted.pages = s.pages := by unfold noted; split <;> rfl
  have hcompleted : completed.pages = noted.pages := foldl_pages (fun u r => completeReq_errOnly u r st) rs noted
  have hfreed : freed.pages = completed.pages := by unfold freed freeKv; split <;> rfl
  exact PagesOk.sweepSnaps (h.of_pages (hfreed.trans (hcompleted.trans hnoted)))

theorem PagesOk.endTrain {s : State} (h : PagesOk s) (p : Nat) (st : Status) : PagesOk (endTrain s p st) := by
  unfold Machine.endTrain endTrains
  exact h.of_pages (foldl_pages (fun u t => finishTrain_errOnly u t st) _ _)

/-- The end of requests keeps what the end of a load asks for. -/
theorem LoadEnds.endRequests {s : State} {p : Nat} (h : LoadEnds s p) (st : Status) : LoadEnds (endTrain (endReqs s p st) p st) p := by
  refine h.imp (fun hnone => ?_) fun hpages => (hpages.endReqs p st).endTrain p st
  obtain ⟨_, hreqs⟩ := endReqs_part s p st
  obtain ⟨_, htrain⟩ := endTrain_part (endReqs s p st) p st
  rw [htrain, hreqs]
  exact hnone

/-- A partition without a base: the epoch counts up (R373). -/
def Part.unbased (q : Part) : Part :=
  { q with basePages := [], baseLeaves := [], baseDigest := 0, baseEpoch := Paired.of (q.baseEpoch.v + 1), layout := [], layoutFrom := [],
           weights := 0, replacing := none, yield_ := none, resumes := [] }

/-- All work of a partition ended, its images dropped, its macros zeroised and the pages of its base given back. -/
def baseFreed (s : State) (p : Nat) : State :=
  let s := stopJob (endLoad (endTrain (endReqs s p St.staleBase) p St.staleBase) p St.disabled) p St.disabled
  let s := (List.range 2).foldl (fun s i => dropImage s p i ((s.part p).image i).last) s
  let s := ((s.part p).layout.map fun (b : Block1) => b.macroIx).foldl (fun s m => zeroMacros s m (m + 1)) s
  freePages s (s.part p).basePages

theorem baseFreed_stays {s : State} {p : Nat} (hload : LoadEnds s p) (hrun : (s.part p).running = none) : BaseStays p s (baseFreed s p) := by
  unfold baseFreed
  extract_lets stopped dropped zeroed
  have hended := ((BaseStays.endReqs s p St.staleBase).trans (.endTrain _ _ St.staleBase)).trans
    (.endLoad (hload.endRequests St.staleBase) St.disabled)
  have hstopped : BaseStays p s stopped := hended.trans (.stopJob (hended.running.trans hrun) _)
  have hdropped : BaseStays p stopped dropped := .foldl (fun u i => .dropImage u p i _) _ _
  have hzeroed : BaseStays p dropped zeroed := .foldl (fun u m => .zeroMacros u m _) _ _
  exact (hstopped.trans hdropped).trans (hzeroed.trans (.freePages _ _))

/-- A base is replaced in a partition in which nothing runs, and in which no other replacement waits. -/
theorem replaceBase_of_idle {s : State} {p : Nat} (hload : LoadEnds s p) (hrun : (s.part p).running = none)
    (hidle : (s.part p).replacing = none) : replaceBase s p = (baseFreed s p).modPart p Part.unbased := by
  have hnone : ((baseFreed s p).part p).replacing = none := (baseFreed_stays hload hrun).replacing.trans hidle
  unfold replaceBase
  extract_lets ended stopped dropped zeroed freed via unbased
  have hvia : via = none := hnone
  clear_value via
  rw [hvia]
  rfl

theorem baseReplace_of_idle {s : State} {n : MboxN} {p : Nat} (tag : BitVec 16) (hready : Ready s) (hn : n.val < 16) (hst : (s.part p).st = 1)
    (hidle : (s.part p).replacing = none) (hrun : (s.part p).running = none) (hbase : holdsBase (s.part p) = true)
    (hepoch : (s.part p).baseEpoch.ok = true) (hload : LoadEnds s p) :
    baseReplace s (.mailbox n tag) p = answer ((baseFreed s p).modPart p Part.unbased) (.mailbox n tag) 5 0 St.ok 0 [] := by
  unfold baseReplace
  rw [permitted_of_pf0Box hready hn (by decide), ← replaceBase_of_idle hload hrun hidle]
  simp [hst, hidle, hrun, hbase, hepoch]

end Sys2Proof.Machine
end

section
/-! PROOFS. O25: bases staged, installed and replaced (R373, R478). -/

namespace Sys2Proof.Proofs
open Sys2Proof Sys2Proof.Machine

/-- Settles O25: `makeArea_eq` for the staged area, `areaFrozen_eq` and `areaFrozen_page` for the frozen base, `replaceBase_effect` for the
replaced one. -/
theorem basesAreStagedInstalledReplaced : Obligations.BasesAreStagedInstalledReplaced := by
  unfold Obligations.BasesAreStagedInstalledReplaced
  refine fun s n tag p hready hn hbox hst => ⟨fun k a gs u hk hnone hmake => ?stage,
    fun first count a area ps hepoch hbase harea hrun hcount => ?install, fun hidle hrun hbase hepoch hload => ?replace⟩
  case stage =>
    have hexec := baseStage_of_area tag hready hn hst hk hnone hmake
    obtain ⟨f, rfl⟩ := makeArea_eq hmake
    obtain ⟨es, m, htaken⟩ := takePages_eq .staging (some p.val) 0xFFFF gs s
    obtain rfl : m = s.stack := (congrArg State.stack htaken).symm.trans (takePages_stack (by decide) _ _ _ _)
    have hpage {g : Nat} (hg : g ∈ gs) : attrOf ((takePages s .staging (some p.val) 0xFFFF gs).page g).v = .staging := by
      rw [takePages_page, if_pos hg]
      exact attrOf_pageWord .staging (some p.val) 0xFFFF
    rw [htaken] at hexec hpage
    refine ⟨_, congrArg Host.Outcome.next hexec, rfl, fun g hg => hpage hg, ?_, ?_, answered_of_waits hbox rfl tag 3 0 St.ok _ []⟩
    · exact congrArg Area.pages (sget_sput_same _ _ _ _)
    · exact congrArg Area.valid (sget_sput_same _ _ _ _)
  case install =>
    have hexec := baseInstall_of_staged tag hready hn hst hepoch hbase harea hrun hcount
    have hpage {g : Nat} (hg : g ∈ ps) := areaFrozen_page hg s p a area
    obtain ⟨es, m, hfrozen⟩ := areaFrozen_eq s p a area ps
    rw [hfrozen] at hexec hpage
    refine ⟨_, congrArg Host.Outcome.next hexec, answered_of_waits hbox rfl tag 4 0 St.ok 0 [], ?_⟩
    rw [part_answer_mailbox, State.modPart_part, if_pos rfl]
    exact ⟨rfl, rfl, rfl, rfl, fun g hg => hpage hg, congrArg Area.valid (sget_sput_same Area.fresh s.cxl.areas a Area.fresh)⟩
  case replace =>
    have hfreed := baseFreed_stays hload hrun
    have hboxes : KeepsBoxes s ((baseFreed s p).modPart p Part.unbased) := hfreed.boxes.trans (.modPart _ _ _)
    refine ⟨_, congrArg Host.Outcome.next (baseReplace_of_idle tag hready hn hst hidle hrun hbase hepoch hload),
      answered_of_waits hbox (hboxes n hn) _ _ _ _ _ _, ?_⟩
    rw [part_answer_mailbox, State.modPart_part, if_pos rfl, ← hfreed.epoch]
    exact ⟨rfl, rfl, rfl, rfl⟩

end Sys2Proof.Proofs
end

section
/-! SUPPORT. Queue pairs while completions are written and requests end: what each operation leaves of them and of the fault ring
(R342, R481, R487, R546). -/

namespace Sys2Proof.Machine

/-! ### Fault records (R546, R552) -/

/-- From `s` to `t` alerts are raised: the error block but for its ring, and the count of PF0 vector 1. -/
def AlertsOnly (s t : State) : Prop := ∃ e m, t = { s with err := e, cxl := { s.cxl with msix1 := m } } ∧ e.ring = s.err.ring

namespace AlertsOnly

variable {s t u : State}

theorem refl (s : State) : AlertsOnly s s := ⟨_, _, rfl, rfl⟩

theorem trans (h : AlertsOnly s t) (h' : AlertsOnly t u) : AlertsOnly s u := by
  obtain ⟨_, _, rfl, hring⟩ := h
  obtain ⟨_, _, rfl, hring'⟩ := h'
  exact ⟨_, _, rfl, hring'.trans hring⟩

theorem ite {b : Prop} [Decidable b] (ht : AlertsOnly s t) (hu : AlertsOnly s u) : AlertsOnly s (if b then t else u) := by
  split
  · exact ht
  · exact hu

theorem fireV1 (s : State) : AlertsOnly s (fireV1 s) := ite (refl s) ⟨_, _, rfl, rfl⟩

theorem raiseAlert (s : State) (bit : Nat) : AlertsOnly s (raiseAlert s bit) :=
  ite (refl s) (.trans ⟨{ s.err with alert := s.err.alert ||| (1#8 <<< bit) }, s.cxl.msix1, rfl, rfl⟩ (fireV1 _))

end AlertsOnly

/-- A fault record stands in its slot of the ring; of the CXL block it changes the count of PF0 vector 1. -/
theorem recordAt_ring (s : State) (t : Nat) (ev : FaultEv) : ∃ e m,
    recordAt s t ev = { s with err := e, cxl := { s.cxl with msix1 := m } } ∧
      e.ring = sput FaultRec.none s.err.ring (s.err.head.toNat % 1024)
        ({ ev with parsley := ev.parsley && parsleyOpen s : FaultEv }.record s.err.head t) := by
  unfold recordAt
  extract_lets r ix full err ringed err' logged lost reported
  have hlogged : AlertsOnly ringed logged := .ite ⟨_, _, rfl, rfl⟩ (.refl _)
  have hlost : AlertsOnly logged lost := .ite (.raiseAlert _ _) (.refl _)
  have hreported : AlertsOnly lost reported := .ite (.raiseAlert _ _) (.refl _)
  obtain ⟨e, m, heq, hring⟩ := ((hlogged.trans hlost).trans hreported).trans (.trans (.raiseAlert _ 0) (.fireV1 _))
  exact ⟨e, m, heq, hring⟩

theorem recordNow_disabledFault (s : State) (vf q : Nat) (st : Status) : ∃ e m,
    recordNow s (disabledFault vf q st) = { s with err := e, cxl := { s.cxl with msix1 := m } } ∧
      sget FaultRec.none e.ring (s.err.head.toNat % 1024) = (disabledFault vf q st).record s.err.head s.tick := by
  obtain ⟨e, m, heq, hring⟩ := recordAt_ring s s.tick (disabledFault vf q st)
  exact ⟨e, m, heq, hring ▸ sget_sput_same _ _ _ _⟩

/-! ### A queue pair changed -/

theorem State.modQp_qp_same (s : State) (vf q : Nat) (f : Qp → Qp) : (s.modQp vf q f).qp vf q = f (s.qp vf q) :=
  (State.modQp_qp s vf q f vf q).trans (if_pos rfl)

theorem State.modQp_qp_ne (s : State) (vf : Nat) {q k : Nat} (f : Qp → Qp) (hk : k ≠ q) : (s.modQp vf q f).qp vf k = s.qp vf k :=
  (State.modQp_qp s vf q f vf k).trans (if_neg (by omega))

/-- A change of one pair, and of nothing else. -/
theorem State.modQp_alone (s : State) (vf q : Nat) (f : Qp → Qp) : s.modQp vf q f = { s with cxl := (s.modQp vf q f).cxl } ∧
    (s.modQp vf q f).qp vf q = f (s.qp vf q) ∧ ∀ k, k ≠ q → (s.modQp vf q f).qp vf k = s.qp vf k :=
  ⟨rfl, State.modQp_qp_same s vf q f, fun _ hk => State.modQp_qp_ne s vf f hk⟩

theorem State.modQp_congr {s : State} {vf q : Nat} {f g : Qp → Qp} (h : f (s.qp vf q) = g (s.qp vf q)) : s.modQp vf q f = s.modQp vf q g := by
  unfold State.modQp smod
  exact congrArg (fun v => { s with cxl := { s.cxl with qps := sput Qp.fresh s.cxl.qps (vf * 32 + q) v } }) h

/-- A change in which no failed translation newly disables the pair is recorded nowhere. -/
theorem modPair_of_quiet {s : State} {vf q : Nat} {f : Qp → Qp} (h : (f (s.qp vf q)).disabled = true → (s.qp vf q).disabled = true) :
    modPair s vf q f = s.modQp vf q f := by
  unfold modPair
  refine if_pos ?_
  rw [State.modQp_qp_same]
  cases hf : (f (s.qp vf q)).disabled
  · exact Bool.or_true _
  · rw [h hf]
    rfl

/-- A change that disables the pair is recorded. -/
theorem modPair_of_disables {s : State} {vf q : Nat} {f : Qp → Qp} (hs : (s.qp vf q).disabled = false)
    (hf : (f (s.qp vf q)).disabled = true) : modPair s vf q f = recordNow (s.modQp vf q f) (disabledFault vf q St.disabled) := by
  unfold modPair
  refine if_neg ?_
  rw [State.modQp_qp_same, hs, hf]
  decide

theorem modPair_qp (s : State) (vf q : Nat) (f : Qp → Qp) (x y : Nat) :
    (modPair s vf q f).qp x y = if x * 32 + y = vf * 32 + q then f (s.qp vf q) else s.qp x y := by
  unfold modPair
  dsimp only
  split
  · exact State.modQp_qp s vf q f x y
  · obtain ⟨_, _, heq, -⟩ := recordNow_disabledFault (s.modQp vf q f) vf q St.disabled
    rw [heq]
    exact State.modQp_qp s vf q f x y

/-! ### Completions written (R482, R487, R488) -/

/-- A pair of which the rings and the interrupt have moved. -/
def Qp.RingsMove (a b : Qp) : Prop := ∃ waiting written cqTail cqUsed cqPhase cntOut recOut d2hTail d2hUsed irqPending irqSince msix,
  b = { a with waiting := waiting, written := written, cqTail := cqTail, cqUsed := cqUsed, cqPhase := cqPhase, cntOut := cntOut,
               recOut := recOut, d2hTail := d2hTail, d2hUsed := d2hUsed, irqPending := irqPending, irqSince := irqSince, msix := msix }

theorem Qp.push_ringsMove (q : Qp) (qn now : Nat) (c : Completion) : q.RingsMove (q.push qn now c) := by
  unfold Qp.push
  split
  all_goals exact ⟨_, _, _, _, _, _, _, _, _, _, _, _, rfl⟩

/-- The completion stands in the ring or waits. -/
theorem Qp.mem_push (q : Qp) (qn now : Nat) (c : Completion) :
    ∃ d ∈ (q.push qn now c).written ++ (q.push qn now c).waiting, d.htag = c.htag ∧ d.status = c.status := by
  unfold Qp.push
  split
  · exact ⟨_, List.mem_append_left _ (List.mem_append_right _ (List.mem_singleton_self _)), rfl, rfl⟩
  · exact ⟨c, List.mem_append_right _ (List.mem_append_right _ (List.mem_singleton_self _)), rfl, rfl⟩

/-! ### Work that ends on a queue pair (R342, R481) -/

/-- From `a` to `b` a pair takes completions, or is disabled by a translation that fails (R481). -/
structure Qp.Settles (a b : Qp) : Prop where
  ctrl : b.ctrl = a.ctrl
  sqHead : b.sqHead = a.sqHead
  sqTail : b.sqTail = a.sqTail
  cntIn : b.cntIn = a.cntIn
  disabled : a.disabled = true → b.disabled = true
  status : b.status = a.status ∨ a.disabled = false ∧ b.status = St.disabled

namespace Qp.Settles

variable {a b c : Qp}

theorem refl (a : Qp) : a.Settles a := ⟨rfl, rfl, rfl, rfl, id, .inl rfl⟩

theorem trans (h : a.Settles b) (h' : b.Settles c) : a.Settles c := by
  refine ⟨h'.ctrl.trans h.ctrl, h'.sqHead.trans h.sqHead, h'.sqTail.trans h.sqTail, h'.cntIn.trans h.cntIn,
    fun ha => h'.disabled (h.disabled ha), ?_⟩
  rcases h'.status with hsame | ⟨hb, hst⟩
  · exact h.status.imp hsame.trans fun hst => ⟨hst.1, hsame.trans hst.2⟩
  · exact .inr ⟨Bool.eq_false_iff.mpr fun ha => Bool.false_ne_true (hb.symm.trans (h.disabled ha)), hst⟩

theorem of_ringsMove (h : a.RingsMove b) : a.Settles b := by
  obtain ⟨_, _, _, _, _, _, _, _, _, _, _, _, rfl⟩ := h
  exact ⟨rfl, rfl, rfl, rfl, id, .inl rfl⟩

theorem untranslated (a : Qp) : a.Settles a.untranslated := by
  refine ⟨rfl, rfl, rfl, rfl, fun _ => rfl, ?_⟩
  unfold Qp.untranslated
  cases ha : a.disabled
  · exact .inr ⟨rfl, rfl⟩
  · exact .inl rfl

/-- A pair that is disabled keeps its status. -/
theorem status_of_disabled (h : a.Settles b) (ha : a.disabled = true) : b.status = a.status :=
  h.status.resolve_right fun hst => Bool.false_ne_true (hst.1.symm.trans ha)

end Qp.Settles

/-- From `s` to `t` every queue pair takes completions, or is disabled by a translation that fails. -/
def PairsSettle (s t : State) : Prop := ∀ vf q, (s.qp vf q).Settles (t.qp vf q)

namespace PairsSettle

variable {s t u : State}

theorem of_qps (h : t.cxl.qps = s.cxl.qps) : PairsSettle s t := fun vf q => by
  unfold State.qp
  rw [h]
  exact .refl _

theorem refl (s : State) : PairsSettle s s := of_qps rfl

theorem trans (h : PairsSettle s t) (h' : PairsSettle t u) : PairsSettle s u := fun vf q => (h vf q).trans (h' vf q)

theorem foldl {α : Type} {f : State → α → State} (hf : ∀ s a, PairsSettle s (f s a)) (l : List α) (s : State) : PairsSettle s (l.foldl f s) :=
  List.foldlRecOn (motive := fun u : State => PairsSettle s u) l f (refl s) fun u h a _ => h.trans (hf u a)

theorem of_pair {vf q : Nat} {f : Qp → Qp} (hf : (s.qp vf q).Settles (f (s.qp vf q)))
    (ht : ∀ x y, t.qp x y = if x * 32 + y = vf * 32 + q then f (s.qp vf q) else s.qp x y) : PairsSettle s t := by
  intro x y
  rw [ht]
  split
  · next hxy =>
    unfold State.qp at hf ⊢
    rwa [hxy]
  · exact .refl _

theorem modQp (s : State) (vf q : Nat) {f : Qp → Qp} (hf : (s.qp vf q).Settles (f (s.qp vf q))) : PairsSettle s (s.modQp vf q f) :=
  of_pair hf (State.modQp_qp s vf q f)

theorem modPart (s : State) (p : Nat) (f : Part → Part) : PairsSettle s (s.modPart p f) := of_qps rfl

theorem touchAts (s : State) (vf : Nat) (addr : BitVec 64) : PairsSettle s (touchAts s vf addr) := by
  obtain ⟨_, heq⟩ := touchAts_eq s vf addr
  rw [heq]
  exact of_qps rfl

theorem complete (s : State) (vf q : Nat) (c : Completion) : PairsSettle s (complete s vf q c) := by
  unfold Machine.complete
  extract_lets pair c
  split
  · exact of_pair (.untranslated _) (modPair_qp s vf q _)
  · exact (touchAts s vf _).trans (modQp _ vf q (.of_ringsMove (Qp.push_ringsMove _ _ _ _)))

theorem completeReq (s : State) (r : Req) (st : Status) : PairsSettle s (completeReq s r st) := by
  unfold Machine.completeReq
  split
  · exact refl s
  · exact complete s _ _ _

theorem freeKv (s : State) (p : Nat) (ns : List Nat) : PairsSettle s (freeKv s p ns) := by
  unfold Machine.freeKv
  split
  all_goals exact of_qps rfl

theorem sweepSnaps (s : State) : PairsSettle s (sweepSnaps s) := by
  obtain ⟨_, _, _, _, _, h⟩ := sweepSnaps_snapsOnly s
  rw [h]
  exact of_qps rfl

theorem endSome (s : State) (p : Nat) (f : Req → Bool) (st : Status) : PairsSettle s (endSome s p f st) := by
  unfold Machine.endSome
  exact .trans (.trans (.trans (foldl (fun u r => completeReq u r st) _ _) (freeKv _ _ _)) (modPart _ _ _)) (sweepSnaps _)

theorem disableReqs (s : State) (p : Nat) (f : Req → Bool) (st : Status) : PairsSettle s (disableReqs s p f st) := by
  unfold Machine.disableReqs
  exact (modPart s p _).trans (endSome _ p _ _)

theorem finishTrain (s : State) (t : TrainJob) (st : Status) : PairsSettle s (finishTrain s t st) :=
  .trans (foldl (fun _ _ => complete _ _ _ _) _ s) (complete _ _ _ _)

theorem endTrains (s : State) (p : Nat) (f : TrainJob → Bool) (st : Status) : PairsSettle s (endTrains s p f st) := by
  unfold Machine.endTrains
  exact .trans (.trans (t := noteServed s p _) (modPart _ _ _) (foldl (fun u t => finishTrain u t st) _ _)) (modPart _ _ _)

theorem disableTrains (s : State) (p : Nat) (f : TrainJob → Bool) (st : Status) : PairsSettle s (disableTrains s p f st) := by
  unfold Machine.disableTrains
  exact (modPart s p _).trans (endTrains _ p _ _)

theorem endVfWork (s : State) (vf : Nat) (f : Nat → Bool) : PairsSettle s (endVfWork s vf f) :=
  foldl (fun u p => (disableReqs u p _ _).trans (disableTrains _ p _ _)) _ s

end PairsSettle

end Sys2Proof.Machine
end

section
/-! SUPPORT. The requests of a queue pair end (R342, R491): what is left of them, and where nothing is recorded of it. -/

namespace Sys2Proof.Machine

/-! ### What is left of the requests -/

theorem disableReqs_part (s : State) (p : Nat) (f : Req → Bool) (st : Status) (k : Nat) : (disableReqs s p f st).part k =
    if k = p then (s.part p).withReqs (((s.part p).dill.reqs.map (Req.disabledBy f st)).filter fun r => !(f r && r.rows == 0)) (s.part p).dill.served
    else s.part k := by
  unfold disableReqs State.part
  rw [endSome_parts]
  simp only [State.modPart_parts, State.modPart_part, sget_sput, if_true]
  split
  all_goals rfl

theorem endTrains_part_ne (s : State) {p k : Nat} (hk : k ≠ p) (f : TrainJob → Bool) (st : Status) : (endTrains s p f st).part k = s.part k := by
  unfold endTrains
  extract_lets q out noted finished
  have hfinished : ErrOnly noted finished :=
    List.foldlRecOn (motive := fun u : State => ErrOnly noted u) out _ (.refl noted) fun u h t _ => h.trans (finishTrain_errOnly u t st)
  rw [State.modPart_part, if_neg hk, hfinished.part]
  exact (State.modPart_part _ _ _ _).trans (if_neg hk)

/-- Training requests that end leave the other requests. -/
theorem disableTrains_reqs (s : State) (p : Nat) (f : TrainJob → Bool) (st : Status) (k : Nat) :
    ((disableTrains s p f st).part k).dill.reqs = (s.part k).dill.reqs := by
  unfold disableTrains
  extract_lets marked
  by_cases hk : k = p
  · subst hk
    obtain ⟨-, _, hpart⟩ := endTrains_effect marked k (fun t => f t && t.segment == 0) st
    rw [hpart]
    change (marked.part k).dill.reqs = _
    exact (congrArg (fun q : Part => q.dill.reqs) (State.modPart_part s k _ k)).trans (by rw [if_pos rfl])
  · rw [endTrains_part_ne _ hk]
    exact congrArg (fun q : Part => q.dill.reqs) ((State.modPart_part s p _ k).trans (if_neg hk))

/-- The requests of a partition that `f` names all have rows in the step in progress, and end with it. -/
def Part.EndsInStep (q : Part) (f : Req → Bool) (st : Status) : Prop := ∀ r ∈ q.dill.reqs, f r = true → r.rows ≠ 0 ∧ r.status = st

theorem disableReqs_endsInStep (s : State) (p : Nat) (f : Req → Bool) (st : Status) :
    ((disableReqs s p f st).part p).EndsInStep f st := by
  intro r hr hof
  rw [disableReqs_part, if_pos rfl] at hr
  obtain ⟨hmem, hleft⟩ := List.mem_filter.mp hr
  have hrows : r.rows ≠ 0 := by simpa [hof] using hleft
  obtain ⟨x, -, rfl⟩ := List.mem_map.mp hmem
  refine ⟨hrows, ?_⟩
  unfold Req.disabledBy at hof hrows ⊢
  by_cases hx : (f x && x.rows != 0) = true
  · rw [if_pos hx]
  · rw [if_neg hx] at hof hrows
    exact absurd (by simp [hof, hrows]) hx

/-- What one step of a fold brings about and every step keeps holds after it. -/
theorem foldl_of_mem {α σ : Type} {f : σ → α → σ} {P : σ → Prop} {l : List α} {a : α} (ha : a ∈ l) (hset : ∀ s, P (f s a))
    (hkeep : ∀ s b, P s → P (f s b)) (s : σ) : P (l.foldl f s) := by
  obtain ⟨l₁, l₂, rfl⟩ := List.append_of_mem ha
  rw [List.foldl_append, List.foldl_cons]
  exact List.foldlRecOn l₂ f (hset _) fun u h b _ => hkeep u b h

theorem endVfWork_endsInStep (s : State) (vf : Nat) (f : Nat → Bool) {p : Nat} (hp : p < 8) :
    ((endVfWork s vf f).part p).EndsInStep (fun r => r.vf == vf && f r.qp && r.command != 0x0110) St.disabled := by
  refine foldl_of_mem (P := fun u : State => (u.part p).EndsInStep _ _) (List.mem_range.mpr hp) (fun u => ?_) (fun u x h => ?_) s
  · intro r hr
    rw [disableTrains_reqs] at hr
    exact disableReqs_endsInStep u p _ _ r hr
  · intro r hr
    rw [disableTrains_reqs] at hr
    by_cases hx : p = x
    · subst hx
      exact disableReqs_endsInStep u p _ _ r hr
    · rw [disableReqs_part, if_neg hx] at hr
      exact h r hr

/-! ### Where nothing is recorded (R481, R546) -/

/-- A pair that is disabled already is not disabled again. -/
theorem complete_err {s : State} {vf q : Nat} (h : (s.qp vf q).disabled = true) (c : Completion) : (complete s vf q c).err = s.err := by
  unfold complete
  extract_lets pair c
  split
  · rw [modPair_of_quiet fun _ => h]
    rfl
  · obtain ⟨_, heq⟩ := touchAts_eq s vf (pair.cqBase + 128 * pair.cqTail.setWidth 64)
    rw [State.modQp_err, heq]

theorem foldl_completeReq_err {s : State} {vf q : Nat} (h : (s.qp vf q).disabled = true) (st : Status) {rs : List Req}
    (hrs : ∀ r ∈ rs, r.vf = vf ∧ r.qp = q) : (rs.foldl (fun s r => completeReq s r st) s).err = s.err := by
  refine (List.foldlRecOn (motive := fun u : State => PairsSettle s u ∧ u.err = s.err) rs _ ⟨.refl s, rfl⟩ ?_).2
  rintro u ⟨hpairs, herr⟩ r hr
  obtain ⟨rfl, rfl⟩ := hrs r hr
  refine ⟨hpairs.trans (.completeReq u r st), Eq.trans ?_ herr⟩
  unfold completeReq
  split
  · rfl
  · exact complete_err ((hpairs _ _).disabled h) _

theorem disableReqs_err {s : State} {vf q : Nat} (h : (s.qp vf q).disabled = true) (p : Nat) {f : Req → Bool} (st : Status)
    (hf : ∀ r, f r = true → r.vf = vf ∧ r.qp = q) : (disableReqs s p f st).err = s.err := by
  have hswept (u : State) : (sweepSnaps u).err = u.err := by
    obtain ⟨_, _, _, _, _, heq⟩ := sweepSnaps_snapsOnly u
    rw [heq]
  have hfreed (u : State) (ns : List Nat) : (freeKv u p ns).err = u.err := by
    unfold freeKv
    split <;> rfl
  unfold disableReqs endSome
  rw [hswept, State.modPart_err, hfreed]
  refine foldl_completeReq_err (s := s.modPart p _) h st fun r hr => hf r ?_
  exact (Bool.and_eq_true_iff.mp (List.mem_filter.mp hr).2).1

/-- No partition holds a training request. -/
def NoTrains (s : State) : Prop := ∀ p, p < 8 → (s.part p).train = none ∧ (s.part p).trainQ = []

theorem NoTrains.disableReqs {s : State} (h : NoTrains s) (p : Nat) (f : Req → Bool) (st : Status) : NoTrains (disableReqs s p f st) := by
  intro k hk
  rw [disableReqs_part]
  split
  · next heq => exact heq ▸ h k hk
  · exact h k hk

/-- Without training requests none ends. -/
theorem NoTrains.disableTrains {s : State} (h : NoTrains s) {p : Nat} (hp : p < 8) (f : TrainJob → Bool) (st : Status) :
    NoTrains (disableTrains s p f st) ∧ (disableTrains s p f st).err = s.err := by
  obtain ⟨htrain, hqueue⟩ := h p hp
  unfold Machine.disableTrains
  extract_lets marked
  have hmarked : (marked.part p).train = none ∧ (marked.part p).trainQ = [] := by
    rw [show marked.part p = _ from (State.modPart_part s p _ p).trans (if_pos rfl)]
    exact ⟨by rw [htrain]; rfl, hqueue⟩
  refine ⟨fun k hk => ?_, ?_⟩
  · by_cases hkp : k = p
    · subst hkp
      obtain ⟨-, _, hpart⟩ := endTrains_effect marked k (fun t => f t && t.segment == 0) st
      rw [hpart]
      simp [Part.withoutTrains, hmarked]
    · rw [endTrains_part_ne _ hkp, show marked.part k = s.part k from (State.modPart_part s p _ k).trans (if_neg hkp)]
      exact h k hk
  · unfold endTrains
    simp only [hmarked, Option.toList_none, List.nil_append, List.filter_nil, List.foldl_nil]
    rfl

/-- The requests of a disabled pair end without a record, where no training request ends with them. -/
theorem endVfWork_err {s : State} {vf q : Nat} (h : (s.qp vf q).disabled = true) (hnone : NoTrains s) :
    (endVfWork s vf fun k => k == q).err = s.err := by
  refine (List.foldlRecOn (motive := fun u : State => PairsSettle s u ∧ NoTrains u ∧ u.err = s.err) (List.range 8) _
    ⟨.refl s, hnone, rfl⟩ ?_).2.2
  rintro u ⟨hpairs, hnone, herr⟩ p hp
  have hreqs := disableReqs_err ((hpairs vf q).disabled h) p (f := fun r => r.vf == vf && r.qp == q && r.command != 0x0110) St.disabled
    fun r hr => by simp at hr; exact hr.1
  obtain ⟨hnone', htrains⟩ := (hnone.disableReqs p (fun r => r.vf == vf && r.qp == q && r.command != 0x0110) St.disabled).disableTrains
    (List.mem_range.mp hp) (fun t => t.vf == vf && t.qp == q) St.disabled
  exact ⟨(hpairs.trans (.disableReqs _ _ _ _)).trans (.disableTrains _ _ _ _), hnone', htrains.trans (hreqs.trans herr)⟩

end Sys2Proof.Machine
end

section
/-! SUPPORT. The head and the tail of a submission ring stay where they are while a request is taken (R486): no command moves them, nor does
entry into Parsley. -/

namespace Sys2Proof.Machine

/-- From `s` to `t` the submission ring of every pair keeps its head and its tail. -/
def HeadsStay (s t : State) : Prop := ∀ vf q, (t.qp vf q).sqHead = (s.qp vf q).sqHead ∧ (t.qp vf q).sqTail = (s.qp vf q).sqTail

theorem PairsSettle.headsStay {s t : State} (h : PairsSettle s t) : HeadsStay s t := fun vf q => ⟨(h vf q).sqHead, (h vf q).sqTail⟩

/-- A zeroisation takes keys and counters of a pair, and marks it (R446). -/
def Qp.zeroised (p : Qp) : Qp :=
  { p with keyed := false, keyC2s := 0, keyS2c := 0, cntIn := 0, cntOut := 0, recIn := 0, recOut := 0, ended := true }

/-- No pair that is marked is a fresh one. -/
theorem renorm_zeroised (m : SMap Qp) : renorm Qp.fresh (m.map fun e => (e.1, e.2.zeroised)) = m.map fun e => (e.1, e.2.zeroised) := by
  refine List.filter_eq_self.mpr fun e he => ?_
  obtain ⟨x, -, rfl⟩ := List.mem_map.mp he
  have hended : x.2.zeroised ≠ Qp.fresh := fun h => Bool.noConfusion (congrArg Qp.ended h)
  simpa using hended

theorem sget_zeroised (m : SMap Qp) (n : Nat) :
    (sget Qp.fresh (m.map fun e => (e.1, e.2.zeroised)) n).sqHead = (sget Qp.fresh m n).sqHead ∧
      (sget Qp.fresh (m.map fun e => (e.1, e.2.zeroised)) n).sqTail = (sget Qp.fresh m n).sqTail := by
  induction m with
  | nil => exact ⟨rfl, rfl⟩
  | cons e m ih =>
    simp only [List.map_cons, sget]
    split
    · exact ⟨rfl, rfl⟩
    · exact ih

namespace HeadsStay

variable {s t u : State}

theorem of_qps (h : t.cxl.qps = s.cxl.qps) : HeadsStay s t := (PairsSettle.of_qps h).headsStay

theorem refl (s : State) : HeadsStay s s := of_qps rfl

theorem trans (h : HeadsStay s t) (h' : HeadsStay t u) : HeadsStay s u :=
  fun vf q => ⟨(h' vf q).1.trans (h vf q).1, (h' vf q).2.trans (h vf q).2⟩

theorem ite {b : Prop} [Decidable b] (ht : HeadsStay s t) (hu : HeadsStay s u) : HeadsStay s (if b then t else u) := by
  split
  · exact ht
  · exact hu

theorem foldl {α : Type} {f : State → α → State} (hf : ∀ s a, HeadsStay s (f s a)) (l : List α) (s : State) : HeadsStay s (l.foldl f s) :=
  List.foldlRecOn (motive := fun u : State => HeadsStay s u) l f (refl s) fun u h a _ => h.trans (hf u a)

theorem modPart (s : State) (p : Nat) (f : Part → Part) : HeadsStay s (s.modPart p f) := of_qps rfl
theorem setCtx (s : State) (c : Nat) (x : Ctx) : HeadsStay s (s.setCtx c x) := of_qps rfl
theorem modCtx (s : State) (c : Nat) (f : Ctx → Ctx) : HeadsStay s (s.modCtx c f) := of_qps rfl
theorem setPage (s : State) (g : Nat) (v : PageE) : HeadsStay s (s.setPage g v) := of_qps rfl
theorem modCore (s : State) (c : Nat) (f : Core → Core) : HeadsStay s (s.modCore c f) := of_qps rfl

theorem modMbox (s : State) (n : Nat) (f : Mbox → Mbox) : HeadsStay s (s.modMbox n f) := of_qps rfl
theorem modSys (s : State) (f : Sys → Sys) : HeadsStay s (s.modSys f) := of_qps rfl
theorem modPwr (s : State) (f : Pwr → Pwr) : HeadsStay s (s.modPwr f) := of_qps rfl
theorem noteServed (s : State) (p : Nat) (cs : List (BitVec 16)) : HeadsStay s (noteServed s p cs) := of_qps rfl

theorem modQp (s : State) (vf q : Nat) {f : Qp → Qp} (hf : ∀ p, (f p).sqHead = p.sqHead ∧ (f p).sqTail = p.sqTail) :
    HeadsStay s (s.modQp vf q f) := by
  intro x y
  rw [State.modQp_qp]
  split
  · next hxy =>
    unfold State.qp
    rw [hxy]
    exact hf _
  · exact ⟨rfl, rfl⟩

/-- Every pair changed by a function that moves neither. -/
theorem mapPairs (s : State) {f : Qp → Qp} (hfresh : f Qp.fresh = Qp.fresh) (hf : ∀ p, (f p).sqHead = p.sqHead ∧ (f p).sqTail = p.sqTail) :
    HeadsStay s { s with cxl := { s.cxl with qps := s.cxl.qps.map fun e => (e.1, f e.2) } } := by
  intro vf q
  unfold State.qp
  rw [sget_mapValues hfresh]
  exact hf _

/-! ### Records, messages and answers (R464, R465, R546) -/

theorem raiseAlert (s : State) (bit : Nat) : HeadsStay s (raiseAlert s bit) := by
  obtain ⟨_, _, heq, -⟩ := AlertsOnly.raiseAlert s bit
  rw [heq]
  exact of_qps rfl

theorem recordAt (s : State) (t : Nat) (ev : FaultEv) : HeadsStay s (recordAt s t ev) := by
  obtain ⟨_, _, heq, -⟩ := recordAt_ring s t ev
  rw [heq]
  exact of_qps rfl

theorem completionMessage (s : State) (tag : BitVec 16) (st : Status) (value : Nat) : HeadsStay s (completionMessage s tag st value) := by
  unfold Machine.completionMessage
  split
  · exact of_qps rfl
  · exact ite (of_qps rfl) (of_qps rfl)

theorem answer (s : State) (via : Via) (cmd ctx : BitVec 16) (st : Status) (value : Nat) (data : List Byte) :
    HeadsStay s (answer s via cmd ctx st value data) := by
  cases via
  case queue vf q htag => exact (PairsSettle.complete s vf q _).headsStay
  all_goals exact of_qps rfl

theorem finish (s : State) (via : Via) (cmd ctx : BitVec 16) (st : Status) (value : Nat) (data : List Byte) :
    HeadsStay s (finish s via cmd ctx st value data) := by
  unfold Machine.finish
  split
  · exact completionMessage s _ st value
  · exact answer s _ cmd ctx st value data

theorem accept (s : State) (via : Via) : HeadsStay s (accept s via) := by
  cases via
  all_goals exact of_qps rfl

/-! ### Pages (R188) -/

theorem freePages (s : State) (gs : List Nat) : HeadsStay s (freePages s gs) := by
  obtain ⟨_, _, h⟩ := freePages_eq s gs
  rw [h]
  exact of_qps rfl

theorem takePages (s : State) (a : Attr) (owner : Option Nat) (ctx : BitVec 16) (gs : List Nat) : HeadsStay s (takePages s a owner ctx gs) := by
  obtain ⟨_, _, h⟩ := takePages_eq a owner ctx gs s
  rw [h]
  exact of_qps rfl

theorem sweepSnaps (s : State) : HeadsStay s (sweepSnaps s) := (PairsSettle.sweepSnaps s).headsStay

/-! ### Entry into Parsley (R445, R446, R532, R533) -/

theorem landWrite (s : State) (w : Write) : HeadsStay s (landWrite s w) := by
  have happly : HeadsStay s (applyWrite s w) := by
    unfold applyWrite
    split
    all_goals exact of_qps rfl
  unfold Machine.landWrite
  split
  · exact ite (refl s) happly
  · exact happly

theorem chvFault (s : State) (c : Nat) (op : EngineOp) (st : Status) : HeadsStay s (chvFault s c op st) := by
  unfold Machine.chvFault
  dsimp only
  split
  all_goals exact of_qps rfl

theorem cutTransfer (s : State) (c : Nat) (op : EngineOp) (l : Launched) : HeadsStay s (cutTransfer s c op l) := by
  unfold Machine.cutTransfer
  refine .trans ?_ (chvFault _ _ _ _)
  refine .trans ?_ (foldl (fun u (d : SlotDone) => modCore u d.core _) _ _)
  refine .trans ?_ (foldl (fun u g => ite (refl u) (setPage u g _)) _ _)
  exact .trans (t := (draw s).2) (of_qps rfl) (foldl landWrite _ _)

theorem cutPart (s : State) (p : Nat) : HeadsStay s (cutPart s p) := by
  refine foldl (fun u c => foldl (fun u e => ?_) _ u) _ s
  split
  · exact ite (refl u) (cutTransfer u _ _ _)
  · exact refl u

theorem endJobNow (s : State) (p : Nat) (img : ImgState) (st : Status) (seq : SeqState) : HeadsStay s (endJobNow s p img st seq) := by
  unfold Machine.endJobNow
  split
  · exact refl s
  · refine .trans (cutPart s p) (.trans ?_ (modPart _ _ _))
    exact .trans (foldl (fun u c => modCore u c _) _ _) (foldl (fun u c => modCore u c _) _ _)

theorem endReqs (s : State) (p : Nat) (st : Status) : HeadsStay s (endReqs s p st) := by
  unfold Machine.endReqs
  refine .trans ?_ (sweepSnaps _)
  refine .trans (.trans ?_ (PairsSettle.freeKv _ _ _).headsStay) (modPart _ _ _)
  exact .trans (ite (noteServed s p _) (refl s)) (foldl (fun u r => (PairsSettle.completeReq u r st).headsStay) _ _)

theorem endAllReqs (s : State) (st : Status) : HeadsStay s (endAllReqs s st) :=
  foldl (fun u p => (endReqs u p st).trans (PairsSettle.endTrains _ p _ st).headsStay) _ s

theorem endLoads (s : State) (st : Status) : HeadsStay s (endLoads s st) := by
  unfold Machine.endLoads
  extract_lets out idle unbound
  have hidle : HeadsStay s idle := foldl (fun u p => modPart u p _) _ s
  have hunbound : HeadsStay idle (unbound.modCxl fun x => { x with exports := [] }) := of_qps rfl
  exact (hidle.trans hunbound).trans (foldl (fun u _ => finish u _ _ _ _ _ _) out _)

theorem disableBoxes (s : State) (first n : Nat) : HeadsStay s (disableBoxes s first n) := foldl (fun u _ => modMbox u _ _) _ s

theorem zeroise (s : State) (k : BitVec 3) : HeadsStay s (zeroise s k) := by
  intro vf q
  change (sget Qp.fresh (renorm Qp.fresh (s.cxl.qps.map fun e => (e.1, e.2.zeroised))) (vf * 32 + q)).sqHead = _ ∧
    (sget Qp.fresh (renorm Qp.fresh (s.cxl.qps.map fun e => (e.1, e.2.zeroised))) (vf * 32 + q)).sqTail = _
  rw [renorm_zeroised]
  exact sget_zeroised _ _

theorem enterParsley (s : State) (cause source : Nat) : HeadsStay s (enterParsley s cause source) := by
  unfold Machine.enterParsley
  refine ite (refl s) ?_
  refine .trans ?_ (zeroise _ 1)
  refine .trans ?_ (disableBoxes _ 24 24)
  refine .trans ?_ (mapPairs _ (f := fun q => { q with waiting := [] }) rfl fun _ => ⟨rfl, rfl⟩)
  refine .trans ?_ (endLoads _ _)
  refine .trans ?_ (endAllReqs _ _)
  refine .trans ?_ (mapPairs _ (f := fun q => { q with keyed := false }) rfl fun _ => ⟨rfl, rfl⟩)
  refine .trans ?_ (foldl (fun _ _ => endJobNow _ _ _ _ _) _ _)
  refine .trans ?_ (raiseAlert _ 2)
  exact .trans (ite (modPwr s _) (refl s)) (modSys _ _)

theorem mismatch (s : State) (code unit : Nat) : HeadsStay s (mismatch s code unit) := by
  unfold Machine.mismatch
  exact .trans (recordAt s _ _) (enterParsley _ _ _)

theorem onPages (s : State) (gs : List Nat) {f : State → State} (hf : HeadsStay s (f s)) : HeadsStay s (onPages s gs f) := by
  unfold Machine.onPages
  split
  · exact mismatch s _ _
  · exact hf

theorem onCtxs (s : State) (cs : List (BitVec 16)) {f : State → State} (hf : HeadsStay s (f s)) : HeadsStay s (onCtxs s cs f) := by
  unfold Machine.onCtxs
  split
  · exact mismatch s _ _
  · exact hf

end HeadsStay

end Sys2Proof.Machine
end

section
/-! SUPPORT. The commands of a queue pair leave head and tail of its submission ring (R486, Table 15-4). -/

namespace Sys2Proof.Machine.HeadsStay

variable {s : State}

/-! ### Who may ask (R431, R449) -/

theorem denied (s : State) (via : Via) (cmd ctx : BitVec 16) : HeadsStay s (denied s via cmd ctx) := by
  unfold Machine.denied
  exact .trans (t := s.modSage fun g => { g with deniedPort := satAdd g.deniedPort 1 }) (of_qps rfl) (answer _ _ _ _ _ _ _)

theorem tenantCmd (s : State) (via : Via) (cmd ctx : BitVec 16) {f : Nat → Nat → BitVec 16 → State} (hf : ∀ vf q t, HeadsStay s (f vf q t)) :
    HeadsStay s (tenantCmd s via cmd ctx f) := by
  cases via
  case queue vf q htag =>
    unfold Machine.tenantCmd
    exact ite (refl s) (ite (answer s _ _ _ _ _ _) (ite (mismatch s _ _) (hf _ _ _)))
  all_goals exact denied s _ _ _

theorem ctxCmd (s : State) (via : Via) (cmd c : BitVec 16) {f : State} (hf : HeadsStay s f) : HeadsStay s (ctxCmd s via cmd c f) := by
  unfold Machine.ctxCmd
  exact tenantCmd s _ _ _ fun _ _ _ =>
    ite (answer s _ _ _ _ _ _) (ite (mismatch s _ _) (ite (answer s _ _ _ _ _ _) (ite (answer s _ _ _ _ _ _) hf)))

theorem permitted (s : State) (via : Via) (cmd ctx : BitVec 16) (ok : Bool) {f : State → State} (hf : HeadsStay s (f s)) :
    HeadsStay s (permitted s via cmd ctx ok f) := by
  unfold Machine.permitted
  refine ite (denied s _ _ _) (ite (answer s _ _ _ _ _ _) ?_)
  unfold whenReady
  split
  · exact answer s _ _ _ _ _ _
  · exact hf

/-! ### Serving and training (R340, R342, R376) -/

theorem markStale (s : State) (c : BitVec 16) : HeadsStay s (markStale s c) := by
  unfold Machine.markStale
  refine foldl (fun u n => ?_) _ s
  exact ite (setCtx u _ _) (refl u)

theorem generate (s : State) (via : Via) (c : BitVec 16) (total : Nat) (maxNew stop : W32) (params : List Byte) (prompt : List W32) :
    HeadsStay s (generate s via c total maxNew stop params prompt) := by
  unfold Machine.generate
  refine ctxCmd s _ _ _ (onCtxs s _ (ite (answer s _ _ _ _ _ _) ?_))
  split
  · exact (markStale s c).trans (answer _ _ _ _ _ _ _)
  · refine ite (answer s _ _ _ _ _ _) ?_
    split
    · exact modPart s _ _
    · exact refl s

theorem cancel (s : State) (via : Via) (htag : W32) : HeadsStay s (cancel s via htag) := by
  unfold Machine.cancel
  refine tenantCmd s _ _ _ fun vf q _ => ?_
  split
  · exact (PairsSettle.disableReqs _ _ _ _).headsStay.trans (answer _ _ _ _ _ _ _)
  · split
    · exact (PairsSettle.disableTrains _ _ _ _).headsStay.trans (answer _ _ _ _ _ _ _)
    · exact answer s _ _ _ _ _ _

theorem train (s : State) (via : Via) (f : TrainF) : HeadsStay s (train s via f) := by
  unfold Machine.train
  have hans (st : Status) := answer s via 0x0110 f.context st 0 []
  refine ctxCmd s _ _ _ (ite (hans _) (ite (hans _) (ite (hans _) (ite (hans _) ?_))))
  split
  · exact modPart s _ _
  · exact refl s

theorem trainData (s : State) (via : Via) (c : BitVec 16) (tag : W32) (j : BitVec 16) (tokens : List W32) :
    HeadsStay s (trainData s via c tag j tokens) := by
  unfold Machine.trainData
  refine ctxCmd s _ _ _ ?_
  dsimp only
  split
  · exact answer s _ _ _ _ _ _
  · refine ite (answer s _ _ _ _ _ _) ?_
    split
    · exact modPart s _ _
    · exact refl s

/-! ### Contexts (chapter 11) -/

theorem unhold (s : State) (c : Nat) (old : W32) : HeadsStay s (unhold s c old) := by
  unfold Machine.unhold
  exact ite (refl s) (.trans (t := dropSnap s old) (of_qps rfl) (sweepSnaps _))

theorem makeCtx (s : State) (t : BitVec 16) (p : BitVec 3) (kind : BitVec 2) (rank : BitVec 8) (proj : BitVec 7) (state : BitVec 3)
    (seed : BitVec 64) (stream : Option W32) (a b : BitVec 16) : HeadsStay s (makeCtx s t p kind rank proj state seed stream a b) :=
  of_qps rfl

theorem ctxCreate (s : State) (via : Via) (p : PartN) (kind : BitVec 2) (rank : BitVec 8) (proj : BitVec 7) (seed : Option (BitVec 64))
    (stream : Option W32) : HeadsStay s (ctxCreate s via p kind rank proj seed stream) := by
  unfold Machine.ctxCreate
  have hans (st : Status) := answer s via 0x0120 0xFFFF st 0 []
  exact tenantCmd s _ _ _ fun _ _ _ => ite (mismatch s _ _) (ite (mismatch s _ _) (ite (hans _) (ite (hans _) (ite (hans _)
    ((makeCtx s _ _ _ _ _ _ _ _ _ _).trans (answer _ _ _ _ _ _ _))))))

theorem ctxCompose (s : State) (via : Via) (a b : BitVec 16) : HeadsStay s (ctxCompose s via a b) := by
  unfold Machine.ctxCompose
  have hans (st : Status) := answer s via 0x0124 0xFFFF st 0 []
  exact tenantCmd s _ _ _ fun _ _ _ => ite (hans _) (ite (mismatch s _ _) (ite (mismatch s _ _) (onPages s _ (ite (hans _) (ite (hans _)
    ((makeCtx s _ _ _ _ _ _ _ _ _ _).trans (answer _ _ _ _ _ _ _)))))))

theorem ctxBind (s : State) (via : Via) (c : BitVec 16) (vf : BitVec 7) (qmask : W32) : HeadsStay s (ctxBind s via c vf qmask) := by
  unfold Machine.ctxBind
  exact ctxCmd s _ _ _ (ite (answer s _ _ _ _ _ _) ((modCtx s _ _).trans (answer _ _ _ _ _ _ _)))

theorem ctxSeed (s : State) (via : Via) (c : BitVec 16) (seed : BitVec 64) (stream : W32) : HeadsStay s (ctxSeed s via c seed stream) := by
  unfold Machine.ctxSeed
  refine ctxCmd s _ _ _ (.trans ?_ (answer _ _ _ _ _ _ _))
  exact (modCtx s _ _).trans (ite (refl _) (of_qps rfl))

theorem ctxSetkey (s : State) (via : Via) (c : BitVec 16) (key : BitVec 256) : HeadsStay s (ctxSetkey s via c key) := by
  unfold Machine.ctxSetkey
  exact ctxCmd s _ _ _ (ite (answer s _ _ _ _ _ _) (.trans (t := s.modSage _) (of_qps rfl) (answer _ _ _ _ _ _ _)))

theorem ctxRebase (s : State) (via : Via) (c : BitVec 16) : HeadsStay s (ctxRebase s via c) := by
  unfold Machine.ctxRebase
  exact ctxCmd s _ _ _ (ite (answer s _ _ _ _ _ _) ((modCtx s _ _).trans (answer _ _ _ _ _ _ _)))

theorem ctxReleaseSnap (s : State) (via : Via) (c : BitVec 16) (h : W32) : HeadsStay s (ctxReleaseSnap s via c h) := by
  unfold Machine.ctxReleaseSnap
  have hans (st : Status) := answer s via 0x0123 c st 0 []
  have hgone : HeadsStay s (Machine.sweepSnaps (dropSnap s h)) := .trans (of_qps rfl) (sweepSnaps _)
  exact ctxCmd s _ _ _ (ite (hans _) (ite (hans _) (hgone.trans (answer _ _ _ _ _ _ _))))

theorem ctxQuery (s : State) (via : Via) (c : BitVec 16) : HeadsStay s (ctxQuery s via c) := by
  unfold Machine.ctxQuery
  exact ctxCmd s _ _ _ (ite (answer s _ _ _ _ _ _) ((modCtx s _ _).trans (answer _ _ _ _ _ _ _)))

theorem ctxAdopt (s : State) (via : Via) (c : BitVec 16) (state : Bool) (h : W32) : HeadsStay s (ctxAdopt s via c state h) := by
  unfold Machine.ctxAdopt
  have hans (st : Status) := answer s via 0x0122 c st 0 []
  have hheld (f : Ctx → Ctx) (old : W32) : HeadsStay s (Machine.answer (Machine.unhold (s.modCtx c.toNat f) c.toNat old) via 0x0122 c St.ok 0 []) :=
    ((modCtx s _ f).trans (unhold _ _ old)).trans (answer _ _ _ _ _ _ _)
  refine ctxCmd s _ _ _ (ite (mismatch s _ _) (ite (hans _) ?_))
  split
  · exact hans _
  · exact ite (hans _) (ite (hheld _ _) (onPages s _ (ite (hans _) (ite (hans _) (hheld _ _)))))

theorem ctxImport (s : State) (via : Via) (c : BitVec 16) (image : List Byte) : HeadsStay s (ctxImport s via c image) := by
  unfold Machine.ctxImport
  refine ctxCmd s _ _ _ ?_
  split
  · exact answer s _ _ _ _ _ _
  · dsimp only
    split
    · exact answer s _ _ _ _ _ _
    · exact (takePages s _ _ _ _).trans (modCtx _ _ _)

theorem ctxExport (s : State) (via : Via) (c : BitVec 16) (state : Bool) (addr len : BitVec 64) :
    HeadsStay s (ctxExport s via c state addr len) := by
  unfold Machine.ctxExport
  refine ctxCmd s _ _ _ ?_
  split
  · refine onPages s _ (.trans (t := (drawNonce s).2) (of_qps rfl) ?_)
    exact ite (answer _ _ _ _ _ _ _) (modCtx _ _ _)
  · exact answer s _ _ _ _ _ _

theorem beginDelete (s : State) (via : Option Via) (c : BitVec 16) : HeadsStay s (beginDelete s via c) := by
  unfold Machine.beginDelete
  extract_lets x imported exported closed
  have himported : HeadsStay s imported := foldl (fun u _ => (freePages u _).trans (finish _ _ _ _ _ _ _)) _ s
  have hexported : HeadsStay imported exported := foldl (fun u _ => finish u _ _ _ _ _ _) _ imported
  refine (himported.trans hexported).trans (.trans (foldl (fun u e => ?_) _ exported) (modCtx _ _ _))
  exact .trans ((freePages u (sget Area.fresh u.cxl.areas e.1).pages).trans (of_qps rfl)) (finish _ _ _ _ _ _ _)

theorem ctxDelete (s : State) (via : Via) (c : BitVec 16) : HeadsStay s (ctxDelete s via c) := by
  unfold Machine.ctxDelete
  split
  · exact ctxCmd s _ _ _ (ite (answer s _ _ _ _ _ _) (beginDelete s _ _))
  · exact permitted s _ _ _ _ (ite (answer s _ _ _ _ _ _) (ite (mismatch s _ _) (ite (answer s _ _ _ _ _ _)
      ((accept s _).trans (beginDelete _ _ _)))))

theorem ctxCommand (s : State) (via : Via) (cmd : Nat) (c : BitVec 16) (b : List Byte) : HeadsStay s (ctxCommand s via cmd c b) := by
  unfold Machine.ctxCommand
  dsimp only
  split
  case h_1 =>
    split
    · exact ctxCreate s _ _ _ _ _ _ _
    · exact answer s _ _ _ _ _ _
  case h_2 => exact ctxBind s _ _ _ _
  case h_3 => exact ctxAdopt s _ _ _ _
  case h_4 => exact ctxReleaseSnap s _ _ _
  case h_5 => exact ctxCompose s _ _ _
  case h_6 => exact ctxSeed s _ _ _ _
  case h_7 => exact ctxSetkey s _ _ _
  case h_8 => exact .trans (t := (draw s).2) (of_qps rfl) (ctxImport _ _ _ _)
  case h_9 => exact ctxExport s _ _ _ _ _
  case h_10 => exact ctxQuery s _ _
  case h_11 => exact ctxRebase s _ _
  case h_12 => exact ctxDelete s _ _

theorem runRequest (s : State) (via : Via) (cmd : Nat) (c : BitVec 16) (b recs : List Byte) : HeadsStay s (runRequest s via cmd c b recs) := by
  unfold Machine.runRequest
  split
  · exact generate s _ _ _ _ _ _ _
  · exact cancel s _ _
  · exact train s _ _
  · exact trainData s _ _ _ _ _
  · exact ctxCommand s _ _ _ _

/-! ### A request is opened (R434, R481, R483) -/

theorem tagFailure (s : State) (vf q : Nat) : HeadsStay s (tagFailure s vf q) := by
  unfold Machine.tagFailure
  extract_lets counted disabled recorded
  have hsage : HeadsStay s (s.modSage fun g => { g with deniedAuth := satAdd g.deniedAuth 1 }) := of_qps rfl
  have hcounted : HeadsStay s counted := hsage.trans (modQp _ vf q fun _ => ⟨rfl, rfl⟩)
  have hdisabled : HeadsStay counted disabled := modQp _ vf q fun _ => ⟨rfl, rfl⟩
  have hrecorded : HeadsStay disabled recorded := recordAt _ _ _
  clear_value counted disabled recorded
  exact ite hcounted (((hcounted.trans hdisabled).trans hrecorded).trans (PairsSettle.endVfWork _ _ _).headsStay)

theorem openRecords (vf q ctx left : Nat) (rs : List (List Byte)) (s : State) : HeadsStay s (openRecords vf q ctx left rs s).2 := by
  induction rs generalizing left s with
  | nil => exact refl s
  | cons r rs ih =>
    unfold Machine.openRecords
    dsimp only
    split
    · exact tagFailure s vf q
    · have hopened := (modQp s vf q (f := fun p => { p with recIn := p.recIn + 1, tagFails := 0 }) fun _ => ⟨rfl, rfl⟩).trans
        (ih (left - min left 4096) _)
      split
      all_goals
        next h =>
        rw [h] at hopened
        exact hopened

theorem pairUntranslated (s : State) (vf q : Nat) : HeadsStay s (pairUntranslated s vf q) := by
  have hpair : PairsSettle s (modPair s vf q Qp.untranslated) := .of_pair (.untranslated _) (modPair_qp s vf q _)
  exact (hpair.trans (.endVfWork _ _ _)).headsStay

theorem takeRequest (s : State) (vf : VfN) (q : QpN) (htag : W32) (records slot : Nat) (recs : List (List Byte)) (b : List Byte) :
    HeadsStay s (takeRequest s vf q htag records slot recs b) := by
  unfold Machine.takeRequest
  refine ite (answer s _ _ _ _ _ _) (ite (answer s _ _ _ _ _ _) (ite ((pairUntranslated s vf q).trans (answer _ _ _ _ _ _ _)) ?_))
  have hopened := openRecords vf q (BitVec.ofNat 16 (fieldAt b 2 2)).toNat (fieldAt b 4 4) ((List.range records).map fun i => recs.getD i []) s
  split
  · next h =>
    rw [h] at hopened
    exact hopened.trans (answer _ _ _ _ _ _ _)
  · next h =>
    rw [h] at hopened
    exact hopened.trans (runRequest _ _ _ _ _ _)

end Sys2Proof.Machine.HeadsStay
end

section
/-! SUPPORT. An entry of a submission ring, case by case (R434, R481, R486, R489, R490). -/

namespace Sys2Proof.Machine

/-! ### The CXL block alone -/

/-- From `s` to `t` only the CXL block changes. -/
def CxlOnly (s t : State) : Prop := ∃ x, t = { s with cxl := x }

theorem CxlOnly.eq {s t : State} (h : CxlOnly s t) : t = { s with cxl := t.cxl } := by
  obtain ⟨_, rfl⟩ := h
  rfl

theorem CxlOnly.trans {s t u : State} (h : CxlOnly s t) (h' : CxlOnly t u) : CxlOnly s u := by
  obtain ⟨_, rfl⟩ := h
  obtain ⟨_, rfl⟩ := h'
  exact ⟨_, rfl⟩

theorem CxlOnly.modQp (s : State) (vf q : Nat) (f : Qp → Qp) : CxlOnly s (s.modQp vf q f) := ⟨_, rfl⟩

theorem State.modQp_atsFails (s : State) (vf q : Nat) (f : Qp → Qp) (x : Nat) (a : BitVec 64) :
    (s.modQp vf q f).atsFails x a = s.atsFails x a := rfl

/-! ### A translation that fails (R481) -/

/-- The pair is disabled before its requests end. -/
theorem pairUntranslated_settles (s : State) (vf q : Nat) : (s.qp vf q).untranslated.Settles ((pairUntranslated s vf q).qp vf q) := by
  have h := PairsSettle.endVfWork (modPair s vf q Qp.untranslated) vf (fun k => k == q) vf q
  rwa [modPair_qp, if_pos rfl] at h

theorem pairUntranslated_disables {s : State} {vf q : Nat} (hpair : (s.qp vf q).disabled = false) :
    ((pairUntranslated s vf q).qp vf q).on = false ∧ ((pairUntranslated s vf q).qp vf q).status = St.disabled := by
  have h := pairUntranslated_settles s vf q
  refine ⟨?_, (h.status_of_disabled rfl).trans ?_⟩
  · unfold Qp.on
    rw [h.disabled rfl]
    exact Bool.and_false _
  · unfold Qp.untranslated
    rw [hpair]
    rfl

theorem pairUntranslated_recorded {s : State} {vf q : Nat} (hpair : (s.qp vf q).disabled = false) (hnone : NoTrains s) :
    sget FaultRec.none (pairUntranslated s vf q).err.ring (s.err.head.toNat % 1024) =
      (disabledFault vf q St.disabled).record s.err.head s.tick := by
  obtain ⟨_, _, heq, hring⟩ := recordNow_disabledFault (s.modQp vf q Qp.untranslated) vf q St.disabled
  have hdis : ((modPair s vf q Qp.untranslated).qp vf q).disabled = true := by
    rw [modPair_qp, if_pos rfl]
    rfl
  have hmod := (modPair_of_disables (f := Qp.untranslated) hpair rfl).trans heq
  unfold pairUntranslated
  rw [endVfWork_err hdis fun p hp => by rw [hmod]; exact hnone p hp, hmod]
  exact hring

/-! ### An entry that is read (R486, R490) -/

theorem sqDoorbell_beyond {s : State} {vf : VfN} {q : QpN} {tail : BitVec 12} (hvf : discarded s (.vf vf.val) = false)
    (htail : (s.qp vf q).sqSize ≤ tail.toNat) (es : List SqEntry) :
    sqDoorbell s vf q tail es = s.modQp vf q fun p => { p with dbErr := true } := by
  unfold sqDoorbell
  simp only [hvf, htail, Bool.false_eq_true, if_false, if_true]

/-- A doorbell for one entry more takes it. -/
theorem sqDoorbell_one {s : State} {vf : VfN} {q : QpN} {tail : BitVec 12} (hvf : discarded s (.vf vf.val) = false)
    (htail : tail.toNat < (s.qp vf q).sqSize)
    (hone : (tail.toNat + (s.qp vf q).sqSize - (s.qp vf q).sqHead.toNat) % (s.qp vf q).sqSize = 1) (e : SqEntry) :
    sqDoorbell s vf q tail [e] = takeEntry (s.modQp vf q fun p => { p with sqTail := tail }) vf q e := by
  unfold sqDoorbell
  simp only [hvf, Nat.not_le.mpr htail, hone, Bool.false_eq_true, if_false, List.take_succ_cons, List.take_zero, List.foldl_cons,
    List.foldl_nil]

/-- Address of the entry at the SQ head. -/
def Qp.entryAddr (p : Qp) : BitVec 64 := p.sqBase + 128 * p.sqHead.setWidth 64

/-- The pair with its SQ head past the entry. -/
def Qp.entryPassed (p : Qp) : Qp := { p with sqHead := BitVec.ofNat 12 ((p.sqHead.toNat + 1) % p.sqSize) }

/-- The plaintext of an entry. -/
def Qp.opens (p : Qp) (qn : Nat) (e : SqEntry) : Option (List Byte) :=
  Config.gcmOpen p.keyC2s (queueIv qn 0 0 p.gen.toNat p.cntIn) e.hdr e.cipher e.tag

/-- The SQ head passes an entry that has been read. -/
def entryRead (s : State) (vf q : Nat) : State := (touchAts s vf (s.qp vf q).entryAddr).modQp vf q Qp.entryPassed

theorem entryRead_cxlOnly (s : State) (vf q : Nat) : CxlOnly s (entryRead s vf q) := by
  obtain ⟨l, heq⟩ := touchAts_eq s vf (s.qp vf q).entryAddr
  unfold entryRead
  rw [heq]
  exact ⟨_, rfl⟩

theorem entryRead_atsFails (s : State) (vf q x : Nat) (a : BitVec 64) : (entryRead s vf q).atsFails x a = s.atsFails x a := by
  obtain ⟨l, heq⟩ := touchAts_eq s vf (s.qp vf q).entryAddr
  unfold entryRead
  rw [heq]
  rfl

theorem entryRead_qp (s : State) (vf q : Nat) : (entryRead s vf q).qp vf q = (s.qp vf q).entryPassed := by
  obtain ⟨l, heq⟩ := touchAts_eq s vf (s.qp vf q).entryAddr
  unfold entryRead
  rw [heq]
  exact State.modQp_qp_same _ _ _ _

/-- The counter advances over an entry that opens. -/
def entryOpened (s : State) (vf q : Nat) : State := (entryRead s vf q).modQp vf q fun p => { p with cntIn := p.cntIn + 1, tagFails := 0 }

theorem entryOpened_cxlOnly (s : State) (vf q : Nat) : CxlOnly s (entryOpened s vf q) := (entryRead_cxlOnly s vf q).trans (.modQp _ vf q _)

theorem entryOpened_qp (s : State) (vf q : Nat) :
    (entryOpened s vf q).qp vf q = { (s.qp vf q).entryPassed with cntIn := (s.qp vf q).cntIn + 1, tagFails := 0 } := by
  unfold entryOpened
  rw [State.modQp_qp_same, entryRead_qp]
  rfl

section
variable {s : State} {vf : VfN} {q : QpN}

theorem takeEntry_unmapped (hon : (s.qp vf q).on = true) (hfails : s.atsFails vf (s.qp vf q).entryAddr = true) (e : SqEntry) :
    takeEntry s vf q e = pairUntranslated s vf q := by
  unfold takeEntry
  simp only [hon, Bool.not_true, Bool.false_eq_true, if_false]
  exact if_pos hfails

/-- An entry whose address translates is opened with the key of the pair. -/
theorem takeEntry_read (hon : (s.qp vf q).on = true) (hkeyed : (s.qp vf q).keyed = true) (hcount : (s.qp vf q).cntIn.toNat < counterEnd)
    (hmapped : s.atsFails vf (s.qp vf q).entryAddr = false) (e : SqEntry) : takeEntry s vf q e =
      match (s.qp vf q).opens (vf.val * 32 + q.val) e with
      | none => tagFailure (answer (entryRead s vf q) (.queue vf q (BitVec.ofNat 32 (fieldAt e.hdr 4 4))) 0 0xFFFF St.authFail 0 []) vf q
      | some b => takeRequest (entryOpened s vf q) vf q
          (BitVec.ofNat 32 (fieldAt e.hdr 4 4)) (fieldAt e.hdr 3 1) (fieldAt e.hdr 8 2) e.recs b := by
  have hmapped' : s.atsFails vf ((s.qp vf q).sqBase + 128 * (s.qp vf q).sqHead.setWidth 64) = false := hmapped
  have hread : (touchAts s vf ((s.qp vf q).sqBase + 128 * (s.qp vf q).sqHead.setWidth 64)).modQp vf q
      (fun p => { p with sqHead := BitVec.ofNat 12 (((s.qp vf q).sqHead.toNat + 1) % (s.qp vf q).sqSize) }) = entryRead s vf q := by
    obtain ⟨l, heq⟩ := touchAts_eq s vf (s.qp vf q).entryAddr
    unfold entryRead
    rw [show (s.qp vf q).sqBase + 128 * (s.qp vf q).sqHead.setWidth 64 = (s.qp vf q).entryAddr from rfl, heq]
    exact State.modQp_congr rfl
  unfold takeEntry
  simp only [hon, hkeyed, hmapped', Nat.not_le.mpr hcount, hread, Bool.not_true, Bool.false_eq_true, if_false]
  rfl

/-- What becomes of an entry that is read moves the head no further (R486). -/
theorem takeEntry_headsStay (hon : (s.qp vf q).on = true) (hkeyed : (s.qp vf q).keyed = true) (hcount : (s.qp vf q).cntIn.toNat < counterEnd)
    (hmapped : s.atsFails vf (s.qp vf q).entryAddr = false) (e : SqEntry) : HeadsStay (entryRead s vf q) (takeEntry s vf q e) := by
  rw [takeEntry_read hon hkeyed hcount hmapped]
  split
  · have hanswer := HeadsStay.answer (entryRead s vf q) (.queue vf q (BitVec.ofNat 32 (fieldAt e.hdr 4 4))) 0 0xFFFF St.authFail 0 []
    exact hanswer.trans (HeadsStay.tagFailure _ vf q)
  · have hopened : HeadsStay (entryRead s vf q) (entryOpened s vf q) := .modQp _ vf q fun _ => ⟨rfl, rfl⟩
    exact hopened.trans (HeadsStay.takeRequest _ vf q _ _ _ _ _)

end

/-- From `s` to `t` a queue pair takes the completion of a request, in its ring or waiting, and nothing outside the CXL block changes. -/
structure PairAnswers (s : State) (vf q : Nat) (htag : W32) (st : Status) (t : State) : Prop where
  frame : CxlOnly s t
  rings : (s.qp vf q).RingsMove (t.qp vf q)
  stands : ∃ c ∈ (t.qp vf q).written ++ (t.qp vf q).waiting, c.htag = htag ∧ c.status = st

theorem answer_pairAnswers {s : State} {vf : VfN} {q : QpN} (hkeyed : (s.qp vf q).keyed = true) (hmapped : ∀ a, s.atsFails vf a = false)
    (htag : W32) (cmd ctx : BitVec 16) (st : Status) : PairAnswers s vf q htag st (answer s (.queue vf q htag) cmd ctx st 0 []) := by
  obtain ⟨x, heq, hqp⟩ := complete_of_keyed hkeyed hmapped (Completion.of htag cmd ctx st)
  change PairAnswers s vf q htag st (complete s vf q (Completion.of htag cmd ctx st))
  rw [heq]
  refine ⟨⟨x, rfl⟩, ?_, ?_⟩
  · rw [hqp]
    exact Qp.push_ringsMove _ _ _ _
  · rw [hqp]
    exact Qp.mem_push _ _ _ _

theorem tagFailure_of_few {s : State} {vf q : Nat} (h : (s.qp vf q).tagFails < 15) : tagFailure s vf q =
    (s.modSage fun g => { g with deniedAuth := satAdd g.deniedAuth 1 }).modQp vf q fun p => { p with tagFails := p.tagFails + 1 } := by
  unfold tagFailure
  refine if_pos (.inl ?_)
  rw [State.modQp_qp_same]
  exact Nat.succ_lt_succ h

/-- A tag failure short of the sixteenth in a row is counted, and that is all (R434). -/
theorem tagFailure_counts {s t : State} {vf q : Nat} (hcxl : CxlOnly s t) (h : (t.qp vf q).tagFails < 15) :
    CxlOnly { s with sage := { s.sage with deniedAuth := satAdd s.sage.deniedAuth 1 } } (tagFailure t vf q) ∧
      (tagFailure t vf q).qp vf q = { t.qp vf q with tagFails := (t.qp vf q).tagFails + 1 } := by
  rw [tagFailure_of_few h]
  refine ⟨?_, State.modQp_qp_same _ _ _ _⟩
  obtain ⟨_, rfl⟩ := hcxl
  exact ⟨_, rfl⟩

/-- A payload that names no command ends with BAD_FORMAT, whatever RECORDS says. -/
theorem takeRequest_of_noCode {b : List Byte} (h : tenantCode (fieldAt b 0 2) = false) (s : State) (vf : VfN) (q : QpN) (htag : W32)
    (records slot : Nat) (recs : List (List Byte)) : takeRequest s vf q htag records slot recs b =
      answer s (.queue vf q htag) (BitVec.ofNat 16 (fieldAt b 0 2)) (BitVec.ofNat 16 (fieldAt b 2 2)) St.badFormat 0 [] := by
  unfold takeRequest
  simp only [h, Bool.not_false, if_true, ite_self]

end Sys2Proof.Machine
end

section
/-! PROOFS. O38: entries of a submission ring. -/

namespace Sys2Proof.Proofs
open Sys2Proof Sys2Proof.Machine

section
variable {s : State} {vf : VfN} {q : QpN} {e : SqEntry}

/-- An entry whose address does not translate: the pair is disabled, and the entry is not read (R481). -/
theorem takeEntry_disables (hon : (s.qp vf q).on = true) (hfails : s.atsFails vf (s.qp vf q).entryAddr = true) :
    ((takeEntry s vf q e).qp vf q).on = false ∧ ((takeEntry s vf q e).qp vf q).status = St.disabled ∧
      (NoTrains s → sget FaultRec.none (takeEntry s vf q e).err.ring (s.err.head.toNat % 1024) =
        (disabledFault vf q St.disabled).record s.err.head s.tick) ∧
      ((takeEntry s vf q e).qp vf q).sqHead = (s.qp vf q).sqHead ∧ ((takeEntry s vf q e).qp vf q).cntIn = (s.qp vf q).cntIn := by
  have hdis : (s.qp vf q).disabled = false := by
    unfold Qp.on at hon
    simpa using (Bool.and_eq_true_iff.mp hon).2
  rw [takeEntry_unmapped hon hfails]
  obtain ⟨hoff, hstatus⟩ := pairUntranslated_disables hdis
  have hsettles := pairUntranslated_settles s vf q
  exact ⟨hoff, hstatus, pairUntranslated_recorded hdis, hsettles.sqHead, hsettles.cntIn⟩

/-- A tag that fails: counted, and the entry's completion follows with AUTH_FAIL (R434, R490). -/
theorem takeEntry_of_unopened (hon : (s.qp vf q).on = true) (hkeyed : (s.qp vf q).keyed = true)
    (hcount : (s.qp vf q).cntIn.toNat < counterEnd) (hfew : (s.qp vf q).tagFails < 15) (hmapped : ∀ a, s.atsFails vf a = false)
    (hopen : (s.qp vf q).opens (vf.val * 32 + q.val) e = none) :
    CxlOnly { s with sage := { s.sage with deniedAuth := satAdd s.sage.deniedAuth 1 } } (takeEntry s vf q e) ∧
      ((takeEntry s vf q e).qp vf q).tagFails = (s.qp vf q).tagFails + 1 ∧ ((takeEntry s vf q e).qp vf q).cntIn = (s.qp vf q).cntIn ∧
      ∃ c ∈ ((takeEntry s vf q e).qp vf q).written ++ ((takeEntry s vf q e).qp vf q).waiting,
        c.htag = BitVec.ofNat 32 (fieldAt e.hdr 4 4) ∧ c.status = St.authFail := by
  have hanswer := answer_pairAnswers (s := entryRead s vf q) (vf := vf) (q := q) (by rw [entryRead_qp]; exact hkeyed)
    (fun a => (entryRead_atsFails s vf q vf a).trans (hmapped a)) (BitVec.ofNat 32 (fieldAt e.hdr 4 4)) 0 0xFFFF St.authFail
  rw [takeEntry_read hon hkeyed hcount (hmapped _), hopen]
  generalize Machine.answer (entryRead s vf q) _ 0 0xFFFF St.authFail 0 [] = t at hanswer ⊢
  obtain ⟨_, _, _, _, _, _, _, _, _, _, _, _, heq⟩ := hanswer.rings
  rw [entryRead_qp] at heq
  obtain ⟨hcxl, hcounted⟩ := tagFailure_counts ((entryRead_cxlOnly s vf q).trans hanswer.frame) (by rw [heq]; exact hfew)
  dsimp only
  rw [hcounted]
  refine ⟨hcxl, ?_, ?_, hanswer.stands⟩
  all_goals rw [heq]
  all_goals rfl

/-- An entry that opens and names no command: the counter advances, and its completion follows with BAD_FORMAT (R434, R490). -/
theorem takeEntry_of_noCode {b : List Byte} (hon : (s.qp vf q).on = true) (hkeyed : (s.qp vf q).keyed = true)
    (hcount : (s.qp vf q).cntIn.toNat < counterEnd) (hmapped : ∀ a, s.atsFails vf a = false)
    (hopen : (s.qp vf q).opens (vf.val * 32 + q.val) e = some b) (hcode : tenantCode (fieldAt b 0 2) = false) :
    CxlOnly s (takeEntry s vf q e) ∧ ((takeEntry s vf q e).qp vf q).tagFails = 0 ∧
      ((takeEntry s vf q e).qp vf q).cntIn = (s.qp vf q).cntIn + 1 ∧
      ∃ c ∈ ((takeEntry s vf q e).qp vf q).written ++ ((takeEntry s vf q e).qp vf q).waiting,
        c.htag = BitVec.ofNat 32 (fieldAt e.hdr 4 4) ∧ c.status = St.badFormat := by
  have hanswer : PairAnswers (entryOpened s vf q) vf q (BitVec.ofNat 32 (fieldAt e.hdr 4 4)) St.badFormat (takeEntry s vf q e) := by
    rw [takeEntry_read hon hkeyed hcount (hmapped _), hopen]
    change PairAnswers _ _ _ _ _ (takeRequest _ _ _ _ _ _ _ b)
    rw [takeRequest_of_noCode hcode]
    refine answer_pairAnswers ?_ (fun a => ?_) _ _ _ _
    · rw [entryOpened_qp]
      exact hkeyed
    · unfold entryOpened
      rw [State.modQp_atsFails, entryRead_atsFails, hmapped]
  obtain ⟨_, _, _, _, _, _, _, _, _, _, _, _, heq⟩ := hanswer.rings
  rw [entryOpened_qp] at heq
  refine ⟨(entryOpened_cxlOnly s vf q).trans hanswer.frame, ?_, ?_, hanswer.stands⟩
  all_goals rw [heq]

end

/-- Settles O38: a doorbell for one entry takes it, and the entry is unmapped, fails its tag, or opens. -/
theorem submittedEntriesAreTaken : Obligations.SubmittedEntriesAreTaken := by
  unfold Obligations.SubmittedEntriesAreTaken
  intro s vf q tail e es hvf
  refine ⟨fun htail => ⟨_, rfl, ?_⟩, fun hon hkeyed htail hfew hcount hone => ?_⟩
  · rw [sqDoorbell_beyond hvf htail es]
    exact State.modQp_alone s vf q _
  generalize hu : (s.modQp vf q fun p => { p with sqTail := tail }) = u
  have hframe : CxlOnly s u := hu ▸ CxlOnly.modQp s vf q _
  have hats (a : BitVec 64) : u.atsFails vf a = s.atsFails vf a := hu ▸ State.modQp_atsFails s vf q _ vf a
  have hqp : u.qp vf q = { s.qp vf q with sqTail := tail } := hu ▸ State.modQp_qp_same s vf q _
  have hon' : (u.qp vf q).on = true := by rw [hqp]; exact hon
  have hkeyed' : (u.qp vf q).keyed = true := by rw [hqp]; exact hkeyed
  have hcount' : (u.qp vf q).cntIn.toNat < counterEnd := by rw [hqp]; exact hcount
  have hexec : sqDoorbell s vf q tail [e] = takeEntry u vf q e := hu ▸ sqDoorbell_one hvf htail hone e
  rw [show exec (.sqDoorbell vf q tail [e]) s = .next (takeEntry u vf q e) from congrArg _ hexec]
  refine ⟨fun hfails => ⟨_, rfl, ?_⟩, fun hmapped => ⟨_, rfl, ?_⟩⟩
  · have hdisables := takeEntry_disables (e := e) hon' (by rw [hats, hqp]; exact hfails)
    rw [hqp] at hdisables
    obtain ⟨x, rfl⟩ := hframe
    exact hdisables
  · have hmapped' (a : BitVec 64) : u.atsFails vf a = false := (hats a).trans (hmapped a)
    have hopens (r : Option (List Byte)) (h : (s.qp vf q).opens (vf.val * 32 + q.val) e = r) : (u.qp vf q).opens (vf.val * 32 + q.val) e = r := by
      rw [hqp]
      exact h
    obtain ⟨hhead, htail'⟩ := takeEntry_headsStay hon' hkeyed' hcount' (hmapped' _) e vf q
    rw [entryRead_qp, hqp] at hhead htail'
    refine ⟨htail', hhead, ?_⟩
    cases hopen : Config.gcmOpen (s.qp vf q).keyC2s (queueIv (vf.val * 32 + q.val) 0 0 (s.qp vf q).gen.toNat (s.qp vf q).cntIn) e.hdr e.cipher e.tag with
    | none =>
      obtain ⟨hcxl, hrest⟩ := takeEntry_of_unopened hon' hkeyed' hcount' (by rw [hqp]; exact hfew) hmapped' (hopens _ hopen)
      rw [hqp] at hrest
      obtain ⟨x, rfl⟩ := hframe
      exact ⟨hcxl.eq, hrest⟩
    | some b =>
      intro hcode
      obtain ⟨hcxl, hrest⟩ := takeEntry_of_noCode hon' hkeyed' hcount' hmapped' (hopens _ hopen) hcode
      rw [hqp] at hrest
      exact ⟨(hframe.trans hcxl).eq, hrest⟩

end Sys2Proof.Proofs
end

section
/-! SUPPORT. Ring heads written, delays that end and translations given up (R481, R487, R488). -/

namespace Sys2Proof.Machine

/-! ### Completions that waited (R487, R488) -/

theorem Qp.flush_of_none {p : Qp} (h : p.waiting = []) (qn now : Nat) (fails : BitVec 64 → Bool) : p.flush qn now fails = p := by
  unfold Qp.flush
  rw [h]
  rfl

section
variable {p : Qp} {c : Completion} {fails : BitVec 64 → Bool}

theorem Qp.flush_of_fails (h : p.waiting = [c]) (hroom : p.room c = true) (hfails : (p.slotsOf c).any fails = true) (qn now : Nat) :
    p.flush qn now fails = p.untranslated := by
  unfold Qp.flush
  simp only [h, List.length_singleton, Qp.drain, hroom, hfails, Bool.not_true, Bool.false_eq_true, if_false, if_true]

theorem Qp.flush_of_room (h : p.waiting = [c]) (hroom : p.room c = true) (hmapped : (p.slotsOf c).any fails = false) (qn now : Nat) :
    p.flush qn now fails = { p with waiting := [] }.write qn now c := by
  unfold Qp.flush
  simp only [h, List.length_singleton, Qp.drain, hroom, hmapped, Bool.not_true, Bool.false_eq_true, if_false]

end

/-- A completion written stands at the end of the ring with its fields and the present phase; one in PSTATUS form is not encrypted. -/
theorem Qp.write_written (p : Qp) (qn now : Nat) (c : Completion) : ∃ d, (p.write qn now c).written = p.written ++ [d] ∧
    d.htag = c.htag ∧ d.status = c.status ∧ d.data = c.data ∧ d.phase = p.cqPhase ∧
    (c.pstatus = true → d.entry = d.header ++ List.replicate 112 0) := by
  refine ⟨_, rfl, rfl, rfl, rfl, rfl, fun h => ?_⟩
  exact congrArg (_ ++ ·) (if_pos h)

/-- The pair with the completion entries up to a written head free. -/
def Qp.cqFreed (p : Qp) (head : BitVec 12) : Qp :=
  { p with cqHead := head, cqUsed := (p.cqTail.toNat + p.cqSize - head.toNat % p.cqSize) % p.cqSize }

/-- The pair with the record slots up to a written head free. -/
def Qp.d2hFreed (p : Qp) (head : BitVec 10) : Qp :=
  { p with d2hHead := head, d2hUsed := (p.d2hTail.toNat + p.d2hSlots - head.toNat % p.d2hSlots) % p.d2hSlots }

/-- Behind a written head a completion entry is free. -/
theorem Qp.cqFreed_room {p : Qp} {c : Completion} (h : p.d2hUsed + c.recs ≤ p.d2hSlots) (head : BitVec 12) :
    (p.cqFreed head).room c = true := by
  have hfree : (p.cqFreed head).cqUsed < (p.cqFreed head).cqSize := Nat.mod_lt _ (Nat.two_pow_pos _)
  unfold Qp.room
  simpa using ⟨hfree, h⟩

theorem cqHeadWrite_of_flush {s : State} {vf q : Nat} {head : BitVec 12} {p : Qp}
    (h : ((s.qp vf q).cqFreed head).flush (vf * 32 + q) s.gov.now (s.atsFails vf) = p)
    (hquiet : p.disabled = true → (s.qp vf q).disabled = true) : cqHeadWrite s vf q head = s.modQp vf q fun _ => p := by
  subst h
  exact (modPair_of_quiet hquiet).trans (State.modQp_congr rfl)

theorem d2hHeadWrite_of_none {s : State} {vf q : Nat} (h : (s.qp vf q).waiting = []) (head : BitVec 10) :
    d2hHeadWrite s vf q head = s.modQp vf q fun p => p.d2hFreed head := by
  have hflush (p : Qp) (hp : p.waiting = []) := Qp.flush_of_none hp (vf * 32 + q) s.gov.now (s.atsFails vf)
  have hquiet : modPair s vf q (fun p => (p.d2hFreed head).flush (vf * 32 + q) s.gov.now (s.atsFails vf)) =
      s.modQp vf q fun p => (p.d2hFreed head).flush (vf * 32 + q) s.gov.now (s.atsFails vf) := by
    refine modPair_of_quiet fun hdis => ?_
    rwa [hflush ((s.qp vf q).d2hFreed head) h] at hdis
  exact hquiet.trans (State.modQp_congr (hflush _ h))

/-! ### Interrupts, ENABLE and invalidations (R342, R481, R488, R491) -/

theorem irqExpiry_of_pending {s : State} {vf q : Nat} (hpending : (s.qp vf q).irqPending ≠ 0) (hcount : (s.qp vf q).irqCount ≠ 0) :
    irqExpiry s vf q = (s.advance ((s.qp vf q).irqSince + 1000 * ((s.qp vf q).ctrl.extractLsb' 9 16).toNat)).modQp vf q fun p =>
      { p with irqPending := 0, msix := p.msix + 1 } := by
  unfold irqExpiry
  exact if_neg (not_or.mpr ⟨hpending, hcount⟩)

theorem queueEnable_of_set {s : State} {vf q : Nat} {v : W32} (hclear : (s.qp vf q).ctrl.getLsbD 0 = false) (hset : v.getLsbD 0 = true) :
    queueEnable s vf q v = (s.modQp vf q fun p => { p with ctrl := v &&& 0x01FFFFFF }).modQp vf q fun p =>
      { p with disabled := p.disabled && p.status == St.authFail } := by
  unfold queueEnable
  simp only [hclear, hset, Bool.false_and, Bool.not_false, Bool.and_true, Bool.false_eq_true, if_false, if_true]

/-- The pair with ENABLE cleared, its requests not yet ended. -/
def Qp.cleared (p : Qp) (v : W32) : Qp := { p with ctrl := v &&& 0x01FFFFFF, status := if p.disabled then p.status else St.disabled }

theorem queueEnable_of_clear {s : State} {vf q : Nat} {v : W32} (hset : (s.qp vf q).ctrl.getLsbD 0 = true) (hclear : v.getLsbD 0 = false) :
    ∃ u, u.qp vf q = (s.qp vf q).cleared v ∧ queueEnable s vf q v = endVfWork u vf fun k => k == q := by
  refine ⟨(s.modQp vf q fun p => { p with ctrl := v &&& 0x01FFFFFF }).modQp vf q fun p =>
    { p with status := if p.disabled then p.status else St.disabled }, ?_, ?_⟩
  · rw [State.modQp_qp_same, State.modQp_qp_same]
    rfl
  · unfold queueEnable
    simp only [hset, hclear, Bool.not_false, Bool.and_true, if_true]

theorem Qp.cleared_settles {p r : Qp} {v : W32} (hclear : v.getLsbD 0 = false) (h : (p.cleared v).Settles r) :
    r.ctrl = v &&& 0x01FFFFFF ∧ r.on = false ∧ r.status = if p.disabled then p.status else St.disabled := by
  refine ⟨h.ctrl, ?_, ?_⟩
  · have hbit : (v &&& 0x01FFFFFF).getLsbD 0 = false := by rw [BitVec.getLsbD_and, hclear, Bool.false_and]
    have hctrl : r.ctrl = v &&& 0x01FFFFFF := h.ctrl
    unfold Qp.on
    rw [hctrl, hbit, Bool.false_and]
  · rcases h.status with hsame | ⟨hon, hdisabled⟩
    · exact hsame
    · exact hdisabled.trans (if_neg (Bool.eq_false_iff.mp hon)).symm

/-- The translation of the invalidated page is settled by whether the host still maps it; the others are as they were. -/
theorem atsInvalidate_atsFails (s : State) (vf : Nat) (i : AtsInv) (k : Nat) (a : BitVec 64) :
    (atsInvalidate s vf i).atsFails k a = if (k, a >>> 12) = (vf, i.iova >>> 12) then !i.mapped else s.atsFails k a := by
  have hmem : (atsInvalidate s vf i).cxl.unmapped =
      (s.cxl.unmapped.filter fun y => y != (vf, i.iova >>> 12)) ++ (if i.mapped then [] else [(vf, i.iova >>> 12)]) := rfl
  unfold State.atsFails
  rw [hmem, Bool.eq_iff_iff]
  by_cases h : (k, a >>> 12) = (vf, i.iova >>> 12)
  · rw [if_pos h, h]
    cases i.mapped <;> simp
  · rw [if_neg h]
    cases i.mapped <;> simp [h]

end Sys2Proof.Machine
end

section
/-! PROOFS. O39: rings, interrupts and translations. -/

namespace Sys2Proof.Proofs
open Sys2Proof Sys2Proof.Machine

section
variable {s : State} {vf : VfN} {q : QpN} {head : BitVec 12} {c : Completion}

/-- A completion that waited for an entry whose translation fails is dropped, and the pair is disabled (R481, R487). -/
theorem cqHeadWrite_of_fails (hwaits : (s.qp vf q).waiting = [c]) (hslots : (s.qp vf q).d2hUsed + c.recs ≤ (s.qp vf q).d2hSlots)
    (hfails : ((s.qp vf q).slotsOf c).any (s.atsFails vf) = true) : ∃ t, cqHeadWrite s vf q head = t ∧
      t = { s with cxl := t.cxl, err := t.err } ∧ t.qp vf q = ((s.qp vf q).cqFreed head).untranslated ∧
      ((s.qp vf q).disabled = true → t.err = s.err) ∧
      ((s.qp vf q).disabled = false →
        sget FaultRec.none t.err.ring (s.err.head.toNat % 1024) = (disabledFault vf q St.disabled).record s.err.head s.tick) := by
  have hflush : ((s.qp vf q).cqFreed head).flush (vf * 32 + q) s.gov.now (s.atsFails vf) = ((s.qp vf q).cqFreed head).untranslated :=
    Qp.flush_of_fails (p := (s.qp vf q).cqFreed head) hwaits (Qp.cqFreed_room hslots head) hfails _ _
  have hqp : (cqHeadWrite s vf q head).qp vf q = ((s.qp vf q).cqFreed head).untranslated :=
    (modPair_qp s vf q _ vf q).trans ((if_pos rfl).trans hflush)
  cases hdis : (s.qp vf q).disabled
  · have hwrite : cqHeadWrite s vf q head = recordNow _ _ := modPair_of_disables hdis (congrArg Qp.disabled hflush)
    obtain ⟨e, m, hrecord, hring⟩ := recordNow_disabledFault (s.modQp vf q _) vf q St.disabled
    refine ⟨_, hwrite.trans hrecord, rfl, ?_, fun h => Bool.noConfusion h, fun _ => hring⟩
    rw [← hrecord, ← hwrite]
    exact hqp
  · exact ⟨_, cqHeadWrite_of_flush hflush fun _ => hdis, rfl, State.modQp_qp_same _ _ _ _, fun _ => rfl, fun h => Bool.noConfusion h⟩

/-- A completion that waited for an entry is written into it (R487). -/
theorem cqHeadWrite_of_mapped (hwaits : (s.qp vf q).waiting = [c]) (hslots : (s.qp vf q).d2hUsed + c.recs ≤ (s.qp vf q).d2hSlots)
    (hmapped : ((s.qp vf q).slotsOf c).any (s.atsFails vf) = false) : cqHeadWrite s vf q head = s.modQp vf q fun p =>
      { p.cqFreed head with waiting := [] }.write (vf * 32 + q) s.gov.now c :=
  (cqHeadWrite_of_flush (Qp.flush_of_room (p := (s.qp vf q).cqFreed head) hwaits (Qp.cqFreed_room hslots head) hmapped _ _) id).trans
    (State.modQp_congr rfl)

end

/-- Settles O39: each write of a head, the delay, each write of ENABLE and each invalidation by its own lemma. -/
theorem ringsInterruptsAndTranslations : Obligations.RingsInterruptsAndTranslations := by
  unfold Obligations.RingsInterruptsAndTranslations
  intro s vf q
  refine ⟨fun head => ⟨fun hnone => ⟨_, rfl, ?cqFreed⟩, fun c hwaits hslots => ⟨fun hfails => ?dropped, fun hmapped => ?written⟩⟩,
    fun head hnone => ⟨_, rfl, ?d2hFreed⟩, fun hpending hcount => ⟨_, rfl, ?fired⟩,
    fun v => ⟨fun hclear hset => ⟨_, rfl, ?enabled⟩, fun hset hclear => ⟨_, rfl, ?cleared⟩⟩,
    fun i => ⟨_, rfl, rfl, fun a => ?invalidated, fun k hk a => ?others⟩⟩
  case cqFreed =>
    rw [cqHeadWrite_of_flush (Qp.flush_of_none (p := (s.qp vf q).cqFreed head) hnone _ _ _) id]
    exact State.modQp_alone s vf q _
  case dropped =>
    obtain ⟨t, hexec, hframe, hqp, hquiet, hrecorded⟩ := cqHeadWrite_of_fails (head := head) hwaits hslots hfails
    refine ⟨t, congrArg _ hexec, hframe, hquiet, hrecorded, ?_⟩
    rw [hqp]
    exact ⟨Bool.and_false _, rfl, rfl, fun hdis => if_neg (Bool.eq_false_iff.mp hdis)⟩
  case written =>
    obtain ⟨d, hwritten, hfields⟩ := Qp.write_written { (s.qp vf q).cqFreed head with waiting := [] } (vf * 32 + q) s.gov.now c
    refine ⟨_, d, rfl, ?_⟩
    rw [cqHeadWrite_of_mapped hwaits hslots hmapped, State.modQp_qp_same]
    exact ⟨rfl, rfl, hwritten, hfields⟩
  case d2hFreed =>
    rw [d2hHeadWrite_of_none hnone]
    exact State.modQp_alone s vf q _
  case fired =>
    rw [irqExpiry_of_pending hpending hcount]
    exact ⟨rfl, State.modQp_qp_same _ _ _ _, fun k hk => State.modQp_qp_ne _ _ _ hk⟩
  case enabled =>
    rw [queueEnable_of_set hclear hset]
    refine ⟨rfl, ?_, fun k hk => (State.modQp_qp_ne _ _ _ hk).trans (State.modQp_qp_ne _ _ _ hk)⟩
    rw [State.modQp_qp_same, State.modQp_qp_same]
  case cleared =>
    obtain ⟨u, hqp, heq⟩ := queueEnable_of_clear hset hclear
    have hpair := PairsSettle.endVfWork u vf (fun k => k == q.val) vf q
    rw [hqp] at hpair
    rw [heq]
    obtain ⟨hctrl, hoff, hstatus⟩ := Qp.cleared_settles hclear hpair
    refine ⟨hctrl, hoff, hstatus, fun p hp r hr hvf hq hcmd => ?_⟩
    refine endVfWork_endsInStep u vf (fun k => k == q.val) hp r hr ?_
    simpa [hvf, hq] using hcmd
  case invalidated =>
    refine (atsInvalidate_atsFails s vf i vf a).trans (if_congr ?_ rfl rfl)
    simp
  case others => exact (atsInvalidate_atsFails s vf i k a).trans (if_neg fun h => hk (Fin.ext (congrArg Prod.fst h)))

end Sys2Proof.Proofs
end

section
/-! SUPPORT. One port changed, served, and sent through: what each leaves of the port and of the rest of the module (R498, R501, R502). -/

namespace Sys2Proof.Machine

theorem State.modPort_port_same (s : State) (n : Nat) (f : Port → Port) : (s.modPort n f).port n = f (s.port n) :=
  (State.modPort_port s n f n).trans (if_pos rfl)

theorem State.modPort_port_ne (s : State) {n m : Nat} (f : Port → Port) (hm : m ≠ n) : (s.modPort n f).port m = s.port m :=
  (State.modPort_port s n f m).trans (if_neg hm)

/-! ### The ports alone -/

/-- From `s` to `t` the ports alone change. -/
def PortsOnly (s t : State) : Prop := ∃ ps, t = { s with ports := ps }

namespace PortsOnly

theorem eq {s t : State} (h : PortsOnly s t) : t = { s with ports := t.ports } := by
  obtain ⟨_, rfl⟩ := h
  rfl

theorem refl (s : State) : PortsOnly s s := ⟨_, rfl⟩

theorem trans {s t u : State} (h : PortsOnly s t) (h' : PortsOnly t u) : PortsOnly s u := by
  obtain ⟨_, rfl⟩ := h
  obtain ⟨_, rfl⟩ := h'
  exact ⟨_, rfl⟩

theorem modPort (s : State) (n : Nat) (f : Port → Port) : PortsOnly s (s.modPort n f) := ⟨_, rfl⟩

theorem servePort (s : State) (n : Nat) : PortsOnly s (servePort s n) := servePort_eq s n

theorem sendFirst (s : State) (n : Nat) (k : OutPkt) : PortsOnly s (sendFirst s n k) := (servePort s n).trans ⟨_, rfl⟩

theorem sendLink (s : State) (n kind : Nat) (args : List Nat) (bytes : List Byte) : PortsOnly s (sendLink s n kind args bytes) :=
  sendFirst s n _

end PortsOnly

/-! ### A packet ahead of what waits (R502) -/

/-- Port `q` is `p` after packets have left it: only what the line and the replay of packets keep differs. -/
def Port.SendsTo (p q : Port) : Prop := ∃ out seq ctr free kept waiting used, q = { p with
  out := out, seqTx := seq, ctrTx := ctr, lineFree := free, unacked := kept, waiting := waiting, shareUsed := used }

theorem Port.SendsTo.refl (p : Port) : p.SendsTo p := ⟨_, _, _, _, _, _, _, rfl⟩

theorem Port.SendsTo.trans {p q r : Port} (h : p.SendsTo q) (h' : q.SendsTo r) : p.SendsTo r := by
  obtain ⟨_, _, _, _, _, _, _, rfl⟩ := h
  obtain ⟨_, _, _, _, _, _, _, rfl⟩ := h'
  exact ⟨_, _, _, _, _, _, _, rfl⟩

theorem send1_sendsTo (s : State) (n dpart : Nat) (k : OutPkt) : (s.port n).SendsTo ((send1 s n dpart k).port n) := by
  obtain ⟨_, _, _, _, _, h, -⟩ := send1_port s n dpart k
  exact ⟨_, _, _, _, _, _, _, h⟩

theorem serveOne_sendsTo (s : State) (n t : Nat) (w : Waiting) : (s.port n).SendsTo ((serveOne s n t w).port n) := by
  unfold serveOne
  extract_lets p size src k share sent
  have hsent : (s.port n).SendsTo (sent.port n) := send1_sendsTo s n w.dpart k
  rw [State.modPort_port_same]
  exact hsent.trans ⟨_, _, _, _, _, _, _, rfl⟩

theorem serveWaiting_sendsTo (n lim fuel : Nat) (s : State) : (s.port n).SendsTo ((serveWaiting n lim fuel s).port n) := by
  induction fuel generalizing s with
  | zero => exact .refl _
  | succ fuel ih =>
    rw [serveWaiting]
    split
    · exact .refl _
    · split
      · exact .refl _
      · exact (serveOne_sendsTo s n _ _).trans (ih _)

theorem servePort_sendsTo (s : State) (n : Nat) : (s.port n).SendsTo ((servePort s n).port n) := by
  unfold servePort serveTo
  split
  · exact serveWaiting_sendsTo n _ _ s
  · exact .refl _

theorem sendLink_sendsTo (s : State) (n kind : Nat) (args : List Nat) (bytes : List Byte) :
    (s.port n).SendsTo ((sendLink s n kind args bytes).port n) :=
  (servePort_sendsTo s n).trans (send1_sendsTo _ n 0 _)

/-- A packet that leaves ahead of what waits, of a port whose own fields were changed before and on which nothing waits. -/
theorem sendFirst_after {s v : State} {n : Nat} (hv : PortsOnly s v) (hout : (v.port n).out = (s.port n).out) (hfree : LineFree v n)
    (k : OutPkt) : PortsOnly s (sendFirst v n k) ∧ Sent s (sendFirst v n k) n k.type k.kind k.args ∧
      (v.port n).SendsTo ((sendFirst v n k).port n) := by
  have hsend : sendFirst v n k = send1 v n 0 k := congrArg (send1 · n 0 k) (servePort_of_lineFree hfree)
  obtain ⟨k', _, _, _, _, hport, hfields⟩ := send1_port v n 0 k
  refine ⟨hv.trans (.sendFirst v n k), ⟨k', ?_, hfields⟩, hsend ▸ send1_sendsTo v n 0 k⟩
  rw [hsend, hport, ← hout]

theorem sendLink_after {s v : State} {n : Nat} (hv : PortsOnly s v) (hout : (v.port n).out = (s.port n).out) (hfree : LineFree v n)
    (kind : Nat) (args : List Nat) (bytes : List Byte) : PortsOnly s (sendLink v n kind args bytes) ∧
      Sent s (sendLink v n kind args bytes) n 5 kind args ∧ (v.port n).SendsTo ((sendLink v n kind args bytes).port n) :=
  sendFirst_after hv hout hfree _

end Sys2Proof.Machine
end

section
/-! SUPPORT. Link modes (R509, R510, R569): proposals, and the fields of FNL_MODE. -/

namespace Sys2Proof.Machine

/-- The number with base-4 digits `d`, as FNL_MODE holds the modes of the ports. -/
def fromFields (d : Nat → Nat) (k : Nat) : Nat := (List.range k).foldl (fun a n => a + d n * 4 ^ n) 0

theorem fromFields_succ (d : Nat → Nat) (k : Nat) : fromFields d (k + 1) = fromFields d k + d k * 4 ^ k := by
  simp [fromFields, List.range_succ]

section
variable {d : Nat → Nat} (hd : ∀ n, d n < 4)
include hd

theorem fromFields_lt (k : Nat) : fromFields d k < 4 ^ k := by
  induction k with
  | zero => exact Nat.one_pos
  | succ k ih =>
    have := hd k
    rw [fromFields_succ, pow_succ]
    nlinarith

theorem fromFields_field {j k : Nat} (h : j < k) : fromFields d k / 4 ^ j % 4 = d j := by
  induction k with
  | zero => exact absurd h (Nat.not_lt_zero j)
  | succ k ih =>
    rw [fromFields_succ]
    by_cases hj : j = k
    · subst hj
      rw [Nat.add_mul_div_right _ _ (by positivity), Nat.div_eq_of_lt (fromFields_lt hd j), Nat.zero_add, Nat.mod_eq_of_lt (hd j)]
    · obtain ⟨i, rfl⟩ := Nat.exists_eq_add_of_lt (show j < k by omega)
      have hsplit : d (j + i + 1) * 4 ^ (j + i + 1) = 4 * (d (j + i + 1) * 4 ^ i) * 4 ^ j := by ring
      rw [hsplit, Nat.add_mul_div_right _ _ (by positivity), Nat.add_mul_mod_self_left, ih (by omega)]

/-- A field of the register that holds these seven. -/
theorem extractLsb'_fromFields {j : Nat} (h : j < 7) :
    (BitVec.ofNat 14 (fromFields d 7)).extractLsb' (2 * j) 2 = BitVec.ofNat 2 (d j) := by
  apply BitVec.eq_of_toNat_eq
  have hlt : fromFields d 7 < 2 ^ 14 := fromFields_lt hd 7
  rw [BitVec.extractLsb'_toNat, BitVec.toNat_ofNat, Nat.mod_eq_of_lt hlt, Nat.shiftRight_eq_div_pow, pow_mul, BitVec.toNat_ofNat]
  exact (fromFields_field hd h).trans (Nat.mod_eq_of_lt (hd j)).symm

end

/-- The port without a proposal of its own. -/
def Port.withdrawn (p : Port) : Port := { p with proposal := none }

/-- The port with a change of mode accepted for a tick (R509). -/
def Port.accepted (mode : BitVec 2) (u : BitVec 64) (p : Port) : Port := { p with modeDue := some (mode, u) }

theorem startRekey_fnlMode (s : State) (n : Nat) : (startRekey s n).fnlMode = s.fnlMode := by
  cases hlower : lowerEnd s n
  · rw [startRekey_of_upper hlower]
  · rw [startRekey_eq hlower, (PortsOnly.sendLink _ n 1 [0] _).eq]
    rfl

theorem sendProposal_portsOnly (s : State) (n : Nat) : PortsOnly s (sendProposal s n) :=
  (PortsOnly.modPort s n _).trans (.sendLink _ n _ _ _)

theorem propose_fnlMode (s : State) (n : Nat) : (propose s n).fnlMode = s.fnlMode := by
  unfold propose
  extract_lets p want pending
  split
  · rfl
  · split
    · rfl
    · split
      · exact (startRekey_fnlMode pending n).trans rfl
      · rw [(sendProposal_portsOnly pending n).eq]
        rfl

/-- Field of a port in a write of FNL_MODE: 0 and 3 leave the mode as it is (R569). -/
def writtenMode (s : State) (v : W32) (n : Nat) : BitVec 2 :=
  if v.extractLsb' (2 * n) 2 = 1 ∨ v.extractLsb' (2 * n) 2 = 2 then v.extractLsb' (2 * n) 2 else configured s n

/-- An agreeing pair sets FNL_MODE field by field (R569). -/
theorem fnlModeWrite_of_agreeing {s : State} {v c : W32} (h : v.extractLsb' 0 14 = ~~~(c.extractLsb' 0 14)) :
    (fnlModeWrite s v c).fnlMode = Paired.of (BitVec.ofNat 14 (fromFields (fun n => (writtenMode s v n).toNat) 7)) := by
  have hmode (n : Nat) : (if (v.extractLsb' (2 * n) 2).toNat = 1 ∨ (v.extractLsb' (2 * n) 2).toNat = 2 then (v.extractLsb' (2 * n) 2).toNat
      else (configured s n).toNat) = (writtenMode s v n).toNat := by
    have htoNat (b : BitVec 2) : (b.toNat = 1 ↔ b = 1) ∧ (b.toNat = 2 ↔ b = 2) := by
      revert b
      decide
    unfold writtenMode
    simp only [(htoNat _).1, (htoNat _).2]
    split <;> rfl
  unfold fnlModeWrite
  rw [if_neg (not_not_intro h)]
  simp only [hmode]
  refine List.foldlRecOn (motive := fun u : State => u.fnlMode = _) _ _ rfl fun u hu n _ => ?_
  split
  · exact hu
  · exact (propose_fnlMode u n).trans hu

theorem fnlModeWrite_configured {s : State} {v c : W32} (h : v.extractLsb' 0 14 = ~~~(c.extractLsb' 0 14)) {m : Nat} (hm : m < 7) :
    configured (fnlModeWrite s v c) m = writtenMode s v m := by
  unfold configured
  rw [fnlModeWrite_of_agreeing h]
  exact (extractLsb'_fromFields (fun n => (writtenMode s v n).isLt) hm).trans (BitVec.ofNat_toNat ..)

end Sys2Proof.Machine
end

section
/-! PROOFS. O46: link modes (R509, R510, R515, R569). -/

namespace Sys2Proof.Proofs
open Sys2Proof Sys2Proof.Machine

section
variable {s : State} {n : PortN}

/-- A proposal withdraws the port's own, and is accepted where it is of the configured mode and 16 ticks ahead (R509). -/
theorem modeProposeIn_of_up {mode : BitVec 2} (u : BitVec 64) (hup : (s.port n).state = 2) (hnone : (s.port n).proposal = none)
    (hpair : s.fnlMode.ok = true) (hheld : mode ≠ 2 ∨ modeBlocked s n = false) : ∃ b, modeProposeIn s n mode u =
      if configured s n = mode ∧ s.tick + 16 ≤ u.toNat then sendLink ((s.modPort n Port.withdrawn).modPort n (Port.accepted mode u)) n 4 [0] []
      else sendLink ((s.modPort n Port.withdrawn).modPort n fun p => { p with blocked := p.blocked || b }) n 4 [1] [] := by
  have hopen : ¬((s.port n).state ≠ 2 ∨ ((s.port n).proposal.isSome ∧ lowerEnd s n)) := by simp [hup, hnone]
  have hnot : ¬(mode = 2 ∧ modeBlocked s n = true) := fun ⟨hmode, hblocked⟩ => by simp [hmode, hblocked] at hheld
  unfold modeProposeIn
  rw [if_neg hopen, if_neg (by simp [hpair])]
  exact ⟨_, if_congr (and_congr_right fun _ => and_iff_left hnot) rfl rfl⟩

/-- The answer to a proposal leaves at once, of a port whose fields were changed by `f`. -/
theorem modeAnswer_sent (hfree : LineFree s n) {f : Port → Port} (hf : ∀ p, (f p).out = p.out ∧ (f p).waiting = p.waiting)
    (args : List Nat) : ∃ t, sendLink ((s.modPort n Port.withdrawn).modPort n f) n 4 args [] = t ∧ t = { s with ports := t.ports } ∧
      (t.port n).modeDue = (f (Port.withdrawn (s.port n))).modeDue ∧ Sent s t n 5 4 args := by
  have hport : ((s.modPort n Port.withdrawn).modPort n f).port n = f (Port.withdrawn (s.port n)) := by
    rw [State.modPort_port_same, State.modPort_port_same]
  obtain ⟨hports, hsent, _, _, _, _, _, _, _, hfields⟩ := sendLink_after (.trans (.modPort s n Port.withdrawn) (.modPort _ n f))
    (by rw [hport, (hf _).1]; rfl) (by rw [LineFree, hport, (hf _).2]; exact hfree) 4 args []
  exact ⟨_, rfl, hports.eq, by rw [hfields, hport], hsent⟩

/-- A proposal of the peer is accepted where it is of the configured mode and 16 ticks ahead, and refused otherwise (R509). -/
theorem modePropose_answered {mode : BitVec 2} (u : BitVec 64) (hup : (s.port n).state = 2) (hnone : (s.port n).proposal = none)
    (hpair : s.fnlMode.ok = true) (hheld : mode ≠ 2 ∨ modeBlocked s n = false) (hfree : LineFree s n) :
    ∃ t, exec (.modePropose n mode u) s = .next t ∧ t = { s with ports := t.ports } ∧
      if configured s n = mode ∧ s.tick + 16 ≤ u.toNat then (t.port n).modeDue = some (mode, u) ∧ Sent s t n 5 4 [0]
      else (t.port n).modeDue = (s.port n).modeDue ∧ Sent s t n 5 4 [1] := by
  obtain ⟨b, heq⟩ := modeProposeIn_of_up u hup hnone hpair hheld
  by_cases h : configured s n = mode ∧ s.tick + 16 ≤ u.toNat
  · obtain ⟨t, ht, hports, hanswer⟩ := modeAnswer_sent hfree (f := Port.accepted mode u) (fun _ => ⟨rfl, rfl⟩) [0]
    exact ⟨t, congrArg Host.Outcome.next (heq.trans ((if_pos h).trans ht)), hports, (if_pos h).mpr hanswer⟩
  · obtain ⟨t, ht, hports, hanswer⟩ := modeAnswer_sent hfree (f := fun p => { p with blocked := p.blocked || b }) (fun _ => ⟨rfl, rfl⟩) [1]
    exact ⟨t, congrArg Host.Outcome.next (heq.trans ((if_neg h).trans ht)), hports, (if_neg h).mpr hanswer⟩

/-- An accepted change to the configured mode takes place at its tick (R509). -/
theorem linkModeSwitch_of_configured {mode : BitVec 2} {u : BitVec 64} (hdue : (s.port n).modeDue = some (mode, u))
    (hlive : (s.port n).live ≠ mode) (hmode : configured s n = mode) (hfree : LineFree s n) :
    linkModeSwitch s n = (s.advance (32 * u.toNat)).modPort n fun p => { p with live := mode, pending := false, blocked := false } := by
  have hserved : serveTo (s.advance (32 * u.toNat)) n (lineUnits * 32 * u.toNat) = s.advance (32 * u.toNat) :=
    serveTo_of_leavesAtOnce (s := s.advance (32 * u.toNat)) (.inr hfree) _
  unfold linkModeSwitch
  rw [hdue]
  dsimp only
  rw [if_neg hlive, hserved]
  exact if_pos hmode

/-- A port whose configured mode is plain and not in force proposes it for tick T + 64 (R509, R515). -/
theorem propose_plain (hup : (s.port n).state = 2) (hmode : configured s n = 1) (hlive : (s.port n).live ≠ 1) (hfree : LineFree s n) :
    PortsOnly s (propose s n) ∧ ((propose s n).port n).proposal = some (1, BitVec.ofNat 64 (s.tick + 64)) ∧
      Sent s (propose s n) n 5 3 [1, s.tick + 64] := by
  have hopen : ¬((s.port n).state ≠ 2 ∨ configured s n = (s.port n).live) := not_or.mpr ⟨not_not_intro hup, fun h => hlive (h.symm.trans hmode)⟩
  generalize hpending : (s.modPort n fun p => { p with pending := true, blocked := false, proposal := none }) = v
  have hport : v.port n = { s.port n with pending := true, blocked := false, proposal := none } :=
    hpending ▸ State.modPort_port_same s n _
  have hconfigured : configured v n = 1 := hpending ▸ hmode
  have htick : v.tick = s.tick := hpending ▸ rfl
  have hpropose : propose s n = sendProposal v n := by
    have hnot : ¬(configured s n : BitVec 2) = 2 := by rw [hmode]; decide
    unfold propose
    rw [if_neg hopen]
    dsimp only
    rw [hpending, if_neg fun h => hnot h.1, if_neg hnot]
  unfold sendProposal at hpropose
  rw [hconfigured, htick] at hpropose
  obtain ⟨hports, hsent, hsends⟩ := sendLink_after (s := s) (n := n)
    (v := v.modPort n fun p => { p with proposal := some (1, BitVec.ofNat 64 (s.tick + 64)) })
    (.trans (hpending ▸ .modPort s n _) (.modPort v n _)) (by rw [State.modPort_port_same, hport])
    (by rw [LineFree, State.modPort_port_same, hport]; exact hfree) 3 [1, s.tick + 64] []
  obtain ⟨_, _, _, _, _, _, _, hfields⟩ := hsends
  rw [State.modPort_port_same] at hfields
  rw [hpropose]
  exact ⟨hports, (congrArg Port.proposal hfields).trans rfl, hsent⟩

end

/-- Settles O46: an answer to a proposal is a message that leaves at once (`sendLink_after`), an accepted change takes place by
`linkModeSwitch_of_configured`, and the fields of FNL_MODE are read back one by one (`fnlModeWrite_configured`). -/
theorem linkModesAreAgreed : Obligations.LinkModesAreAgreed := by
  unfold Obligations.LinkModesAreAgreed
  intro s n
  refine ⟨fun mode u hup hnone hpair hheld hfree => modePropose_answered u hup hnone hpair hheld hfree,
    fun x hx => ⟨⟨_, rfl, rfl, ?accepted, fun m hm => State.modPort_port_ne s _ hm⟩,
      ⟨_, rfl, rfl, State.modPort_port_same s n _, fun m hm => State.modPort_port_ne s _ hm⟩⟩, ?switch, ?retry, ?written⟩
  case accepted => exact (State.modPort_port_same s n _).trans (by rw [hx])
  case switch =>
    intro mode u hdue hlive hmode hfree
    exact ⟨_, congrArg Host.Outcome.next (linkModeSwitch_of_configured hdue hlive hmode hfree), rfl, State.modPort_port_same _ n _,
      fun m hm => State.modPort_port_ne _ _ hm⟩
  case retry =>
    intro hpending hnone hup hmode hlive hfree
    obtain ⟨hports, hproposal, hsent⟩ := propose_plain hup hmode hlive hfree
    exact ⟨_, congrArg Host.Outcome.next (if_pos (by simp [hpending, hnone])), hports.eq, hproposal, hsent⟩
  case written =>
    intro hready v c
    have hwrite : exec (.fnlModeWrite v c) s = .next (fnlModeWrite (clearLatch s 0xC00000) v c) :=
      congrArg Host.Outcome.next (gatePair_pf0 _ _ hready rfl (by decide))
    refine ⟨fun hagree => ⟨_, hwrite, ?_, fun m hm => fnlModeWrite_configured hagree hm⟩, fun hdiffer => ⟨_, hwrite, ?_⟩⟩
    · rw [fnlModeWrite_of_agreeing hagree]
      exact Paired.of_ok _
    · rw [fnlModeWrite, if_pos hdiffer]
      exact pairCounted_pairBad _ _

end Sys2Proof.Proofs
end

section
/-! SUPPORT. Packets that arrive on a port (R498 to R501): damaged, refused and delivered ones. -/

namespace Sys2Proof.Machine

/-- The port once it has taken a packet in its turn: FEC counts, the acknowledge that it carries, and the next SEQ (R501). -/
def Port.took (p : Port) (k : Packet) : Port := { (p.fec k).acked k.ack with seqRx := k.seq + 1 }

/-- The module once port `n` has taken a packet, its payload not yet in its place. -/
def arrived (s : State) (n : Nat) (k : Packet) : State :=
  (s.setPort n ((s.port n).fec k)).modPort n fun p => { p.acked k.ack with seqRx := k.seq + 1 }

theorem arrived_port (s : State) (n : Nat) (k : Packet) : (arrived s n k).port n = (s.port n).took k := by
  unfold arrived
  rw [State.modPort_port_same, State.setPort_port, if_pos rfl]
  rfl

theorem arrived_portsOnly (s : State) (n : Nat) (k : Packet) : PortsOnly s (arrived s n k) := ⟨_, rfl⟩

/-- Whether a partition is bound to the port does not depend on the packets taken. -/
theorem boundTo_arrived (s : State) (n type : Nat) (k : Packet) : boundTo (arrived s n k) n type k = boundTo s n type k := by
  unfold boundTo
  rw [arrived_port]
  rfl

section
variable {s : State} {n : Nat} {k : Packet}

/-- A damaged packet is counted and named in a NAK (R501). -/
theorem packetIn_of_damaged (hup : (s.port n).state = 2) (hdamaged : packetDamaged k = true) (type : Nat) :
    packetIn s n type k = sendFirst ((s.setPort n ((s.port n).fec k)).modPort n fun p =>
      { p with nak := p.nak.filter (· != k.seq) ++ [k.seq] }) n ⟨0, 0, [1, k.seq.toNat], [], []⟩ := by
  have hup' : ¬((s.port n).fec k).state ≠ 2 := not_not_intro hup
  unfold packetIn
  dsimp only
  rw [if_neg hup', if_pos hdamaged]

/-- A port in plain mode takes packets in clear (R509). -/
theorem modeTaken_of_plain (hlive : (s.port n).live = 1) (hplain : k.protectedMode = false) : modeTaken s n k = true := by
  have hmode : (k.protectedMode == ((s.port n).live == 2)) = true := by
    rw [hlive, hplain]
    rfl
  unfold modeTaken
  dsimp only
  rw [hmode, Bool.true_or, Bool.true_or]

/-- A packet in clear in its turn: the pairs that the check of its binding reads agree (R444, R499). -/
theorem takePacket_of_plain (hplain : k.protectedMode = false) (hdp : (s.part k.dpart).dp.dp.ok = true)
    (hports : (s.part k.dpart).dp.ports.ok = true) (hbuddy : (s.part k.dpart).dp.buddy.ok = true) (type : Nat) :
    takePacket (s.setPort n ((s.port n).fec k)) n type k = if (!boundTo (arrived s n k) n type k) = true then
      rejectPacket (arrived s n k) n k else intoPlace (arrived s n k) n type k k.cipher := by
  unfold takePacket
  extract_lets u v
  have hv : v = arrived s n k := if_neg (Bool.eq_false_iff.mp hplain)
  have hpayload : packetPayload u n type k = some k.cipher := if_pos (by simp [hplain])
  have hpart : v.part k.dpart = s.part k.dpart := (congrArg (fun w : State => w.part k.dpart) hv).trans rfl
  clear_value v
  rw [hpayload]
  dsimp only
  rw [hpart, hdp, hports, hbuddy, hv]
  rfl

/-- A packet in clear on a port in plain mode that misses none goes to its place, or is refused where its partition is not bound (R499). -/
theorem packetIn_of_plain (hup : (s.port n).state = 2) (hnak : (s.port n).nak = []) (hlive : (s.port n).live = 1)
    (hintact : packetDamaged k = false) (hplain : k.protectedMode = false) (hdp : (s.part k.dpart).dp.dp.ok = true)
    (hports : (s.part k.dpart).dp.ports.ok = true) (hbuddy : (s.part k.dpart).dp.buddy.ok = true) (type : Nat) :
    packetIn s n type k = if boundTo s n type k = true then intoPlace (arrived s n k) n type k k.cipher
      else rejectPacket (arrived s n k) n k := by
  have hup' : ¬((s.port n).fec k).state ≠ 2 := not_not_intro hup
  have hnak' : ((s.port n).fec k).nak = [] := hnak
  have hnoted : ((s.setPort n ((s.port n).fec k)).port n).live = 1 := by
    rw [State.setPort_port, if_pos rfl]
    exact hlive
  unfold packetIn
  dsimp only
  rw [if_neg hup', if_neg (Bool.eq_false_iff.mp hintact), if_neg (by rw [modeTaken_of_plain hnoted hplain]; decide), if_pos hnak']
  refine (takePacket_of_plain hplain hdp hports hbuddy type).trans ?_
  rw [boundTo_arrived]
  cases boundTo s n type k <;> rfl

end

/-! ### The place of a payload (R213, R403) -/

/-- Without a training job every byte of a transfer lands. -/
theorem stepBytes_of_untrained {s : State} {p : Nat} (h : (s.part p).train = none) (c slot : Nat) (step : W32) :
    stepBytes s p c slot step = .land := by
  unfold stepBytes
  rw [h]
  split
  · next hsome => exact absurd hsome (by simp)
  · rfl

/-- The module with the bytes of a transfer in the scratchpad of their core, at an offset of their slot and within its length. -/
def slotWritten (s : State) (c slot off : Nat) (bs : List Byte) : State :=
  { s with scratch := bwrite s.scratch (scrAddr c (((s.core c).slot slot).base + 64 * off)) (bs.take (((s.core c).slot slot).len - 64 * off)) }

/-- The port with a transfer to a slot that has ended, or that goes on (R213). -/
def Port.slotEnded (p : Port) (c slot : Nat) : Port := { p with begun := p.begun.filter fun l => l != (c, slot) }
def Port.slotBegun (p : Port) (c slot : Nat) : Port := { p with begun := (p.begun.filter fun l => l != (c, slot)) ++ [(c, slot)] }

/-- The landing of a transfer's last byte now. -/
def lastByteLands (s : State) (c slot : Nat) : SlotDone := ⟨c, slot, Machine.statusWord none false, .set, s.gov.now, [], none⟩

section
variable {s : State} {p : Nat} (h : (s.part p).train = none) (n c slot off : Nat) (step : W32) (bs : List Byte)
include h

theorem intoSlot_last : intoSlot s n p c slot off step bs true =
    (landSlot (slotWritten s c slot off bs) (lastByteLands s c slot) 0 false).modPort n fun q => q.slotEnded c slot := by
  unfold intoSlot
  simp only [stepBytes_of_untrained h]
  rfl

theorem intoSlot_more : intoSlot s n p c slot off step bs false =
    (slotWritten s c slot off bs).modPort n fun q => q.slotBegun c slot := by
  unfold intoSlot
  simp only [stepBytes_of_untrained h]
  rfl

end

/-- A slot set by a landing carries its tick. -/
theorem landSlot_arrTick (s : State) {d : SlotDone} (hset : d.kind = .set) (delay : Nat) (poison : Bool) :
    (((landSlot s d delay poison).core d.core).slot d.slot).arrTick = BitVec.ofNat 64 ((d.at_ + delay) / 32) := by
  unfold landSlot
  rw [State.modCore_core, if_pos rfl]
  simp only [Core.slot, sget_sput_same, hset]

/-- The bytes of a core's scratchpad once those of a transfer stand in it (R498). -/
def slotByte (s : State) (c slot off : Nat) (bytes : List Byte) (a : Nat) : Byte :=
  let e := (s.core c).slot slot
  let bs := bytes.take (e.len - 64 * off)
  if scrAddr c (e.base + 64 * off) ≤ a ∧ a < scrAddr c (e.base + 64 * off) + bs.length then bs.getD (a - scrAddr c (e.base + 64 * off)) 0
  else bget s.scratch a

theorem slotByte_congr {s t : State} (hcores : t.cores = s.cores) (hscratch : t.scratch = s.scratch) (c slot off : Nat) (bytes : List Byte) :
    slotByte t c slot off bytes = slotByte s c slot off bytes := by
  unfold slotByte State.core
  rw [hcores, hscratch]

theorem bget_slotWritten (s : State) (c slot off : Nat) (bs : List Byte) (a : Nat) :
    bget (slotWritten s c slot off bs).scratch a = slotByte s c slot off bs a := bget_bwrite _ _ _ a

/-- What a transfer's bytes leave: the slot's bytes, its stamp with the last of them, and before that a transfer that has begun. -/
theorem intoSlot_delivers {s u : State} (hu : PortsOnly s u) {p : Nat} (h : (s.part p).train = none) (n c slot off : Nat) (step : W32)
    (bs : List Byte) (last : Bool) : ∃ t, intoSlot u n p c slot off step bs last = t ∧
      t = { s with scratch := t.scratch, ports := t.ports, cores := t.cores } ∧ (∀ a, bget t.scratch a = slotByte s c slot off bs a) ∧
      (t.port n).seqRx = (u.port n).seqRx ∧
      if last then ((t.core c).slot slot).arrTick = BitVec.ofNat 64 s.tick else t.cores = s.cores ∧ (c, slot) ∈ (t.port n).begun := by
  obtain ⟨ps, rfl⟩ := hu
  have hbytes (a : Nat) : bget (slotWritten { s with ports := ps } c slot off bs).scratch a = slotByte s c slot off bs a :=
    (bget_slotWritten _ c slot off bs a).trans (congrFun (slotByte_congr rfl rfl c slot off bs) a)
  cases last with
  | true =>
    refine ⟨_, intoSlot_last (s := { s with ports := ps }) h n c slot off step bs, rfl, hbytes, ?_, ?_⟩
    · rw [State.modPort_port_same]
      rfl
    · exact landSlot_arrTick _ (d := lastByteLands { s with ports := ps } c slot) rfl 0 false
  | false =>
    refine ⟨_, intoSlot_more (s := { s with ports := ps }) h n c slot off step bs, rfl, hbytes, ?_,
      (if_neg Bool.false_ne_true).mpr ⟨rfl, ?_⟩⟩
    all_goals rw [State.modPort_port_same]
    · rfl
    · exact List.mem_append_right _ (List.mem_singleton.mpr rfl)

/-! ### The place of a CKPT unit (R500, log 67) -/

/-- The module with bytes in BUDDY page `g` from its 64-byte unit `u` on. -/
def unitWritten (s : State) (g u : Nat) (bytes : List Byte) : State :=
  { s with stack := bwrite s.stack (g * 65536 + 64 * u) (bytes.take (65536 - 64 * u)) }

theorem bget_unitWritten (s : State) (g u : Nat) (bytes : List Byte) (x : Nat) :
    let a := g * 65536 + 64 * u
    let bs := bytes.take ((g + 1) * 65536 - a)
    bget (unitWritten s g u bytes).stack x = if a ≤ x ∧ x < a + bs.length then bs.getD (x - a) 0 else bget s.stack x := by
  have hroom : (g + 1) * 65536 - (g * 65536 + 64 * u) = 65536 - 64 * u := by omega
  dsimp only
  rw [hroom]
  exact bget_bwrite _ _ _ x

/-! ### Places (R498, R500) -/

section
variable {s : State} {k : Packet} (n : Nat) (bs : List Byte)

theorem intoPlace_data (hpart : partOfCore s k.dcore.toNat = some k.dpart.val) (hcore : k.dcore.toNat < 1280) :
    intoPlace s n 1 k bs = intoSlot s n k.dpart k.dcore.toNat k.dslot.toNat k.doff.toNat k.step bs k.last := if_pos ⟨hpart, hcore⟩

theorem intoPlace_pipe {x : ImgInfo} {c slot : Nat} (hserve : serveInfo s k.dpart = some x)
    (hlane : x.lanes.find? (fun l => l.1 == k.dcore.toNat) = some (k.dcore.toNat, c, slot)) :
    intoPlace s n 2 k bs = intoSlot s n k.dpart c slot k.doff.toNat k.step bs k.last := by
  have hfound : ((serveInfo s k.dpart).bind fun x => x.lanes.find? fun l => l.1 == k.dcore.toNat) = some (k.dcore.toNat, c, slot) := by
    rw [hserve]
    exact hlane
  unfold intoPlace
  simp only [hfound]

theorem intoPlace_ckpt {g : Nat}
    (hpage : (buddyPages s k.dpart)[(k.doff.toNat + 8192 * (k.dslot.toNat + 512 * k.dcore.toNat)) / 1024]? = some g)
    (hok : (s.page g).ok = true) : intoPlace s n 3 k bs =
      unitWritten s g ((k.doff.toNat + 8192 * (k.dslot.toNat + 512 * k.dcore.toNat)) % 1024) bs := by
  unfold intoPlace
  simp only [hpage]
  exact onPages_of_ok _ fun x hx => List.mem_singleton.mp hx ▸ hok

end

end Sys2Proof.Machine
end

section
/-! PROOFS. O43: packets that arrive (R498 to R501). -/

namespace Sys2Proof.Proofs
open Sys2Proof Sys2Proof.Machine

section
variable {s : State} {n : PortN} {k : Packet}

/-- A damaged packet is discarded and named in a NAK (R501). -/
theorem damaged_named (hup : (s.port n).state = 2) (hnak : (s.port n).nak = []) (hfree : LineFree s n)
    (hdamaged : k.intact = false ∨ 0 < k.badWords) : ∃ t, exec (.dataPacket n k) s = .next t ∧ t = { s with ports := t.ports } ∧
      (t.port n).uncorr = satAdd (s.port n).uncorr k.badWords ∧ (t.port n).corrected = satAdd (s.port n).corrected k.fixed ∧
      (t.port n).nak = [k.seq] ∧ Sent s t n 0 0 [1, k.seq.toNat] := by
  have hpacket : packetDamaged k = true := by simpa [packetDamaged] using hdamaged
  have hport : ((s.setPort n ((s.port n).fec k)).modPort n fun p => { p with nak := p.nak.filter (· != k.seq) ++ [k.seq] }).port n =
      { (s.port n).fec k with nak := [k.seq] } := by
    rw [State.modPort_port_same, State.setPort_port, if_pos rfl]
    exact congrArg (fun l => { (s.port n).fec k with nak := List.filter (· != k.seq) l ++ [k.seq] }) hnak
  obtain ⟨hports, hsent, _, _, _, _, _, _, _, hfields⟩ := sendFirst_after (s := s)
    (v := (s.setPort n ((s.port n).fec k)).modPort n fun p => { p with nak := p.nak.filter (· != k.seq) ++ [k.seq] }) (n := n) ⟨_, rfl⟩
    (by rw [hport]; rfl) (by rw [LineFree, hport]; exact hfree) ⟨0, 0, [1, k.seq.toNat], [], []⟩
  rw [hport] at hfields
  exact ⟨_, congrArg Host.Outcome.next (packetIn_of_damaged hup hpacket 1), hports.eq, (congrArg Port.uncorr hfields).trans rfl,
    (congrArg Port.corrected hfields).trans rfl, (congrArg Port.nak hfields).trans rfl, hsent⟩

/-- A refused packet is counted and answered with REJECT (R499). -/
theorem rejectPacket_counted (hfree : LineFree s n) : ∃ t, rejectPacket (arrived s n k) n k = t ∧ t = { s with ports := t.ports } ∧
    (t.port n).reject = satAdd (s.port n).reject 1 ∧ Sent s t n 5 9 [k.seq.toNat] := by
  have hport : ((arrived s n k).modPort n fun p => { p with reject := satAdd p.reject 1 }).port n =
      { (s.port n).took k with reject := satAdd (s.port n).reject 1 } := by
    rw [State.modPort_port_same, arrived_port]
    rfl
  obtain ⟨hports, hsent, _, _, _, _, _, _, _, hfields⟩ := sendLink_after (s := s) (n := n)
    (v := (arrived s n k).modPort n fun p => { p with reject := satAdd p.reject 1 }) ((arrived_portsOnly s n k).trans (.modPort _ n _))
    (by rw [hport]; rfl) (by rw [LineFree, hport]; exact hfree) 9 [k.seq.toNat] []
  rw [hport] at hfields
  exact ⟨_, rfl, hports.eq, (congrArg Port.reject hfields).trans rfl, hsent⟩

end

/-- Settles O43: a damaged packet is named in a NAK; any other comes to its place or is refused (`packetIn_of_plain`), a slot's bytes by
`intoSlot_delivers`, a CKPT unit's by `bget_unitWritten`. -/
theorem packetsDeliverTheirPayload : Obligations.PacketsDeliverTheirPayload := by
  unfold Obligations.PacketsDeliverTheirPayload
  intro s n k hup hnak hfree
  refine ⟨fun hdamaged => damaged_named hup hnak hfree hdamaged, fun hintact hgood hplain hlive htrain hdp hports hbuddy => ?_⟩
  have hwhole : packetDamaged k = false := by simp [packetDamaged, hintact, hgood]
  have htaken (type : Nat) := packetIn_of_plain hup hnak hlive hwhole hplain hdp hports hbuddy type
  have hseq : ((arrived s n k).port n).seqRx = k.seq + 1 := congrArg Port.seqRx (arrived_port s n k)
  obtain ⟨t, hreject, hrefused⟩ := rejectPacket_counted (k := k) hfree
  obtain ⟨ps, harrived⟩ := arrived_portsOnly s n k
  rw [harrived] at hseq
  have hplace (type : Nat) (hbound : boundTo s n type k = true) :
      packetIn s n type k = intoPlace { s with ports := ps } n type k k.cipher :=
    (htaken type).trans ((if_pos hbound).trans (congrArg (intoPlace · n type k k.cipher) harrived))
  have hslot (c slot : Nat) := intoSlot_delivers (u := { s with ports := ps }) ⟨ps, rfl⟩ htrain n c slot k.doff.toNat k.step k.cipher k.last
  refine ⟨fun hunbound => ⟨t, congrArg Host.Outcome.next ?refused, hrefused⟩, fun hbound hpart hcore => ?data,
    fun hbound x c slot hserve hlane => ?pipe, fun hbound g hpage hok => ?ckpt⟩
  case refused => exact (htaken 1).trans ((if_neg (Bool.eq_false_iff.mp hunbound)).trans hreject)
  case data =>
    obtain ⟨u, heq, hframe, hbytes, hnext, hstamp⟩ := hslot k.dcore.toNat k.dslot.toNat
    have hexec := ((hplace 1 hbound).trans (intoPlace_data n k.cipher hpart hcore)).trans heq
    exact ⟨u, congrArg Host.Outcome.next hexec, hframe, hbytes, hnext.trans hseq, hstamp⟩
  case pipe =>
    obtain ⟨u, heq, hframe, hbytes, -, hstamp⟩ := hslot c slot
    have hexec := ((hplace 2 hbound).trans (intoPlace_pipe n k.cipher hserve hlane)).trans heq
    exact ⟨u, congrArg Host.Outcome.next hexec, hframe, hbytes, fun hlast => (if_pos hlast).mp hstamp⟩
  case ckpt =>
    have hexec := (hplace 3 hbound).trans (intoPlace_ckpt n k.cipher hpage hok)
    exact ⟨_, congrArg Host.Outcome.next hexec, rfl, bget_unitWritten _ g _ k.cipher⟩

end Sys2Proof.Proofs
end

section
/-! SUPPORT. Replay, REJECT, and the mailbox of a port's peer (R213, R500, R501). -/

namespace Sys2Proof.Machine

/-! ### Packets that leave in clear, and those sent again (R498, R501) -/

/-- A packet other than a LINK message leaves a port in plain mode as it is. -/
theorem send1_plain {s : State} {n : Nat} {k : OutPkt} (hlive : (s.port n).live = 1) (hkind : k.type ≠ 5) (dpart : Nat) :
    ∃ wire, ((send1 s n dpart k).port n).out = (s.port n).out ++ [{ k with wire := wire }] := by
  have hclear : ((s.port n).live == 2 || ((s.port n).state == 2 && k.type == 5 && decide (1 ≤ k.kind) && decide (k.kind ≤ 6))) = false := by
    simp [hlive, hkind]
  unfold send1
  rw [State.setPort_port, if_pos rfl]
  simp only [hclear, Bool.false_eq_true, if_false]
  exact ⟨_, rfl⟩

section
variable {s : State} {n : Nat} {seq : BitVec 16} {k : OutPkt} {count : Nat}
variable (hkept : (s.port n).unacked.find? (fun (e : Nat × OutPkt × Nat) => e.1 == seq.toNat) = some (seq.toNat, k, count))
include hkept

/-- A packet that the peer missed, on a port on which nothing waits, leaves again as it was and is counted (R501). -/
theorem packetNak_resends (hfree : LineFree s n) (hfew : count < 5) : ∃ f : Port → Port, packetNak s n seq = s.modPort n f ∧
    ∀ p, (f p).out = p.out ++ [k] ∧ (f p).replays = satAdd p.replays 1 ∧ (f p).state = p.state := by
  unfold packetNak
  simp only [hkept, servePort_of_lineFree hfree]
  exact ⟨_, if_neg (Nat.not_le.mpr hfew), fun _ => ⟨rfl, rfl, rfl⟩⟩

theorem packetNak_gives_up (hmany : 5 ≤ count) : packetNak s n seq = portDown s n 2 := by
  unfold packetNak
  simp only [hkept]
  exact if_pos hmany

end

/-! ### Work that a REJECT ends (R213, R499) -/

/-- On a port on which nothing waits, nothing is given up. -/
theorem dropWaiting_of_lineFree {s : State} {n : Nat} (hfree : LineFree s n) (f : Waiting → Bool) :
    PortsOnly s (dropWaiting s n f) ∧ ∀ m, (dropWaiting s n f).port m = s.port m := by
  have hnone : (s.port n).waiting = [] := hfree
  have hdrop : dropWaiting s n f = s.modPort n fun p => { p with waiting := p.waiting.filter fun w => !f w } :=
    congrArg (State.modPort · n _) (servePort_of_lineFree hfree)
  rw [hdrop]
  refine ⟨.modPort s n _, fun m => ?_⟩
  by_cases hm : m = n
  · subst hm
    rw [State.modPort_port_same, hnone, List.filter_nil, ← hnone]
  · exact State.modPort_port_ne s _ hm

/-- Values of a family changed by a function of their key that keeps the default. -/
theorem sget_mapEntries {α : Type} {d : α} {f : Nat → α → α} (hf : ∀ n, f n d = d) (m : SMap α) (k : Nat) :
    sget d (m.map fun e => (e.1, f e.1 e.2)) k = f k (sget d m k) := by
  induction m with
  | nil => exact (hf k).symm
  | cons e rest ih =>
    obtain ⟨n, v⟩ := e
    rw [List.map_cons, sget, sget, ih]
    split
    · next h => rw [h]
    · rfl

/-- Entry `e` of core `c` once the launched XSENDs that `f` names have ended (R213). -/
def QEntry.cut (f : Nat → XsendF → Bool) (c : Nat) (e : QEntry) : QEntry := match e.op with
  | .xsend x => if f c x then { e with launched := e.launched.map fun l => { l with dead := true } } else e
  | _ => e

theorem killXsends_queue (s : State) (f : Nat → XsendF → Bool) (c q : Nat) :
    ((killXsends s f).core c).queue q = ((s.core c).queue q).map (QEntry.cut f c) := by
  have hcore : (killXsends s f).core c = { s.core c with queues := (s.core c).queues.map fun x => (x.1, x.2.map (QEntry.cut f c)) } :=
    sget_mapEntries (f := fun c (k : Core) => { k with queues := k.queues.map fun x => (x.1, x.2.map (QEntry.cut f c)) })
      (fun _ => rfl) s.cores c
  rw [hcore]
  exact sget_mapValues (f := List.map (QEntry.cut f c)) rfl _ q

/-- Of a checkpoint whose holder refuses it, only pages and the partition change; the valid generation is lost, and an open one is
abandoned with DISABLED (Table 12-5; log 128). -/
theorem holderLost_effect (s : State) (p : Nat) : (∃ pages parts, holderLost s p = { s with pages := pages, parts := parts }) ∧
    ((holderLost s p).part p).ckpt.genOk = false ∧
    ((s.part p).ckpt.state ≠ 0 → ((holderLost s p).part p).ckpt.state = 0 ∧ ((holderLost s p).part p).ckpt.abandoned = true ∧
      ((holderLost s p).part p).ckpt.cause = St.disabled) := by
  have hpages (gs : List Nat) : ∃ pages, gs.foldl (fun s g =>
      s.setPage g (Paired.of (setBit32 (setBit32 (s.page g).v 7 false) 8 false))) s = { s with pages := pages } :=
    List.foldlRecOn (motive := fun u : State => ∃ pages, u = { s with pages := pages }) gs _ ⟨_, rfl⟩ fun u hu g _ => by
      obtain ⟨_, rfl⟩ := hu
      exact ⟨_, rfl⟩
  have habandoned : (∃ pages parts, abandonCkpt s p St.disabled = { s with pages := pages, parts := parts }) ∧
      ((s.part p).ckpt.state ≠ 0 → ((abandonCkpt s p St.disabled).part p).ckpt.state = 0 ∧
        ((abandonCkpt s p St.disabled).part p).ckpt.abandoned = true ∧ ((abandonCkpt s p St.disabled).part p).ckpt.cause = St.disabled) := by
    unfold abandonCkpt
    by_cases hopen : (s.part p).ckpt.state = 0
    · exact ⟨⟨_, _, if_pos hopen⟩, fun h => absurd hopen h⟩
    · obtain ⟨pages, hcleared⟩ := hpages (s.part p).ckpt.openPages
      rw [if_neg hopen, hcleared]
      refine ⟨⟨_, _, rfl⟩, fun _ => ?_⟩
      rw [State.modPart_part, if_pos rfl]
      exact ⟨rfl, rfl, rfl⟩
  obtain ⟨⟨pages, parts, hframe⟩, hckpt⟩ := habandoned
  unfold holderLost
  rw [State.modPart_part, if_pos rfl]
  refine ⟨?_, rfl, hckpt⟩
  rw [hframe]
  exact ⟨_, _, rfl⟩

section
variable {s : State} {n : Nat} {seq : BitVec 16} {k : OutPkt} {count : Nat}
variable (hkept : (s.port n).unacked.find? (fun (e : Nat × OutPkt × Nat) => e.1 == seq.toNat) = some (seq.toNat, k, count))
variable (hfree : LineFree s n)
include hkept hfree

/-- REJECT on a port on which nothing waits: the checkpoint of a CKPT packet loses its holder, and the XSENDs of any other end. -/
theorem rejectIn_of_kept : ∃ ps, (∀ m, ({ s with ports := ps } : State).port m = s.port m) ∧ rejectIn s n seq =
    if k.type = 3 then holderLost { s with ports := ps } (k.args.getD 0 0)
    else killXsends { s with ports := ps } fun c f => partOfCore s c == some (k.args.getD 0 0) && onPort s n c f &&
      f.dcore.toNat == k.args.getD 1 0 && f.dslot.toNat == k.args.getD 2 0 := by
  obtain ⟨⟨ps, hdropped⟩, hports⟩ := dropWaiting_of_lineFree hfree fun w =>
    w.part == k.args.getD 0 0 && w.pkt.type == k.type && w.pkt.args.getD 1 0 == k.args.getD 1 0 && w.pkt.args.getD 2 0 == k.args.getD 2 0
  rw [hdropped] at hports
  refine ⟨ps, hports, ?_⟩
  unfold rejectIn
  simp only [hkept, hdropped]
  rfl

end

/-! ### The mailbox of the peer (R500) -/

/-- The BAY packet that answers a read of a payload word (R500). -/
def bayReply (s : State) (n : Nat) (off : BitVec 8) : OutPkt :=
  ⟨4, 0, [0, off.toNat, 0, 0, 0], leBytes 4 (sget 0 (s.mbox (56 + n)).payload (off.toNat / 4)).toNat, []⟩

/-- The endpoint of a port's peer is a secure one (R457, Table 14-1). -/
theorem bayDenied_of_peer (n : Nat) : bayDenied (16 + n) (56 + n) = false := by
  have : 16 + n ≠ 1 := by omega
  simp [bayDenied, this]

section
variable {s : State} {n : Nat} {off : BitVec 8} (hoff : off.toNat < 64)
include hoff

/-- The peer of a port that owns its mailbox writes a word of the payload. -/
theorem bayPacket_writes (hup : (s.port n).state = 2) (howner : (s.mbox (56 + n)).owner.v.toNat = 16 + n) (v : W32) :
    bayPacket s n true off v = s.modMbox (56 + n) fun m => { m with payload := sput 0 m.payload (off.toNat / 4) v } := by
  have howns : owns s (16 + n) (56 + n) = true := by simp [owns, howner]
  unfold bayPacket bayWrite
  rw [if_neg (not_not_intro hup), if_pos rfl, bayDenied_of_peer, if_neg Bool.false_ne_true, if_pos hoff, howns, if_pos rfl]

/-- It reads a word of the payload in a BAY packet. -/
theorem bayPacket_reads (hup : (s.port n).state = 2) (howner : (s.mbox (56 + n)).owner.v.toNat = 16 + n) (v : W32) :
    bayPacket s n false off v = sendFirst s n (bayReply s n off) := by
  have hread : bayRead s (16 + n) (56 + n) off.toNat = (s, sget 0 (s.mbox (56 + n)).payload (off.toNat / 4)) := by
    unfold bayRead
    rw [bayDenied_of_peer, if_neg Bool.false_ne_true]
    exact (if_pos hoff).trans (congrArg _ (if_pos (.inl howner)))
  unfold bayPacket
  rw [if_neg (not_not_intro hup), if_neg Bool.false_ne_true, hread]
  rfl

end

end Sys2Proof.Machine
end

section
/-! PROOFS. O44: replay, REJECT, and the mailbox of a port's peer (R213, R500, R501). -/

namespace Sys2Proof.Proofs
open Sys2Proof Sys2Proof.Machine

/-- Settles O44: NAK by `packetNak_resends` or the loss of the port, REJECT by what it comes to on a port on which nothing waits
(`rejectIn_of_kept`), the peer's accesses by `bayPacket_writes` and `bayPacket_reads`. -/
theorem replayRejectAndRemoteMailbox : Obligations.ReplayRejectAndRemoteMailbox := by
  unfold Obligations.ReplayRejectAndRemoteMailbox
  intro s n hup hfree
  refine ⟨fun seq k count hkept => ⟨fun hfew => ?again, fun hmany => ?down, fun htype _ => ?checkpoint, fun htype => ?xsends⟩,
    fun off v hoff howner => ⟨?write, fun hlive => ?read⟩⟩
  case again =>
    obtain ⟨f, hnak, hf⟩ := packetNak_resends hkept hfree hfew
    obtain ⟨hout, hcount, hstate⟩ := hf (s.port n)
    have hport := State.modPort_port_same s n f
    exact ⟨_, congrArg Host.Outcome.next hnak, rfl, (congrArg Port.out hport).trans hout, (congrArg Port.replays hport).trans hcount,
      (congrArg Port.state hport).trans (hstate.trans hup)⟩
  case down =>
    have htrained : (s.port n).state ≠ 0 := by
      rw [hup]
      decide
    obtain ⟨⟨p, hport⟩, -⟩ := portDown_frame htrained 2
    exact ⟨_, congrArg Host.Outcome.next (packetNak_gives_up hkept hmany), by rw [hport]; rfl, by rw [hport]; rfl⟩
  case checkpoint =>
    obtain ⟨ps, hports, hreject⟩ := rejectIn_of_kept hkept hfree
    obtain ⟨⟨pages, parts, hframe⟩, hlost, hopen⟩ := holderLost_effect { s with ports := ps } (k.args.getD 0 0)
    refine ⟨_, congrArg Host.Outcome.next (hreject.trans (if_pos htype)), ?_, fun m => ?_, hlost, hopen⟩
    all_goals rw [hframe]
    exact hports m
  case xsends =>
    obtain ⟨ps, hports, hreject⟩ := rejectIn_of_kept hkept hfree
    exact ⟨_, congrArg Host.Outcome.next (hreject.trans (if_neg htype)), rfl, hports, fun c q => killXsends_queue { s with ports := ps } _ c q⟩
  case write =>
    refine ⟨_, congrArg Host.Outcome.next (bayPacket_writes hoff hup howner v), rfl, ?_, ?_, fun m hm => State.modMbox_mbox_ne s _ hm⟩
    all_goals rw [State.modMbox_mbox_same]
    exact sget_sput_same _ _ _ _
  case read =>
    obtain ⟨wire, hout⟩ := send1_plain (k := bayReply s n off) hlive (show (4 : Nat) ≠ 5 by decide) 0
    have hsend := congrArg (send1 · n 0 (bayReply s n off)) (servePort_of_lineFree hfree)
    exact ⟨_, _, congrArg Host.Outcome.next ((bayPacket_reads hoff hup howner v).trans hsend), rfl, hout, rfl, rfl⟩

end Sys2Proof.Proofs
end

section
/-! SUPPORT. A port that goes down raises its alert and keeps it (R514, R552). -/

namespace Sys2Proof.Machine

namespace WorkEnds

theorem killXsends (s : State) (f : Nat → XsendF → Bool) : WorkEnds s (killXsends s f) := of_eq rfl rfl rfl rfl rfl

theorem modPort (s : State) (n : Nat) (f : Port → Port) : WorkEnds s (s.modPort n f) := of_eq rfl rfl rfl rfl rfl

theorem modGov (s : State) (f : Gov → Gov) : WorkEnds s (s.modGov f) := of_eq rfl rfl rfl rfl rfl

theorem cutPeer (s : State) (n : Nat) : WorkEnds s (cutPeer s n) := by
  refine foldl (fun u c => foldl (fun v e => ?_) _ u) _ s
  split
  · refine ite (refl v) ?_
    split
    · exact refl v
    · exact ite ((cutTransfer v _ _ _).trans (modCore _ _ _)) (refl v)
  · exact refl v

theorem breakLock (s : State) {n : Nat} (hn : 16 ≤ n) : WorkEnds s (breakLock s n) := by
  unfold Machine.breakLock
  exact .trans (.trans (modMbox s hn _) (recordNow _ _)) (modMbox _ (by decide) _)

theorem voidStep (s : State) (p : Nat) : WorkEnds s (voidStep s p) := by
  unfold Machine.voidStep
  split
  · exact ite (refl s) (.trans (foldl (fun _ _ => complete _ _ _ _) _ s) (modPart _ _ _))
  · exact refl s

theorem abandonCkpt (s : State) (p : Nat) (cause : Status) : WorkEnds s (abandonCkpt s p cause) := by
  unfold Machine.abandonCkpt
  exact ite (refl s) (.trans (foldl (fun u g => setPage u g _) _ s) (modPart _ _ _))

theorem portLostFor (n : Nat) (s : State) (p : Nat) : WorkEnds s (portLostFor n s p) := by
  unfold Machine.portLostFor
  dsimp only
  refine ite (refl s) ?_
  refine .trans ?_ (ite (modPart _ _ _) (refl _))
  refine .trans ?_ (ite (abandonCkpt _ _ _) (refl _))
  exact .trans (ite (voidStep s p) (refl s)) (modPart _ _ _)

end WorkEnds

/-- The alert of a port that goes down is raised, and none of the work that ends with it takes it back (R514). -/
theorem portDown_alert {s : State} {n : Nat} (hup : (s.port n).state ≠ 0) (kind : Nat) :
    (portDown s n kind).err.alert.getLsbD 5 = true := by
  unfold portDown
  extract_lets p cause served recorded alerted lostMaster killed cut voided downed unaligned lost boxed
  have hdowned : WorkEnds alerted downed := by
    refine .trans (.trans ?_ (.foldl (fun u l => .modCore u _ _) _ _)) (.modPort _ _ _)
    exact .trans (.killXsends _ _) (.cutPeer _ n)
  have hlost : WorkEnds downed (if (boxed.mbox (56 + n)).owner.v.toNat = 16 + n then breakLock boxed (56 + n) else boxed) := by
    refine .trans ?_ (.ite (.breakLock _ (by omega)) (.refl _))
    refine .trans ?_ (.modMbox _ (by omega) _)
    exact .trans (.ite (.modGov _ _) (.refl _)) (.foldl (WorkEnds.portLostFor n) _ _)
  rw [if_neg hup]
  exact (hdowned.trans hlost).alert 5 (raiseAlert_getLsbD recorded (by decide))

end Sys2Proof.Machine
end

section
/-! SUPPORT. Training of a port, from its beginning to its end (R447, R496, R511). -/

namespace Sys2Proof.Machine

/-! ### Training begins (R511) -/

/-- A signature of Sage's leaves the ports. -/
theorem signNext_ports {s t : State} {msg sig : List Byte} (h : signNext s msg = some (sig, t)) : t.ports = s.ports := by
  unfold signNext at h
  extract_lets g at h
  split at h
  · cases h
  · cases h
    rfl

/-- A port that begins to train is in training, whether its IDENT could be signed or not; the others stay. -/
theorem beginTraining_port (s : State) (n : Nat) : ((beginTraining s n).port n).state = 1 ∧
    ∀ m, m ≠ n → (beginTraining s n).port m = s.port m := by
  unfold beginTraining sendIdent
  extract_lets args
  split
  · exact ⟨congrArg Port.state (State.modPort_port_same s n _), fun m hm => State.modPort_port_ne s _ hm⟩
  · next sig u hsigned =>
    have hports := signNext_ports hsigned
    have hsame : u.port n = _ := (congrArg (sget Port.fresh · n) hports).trans (State.modPort_port_same s n _)
    obtain ⟨_, _, _, _, _, _, _, hsent⟩ := sendLink_sendsTo u n 0 args (Config.certChain _ ++ sig)
    refine ⟨by rw [hsent, hsame], fun m hm => ?_⟩
    exact (sendLink_port_ne hm _ _ _).trans ((congrArg (sget Port.fresh · m) hports).trans (State.modPort_port_ne s _ hm))

theorem getLsbD_oneBit (n : PortN) {m : Nat} (h : (1#7 <<< n.val).getLsbD m = true) : m = n.val := by
  have hlt : m < 7 := BitVec.lt_of_getLsbD h
  have hbit : ∀ (n : PortN) (m : Fin 7), (1#7 <<< n.val).getLsbD m.val = true → m = n := by decide
  exact congrArg Fin.val (hbit n ⟨m, hlt⟩ h)

/-- FNL_RETRAIN of one port is about that port alone. -/
theorem fnlRetrain_one (s : State) (n : PortN) : fnlRetrain s (1#7 <<< n.val) =
    if (s.port n).state = 0 ∧ (s.port n).downKind ≠ 5 ∧ portPowered s n = true then beginTraining s n else s := by
  have hself : (1#7 <<< n.val).getLsbD n.val = true := by simp
  refine (foldl_of_only List.nodup_range (List.mem_range.mpr n.isLt) (fun u m hm => if_neg fun h => hm (getLsbD_oneBit n h.1)) s).trans ?_
  exact if_congr (and_iff_right hself) rfl rfl

/-! ### Training ends (R447, R511) -/

/-- Port `q` is `p` after what a mode or key exchange that begins writes. -/
def Port.Proposes (p q : Port) : Prop := ∃ pending blocked proposal dk,
  Port.SendsTo { p with pending := pending, blocked := blocked, proposal := proposal, kemDk := dk } q

theorem startRekey_proposes (s : State) (n : Nat) : (s.port n).Proposes ((startRekey s n).port n) := by
  cases hlower : lowerEnd s n
  · rw [startRekey_of_upper hlower]
    exact ⟨_, _, _, _, .refl _⟩
  · have hsent := sendLink_sendsTo ((drawBits s).2.modPort n fun p => { p with kemDk := some (Config.kemKeygen (drawBits s).1).2 }) n 1 [0]
      (Config.kemKeygen (drawBits s).1).1
    rw [State.modPort_port_same] at hsent
    rw [startRekey_eq hlower]
    exact ⟨_, _, _, _, hsent⟩

theorem sendProposal_proposes (s : State) (n : Nat) : (s.port n).Proposes ((sendProposal s n).port n) := by
  unfold sendProposal
  extract_lets m at_
  have hsent := sendLink_sendsTo (s.modPort n fun p => { p with proposal := some (m, BitVec.ofNat 64 at_) }) n 3 [m.toNat, at_] []
  rw [State.modPort_port_same] at hsent
  exact ⟨_, _, _, _, hsent⟩

theorem propose_proposes (s : State) (n : Nat) : (s.port n).Proposes ((propose s n).port n) := by
  unfold propose
  extract_lets p want pending
  have hpending : pending.port n = { p with pending := true, blocked := false, proposal := none } := State.modPort_port_same s n _
  split
  · rw [State.modPort_port_same]
    exact ⟨_, _, _, _, .refl _⟩
  split
  · rw [State.modPort_port_same, hpending]
    exact ⟨_, _, _, _, .refl _⟩
  split
  · obtain ⟨_, _, _, _, h⟩ := startRekey_proposes pending n
    rw [hpending] at h
    exact ⟨_, _, _, _, h⟩
  · obtain ⟨_, _, _, _, h⟩ := sendProposal_proposes pending n
    rw [hpending] at h
    exact ⟨_, _, _, _, h⟩

section
variable {s : State} {i : PortInfo} (htraining : (s.port i.port).state = 1)
include htraining

/-- A port whose training ends well is up in protected mode, and then agrees on its mode (R447, R511). -/
theorem portUp_of_good (hlink : i.linkOk = true) (htree : s.sage.treeCertified = true) (hauth : i.authOk = true) (hgrade : i.engChain = s.sage.es)
    (hnew : duplicatePeer s i.port i.peerSlot i.serial = false) (hmaster : s.gov.settled = none ∨ i.peerMaster = none) :
    ∃ u, portUp s i = propose u i.port ∧ (u.port i.port).state = 2 ∧ (u.port i.port).live = 2 ∧ (u.port i.port).peer = i.peerSlot ∧
      (u.port i.port).serial = i.serial ∧ (u.port i.port).delay = i.delay ∧ (u.port i.port).ctrRx = 0 := by
  unfold portUp
  extract_lets n other
  have hother : other = false := by
    rcases hmaster with h | h
    · simp [other, h]
    · simp only [other, h]
      split <;> simp_all
  rw [if_neg (not_not_intro htraining), if_neg (by simp [hlink]), if_neg (by simp [htree, hauth, hgrade]), if_neg (by simp [n, hnew]),
    if_neg (by simp [hother])]
  refine ⟨_, rfl, ?_⟩
  rw [(dropHigher_frame _ _ _).1]
  split
  · rw [State.modGov_port, State.setPort_port, if_pos rfl]
    exact ⟨rfl, rfl, rfl, rfl, rfl, rfl⟩
  · rw [State.setPort_port, if_pos rfl]
    exact ⟨rfl, rfl, rfl, rfl, rfl, rfl⟩

theorem portUp_of_noLink (hlink : i.linkOk = false) : portUp s i = portDown s i.port 1 := by
  unfold portUp
  extract_lets n other
  rw [if_neg (not_not_intro htraining), if_pos (by simp [hlink])]

theorem portUp_of_refused (hlink : i.linkOk = true) (hauth : i.authOk = false) : portUp s i = portDown s i.port 4 := by
  unfold portUp
  extract_lets n other
  rw [if_neg (not_not_intro htraining), if_neg (by simp [hlink]), if_pos (by simp [hauth])]

end

end Sys2Proof.Machine
end

section
/-! SUPPORT. LEAVE, and the shares of a port (R408, R503). -/

namespace Sys2Proof.Machine

/-! ### LEAVE (R408) -/

/-- Does the partition's job have the tag, and is the rank reached through port `n`? -/
def leavesJob (n : Nat) (rank : BitVec 3) (tag : W32) (q : Part) : Bool :=
  isDp q && (match q.train with | some t => t.jobTag == tag | none => false) && dpPort q rank.toNat == n

theorem leavesJob_iff (n : Nat) (rank : BitVec 3) (tag : W32) (q : Part) : leavesJob n rank tag q = true ↔
    isDp q = true ∧ (∃ u, q.train = some u ∧ u.jobTag = tag) ∧ dpPort q rank.toNat = n := by
  unfold leavesJob
  cases q.train <;> simp [and_assoc]

/-- The partition with the leave of the rank noted. -/
def Part.noteLeave (rank : BitVec 3) (q : Part) : Part := { q with dp := { q.dp with leaving := q.dp.leaving ||| (1#8 <<< rank.toNat) } }

/-- LEAVE of one partition. -/
def leaveOne (n : Nat) (rank : BitVec 3) (tag : W32) (s : State) (p : Nat) : State :=
  if leavesJob n rank tag (s.part p) = true then s.modPart p (Part.noteLeave rank) else s

theorem leaveIn_eq (s : State) (n : Nat) (rank : BitVec 3) (tag : W32) :
    leaveIn s n rank tag = (List.range 8).foldl (leaveOne n rank tag) s := rfl

theorem leaveOne_part (n : Nat) (rank : BitVec 3) (tag : W32) (s : State) (b p : Nat) : (leaveOne n rank tag s b).part p =
    if p = b ∧ leavesJob n rank tag (s.part b) = true then (s.part b).noteLeave rank else s.part p := by
  unfold leaveOne
  split
  · next h => simp only [State.modPart_part, h, and_true]
  · next h => rw [if_neg fun h' => h h'.2]

/-- LEAVE reaches each partition once, and of it only the leave of the rank is noted. -/
theorem leaveIn_part (s : State) (n : Nat) (rank : BitVec 3) (tag : W32) {p : Nat} (hp : p < 8) :
    (leaveIn s n rank tag).part p = if leavesJob n rank tag (s.part p) = true then (s.part p).noteLeave rank else s.part p := by
  obtain ⟨u, hu, hleave⟩ := foldl_read_of_only (f := leaveOne n rank tag) (fun v : State => v.part p) List.nodup_range
    (List.mem_range.mpr hp) (fun v b hb => (leaveOne_part n rank tag v b p).trans (if_neg fun h => hb h.1.symm)) s
  rw [leaveIn_eq, hleave, leaveOne_part, hu]
  exact if_congr (and_iff_right rfl) rfl rfl

theorem leaveIn_frame (s : State) (n : Nat) (rank : BitVec 3) (tag : W32) : ∃ ps, leaveIn s n rank tag = { s with parts := ps } := by
  rw [leaveIn_eq]
  refine List.foldlRecOn (motive := fun u : State => ∃ ps, u = { s with parts := ps }) _ _ ⟨_, rfl⟩ fun u hu p _ => ?_
  obtain ⟨ps, rfl⟩ := hu
  unfold leaveOne
  split <;> exact ⟨_, rfl⟩

/-! ### Shares (R503) -/

/-- A family written key by key. -/
theorem sget_foldl_sput {α : Type} [DecidableEq α] (d : α) (g : Nat → α) (l : List Nat) (m : SMap α) (k : Nat) :
    sget d (l.foldl (fun m j => sput d m j (g j)) m) k = if k ∈ l then g k else sget d m k := by
  induction l generalizing m with
  | nil => rfl
  | cons j l ih =>
    rw [List.foldl_cons, ih, sget_sput]
    by_cases hk : k ∈ l
    · simp [hk]
    · by_cases hj : k = j <;> simp [hk, hj]

/-- The share of a partition that a write of one half of the shares of port `n` leaves. -/
def writtenShare (s : State) (n : Nat) (hi : Bool) (v : W32) (k : Nat) : Nat :=
  if hi = decide (4 ≤ k) then (v.extractLsb' (8 * (k % 4)) 5).toNat else (s.port n).share k

theorem writtenShare_lt (s : State) (n : Nat) (hi : Bool) (v : W32) (k : Nat) : writtenShare s n hi v k < 2 ^ 12 := by
  unfold writtenShare Port.share
  split
  · exact (BitVec.isLt _).trans (by decide)
  · exact BitVec.isLt _

/-- The port with new shares, which come into force at a tick edge (R503). -/
def Port.withShares (new : Nat → Nat) (edge : Nat) (p : Port) : Port :=
  { p with oldShares := some (edge, p.shares), shares := (List.range 8).foldl (fun m k => sput 0 m k (BitVec.ofNat 12 (new k))) p.shares }

theorem withShares_share {new : Nat → Nat} (hnew : ∀ k, new k < 2 ^ 12) (edge : Nat) (p : Port) {k : Nat} (hk : k < 8) :
    (p.withShares new edge).share k = new k := by
  unfold Port.share Port.withShares
  rw [sget_foldl_sput, if_pos (List.mem_range.mpr hk)]
  exact (BitVec.toNat_ofNat ..).trans (Nat.mod_eq_of_lt (hnew k))

section
variable {s : State} {n : Nat} {hi : Bool} {v : W32} {new : Nat → Nat} (hnew : writtenShare s n hi v = new)
include hnew

/-- A write of shares: refused where they sum to more than 16 sixteenths or one is below what a loaded image needs (R503). -/
theorem shareWrite_eq : ∃ edge, shareWrite s n hi v =
    if 16 < new 0 + new 1 + new 2 + new 3 + new 4 + new 5 + new 6 + new 7 ∨
        ((List.range 8).any fun k => decide (new k < shareNeed (s.part k) n)) = true then
      s.modPort n fun p => { p with shareErr := true }
    else (servePort s n).modPort n (Port.withShares new edge) := by
  refine ⟨32 * lineUnits * (s.tick + 1), ?_⟩
  unfold shareWrite
  extract_lets written sum low
  have hwritten : written = new := by
    subst hnew
    funext k
    simp only [written, writtenShare, beq_iff_eq]
  have hsum : sum = new 0 + new 1 + new 2 + new 3 + new 4 + new 5 + new 6 + new 7 := by
    simp [sum, hwritten, List.range_succ]
  simp only [hsum, low, hwritten]
  rfl

theorem shareWrite_taken (hsum : new 0 + new 1 + new 2 + new 3 + new 4 + new 5 + new 6 + new 7 ≤ 16)
    (hneed : ∀ k, k < 8 → shareNeed (s.part k) n ≤ new k) :
    ∃ edge, shareWrite s n hi v = (servePort s n).modPort n (Port.withShares new edge) := by
  obtain ⟨edge, hwrite⟩ := shareWrite_eq hnew
  refine ⟨edge, hwrite.trans (if_neg (not_or.mpr ⟨not_lt.mpr hsum, ?_⟩))⟩
  simpa using hneed

theorem shareWrite_refused (h : 16 < new 0 + new 1 + new 2 + new 3 + new 4 + new 5 + new 6 + new 7 ∨
    ∃ k, k < 8 ∧ new k < shareNeed (s.part k) n) : shareWrite s n hi v = s.modPort n fun p => { p with shareErr := true } := by
  obtain ⟨edge, hwrite⟩ := shareWrite_eq hnew
  exact hwrite.trans (if_pos (h.imp_right fun hlow => by simpa using hlow))

end

end Sys2Proof.Machine
end

section
/-! PROOFS. O48: ports train, go down, are bound, and share their bandwidth (R376, R408, R447, R448, R496, R499, R503, R511, R513, R514). -/

namespace Sys2Proof.Proofs
open Sys2Proof Sys2Proof.Machine

section
variable {s : State} {n : PortN}

/-- The end of a port's training, well or not (R447, R496, R511). -/
theorem training_ends (i : PortInfo) (htraining : (s.port i.port).state = 1) :
    (i.linkOk = true → s.sage.treeCertified = true → i.authOk = true → i.engChain = s.sage.es →
      duplicatePeer s i.port i.peerSlot i.serial = false → (s.gov.settled = none ∨ i.peerMaster = none) →
      ∃ t, exec (.portTrainingComplete i) s = .next t ∧ (t.port i.port).state = 2 ∧ (t.port i.port).live = 2 ∧
        (t.port i.port).peer = i.peerSlot ∧ (t.port i.port).serial = i.serial ∧ (t.port i.port).delay = i.delay ∧ (t.port i.port).ctrRx = 0) ∧
    (i.linkOk = false → ∃ t, exec (.portTrainingComplete i) s = .next t ∧ (t.port i.port).state = 0 ∧ (t.port i.port).downKind = 1) ∧
    (i.linkOk = true → i.authOk = false →
      ∃ t, exec (.portTrainingComplete i) s = .next t ∧ (t.port i.port).state = 0 ∧ (t.port i.port).downKind = 4) := by
  have hup : (s.port i.port).state ≠ 0 := by
    rw [htraining]
    decide
  refine ⟨fun hlink htree hauth hgrade hnew hmaster => ?_, fun hlink => ?_, fun hlink hauth => ?_⟩
  · obtain ⟨u, hend, hport⟩ := portUp_of_good htraining hlink htree hauth hgrade hnew hmaster
    obtain ⟨_, _, _, _, _, _, _, _, _, _, _, hproposed⟩ := propose_proposes u i.port
    refine ⟨_, congrArg Host.Outcome.next hend, ?_⟩
    rw [hproposed]
    exact hport
  · obtain ⟨⟨p, hdown⟩, -⟩ := portDown_frame hup 1
    exact ⟨_, congrArg Host.Outcome.next (portUp_of_noLink htraining hlink), by rw [hdown]; rfl, by rw [hdown]; rfl⟩
  · obtain ⟨⟨p, hdown⟩, -⟩ := portDown_frame hup 4
    exact ⟨_, congrArg Host.Outcome.next (portUp_of_refused htraining hlink hauth), by rw [hdown]; rfl, by rw [hdown]; rfl⟩

/-- A port that goes down (R513, R514). -/
theorem portDown_named (kind : BitVec 3) (hup : (s.port n).state ≠ 0) (hkept : discarded s (.port n.val) = false) :
    ∃ t, exec (.fennelPortDown n kind) s = .next t ∧ (t.port n).state = 0 ∧ (t.port n).live = 0 ∧
      (t.port n).downKind = kind ∧ (t.port n).keyTx = 0 ∧ (t.port n).keyRx = 0 ∧
      (t.port n).cause = (if kind = 3 ∨ kind = 4 then St.authFail else St.disabled) ∧ t.err.alert.getLsbD 5 = true ∧
      ∀ m, m ≠ n.val → t.port m = s.port m := by
  obtain ⟨⟨p, hdown⟩, hothers, -⟩ := portDown_frame hup kind.toNat
  have hdrop : unlessDiscarded s (.port n.val) (fun s => portDown s n kind.toNat) = portDown s n kind.toNat :=
    if_neg (by rw [hkept]; exact Bool.false_ne_true)
  have hkind : ∀ kind : BitVec 3, kind.toNat = 3 ∨ kind.toNat = 4 ↔ kind = 3 ∨ kind = 4 := by decide
  refine ⟨_, congrArg Host.Outcome.next hdrop, ?_⟩
  rw [hdown]
  exact ⟨rfl, rfl, BitVec.ofNat_toNat .., rfl, rfl, if_congr (hkind kind) rfl rfl, portDown_alert hup _, hothers⟩

/-- A port that is down trains again, by its timer or by FNL_RETRAIN, a duplicate's aside (R511, R514, R496). -/
theorem port_retrains (hdown : (s.port n).state = 0) (hpower : portPowered s n = true) :
    ((s.port n).downKind = 1 ∨ (s.port n).downKind = 2 ∨ (s.port n).downKind = 7 →
      ∃ t, exec (.portRetrainTimer n) s = .next t ∧ (t.port n).state = 1 ∧ ∀ m, m ≠ n.val → t.port m = s.port m) ∧
    ((s.port n).downKind ≠ 5 → s.sys.state = 1 → ∃ t, exec (.fnlRetrain (1#7 <<< n.val)) s = .next t ∧ (t.port n).state = 1 ∧
      ∀ m, m ≠ n.val → t.port m = s.port m) ∧
    ((s.port n).downKind = 5 → s.sys.state = 1 → exec (.fnlRetrain (1#7 <<< n.val)) s = .next s) := by
  have hretrain (hready : s.sys.state = 1) := (gate_pf0 (off := 0xC0000C) (fun s => fnlRetrain s (1#7 <<< n.val)) hready rfl
    (by decide)).trans (fnlRetrain_one s n)
  refine ⟨fun hkind => ?_, fun hkind hready => ?_, fun hkind hready => ?_⟩
  · exact ⟨_, congrArg Host.Outcome.next (if_pos ⟨hdown, hpower, hkind⟩), beginTraining_port s n⟩
  · exact ⟨_, congrArg Host.Outcome.next ((hretrain hready).trans (if_pos ⟨hdown, hkind, hpower⟩)), beginTraining_port s n⟩
  · exact congrArg Host.Outcome.next ((hretrain hready).trans (if_neg fun h => h.2.1 hkind))

/-- The partitions bound on a port once one is unbound. -/
theorem unbound_any {α : Type} (l : List (Nat × α)) (p k : Nat) : ((l.filter fun b => b.1 != p).any fun b => b.1 == k) =
    (k != p && l.any fun b => b.1 == k) := by
  rw [List.any_filter]
  by_cases hk : k = p
  · simp [hk]
  · have hsame (b : Nat × α) : (b.1 != p && b.1 == k) = (b.1 == k) := by
      by_cases hb : b.1 = k <;> simp [hb, hk]
    simp [hsame, hk]

/-- PIPE_BIND binds its partition on a port that is up, and PIPE_UNBIND unbinds it (R376, R499). -/
theorem pipe_binds (p : PartN) :
    ((s.port n).state = 2 → ∃ t, exec (.pipeBind n p) s = .next t ∧ t = { s with ports := t.ports } ∧
      (∀ k, (t.port n).binds.any (fun b => b.1 == k) = (k == p.val || (s.port n).binds.any (fun b => b.1 == k))) ∧
      ∀ m, m ≠ n.val → t.port m = s.port m) ∧
    ∃ t, exec (.pipeUnbind n p) s = .next t ∧ t = { s with ports := t.ports } ∧
      (∀ k, (t.port n).binds.any (fun b => b.1 == k) = (k != p.val && (s.port n).binds.any (fun b => b.1 == k))) ∧
      ∀ m, m ≠ n.val → t.port m = s.port m := by
  refine ⟨fun hup => ?_, ?_⟩
  · refine ⟨_, congrArg Host.Outcome.next (if_pos hup), rfl, fun k => ?_, fun m hm => State.modPort_port_ne s _ hm⟩
    rw [State.modPort_port_same, List.any_append, unbound_any]
    by_cases hk : k = p.val
    · simp [hk]
    · simp [beq_false_of_ne hk, bne_iff_ne.mpr hk, beq_false_of_ne (Ne.symm hk)]
  · refine ⟨_, rfl, rfl, fun k => ?_, fun m hm => State.modPort_port_ne s _ hm⟩
    rw [State.modPort_port_same, unbound_any]

/-- A write of shares that fit is taken, and any other sets SHARE_ERR (R503). -/
theorem shares_written {hi : Bool} {v : W32} {new : Nat → Nat} (hnew : writtenShare s n hi v = new) (hready : s.sys.state = 1) :
    ((new 0 + new 1 + new 2 + new 3 + new 4 + new 5 + new 6 + new 7 ≤ 16 ∧ ∀ k, k < 8 → shareNeed (s.part k) n ≤ new k) →
      ∃ t, exec (.fennelShareWrite n hi v) s = .next t ∧ t = { s with ports := t.ports } ∧ (∀ k, k < 8 → (t.port n).share k = new k) ∧
        (t.port n).shareErr = (s.port n).shareErr) ∧
    ((16 < new 0 + new 1 + new 2 + new 3 + new 4 + new 5 + new 6 + new 7 ∨ ∃ k, k < 8 ∧ new k < shareNeed (s.part k) n) →
      ∃ t, exec (.fennelShareWrite n hi v) s = .next t ∧ t = { s with ports := t.ports } ∧
        t.port n = { s.port n with shareErr := true } ∧ ∀ m, m ≠ n.val → t.port m = s.port m) := by
  have hreg : (regValue s (0xC00100 + 64 * n.val + if hi = true then 0x20 else 0x1C)).isSome = true := by
    fin_cases n <;> cases hi <;> rfl
  have horigin : ∀ (n : PortN) (hi : Bool), originMay .pf0 (0xC00100 + 64 * n.val + if hi = true then 0x20 else 0x1C) true = true := by decide
  have hgate := gate_pf0 (fun s => shareWrite s n hi v) hready hreg (horigin n hi)
  refine ⟨fun ⟨hsum, hneed⟩ => ?_, fun hlow => ?_⟩
  · obtain ⟨edge, hwrite⟩ := shareWrite_taken hnew hsum hneed
    obtain ⟨_, _, _, _, _, _, _, hserved⟩ := servePort_sendsTo s n
    have hsame := State.modPort_port_same (servePort s n) n (Port.withShares new edge)
    refine ⟨_, congrArg Host.Outcome.next (hgate.trans hwrite), ((PortsOnly.servePort s n).trans (.modPort _ _ _)).eq, fun k hk => ?_, ?_⟩
    · rw [hsame]
      exact withShares_share (fun k => hnew ▸ writtenShare_lt s n hi v k) edge _ hk
    · rw [hsame, hserved]
      rfl
  · exact ⟨_, congrArg Host.Outcome.next (hgate.trans (shareWrite_refused hnew hlow)), rfl, State.modPort_port_same s n _,
      fun m hm => State.modPort_port_ne s _ hm⟩

end

/-- Settles O48: training by its two ends and its two beginnings, the loss of a port by what `portDown` leaves of it, LEAVE partition by
partition (`leaveIn_part`), and the shares by whether they fit (`shareWrite_taken`, `shareWrite_refused`). -/
theorem portsTrainBindAndGoDown : Obligations.PortsTrainBindAndGoDown := by
  unfold Obligations.PortsTrainBindAndGoDown
  refine ⟨fun s n => ⟨?training, fun kind hup hkept => portDown_named kind hup hkept, fun hdown hpower => port_retrains hdown hpower⟩,
    fun s n => ⟨fun p => pipe_binds p, ?leave, ?shares⟩⟩
  case training =>
    intro i hport htraining
    subst hport
    exact training_ends i htraining
  case leave =>
    intro rank tag
    obtain ⟨ps, hframe⟩ := leaveIn_frame s n rank tag
    refine ⟨_, rfl, by rw [hframe], fun p hp => ?_⟩
    exact (leaveIn_part s n rank tag hp).trans (if_congr (leavesJob_iff n rank tag _) rfl rfl)
  case shares =>
    intro hi v hready new
    exact shares_written (new := new) rfl hready

end Sys2Proof.Proofs
end

section
/-! SUPPORT. Word reads of PF0 and MGMT (R562 to R565, R571). -/

namespace Sys2Proof.Machine

/-- In READY a register that the origin may read is read (Table 19-2). -/
theorem refusal_read {s : State} {o : Origin} {off : Nat} (hready : s.sys.state = 1) (hreg : (regValue s off).isSome = true)
    (horigin : originMay o off false = true) : refusal s o off false = none := by
  have hmapped : mapped s o off = true := by simp [mapped, hready, hreg]
  simp [refusal, hmapped, horigin, hready]

/-- An aligned word read returns the word as it stands, zero-extended (R563). -/
theorem registerRead_word {s : State} {o : Origin} {off : Nat} (hreach : reaches s o = true) (haligned : off % 4 = 0) :
    registerRead s o off 4 = { (readOne s o off).1 with readData := (readOne s o off).2.setWidth 64 } := by
  have hwidth : readAligned off 4 = true := by simp [readAligned, haligned]
  have hbase : off / 4 * 4 = off := by omega
  unfold registerRead
  simp only [hreach, hwidth, hbase, haligned, Bool.not_true, Bool.false_eq_true, if_false, Nat.mul_zero, Nat.pow_zero, Nat.div_one,
    show ¬(4 = 8) by decide]
  congr 1
  apply BitVec.eq_of_toNat_eq
  simp only [BitVec.toNat_ofNat, BitVec.toNat_setWidth]
  omega

/-- An access that comes in with a width or an alignment that R563 does not take returns 0 and is logged (R571). -/
theorem registerRead_misaligned {s : State} {o : Origin} {off width : Nat} (hreach : reaches s o = true)
    (hwidth : readAligned off width = false) : registerRead s o off width = { logAccess s o off false 2 with readData := 0 } := by
  simp [registerRead, hreach, hwidth]

/-- What PF0 and MGMT read is checked (R562, R570). -/
theorem readOne_checked {s : State} {o : Origin} (ho : o = .pf0 ∨ o = .mgmt) (off : Nat) : readOne s o off = readChecked s o off := by
  rcases ho with rfl | rfl <;> rfl

theorem reaches_main {s : State} {o : Origin} (hon : s.sys.state ≠ 5) : reaches s o = true := by
  have hne : (s.sys.state != 5) = true := bne_iff_ne.mpr hon
  cases o with
  | mgmt | bay _ => rfl
  | pf0 | vf _ | pf0Bar2 | vfBar2 _ => exact hne

/-- A register that PF0 or MGMT may read in READY comes to `readWord`. -/
theorem registerRead_ready {s t : State} {o : Origin} {off : Nat} {w : W32} (hready : s.sys.state = 1) (ho : o = .pf0 ∨ o = .mgmt)
    (haligned : off % 4 = 0) (hreg : (regValue s off).isSome = true) (horigin : originMay o off false = true)
    (hword : readWord s o off = (t, w)) : registerRead s o off 4 = { t with readData := w.setWidth 64 } := by
  have hone : readOne s o off = (t, w) := by
    rw [readOne_checked ho, readChecked, refusal_read hready hreg horigin]
    exact hword
  rw [registerRead_word (reaches_main (by simp [hready])) haligned, hone]

/-- Registers show what they hold unless a module reset is under way (Table 19-8). -/
theorem shown_of_ready {s : State} (hready : s.sys.state = 1) : shown s = s := by simp [shown, hready]

/-- What the access log keeps of a refused access (R571). -/
theorem logAccess_counts (s : State) (o : Origin) (off : Nat) (write : Bool) (kind : Nat) :
    logAccess s o off write kind = { s with sys := (logAccess s o off write kind).sys } ∧
      (logAccess s o off write kind).sys.accCount = satAdd s.sys.accCount 1 ∧ (logAccess s o off write kind).sys.accValid = true ∧
      (s.sys.accValid = false → (logAccess s o off write kind).sys.accKind = BitVec.ofNat 2 kind ∧
        (logAccess s o off write kind).sys.accOff = BitVec.ofNat 26 (off / 4) ∧ (logAccess s o off write kind).sys.accWrite = write) := by
  unfold logAccess
  cases hvalid : s.sys.accValid <;> simp [State.modSys, hvalid]

end Sys2Proof.Machine
end

section
/-! PROOFS. O54: register reads (R562 to R565, R571). -/

namespace Sys2Proof.Proofs
open Sys2Proof Sys2Proof.Machine

/-- TICK_COUNT_LO latches the high half for its reader alone (R564). -/
theorem readWord_tickLo {s : State} {o : Origin} (hready : s.sys.state = 1) : readWord s o 0x100000 =
    (s.modSys fun y => { y with hi := sput none y.hi (latchIx o 0x100000) (some (s.tick64.extractLsb' 32 32)) }, s.tick64.extractLsb' 0 32) := by
  unfold readWord
  rw [shown_of_ready hready, show clearRc s 0x100000 = s from rfl, ite_self]
  rfl

/-- TICK_COUNT_HI returns the half that waits for its reader, and gives it up (R564). -/
theorem readWord_tickHi {s : State} {o : Origin} {h : W32} (hlatched : sget none s.sys.hi (latchIx o 0x100000) = some h) :
    readWord s o 0x100004 = (s.modSys fun y => { y with hi := sput none y.hi (latchIx o 0x100000) none }, h) := by
  have hlo : (4 ≤ 0x100004 ∧ isLo (0x100004 - 4) = true) := by decide
  unfold readWord
  rw [show clearRc s 0x100004 = s from rfl, ite_self]
  simp only [show boxOf 0x100004 = none from rfl, show isLo 0x100004 = false from rfl, Bool.false_eq_true, if_false, if_pos hlo, hlatched]

/-- SYS_ACCESS_COUNT clears for its reader PF0, and not for MGMT (R565). -/
theorem readWord_accCount {s : State} {o : Origin} (hready : s.sys.state = 1) (ho : o = .pf0 ∨ o = .mgmt) : readWord s o 0x24 =
    ({ s with sys := { s.sys with accCount := if o = .pf0 then 0 else s.sys.accCount } }, s.sys.accCount) := by
  unfold readWord
  rw [shown_of_ready hready]
  rcases ho with rfl | rfl <;> rfl

/-- Settles O54: an accepted read comes to `readWord` (`registerRead_ready`), whose three cases are the lemmas above; a refused one
returns 0 and stands in the access log (`logAccess_counts`). -/
theorem registerReadsLatchClearAndRefuse : Obligations.RegisterReadsLatchClearAndRefuse := by
  unfold Obligations.RegisterReadsLatchClearAndRefuse
  intro s o
  refine ⟨fun hready ho => ⟨?lo, fun h hlatched => ?hi, ?count⟩,
    fun off width hon => ⟨fun hmain hmapped hwidth haligned => ?unmapped, fun hwidth => ?width⟩⟩
  case lo =>
    have hread := registerRead_ready hready ho rfl rfl (by rcases ho with rfl | rfl <;> rfl) (readWord_tickLo hready)
    exact ⟨_, congrArg Host.Outcome.next hread, rfl, fun i => sget_sput none s.sys.hi (latchIx o 0x100000) (some (s.tick64.extractLsb' 32 32)) i⟩
  case hi =>
    have hread := registerRead_ready hready ho rfl rfl (by rcases ho with rfl | rfl <;> rfl) (readWord_tickHi hlatched)
    exact ⟨_, congrArg Host.Outcome.next hread, rfl, fun i => sget_sput none s.sys.hi (latchIx o 0x100000) none i⟩
  case count =>
    exact congrArg Host.Outcome.next (registerRead_ready hready ho rfl rfl (by rcases ho with rfl | rfl <;> rfl) (readWord_accCount hready ho))
  case unmapped =>
    subst hwidth
    have ho : o = .pf0 ∨ o = .mgmt := or_iff_not_imp_left.mpr hmain
    have hone : readOne s o off.toNat = (logAccess s o off.toNat false 1, 0) := by
      rw [readOne_checked ho, readChecked, refusal, hmapped]
      rfl
    have hread := registerRead_word (reaches_main (o := o) hon) haligned
    rw [hone] at hread
    obtain ⟨hframe, hcount, hvalid, hfirst⟩ := logAccess_counts s o off.toNat false 1
    exact ⟨_, congrArg Host.Outcome.next hread, by rw [hframe]; rfl, hcount, hvalid, hfirst⟩
  case width =>
    obtain ⟨hframe, hcount, hvalid, hfirst⟩ := logAccess_counts s o off.toNat false 2
    exact ⟨_, congrArg Host.Outcome.next (registerRead_misaligned (reaches_main hon) hwidth), by rw [hframe], hcount, hvalid,
      fun hopen => (hfirst hopen).1⟩

end Sys2Proof.Proofs
end

section
/-! PROOFS. O56: the queue (log 1). -/

namespace Sys2Proof.Proofs
open Sys2Proof Sys2Proof.Machine

/-- Settles O56: the two cases of the queue. -/
theorem stepRunsTheFrontCommand : Obligations.StepRunsTheFrontCommand := by
  unfold Obligations.StepRunsTheFrontCommand
  refine ⟨fun s c rest hqueue => ?_, fun s hempty => ?_⟩
  · simp only [step, hqueue]
  · simp only [step, hempty]

end Sys2Proof.Proofs
end

section
/-! SUPPORT. Register writes in READY (R563, R565, R569, R577). -/

namespace Sys2Proof.Machine

/-- A write of one word by PF0, or by a VF in its BAR0, is one word written (R563). -/
theorem registerWrite_word {s : State} {o : Origin} {off : Nat} (hready : s.sys.state = 1) (ho : o ≠ .mgmt) (haligned : off % 4 = 0)
    (a b c d : Byte) (env : StartEnv) : registerWrite s o off [a, b, c, d] env = writeOne s o off (wordAt [a, b, c, d] 0) env := by
  have hreach : reaches s o = true := reaches_main (by simp [hready])
  simp [registerWrite, hreach, hready, ho, haligned]

/-- A write of 8 bytes, aligned, is a write of two words (R563). -/
theorem registerWrite_two {s : State} {o : Origin} {off : Nat} {data : List Byte} (hready : s.sys.state = 1) (ho : o ≠ .mgmt)
    (haligned : off % 8 = 0) (hlen : data.length = 8) (env : StartEnv) :
    registerWrite s o off data env = writeTwo s o off (wordAt data 0) (wordAt data 1) env := by
  have hreach : reaches s o = true := reaches_main (by simp [hready])
  simp [registerWrite, hreach, hready, ho, haligned, hlen]

/-- A write shorter than a word is logged (R563, R571). -/
theorem registerWrite_short {s : State} {o : Origin} {data : List Byte} (hready : s.sys.state = 1) (off : Nat) (hlen : data.length < 4)
    (env : StartEnv) : registerWrite s o off data env = logAccess s o off true 2 := by
  have hreach : reaches s o = true := reaches_main (by simp [hready])
  have hshort : ¬4 ≤ data.length := by omega
  have hsize : (data.length ≠ 4 ∧ data.length ≠ 8) ∨ off % data.length ≠ 0 := by omega
  unfold registerWrite
  simp only [hreach, hshort, Bool.not_true, Bool.false_eq_true, and_false, false_and, if_false, if_pos hsize]

/-- A word that PF0 or MGMT writes where no register stands is logged (R562, R571). -/
theorem writeChecked_unmapped {s : State} {o : Origin} {off : Nat} (hmapped : mapped s o off = false) (w : W32) (env : StartEnv) :
    writeChecked s o off w env = logAccess s o off true 1 := by
  rw [writeChecked, refusal, hmapped]
  rfl

/-- A word of MGMT is a transfer of one word (R566). -/
theorem registerWrite_mgmt_word (s : State) {off : Nat} (haligned : off % 4 = 0) (a b c d : Byte) (env : StartEnv) :
    registerWrite s .mgmt off [a, b, c, d] env = writeChecked s .mgmt off (wordAt [a, b, c, d] 0) env := by
  simp [registerWrite, reaches, haligned, mgmtTransfer]

/-- Words of a 64-bit value written as 8 bytes (R32). -/
theorem wordAt_leBytes (v : BitVec 64) : wordAt (leBytes 8 v.toNat) 0 = lo64 v ∧ wordAt (leBytes 8 v.toNat) 1 = hi64 v := by
  constructor
  all_goals
    apply BitVec.eq_of_toNat_eq
    simp only [wordAt, w32, fieldAt, leBytes, ofLeBytes, List.range, List.range.loop, List.map, List.drop, List.take, List.foldr, lo64, hi64,
      BitVec.toNat_ofNat, BitVec.extractLsb'_toNat]
    omega

/-- With no half that has stood its time, no orphan is dropped (R569). -/
theorem dropOrphans_of_young {s : State} (hyoung : ∀ l ∈ s.sys.latches, s.tick < l.2.2.2 + 1024) : dropOrphans s = s := by
  have hgone : s.sys.latches.filter (fun l => decide (l.2.2.2 + 1024 ≤ s.tick)) = [] :=
    List.filter_eq_nil_iff.mpr fun l hl => by simpa using hyoung l hl
  have hkept : s.sys.latches.filter (fun l => !decide (l.2.2.2 + 1024 ≤ s.tick)) = s.sys.latches :=
    List.filter_eq_self.mpr fun l hl => by simpa using hyoung l hl
  unfold dropOrphans
  simp only [hgone, State.modSys, hkept, List.foldl_nil]

end Sys2Proof.Machine
end

section
/-! SUPPORT. The ring base of a queue pair (R493, Table 15-7). -/

namespace Sys2Proof.Machine

/-- Bits [31:0] of a base written to SQ_BASE_LO and bits [63:32] to SQ_BASE_HI, 4 KiB aligned (R493). -/
def Qp.withBaseLo (p : Qp) (w : W32) : Qp := { p with sqBase := hi64 p.sqBase ++ (w &&& 0xFFFFF000) }
def Qp.withBaseHi (p : Qp) (w : W32) : Qp := { p with sqBase := w ++ lo64 p.sqBase }

theorem getLsbD_halves (a b : W32) (i : Nat) : (a ++ b : BitVec 64).getLsbD i = if i < 32 then b.getLsbD i else a.getLsbD (i - 32) :=
  BitVec.getLsbD_append

/-- Words whose low one is aligned to 4 KiB spell a 64-bit value that is. -/
theorem halves_aligned (v : BitVec 64) : (hi64 v ++ (lo64 v &&& 0xFFFFF000) : BitVec 64) = v &&& ~~~(0xFFF : BitVec 64) := by
  have hlo : ∀ j : Fin 32, (0xFFFFF000 : W32).getLsbD j = decide (12 ≤ j.val) := by decide
  have hall : ∀ j : Fin 64, (~~~(0xFFF : BitVec 64)).getLsbD j = decide (12 ≤ j.val) := by decide
  apply BitVec.eq_of_getLsbD_eq
  intro i hi
  rw [getLsbD_halves, BitVec.getLsbD_and, BitVec.getLsbD_and, hall ⟨i, hi⟩]
  split
  · next h => rw [hlo ⟨i, h⟩]; simp [lo64, h]
  · next h =>
    have hhi : i - 32 < 32 := by omega
    simp [hi64, hhi, show 32 + (i - 32) = i by omega, show 12 ≤ i by omega]

theorem lo64_halves (a b : W32) : lo64 (a ++ b : BitVec 64) = b := by
  apply BitVec.eq_of_getLsbD_eq
  intro i hi
  rw [lo64, BitVec.getLsbD_extractLsb', getLsbD_halves]
  simp [hi]

/-- Both halves written leave the base aligned to 4 KiB. -/
theorem Qp.withBase_eq (p : Qp) (v : BitVec 64) : (p.withBaseLo (lo64 v)).withBaseHi (hi64 v) = { p with sqBase := v &&& ~~~0xFFF } := by
  show { p with sqBase := hi64 v ++ lo64 (hi64 p.sqBase ++ (lo64 v &&& 0xFFFFF000)) } = _
  rw [lo64_halves, halves_aligned]

theorem vfWriteWord_baseLo {s : State} {vf : VfN} {q : QpN} (w : W32) :
    vfWriteWord s vf (0x1000 * q.val) w = if (s.qp vf q).ctrl.getLsbD 0 then s else s.modQp vf q (·.withBaseLo w) := by
  have hlt : 0x1000 * q.val < 0x20000 := by omega
  have hq : 0x1000 * q.val / 0x1000 = q.val := by omega
  have hreg : 0x1000 * q.val % 0x1000 = 0 := by omega
  unfold vfWriteWord
  rw [dif_pos hlt, hreg]
  simp only [hq]
  rfl

theorem vfWriteWord_baseHi {s : State} {vf : VfN} {q : QpN} (w : W32) :
    vfWriteWord s vf (0x1000 * q.val + 4) w = if (s.qp vf q).ctrl.getLsbD 0 then s else s.modQp vf q (·.withBaseHi w) := by
  have hlt : 0x1000 * q.val + 4 < 0x20000 := by omega
  have hq : (0x1000 * q.val + 4) / 0x1000 = q.val := by omega
  have hreg : (0x1000 * q.val + 4) % 0x1000 = 4 := by omega
  unfold vfWriteWord
  rw [dif_pos hlt, hreg]
  simp only [hq]
  rfl

end Sys2Proof.Machine
end

section
/-! PROOFS. O55: register writes (R493, R562 to R565, R569, R571, R577). -/

namespace Sys2Proof.Proofs
open Sys2Proof Sys2Proof.Machine

/-- ERR_ALERT_MASK takes the low byte of the word (Table 18-9). -/
theorem writeOne_alertMask {s : State} (hready : s.sys.state = 1) (w : W32) (env : StartEnv) :
    writeOne s .pf0 0x1C0000C w env = { s with err := { s.err with mask := w.extractLsb' 0 8 } } := by
  have hparsley : ¬(s.parsley = true ∧ hasW1c 0x1C0000C = true ∧ 0x1C0000C ≠ 0x1C00008) := by simp [State.parsley, hready]
  have hword : writeWord s 0x1C0000C w env = s.modErr fun e => { e with mask := w.extractLsb' 0 8 } := by
    unfold writeWord
    rw [show clearW1c s 0x1C0000C w = s from rfl]
    exact if_neg hparsley
  show writeChecked s .pf0 0x1C0000C w env = _
  rw [writeChecked, refusal_pf0 hready rfl rfl]
  exact hword

/-- GOV_LEND written with both halves at once completes its pair over a half that stood in its latch (R569). -/
theorem writeTwo_lend {s : State} (hready : s.sys.state = 1) (hyoung : ∀ l ∈ s.sys.latches, s.tick < l.2.2.2 + 1024) (env : StartEnv) :
    writeTwo s .pf0 0x101008 1 0 env = { clearLatch s 0x101008 with gov := { s.gov with lend := Paired.of 1 } } := by
  have hpair : Origin.pf0 = .pf0 ∧ pairOf 0x101008 = some (0x101008, false) ∧ pairOf (0x101008 + 4) = some (0x101008, true) ∧
      refusal s .pf0 0x101008 true = none := ⟨rfl, rfl, rfl, refusal_pf0 hready rfl rfl⟩
  rw [writeTwo, if_pos hpair, dropOrphans_of_young hyoung]
  rfl

/-- Settles O55: a write comes to the words it writes (`registerWrite_word`, `registerWrite_two`), and what is refused stands in the
access log (`logAccess_counts`); the ring base of a VF takes its two words one after the other (`Qp.withBase_eq`). -/
theorem registerWritesTakeTheirFields : Obligations.RegisterWritesTakeTheirFields := by
  unfold Obligations.RegisterWritesTakeTheirFields
  intro s e hready
  refine ⟨fun a b c d => ?mask, fun o off a b c d ho haligned hmapped => ?unmapped, fun o off data hlen => ?short, fun hyoung => ?pair,
    fun vf q v => ⟨fun hopen => ?base, fun henabled => ?kept⟩⟩
  case mask =>
    have hbyte : (wordAt [a, b, c, d] 0).extractLsb' 0 8 = a := extractLsb'_ofLeBytes [a, b, c, d] (i := 0) (by decide)
    refine congrArg Host.Outcome.next ((registerWrite_word hready (by decide) rfl a b c d e).trans ?_)
    exact (writeOne_alertMask hready _ e).trans (by rw [hbyte])
  case unmapped =>
    have hwrite : registerWrite s o off.toNat [a, b, c, d] e = logAccess s o off.toNat true 1 := by
      rcases ho with rfl | rfl
      · exact (registerWrite_word hready (by decide) haligned a b c d e).trans (writeChecked_unmapped hmapped _ e)
      · exact (registerWrite_mgmt_word s haligned a b c d e).trans (writeChecked_unmapped hmapped _ e)
    obtain ⟨hframe, hcount, hvalid, hfirst⟩ := logAccess_counts s o off.toNat true 1
    exact ⟨_, congrArg Host.Outcome.next hwrite, hframe, hcount, hvalid, fun hfree => ⟨(hfirst hfree).1, (hfirst hfree).2.2⟩⟩
  case short =>
    obtain ⟨hframe, hcount, -, hfirst⟩ := logAccess_counts s o off.toNat true 2
    exact ⟨_, congrArg Host.Outcome.next (registerWrite_short hready off.toNat hlen e), hframe, hcount, fun hfree => (hfirst hfree).1⟩
  case pair =>
    exact congrArg Host.Outcome.next ((registerWrite_two hready (by decide) rfl rfl e).trans (writeTwo_lend hready hyoung e))
  all_goals
    obtain ⟨hlo, hhi⟩ := wordAt_leBytes v
    have hoff : (BitVec.ofNat 28 (0x1000 * q.val)).toNat = 0x1000 * q.val := by
      rw [BitVec.toNat_ofNat]
      omega
    have hwrite : registerWrite s (.vf vf) (BitVec.ofNat 28 (0x1000 * q.val)).toNat (leBytes 8 v.toNat) e =
        vfWriteWord (vfWriteWord s vf (0x1000 * q.val) (lo64 v)) vf (0x1000 * q.val + 4) (hi64 v) := by
      rw [hoff, registerWrite_two hready (by simp) (by omega) rfl, hlo, hhi, writeTwo, if_neg (by simp)]
      rfl
    rw [vfWriteWord_baseLo, vfWriteWord_baseHi] at hwrite
  case kept =>
    rw [if_pos henabled, if_pos henabled] at hwrite
    exact congrArg Host.Outcome.next hwrite
  case base =>
    have hstill : ¬((s.modQp vf q (·.withBaseLo (lo64 v))).qp vf q).ctrl.getLsbD 0 = true := by
      rw [State.modQp_qp_same]
      exact ne_true_of_eq_false hopen
    rw [if_neg (ne_true_of_eq_false hopen), if_neg hstill] at hwrite
    refine ⟨_, congrArg Host.Outcome.next hwrite, rfl, ?_, fun k hk => ?_⟩
    · rw [State.modQp_qp_same, State.modQp_qp_same, Qp.withBase_eq]
    · rw [State.modQp_qp, if_neg (by omega), State.modQp_qp, if_neg (by omega)]

end Sys2Proof.Proofs
end

section
/-! SUPPORT. Pairs of a partition's settings (R376, R411, R569). -/

namespace Sys2Proof.Machine

/-- In READY, a write of PF0 that gives both halves of a partition's pair reaches it over an empty latch (R569). -/
theorem gatePair_ptnOff {s : State} {p r : Nat} (comp : Nat) (f : State → State) (hready : s.sys.state = 1) (hp : p < 8) (hr : r < 0x1000)
    (hreg : (ptnReg s p r).isSome = true) : gatePair s (ptnOff p r) comp f = f (clearLatch s (ptnOff p r)) := by
  simp [gatePair, reaches, hready, refusal_ptnOff hready hp hr hreg]

theorem satAdd_zero {w : Nat} (x : BitVec w) : satAdd x 0 = x := by
  simp [satAdd, x.isLt]

/-- The write of a pair of a partition: `f` sets it where its halves agree, and a mismatch at `off` is counted where not (R569). -/
def settingPair (s : State) (off p : Nat) (agree : Prop) [Decidable agree] (f : Part → Part) : State :=
  if ¬agree then pairBad s off else s.modPart p f

theorem pipeWrite_eq (s : State) (p : Nat) (v c : W32) : pipeWrite s p v c = settingPair s (0x00200410 + 0x1000 * p) p
    (v.extractLsb' 0 8 = ~~~(c.extractLsb' 0 8)) fun q => { q with pipe := Paired.of (v.extractLsb' 0 8) } := rfl
theorem buddyWrite15_eq (s : State) (p : Nat) (v c : W32) : buddyWrite15 s p v c = settingPair s (0x00200424 + 0x1000 * p) p
    (v.extractLsb' 0 15 = ~~~(c.extractLsb' 0 15)) fun q => { q with dp := { q.dp with buddy := Paired.of (v.extractLsb' 0 15) } } := rfl
theorem dpPair_eq (s : State) (p : Nat) (v c : W32) : dpPair s p v c = settingPair s (0x0020042C + 0x1000 * p) p
    (v.extractLsb' 0 7 = ~~~(c.extractLsb' 0 7)) fun q => { q with dp := { q.dp with dp := Paired.of (v.extractLsb' 0 7) } } := rfl
theorem dpPorts_eq (s : State) (p : Nat) (v c : W32) : dpPorts s p v c = settingPair s (0x00200434 + 0x1000 * p) p
    (v.extractLsb' 0 24 = ~~~(c.extractLsb' 0 24)) fun q => { q with dp := { q.dp with ports := Paired.of (v.extractLsb' 0 24) } } := rfl

section
variable (s : State) (off p : Nat) {agree : Prop} [Decidable agree] (f : Part → Part)

/-- A pair whose halves agree is set, and no other partition changes. -/
theorem settingPair_taken (h : agree) : ∃ t, settingPair s off p agree f = t ∧ t = { s with parts := t.parts } ∧
    t.part p = f (s.part p) ∧ ∀ k, k ≠ p → t.part k = s.part k := by
  refine ⟨s.modPart p f, if_neg (not_not_intro h), rfl, ?_, fun k hk => ?_⟩
  · rw [State.modPart_part, if_pos rfl]
  · rw [State.modPart_part, if_neg hk]

/-- A pair whose halves disagree is counted, and nothing else changes. -/
theorem settingPair_counted (h : ¬agree) : PairCounted s (settingPair s off p agree f) := by
  rw [show settingPair s off p agree f = pairBad s off from if_pos h]
  exact pairCounted_pairBad s off

/-- What a pair leaves either way. -/
theorem settingPair_effect : (∃ ps y, settingPair s off p agree f = { s with parts := ps, sys := y }) ∧
    (settingPair s off p agree f).part p = (if agree then f (s.part p) else s.part p) ∧
    (∀ k, k ≠ p → (settingPair s off p agree f).part k = s.part k) ∧
    (settingPair s off p agree f).sys.pairMismatch = satAdd s.sys.pairMismatch (if agree then 0 else 1) ∧
    (agree → (settingPair s off p agree f).sys = s.sys) := by
  by_cases h : agree
  · obtain ⟨t, ht, hframe, hpart, hother⟩ := settingPair_taken s off p f h
    rw [ht, if_pos h, if_pos h, satAdd_zero]
    refine ⟨⟨t.parts, s.sys, hframe⟩, hpart, hother, ?_, fun _ => ?_⟩ <;> rw [hframe]
  · rw [show settingPair s off p agree f = pairBad s off from if_pos h, if_neg h, if_neg h]
    exact ⟨⟨_, _, rfl⟩, rfl, fun _ _ => rfl, (pairCounted_pairBad s off).2.1, fun ha => absurd ha h⟩

end

/-- DP_CONFIG sets of PTN_DP and PTN_DP_PORTS those whose halves agree, and counts the others (R411, R569). -/
theorem dpWrite_effect (s : State) (p : Nat) (v c x y : W32) :
    let a := v.extractLsb' 0 7 = ~~~(c.extractLsb' 0 7)
    let b := x.extractLsb' 0 24 = ~~~(y.extractLsb' 0 24)
    (dpWrite s p v c x y).part p = { s.part p with dp := { (s.part p).dp with
      dp := if a then Paired.of (v.extractLsb' 0 7) else (s.part p).dp.dp
      ports := if b then Paired.of (x.extractLsb' 0 24) else (s.part p).dp.ports } } ∧
    (∀ k, k ≠ p → (dpWrite s p v c x y).part k = s.part k) ∧
    (∃ ps z, dpWrite s p v c x y = { s with parts := ps, sys := z }) ∧
    (dpWrite s p v c x y).sys.pairMismatch = satAdd (satAdd s.sys.pairMismatch (if a then 0 else 1)) (if b then 0 else 1) ∧
    (a → b → (dpWrite s p v c x y).sys = s.sys) := by
  intro a b
  obtain ⟨⟨ps, z, hframe⟩, hpart, hother, hcount, hquiet⟩ := settingPair_effect s (0x0020042C + 0x1000 * p) p (agree := a)
    fun q => { q with dp := { q.dp with dp := Paired.of (v.extractLsb' 0 7) } }
  rw [← dpPair_eq] at hframe hpart hother hcount hquiet
  obtain ⟨⟨ps', z', hframe'⟩, hpart', hother', hcount', hquiet'⟩ := settingPair_effect (dpPair s p v c) (0x00200434 + 0x1000 * p) p
    (agree := b) fun q => { q with dp := { q.dp with ports := Paired.of (x.extractLsb' 0 24) } }
  rw [← dpPorts_eq] at hframe' hpart' hother' hcount' hquiet'
  refine ⟨?_, fun k hk => (hother' k hk).trans (hother k hk), ⟨ps', z', ?_⟩, ?_, fun ha hb => (hquiet' hb).trans (hquiet ha)⟩
  · refine hpart'.trans ?_
    rw [hpart]
    by_cases ha : a
    · by_cases hb : b <;> simp only [ha, hb, if_true, if_false]
    · by_cases hb : b <;> simp only [ha, hb, if_true, if_false]
  · refine hframe'.trans ?_
    rw [hframe]
  · refine hcount'.trans ?_
    rw [hcount]

/-- PIPE_BIND and PIPE_UNBIND go out where a pairing reaches over a port (R499). -/
def pairingTold (s : State) (old new : BitVec 8) : State :=
  let s := if old.getLsbD 7 && old.getLsbD 6 then sendLink s (old.extractLsb' 3 3).toNat 5 [1, (old.extractLsb' 0 3).toNat] [] else s
  if new.getLsbD 7 && new.getLsbD 6 then sendLink s (new.extractLsb' 3 3).toNat 5 [0, (new.extractLsb' 0 3).toNat] [] else s

theorem pairingTold_portsOnly (s : State) (old new : BitVec 8) : PortsOnly s (pairingTold s old new) := by
  have hsent : ∀ (b : Bool) (u : State) (n : Nat) (args : List Nat), PortsOnly u (if b then sendLink u n 5 args [] else u) := by
    intro b u n args
    cases b
    · exact .refl u
    · exact .sendLink u n 5 args []
  exact (hsent _ s _ _).trans (hsent _ _ _ _)

/-- A pairing is in force from the step boundary of both partitions on (R376). -/
theorem pipeApply_taken {s : State} {p : Nat} (hok : (s.part p).pipe.ok = true) (hnew : (s.part p).pipe.v ≠ (s.part p).pipeOn)
    (hall : ∀ k, atStep s k = true) : pipeApply s p =
      (pairingTold s (s.part p).pipeOn (s.part p).pipe.v).modPart p fun x => { x with pipeOn := (s.part p).pipe.v } := by
  unfold pipeApply
  simp [hok, hnew, hall, pairingTold]

/-- With either partition at another point nothing changes (R376). -/
theorem pipeApply_waits {s : State} {p : Nat} (hok : (s.part p).pipe.ok = true)
    (hwaits : (s.part p).pipe.v = (s.part p).pipeOn ∨ atStep s p = false ∨
      (∃ w, (w = (s.part p).pipe.v ∨ w = (s.part p).pipeOn) ∧ w.getLsbD 7 = true ∧ w.getLsbD 6 = false ∧
        atStep s (w.extractLsb' 0 3).toNat = false)) : pipeApply s p = s := by
  unfold pipeApply
  simp only [hok, Bool.not_true, Bool.false_eq_true, if_false]
  refine if_pos ?_
  rcases hwaits with hsame | hbusy | ⟨w, rfl | rfl, hset, hlocal, hbusy⟩
  · simp [hsame]
  · simp [hbusy]
  · simp only [hset, hlocal, hbusy, Bool.not_false, Bool.and_self, Bool.or_true, Bool.true_or]
  · simp only [hset, hlocal, hbusy, Bool.not_false, Bool.and_self, Bool.or_true]

end Sys2Proof.Machine
end

section
/-! PROOFS. O26: the pairs of a partition's settings (R376, R411, R569). -/

namespace Sys2Proof.Proofs
open Sys2Proof Sys2Proof.Machine

/-- Settles O26: each pair is a `settingPair`, taken or counted, and PTN_DP and PTN_DP_PORTS are two of them in turn
(`settingPair_effect`); a pairing takes effect by `pipeApply_taken` or waits by `pipeApply_waits`. -/
theorem settingPairsOfAPartition : Obligations.SettingPairsOfAPartition := by
  unfold Obligations.SettingPairsOfAPartition
  intro s p
  refine ⟨fun hready v c => ?pipe, fun hready v c => ?buddy, fun hready v c x y => ?dp,
    fun hok => ⟨fun hnew _ hall => ?taken, fun hwaits => ?waits⟩⟩
  case pipe =>
    have hgate := (gatePair_ptnOff (r := 0x410) (ptnOff p 0x414) (fun s => pipeWrite s p v c) hready p.isLt (by decide) rfl).trans
      (pipeWrite_eq _ p v c)
    refine ⟨fun h => ?_, fun h => ⟨_, congrArg Host.Outcome.next hgate, settingPair_counted _ _ _ _ h⟩⟩
    obtain ⟨t, ht, hframe, hpart, hother⟩ := settingPair_taken (clearLatch s (ptnOff p 0x410)) (0x00200410 + 0x1000 * p) p
      (fun q => { q with pipe := Paired.of (v.extractLsb' 0 8) }) h
    exact ⟨t, congrArg Host.Outcome.next (hgate.trans ht), hframe, hpart, hother⟩
  case buddy =>
    have hgate := (gatePair_ptnOff (r := 0x424) (ptnOff p 0x428) (fun s => buddyWrite15 s p v c) hready p.isLt (by decide) rfl).trans
      (buddyWrite15_eq _ p v c)
    refine ⟨fun h => ?_, fun h => ⟨_, congrArg Host.Outcome.next hgate, settingPair_counted _ _ _ _ h⟩⟩
    obtain ⟨t, ht, hframe, hpart, hother⟩ := settingPair_taken (clearLatch s (ptnOff p 0x424)) (0x00200424 + 0x1000 * p) p
      (fun q => { q with dp := { q.dp with buddy := Paired.of (v.extractLsb' 0 15) } }) h
    exact ⟨t, congrArg Host.Outcome.next (hgate.trans ht), hframe, hpart, hother⟩
  case dp =>
    have hgate := gatePair_ptnOff (r := 0x42C) (ptnOff p 0x430) (fun s => dpWrite (clearLatch s (ptnOff p 0x434)) p v c x y) hready p.isLt
      (by decide) rfl
    obtain ⟨hpart, hother, ⟨ps, z, hframe⟩, hcount, hquiet⟩ :=
      dpWrite_effect (clearLatch (clearLatch s (ptnOff p 0x42C)) (ptnOff p 0x434)) p v c x y
    exact ⟨_, congrArg Host.Outcome.next hgate, hpart, hother, by rw [hframe]; rfl, hcount, hquiet⟩
  case taken =>
    obtain ⟨ps, hps⟩ := pairingTold_portsOnly s (s.part p).pipeOn (s.part p).pipe.v
    have happly := pipeApply_taken hok hnew hall
    rw [hps] at happly
    refine ⟨_, congrArg Host.Outcome.next happly, rfl, ?_, fun k hk => ?_⟩
    · rw [State.modPart_part, if_pos rfl]
      rfl
    · rw [State.modPart_part, if_neg hk]
      rfl
  case waits => exact congrArg Host.Outcome.next (pipeApply_waits hok hwaits)

end Sys2Proof.Proofs
end

section
/-! SUPPORT. Clock losses and the switch of a power domain (R519, R522, R532, R556). -/

namespace Sys2Proof.Machine

theorem parsleyOpen_of_ready {s : State} (hready : s.sys.state = 1) : parsleyOpen s = true := by
  simp [parsleyOpen, hready]

/-- A module in READY that records a fault and enters Parsley: the registers of its entry, and what stays. -/
theorem enterParsley_recordNow {s : State} (hready : s.sys.state = 1) (e : FaultEv) (cause source : Nat) :
    (enterParsley (recordNow s e) cause source).sys.state = 2 ∧
      (enterParsley (recordNow s e) cause source).sys.parCause = BitVec.ofNat 4 cause ∧
      (enterParsley (recordNow s e) cause source).sys.parSource = BitVec.ofNat 12 source ∧
      s.gov.AfterZeroise (enterParsley (recordNow s e) cause source).gov ∧
      ∃ env, (enterParsley (recordNow s e) cause source).pwr = { s.pwr with resetAfter := env } := by
  have hopen : parsleyOpen (recordNow s e) = true := parsleyOpen_of_ready (by rw [recordNow_sys, hready])
  obtain ⟨hstate, hcause, env, hpwr⟩ := enterParsley_registers hopen cause source
  have hgov := enterParsley_gov (recordNow s e) cause source
  rw [recordNow_gov] at hgov
  rw [recordNow_pwr] at hpwr
  exact ⟨hstate, hcause, enterParsley_source hopen cause source, hgov, env, hpwr⟩

/-- In READY with its clocks running, a loss is counted and enters Parsley with cause 1 from the tick network (R522, R532). -/
theorem clockLoss_effect {s : State} (f : Pwr → Pwr) (hready : s.sys.state = 1) (hrun : s.gov.running = true)
    (hlock : s.pwr.rootLock = true) :
    (clockLoss s f).sys.state = 2 ∧ (clockLoss s f).sys.parCause = 1 ∧ (clockLoss s f).sys.parSource = 1493 ∧
      (clockLoss s f).gov.locked = false ∧
      ∃ env, (clockLoss s f).pwr = { f s.pwr with losses := satAdd s.pwr.losses 1, resetAfter := env } := by
  unfold clockLoss
  rw [if_neg (by simp [hrun, hlock])]
  extract_lets lost
  obtain ⟨hstate, hcause, hsource, ⟨gps, gs, hgov⟩, env, hpwr⟩ := enterParsley_recordNow (s := lost) hready
    { kind := 0x14, cls := 4, status := St.degraded, scope := .module, source := 1493, detail := lost.pwr.clkBits, detail2 := 0,
      parsley := true, reset := false } 1 1493
  exact ⟨hstate, hcause, hsource, congrArg Gov.locked hgov, env, hpwr⟩

/-- A bit of PWR_CTRL that is written as it stands does nothing. -/
theorem switchOne_same {v : W32} {s : State} {bit : Nat} (h : v.getLsbD bit = s.pwr.ctrl bit) : switchOne v s bit = s :=
  if_pos h.symm

/-- A write of PWR_CTRL that leaves PD1, PD20 and PD21 as they are acts on PD23 alone. -/
theorem domainSwitch_pd23 {s : State} {v : W32} (h1 : v.getLsbD 0 = s.pwr.pd1) (h20 : v.getLsbD 1 = s.pwr.pd20)
    (h21 : v.getLsbD 2 = s.pwr.pd21) : domainSwitch s v = switchOne v (s.modPwr fun w => { w with ctrlStatus := St.ok }) 3 := by
  unfold domainSwitch
  generalize hu : (s.modPwr fun w => { w with ctrlStatus := St.ok }) = u
  have hsame1 : v.getLsbD 0 = u.pwr.ctrl 0 := hu ▸ h1
  have hsame20 : v.getLsbD 1 = u.pwr.ctrl 1 := hu ▸ h20
  have hsame21 : v.getLsbD 2 = u.pwr.ctrl 2 := hu ▸ h21
  rw [show List.range 4 = [0, 1, 2, 3] from rfl, List.foldl_cons, switchOne_same hsame1, List.foldl_cons, switchOne_same hsame20,
    List.foldl_cons, switchOne_same hsame21, List.foldl_cons, List.foldl_nil]

/-- The bit of PD23 set: the domain is powered (R519). -/
theorem switchOne_pd23_on {s : State} {v : W32} (hon : v.getLsbD 3 = true) (hwas : s.pwr.pd23 = false) :
    switchOne v s 3 = { s with pwr := { s.pwr with on := s.pwr.on ||| 0x800000, pd23 := true } } := by
  simp only [switchOne, hon, Pwr.ctrl, hwas, Bool.not_true, Bool.false_and, Bool.false_eq_true, if_false, if_true]
  rfl

/-- The bit of PD23 cleared while no ways are held: the domain goes off, and its lines with it (R519). -/
theorem switchOne_pd23_off {s : State} {v : W32} (hoff : v.getLsbD 3 = false) (hwas : s.pwr.pd23 = true) (hidle : switchBusy s 3 = false) :
    switchOne v s 3 = { s with lines := [], cacheBytes := [], pwr := { s.pwr with on := s.pwr.on &&& ~~~0x800000, pd23 := false } } := by
  simp only [switchOne, hoff, Pwr.ctrl, hwas, hidle, Bool.and_false, Bool.false_eq_true, Bool.true_eq_false, if_false, if_true]
  rfl

/-- The bit of PD23 cleared while ways are held: BUSY (R519). -/
theorem switchOne_pd23_busy {s : State} {v : W32} (hoff : v.getLsbD 3 = false) (hwas : s.pwr.pd23 = true) (hbusy : switchBusy s 3 = true) :
    switchOne v s 3 = s.modPwr fun w => { w with ctrlStatus := St.busy } := by
  simp only [switchOne, hoff, Pwr.ctrl, hwas, hbusy, Bool.not_false, Bool.and_self, Bool.true_eq_false, if_false, if_true]

theorem switchBusy_pd23 (s : State) : switchBusy s 3 = true ↔ ∃ p, p < 8 ∧ (s.part p).live.ways.v ≠ 0 := by
  simp [switchBusy]

/-- An alert leaves the life counters. -/
theorem raiseAlert_life (s : State) (b : Nat) :
    (raiseAlert s b).err.hours = s.err.hours ∧ (raiseAlert s b).err.equiv = s.err.equiv := by
  have hfire (u : State) : (fireV1 u).err.hours = u.err.hours ∧ (fireV1 u).err.equiv = u.err.equiv := by
    unfold fireV1
    split <;> exact ⟨rfl, rfl⟩
  unfold raiseAlert
  split
  · exact ⟨rfl, rfl⟩
  · exact hfire _

end Sys2Proof.Machine
end

section
/-! PROOFS. O52: clocks, domains and life counters (R519, R522, R532, R545, R556). -/

namespace Sys2Proof.Proofs
open Sys2Proof Sys2Proof.Machine

/-- Settles O52: both clock losses are a `clockLoss` (`clockLoss_effect`), the watchdog records and enters Parsley, and a write of
PWR_CTRL comes down to its bit 3 (`domainSwitch_pd23`). -/
theorem clocksDomainsAndLife : Obligations.ClocksDomainsAndLife := by
  unfold Obligations.ClocksDomainsAndLife
  intro s
  refine ⟨fun hready hrun hlock => ⟨?rootPll, fun href => ?reference⟩, fun href => ?restored, fun hready => ?watchdog,
    fun v hready h1 h20 h21 => ?switch, fun celsius hgood => ?life⟩
  case rootPll =>
    obtain ⟨hstate, hcause, hsource, hlocked, env, hpwr⟩ :=
      clockLoss_effect (fun w => { w with rootLock := false, onRef := true }) hready hrun hlock
    refine ⟨_, congrArg Host.Outcome.next (if_pos hlock), hstate, hcause, hsource, ?_, ?_, hlocked, ?_⟩ <;> rw [hpwr]
  case reference =>
    obtain ⟨hstate, hcause, hsource, -, env, hpwr⟩ := clockLoss_effect
      (fun w => { w with rootLock := false, refOk := false, onRef := false, onOsc := true }) hready hrun hlock
    refine ⟨_, congrArg Host.Outcome.next (if_pos href), hstate, hcause, hsource, ?_, ?_, ?_, ?_⟩ <;> rw [hpwr]
  case restored => exact congrArg Host.Outcome.next (if_neg (by simp [href]))
  case watchdog =>
    obtain ⟨hstate, hcause, hsource, -⟩ := enterParsley_recordNow hready
      { kind := 0x17, cls := 4, status := St.degraded, scope := .module, source := 1493, detail := 0, detail2 := 0, parsley := true,
        reset := false } 8 1493
    exact ⟨_, congrArg Host.Outcome.next (if_neg (by simp [watchdogsRun, hready])), hstate, hcause, hsource⟩
  case switch =>
    obtain ⟨u, hu⟩ : ∃ u, u = s.modPwr fun w => { w with ctrlStatus := St.ok } := ⟨_, rfl⟩
    have hswitch : exec (.powerDomainSwitch v) s = .next (switchOne v u 3) :=
      congrArg Host.Outcome.next ((gate_pf0 (fun s => domainSwitch s v) hready rfl rfl).trans (hu ▸ domainSwitch_pd23 h1 h20 h21))
    have hpd23 : u.pwr.pd23 = s.pwr.pd23 := hu ▸ rfl
    have hways : ∀ p, (u.part p).live.ways = (s.part p).live.ways := hu ▸ fun _ => rfl
    rw [hswitch]
    refine ⟨fun hsame => ?same, fun hon hwas => ?on, fun hoff hwas => ⟨fun hnone => ?off, fun p hp hsome => ?busy⟩⟩
    case same => rw [switchOne_same (hsame.trans hpd23.symm), hu]; rfl
    case on => rw [switchOne_pd23_on hon (hpd23.trans hwas), hu]; rfl
    case off =>
      have hidle : switchBusy u 3 = false := Bool.eq_false_iff.mpr fun h => by
        obtain ⟨p, hp, hne⟩ := (switchBusy_pd23 u).mp h
        exact hne (by rw [hways, hnone p hp])
      rw [switchOne_pd23_off hoff (hpd23.trans hwas) hidle, hu]; rfl
    case busy =>
      have hbusy : switchBusy u 3 = true := (switchBusy_pd23 u).mpr ⟨p, hp, by rwa [hways]⟩
      rw [switchOne_pd23_busy hoff (hpd23.trans hwas) hbusy, hu]; rfl
  case life =>
    refine ⟨_, congrArg Host.Outcome.next (if_neg (by simp [hgood])), ?_⟩
    extract_lets u
    by_cases hlife : 87660 ≤ u.err.equiv.toNat
    · obtain ⟨hhours, hequiv⟩ := raiseAlert_life u 7
      rw [if_pos hlife]
      exact ⟨raiseAlert_eq u 7, hhours, hequiv, fun _ => raiseAlert_getLsbD u (by decide)⟩
    · rw [if_neg hlife]
      exact ⟨rfl, rfl, rfl, fun h => absurd h hlife⟩

end Sys2Proof.Proofs
end

section
/-! SUPPORT. Start-up from step 2 to READY where nothing fails (Table 17-3, R270, R299, R419 to R421, R424 to R426, R525). -/

namespace Sys2Proof.Machine

/-! ### What signatures and training leave of Sage -/

/-- The registers of Sage that start-up decides on are those of `g`. -/
structure Sage.SameBoot (g h : Sage) : Prop where
  blown : h.blown = g.blown
  imageSvn : h.imageSvn = g.imageSvn
  unlocked : h.debug = g.debug
  zeroising : h.zeroising = g.zeroising

theorem Sage.SameBoot.refl (g : Sage) : g.SameBoot g := ⟨rfl, rfl, rfl, rfl⟩

theorem Sage.SameBoot.trans {g h k : Sage} (a : g.SameBoot h) (b : h.SameBoot k) : g.SameBoot k :=
  ⟨b.blown.trans a.blown, b.imageSvn.trans a.imageSvn, b.unlocked.trans a.unlocked, b.zeroising.trans a.zeroising⟩

theorem Sage.sameBoot_certify (g : Sage) : g.SameBoot g.certify := ⟨rfl, rfl, rfl, rfl⟩

/-- A signature changes Sage's leaves and trees alone. -/
theorem signNext_eq {s t : State} {msg sig : List Byte} (h : signNext s msg = some (sig, t)) :
    ∃ g, t = { s with sage := g } ∧ s.sage.SameBoot g := by
  unfold signNext at h
  extract_lets g leaf g' at h
  have hg : s.sage.SameBoot g := by
    unfold g
    split
    · exact s.sage.sameBoot_certify
    · exact .refl _
  split at h
  · cases h
  · cases h
    exact ⟨_, rfl, hg.trans ⟨rfl, rfl, rfl, rfl⟩⟩

/-- A port that begins to train changes the ports and Sage's leaves alone. -/
theorem beginTraining_eq (s : State) (n : Nat) :
    ∃ ps g, beginTraining s n = { s with ports := ps, sage := g } ∧ s.sage.SameBoot g := by
  unfold beginTraining sendIdent
  extract_lets args
  split
  · exact ⟨_, _, rfl, .refl _⟩
  · next sig u hsigned =>
    obtain ⟨g, hu, hg⟩ := signNext_eq hsigned
    obtain ⟨ps, hsent⟩ := sendLink_eq u n 0 args (Config.certChain _ ++ sig)
    exact ⟨ps, g, by rw [hsent, hu]; rfl, hg⟩

/-- All of a list of ports begin to train. -/
theorem foldl_beginTraining_eq (ns : List Nat) (s : State) :
    ∃ ps g, ns.foldl beginTraining s = { s with ports := ps, sage := g } ∧ s.sage.SameBoot g := by
  induction ns generalizing s with
  | nil => exact ⟨_, _, rfl, .refl _⟩
  | cons n ns ih =>
    obtain ⟨ps, g, hone, hg⟩ := beginTraining_eq s n
    obtain ⟨ps', g', hall, hg'⟩ := ih (beginTraining s n)
    refine ⟨ps', g', hall.trans (by rw [hone]), hg.trans ?_⟩
    rwa [hone] at hg'

/-- Each of them is in training then. -/
theorem foldl_beginTraining_state {ns : List Nat} (hns : ns.Nodup) {n : Nat} (hn : n ∈ ns) (s : State) :
    ((ns.foldl beginTraining s).port n).state = 1 := by
  obtain ⟨u, -, h⟩ := foldl_read_of_only (f := beginTraining) (fun u : State => u.port n) hns hn
    (fun u m hm => (beginTraining_port u m).2 n (Ne.symm hm)) s
  exact (congrArg Port.state h).trans (beginTraining_port u n).1

/-! ### The tick master of a module whose ports have not trained (R270) -/

/-- No port is up. -/
def NoPortUp (s : State) : Prop := ∀ n, n < 7 → (s.port n).state ≠ 2

theorem trainedPorts_of_noPortUp {s : State} (h : NoPortUp s) : ((List.range 7).filter fun n => (s.port n).state == 2) = [] := by
  refine List.filter_eq_nil_iff.mpr fun n hn => ?_
  rw [beq_iff_eq]
  exact h n (List.mem_range.mp hn)

/-- With no port up the module is a master of its own. -/
theorem settle_of_noPortUp {s : State} (h : NoPortUp s) (env : StartEnv) : settle s env = settleAs s s.gov.slot env := by
  have hreported : reportedMasters s = [] := by unfold reportedMasters; rw [trainedPorts_of_noPortUp h]; rfl
  have htrained : trainedPeers s = [] := by unfold trainedPeers; rw [trainedPorts_of_noPortUp h]; rfl
  unfold settle
  rw [hreported, htrained]
  rfl

/-- A master of its own with no port up goes on to step 8 with its counter as it stands. -/
theorem settleAs_own {s : State} (h : NoPortUp s) (env : StartEnv) : settleAs s s.gov.slot env =
    step8 (s.modGov fun g => { g with settled := some g.slot, master := true, aligned := true }) env := by
  unfold settleAs
  extract_lets own settled loaded ported
  have hloaded : loaded = s.modGov fun g => { g with settled := some g.slot, master := true, aligned := true } := by
    simp only [loaded, own, if_true, settled, State.modGov, beq_self_eq_true]
  have hported : ported = loaded := by
    refine List.foldlRecOn (motive := fun u : State => u = loaded) _ _ rfl fun u hu n hn => ?_
    have hdown : (u.port n).state ≠ 2 := by
      rw [hu, hloaded]
      exact h n (List.mem_range.mp hn)
    split
    · exact hu
    · rwa [if_neg fun hpeer => hdown hpeer.1]
  rw [hported, hloaded]

/-! ### The steps -/

/-- The anti-rollback step of an image: the fuse count never falls (R426). -/
def Sage.blow (g : Sage) : Sage := { g with blown := if g.blown.toNat < g.imageSvn.toNat then g.imageSvn else g.blown }

theorem Sage.blow_toNat (g : Sage) : g.blow.blown.toNat = max g.blown.toNat g.imageSvn.toNat := by
  by_cases h : g.blown.toNat < g.imageSvn.toNat
  · rw [max_eq_right h.le]
    exact congrArg BitVec.toNat (if_pos h)
  · rw [max_eq_left (Nat.le_of_not_lt h)]
    exact congrArg BitVec.toNat (if_neg h)

/-- Step 9 of an accepted image: its SVN is blown, and the module is in READY (R426). -/
theorem step9_ready {s : State} {env : StartEnv} (hsvn : env.svnOk = true) (hdebug : s.sage.debug = 0) :
    ∃ y, step9 s env = { s with pwr := { s.pwr with resetAfter := none }, sage := s.sage.blow, sys := y } ∧ y.state = 1 ∧ y.step = 0 := by
  have hsteps : step9 s env = if !env.svnOk then startFail ((atStep9 s 9).modPwr fun w => { w with resetAfter := none }) 9 1493 8
      else ((atStep9 s 9).modPwr fun w => { w with resetAfter := none }).modSage Sage.blow |>.modSys fun y =>
        { y with state := if s.sage.debug = 0 then 1 else 4, step := 0 } := rfl
  rw [hsteps, if_neg (by simp [hsvn]), if_pos hdebug]
  exact ⟨{ (atStep9 s 9).sys with state := 1, step := 0 }, by simp only [State.modSys, State.modSage, State.modPwr, atStep9], rfl, rfl⟩

/-- Step 8 with PERST# deasserted: PD22 is powered, the link is up where it trains, and step 9 follows (R526). -/
theorem step8_ready {s : State} {env : StartEnv} (hperst : s.pwr.perst = false) (hsvn : env.svnOk = true) (hdebug : s.sage.debug = 0) :
    ∃ x y, step8 s env = { s with
      pwr := { s.pwr with on := s.pwr.on ||| 0x400000, resetAfter := none }
      sage := s.sage.blow
      cxl := x
      sys := y } ∧ y.state = 1 ∧ y.step = 0 ∧ (env.cxl = none → x = s.cxl) ∧
      ∀ c, env.cxl = some c → x.up = true ∧ x.width = c.width := by
  unfold step8
  extract_lets powered linked
  obtain ⟨x, hlinked, hnone, hsome⟩ : ∃ x, linked = { powered with cxl := x } ∧ (env.cxl = none → x = s.cxl) ∧
      ∀ c, env.cxl = some c → x.up = true ∧ x.width = c.width := by
    unfold linked
    cases henv : env.cxl with
    | none => exact ⟨s.cxl, rfl, fun _ => rfl, by simp⟩
    | some c =>
      refine ⟨_, rfl, by simp, fun d hd => ?_⟩
      cases hd
      exact ⟨rfl, rfl⟩
  obtain ⟨y, hready, hstate, hstep⟩ := step9_ready (s := linked) hsvn (by rw [hlinked]; exact hdebug)
  rw [hlinked] at hready
  rw [if_neg (by rw [show powered.pwr.perst = false from hperst]; decide)]
  exact ⟨x, y, by rw [hlinked, hready]; rfl, hstate, hstep, hnone, hsome⟩

/-- Step 7: the ports train, and the module is its own tick master until one of them is up. -/
theorem step7_alone (s : State) {env : StartEnv} (hports : env.ports = []) : ∃ ps g y, step7 s env = step8 { s with
      pwr := { s.pwr with on := s.pwr.on ||| 0x300000 }
      gov := { s.gov with settled := some s.gov.slot, master := true, aligned := true }
      ports := ps
      sage := g
      sys := y } env ∧ s.sage.SameBoot g := by
  unfold step7
  extract_lets powered training
  obtain ⟨ps, g, htraining, hg⟩ := foldl_beginTraining_eq (List.range 7) powered
  have hdown : NoPortUp training := fun n hn => by
    rw [foldl_beginTraining_state List.nodup_range (List.mem_range.mpr hn)]
    decide
  rw [hports, List.foldl_nil, settle_of_noPortUp hdown, settleAs_own hdown]
  refine ⟨ps, g, powered.sys, ?_, hg⟩
  rw [show training = _ from htraining]
  rfl

/-- Step 6 of a module with the good macros that R3 guarantees. -/
theorem step6_good {s : State} {env : StartEnv} (hbad : env.badMacros = []) (hcache : env.cacheOk = true) (hgood : MacrosSuffice s) :
    ∃ ms y, step6 s env = step7 { s with
      pwr := { s.pwr with on := (s.pwr.on ||| (0x800000 ||| groupDomains)) &&& ~~~groupDomains }
      macros := ms
      sys := y } env := by
  unfold step6
  extract_lets powered bad fresh mapped
  have hguarantee : guaranteeHolds mapped = true := by
    unfold MacrosSuffice at hgood
    simp only [mapped, bad, hbad, List.append_nil]
    exact hgood
  rw [if_neg (by simp [hguarantee]), if_neg (by simp [hcache])]
  exact ⟨_, _, rfl⟩

/-- Step 5: the channels train, and every page is FREE (R186). -/
theorem step5_good (s : State) {env : StartEnv} (hchannel : env.badChannel = none) : ∃ y, step5 s env = step6 { s with
      pwr := { s.pwr with on := s.pwr.on ||| 0x0C0000 }
      pages := []
      stack := []
      sys := y } env := by
  unfold step5
  rw [hchannel]
  exact ⟨_, rfl⟩

/-- Step 4: the root PLL locks, and the tick counter starts at 0 (R299). -/
theorem step4_good (s : State) {env : StartEnv} (hpll : env.pllOk = true) : ∃ y, step4 s env = step5 { s with
      gov := { s.gov with now := 0, running := true, locked := true, level := 0, parts := [] }
      pwr := { s.pwr with rootLock := true, onRef := false, refOk := true }
      sys := y } env := by
  unfold step4
  exact ⟨_, if_neg (by simp [hpll])⟩

/-- Step 3: Rosemary runs, and Sage certifies a per-boot tree where a top leaf is left (R419 to R421, R423). -/
theorem step3_good {s : State} {env : StartEnv} (hrosemary : env.rosemaryOk = true) (hflash : s.sage.flashGood = true) :
    ∃ g y, step3 s env = step4 { s with pwr := { s.pwr with on := s.pwr.on ||| 2 }, sage := g, sys := y } env ∧ s.sage.SameBoot g := by
  unfold step3
  extract_lets stepped powered
  rw [if_neg (by simp [hrosemary])]
  cases hleft : powered.sage.topLeft with
  | false => exact ⟨s.sage, stepped.sys, rfl, .refl _⟩
  | true =>
    have hgood : powered.sage.flashGood = true := hflash
    exact ⟨s.sage.certify, stepped.sys, if_pos hgood, s.sage.sameBoot_certify⟩

/-- Step 2: the fuses and the image are good, and Sage takes the image's version (R424, R425). -/
theorem step2_good {s : State} {env : StartEnv} (hfuse : env.fuseOk = true) (himage : env.image = 0) (hflash : s.sys.flashBad = false) :
    ∃ g y, step2 s env = step3 { s with sage := g, sys := y } env ∧ g.flashGood = s.sage.flashGood ∧
      Sage.SameBoot { s.sage with imageSvn := env.imageSvn } g := by
  unfold step2
  extract_lets stepped image
  have hgood : image = 0 := by
    rw [show image = if s.sys.flashBad then 4 else env.image from rfl, hflash, himage]
    rfl
  rw [if_neg (by simp [hfuse]), hgood, if_neg (by simp)]
  exact ⟨_, _, rfl, rfl, rfl, rfl, rfl, rfl⟩

end Sys2Proof.Machine
end

section
/-! SUPPORT. A good start-up as a whole, a cold start and a failing self-test (Table 17-3, R521, R525, R532). -/

namespace Sys2Proof.Machine

theorem guaranteeHolds_of_macros {s t : State} (h : t.macros = s.macros) : guaranteeHolds t = guaranteeHolds s := by
  unfold guaranteeHolds goodMin goodInCore badMacros
  rw [h]

/-- The guarantee of R3 is about the fused macros and the hard-failing list alone. -/
theorem MacrosSuffice.of_eq {s t : State} (h : MacrosSuffice s) (hfused : t.fused = s.fused) (herr : t.err.hardFail = s.err.hardFail) :
    MacrosSuffice t := by
  unfold MacrosSuffice at h ⊢
  rw [hfused, herr]
  exact (guaranteeHolds_of_macros rfl).trans h

/-- The domains that the steps of a start-up power in turn; step 6 powers the groups for their BIST alone. -/
def startDomains (on : BitVec 24) : BitVec 24 :=
  (((((on ||| 2) ||| 0x0C0000) ||| (0x800000 ||| groupDomains)) &&& ~~~groupDomains) ||| 0x300000) ||| 0x400000

/-- What a start-up from step 2 to READY leaves in the state `s` that it begins in. -/
structure Started (s : State) (e : StartEnv) (t : State) : Prop where
  state : t.sys.state = 1
  step : t.sys.step = 0
  gov : t.gov = { s.gov with now := 0, running := true, locked := true, level := 0, parts := [], settled := some s.gov.slot,
                             master := true, aligned := true }
  pwr : t.pwr = { s.pwr with
    on := startDomains s.pwr.on
    rootLock := true, onRef := false, refOk := true, resetAfter := none }
  parts : t.parts = s.parts
  ctxs : t.ctxs = s.ctxs
  pages : t.pages = []
  link : s.cxl.up = false → t.cxl.up = e.cxl.isSome
  blown : t.sage.blown.toNat = max s.sage.blown.toNat e.imageSvn.toNat
  zeroising : t.sage.zeroising = s.sage.zeroising

/-- A start-up that nothing fails leads from step 2 to READY. -/
theorem step2_started {s : State} {e : StartEnv} (hstart : GoodStart e) (hperst : s.pwr.perst = false) (hdebug : s.sage.debug = 0)
    (hflash : s.sys.flashBad = false) (hrecord : s.sage.flashGood = true) (hmacros : MacrosSuffice s) : Started s e (step2 s e) := by
  obtain ⟨-, hfuse, himage, hrosemary, hpll, hchannel, hbad, hcache, hports, -, hsvn⟩ := hstart
  obtain ⟨g2, y2, h2, hrecord2, hg2⟩ := step2_good hfuse himage hflash
  obtain ⟨g3, y3, h3, hg3⟩ := step3_good (s := { s with sage := g2, sys := y2 }) hrosemary (hrecord2.trans hrecord)
  have hg3 : Sage.SameBoot { s.sage with imageSvn := e.imageSvn } g3 := hg2.trans hg3
  rw [h2, h3]
  obtain ⟨y4, h4⟩ := step4_good { s with pwr := { s.pwr with on := s.pwr.on ||| 2 }, sage := g3, sys := y3 } hpll
  rw [h4]
  obtain ⟨y5, h5⟩ := step5_good { s with
    gov := { s.gov with now := 0, running := true, locked := true, level := 0, parts := [] }
    pwr := { s.pwr with on := s.pwr.on ||| 2, rootLock := true, onRef := false, refOk := true }
    sage := g3
    sys := y4 } hchannel
  rw [h5]
  obtain ⟨ms, y6, h6⟩ := step6_good (s := { s with
    gov := { s.gov with now := 0, running := true, locked := true, level := 0, parts := [] }
    pwr := { s.pwr with on := (s.pwr.on ||| 2) ||| 0x0C0000, rootLock := true, onRef := false, refOk := true }
    pages := []
    stack := []
    sage := g3
    sys := y5 }) hbad hcache (hmacros.of_eq rfl rfl)
  rw [h6]
  obtain ⟨ps, g7, y7, h7, hg7⟩ := step7_alone { s with
    gov := { s.gov with now := 0, running := true, locked := true, level := 0, parts := [] }
    pwr := { s.pwr with
      on := ((s.pwr.on ||| 2) ||| 0x0C0000 ||| (0x800000 ||| groupDomains)) &&& ~~~groupDomains
      rootLock := true, onRef := false, refOk := true }
    macros := ms
    pages := []
    stack := []
    sage := g3
    sys := y6 } hports
  have hg7 : Sage.SameBoot { s.sage with imageSvn := e.imageSvn } g7 := hg3.trans hg7
  rw [h7]
  obtain ⟨x, y8, h8, hstate, hstep, hnolink, hlink⟩ := step8_ready (s := { s with
    gov := { s.gov with now := 0, running := true, locked := true, level := 0, parts := [], settled := some s.gov.slot, master := true,
                        aligned := true }
    pwr := { s.pwr with
      on := (((s.pwr.on ||| 2) ||| 0x0C0000 ||| (0x800000 ||| groupDomains)) &&& ~~~groupDomains) ||| 0x300000
      rootLock := true, onRef := false, refOk := true }
    macros := ms
    pages := []
    stack := []
    ports := ps
    sage := g7
    sys := y7 }) (env := e) hperst hsvn (hg7.unlocked.trans hdebug)
  rw [h8]
  refine ⟨hstate, hstep, rfl, rfl, rfl, rfl, rfl, fun hdown => ?_, ?_, hg7.zeroising⟩
  · cases hcxl : e.cxl with
    | none => exact (congrArg Cxl.up (hnolink hcxl)).trans hdown
    | some c => exact (hlink c hcxl).1
  · rw [Sage.blow_toNat, hg7.blown, hg7.imageSvn]

end Sys2Proof.Machine
end

section
/-! SUPPORT. Starts that fail, and the loss of power-good (R416, R521, R525, R531). -/

namespace Sys2Proof.Machine

/-- A sensor event enters Parsley with cause 3 wherever Parsley can be entered. -/
theorem sensorEvent_registers {s : State} (hopen : parsleyOpen s = true) (n : Nat) :
    (sensorEvent s n).sys.state = 2 ∧ (sensorEvent s n).sys.parCause = 3 ∧ (sensorEvent s n).sys.parSource = BitVec.ofNat 12 n := by
  unfold sensorEvent
  extract_lets named recorded discarding ended
  have hstate : ended.sys.state = s.sys.state := by
    have hrecorded : discarding.sys.state = s.sys.state := congrArg Sys.state (recordNow_sys named _)
    unfold ended
    split <;> exact hrecorded
  have hended : parsleyOpen ended = true := by
    unfold parsleyOpen at hopen ⊢
    rwa [hstate]
  obtain ⟨hparsley, hcause, -⟩ := enterParsley_registers hended 3 n
  exact ⟨hparsley, hcause, enterParsley_source hended 3 n⟩

/-- Recovery is entered with its cause, and PD0, PD22 and PD23 alone are powered (R531). -/
theorem enterRecovery_registers (s : State) (env : StartEnv) (cause : BitVec 3) : (enterRecovery s env cause).sys.state = 3 ∧
    (enterRecovery s env cause).sys.recCause = cause ∧ (enterRecovery s env cause).pwr.on = 0xC00001 := by
  unfold enterRecovery
  extract_lets entered powered
  cases env.cxl with
  | none => exact ⟨rfl, rfl, rfl⟩
  | some c =>
    dsimp only
    split <;> exact ⟨rfl, rfl, rfl⟩

/-- Step 2 of a refused image (R425, R531). -/
theorem step2_refused {s : State} {env : StartEnv} (hfuse : env.fuseOk = true) (himage : env.image ≠ 0) (hflash : s.sys.flashBad = false) :
    step2 s env = enterRecovery (atStep9 s 2) env env.image := by
  unfold step2
  extract_lets stepped image
  have hrefused : image = env.image := if_neg (by rw [show stepped.sys.flashBad = false from hflash]; decide)
  rw [if_neg (by simp [hfuse]), hrefused, if_pos himage]

/-- The block at power-good, its strap read (R521, R581). -/
def atPowerGood (s : State) (env : StartEnv) : State :=
  atStep9 ((s.cold.modPwr fun w => { w with pwrgd := true, perst := !env.perstHigh, refOk := true }).modGov fun g =>
    { g with slot := env.slot }) 1

theorem powerGoodRise_eq {s : State} (env : StartEnv) (hoff : s.pwr.pwrgd = false) :
    powerGoodRise s env = if !env.selfTestOk then sensorEvent (atPowerGood s env) 5 else step2 (atPowerGood s env) env :=
  if_neg (by simp [hoff])

/-- A module without a broken or half-written image is found with a good flash. -/
theorem cold_flashBad {s : State} (hflash : s.sys.flashBad = false) (hupdate : s.sys.fwUpdate ≠ 1) (hbusy : s.sys.recBusy = false) :
    s.cold.sys.flashBad = false := by
  have h : (s.sys.flashBad || s.sys.fwUpdate == 1 || s.sys.recBusy) = false := by
    rw [hflash, hbusy, beq_eq_false_iff_ne.mpr hupdate]
    rfl
  exact h

end Sys2Proof.Machine
end

section
/-! PROOFS. O49: power-good and its loss (R521, R525, R526, R531, R299, R426). -/

namespace Sys2Proof.Proofs
open Sys2Proof Sys2Proof.Machine

/-- Settles O49: power-good starts from `atPowerGood`, from which a good start-up is `step2_started`, a failing self-test a sensor
event and a refused image an entry into recovery. -/
theorem startUpReachesReady : Obligations.StartUpReachesReady := by
  unfold Obligations.StartUpReachesReady
  intro s e
  refine ⟨fun hoff hflash hupdate hbusy => ⟨fun hstart hmacros hrecord => ?good, fun hfail => ?selfTest, fun htest hfuse himage => ?refused⟩,
    fun hon => ?loss⟩
  case good =>
    obtain ⟨htest, -, -, -, -, -, -, -, -, hperst, -⟩ := id hstart
    have hstarted : Started (atPowerGood s e) e (powerGoodRise s e) := by
      rw [powerGoodRise_eq e hoff, htest]
      exact step2_started hstart (congrArg Bool.not hperst) rfl (cold_flashBad hflash hupdate hbusy) hrecord (hmacros.of_eq rfl rfl)
    refine ⟨_, rfl, hstarted.state, hstarted.step, ?_, ?_, ?_, ?_, ?_, ?_, hstarted.parts, hstarted.ctxs, hstarted.pages,
      hstarted.link rfl, hstarted.blown⟩
    · rw [hstarted.gov]
    · rw [hstarted.gov]
    · rw [hstarted.gov]
    · rw [hstarted.gov]; rfl
    · rw [hstarted.gov]
    · rw [hstarted.pwr]; exact (by decide : startDomains 1 = 0xFC0003)
  case selfTest =>
    refine ⟨_, rfl, ?_⟩
    rw [powerGoodRise_eq e hoff, hfail]
    exact sensorEvent_registers (s := atPowerGood s e) rfl 5
  case refused =>
    refine ⟨_, rfl, ?_⟩
    rw [powerGoodRise_eq e hoff, if_neg (by simp [htest]), step2_refused (s := atPowerGood s e) hfuse himage (cold_flashBad hflash hupdate hbusy)]
    exact enterRecovery_registers _ e e.image
  case loss =>
    exact ⟨_, congrArg Host.Outcome.next (if_neg (by simp [hon])), rfl, rfl, rfl, rfl, rfl, fun a => ⟨rfl, rfl, rfl⟩, rfl, rfl, rfl⟩

end Sys2Proof.Proofs
end

section
/-! SUPPORT. Jobs that end at once, and a module without work (R213, R446, R514, R523). -/

namespace Sys2Proof.Machine

/-! ### Jobs that end leave the link and the registers -/

/-- From `s` to `t` jobs end: cores, memories, pages, partitions, Chive's log and the count of free values change. -/
def JobsEnd (s t : State) : Prop := ∃ fc cs sc st ps m qs,
  t = { s with freeCtr := fc, cores := cs, scratch := sc, stack := st, pages := ps, mem := m, parts := qs }

namespace JobsEnd

theorem refl (s : State) : JobsEnd s s := ⟨_, _, _, _, _, _, _, rfl⟩

theorem trans {s t u : State} (h : JobsEnd s t) (h' : JobsEnd t u) : JobsEnd s u := by
  obtain ⟨_, _, _, _, _, _, _, rfl⟩ := h
  obtain ⟨_, _, _, _, _, _, _, rfl⟩ := h'
  exact ⟨_, _, _, _, _, _, _, rfl⟩

theorem ite {s t u : State} {b : Prop} [Decidable b] (ht : JobsEnd s t) (hu : JobsEnd s u) : JobsEnd s (if b then t else u) := by
  split
  · exact ht
  · exact hu

theorem foldl {α : Type} {f : State → α → State} (hf : ∀ s a, JobsEnd s (f s a)) (l : List α) (s : State) : JobsEnd s (l.foldl f s) :=
  List.foldlRecOn (motive := JobsEnd s) l f (refl s) fun u h a _ => h.trans (hf u a)

theorem modCore (s : State) (c : Nat) (f : Core → Core) : JobsEnd s (s.modCore c f) := ⟨_, _, _, _, _, _, _, rfl⟩
theorem modPart (s : State) (p : Nat) (f : Part → Part) : JobsEnd s (s.modPart p f) := ⟨_, _, _, _, _, _, _, rfl⟩
theorem setPage (s : State) (g : Nat) (v : PageE) : JobsEnd s (s.setPage g v) := ⟨_, _, _, _, _, _, _, rfl⟩

theorem landWrite (s : State) (w : Write) : JobsEnd s (landWrite s w) := by
  have happly : JobsEnd s (applyWrite s w) := by
    unfold applyWrite
    split <;> exact ⟨_, _, _, _, _, _, _, rfl⟩
  unfold Machine.landWrite
  split
  · exact ite (refl s) happly
  · exact happly

theorem chvFault (s : State) (c : Nat) (op : EngineOp) (st : Status) : JobsEnd s (chvFault s c op st) := by
  unfold Machine.chvFault
  dsimp only
  split <;> exact ⟨_, _, _, _, _, _, _, rfl⟩

theorem cutTransfer (s : State) (c : Nat) (op : EngineOp) (l : Launched) : JobsEnd s (cutTransfer s c op l) := by
  unfold Machine.cutTransfer
  refine .trans ?_ (chvFault _ _ _ _)
  refine .trans ?_ (foldl (fun u (d : SlotDone) => modCore u d.core _) _ _)
  refine .trans ?_ (foldl (fun u g => ite (refl u) (setPage u g _)) _ _)
  exact .trans (t := (draw s).2) ⟨_, _, _, _, _, _, _, rfl⟩ (foldl landWrite _ _)

theorem cutPart (s : State) (p : Nat) : JobsEnd s (cutPart s p) := by
  refine foldl (fun u c => foldl (fun u e => ?_) _ u) _ s
  split
  · exact ite (refl u) (cutTransfer u _ _ _)
  · exact refl u

theorem endJobNow (s : State) (p : Nat) (img : ImgState) (st : Status) (seq : SeqState) : JobsEnd s (endJobNow s p img st seq) := by
  unfold Machine.endJobNow
  split
  · exact refl s
  · refine .trans (cutPart s p) (.trans ?_ (modPart _ _ _))
    exact .trans (foldl (fun u c => modCore u c _) _ _) (foldl (fun u c => modCore u c _) _ _)

end JobsEnd

/-- A module reset outside Parsley: the link is down, all jobs end, and the zeroisation begins
(R523, R538). -/
theorem moduleReset_eq {s : State} (hready : s.sys.state = 1) (env : StartEnv) (cause : BitVec 3) :
    ∃ y x u, JobsEnd { s with
        pwr := { s.pwr with resetAfter := some env, rstCause := cause, rstCount := satAdd s.pwr.rstCount 1 }, sys := y, cxl := x } u ∧
      x.up = false ∧
      moduleReset s env cause = discardIn ((zeroise u 4).modSys fun y => { y with state := 0, step := 2 }) .module := by
  unfold moduleReset
  extract_lets src powered cut down ended
  obtain ⟨y, hcut, hstate⟩ : ∃ y, cut = { powered with sys := y } ∧ y.state = 1 := by
    unfold cut
    split
    · exact ⟨_, rfl, hready⟩
    · exact ⟨_, rfl, hready⟩
  have hparsley : ¬(down.parsley = true ∧ down.sage.zeroising.isSome = true) := fun h => by
    have hdown : down.sys.state = 1 := by rw [show down.sys = cut.sys from rfl, hcut]; exact hstate
    have h2 : down.sys.state = 2 := beq_iff_eq.mp h.1
    rw [hdown] at h2
    exact absurd h2 (by decide)
  rw [if_neg hparsley]
  refine ⟨y, down.cxl, ended, ?_, rfl, rfl⟩
  have hdown : down = { s with pwr := powered.pwr, sys := y, cxl := down.cxl } := by
    unfold down
    rw [hcut]
    rfl
  exact hdown ▸ .foldl (fun _ _ => .endJobNow _ _ _ _ _) _ _

end Sys2Proof.Machine
end

section
/-! SUPPORT. A module without work, whose ports go down (R446, R514, R536). -/

namespace Sys2Proof.Machine

/-! ### A module without work -/

/-- The value under any key of a family whose entries all meet `P`, as its default does. -/
theorem sget_of_forall {α : Type} {P : α → Prop} {d : α} (hd : P d) {m : SMap α} (hm : ∀ e ∈ m, P e.2) (k : Nat) : P (sget d m k) := by
  induction m with
  | nil => exact hd
  | cons e rest ih =>
    obtain ⟨n, v⟩ := e
    rw [sget]
    split
    · exact hm (n, v) List.mem_cons_self
    · exact ih fun e he => hm e (List.mem_cons_of_mem _ he)

/-- No core holds an instruction, every partition is FREE, and the memories hold nothing. -/
structure Quiet (s : State) : Prop where
  queues : ∀ c, (s.core c).queues = []
  parts : ∀ p, (s.part p).st = 0
  stack : s.stack = []
  scratch : s.scratch = []
  cim : s.cim = []

namespace Quiet
variable {s t : State}

theorem of_eq (h : Quiet s) (hcores : t.cores = s.cores) (hparts : t.parts = s.parts) (hstack : t.stack = s.stack)
    (hscratch : t.scratch = s.scratch) (hcim : t.cim = s.cim) : Quiet t := by
  refine ⟨fun c => ?_, fun p => ?_, hstack.trans h.stack, hscratch.trans h.scratch, hcim.trans h.cim⟩
  · unfold State.core
    rw [hcores]
    exact h.queues c
  · unfold State.part
    rw [hparts]
    exact h.parts p

theorem ite {u : State} {b : Prop} [Decidable b] (ht : Quiet t) (hu : Quiet u) : Quiet (if b then t else u) := by
  split
  · exact ht
  · exact hu

theorem foldl {α : Type} {f : State → α → State} (hf : ∀ u a, Quiet u → Quiet (f u a)) (l : List α) (h : Quiet s) : Quiet (l.foldl f s) :=
  List.foldlRecOn (motive := Quiet) l f h fun u hu a _ => hf u a hu

theorem modCore (h : Quiet s) (c : Nat) {f : Core → Core} (hf : ∀ k, (f k).queues = k.queues) : Quiet (s.modCore c f) := by
  refine ⟨fun x => ?_, h.parts, h.stack, h.scratch, h.cim⟩
  rw [State.modCore_core]
  split
  · exact (hf _).trans (h.queues c)
  · exact h.queues x

theorem invalidateSlot (h : Quiet s) (c slot : Nat) : Quiet (invalidateSlot s c slot) := h.modCore c fun _ => rfl

theorem recordNow (h : Quiet s) (e : FaultEv) : Quiet (recordNow s e) :=
  h.of_eq (recordNow_cores s e) (recordNow_parts s e) (recordNow_stack s e) (recordNow_scratch s e) (recordNow_cim s e)

theorem raiseAlert (h : Quiet s) (b : Nat) : Quiet (raiseAlert s b) :=
  h.of_eq (raiseAlert_cores s b) (raiseAlert_parts s b) (raiseAlert_stack s b) (raiseAlert_scratch s b) (raiseAlert_cim s b)

theorem killXsends (h : Quiet s) (f : Nat → XsendF → Bool) : Quiet (killXsends s f) := by
  refine ⟨fun c => ?_, h.parts, h.stack, h.scratch, h.cim⟩
  unfold Machine.killXsends
  extract_lets dead
  refine (congrArg Core.queues (sget_mapEntries (d := Core.fresh) (f := fun n (k : Core) =>
    { k with queues := k.queues.map fun (q : Nat × List QEntry) => (q.1, q.2.map (dead n)) }) (fun _ => rfl) s.cores c)).trans ?_
  exact (congrArg (List.map _) (h.queues c)).trans rfl

/-- Without transfers in the queues there is none to cut. -/
theorem cutPeer (h : Quiet s) (n : Nat) : Quiet (cutPeer s n) := by
  refine foldl (fun u c hu => ?_) _ h
  have hempty (q : Nat) : (u.core c).queue q = [] := congrArg (sget [] · q) (hu.queues c)
  rw [hempty, hempty]
  exact hu

/-- A FREE partition loses nothing with a port. -/
theorem portLostFor (h : Quiet s) (n p : Nat) : Quiet (portLostFor n s p) := by
  unfold Machine.portLostFor
  rw [if_pos (h.parts p)]
  exact h

theorem modPort (h : Quiet s) (n : Nat) (f : Port → Port) : Quiet (s.modPort n f) := h.of_eq rfl rfl rfl rfl rfl
theorem modGov (h : Quiet s) (f : Gov → Gov) : Quiet (s.modGov f) := h.of_eq rfl rfl rfl rfl rfl
theorem modMbox (h : Quiet s) (n : Nat) (f : Mbox → Mbox) : Quiet (s.modMbox n f) := h.of_eq rfl rfl rfl rfl rfl

theorem breakLock (h : Quiet s) (n : Nat) : Quiet (breakLock s n) := by
  unfold Machine.breakLock
  exact ((h.modMbox n _).recordNow _).modMbox 63 _

theorem portDown (h : Quiet s) (n kind : Nat) : Quiet (portDown s n kind) := by
  unfold Machine.portDown
  extract_lets p cause served recorded alerted lostMaster killed cut voided downed unaligned lost boxed
  refine ite h ?_
  have hserved : Quiet served := by
    obtain ⟨_, hports⟩ := servePort_eq s n
    rw [show served = _ from hports]
    exact h.of_eq rfl rfl rfl rfl rfl
  have hcut : Quiet cut := (((hserved.recordNow _).raiseAlert 5).killXsends _).cutPeer n
  have hvoided : Quiet voided := foldl (fun u l hu => hu.invalidateSlot l.1 l.2) _ hcut
  have hdowned : Quiet downed := hvoided.modPort _ _
  have hunaligned : Quiet unaligned := ite (hdowned.modGov _) hdowned
  have hlost : Quiet lost := foldl (fun u p hu => hu.portLostFor n p) _ hunaligned
  have hboxed : Quiet boxed := hlost.modMbox _ _
  exact ite (hboxed.breakLock _) hboxed

end Quiet

theorem quiet_zeroise (s : State) (k : BitVec 3) : Quiet (zeroise s k) := by
  refine ⟨fun c => ?_, fun _ => rfl, rfl, rfl, rfl⟩
  refine sget_of_forall (P := fun k : Core => k.queues = []) rfl (fun e he => ?_) c
  obtain ⟨e', -, rfl⟩ := List.mem_map.mp (List.mem_of_mem_filter he)
  rfl

/-! ### Sage, while ports go down -/

/-- A port that goes down takes no alert back and leaves Sage, the low mailboxes and the states of the contexts. -/
theorem portDown_workEnds (s : State) (n kind : Nat) : WorkEnds s (portDown s n kind) := by
  unfold portDown
  extract_lets p cause served recorded alerted lostMaster killed cut voided downed unaligned lost boxed
  refine .ite (.refl s) ?_
  have hserved : WorkEnds s served := by
    obtain ⟨_, hports⟩ := servePort_eq s n
    rw [show served = _ from hports]
    exact .of_eq rfl rfl rfl rfl rfl
  have hdowned : WorkEnds served downed := by
    refine .trans (.trans ?_ (.foldl (fun u l => .modCore u _ _) _ _)) (.modPort _ _ _)
    exact .trans (.trans (.trans (.recordNow _ _) (.raiseAlert _ 5)) (.killXsends _ _)) (.cutPeer _ n)
  refine (hserved.trans hdowned).trans ?_
  refine .trans ?_ (.ite (.breakLock _ (by omega)) (.refl _))
  refine .trans ?_ (.modMbox _ (by omega) _)
  exact .trans (.ite (.modGov _ _) (.refl _)) (.foldl (WorkEnds.portLostFor n) _ _)

theorem portsOff_workEnds (s : State) (ns : List Nat) : WorkEnds s (portsOff s ns) := .foldl (fun u n => portDown_workEnds u n 6) ns s

theorem Quiet.portsOff {s : State} (h : Quiet s) (ns : List Nat) : Quiet (portsOff s ns) := .foldl (fun _ n hu => hu.portDown n 6) ns h

end Sys2Proof.Machine
end

section
/-! SUPPORT. Module resets and the ends of zeroisations (R446, R523, R524, R526, R533, R536 to R538). -/

namespace Sys2Proof.Machine

/-- What a module reset that begins in READY leaves. -/
structure ResetBegun (s : State) (env : StartEnv) (cause : BitVec 3) (t : State) : Prop where
  state : t.sys.state = 0
  zeroising : t.sage.zeroising = some 4
  pwr : t.pwr = { s.pwr with resetAfter := some env, rstCause := cause, rstCount := satAdd s.pwr.rstCount 1 }
  parts : t.parts = []
  link : t.cxl.up = false
  trips : t.gov.trips = s.gov.trips
  debug : t.sage.debug = s.sage.debug
  zero : ∀ a, bget t.stack a = 0 ∧ bget t.scratch a = 0 ∧ bget t.cim a = 0

theorem moduleReset_begun {s : State} (hready : s.sys.state = 1) (env : StartEnv) (cause : BitVec 3) :
    ResetBegun s env cause (moduleReset s env cause) := by
  obtain ⟨y, x, u, ⟨_, _, _, _, _, _, _, rfl⟩, hdown, h⟩ := moduleReset_eq hready env cause
  rw [h]
  exact ⟨rfl, rfl, rfl, rfl, hdown, rfl, rfl, fun _ => ⟨rfl, rfl, rfl⟩⟩

theorem foldl_disableBox_eq (first : Nat) (l : List Nat) (s : State) :
    ∃ bs, l.foldl (fun s i => disableBox s (first + i)) s = { s with mboxes := bs } := by
  refine List.foldlRecOn (motive := fun u : State => ∃ bs, u = { s with mboxes := bs }) l _ ⟨_, rfl⟩ fun u hu i _ => ?_
  obtain ⟨_, rfl⟩ := hu
  exact ⟨_, rfl⟩

/-- PERST# in READY disables the host's mailboxes and begins a module reset (R523). -/
theorem perstAssert_eq {s : State} (hready : s.sys.state = 1) (hgood : s.pwr.pwrgd = true) (hperst : s.pwr.perst = false) (env : StartEnv) :
    ∃ bs, perstAssert s env = moduleReset { s with mboxes := bs, pwr := { s.pwr with perst := true } } env 1 := by
  obtain ⟨bs, hdisabled⟩ := foldl_disableBox_eq 16 (List.range 8) (s.modPwr fun w => { w with perst := true })
  have hrunning : ¬(s.sys.state = 0 ∧ s.sys.step.toNat < 8) := fun h => absurd (hready.symm.trans h.1) (by decide)
  refine ⟨bs, ?_⟩
  unfold perstAssert
  rw [if_neg (by simp [hgood, hperst]), hdisabled]
  exact if_neg hrunning

/-- A written pair of RST_MODULE that sets it begins a module reset (R524). -/
theorem rstModule_eq {s : State} (hgood : s.pwr.pwrgd = true) (hupdate : s.sys.fwUpdate ≠ 1) {v c : W32} (hv : v.getLsbD 0 = true)
    (hc : c.getLsbD 0 = false) (env : StartEnv) :
    rstModule s v c env = moduleReset (s.modPwr fun w => { w with rst := Paired.of (v.extractLsb' 0 1) }) env 2 := by
  have hset : ¬(!v.getLsbD 0 ∨ !s.pwr.pwrgd) := by rw [hv, hgood]; decide
  unfold rstModule
  rw [if_neg (by rw [hv, hc]; decide)]
  exact (if_neg hset).trans (if_neg hupdate)

/-- A start-up that waits in step 8 goes on once PERST# is deasserted (R526). -/
theorem perstDeassert_of_waiting {s : State} {env : StartEnv} (link : Option LinkCfg) (hstate : s.sys.state = 0) (hstep : s.sys.step = 8)
    (hzero : s.sage.zeroising = none) (hwaits : s.pwr.resetAfter = some env) : perstDeassert s link =
      step8 { s with pwr := { s.pwr with perst := false, resetAfter := none } } { env with cxl := link } := by
  have hmatch : (if s.sys.state = 0 ∧ s.sys.step = 8 ∧ s.sage.zeroising.isNone then s.pwr.resetAfter else none) = some env := by
    rw [if_pos ⟨hstate, hstep, by rw [hzero]; rfl⟩, hwaits]
  unfold perstDeassert
  dsimp only [State.modPwr]
  rw [hmatch]

theorem perstDeassert_of_ready {s : State} (link : Option LinkCfg) (hready : s.sys.state = 1) :
    perstDeassert s link = { s with pwr := { s.pwr with perst := false } } := by
  have hmatch : (if s.sys.state = 0 ∧ s.sys.step = 8 ∧ s.sage.zeroising.isNone then s.pwr.resetAfter else none) = none :=
    if_neg fun h => absurd (hready.symm.trans h.1) (by decide)
  unfold perstDeassert
  dsimp only [State.modPwr]
  rw [hmatch]

/-! ### The ends of zeroisations -/

/-- The state in which the start-up after a module reset begins. -/
def afterReset (s : State) : State := (power (s.modSage fun g => { g with zeroising := none }) groupDomains false).warm

/-- The zeroisation of a module reset ends: start-up follows from step 2 (R538). -/
theorem zeroisationComplete_reset {s : State} {env : StartEnv} (hzero : s.sage.zeroising = some 4) (hwaits : s.pwr.resetAfter = some env) :
    zeroisationComplete s = step2 (afterReset s) env := by
  unfold zeroisationComplete
  rw [hzero]
  dsimp only [power, State.modSage, State.modPwr]
  rw [if_neg fun h => absurd h.1 (by decide), if_neg (by decide), hwaits]
  rfl

/-- A zeroisation by ZEROISE ends: the command is answered (R537). -/
theorem zeroisationComplete_command {s : State} (hzero : s.sage.zeroising = some 2) (hwaits : s.pwr.resetAfter = none)
    (hvia : s.sage.zeroVia = some (.mgmt, 7)) : zeroisationComplete s = { s with
      sage := { s.sage with zeroising := none, zeroVia := none }
      pwr := { s.pwr with on := s.pwr.on &&& ~~~groupDomains }
      sys := { s.sys with mgmtStatus := St.ok, mgmtBusy := false } } := by
  unfold zeroisationComplete
  rw [hzero]
  dsimp only [power, State.modSage, State.modPwr]
  rw [if_neg fun h => absurd h.1 (by decide), if_neg (by decide), hwaits]
  unfold finishZero
  dsimp only [show (2#3).toNat = 2 from rfl]
  rw [hvia]
  rfl

theorem workCleared_sage (s : State) : (workCleared s).sage = s.sage := by
  have hpairs : (endAllPairs s).sage = s.sage := by simp only [endAllPairs]
  unfold workCleared
  generalize endAllPairs s = u at hpairs ⊢
  have hends : WorkEnds u (endLoads (endAllReqs ((List.range 8).foldl (fun s p => endJobNow s p .empty St.disabled .idle) u) St.disabled)
      St.disabled) := .trans (.trans (.foldl (fun _ _ => .endJobNow _ _ _ _ _) _ _) (.endAllReqs _ _)) (.endLoads _ _)
  exact hends.sage.trans hpairs

/-- A zeroisation by POWER_OFF ends with the jobs: the ports go down, PD0 alone stays powered, and the command is answered (R536). -/
theorem zeroisationComplete_off {s : State} (hzero : s.sage.zeroising = some 5) (hwaits : s.pwr.resetAfter = none)
    (hvia : s.sage.zeroVia = some (.mgmt, 8)) (hidle : ∀ p, p < 8 → (s.part p).running = none) :
    ∃ u, Quiet u ∧ u.sage.zeroising = none ∧ zeroisationComplete s = { u with
      sage := { u.sage with zeroVia := none }
      cxl := { u.cxl with up := false, width := 0, rate := 0, flit := false, ide := false }
      pwr := { u.pwr with on := 1 }
      sys := { u.sys with state := 5, mgmtStatus := St.ok, mgmtBusy := false } } := by
  have hjobs : ¬((5 : BitVec 3) = 5 ∧ ((List.range 8).any fun p => (s.part p).running.isSome) = true) := by
    rintro ⟨-, hrun⟩
    obtain ⟨p, hp, hsome⟩ := List.any_eq_true.mp hrun
    rw [hidle p (List.mem_range.mp hp)] at hsome
    exact absurd hsome (by decide)
  unfold zeroisationComplete
  rw [hzero]
  dsimp only
  rw [if_neg hjobs, if_pos rfl, clearOut_eq]
  have hworkPwr : (workCleared s).pwr.resetAfter = none := (congrArg Pwr.resetAfter (workCleared_workOnly s).pwr).trans hwaits
  have hworkVia : (workCleared s).sage.zeroVia = some (.mgmt, 8) := (congrArg Sage.zeroVia (workCleared_sage s)).trans hvia
  generalize workCleared s = w at hworkPwr hworkVia ⊢
  obtain ⟨v, hv⟩ : ∃ v, v = power ((zeroise w 5).modSage fun g => { g with zeroising := none }) groupDomains false := ⟨_, rfl⟩
  have hquiet : Quiet v := hv ▸ (quiet_zeroise w 5).of_eq rfl rfl rfl rfl rfl
  have hpwr : v.pwr.resetAfter = none := hv ▸ hworkPwr
  have hsage : v.sage.zeroVia = some (.mgmt, 8) := hv ▸ hworkVia
  have hover : v.sage.zeroising = none := hv ▸ rfl
  rw [← hv, hpwr]
  have hdown : (portsOff v (List.range 7)).sage = v.sage := (portsOff_workEnds v _).sage
  refine ⟨portsOff v (List.range 7), hquiet.portsOff _, (congrArg Sage.zeroising hdown).trans hover, ?_⟩
  generalize portsOff v (List.range 7) = u at hdown ⊢
  unfold finishZero
  dsimp only [show (5#3).toNat = 5 from rfl, State.modCxl, State.modPwr, State.modSys]
  rw [hdown, hsage]
  simp only [State.modSage]
  rfl

end Sys2Proof.Machine
end

section
/-! PROOFS. O50: module resets and zeroisations (R523, R524, R526, R533, R535 to R538, R568). -/

namespace Sys2Proof.Proofs
open Sys2Proof Sys2Proof.Machine

/-- Settles O50: PERST# and RST_MODULE begin a `moduleReset` (`moduleReset_begun`), whose zeroisation ends in `step2_started`; a start-up
in step 8 goes on by `step8_ready`, and the other zeroisations end by their kind. -/
theorem moduleResetsRestart : Obligations.ModuleResetsRestart := by
  unfold Obligations.ModuleResetsRestart
  intro s e
  refine ⟨fun hready hgood hupdate => ⟨fun hperst => ?perst, fun v c hv hc => ?rst⟩,
    fun link hready => congrArg Host.Outcome.next (perstDeassert_of_ready link hready),
    fun link hstate hstep hzero hwaits hsvn hdebug => ?goesOn,
    fun hzero hwaits hstart hperst hdebug hflash hupdate hbusy hmacros hrecord => ?restart,
    fun hzero hwaits hvia => congrArg Host.Outcome.next (zeroisationComplete_command hzero hwaits hvia),
    fun hzero hwaits hvia hidle => ?off⟩
  case perst =>
    obtain ⟨bs, hbegun⟩ := perstAssert_eq hready hgood hperst e
    have h := moduleReset_begun (s := { s with mboxes := bs, pwr := { s.pwr with perst := true } }) hready e 1
    refine ⟨_, congrArg Host.Outcome.next hbegun, h.state, h.zeroising, ?_, ?_, ?_, ?_, h.parts, h.link, h.trips, h.debug, h.zero⟩ <;> rw [h.pwr]
  case rst =>
    have hgate := gatePair_pf0 (off := 0x1800020) 0x1800024 (fun s => rstModule s v c e) hready rfl rfl
    have hbegun := hgate.trans (rstModule_eq (s := clearLatch s 0x1800020) hgood hupdate hv hc e)
    have h := moduleReset_begun (s := (clearLatch s 0x1800020).modPwr fun w => { w with rst := Paired.of (v.extractLsb' 0 1) }) hready e 2
    refine ⟨_, congrArg Host.Outcome.next hbegun, h.state, h.zeroising, ?_, ?_, h.parts, h.zero⟩
    · exact congrArg Pwr.rstCause h.pwr
    · exact congrArg Pwr.rstCount h.pwr
  case goesOn =>
    obtain ⟨x, y, h, hready, -, -, hlink⟩ := step8_ready (s := { s with pwr := { s.pwr with perst := false, resetAfter := none } })
      (env := { e with cxl := link }) rfl hsvn hdebug
    refine ⟨_, congrArg Host.Outcome.next ((perstDeassert_of_waiting link hstate hstep hzero hwaits).trans h), hready, rfl, ?_, hlink⟩
    exact (BitVec.getLsbD_or).trans (Bool.or_true _)
  case restart =>
    have h : Started (afterReset s) e (zeroisationComplete s) := by
      rw [zeroisationComplete_reset hzero hwaits]
      exact step2_started hstart hperst hdebug (cold_flashBad hflash hupdate hbusy) hrecord (hmacros.of_eq rfl rfl)
    refine ⟨_, rfl, h.state, h.zeroising, ?_, ?_, ?_, h.parts, ?_⟩
    · rw [h.pwr]; rfl
    · rw [h.pwr]; rfl
    · exact congrArg Gov.now h.gov
    · rw [h.gov]; rfl
  case off =>
    obtain ⟨u, hquiet, hover, h⟩ := zeroisationComplete_off hzero hwaits hvia hidle
    refine ⟨_, congrArg Host.Outcome.next h, rfl, rfl, rfl, rfl, hover, fun a => ?_⟩
    exact ⟨congrArg (bget · a) hquiet.stack, congrArg (bget · a) hquiet.scratch, congrArg (bget · a) hquiet.cim⟩

end Sys2Proof.Proofs
end

section
/-! SUPPORT. What ends with a partition reset leaves (R213, R311, R343, R398, R524). -/

namespace Sys2Proof.Machine

/-! ### Page entries whose marks change (R185, R186) -/

/-- Page entry `v` names the use and the owner that `w` names. -/
def SamePage (w v : W32) : Prop := attrOf v = attrOf w ∧ ownerOf v = ownerOf w

theorem SamePage.refl (w : W32) : SamePage w w := ⟨rfl, rfl⟩

theorem SamePage.trans {w v u : W32} (h : SamePage w v) (h' : SamePage v u) : SamePage w u := ⟨h'.1.trans h.1, h'.2.trans h.2⟩

/-- The marks in bits 7 and above say nothing of use and owner. -/
theorem samePage_setBit32 (w : W32) {i : Nat} (hi : 7 ≤ i) (b : Bool) : SamePage w (setBit32 w i b) := by
  have hlow (k : Nat) (hk : k < 7) : (setBit32 w i b).getLsbD k = w.getLsbD k := by
    unfold setBit32
    split
    · simp [BitVec.getLsbD_or, show k < i by omega]
    · simp [show k < i by omega, show k < 32 by omega]
  have hfield (lo n : Nat) (h : lo + n ≤ 7) : (setBit32 w i b).extractLsb' lo n = w.extractLsb' lo n := by
    refine BitVec.eq_of_getLsbD_eq fun k hk => ?_
    rw [BitVec.getLsbD_extractLsb', BitVec.getLsbD_extractLsb', hlow (lo + k) (by omega)]
  unfold SamePage attrOf ownerOf
  rw [hfield 0 3 (by decide), hfield 3 3 (by decide), hlow 6 (by decide)]
  exact ⟨rfl, rfl⟩

/-- From `s` to `t` no page entry changes but in its marks, and entries that agree with their complements still do. -/
structure PagesMarked (s t : State) : Prop where
  same : ∀ g, SamePage (s.page g).v (t.page g).v
  ok : PagesOk s → PagesOk t
  parts : t.parts = s.parts

namespace PagesMarked

theorem of_eq {s t : State} (hpages : t.pages = s.pages) (hparts : t.parts = s.parts) : PagesMarked s t := by
  refine ⟨fun g => ?_, fun h => h.of_pages hpages, hparts⟩
  unfold State.page
  rw [hpages]
  exact .refl _

theorem refl (s : State) : PagesMarked s s := of_eq rfl rfl

theorem trans {s t u : State} (h : PagesMarked s t) (h' : PagesMarked t u) : PagesMarked s u :=
  ⟨fun g => (h.same g).trans (h'.same g), fun hok => h'.ok (h.ok hok), h'.parts.trans h.parts⟩

theorem ite {s t u : State} {b : Prop} [Decidable b] (ht : PagesMarked s t) (hu : PagesMarked s u) : PagesMarked s (if b then t else u) := by
  split
  · exact ht
  · exact hu

theorem foldl {α : Type} {f : State → α → State} (hf : ∀ s a, PagesMarked s (f s a)) (l : List α) (s : State) :
    PagesMarked s (l.foldl f s) :=
  List.foldlRecOn (motive := PagesMarked s) l f (refl s) fun u h a _ => h.trans (hf u a)

theorem modCores {α : Type} (l : List α) (c : α → Nat) (f : α → Core → Core) (s : State) :
    PagesMarked s (l.foldl (fun s a => s.modCore (c a) (f a)) s) :=
  foldl (fun u a => (of_eq rfl rfl : PagesMarked u (u.modCore (c a) (f a)))) l s

theorem setPage (s : State) (g : Nat) {v : W32} (h : SamePage (s.page g).v v) : PagesMarked s (s.setPage g (Paired.of v)) := by
  refine ⟨fun x => ?_, fun hok x => ?_, rfl⟩
  · rw [State.setPage_page]
    split
    · next hx => exact hx ▸ h
    · exact .refl _
  · rw [State.setPage_page]
    split
    · exact Paired.of_ok _
    · exact hok x

theorem landWrite (s : State) (w : Write) : PagesMarked s (landWrite s w) := by
  have happly : PagesMarked s (applyWrite s w) := by
    unfold applyWrite
    split <;> exact of_eq rfl rfl
  unfold Machine.landWrite
  split
  · exact ite (refl s) happly
  · exact happly

theorem chvFault (s : State) (c : Nat) (op : EngineOp) (st : Status) : PagesMarked s (chvFault s c op st) := by
  unfold Machine.chvFault
  dsimp only
  split <;> exact of_eq rfl rfl

theorem cutTransfer (s : State) (c : Nat) (op : EngineOp) (l : Launched) : PagesMarked s (cutTransfer s c op l) := by
  unfold Machine.cutTransfer
  refine .trans ?_ (chvFault _ _ _ _)
  refine .trans ?_ (modCores _ (fun d : SlotDone => d.core) (fun d k => { k with slots := smod SlotE.fresh k.slots d.slot fun e =>
    { e with arrTick := 0xFFFFFFFFFFFFFFFF, arrCyc := 31 } }) _)
  refine .trans ?_ (foldl (fun u g => ite (refl u) (setPage u g (samePage_setBit32 _ (by decide) _))) _ _)
  exact .trans (t := (draw s).2) (of_eq rfl rfl) (foldl landWrite _ _)

theorem cutPart (s : State) (p : Nat) : PagesMarked s (cutPart s p) := by
  refine foldl (fun u c => foldl (fun u e => ?_) _ u) _ s
  split
  · exact ite (refl u) (cutTransfer u _ _ _)
  · exact refl u

end PagesMarked

/-! ### The work of a partition that ends -/

/-- The registers of a partition that outlast its reset. -/
def Part.SameSet (q r : Part) : Prop := r.st = q.st ∧ r.live = q.live ∧ r.baseEpoch = q.baseEpoch

/-- The contexts and the registers of the groups stay. -/
def Stands (s t : State) : Prop := t.ctxs = s.ctxs ∧ t.groups = s.groups

namespace Stands

theorem refl (s : State) : Stands s s := ⟨rfl, rfl⟩

theorem trans {s t u : State} (h : Stands s t) (h' : Stands t u) : Stands s u := ⟨h'.1.trans h.1, h'.2.trans h.2⟩

theorem foldl {α : Type} {f : State → α → State} (hf : ∀ s a, Stands s (f s a)) (l : List α) (s : State) : Stands s (l.foldl f s) :=
  List.foldlRecOn (motive := Stands s) l f (refl s) fun u h a _ => h.trans (hf u a)

theorem modPart (s : State) (p : Nat) (f : Part → Part) : Stands s (s.modPart p f) := ⟨rfl, rfl⟩

theorem of_errOnly {s t : State} (h : ErrOnly s t) : Stands s t := by
  obtain ⟨_, _, rfl⟩ := h
  exact refl s

theorem sweepSnaps (s : State) : Stands s (sweepSnaps s) := by
  obtain ⟨_, _, _, _, _, h⟩ := sweepSnaps_snapsOnly s
  rw [h]
  exact refl s

theorem freePages (s : State) (gs : List Nat) : Stands s (freePages s gs) := by
  obtain ⟨_, _, h⟩ := freePages_eq s gs
  rw [h]
  exact refl s

theorem freeKv (s : State) (p : Nat) (ns : List Nat) : Stands s (freeKv s p ns) := by
  unfold Machine.freeKv
  split <;> exact ⟨rfl, rfl⟩

theorem finish (s : State) (via : Via) (cmd ctx : BitVec 16) (st : Status) (value : Nat) (data : List Byte) :
    Stands s (finish s via cmd ctx st value data) := by
  obtain ⟨_, _, _, _, _, h, -⟩ := finish_eq s via cmd ctx st value data
  rw [h]
  exact ⟨rfl, rfl⟩

theorem endReqs (s : State) (p : Nat) (st : Status) : Stands s (endReqs s p st) := by
  unfold Machine.endReqs
  extract_lets rs noted completed freed
  have hnoted : Stands s noted := by unfold noted; split <;> exact ⟨rfl, rfl⟩
  have hcompleted : Stands noted completed := foldl (fun u r => of_errOnly (completeReq_errOnly u r st)) rs noted
  exact (((hnoted.trans hcompleted).trans (freeKv _ _ _)).trans (modPart _ _ _)).trans (sweepSnaps _)

theorem endTrain (s : State) (p : Nat) (st : Status) : Stands s (endTrain s p st) := by
  unfold Machine.endTrain endTrains
  exact foldl (fun u t => of_errOnly (finishTrain_errOnly u t st)) _ _

end Stands

/-- From `s` to `t` work of partition `p` ends: governor, ports and power stay, contexts and groups, what outlasts a reset of the partition, and
the pages but for those that become FREE; no alert falls. -/
structure ResetStays (p : Nat) (s t : State) : Prop where
  work : WorkOnly s t
  alert : ∀ b, s.err.alert.getLsbD b = true → t.err.alert.getLsbD b = true
  stands : Stands s t
  part : (s.part p).SameSet (t.part p)
  page : ∀ g, attrOf (t.page g).v = .free ∨ SamePage (s.page g).v (t.page g).v

namespace ResetStays

variable {p : Nat} {s t u : State}

theorem of_eq (work : WorkOnly s t) (herr : t.err = s.err) (hstands : Stands s t) (hparts : t.parts = s.parts) (hpages : t.pages = s.pages) :
    ResetStays p s t := by
  refine ⟨work, fun b h => herr ▸ h, hstands, ?_, fun g => .inr ?_⟩
  · unfold State.part
    rw [hparts]
    exact ⟨rfl, rfl, rfl⟩
  · unfold State.page
    rw [hpages]
    exact .refl _

theorem refl (p : Nat) (s : State) : ResetStays p s s := of_eq (.refl s) rfl (.refl s) rfl rfl

theorem trans (h : ResetStays p s t) (h' : ResetStays p t u) : ResetStays p s u := by
  obtain ⟨hst, hlive, hepoch⟩ := h.part
  obtain ⟨hst', hlive', hepoch'⟩ := h'.part
  refine ⟨h.work.trans h'.work, fun b hb => h'.alert b (h.alert b hb), h.stands.trans h'.stands,
    ⟨hst'.trans hst, hlive'.trans hlive, hepoch'.trans hepoch⟩, fun g => ?_⟩
  rcases h'.page g with hfree | hsame'
  · exact .inl hfree
  · exact (h.page g).imp hsame'.1.trans fun hsame => hsame.trans hsame'

theorem ite {b : Prop} [Decidable b] (ht : ResetStays p s t) (hu : ResetStays p s u) : ResetStays p s (if b then t else u) := by
  split
  · exact ht
  · exact hu

theorem modPart (s : State) (p : Nat) {f : Part → Part} (hf : ∀ q : Part, q.SameSet (f q)) : ResetStays p s (s.modPart p f) := by
  refine ⟨.modPart s p f, fun _ h => h, ⟨rfl, rfl⟩, ?_, fun g => .inr (.refl _)⟩
  rw [State.modPart_part, if_pos rfl]
  exact hf _

theorem modCores (s : State) (cs : List Nat) (f : Core → Core) : ResetStays p s (cs.foldl (fun s c => s.modCore c f) s) := by
  obtain ⟨_, h⟩ := modList_eq s cs f
  rw [show cs.foldl (fun s c => s.modCore c f) s = _ from h]
  exact of_eq (.of_eq rfl rfl rfl rfl) rfl ⟨rfl, rfl⟩ rfl rfl

theorem marked (work : WorkOnly s t) (herr : t.err = s.err) (hstands : Stands s t) (h : PagesMarked s t) : ResetStays p s t := by
  refine ⟨work, fun b hb => herr ▸ hb, hstands, ?_, fun g => .inr (h.same g)⟩
  unfold State.part
  rw [h.parts]
  exact ⟨rfl, rfl, rfl⟩

theorem page_of_givesBack (h : GivesBack s t) (g : Nat) : attrOf (t.page g).v = .free ∨ SamePage (s.page g).v (t.page g).v := by
  rcases h.page g with hsame | ⟨hfree, -⟩
  · exact .inr (hsame ▸ .refl _)
  · exact .inl hfree

theorem freePages (s : State) (gs : List Nat) : ResetStays p s (freePages s gs) := by
  refine ⟨?_, (WorkEnds.freePages s gs).alert, .freePages s gs, ?_, fun g => ?_⟩
  · obtain ⟨_, _, h⟩ := freePages_eq s gs
    rw [h]
    exact .of_eq rfl rfl rfl rfl
  · obtain ⟨_, _, h⟩ := freePages_eq s gs
    rw [h]
    exact ⟨rfl, rfl, rfl⟩
  · exact page_of_givesBack (.freePages s gs) g

theorem endReqs (s : State) (p : Nat) (st : Status) : ResetStays p s (endReqs s p st) := by
  refine ⟨.endReqs s p st, (WorkEnds.endReqs s p st).alert, .endReqs s p st, ?_, fun g => ?_⟩
  · obtain ⟨_, h⟩ := endReqs_part s p st
    rw [h]
    exact ⟨rfl, rfl, rfl⟩
  · exact page_of_givesBack (.endReqs s p st) g

theorem endTrain (s : State) (p : Nat) (st : Status) : ResetStays p s (endTrain s p st) := by
  refine ⟨.endTrain s p st, (WorkEnds.endTrains s p _ st).alert, Stands.endTrain s p st, ?_, fun g => ?_⟩
  · obtain ⟨_, h⟩ := endTrain_part s p st
    rw [h]
    exact ⟨rfl, rfl, rfl⟩
  · exact page_of_givesBack (.endTrain s p st) g

theorem cutPart (s : State) (p : Nat) : ResetStays p s (cutPart s p) := by
  obtain ⟨_, _, _, _, _, _, _, h⟩ := JobsEnd.cutPart s p
  exact marked (.cutPart s p) (by rw [h]) (by rw [h]; exact ⟨rfl, rfl⟩) (.cutPart s p)

theorem endJobNow (s : State) (p : Nat) (img : ImgState) (st : Status) (seq : SeqState) : ResetStays p s (endJobNow s p img st seq) := by
  unfold Machine.endJobNow
  split
  · exact refl p s
  · next i _ =>
    refine .trans (cutPart s p) (.trans ?_ (modPart _ p fun _ => ⟨rfl, rfl, rfl⟩))
    exact .trans (modCores _ _ _) (modCores _ _ _)

theorem abandonCkpt (s : State) (p : Nat) (cause : Status) : ResetStays p s (abandonCkpt s p cause) := by
  unfold Machine.abandonCkpt
  dsimp only
  refine ite (refl p s) (.trans ?_ (modPart _ p fun _ => ⟨rfl, rfl, rfl⟩))
  obtain ⟨ps, h⟩ : ∃ ps, (s.part p).ckpt.openPages.foldl (fun s g =>
      s.setPage g (Paired.of (setBit32 (setBit32 (s.page g).v 7 false) 8 false))) s = { s with pages := ps } := by
    refine List.foldlRecOn (motive := fun u : State => ∃ ps, u = { s with pages := ps }) _ _ ⟨_, rfl⟩ fun u hu g _ => ?_
    obtain ⟨_, rfl⟩ := hu
    exact ⟨_, rfl⟩
  refine marked (by rw [h]; exact .of_eq rfl rfl rfl rfl) (by rw [h]) (by rw [h]; exact ⟨rfl, rfl⟩) (.foldl (fun u g => .setPage u g ?_) _ s)
  exact (samePage_setBit32 _ (by decide) false).trans (samePage_setBit32 _ (by decide) false)

theorem finish (s : State) (via : Via) (cmd ctx : BitVec 16) (st : Status) (value : Nat) (data : List Byte) :
    ResetStays p s (finish s via cmd ctx st value data) := by
  obtain ⟨_, _, _, _, _, h, -⟩ := finish_eq s via cmd ctx st value data
  refine ⟨.finish _ _ _ _ _ _ _, (WorkEnds.finish s via cmd ctx st value data).alert, .finish _ _ _ _ _ _ _, ?_, fun g => .inr ?_⟩
  · rw [h]
    exact ⟨rfl, rfl, rfl⟩
  · rw [h]
    exact .refl _

theorem putReply (h : PagesOk s) (g : Nat) (bs : List Byte) : ResetStays p s (putReply s g bs) := by
  unfold Machine.putReply
  split
  · rw [onPages_of_ok _ fun x _ => h x]
    exact of_eq (.of_eq rfl rfl rfl rfl) rfl ⟨rfl, rfl⟩ rfl rfl
  · exact refl p s

theorem endLoad (h : LoadEnds s p) (st : Status) : ResetStays p s (endLoad s p st) := by
  unfold Machine.endLoad
  split
  · exact refl p s
  · next l hl =>
    have hpages : PagesOk s := h.resolve_left (by simp [hl])
    extract_lets base ended
    have hbase : ResetStays p s base ∧ PagesOk base := by
      by_cases hw : l.written = true
      · rw [show base = Machine.freePages (clearRanges s l.res.info) _ from if_pos hw]
        exact ⟨.trans (modCores s _ _) (freePages _ _), (KeepsBoxes.clearLoad hpages _ _).2⟩
      · rw [show base = s from if_neg hw]
        exact ⟨refl p s, hpages⟩
    have hended : PagesOk ended := hbase.2
    have hunloaded : ResetStays p base ended := modPart base p fun _ => ⟨rfl, rfl, rfl⟩
    exact (hbase.1.trans hunloaded).trans ((putReply hended _ _).trans (finish _ _ _ _ _ _ _))

end ResetStays

/-- The end of a job marks pages, and leaves the load of its partition. -/
theorem endJobNow_load (s : State) (p : Nat) (img : ImgState) (st : Status) (seq : SeqState) :
    (PagesOk s → PagesOk (endJobNow s p img st seq)) ∧ ((endJobNow s p img st seq).part p).load = (s.part p).load := by
  unfold endJobNow
  split
  · exact ⟨id, rfl⟩
  · next i _ =>
    extract_lets cut saved idle
    have hidle : PagesMarked s idle := ((PagesMarked.cutPart s p).trans (.modCores _ _ _ _)).trans (.modCores _ _ _ _)
    refine ⟨hidle.ok, ?_⟩
    rw [State.modPart_part, if_pos rfl]
    unfold State.part
    rw [hidle.parts]
    rfl

/-- The end of a job keeps what the end of a load asks for. -/
theorem LoadEnds.endJobNow {s : State} {p : Nat} (h : LoadEnds s p) (img : ImgState) (st : Status) (seq : SeqState) :
    LoadEnds (endJobNow s p img st seq) p := by
  obtain ⟨hpages, hload⟩ := endJobNow_load s p img st seq
  exact h.imp hload.trans hpages

end Sys2Proof.Machine
end

section
/-! SUPPORT. Partition resets (R469, R524). -/

namespace Sys2Proof.Machine

/-! ### Locks that are broken (R469) -/

/-- From `s` to `t` mailboxes change and faults are recorded; no alert falls. -/
def BoxesOnly (s t : State) : Prop := (∃ bs e x, t = { s with mboxes := bs, err := e, cxl := x }) ∧
  ∀ b, s.err.alert.getLsbD b = true → t.err.alert.getLsbD b = true

namespace BoxesOnly

theorem refl (s : State) : BoxesOnly s s := ⟨⟨_, _, _, rfl⟩, fun _ h => h⟩

theorem trans {s t u : State} (h : BoxesOnly s t) (h' : BoxesOnly t u) : BoxesOnly s u := by
  obtain ⟨⟨_, _, _, rfl⟩, halert⟩ := h
  obtain ⟨⟨_, _, _, rfl⟩, halert'⟩ := h'
  exact ⟨⟨_, _, _, rfl⟩, fun b hb => halert' b (halert b hb)⟩

theorem modMbox (s : State) (n : Nat) (f : Mbox → Mbox) : BoxesOnly s (s.modMbox n f) := ⟨⟨_, _, _, rfl⟩, fun _ h => h⟩

theorem recordNow (s : State) (e : FaultEv) : BoxesOnly s (recordNow s e) := by
  refine ⟨?_, (WorkEnds.recordNow s e).alert⟩
  obtain ⟨_, _, h⟩ := (ErrOnly.refl s).recordNow e
  exact ⟨_, _, _, h⟩

theorem breakLock (s : State) (n : Nat) : BoxesOnly s (breakLock s n) := by
  unfold Machine.breakLock
  exact ((modMbox s n _).trans (recordNow _ _)).trans (modMbox _ 63 _)

theorem breakLocksOf (s : State) (ep : Nat) : BoxesOnly s (breakLocksOf s ep) := by
  refine List.foldlRecOn (motive := BoxesOnly s) _ _ (refl s) fun u hu n _ => ?_
  split
  · exact hu.trans (breakLock u n)
  · exact hu

end BoxesOnly

/-! ### Groups that are zeroed -/

theorem zeroGroup_scratch (s : State) (g a : Nat) :
    bget (zeroGroup s g).scratch a = if 80 * g * 2 ^ 21 ≤ a ∧ a < 80 * (g + 1) * 2 ^ 21 then 0 else bget s.scratch a := by
  obtain ⟨_, _, _, _, _, h⟩ := zeroGroup_eq s g
  rw [h]
  exact bget_bzero _ _ _ _

/-- The scratchpads of a list of groups read zero once they are zeroed. -/
theorem foldl_zeroGroup_scratch {gs : List Nat} {g a : Nat} (hg : g ∈ gs) (hlo : 80 * g * 2 ^ 21 ≤ a) (hhi : a < 80 * (g + 1) * 2 ^ 21)
    (s : State) : bget (gs.foldl zeroGroup s).scratch a = 0 := by
  have hkeeps (u : State) (x : Nat) (h : bget u.scratch a = 0) : bget (zeroGroup u x).scratch a = 0 := by
    rw [zeroGroup_scratch]
    split
    · rfl
    · exact h
  induction gs generalizing s with
  | nil => exact absurd hg List.not_mem_nil
  | cons x gs ih =>
    rcases List.mem_cons.mp hg with rfl | hg
    · refine List.foldlRecOn (motive := fun u : State => bget u.scratch a = 0) gs zeroGroup ?_ fun u hu x _ => hkeeps u x hu
      rw [zeroGroup_scratch, if_pos ⟨hlo, hhi⟩]
    · exact ih hg (zeroGroup s x)

/-! ### The reset (R524) -/

/-- The registers of partition `q` once its work has ended and its memory is cleared: both images are empty, and the cause is kept. -/
def Part.resetBy (q : Part) (st : Status) : Part :=
  { q with img := q.img.map fun g => { Img.fresh with last := if g.st == .empty then g.last else st },
           layout := [], layoutFrom := [], dill := .fresh, resumes := [], resume := none, saving := false, yield_ := none, stop := none,
           running := none, pauseFrom := none, reloadDue := false, windowDone := [], lastFault := st }

/-- The work of a partition before its reset clears memory: requests, job, load and checkpoint end. -/
def resetWork (s : State) (p : Nat) (st : Status) : State :=
  abandonCkpt (endLoad (endJobNow (endTrain (endReqs s p st) p st) p .stopped st .idle) p st) p st

/-- The memory of a partition that a reset clears: tables, groups, MUTABLE and STATE pages. -/
def resetMemory (s : State) (p : Nat) : State :=
  let s := modCores s p Core.cleared
  freeAttrs ((maskList 16 (s.part p).live.groups.v).foldl zeroGroup s) p [.mutable, .state]

theorem partitionReset_eq {s : State} {p : Nat} (st : Status) (hst : (s.part p).st ≠ 0) : partitionReset s p st =
    disableBox (disableBox (breakLocksOf ((dropLatches ((resetMemory (resetWork s p st) p).modPart p fun q => q.resetBy st) p).modPwr
      fun w => { w with rstPtn := w.rstPtn ||| (1#8 <<< p) }) (8 + p)) (24 + p)) (32 + p) :=
  if_neg hst

theorem resetWork_stays {s : State} {p : Nat} (hload : LoadEnds s p) (st : Status) : ResetStays p s (resetWork s p st) :=
  ((ResetStays.endReqs s p st).trans (.endTrain _ p st)).trans
    (((ResetStays.endJobNow _ p _ st _).trans (.endLoad ((hload.endRequests st).endJobNow _ st _) st)).trans (.abandonCkpt _ p st))

theorem zeroGroups_stays {p : Nat} (gs : List Nat) (s : State) : ResetStays p s (gs.foldl zeroGroup s) := by
  obtain ⟨_, _, _, _, _, _, h⟩ := foldl_zeroGroup_eq gs s
  rw [h]
  exact .of_eq (.of_eq rfl rfl rfl rfl) rfl ⟨rfl, rfl⟩ rfl rfl

theorem resetMemory_stays (s : State) (p : Nat) : ResetStays p s (resetMemory s p) :=
  .trans (.modCores s _ _) (.trans (zeroGroups_stays _ _) (.freePages _ _))

/-- Clearing the tables of its cores changes the cores alone. -/
theorem modCores_eq (s : State) (p : Nat) (f : Core → Core) : ∃ ks, modCores s p f = { s with cores := ks } := modList_eq s (coresOf s p) f

/-- The MUTABLE and STATE pages that the partition owns before its memory is cleared are FREE then. -/
theorem resetMemory_page {s : State} {p g : Nat} (howner : ownerOf (s.page g).v = some p)
    (hattr : attrOf (s.page g).v = .mutable ∨ attrOf (s.page g).v = .state) : attrOf ((resetMemory s p).page g).v = .free := by
  unfold resetMemory freeAttrs
  obtain ⟨ks, hcores⟩ := modCores_eq s p Core.cleared
  rw [hcores]
  extract_lets cleared
  obtain ⟨_, _, _, _, _, _, hzeroed⟩ := foldl_zeroGroup_eq (maskList 16 (cleared.part p).live.groups.v) cleared
  have hpage : ((maskList 16 (cleared.part p).live.groups.v).foldl zeroGroup cleared).page g = s.page g :=
    (congrArg (fun u : State => u.page g) hzeroed).trans rfl
  rw [freePages_page, if_pos]
  · decide
  · refine List.mem_filter.mpr ⟨mem_ownedPages.mpr (by rwa [hpage]), ?_⟩
    rw [hpage]
    rcases hattr with h | h <;> rw [h] <;> decide

/-- The scratchpads of the partition's groups read zero once its memory is cleared. -/
theorem resetMemory_scratch {s : State} {p c a : Nat} (hc : c < 1280) (hin : (s.part p).live.groups.v.getLsbD (groupOf c) = true)
    (ha : a < 2 ^ 21) : bget (resetMemory s p).scratch (c * 2 ^ 21 + a) = 0 := by
  unfold resetMemory freeAttrs
  obtain ⟨ks, hcores⟩ := modCores_eq s p Core.cleared
  rw [hcores]
  extract_lets cleared
  have hpart : cleared.part p = s.part p := rfl
  obtain ⟨_, _, hfreed⟩ := freePages_eq ((maskList 16 (cleared.part p).live.groups.v).foldl zeroGroup cleared)
    ((ownedPages ((maskList 16 (cleared.part p).live.groups.v).foldl zeroGroup cleared) p).filter fun g =>
      [Attr.mutable, Attr.state].contains (attrOf (((maskList 16 (cleared.part p).live.groups.v).foldl zeroGroup cleared).page g).v))
  have hgroup : groupOf c < 16 := by unfold groupOf; omega
  have hmem : groupOf c ∈ maskList 16 (cleared.part p).live.groups.v := (mem_maskList _ hgroup).mpr (by rwa [hpart])
  rw [hfreed]
  have hplace : 80 * groupOf c ≤ c ∧ c < 80 * (groupOf c + 1) := by unfold groupOf; omega
  exact foldl_zeroGroup_scratch hmem (by omega) (by omega) cleared

/-- What a reset leaves of partition `p` of `s` (R524). -/
structure WasReset (s : State) (p : Nat) (st : Status) (t : State) : Prop where
  running : (t.part p).running = none
  set : (s.part p).SameSet (t.part p)
  lastFault : (t.part p).lastFault = st
  img : ∀ g ∈ (t.part p).img, g.st = .empty
  stands : Stands s t
  pwr : t.pwr = { s.pwr with rstPtn := s.pwr.rstPtn ||| (1#8 <<< p) }
  gov : t.gov = s.gov
  state : t.sys.state = s.sys.state
  alert : ∀ b, s.err.alert.getLsbD b = true → t.err.alert.getLsbD b = true
  page : ∀ g ∈ ownedPages s p, attrOf (s.page g).v = .mutable ∨ attrOf (s.page g).v = .state → attrOf (t.page g).v = .free
  scratch : ∀ c a, c < 1280 → (s.part p).live.groups.v.getLsbD (groupOf c) = true → a < 2 ^ 21 → bget t.scratch (c * 2 ^ 21 + a) = 0

/-- The end of a reset: registers, latches, RST_PTN and mailboxes (R524, R569). -/
theorem resetEnd_eq (v : State) (p : Nat) : ∃ bs e x y,
    disableBox (disableBox (breakLocksOf ((dropLatches v p).modPwr fun w => { w with rstPtn := w.rstPtn ||| (1#8 <<< p) }) (8 + p))
      (24 + p)) (32 + p) =
        { v with sys := y, pwr := { v.pwr with rstPtn := v.pwr.rstPtn ||| (1#8 <<< p) }, mboxes := bs, err := e, cxl := x } ∧
      y.state = v.sys.state ∧ ∀ b, v.err.alert.getLsbD b = true → e.alert.getLsbD b = true := by
  have hboxes (w : State) : BoxesOnly w (disableBox (disableBox (breakLocksOf w (8 + p)) (24 + p)) (32 + p)) :=
    ((BoxesOnly.breakLocksOf w (8 + p)).trans (.modMbox _ (24 + p) _)).trans (.modMbox _ (32 + p) _)
  obtain ⟨⟨bs, e, x, h⟩, halert⟩ := hboxes ((dropLatches v p).modPwr fun w => { w with rstPtn := w.rstPtn ||| (1#8 <<< p) })
  rw [h] at halert
  exact ⟨bs, e, x, _, h, rfl, halert⟩

theorem partitionReset_wasReset {s : State} {p : Nat} (st : Status) (hst : (s.part p).st ≠ 0) (hload : LoadEnds s p) :
    WasReset s p st (partitionReset s p st) := by
  rw [partitionReset_eq st hst]
  have hwork := resetWork_stays hload st
  have hstays := hwork.trans (resetMemory_stays (resetWork s p st) p)
  have hpages (g : Nat) (hg : g ∈ ownedPages s p) (hattr : attrOf (s.page g).v = .mutable ∨ attrOf (s.page g).v = .state) :
      attrOf ((resetMemory (resetWork s p st) p).page g).v = .free := by
    rcases hwork.page g with hfree | ⟨hsame, howner⟩
    · refine ((resetMemory_stays (resetWork s p st) p).page g).elim id fun h => h.1.trans hfree
    · exact resetMemory_page (howner.trans (mem_ownedPages.mp hg)) (by rwa [hsame])
  have hscratch (c a : Nat) (hc : c < 1280) (hin : (s.part p).live.groups.v.getLsbD (groupOf c) = true) (ha : a < 2 ^ 21) :
      bget (resetMemory (resetWork s p st) p).scratch (c * 2 ^ 21 + a) = 0 :=
    resetMemory_scratch hc (by rwa [hwork.part.2.1]) ha
  generalize resetMemory (resetWork s p st) p = u at hstays hpages hscratch ⊢
  obtain ⟨bs, e, x, y, h, hstate, halert⟩ := resetEnd_eq (u.modPart p fun q => q.resetBy st) p
  have hpart : (u.modPart p fun q => q.resetBy st).part p = (u.part p).resetBy st := (State.modPart_part u p _ p).trans (if_pos rfl)
  have hkept : u.sys.state = s.sys.state := by
    obtain ⟨_, _, _, hsys⟩ := hstays.work.sys
    rw [hsys]
  rw [h]
  refine ⟨?_, ?_, ?_, ?_, hstays.stands, ?_, hstays.work.gov, ?_, fun b hb => halert b (hstays.alert b hb), hpages, hscratch⟩
  · exact congrArg Part.running hpart
  · change (s.part p).SameSet ((u.modPart p fun q => q.resetBy st).part p)
    rw [hpart]
    exact hstays.part
  · exact congrArg Part.lastFault hpart
  · change ∀ g ∈ ((u.modPart p fun q => q.resetBy st).part p).img, g.st = .empty
    rw [hpart]
    intro g hg
    obtain ⟨g', -, rfl⟩ := List.mem_map.mp hg
    rfl
  · exact congrArg (fun w : Pwr => { w with rstPtn := w.rstPtn ||| (1#8 <<< p) }) hstays.work.pwr
  · exact hstate.trans hkept

end Sys2Proof.Machine
end

section
/-! SUPPORT. Rails that fault (R514, R520, R532, R545, Table 17-2). -/

namespace Sys2Proof.Machine

/-! ### Records and loads -/

/-- A fault that is recorded raises ERR_ALERT bit 0 (R546). -/
theorem recordNow_alert (s : State) (e : FaultEv) : (recordNow s e).err.alert.getLsbD 0 = true := by
  unfold recordNow recordAt
  extract_lets r ix full err ringed err' logged lost reported
  exact (WorkEnds.fireV1 _).alert 0 (raiseAlert_getLsbD reported (by decide))

theorem LoadEnds.of_eq {s t : State} {p : Nat} (h : LoadEnds s p) (hparts : t.parts = s.parts) (hpages : t.pages = s.pages) : LoadEnds t p := by
  refine h.imp (fun hnone => ?_) fun hok => hok.of_pages hpages
  unfold State.part at hnone ⊢
  rwa [hparts]

/-! ### A domain whose rail faults (R520) -/

/-- A powered domain after its rail fault: off, and marked. -/
def railOff (s : State) (d : Nat) : State :=
  s.modPwr fun w => { w with fault := w.fault ||| (1#24 <<< d), on := w.on &&& ~~~(1#24 <<< d) }

theorem railOff_pwr (s : State) (d : Fin 24) : (railOff s d).pwr.fault.getLsbD d = true ∧ (railOff s d).pwr.on.getLsbD d = false := by
  refine ⟨?_, ?_⟩
  · exact (BitVec.getLsbD_or).trans (by simp)
  · exact (getLsbD_clearBit s.pwr.on d d d.isLt).trans (by simp)

/-- The rail of a domain other than PD0. -/
theorem railFault_eq {s : State} {d : Nat} (hon : s.pwr.on.getLsbD d = true) (hd : d ≠ 0) : railFault s d =
    if d = 1 ∨ d = 18 ∨ d = 19 ∨ d = 23 then
      enterParsley (discardIn (recordNow (railOff s d)
        { kind := 0x18, cls := 1, status := St.degraded, scope := .module, source := d, detail := d, detail2 := 0, parsley := true,
          reset := false }) .module) 6 d
    else if d < 18 then groupRail (railOff s d) d (d - 2)
    else if d = 20 then portsOff (railOff s d) [0, 1, 2, 3]
    else if d = 21 then portsOff (railOff s d) [4, 5, 6]
    else linkDown (railOff s d) := by
  unfold railFault
  rw [if_neg (by simp [hon]), if_neg hd]
  rfl

/-! ### Ports of a domain that goes off (R514) -/

theorem portDown_pwr (s : State) (n kind : Nat) : (portDown s n kind).pwr = s.pwr := by
  unfold portDown
  extract_lets p cause served recorded alerted lostMaster killed cut voided downed unaligned lost boxed
  have hserved : served.pwr = s.pwr := by
    obtain ⟨_, h⟩ := servePort_eq s n
    exact (congrArg State.pwr h : (servePort s n).pwr = _)
  have hvoided : WorkOnly served voided := by
    refine .trans ?_ (.foldl (fun u l => .modCore u _ _) _ _)
    refine .trans ?_ (.cutPeer _ n)
    refine .trans ?_ (.killXsends _ _)
    exact .trans (.recordNow _ _) (.raiseAlert _ 5)
  have hunaligned : unaligned.pwr = voided.pwr := by
    unfold unaligned
    split <;> rfl
  have hlost : WorkOnly unaligned (if (boxed.mbox (56 + n)).owner.v.toNat = 16 + n then breakLock boxed (56 + n) else boxed) := by
    refine .trans ?_ (.ite (.breakLock _ _) (.refl _))
    exact .trans (.foldl (WorkOnly.portLostFor n) _ _) (.disableBox _ _)
  split
  · rfl
  · exact hlost.pwr.trans (hunaligned.trans (hvoided.pwr.trans hserved))

theorem portsOff_pwr (s : State) (ns : List Nat) : (portsOff s ns).pwr = s.pwr :=
  List.foldlRecOn (motive := fun u : State => u.pwr = s.pwr) ns _ rfl fun u hu n _ => (portDown_pwr u n 6).trans hu

theorem portDown_port_ne {s : State} {n m : Nat} (hm : m ≠ n) (kind : Nat) : (portDown s n kind).port m = s.port m := by
  by_cases hup : (s.port n).state = 0
  · rw [show portDown s n kind = s from if_pos hup]
  · exact (portDown_frame hup kind).2.1 m hm

/-- A port that is up when its domain goes off is down with kind 6. -/
theorem portsOff_port {s : State} {ns : List Nat} {n : Nat} (hns : ns.Nodup) (hn : n ∈ ns) (hup : (s.port n).state ≠ 0) :
    ((portsOff s ns).port n).state = 0 ∧ ((portsOff s ns).port n).downKind = 6 := by
  obtain ⟨u, hu, h⟩ := foldl_read_of_only (f := fun s n => portDown s n 6) (fun u : State => u.port n) hns hn
    (fun u m hm => portDown_port_ne (Ne.symm hm) 6) s
  obtain ⟨⟨_, hdown⟩, -⟩ := portDown_frame (s := u) (n := n) (by rw [show u.port n = s.port n from hu]; exact hup) 6
  have hport : (portsOff s ns).port n = _ := h.trans hdown
  rw [hport]
  exact ⟨rfl, rfl⟩

/-! ### The rail of a group (R520, Table 17-6) -/

/-- The rail fault of a group marks it before its partition resets; its record and a commit withdrawn leave partitions, pages and power. -/
theorem groupRail_eq (s : State) (d g : Nat) : ∃ u, (u.group g).railOff = true ∧ u.parts = s.parts ∧ u.pages = s.pages ∧ u.pwr = s.pwr ∧
    u.sys = s.sys ∧ groupRail s d g = match partOfGroup s g with
      | some q => if (s.part q).st != 3 then discardIn (partitionReset u q St.internal) (.partition q) else u
      | none => u := by
  unfold groupRail
  extract_lets p live marked recorded withdrawn src u
  have hmarked : (marked.group g).railOff = true := by
    unfold marked
    rw [State.modGroup_group, if_pos rfl]
  obtain ⟨c, hu⟩ : ∃ c, u = { recorded with commit := c } := by
    unfold u
    split <;> exact ⟨_, rfl⟩
  refine ⟨u, ?_, ?_, ?_, ?_, ?_, ?_⟩
  · rw [hu]
    exact (congrArg GroupSt.railOff (recordNow_group marked _ g)).trans hmarked
  · rw [hu]
    exact recordNow_parts marked _
  · rw [hu]
    exact recordNow_pages marked _
  · rw [hu]
    exact recordNow_pwr marked _
  · rw [hu]
    exact recordNow_sys marked _
  · unfold live p
    cases partOfGroup s g <;> rfl

end Sys2Proof.Machine
end

section
/-! SUPPORT. The effects of rail faults by their domain, and the Dill watchdog (R520, R524, R545). -/

namespace Sys2Proof.Machine

/-- The partition of a group whose rail faults is reset, unless a release already holds it; the module stays in READY (R520). -/
theorem groupRail_effect {s : State} (d g : Nat) (hready : s.sys.state = 1) (hload : ∀ p, LoadEnds s p) :
    ((groupRail s d g).group g).railOff = true ∧ (groupRail s d g).pwr.fault = s.pwr.fault ∧ (groupRail s d g).pwr.on = s.pwr.on ∧
      (groupRail s d g).sys.state = 1 ∧
      ∀ p, partOfGroup s g = some p → (s.part p).st ≠ 3 →
        ((groupRail s d g).part p).running = none ∧ ((groupRail s d g).part p).lastFault = St.internal := by
  obtain ⟨u, hmarked, hparts, hpages, hpwr, hsys, h⟩ := groupRail_eq s d g
  rw [h]
  cases hp : partOfGroup s g with
  | none => exact ⟨hmarked, by rw [hpwr], by rw [hpwr], by rw [hsys, hready], nofun⟩
  | some q =>
    by_cases hlive : ((s.part q).st != 3) = true
    · have hst : (u.part q).st ≠ 0 := by
        unfold State.part
        rw [hparts]
        have hfound := List.find?_some (p := fun p => (s.part p).st != 0 && (s.part p).live.groups.v.getLsbD g) hp
        exact bne_iff_ne.mp (Bool.and_eq_true_iff.mp hfound).1
      have hreset := partitionReset_wasReset St.internal hst ((hload q).of_eq hparts hpages)
      dsimp only
      rw [if_pos hlive]
      refine ⟨?_, ?_, ?_, ?_, fun p heq _ => ?_⟩
      · refine (congrArg GroupSt.railOff ?_).trans hmarked
        exact congrArg (sget GroupSt.fresh · g) hreset.stands.2
      · exact (congrArg Pwr.fault hreset.pwr).trans (by rw [hpwr])
      · exact (congrArg Pwr.on hreset.pwr).trans (by rw [hpwr])
      · exact hreset.state.trans (by rw [hsys, hready])
      · cases heq
        exact ⟨hreset.running, hreset.lastFault⟩
    · dsimp only
      rw [if_neg hlive]
      refine ⟨hmarked, by rw [hpwr], by rw [hpwr], by rw [hsys, hready], fun p heq hst => ?_⟩
      cases heq
      exact absurd (bne_iff_ne.mpr hst) hlive

/-- The Dill watchdog records its expiry, and resets its partition with INTERNAL (R545). -/
theorem dillWatchdog_eq {s : State} {p : Nat} (hready : s.sys.state = 1) (hon : s.pwr.on.getLsbD 1 = true) :
    ∃ e, dillWatchdog s p = partitionReset (recordNow s e) p St.internal :=
  ⟨_, if_neg (by simp [watchdogsRun, hready, hon])⟩

end Sys2Proof.Machine
end

section
/-! PROOFS. O51: partition resets and rails (R520, R524, R545). -/

namespace Sys2Proof.Proofs
open Sys2Proof Sys2Proof.Machine

/-- Settles O51: every partition reset is `partitionReset_wasReset`; a rail fault switches its domain off (`railOff_pwr`) and goes by its
domain (`railFault_eq`) into Parsley, to its group (`groupRail_effect`) or to its ports (`portsOff_port`). -/
theorem partitionResetsAndRails : Obligations.PartitionResetsAndRails := by
  unfold Obligations.PartitionResetsAndRails
  intro s
  refine ⟨fun p st hst hkept hload => ?reset, fun p hready hon hst hkept hload => ?watchdog,
    fun d hoff => congrArg Host.Outcome.next (if_pos (by rw [hoff]; rfl)),
    fun d hon hready => ⟨fun hd => ?parsley, fun hlo hhi hload => ?group, fun hd => ?ports⟩⟩
  case reset =>
    obtain ⟨hrun, ⟨hst', hlive, hepoch⟩, hfault, himg, ⟨hctxs, -⟩, hpwr, -, -, -, hpages, hscratch⟩ :=
      partitionReset_wasReset st hst hload
    refine ⟨_, congrArg Host.Outcome.next ((if_neg (by simp [hkept])).trans (if_neg hst)), hrun, hst', hlive, hepoch, hctxs, hfault, himg, ?_,
      hpages, hscratch⟩
    refine (congrArg (fun w : Pwr => w.rstPtn.getLsbD p) hpwr).trans ((BitVec.getLsbD_or).trans ?_)
    simp
  case watchdog =>
    obtain ⟨e, h⟩ := dillWatchdog_eq (p := p) hready hon
    have hreset := partitionReset_wasReset (s := recordNow s e) (p := p) St.internal (by rwa [recordNow_part])
      (hload.of_eq (recordNow_parts s e) (recordNow_pages s e))
    refine ⟨_, congrArg Host.Outcome.next ((if_neg (by simp [hkept])).trans h), hreset.running, hreset.lastFault, ?_,
      hreset.alert 0 (recordNow_alert s e)⟩
    exact hreset.set.2.1.trans (congrArg Part.live (recordNow_part s e p))
  case parsley =>
    have hnot : d.val ≠ 0 := by rcases hd with rfl | rfl | rfl | rfl <;> decide
    have hvals : d.val = 1 ∨ d.val = 18 ∨ d.val = 19 ∨ d.val = 23 := by
      rcases hd with rfl | rfl | rfl | rfl <;> decide
    have h := railFault_eq hon hnot
    rw [if_pos hvals] at h
    refine ⟨_, congrArg Host.Outcome.next h, ?_⟩
    generalize hu : discardIn (recordNow (railOff s d) _) .module = u
    have hready' : u.sys.state = 1 := by rw [← hu]; exact (congrArg Sys.state (recordNow_sys (railOff s d) _)).trans hready
    have hopen : parsleyOpen u = true := parsleyOpen_of_ready hready'
    have hpwr : u.pwr = (railOff s d).pwr := by rw [← hu]; exact recordNow_pwr (railOff s d) _
    obtain ⟨hstate, hcause, env, henter⟩ := enterParsley_registers hopen 6 d
    obtain ⟨hfault, hon⟩ := railOff_pwr s d
    rw [henter, hpwr]
    exact ⟨hstate, hcause, enterParsley_source hopen 6 d, hfault, hon⟩
  case group =>
    have h := railFault_eq hon (by omega)
    rw [if_neg (by omega), if_pos hhi] at h
    obtain ⟨hmarked, hfault, hoff, hstate, hparts⟩ := groupRail_effect (s := railOff s d) d.val (d.val - 2) hready hload
    obtain ⟨hfault', hoff'⟩ := railOff_pwr s d
    exact ⟨_, congrArg Host.Outcome.next h, hmarked, by rw [hfault]; exact hfault', by rw [hoff]; exact hoff', hstate, hparts⟩
  case ports =>
    have hval : d.val = 20 := congrArg Fin.val hd
    have h := railFault_eq hon (by omega)
    rw [if_neg (by omega), if_neg (by omega), if_pos hval] at h
    refine ⟨_, congrArg Host.Outcome.next h, ?_, fun n hn hup => portsOff_port (by decide) ?_ hup⟩
    · rw [portsOff_pwr, ← hval]
      exact (railOff_pwr s d).2
    · simp only [List.mem_cons, List.not_mem_nil, or_false]
      omega

end Sys2Proof.Proofs
end
